-- ==== Sys2Proof/Word.lean ====
section
/-! DEFINITION. The words of the module: bytes, the 32-bit register word (R7), and the sparse table of which
memories and register files are made. -/

namespace Sys2Proof

/-- A byte; byte 0 of a field is its least significant one (R6). -/
abbrev Byte := BitVec 8

/-- A BAR0 register (R7). -/
abbrev Word := BitVec 32

/-- A sparse table: keys strictly rising, no entry equal to what an unlisted key reads as. The operations are
`Machine/Tab.lean`'s. -/
abbrev Tab (α : Type) := List (Nat × α)

end Sys2Proof
end

