-- ==== Sys2Proof/Syntax.lean ====
section
/-! DEFINITION. The commands of the module: one constructor of `Instr` per row of the table of operations and events.
A packet command carries its queue and the packet that the sequencer read at the queue's submission head; an event
carries what it brings into the module from outside (samples, frames, peers' data, outcomes of training). -/

namespace Sys2Proof

/-- Table 9.1, less OPCODE, which the constructor of the command stands for. `params` is bytes 16 to 63. -/
structure Packet where
  flags       : BitVec 8
  layerId     : BitVec 16
  operatorId  : BitVec 32
  tag         : BitVec 32
  waitToken   : BitVec 16
  signalToken : BitVec 16
  params      : List Byte
deriving DecidableEq, Repr

/-- Why a ring packet could not be read (R193), for a ring in host memory; a ring in device memory answers itself. -/
inductive PacketLoss where
  | unsupportedRequest
  | completerAbort
  | poisonedCompletion
  | ringLine
deriving DecidableEq, Repr

/-- The W1C status registers of BAR0 (R301). -/
inductive StatusReg where
  | que (q : Fin 64)
  | seq | tns | plc | mem | lnk | tim | ups | pwr | thm | cnt | trc | lgr | sec
deriving DecidableEq, Repr

/-- What one power evaluation measures (R285, R288): ten 10 µs input-power samples in W, the input in 10 mV, and the 112
junction sensors in °C in the order of THM_SENSOR. -/
structure PowerReading where
  samples  : List Nat
  vin      : Nat
  junction : List Int
deriving DecidableEq, Repr

/-- The bytes of BAR0 that a read takes: the offset of the first and their number (R338). -/
structure ReadSpan where
  off : Nat
  len : Nat
deriving DecidableEq, Repr

/-- What a readout of the stacks gives, by stack (R138): the temperatures, and the command and address parity retries and on-die
ECC severity reports counted since the one before. -/
structure StackReadings where
  temps : List Int
  retries : List Nat
  reports : List Nat
deriving DecidableEq, Repr

/-- The domainNumber and sequenceId that a PTP message carries (R348). -/
structure PtpId where
  domain : Nat
  seqId : Nat
deriving DecidableEq, Repr

/-- The means of the 100 kHz power samples since the previous record (R300): 16 rails in 0.1 W, and the input in W. -/
structure RailMeans where
  rails : List Nat
  input : Nat
deriving DecidableEq, Repr

/-- A hard post-package repair (R151): where the failing row was. -/
structure Repair where
  pseudo : Fin 2
  bank   : Nat
  row    : Nat
deriving DecidableEq, Repr

/-- The margins measured on one pseudo-channel (R164, Table 7.11). -/
structure Margin where
  readEye  : BitVec 8
  writeEye : BitVec 8
  vrefLow  : BitVec 8
  vrefHigh : BitVec 8
deriving DecidableEq, Repr

/-- What stage U3 finds on one weave die: the BIST verdict of the die, the physical positions that fail BIST
(Table 8.4), and the bridge modules that fail training (R16). -/
structure DieResult where
  bistOk         : Bool
  bistFailed     : List (Fin 100)
  weaveFailed    : List (Fin 16)
  handleFailed   : List (Fin 4)
deriving DecidableEq, Repr

/-- What stage U4 finds on one stack (R165): whether its interface trains, the margins of the channels scanned, and those of the
channels scanned again after their one retraining. -/
structure StackResult where
  trains    : Bool
  margins   : List (Fin 16 × Margin × Margin)
  again     : List (Fin 16 × Margin × Margin)
  temp      : Int
deriving DecidableEq, Repr

/-- A schedule entry's fields (Table 11.5). -/
structure EntryBody where
  kind   : Nat
  arg0   : BitVec 32
  start  : Nat
  period : Nat
  count  : Nat
  arg1   : BitVec 32
deriving DecidableEq, Repr

/-- An exchange group (Table 11.4): its identifier and the seats of ranks 0 to P - 1. -/
structure XGroup where
  xgroup : Nat
  ranks  : List Nat
deriving DecidableEq, Repr

/-- The rim's policy values as a heartbeat carries them to the ribs (R278). -/
structure Policy where
  hbPeriod   : Nat
  grace      : Nat
  stormShift : Nat
  takeover   : Nat
  rollback   : Nat
deriving DecidableEq, Repr

/-- An answer to a heartbeat (R257): round, domain state and notices. -/
structure Answer where
  seat     : Nat
  round    : BitVec 32
  domain   : Nat
  frozen   : Bool
  short    : Bool
  storm    : Bool
  portsOut : Nat
deriving DecidableEq, Repr

/-- A window that the rim books (R260): the entry, its contents, and the exchange group that it serves. The bookings come
from the rim's host software and reach the rim with HEARTBEAT_PERIOD (log 14). -/
structure Booking where
  entry  : Fin 16
  body   : EntryBody
  xgroup : Nat
deriving DecidableEq, Repr

/-- What the rim has decided (R267): the code of Table 11.9 (0 for COMMIT), the round, per lost seat the
standby that takes it and the source peer, and whether it follows a reported divergence (R268). -/
structure RimDecision where
  code     : Nat
  round    : BitVec 32
  pairs    : List (Nat × Option Nat × Option Nat)
  diverged : Bool := false
deriving DecidableEq, Repr

/-- One seat as the deputy holds it (R276): its entry, its losses and reports of the round, and its checkpoints. -/
structure SeatCopy where
  seat       : Nat
  deviceId   : BitVec 64
  replicaSet : Nat
  standby    : Bool
  deputyRank : Nat
  joined     : Bool
  lost       : Bool
  exchanged  : Bool
  updated    : Bool
  diverged   : Bool
  badReplay  : Bool
  badRound   : Bool
  redone     : Bool
  portsOut   : Nat
  ckpts      : List Nat
  mac        : Option (BitVec 48)
deriving DecidableEq, Repr

/-- What the deputy holds of the rim's protocol state (R276): the seats, the groups, the seats lost in the round, the decision in
force and when it was taken, the one that is not yet acted on, the late losses, consecutive BACKs, the round's first STORM notice, the
refused devices, ASSIGN's standbys, the bookings, and the rim's own seat. -/
structure RimCopy where
  seats    : List SeatCopy
  groups   : List XGroup
  losses   : List Nat
  decision : Option RimDecision
  rimSeat  : Nat
  unacked  : Option RimDecision := none
  decided  : Nat := 0
  late     : List Nat := []
  backs    : Nat := 0
  storm    : Option Nat := none
  retired  : List (BitVec 64) := []
  forced   : List (Nat × Nat) := []
  bookings : List (Nat × Nat × Nat) := []
deriving DecidableEq, Repr

/-- A heartbeat of the rim (R257, R276, R278). `windows` are the window entries as the rim now books them, `copy` the last change of
its protocol state that the rim has sent, where the receiver is the deputy, `rim` the rim's seat. -/
structure Heartbeat where
  rim       : Nat
  policy    : Policy
  deputy    : Option Nat
  rimChange : Bool
  windows   : List (Fin 16 × EntryBody)
  copy      : Option RimCopy
deriving DecidableEq, Repr

/-- What a member reports to the rim (R260, R263, R264, R266, R274). -/
inductive ReportKind where
  | exchanged | updated | rollback | load | missed
deriving DecidableEq, Repr

/-- A report as the rim receives it; of a missed window, `absent` names the members missing and `inst` is when its instance began
(R260, R261). -/
structure Report where
  seat         : Nat
  kind         : ReportKind
  round        : BitVec 32
  diverged     : Bool
  replayFailed : Bool
  absent       : List Nat
  inst         : Nat := 0
deriving DecidableEq, Repr

/-- A decision of the rim as a member receives it (R267, R268). `takeSeat` is the seat a standby takes, with the lost
seat's replica set, groups and window entries (R269); `refused` says that the receiver itself is a device whose seat the rim has declared
lost (R253). -/
structure Decision where
  code       : Nat
  round      : BitVec 32
  lost       : Option Nat
  peer       : Option Nat
  isSource   : Bool
  diverged   : Bool := false
  takeSeat   : Option (Nat × Nat × List XGroup × List (Fin 16 × EntryBody))
  refused    : Bool := false
deriving DecidableEq, Repr

/-- PTP port states that the rim sets at JOIN (R348): 0 none, 1 MASTER, 2 SLAVE, 3 PASSIVE. -/
abbrev PtpState := Fin 4

/-- What a JOIN request says of one port of the joining device (R348): whether it is in service, the mean path delay to a master
that it has measured, whether it leads to devices that the rib serves. -/
structure PortReport where
  inService : Bool
  delay     : Option Int
  serves    : Bool
deriving DecidableEq, Repr

/-- An acceptance of a JOIN (R252): on the rim, of another device's request; on the joining device, with what the rim
writes into it. `mac` is the joining device's ID_MAC, `macs` the rim's seat list: the ID_MAC of each seat's device (R346). -/
inductive JoinAccept where
  | asRim (deviceId : BitVec 64) (domainId : BitVec 32) (locked : Bool) (ports : List PortReport) (mac : BitVec 48)
  | asMember (seat : Nat) (round : BitVec 32) (standby : Bool) (replicaSet : Nat) (groups : List XGroup)
      (windows : List (Fin 16 × EntryBody)) (ptp : List PtpState) (macs : List (Nat × BitVec 48))
deriving DecidableEq, Repr

/-- One member's part in a reduction: its rank, its bundle's bytes, and its sealed summary slot when it carries one. -/
structure Leaf where
  rank  : Nat
  bytes : List Byte
  slot  : Option (List Byte)
deriving DecidableEq, Repr

/-- How a group's transfer runs (R234, R237, R238, R239): what the other members send, whether the receiver of a BUNDLE_SEND
accepts it and the port and MAC that its frames take, or how the transfer fails. A broadcast carries the XGROUP, ROOT, OFFSET and
LENGTH of the root's own packet. -/
inductive Transfer where
  | reduce (leaves : List Leaf)
  | broadcast (xgroup root offset length : Nat) (bytes : List Byte)
  | send (accepted : Bool) (port : Fin 12) (mac : BitVec 48)
  | peerLost
  | linkIntegrity (port : Fin 12)
deriving DecidableEq, Repr

/-- Where the strands of a transfer go on the receiver (R238). The sender's CONTROL frames name it; their payload is
internal to Oxevo firmware (R346), so a frame's command carries it. -/
structure RxDest where
  handle  : BitVec 32
  base    : Nat
  length  : Nat
  rxToken : BitVec 16
deriving DecidableEq, Repr

/-- A frame as a port receives it (Tables 15.2 and 15.3). -/
structure Frame where
  dstMac    : BitVec 48
  srcMac    : BitVec 48
  etherType : BitVec 16
  length    : Nat
  vlan      : Bool
  fcsOk     : Bool
  header    : List Byte
  payload   : List Byte
  dest      : Option RxDest
deriving DecidableEq, Repr

/-- The two media of the MCTP endpoint (R343). -/
inductive Medium where
  | pcie | smbus
deriving DecidableEq, Repr

/-- A P-521 public key: its coordinates (R321). -/
structure PubKey where
  x : Nat
  y : Nat
deriving DecidableEq, Repr

/-- What an SPDM requester offers in NEGOTIATE_ALGORITHMS (R322). -/
structure SpdmAlgorithms where
  ecdsaP521  : Bool
  sha512     : Bool
  secp521r1  : Bool
  aes256gcm  : Bool
deriving DecidableEq, Repr

/-- Who opens a session in KEY_EXCHANGE: a requester key, or a requester certificate that chains to the maker root. -/
inductive Requester where
  | key (k : PubKey)
  | maker (k : PubKey)
  | anonymous
deriving DecidableEq, Repr

/-- MCTP control messages that bear on the endpoint (R343). -/
inductive MctpControl where
  | setEid (m : Medium) (eid : BitVec 8)
  | getEid (m : Medium)
  | getMessageTypes (m : Medium)
deriving DecidableEq, Repr

/-- The commands. Packet commands first, in the order of the table. An event that concerns one issued command names it by its
queue and its place in the queue's order of issue. A read of BAR0 names the bytes read, from 1 to 64. -/
inductive Instr where
  | nop (q : Fin 64) (p : Packet)
  | matmul (q : Fin 64) (p : Packet)
  | matmulAcc (q : Fin 64) (p : Packet)
  | scalePass (q : Fin 64) (p : Packet)
  | quantStore (q : Fin 64) (p : Packet)
  | vectorOp (q : Fin 64) (p : Packet)
  | norm (q : Fin 64) (p : Packet)
  | softmax (q : Fin 64) (p : Packet)
  | loss (q : Fin 64) (p : Packet)
  | copy (q : Fin 64) (p : Packet)
  | fill (q : Fin 64) (p : Packet)
  | place (q : Fin 64) (p : Packet)
  | release (q : Fin 64) (p : Packet)
  | boundsSet (q : Fin 64) (p : Packet)
  | fence (q : Fin 64) (p : Packet)
  | waitTime (q : Fin 64) (p : Packet)
  | signal (q : Fin 64) (p : Packet)
  | bundleSend (q : Fin 64) (p : Packet)
  | bundleReduce (q : Fin 64) (p : Packet)
  | bundleBroadcast (q : Fin 64) (p : Packet)
  | update (q : Fin 64) (p : Packet)
  | commit (q : Fin 64) (p : Packet)
  | ckptDrain (q : Fin 64) (p : Packet)
  | rollback (q : Fin 64) (p : Packet)
  | roundRecord (q : Fin 64) (p : Packet)
  | joinDomain (q : Fin 64) (p : Packet)
  | assignSpare (q : Fin 64) (p : Packet)
  | getHealth (q : Fin 64) (p : Packet)
  | getTelemetry (q : Fin 64) (p : Packet) (m : RailMeans)
  | setPowerCap (q : Fin 64) (p : Packet)
  | ledgerRead (q : Fin 64) (p : Packet)
  | marginScan (q : Fin 64) (p : Packet)
  | counterCfg (q : Fin 64) (p : Packet)
  | samplerCfg (q : Fin 64) (p : Packet)
  | traceArm (q : Fin 64) (p : Packet)
  | traceRead (q : Fin 64) (p : Packet)
  | roleSession (q : Fin 64) (p : Packet)
  | fwStage (q : Fin 64) (p : Packet)
  | scheduleSet (q : Fin 64) (p : Packet)
  | dumpRead (q : Fin 64) (p : Packet)
  | makerDiag (q : Fin 64) (p : Packet)
  | commandComplete (q : Fin 64) (ordinal : Nat)
  | msixHoldoffEnd (v : Fin 66)
  | sqDoorbell (q : Fin 64) (v : Word)
  | cqDoorbell (q : Fin 64) (v : Word)
  | queCtrlWrite (q : Fin 64) (v : Word)
  | queTokenSet (v : Word)
  | queTokenClear (v : Word)
  | queMgmtRead (r : ReadSpan)
  | plcDescSelWrite (v : Word)
  | cntPeekSelWrite (v : Word)
  | cntSmpLossRead (r : ReadSpan)
  | memCeLogCtrlRead (r : ReadSpan)
  | ceLogClear (v : Word)
  | timNowLoRead (r : ReadSpan)
  | trcTriggerTimeLoRead (r : ReadSpan)
  | trcDumpTimeLoRead (r : ReadSpan)
  | statusW1cWrite (r : StatusReg) (v : Word)
  | upsCfgWrite (v : Word)
  | secCtrlWrite (v : Word)
  | lnkCtrlWrite (v : Word)
  | coldReset (v : Word)
  | warmReset (v : Word)
  | warmResetQuiesced
  | recoveryProgram (v : Word)
  | recoveryLedgerRead (v : Word)
  | recoveryReseal (v : Word)
  | registerWrite (off size : Nat) (enables : Bool) (v : BitVec 64)
  | bar4Read (off len : Nat)
  | bar4Write (off : Nat) (data : List Byte)
  | powerOn (strapA strapB : Bool) (vin : Nat)
  | hostRstN
  | functionLevelReset
  | functionLevelResetDone
  | protectiveShutdown (vin : Nat)
  | brakeAssert
  | brakeRelease
  | thermTrip (sensor : Fin 112) (reading : Int)
  | sensorFault (sensor : Fin 112)
  | ppsIn
  | ppsOut
  | powerEvaluation (r : PowerReading)
  | stackTemperatureRead (r : StackReadings)
  | scrubSlot (stack : Fin 12)
  | dieLocalisation (stack : Fin 12) (line : Nat)
  | stackInterfaceLoss (stack : Fin 12)
  | retrainEvaluation (stack : Fin 12) (channel : Fin 16)
  | retrainWindow (stack : Fin 12) (channel : Fin 16)
  | channelReturn (stack : Fin 12) (repair : Option Repair) (lo hi : Margin)
  | channelOfflineLimit (stack : Fin 12)
  | rebuildComplete (stack : Fin 12)
  | migrationCopy
  | migrationResume
  | releaseFree (handle : BitVec 32)
  | seqWatchdog (n : Fin 4)
  | dumpWrite (stake : Option (Fin 2 × Fin 100))
  | transferStart (q : Fin 64) (ordinal : Nat) (t : Transfer)
  | windowGraceExpiry (q : Fin 64) (ordinal : Nat) (absent : List Nat)
  | drainStart (q : Fin 64) (ordinal : Nat) (path : Option (Fin 12 × BitVec 48))
  | commitEffect (round : BitVec 32) (seats : Nat)
  | report (r : Report)
  | decision (d : Decision)
  | deputyAcknowledge
  | joinAccept (a : JoinAccept)
  | joinTimeout
  | takeoverLimit
  | heartbeatPeriod (w : List Booking)
  | heartbeat (h : Heartbeat)
  | heartbeatAnswer (a : Answer)
  | heartbeatMissed (seat : Nat)
  | rimHeartbeatMissed (missed : Nat)
  | sync (port : Fin 12) (domain seqId : Nat)
  | delayReq (port : Fin 12) (id : PtpId)
  | delayResp (port : Fin 12) (id : PtpId) (t4 : Nat)
  | announce (port : Fin 12) (domain : Nat)
  | syncInterval (port : Fin 12)
  | holdover
  | timeLost
  | sampleInstance (entry : Fin 64) (m : RailMeans)
  | windowInstance (entry : Fin 64)
  | scrubInstance (entry : Fin 64)
  | powerCapInstance (entry : Fin 64)
  | signalInstance (entry : Fin 64)
  | marginInstance (entry : Fin 64)
  | dataFrame (port : Fin 12) (f : Frame)
  | ackFrame (port : Fin 12) (f : Frame)
  | nakFrame (port : Fin 12) (f : Frame)
  | ackTimer (port : Fin 12) (mac : BitVec 48)
  | resendTimer (port : Fin 12) (mac : BitVec 48)
  | linkTraining (port : Fin 12) (lanes : BitVec 8) (present : Bool)
  | upsettU1
  | upsettU2
  | upsettU3 (d0 d1 : DieResult)
  | upsettU4 (pair : Fin 6) (lo hi : StackResult)
  | upsettU5
  | upsettU6
  | stageLimit
  | reducedService
  | traceSummaryInterval
  | ledgerHourly
  | ledgerCompaction
  | getVersion (m : Medium)
  | getCapabilities (m : Medium)
  | negotiateAlgorithms (m : Medium) (a : SpdmAlgorithms)
  | getDigests (m : Medium)
  | getCertificate (m : Medium) (slot : Fin 8)
  | challenge (m : Medium) (slot : Fin 8)
  | getMeasurements (m : Medium) (index : BitVec 8)
  | keyExchange (m : Medium) (id : BitVec 32) (r : Requester)
  | finish (id : BitVec 32) (verified : Bool)
  | spdmHeartbeat (id : BitVec 32)
  | spdmHeartbeatMissed (id : BitVec 32)
  | keyUpdate (id : BitVec 32)
  | endSession (id : BitVec 32)
  | mctpControl (c : MctpControl)
  | getPdrRepositoryInfo (m : Medium)
  | getPdr (m : Medium) (record : Nat)
  | getSensorReading (m : Medium) (sensor : Nat)
  | getStateSensorReadings (m : Medium) (sensor : Nat)
  | setEventReceiver (m : Medium) (eid : BitVec 8)
  | opcodeUnknown (q : Fin 64) (opcode : BitVec 8) (p : Packet)
  | packetUnreadable (q : Fin 64) (why : PacketLoss)
  | recordProgrammed
  | sessionTransportFailure (id : BitVec 32)
  | linkPortDown (port : Fin 12) (lanes : BitVec 8)
  | leaveNotice (seat : Nat)
  | lostNotice (seat : Nat)
  | ckptDoneReport (seat : Nat) (round : BitVec 32)
  | followUp (port : Fin 12) (id : PtpId) (origin : Nat)
  | delayReqInterval (port : Fin 12)
  | announceInterval (port : Fin 12)
deriving DecidableEq, Repr

end Sys2Proof
end

