-- ==== Sys2Proof/Decode.lean ====
section
/-! DEFINITION. Commands from words. The table of operations gives no row any bits: a command reaches the module as a packet,
a register access or an event, never as an instruction word, so no word spells one. -/

namespace Sys2Proof

/-- The command that a word spells by the table's bits: none, since no row of the table has bits. -/
def decodeTableWord (_nbits _w : Nat) : Option Instr := none

end Sys2Proof
end

