-- ==== Sys2Proof/Machine/Tab.lean ====
section
/-! DEFINITION. Sparse tables and byte fields: the operations that every block of the state uses. A table lists its keys
in rising order and never lists an entry equal to its default. -/

namespace Sys2Proof.Machine

/-- The entry at `k`, if listed. -/
def tfind {α : Type} : Tab α → Nat → Option α
  | [], _ => none
  | (j, a) :: t, k => if j = k then some a else tfind t k

/-- The entry at `k`, `d` where none is listed. -/
def tget {α : Type} (d : α) (t : Tab α) (k : Nat) : α := (tfind t k).getD d

/-- The table without an entry at `k`. -/
def terase {α : Type} : Tab α → Nat → Tab α
  | [], _ => []
  | (j, a) :: t, k => if j = k then terase t k else (j, a) :: terase t k

/-- The table with `a` at `k`, in its place. -/
def tinsert {α : Type} : Tab α → Nat → α → Tab α
  | [], k, a => [(k, a)]
  | (j, b) :: t, k, a =>
    if k < j then (k, a) :: (j, b) :: t else if k = j then (k, a) :: t else (j, b) :: tinsert t k a

/-- Entry `k` becomes `a`; an entry equal to the default is not listed. -/
def tset {α : Type} [DecidableEq α] (d : α) (t : Tab α) (k : Nat) (a : α) : Tab α :=
  if a = d then terase t k else tinsert t k a

/-- Entry `k` becomes `f` of what it was. -/
def tmod {α : Type} [DecidableEq α] (d : α) (t : Tab α) (k : Nat) (f : α → α) : Tab α :=
  tset d t k (f (tget d t k))

/-- The keys rise strictly, and every key is above `b` where `b` names one. -/
def risingFrom {α : Type} : Option Nat → Tab α → Bool
  | _, [] => true
  | none, (k, _) :: t => risingFrom (some k) t
  | some b, (k, _) :: t => decide (b < k) && risingFrom (some k) t

/-- The canonical form: keys strictly rising, no entry equal to the default. -/
def tableWf {α : Type} [DecidableEq α] (d : α) (t : Tab α) : Bool :=
  risingFrom none t && t.all fun e => decide (e.2 ≠ d)

/-- `n` saturating at `max`. -/
def sat (max n : Nat) : Nat := if n > max then max else n

/-- The little-endian value of bytes (R6). -/
def leNat : List Byte → Nat
  | [] => 0
  | b :: t => b.toNat + 256 * leNat t

/-- The `n` little-endian bytes of a value (R6). -/
def leBytes : Nat → Nat → List Byte
  | 0, _ => []
  | n + 1, v => BitVec.ofNat 8 v :: leBytes n (v / 256)

/-- Bytes `a` to `a + n - 1` of a list, absent ones 0. -/
def slice (l : List Byte) (a n : Nat) : List Byte :=
  (l.drop a).take n ++ List.replicate (n - ((l.drop a).take n).length) 0

/-- The little-endian field of `n` bytes at byte `a`. -/
def field (l : List Byte) (a n : Nat) : Nat := leNat (slice l a n)

/-- Bits `hi:lo` of a value. -/
def bits (v hi lo : Nat) : Nat := v / 2 ^ lo % 2 ^ (hi + 1 - lo)

/-- Bit `n` of a value. -/
def bit (v n : Nat) : Bool := v / 2 ^ n % 2 == 1

/-- A Bool as a bit. -/
def b2n (b : Bool) : Nat := if b then 1 else 0

/-- `a / b` rounded up. -/
def cdiv (a b : Nat) : Nat := (a + b - 1) / b

/-- The least natural number that is at least log2 of `n`. -/
def clog2 (n : Nat) : Nat := if n ≤ 1 then 0 else Nat.log2 (n - 1) + 1

/-- The 16-bit two's complement code of an integer. -/
def int16 (i : Int) : Nat := (i % 65536).toNat

/-- The first index of `l` at which `p` holds. -/
def firstIdx {α : Type} (p : α → Bool) : List α → Option Nat
  | [] => none
  | a :: t => if p a then some 0 else (firstIdx p t).map (· + 1)

/-- `l` with entry `i` replaced by `a`. -/
def lset {α : Type} : List α → Nat → α → List α
  | [], _, _ => []
  | _ :: t, 0, a => a :: t
  | x :: t, i + 1, a => x :: lset t i a

end Sys2Proof.Machine
end

