-- ==== Sys2Proof/Machine/Crc.lean ====
section
/-! DEFINITION. CRC-32C (R159), and the frame check sequence of IEEE 802.3 (R346). -/

namespace Sys2Proof.Machine

/-- One bit of a reflected CRC whose reflected polynomial is `p`. -/
def crcBit (p c : BitVec 32) : BitVec 32 := if c.getLsbD 0 then (c >>> 1) ^^^ p else c >>> 1

/-- One byte into the CRC register. -/
def crcByte (p c : BitVec 32) (b : Byte) : BitVec 32 :=
  crcBit p (crcBit p (crcBit p (crcBit p (crcBit p (crcBit p (crcBit p (crcBit p (c ^^^ b.setWidth 32))))))))

/-- The CRC of bytes in address order. -/
def crcOver (p : BitVec 32) (l : List Byte) : BitVec 32 := l.foldl (crcByte p) 0xFFFFFFFF ^^^ 0xFFFFFFFF

/-- CRC-32C: polynomial 0x1EDC_6F41. -/
def crc32c (l : List Byte) : BitVec 32 := crcOver 0x82F63B78 l

/-- The CRC of an Ethernet frame: polynomial 0x04C1_1DB7. -/
def crc32 (l : List Byte) : BitVec 32 := crcOver 0xEDB88320 l

end Sys2Proof.Machine
end

