-- ==== Sys2Proof/Config.lean ====
section
/-! DEFINITION. The free values: what the spec leaves open, each an opaque constant with no body. Nothing can be proved of
a value of one, and a statement that holds holds for every one. -/

namespace Sys2Proof.Config

/-- A byte that a failed command leaves in a region it was to write (R199, R203): by the state's counter and the byte's
place. Free value, log 5. -/
opaque freeByte : Nat → Nat → Byte

/-- A number that the spec leaves to firmware (R213 retry-after, R244 lines already drained): by the state's counter.
Free value, log 5. -/
opaque freeNat : Nat → Nat

/-- A candidate FP32 code for a result that the spec bounds without fixing it (Table 2.11): by operation and operands. The
model takes it only within the bound. Free value, log 6. -/
opaque candidate : Nat → List Nat → Nat

/-- The burst that carries check symbol `i` (0 or 1) of a code word, which R140 leaves to the controller. The model takes it only
where it keeps what R140 says of the whole layout. Free value, log 7. -/
opaque checkBurst : Nat → Nat → Nat

/-- The power of x that data symbol `b` has in its code word, which R140 leaves open. The model takes it only where the sixteen
are the powers 2 to 17. Free value, log 7. -/
opaque dataPower : Nat → Nat

/-- What a code word decodes to where more than two of its symbols are erased and further ones are wrong, which R144 says decodes
to some bytes. Free value, log 7. -/
opaque miscorrected : Nat → List (Nat × Nat × Byte) → List Byte

/-- The junction sensor nearest to a physical position, taken modulo its die's 48 (R181): by die × 100 + position. Free
value, log 11. -/
opaque nearestSensor : Nat → Nat

/-- The 16-byte entropy that a session or an alias key draws. Free value, log 8. -/
opaque entropy : Nat → List Byte

/-- A P-521 signature made with a key that never leaves the device (R321, R332): by key number and message. Free value,
log 8. -/
opaque signature : Nat → List Byte → List Byte

/-- The device's certificates and the digests of its ROM and lifecycle fuses (R332, R333). The identity certificate is that of a
DEVICE_ID, its subject's serial number. Free values, log 8. -/
opaque rootCertificate : List Byte
opaque intermediateCertificate : List Byte
opaque identityCertificate : Nat → List Byte
opaque aliasCertificate : Nat → List Byte → List Byte
opaque measuredRom : List Byte

/-- Where in the journal's ring its oldest record lies, by the SEQ of the snapshot in use: the place of records in the ring is
not stated (R309). Free value, log 28. -/
opaque journalStart : Nat → Nat

/-- Whether a journal block fails to erase or program as a record is written to it (R309): by the block and the record's SEQ. Free
value, log 28. -/
opaque flashFails : Nat → Nat → Bool

/-- What a reseal token names when its signature verifies: a DEVICE_ID and the SEQ of the first record to discard. The layout
of a token is not stated (R331). Free value, log 29. -/
opaque resealToken : List Byte → Option (Nat × Nat)

/-- The payload bytes of a trace record, by its type and the values that Table 13.9 names for it; their places are not stated.
Free value, log 15. -/
opaque tracePayload : Nat → List Nat → List Byte

/-- How far a counter whose unit is a matter of timing (cycles, stalls, core time, refreshes, preemptions), or whose share for a stake the
spec does not state (vector operations, operand-store reads, strand checks outside matrix commands), moves on in a ns of rim time, by its
key and that ns; the present value of the gauge LOAD: the model has no clock cycles. Free value, log 61. -/
opaque timedCounter : Nat → Nat → Nat

/-- Whether the flash fails as a chunk of an image is programmed (R330, Table 14.10), by the chunk and a fresh number. Free value,
log 29. -/
opaque programFails : Nat → Nat → Bool

/-- Which use of Table 1.5 a word of the handle die's SRAM serves, modulo 4: the places of the parts are not stated (R19). Free value,
log 61. -/
opaque handleUse : Nat → Nat

/-- The bytes of one entry of a dump region, by region, index and the values that Table 13.13 names for it; their places are not
stated, and neither is what the array holds of a pass. Free value, log 16. -/
opaque dumpEntry : Nat → Nat → List Nat → List Byte

end Sys2Proof.Config
end

