-- ==== Sys2Proof/Machine/Code.lean ====
section
/-! DEFINITION. The code of a line (R140, R141, Table 7.3): the field, the codewords, and what a line's wrong symbols decode to.
The code is linear, so that a decode depends only on the symbols that differ from the codeword written. -/

namespace Sys2Proof.Machine

/-- The distinct elements of a list. -/
def distinct : List Nat → List Nat
  | [] => []
  | a :: t => if t.contains a then distinct t else a :: distinct t

/-! ### GF(2⁸) modulo 0x11D, with α = x -/

def gfTimesX (a : Byte) : Byte := if a.getLsbD 7 then (a <<< 1) ^^^ 0x1D else a <<< 1

/-- α to a power. -/
def gfPow : Nat → Byte
  | 0 => 1
  | n + 1 => gfTimesX (gfPow n)

def gfMul (a b : Byte) : Byte :=
  [7, 6, 5, 4, 3, 2, 1, 0].foldl (fun r i => gfTimesX r ^^^ (if b.getLsbD i then a else 0)) 0

/-- The inverse of a non-zero element, its 254th power. -/
def gfInv (a : Byte) : Byte :=
  ((List.range 7).foldl (fun (p : Byte × Byte) _ => let q := gfMul p.1 p.1; (q, gfMul p.2 q)) (a, 1)).2

/-! ### Codewords -/

/-- Whether a layout of the check symbols keeps R140: no burst carries both of one codeword, and each burst carries four. -/
def layoutOk (f : Nat → Nat → Nat) : Bool :=
  (List.range 32).all (fun j => f j 0 < 16 && f j 1 < 16 && f j 0 ≠ f j 1) &&
    (List.range 16).all fun b => ((List.range 32).countP fun j => f j 0 == b || f j 1 == b) == 4

/-- The burst whose ECC pins carry check symbol `i` of codeword `j`: the controller's layout, which keeps R140. -/
def checkPlace (j i : Nat) : Nat := if layoutOk Config.checkBurst then Config.checkBurst j i else (2 * j + i) % 16

/-- Whether sixteen data symbols take the powers 2 to 17. -/
def powersOk (f : Nat → Nat) : Bool := (List.range 16).all fun n => (List.range 16).any fun b => f b == n + 2

/-- The power of x of symbol `i` of a codeword: the check symbols are the remainder, at powers 0 and 1. -/
def symbolPower (i : Nat) : Nat :=
  if 16 ≤ i then i - 16 else if powersOk Config.dataPower then Config.dataPower i else i + 2

/-- The burst of a symbol: data symbol b lies on burst b. -/
def symbolBurst (j i : Nat) : Nat := if i < 16 then i else checkPlace j (i - 16)

/-- The check symbols of a codeword: the two values for which it has the roots α⁰ and α¹ of the generator. -/
def checkSymbols (data : Nat → Byte) : Byte × Byte :=
  let a := (List.range 16).foldl (fun r b => r ^^^ data b) 0
  let b := (List.range 16).foldl (fun r b => r ^^^ gfMul (data b) (gfPow (symbolPower b))) 0
  let c := gfMul (a ^^^ b) (gfInv 3)
  (a ^^^ c, c)

/-- The wrong symbols of one codeword: symbol and difference. -/
abbrev Errors := List (Nat × Byte)

/-- The values at α⁰ and α¹. -/
def syndromes (e : Errors) : Byte × Byte :=
  e.foldl (fun r x => (r.1 ^^^ x.2, r.2 ^^^ gfMul x.2 (gfPow (symbolPower x.1)))) (0, 0)

/-- The difference of symbol `i`. -/
def Errors.at (e : Errors) (i : Nat) : Byte := e.foldl (fun r x => if x.1 = i then r ^^^ x.2 else r) 0

/-- The wrong symbols of codeword `j` among a line's stored differences, symbol by symbol. -/
def wordErrors (fs : List (Nat × Nat × Byte)) (j : Nat) : Errors :=
  let e : Errors := fs.filterMap fun f => if f.1 = j then some (f.2.1, f.2.2) else none
  (List.range 18).filterMap fun i => if e.at i = 0 then none else some (i, e.at i)

/-- The codewords of a line with wrong symbols. -/
def wrongWords (fs : List (Nat × Nat × Byte)) : List (Nat × Errors) :=
  (List.range 32).filterMap fun j => if (wordErrors fs j).isEmpty then none else some (j, wordErrors fs j)

/-- One codeword decoded alone: what the decoder changes, or nothing for an uncorrectable pattern. One wrong symbol is located
and two are detected (Table 7.3); more give what their syndromes say. -/
def decodeAlone (e : Errors) : Option Errors :=
  if e.length ≤ 1 then some e
  else if e.length = 2 then none
  else
    let (a, b) := syndromes e
    if a = 0 && b = 0 then some []
    else ((List.range 18).find? fun i => a ≠ 0 && b == gfMul a (gfPow (symbolPower i))).map fun i => [(i, a)]

/-- What stays wrong of a codeword's data symbols after the changes `c`. -/
def leftWrong (e c : Errors) : Errors :=
  (List.range 16).filterMap fun i => if e.at i = c.at i then none else some (i, e.at i ^^^ c.at i)

/-- Codeword `j` of line `id` decoded with bursts erased: what stays wrong of its data, or nothing where the code detects an
error. With one symbol lost the code checks the rest, with two it restores them unchecked. -/
def decodeLost (id : Nat) (erased : List Nat) (j : Nat) (e : Errors) : Option Errors :=
  let lost := (List.range 18).filter fun i => erased.contains (symbolBurst j i)
  let (a, b) := syndromes e
  if e.all fun x => lost.contains x.1 then some []
  else
    match lost with
    | [] => none
    | [p] => if b = gfMul a (gfPow (symbolPower p)) then some (leftWrong e [(p, a)]) else none
    | [p, q] =>
      let x := gfPow (symbolPower p)
      let v := gfMul (b ^^^ gfMul a x) (gfInv (x ^^^ gfPow (symbolPower q)))
      some (leftWrong e [(p, a ^^^ v), (q, v)])
    | _ =>
      let free := Config.miscorrected id (e.map fun x => (j, x.1, x.2))
      some ((List.range 16).filterMap fun i =>
        let d := if lost.contains i then free.getD i 0 else e.at i
        if d = 0 then none else some (i, d))

/-! ### Lines -/

/-- What a line's decode gives: nothing wrong; the codewords that the decoder changed, the bursts it located errors in, the
bytes that are still wrong (none within the code's capability) and whether a burst was erased; or an uncorrectable pattern. -/
inductive Decoded where
  | clean
  | decoded (words : Nat) (bursts : List Nat) (wrong : List (Nat × Byte)) (erasure : Bool)
  | uncorrectable
deriving DecidableEq, Repr

/-- The data byte of symbol b of codeword j is byte j of burst b. -/
def wrongBytes (l : List (Nat × Errors)) : List (Nat × Byte) := l.flatMap fun w => w.2.map fun x => (32 * x.1 + w.1, x.2)

/-- A line decoded with bursts erased. -/
def decodeErased (id : Nat) (erased : List Nat) (fs : List (Nat × Nat × Byte)) : Decoded :=
  let l := (wrongWords fs).map fun w => (w.1, decodeLost id erased w.1 w.2)
  if l.all fun w => w.2.isSome then .decoded 0 [] (wrongBytes (l.map fun w => (w.1, w.2.getD []))) true else .uncorrectable

/-- A line decoded with no burst erased (R141): each codeword alone, and where patterns remain and every located error lies in
one burst, again with that burst erased. An error confined to one burst is corrected (Table 7.3). -/
def decodePlain (id : Nat) (fs : List (Nat × Nat × Byte)) : Decoded :=
  let ws := wrongWords fs
  let bursts := distinct (ws.flatMap fun w => w.2.map fun x => symbolBurst w.1 x.1)
  if ws.isEmpty then .clean
  else if bursts.length ≤ 1 then .decoded ws.length bursts [] false
  else
    let l := ws.map fun w => (w, decodeAlone w.2)
    let located := distinct (l.flatMap fun r => (r.2.getD []).map fun x => symbolBurst r.1.1 x.1)
    if l.all fun r => r.2.isSome then
      .decoded (l.countP fun r => r.2 ≠ some []) located (wrongBytes (l.map fun r => (r.1.1, leftWrong r.1.2 (r.2.getD [])))) false
    else
      match located with
      | [b] =>
        (match decodeErased id [b] fs with
         | .decoded _ _ wrong _ => .decoded ws.length [b] wrong true
         | d => d)
      | _ => .uncorrectable

/-- A line's bytes with some of them changed. -/
def changeBytes (l : List Byte) (wrong : List (Nat × Byte)) : List Byte :=
  wrong.foldl (fun l e => lset l e.1 (l.getD e.1 0 ^^^ e.2)) l

end Sys2Proof.Machine
end

