-- ==== Sys2Proof/Machine/State.lean ====
section
/-! DEFINITION. The state of one Ronys module as plain data, block by block, and its value right after a cold reset.
Sparse tables list only the entries that differ from their default; the default of each is named in its field's comment. -/

namespace Sys2Proof.Machine

/-- Why the module stops with a fault. -/
inductive Fault where
  /-- No command raises it: every failure the spec describes is a status, a register bit or a state of the device, and the
  device goes on (R203, R215, R279, R289). Kept so that the outcome type has a fault; safe. -/
  | none
deriving DecidableEq, Repr

/-- Why a command has no meaning. -/
inductive Refusal where
  /-- The command's arm has no meaning yet; raised by `exec` only; safe, since nothing can be proved of the command. -/
  | notModelled (mnemonic : String)
deriving DecidableEq, Repr

/-- A W1C status group (R301): bit i of the group, and its saturating set count (default 0). -/
structure Status where
  bits : BitVec 8 := 0
  sets : Tab Nat := []
deriving DecidableEq, Repr

/-- Roles (R318), in ascending order of rights. -/
inductive Role where
  | none | operator | installer | maker
deriving DecidableEq, Repr

/-- Who holds a session or a binding: an enrolled slot's key (16 is the installer slot), or the maker's certificate. -/
inductive KeyHolder where
  | slot (n : Nat)
  | maker
deriving DecidableEq, Repr

/-- A queue's role binding (R323). -/
structure Binding where
  session : BitVec 32
  role    : Role
  holder  : KeyHolder
  key     : PubKey
deriving DecidableEq, Repr

/-- What the module knows of the packet at the head of a ring in host memory once it has come and waits: the queue's count of issues then,
FENCE_BEFORE, and WAIT_TOKEN. -/
structure HeadSeen where
  ordinal : Nat
  fence   : Bool
  token   : Nat
deriving DecidableEq, Repr

/-- One queue (Tables 9.16 to 9.19). `status` bits: 0 DB_ERR, 1 CFG_REJECT, 2 CQ_ERR, 3 STOPPED. `issued` counts the
commands issued; QUE_RETIRED follows from it and the commands in flight. -/
structure Queue where
  enable      : Bool := false
  loc         : Bool := false
  seqr        : Nat := 0
  priority    : Nat := 0
  stopOnError : Bool := false
  sqLog2      : Nat := 4
  cqLog2      : Nat := 4
  sqBase      : BitVec 64 := 0
  cqBase      : BitVec 64 := 0
  sqHandle    : BitVec 32 := 0
  cqHandle    : BitVec 32 := 0
  sqHead      : Nat := 0
  sqTail      : Nat := 0
  cqTail      : Nat := 0
  cqHead      : Nat := 0
  phase       : Bool := true
  issued      : Nat := 0
  status      : Status := {}
  head        : Option HeadSeen := none
  binding     : Option Binding := none
deriving DecidableEq, Repr

/-- The QUE_ block: queues (default `{}`), token slots (default false, R198), bound slots keyed queue × 64 + slot (default
0, R134), the management queue's peak occupancy, whether a function-level reset is still
completing (R216), and the last 1,024 replies, oldest first (Table 13.13). -/
structure Que where
  queues  : Tab Queue := []
  tokens  : Tab Bool := []
  bounds  : Tab Word := []
  peak    : Nat := 0
  flr     : Bool := false
  replies : List (List Byte) := []
deriving DecidableEq, Repr

/-- One weave sequencer (R218) with what R297 and the sample record need of its last two issues. -/
structure Sequencer where
  lastQueue    : Nat := 0
  lastOpcode   : Nat := 0
  lastTag      : BitVec 32 := 0
  issued       : Nat := 0
  layer        : BitVec 16 := 0xFFFF
  operatorId   : BitVec 32 := 0xFFFFFFFF
  prevLayer    : BitVec 16 := 0xFFFF
  prevOperator : BitVec 32 := 0xFFFFFFFF
  lastIssueAt  : Option Nat := none
deriving DecidableEq, Repr

/-- The SEQ_ block (default sequencer `{}`); `status` bits 0 to 3 are HUNG; `frozen` holds from a hang to a warm or cold
reset (R215), with the rim time of the freeze. `acting` is the model's own: the LAYER_ID of the command under way, which the trace
records that it causes carry (Table 13.8); `starting` is the model's own too: the queued command that firmware now starts. -/
structure Seq where
  seqs       : Tab Sequencer := []
  wdog       : Nat := 10000
  status     : Status := {}
  frozen     : Bool := false
  freezeTime : Nat := 0
  acting     : BitVec 16 := 0xFFFF
  starting   : Option Nat := none
deriving DecidableEq, Repr

/-- The tension statistics of one layer and kind (Table 5.2). `hist` has bins 0 to 7 (default 0); `shadowErrMax` is the
FP32 code. -/
structure TStats where
  tiles           : Nat := 0
  reweaveTiles    : Nat := 0
  reweaves        : Nat := 0
  borderOvf       : Nat := 0
  runlossTrig     : Nat := 0
  shadowTaken     : Nat := 0
  shadowDisagree  : Nat := 0
  shadowNonfinite : Nat := 0
  borderPeak      : Nat := 0
  shadowErrMax    : Nat := 0
  elements        : Nat := 0
  saturations     : Nat := 0
  runLoss         : Nat := 0
  borderEntries   : Nat := 0
  outElems        : Nat := 0
  underflows      : Nat := 0
  hist            : Tab Nat := []
deriving DecidableEq, Repr

/-- A summary record (Table 5.7): the layer and kind it names, byte 3 (effective index and rung), the round, the statistics. -/
structure SumRec where
  layer : Nat := 0
  kind  : Nat := 0
  byte3 : Nat := 0
  round : Nat := 0
  stats : TStats := {}
deriving DecidableEq, Repr

/-- A tension summary (Tables 5.6 and 5.7); records are keyed layer × 4 + kind, and a record not listed has zero counts. -/
structure Summary where
  round         : Nat := 0
  layerCount    : Nat := 0
  replicas      : Nat := 0
  storm         : Bool := false
  roundReweaves : Nat := 0
  late          : Nat := 0
  floor         : Nat := 0
  recs          : Tab SumRec := []
deriving DecidableEq, Repr

/-- One layer's registers (Tables 5.15 to 5.18), as words; the CUR field of a ladder word is held at zero here. -/
structure LayerCfg where
  fwd       : Word := 0xA
  bwdD      : Word := 0xA
  bwdW      : Word := 0xA
  policy    : Word := 0x0A040010
  upThr     : Word := 0x20000400
  cleanThr  : Word := 0x04000040
  shadowTol : Word := 0x3C23D70A
  runloss   : Word := 0x00F80100
deriving DecidableEq, Repr

/-- The staged part of the TNS_ configuration (R116); layers not listed hold `{}`. -/
structure TnsCfg where
  ctrl       : Word := 0x60F
  budget     : Word := 0x1000
  decay      : Word := 0
  layerCount : Word := 0x1000
  sumHandle  : Word := 0
  sumOffLo   : Word := 0
  sumOffHi   : Word := 0
  layers     : Tab LayerCfg := []
deriving DecidableEq, Repr

/-- The ladder state of one layer and kind (R113). -/
structure Ladder where
  cur   : Nat := 0
  clean : Nat := 0
  tiles : Nat := 0
  rw    : Nat := 0
  shad  : Nat := 0
  dis   : Nat := 0
deriving DecidableEq, Repr

/-- The TNS_ block and the round. Ladders are keyed layer × 3 + kind (default `{}`), local statistics layer × 4 + kind
(default `{}`). `status` bits: 0 STORM, 1 DIVERGED. `sealed` is the round's sealed local summary (slot 0), `held` the reduced
summary held until the COMMIT, `heldDiverged` its divergence mark, `last` the reduced summary of the last committed round
(slot 1). `latched` and `everLatched`: the staged copy has been latched since the last upsett, and since the last cold
reset. `compareOk` and `compareBad` are the outcomes of the loaded round's compares (R275). -/
structure Tns where
  staged        : TnsCfg := {}
  active        : TnsCfg := {}
  latched       : Bool := false
  everLatched   : Bool := false
  ladders       : Tab Ladder := []
  floor         : Nat := 0
  stormFree     : Nat := 0
  roundReweaves : Nat := 0
  stormRaised   : Bool := false
  statistics    : Tab TStats := []
  late          : Nat := 0
  sealed        : Option Summary := none
  held          : Option Summary := none
  heldDiverged  : Bool := false
  last          : Summary := {}
  status        : Status := {}
  round         : BitVec 32 := 0
  rsSeed        : BitVec 64 := 0
  verify        : Bool := false
  compareOk     : Bool := false
  compareBad    : Bool := false
deriving DecidableEq, Repr

/-- A 16-byte destination (chapter 13, "The sampler"): a bus address, or a handle and a byte offset. -/
inductive Dest where
  | host (address : Nat)
  | device (handle : BitVec 32) (offset : Nat)
deriving DecidableEq, Repr

/-- What a role action does once its record exists (R325). -/
inductive Action where
  | bind (b : Binding)
  | unbind
  | addKey (slot : Nat) (k : PubKey)
  | removeKey (slot : Nat)
  | claim (k : PubKey)
  | releaseOwner
  | cap (watts : Nat) (persist : Bool)
  | marginScan (channels : List (Nat × Nat)) (handle : BitVec 32) (offset : Nat)
  | fwStage (slot : Bool) (image : List Byte)
  | fwActivate (slot : Bool)
  | fwCommit (svn : Nat)
  | schedule (entry : Nat) (body : Option EntryBody)
  | makerDiag (function arg : Nat) (dest : Option Dest)
deriving DecidableEq, Repr

/-- What takes place when an appended ledger record exists (R311, R325). -/
inductive Effect where
  | nothing
  | command (id : Nat) (a : Action)
  | upsCfg (v : Word)
  | rsSeedLo (v : Word)
  | rsSeedHi (v : Word)
  | pwrCtrl (v : Word)
  | thmCtrl (v : Word)
  | secCtrl (v : Word)
  | reset (warm : Bool)
deriving DecidableEq, Repr

/-- One entry of a CKPT_DRAIN (Table 10.9). -/
structure DrainEntry where
  handle : BitVec 32
  offset : Nat
  length : Nat
  dst    : Nat
deriving DecidableEq, Repr

/-- What a CKPT_DRAIN copies (Table 10.9): to host memory, or to a handle of another member. -/
structure DrainPlan where
  member  : Option Nat
  remote  : BitVec 32
  crcDest : Nat
  window  : Nat
  entries : List DrainEntry
deriving DecidableEq, Repr

/-- What an issued command still waits for before it can complete (R199). -/
inductive Wait where
  /-- nothing more: COMMAND_COMPLETE completes it -/
  | done
  /-- a path-F command that has been handed off and not started (R214), with the rail means that it brought (R300) -/
  | queued (m : Option RailMeans)
  /-- FENCE: the earlier commands of its queue, or of the device (R212) -/
  | fence (device : Bool)
  /-- WAIT_TIME (R212) -/
  | untilTime (t : Nat)
  /-- RELEASE: its handle's lines are freed (R173) -/
  | released (handle : BitVec 32)
  /-- ROUND_RECORD LOAD: every command issued before it (R274) -/
  | load
  /-- an exchange command: its transfer, with the start and end in ns of the instance of its window that it uses (R260) -/
  | exchange (inst : Option (Nat × Nat))
  /-- a member's COMMIT: the rim's acknowledgement or decision (R263) -/
  | commit (updated : Bool)
  /-- JOIN: acceptance, before the deadline (R252) -/
  | join (deadline : Nat)
  /-- ASSIGN_SPARE WAIT: assignment (R270) -/
  | assign
  /-- ASSIGN_SPARE POOL_ADD: the device's JOIN (R270) -/
  | poolAdd (deviceId : BitVec 64)
  /-- a role action's record (R325) -/
  | record
  /-- FW_STAGE's STAGE: the image is being programmed into the slot and verified from there (R329) -/
  | staging (slot : Bool) (image : List Byte)
  /-- MARGIN_SCAN: channels still to scan (R164), records written, records below the minimum -/
  | margins (left : List (Nat × Nat)) (handle : BitVec 32) (offset : Nat) (written below : Nat)
  /-- CKPT_DRAIN: whether its first line has been read (R244), whether its policy is ABANDON (R245), what it copies, and the
  instance of its window (R239) -/
  | drain (started abandon : Bool) (plan : DrainPlan) (inst : Option (Nat × Nat))
deriving DecidableEq, Repr

/-- A command issued and not completed (R197, R199). `ordinal` is its place in its queue, `orphan` marks a command that a
function-level reset lets finish without reply or token (R216). `steps` is its progress count (R307), `stats` are its statistics by layer × 4 + kind, `regions` the output regions whose
contents are open should a warm reset abandon it (R291). -/
structure InFlight where
  id        : Nat
  queue     : Nat
  ordinal   : Nat
  slot      : Nat
  seqr      : Nat
  opcode    : Nat
  packet    : Packet
  firmware  : Bool
  round     : BitVec 32
  issuedAt  : Nat
  progress  : Nat
  steps     : Nat
  wait      : Wait
  status    : BitVec 16
  detail    : BitVec 64
  rewoven   : Bool
  stats     : Tab TStats
  names     : List (BitVec 32)
  writes    : List (BitVec 32)
  regions   : List (BitVec 32 × Nat × Nat)
  orphan    : Bool
deriving DecidableEq, Repr

/-- Where a word of on-die SRAM is (R163): a stake's coil, vector scratch or operand store, a line of a hoop store, a check
line in its die's check cache, or the handle die. -/
inductive SramPlace where
  | coil (stake : Nat)
  | scratch (stake : Nat)
  | operand (stake : Nat)
  | hoop (line : Nat)
  | check (line : Nat)
  | handleDie
deriving DecidableEq, Repr

/-- A word of SRAM with a single-bit or a double-bit error that no read has met yet, by its offset in its store (R163). -/
structure SramError where
  place  : SramPlace
  word   : Nat
  double : Bool
deriving DecidableEq, Repr

/-- What the stores hold. A line's identity is stack × 46,875,000 + line for HBM3 and
12 × 46,875,000 + hoop × 16,384 + line for a hoop store; a byte's address is line × 512 + byte. `cells` (default 0) are the
payload bytes last written, `valid` the lines written, `crcXor` (default 0) a line's CRC word against its payload's CRC-32C,
`faults` (default none) the stored symbols that differ from the code word written: (codeword, symbol, difference), symbols
0 to 15 data and 16, 17 check; `sram` the words of on-die SRAM in error (R163); `made` (default 0) the last point at which the
strand of a hoop-store line was made or verified good (R162). -/
structure Store where
  cells  : List Host.Cell := []
  valid  : List Nat := []
  crcXor : Tab (BitVec 32) := []
  faults : Tab (List (Nat × Nat × Byte)) := []
  sram   : List SramError := []
  made   : Tab Nat := []
deriving DecidableEq, Repr

/-- Stack health (Table 7.4). -/
inductive Health where
  | healthy | localising | degraded | retraining | failed
deriving DecidableEq, Repr

/-- One stack. `offline` is the channel offline now, `rebuilding` the channel whose lines are being rebuilt, `journal` the
groups journaled, `poison` the ranges of data lines, `burstCe` (default 0) the corrected bursts per channel since the last
evaluation, `booked` the channels booked for a retrain. -/
structure Stack where
  health     : Health := .healthy
  trained    : Bool := false
  failedDie  : Option Nat := none
  failedChan : Option Nat := none
  offline    : Option Nat := none
  offlineAt  : Nat := 0
  rebuilding : Option Nat := none
  journal    : List Nat := []
  poison     : List (Nat × Nat) := []
  ce         : Nat := 0
  uncorr     : Nat := 0
  pprUsed    : Nat := 0
  scrubLine  : Nat := 0
  lastScrub  : Option Nat := none
  burstCe    : Tab Nat := []
  evaluated  : Tab Nat := []
  booked     : List Nat := []
deriving DecidableEq, Repr

/-- An entry of the correctable-error table (Table 7.16), with the line that it stands for (R143). -/
structure CeEntry where
  line      : Nat
  handle    : BitVec 32
  offset    : Nat
  codewords : Nat
  scrub     : Bool
  hits      : Nat
deriving DecidableEq, Repr

/-- A check line or valid line that its die's check cache holds (R157). -/
structure CheckLine where
  line  : Nat
  dirty : Bool
deriving DecidableEq, Repr

/-- A write that the retrain journal holds (R150); `bar4` says that it is the host's, through BAR4, and `reply` names the queue whose
reply it is: such a one is placed at the completion tail when it is made (R202). -/
structure HeldWrite where
  handle : BitVec 32
  offset : Nat
  bytes  : List Byte
  bar4   : Bool
  reply  : Option Nat := none
deriving DecidableEq, Repr

/-- The MEM_ block. `caches` holds each weave die's check cache (R157, default empty, at most 4,096 lines); `journalOver` is the
model's own: it is set when an operation under way needs a journal entry and the journal is full (R150), and such an operation
is held as a whole. `heldWrites` are the writes of the host, of replies and of events that wait for the channel (R150), oldest
first. `scrubNow` is the interval in force until the next slot. `strandFails` counts strand failures per DETECTED
code since the last ERROR_TOTALS record (default 0). `status` bits: 0 UNCORR, 1 DIE_FAILED, 2 STACK_FAILED, 3 CRC_MISMATCH. Stacks default `{}`. -/
structure Mem where
  ctrl          : Word := 6
  status        : Status := {}
  scrubInterval : Nat := 2000
  scrubNow      : Nat := 2000
  retrainThresh : Nat := 64
  failLimit     : Nat := 64
  ceTable       : List CeEntry := []
  ceOverflow    : Nat := 0
  stackTab      : Tab Stack := []
  lastTempRead  : Nat := 0
  strandFails   : Tab Nat := []
  caches        : Tab (List CheckLine) := []
  journalOver   : Bool := false
  heldWrites    : List HeldWrite := []
deriving DecidableEq, Repr

/-- Where a tensor's lines are (R177, R178). -/
inductive Location where
  | across (members : List Nat) (rot base : Nat)
  | hoop (hoop base : Nat)
deriving DecidableEq, Repr

/-- Descriptor states (Table 8.3). -/
inductive DescState where
  | live | migrating | releasing
deriving DecidableEq, Repr

/-- A warp map descriptor (Table 8.3). -/
structure Desc where
  handle     : BitVec 32
  state      : DescState
  cls        : Nat
  residentOk : Bool
  pin        : Bool
  rank       : Nat
  format     : Nat
  size       : Nat
  dims       : List Nat
  affCount   : Nat
  affinity   : List (BitVec 16)
  writeGen   : BitVec 32
  epoch      : Nat
  traffic    : Nat
  location   : Location
deriving DecidableEq, Repr

/-- A migration copy (R187): the descriptor's index, the new location, the next tensor line; `stopped` by a warm reset. -/
structure Migration where
  index    : Nat
  newLoc   : Location
  pointer  : Nat
  stopped  : Bool
deriving DecidableEq, Repr

/-- The PLC_ block. The registers as written, and the values in force where a write waits for the next round boundary
(R188). `status` bits: 0 RETIRED, 1 MIG_STUCK, 2 SHORT. Positions are die × 100 + position. `spares` maps die × 4 + group to
the global logical stake its spare stands in for. Tags default 0, running traffic default 0. `heat` sums the readings of each
junction sensor since the last round boundary (default 0) and `heatN` counts them (R181); `dbes` holds per physical position
(default none) the rim times of its stores' double-bit errors (Table 8.4). -/
structure Plc where
  ctrl        : Word := 0x00080407
  migBudget   : Word := 0x20
  resLimit    : Word := 0x01000400
  retireLimit : Word := 4
  ctrlNow     : Word := 0x00080407
  budgetNow   : Word := 0x20
  shareNow    : Nat := 0x400
  retireNow   : Nat := 4
  status      : Status := {}
  epoch       : Nat := 0
  map         : Tab Desc := []
  tags        : Tab Nat := []
  running     : Tab Nat := []
  placed      : Nat := 0
  retired     : List Nat := []
  marked      : List (Nat × Nat) := []
  spares      : Tab Nat := []
  descSel     : Nat := 0
  descData    : List Byte := []
  current     : Option Migration := none
  taken       : List (Nat × Location) := []
  pendingMig  : Nat := 0
  heat        : Tab Int := []
  heatN       : Nat := 0
  dbes        : Tab (List Nat) := []
deriving DecidableEq, Repr

/-- Domain roles (R246). -/
inductive DomainRole where
  | standalone | rib | rim
deriving DecidableEq, Repr

/-- Domain states (Table 11.17). -/
inductive DomainState where
  | detached | joining | member | standby | halted
deriving DecidableEq, Repr

/-- Rim-time states (Table 11.17). -/
inductive TimeState where
  | free | locked | slewing | holdover | lost
deriving DecidableEq, Repr

/-- The TIM_ block and the member's side of the rim protocol. `status` bits: 0 STEP, 1 TIME_LOST, 2 TAKEOVER,
3 RIM_CHANGE. `abort` is an abort decision of the round that a COMMIT still meets (R268), `sourceOnce` that the source peer's
next COMMIT (UPDATED) completes with PEER_LOST, `tookSeat` that a standby has taken its seat and not yet committed,
`decided` the decision of the round that the member already holds (R277), `ppsOut` when the last pulse of PPS_OUT began. `slew` is
what is still to be slewed of the last offset, `rimChanged` that the rim has changed since the last synchronisation (R255), `barred`
that the device's seat has been lost and it has not joined again (R253), `rimSeat` the rim's seat, `copy` the deputy's copy of the
rim's state (R276), `macs` the ID_MAC of each seat's device as the rim's seat list has it (R346), `owed` maps a schedule entry to contents that were replaced with an instance due and not yet fired (R259). -/
structure Tim where
  now        : Nat := 0
  nowHi      : Word := 0
  role       : DomainRole := .standalone
  domain     : DomainState := .detached
  time       : TimeState := .free
  deputy     : Bool := false
  ppsLock    : Bool := false
  seat       : Nat := 0
  status     : Status := {}
  offset     : Int := 0
  lastSync   : Nat := 0
  holdAt     : Nat := 0
  domainId   : BitVec 32 := 0
  takeover   : Word := 0
  epoch      : BitVec 64 := 0
  policy     : Policy := { hbPeriod := 1000, grace := 10000, stormShift := 1000000, takeover := 2000, rollback := 3 }
  policyNext : Option Policy := none
  replicaSet : Nat := 0
  groups     : List XGroup := []
  exchanged  : Bool := false
  updated    : Bool := false
  abort      : Option (BitVec 64) := none
  abortDiv   : Bool := false
  sourceOnce : Option (BitVec 64) := none
  tookSeat   : Bool := false
  lastHb     : Nat := 0
  decided    : Option (BitVec 64) := none
  stormNote  : Bool := false
  ppsOut     : Option Nat := none
  slew       : Int := 0
  rimChanged : Bool := false
  barred     : Bool := false
  rimSeat    : Nat := 0
  copy       : Option RimCopy := none
  macs       : Tab (BitVec 48) := []
  owed       : Tab EntryBody := []
deriving DecidableEq, Repr

/-- One seat as the rim keeps it (R249, R257, R264, R273). -/
structure Member where
  deviceId   : BitVec 64
  replicaSet : Nat
  standby    : Bool
  deputyRank : Nat
  joined     : Bool := false
  lost       : Bool := false
  exchanged  : Bool := false
  updated    : Bool := false
  diverged   : Bool := false
  badReplay  : Bool := false
  badRound   : Bool := false
  redone     : Bool := false
  misses     : Nat := 0
  awaiting   : Bool := false
  portsOut   : Nat := 0
  ckpts      : List Nat := []
deriving DecidableEq, Repr

/-- The rim's table: seats (keyed by seat), groups, losses of the round, the decision in force, the decision or commit
that waits for the deputy (R276), and when the round's storm was first reported (R261). `forced` maps a seat to the standby that
ASSIGN names for it, `late` holds seats lost after the commit decision, `bookings` maps a window entry to the exchange group that it
serves and its duration as booked (default (0, 0)), `sent` is what the deputy was last sent (R276). -/
structure Rim where
  seats      : Tab Member := []
  groups     : List XGroup := []
  losses     : List Nat := []
  decision   : Option RimDecision := none
  decidedAt  : Nat := 0
  unacked    : Option RimDecision := none
  backs      : Nat := 0
  stretched  : Option Nat := none
  lastHbSent : Nat := 0
  retired    : List (BitVec 64) := []
  forced     : Tab Nat := []
  late       : List Nat := []
  bookings   : Tab (Nat × Nat) := []
  sent       : Option RimCopy := none
deriving DecidableEq, Repr

/-- A schedule entry in the table: its body, the next instance to fire, and the start and end of the window instance that opened
last. -/
structure Sched where
  body   : EntryBody
  next   : Nat
  opened : Option (Nat × Nat) := none
deriving DecidableEq, Repr

/-- One power evaluation of the last ten (R285, R288): whether P_e was within the margin, whether the thermal condition
held, whether the up-step temperatures held. -/
structure EvalRec where
  within  : Bool
  thermal : Bool
  cool    : Bool
deriving DecidableEq, Repr

/-- The PWR_ and THM_ blocks. `pwrStatus` bits: 0 CAP_LIMITED, 1 BRAKE, 2 VIN_WARN; `thmStatus` bits: 0 LIMITED,
1 HBM_LIMITED, 2 SENSOR_FAULT. `sensors` and `hbm` default 0 °C. `upMargin` and
`thmCtrl` are the registers as they read, `upRec` and `thmRec` what the ledger has recorded of them (R325), `upNow` and `thmNow`
what the last evaluation took. `lastEval` is one more than the instant of the last
evaluation; `life` the ns of service per bin of LIFETIME (Table 13.15) since its last record: 0 to 12 clock steps, 13 to 18
junction bins, 19 to 24 stack bins. -/
structure Pwr where
  cap        : Nat := 1500
  persisted  : Option Nat := none
  upMargin   : Nat := 80
  upRec      : Nat := 80
  upNow      : Nat := 80
  step       : Nat := 0
  cause      : BitVec 4 := 0
  input      : Nat := 0
  vin        : Nat := 0
  pwrStatus  : Status := {}
  thmCtrl    : Word := 0x5F64
  thmRec     : Word := 0x5F64
  thmNow     : Word := 0x5F64
  thmStatus  : Status := {}
  sensors    : Tab Int := []
  sensed     : Bool := false
  invalid    : List Nat := []
  hbm        : Tab Int := []
  brake      : Bool := false
  lastEval   : Nat := 0
  lastStepAt : Option Nat := none
  history    : List EvalRec := []
  life       : Tab Nat := []
deriving DecidableEq, Repr

/-- Link port states (Table 15.9). -/
inductive PortState where
  | absent | training | eight | low | high | down | disabled
deriving DecidableEq, Repr

/-- One link port: its state, lanes, PTP state and delay measurement (R345, R348). `heard` says that a Sync waits for its Follow_Up,
`early` holds a Follow_Up that came before its Sync, `pair` the origin and the arrival of the last Sync whose Follow_Up has come, `delay` is the mean path delay once it has been measured.
`upAt` is when the port last came into service, `up` the ns that it was in service before (Table 13.4). -/
structure Port where
  state    : PortState := .absent
  lanes    : BitVec 8 := 0
  ptp      : PtpState := 0
  heard    : Bool := false
  early    : Option (Nat × Nat) := none
  syncSeq  : Nat := 0
  syncAt   : Nat := 0
  pair     : Option (Nat × Nat) := none
  reqSeq   : Nat := 0
  reqAt    : Nat := 0
  delay    : Option Int := none
  txSeq    : Nat := 0
  lastSync : Nat := 0
  lastReq  : Nat := 0
  lastAnn  : Nat := 0
  upAt     : Nat := 0
  up       : Nat := 0
deriving DecidableEq, Repr

/-- A DATA frame sent and not acknowledged: the command whose data it carries, its sequence number, and what its header
names; the header itself is formed when the frame is sent. -/
structure TxFrame where
  cmd      : Nat
  seq      : Nat
  dstSeat  : Nat
  xgroup   : Nat
  transfer : Nat
  offset   : Nat
  payload  : List Byte
deriving DecidableEq, Repr

/-- One sequence space: a local port and a remote MAC (R347). `waiting` holds frames beyond the 64 unacknowledged
ones, `seat` is the seat that the remote's last DATA frame named as its own, `nakked` says that a NAK has come since frames were last
acknowledged. -/
structure Conn where
  port      : Nat
  mac       : BitVec 48
  seat      : Nat := 0xFFFF
  nextSeq   : Nat := 0
  unacked   : List TxFrame := []
  waiting   : List TxFrame := []
  expected  : Nat := 0
  sinceAck  : Nat := 0
  firstAt   : Nat := 0
  lastAckAt : Nat := 0
  resends   : Nat := 0
  nakked    : Bool := false
  retrained : Bool := false
deriving DecidableEq, Repr

/-- A transfer being received: sender, identifier, and the lines of it that have been written (R238). -/
structure RxTransfer where
  seat     : Nat
  transfer : Nat
  written  : List Nat
deriving DecidableEq, Repr

/-- An aperture of the BAR4 window (R339). -/
structure Aperture where
  handle : BitVec 32 := 0
  base   : Nat := 0
deriving DecidableEq, Repr

/-- The PCI Express function as configuration space shows it (Table 15.1, R337): identity, base addresses, power state (D3hot to D0
changes no device state), the enables of MSI-X and ECRC, Device Control's relaxed ordering and its largest payload and read request in
bytes, the error status of AER. The Vendor ID is assigned by PCI-SIG and not stated (DESIGN CHOICE, log 65). -/
structure Pci where
  vendor     : BitVec 16 := 0
  device     : BitVec 16 := 0x0D15
  classCode  : BitVec 24 := 0x120000
  bar0       : BitVec 64 := 0
  bar2       : BitVec 64 := 0
  bar4       : BitVec 64 := 0
  d3hot      : Bool := false
  msixEnable : Bool := false
  ecrcGen    : Bool := false
  ecrcCheck  : Bool := false
  relaxed    : Bool := true
  maxPayload : Nat := 128
  maxRead    : Nat := 512
  aer        : BitVec 32 := 0
deriving DecidableEq, Repr

/-- The LNK_ block. `status` bits: 0 PORT_DOWN, 1 LANE_DEGRADED, 2 BAR0_WRITE_ERR, 3 BAR4_REFUSED, 4 BAR4_POISONED.
`msix` holds the MSI-X table words; a vector-control word not listed reads 1 (masked), any other 0. `holdEnd` is when a
vector's holdoff ends, `held` the vectors with events during it, `msixPending` the pending bits. -/
structure Lnk where
  portEn      : BitVec 12 := 0xFFF
  ptpDomain   : Nat := 0
  ptpNext     : Option Nat := none
  status      : Status := {}
  holdoff     : Nat := 0
  apertures   : Tab Aperture := []
  ports       : Tab Port := []
  conns       : List Conn := []
  rx          : List RxTransfer := []
  msix        : Tab Word := []
  msixPending : List Nat := []
  holdEnd     : Tab Nat := []
  held        : List Nat := []
  firstPortAt : Option Int := none
  pci         : Pci := {}
deriving DecidableEq, Repr

/-- The CNT_ block: counters keyed set × 2^16 + instance × 2^8 + index (default 0), when a reset set them to zero, in the rim time now in
force (R295), the selection with the counts at each
entry's last reset and the values that the entries had just before it (R297), the selection that the next sampling cycle brings into
force (R296), and the sampler (R298, R299). `status` bits: 0 RING_FULL, 1 CFG_APPLIED. -/
structure Cnt where
  counters : Tab Nat := []
  zeroAt   : Int := 0
  select   : List Word := []
  base     : List Nat := []
  before   : List Nat := []
  coming   : Option (List Word) := none
  gen      : Nat := 0
  peekSel  : Word := 0
  peek     : Nat := 0
  enable   : Bool := false
  ringLog2 : Nat := 4
  ring     : Dest := .host 0
  prod     : Nat := 0
  cons     : Nat := 0
  drops    : Nat := 0
  skips    : Nat := 0
  status   : Status := {}
  lastRec  : Option Nat := none
  sinceDrop : Nat := 0
  sinceSkip : Bool := false
  sinceStep : Bool := false
deriving DecidableEq, Repr

/-- A trace record (Table 13.8); `payload` holds the values that Table 13.9 names, in its order. -/
structure TrcRec where
  time    : Nat
  typ     : Nat
  sub     : Nat
  source  : Nat
  layer   : BitVec 16
  round   : BitVec 32
  payload : List Nat
deriving DecidableEq, Repr

/-- A summary ring entry (Table 13.11); counts default 0. -/
structure TrcSum where
  start   : Nat
  round   : BitVec 32
  dropped : Nat := 0
  counts  : Tab Nat := []
deriving DecidableEq, Repr

/-- Trace states (Table 13.19). -/
inductive TrcState where
  | idle | recording | post | stopped
deriving DecidableEq, Repr

/-- The TRC_ block. `status` bits: 0 TRIGGERED, 1 STOPPED, 2 DUMP_WRITTEN, 3 DUMP_LOST. `records` oldest first,
`postCount` post-trigger records written, `perUs` the aligned microsecond and the records accepted in it. `heldFlight`, `heldSeq`
and `heldQue` are the commands in flight and the registers of sequencers and queues as the freeze found them (R307). -/
structure Trc where
  state      : TrcState := .idle
  typeMask   : BitVec 16 := 0
  trigMask   : BitVec 16 := 0
  trigLayer  : BitVec 16 := 0xFFFF
  trigClass  : BitVec 8 := 0xFF
  post       : Nat := 0
  force      : Bool := false
  completeAll : Bool := false
  spill      : Option (BitVec 32 × Nat × Nat) := none
  summaryUs  : Nat := 0
  running    : Bool := false
  records    : List TrcRec := []
  preHeld    : Nat := 0
  postCount  : Nat := 0
  trigTime   : Nat := 0
  trigHi     : Word := 0
  drop       : Nat := 0
  dropAfter  : Nat := 0
  perUs      : Nat × Nat := (0, 0)
  status     : Status := {}
  summary    : List TrcSum := []
  dumpHandle : BitVec 32 := 0
  dumpValid  : Bool := false
  dumpWriting : Bool := false
  dumpHung   : BitVec 4 := 0
  dumpTime   : Nat := 0
  dumpHi     : Word := 0
  heldFlight : List InFlight := []
  heldSeq    : List (List Nat) := []
  heldQue    : List (List Nat) := []
deriving DecidableEq, Repr

/-- A ledger record (R310), with the CRC word as it is stored. -/
structure LRec where
  typ     : Nat
  isLocal : Bool
  seq     : Nat
  time    : Nat
  chain   : List Byte
  payload : List Byte
  crc     : BitVec 32 := 0
deriving DecidableEq, Repr

/-- A snapshot slot (R314): its header's fields and its parts. -/
structure Snapshot where
  magic      : Nat
  seq        : Nat
  chain      : List Byte
  partCount  : Nat
  partsBytes : Nat
  lastChain  : List Byte
  commit     : BitVec 32
  parts      : List LRec
deriving DecidableEq, Repr

/-- An append that is not yet programmed (R311), with what waits for it. -/
structure Append where
  typ     : Nat
  payload : List Byte
  effect  : Effect
deriving DecidableEq, Repr

/-- Ledger states (Table 13.20). -/
inductive LgrState where
  | notLoaded | inOrder | compacting | held
deriving DecidableEq, Repr

/-- The ledger: the flash partition (journal oldest first, the two snapshot slots, blocks retired), the appends that are
being programmed, and the LGR_ block. `status` bits: 0 COMPACTED, 1 APPEND_HELD, 2 FLASH_ERROR. `chain` is the last record's.
`hourAt` is when the hourly records were last appended or service began, `totalsAt` the counts that the last ERROR_TOTALS record took in (default 0), `bootUs` the µs from power-on to the last reset. -/
structure Lgr where
  journal   : List LRec := []
  slot0     : Option Snapshot := none
  slot1     : Option Snapshot := none
  active    : Bool := false
  lastSeq   : Nat := 0
  snapSeq   : Nat := 0
  chain     : List Byte := []
  state     : LgrState := .notLoaded
  appends   : List Append := []
  bad       : List Nat := []
  status    : Status := {}
  hourAt    : Nat := 0
  totalsAt  : Tab Nat := []
  bootUs    : Nat := 0
deriving DecidableEq, Repr

/-- An SPDM session (R322, R323). `finished` from FINISH on; only then is it open and authenticated. -/
structure Session where
  id        : BitVec 32
  medium    : Medium
  requester : Requester
  finished  : Bool
  lastBeat  : Nat
  epochKeys : Nat
deriving DecidableEq, Repr

/-- The recovery window (R330, R331): which failure it serves, its state, its error and its 64 KiB (default 0). -/
structure Recovery where
  serves : Nat := 0
  state  : Nat := 0
  error  : Nat := 0
  data   : Tab Byte := []
deriving DecidableEq, Repr

/-- The SEC_ block, the security store and the flash images. `ctrl` is SEC_CTRL as it reads, `makerAllow` as it applies
(R325). `status` bits: 0 WRITE_DENIED, 1 SESSION_ENDED, 2 BOOT_FALLBACK, 3 KEY_CHANGED. `next`, `running`: true is image B.
`aliasKey` numbers the alias key of the last U1 exit. -/
structure Sec where
  installer  : Option PubKey := none
  operators  : Tab PubKey := []
  keygen     : Nat := 0
  rootHashes : Tab (List Byte) := []
  revoked    : BitVec 4 := 0
  fusedSvn   : Nat := 0
  imageA     : List Byte := []
  imageB     : List Byte := []
  validA     : Bool := false
  validB     : Bool := false
  next       : Bool := false
  running    : Bool := false
  rootSlot   : Nat := 0
  aliasKey   : Nat := 0
  ctrl       : Word := 0
  makerAllow : Bool := false
  status     : Status := {}
  sessions   : List Session := []
  negotiated : List Medium := []
  recovery   : Recovery := {}
  boot2      : List Byte := []
  boot3      : List Byte := []
  chainAtU2  : List Byte := []
deriving DecidableEq, Repr

/-- The MCTP endpoint and PLDM (R343). -/
structure Mctp where
  eidPcie  : BitVec 8 := 0
  eidSmbus : BitVec 8 := 0
  receiver : Option (Medium × BitVec 8) := none
  events   : List Nat := []
  alert    : Bool := false
deriving DecidableEq, Repr

/-- Upsett (chapter 12). `cfg` and `rsSeed` are the registers as they read, `cfgNow` and `rsSeedNow` as they apply (R325).
`status` bits: 0 STAGE_FAIL, 1 RS_ENTERED, 2 FULL_ENTERED, 3 DIE_NOT_READY. `service`: 0 none, 1 reduced, 2 full.
`done` says that the stage's work has ended; `warm` that upsett runs on its warm path; `quiesce` that a warm reset waits
(since when, and its cause). `enteredAt` is when the stage began, in the rim time now in force; `exited` says that U5 has met its exit
condition (R280). -/
structure Ups where
  stage     : Nat := 0
  done      : Bool := true
  service   : Nat := 0
  dieReady  : BitVec 2 := 0
  bootImage : Bool := false
  lastReset : Nat := 0
  status    : Status := {}
  failStage : Nat := 0
  failCode  : Nat := 0
  cfg       : Word := 0x10
  cfgNow    : Word := 0x10
  rsSeed    : BitVec 64 := 0
  rsSeedNow : BitVec 64 := 0
  stageTime : Tab Nat := []
  enteredAt : Int := 0
  exited    : Bool := false
  warm      : Bool := false
  quiesce   : Option (Nat × Nat) := none
  split     : Bool := false
  pairs     : List Nat := []
deriving DecidableEq, Repr

/-- Whether the module is powered (R279, R283, R289). -/
inductive Power where
  | off | on | tripped
deriving DecidableEq, Repr

/-- The sideband pins (Table 15.6) and the power state. -/
structure Pins where
  power     : Power := .on
  strapA    : Bool := false
  strapB    : Bool := false
  thermTrip : Bool := false
deriving DecidableEq, Repr

/-- The ID_ block (Table 15.8). -/
structure IdBlock where
  orderCode : BitVec 16 := 0x4150
  stepping  : BitVec 8 := 0
  deviceId  : BitVec 64 := 1
  mac       : BitVec 48 := 0
  speed     : Nat := 0
  width     : Nat := 0
  linkUp    : Bool := false
deriving DecidableEq, Repr

/-- What a CONTROL frame of the rim protocol says (R346). `refused` answers a device whose seat has been declared lost (R253), `transfer`
tells the receiver where a transfer's strands go and the token that its last line signals (R238): DESIGN CHOICE, log 66. -/
inductive Control where
  | heartbeat (seat : Nat)
  | answer (a : Answer)
  | report (r : Report)
  | commit (round : BitVec 32) (seats : Nat)
  | decision (d : RimDecision)
  | toDeputy (d : RimDecision)
  | deputyCopy (c : RimCopy)
  | joinRequest (domainId : BitVec 32) (ports : List PortReport) (mac : BitVec 48)
  | joinAccepted (seat : Nat) (ptp : List PtpState) (macs : List (Nat × BitVec 48))
  | refused (seat : Nat)
  | transfer (id : Nat) (handle : BitVec 32) (offset length token : Nat)
  | leave
  | timeLost
  | askReports
  | ckptDone (round : BitVec 32)
deriving DecidableEq, Repr

/-- What the module has sent over its links and management media, oldest first. A frame is given by its port and its bytes (Table 15.2);
of a CONTROL frame, whose payload the spec leaves to firmware, also what it says. -/
inductive Sent where
  | frame (port : Nat) (bytes : List Byte)
  | control (port : Nat) (bytes : List Byte) (what : Control)
  | ptpSync (port domain seq : Nat) (origin : Nat)
  | ptpFollowUp (port domain seq : Nat) (origin : Nat)
  | ptpDelayReq (port domain seq : Nat)
  | ptpDelayResp (port domain seq : Nat) (received : Nat)
  | ptpAnnounce (port domain : Nat)
  | spdm (m : Medium) (code : Nat) (data : List Byte)
  | pldm (m : Medium) (code : Nat) (data : List Nat)
  | mctp (m : Medium) (data : List Nat)
  | event (m : Medium) (eid : BitVec 8) (sensor : Nat)
deriving DecidableEq, Repr

/-- How the last host read ended (R341). -/
inductive ReadEnd where
  | ok | refused | poisoned
deriving DecidableEq, Repr

/-- The outside of the module: host memory as the device has written it (default 0), the host ranges whose accesses PCI
Express reports as failed (R193, R202), the data of the last read, the MSI-X messages sent, and what else was sent. -/
structure Outside where
  memory   : List Host.Cell := []
  failing  : List (Nat × Nat) := []
  readData : List Byte := []
  readEnd  : ReadEnd := .ok
  messages : List Nat := []
  sent     : List Sent := []
deriving DecidableEq, Repr

/-- The module. `pending` is the queue of commands that wait, first in first out. `freeCtr` is the model's own: it is
advanced when a value that the spec leaves open is taken. `coil` holds the accumulators of R126, keyed
stake × 2^18 + slot × 2^16 + row × 2^8 + column (default 0). -/
structure State where
  pending : List Instr
  freeCtr : Nat
  pins    : Pins
  id      : IdBlock
  ups     : Ups
  que     : Que
  seq     : Seq
  flight  : List InFlight
  nextId  : Nat
  store   : Store
  mem     : Mem
  plc     : Plc
  tns     : Tns
  coil    : Tab (BitVec 40)
  tim     : Tim
  rim     : Rim
  sched   : Tab Sched
  pwr     : Pwr
  lnk     : Lnk
  cnt     : Cnt
  trc     : Trc
  lgr     : Lgr
  sec     : Sec
  mctp    : Mctp
  out     : Outside
deriving DecidableEq, Repr

/-- The module right after a cold reset: stage U0 entered on the cold path, every register at its Reset column, every
memory with nothing listed, nothing in the ledger and no key enrolled. -/
def State.reset : State where
  pending := []
  freeCtr := 0
  pins    := {}
  id      := {}
  ups     := {}
  que     := {}
  seq     := {}
  flight  := []
  nextId  := 0
  store   := {}
  mem     := {}
  plc     := {}
  tns     := {}
  coil    := []
  tim     := {}
  rim     := {}
  sched   := []
  pwr     := {}
  lnk     := {}
  cnt     := {}
  trc     := {}
  lgr     := {}
  sec     := {}
  mctp    := {}
  out     := {}

end Sys2Proof.Machine
end

