-- ==== Sys2Proof/Machine/Flags.lean ====
section
/-! DEFINITION. Status codes (Table 9.5) and the reasons a command ends with one. -/

namespace Sys2Proof.Machine

/-- A failing end of a command: its status and detail. -/
structure Fail where
  status : Nat
  detail : Nat
deriving DecidableEq, Repr

/-- What a command does to the module, or the status it fails with. -/
abbrev Cmd := EStateM Fail State

/-- Table 9.5. -/
def OK : Nat := 0x0000
def BORDER_TRUNCATED : Nat := 0x0001
def COMPARE_MISMATCH : Nat := 0x0002
def OPCODE_UNKNOWN : Nat := 0x0101
def RESERVED_SET : Nat := 0x0102
def REGION_OUT_OF_BOUNDS : Nat := 0x0103
def ALIGNMENT : Nat := 0x0104
def REGION_OVERLAP : Nat := 0x0105
def POWER_CAP_RANGE : Nat := 0x0106
def VALUE_INVALID : Nat := 0x0107
def FORMAT_NOT_ALLOWED : Nat := 0x0111
def ROUNDING_NOT_ALLOWED : Nat := 0x0112
def TENSOR_SCALE_INVALID : Nat := 0x0113
def OPERAND_FORMATS_DIFFER : Nat := 0x0114
def SCALE_TABLE_STALE : Nat := 0x0115
def TWIST_MISMATCH : Nat := 0x0116
def SCALE_TABLE_MISMATCH : Nat := 0x0117
def THRESHOLD_INVALID : Nat := 0x0118
def TABLE_REGION_SMALL : Nat := 0x0119
def LAYER_OUT_OF_RANGE : Nat := 0x011A
def BOUND_INVALID : Nat := 0x011B
def TILING_INVALID : Nat := 0x011C
def GROUP_SHAPE_INVALID : Nat := 0x011D
def PLACE_INVALID : Nat := 0x011E
def HANDLE_INVALID : Nat := 0x011F
def MGMT_BUSY : Nat := 0x0201
def WARP_MAP_FULL : Nat := 0x0202
def CAPACITY_EXHAUSTED : Nat := 0x0203
def SCHEDULE_FULL : Nat := 0x0204
def TRACE_BUSY : Nat := 0x0205
def STRAND_CRC_MISMATCH : Nat := 0x0301
def SRAM_UNCORRECTABLE : Nat := 0x0302
def PACKET_UNREADABLE : Nat := 0x0303
def LINK_INTEGRITY : Nat := 0x0304
def UNCORRECTABLE : Nat := 0x0401
def STACK_FAILED : Nat := 0x0402
def STACK_NOT_HEALTHY : Nat := 0x0403
def RETRAIN_BUSY : Nat := 0x0404
def NOT_IN_DOMAIN : Nat := 0x0501
def WINDOW_MISSED : Nat := 0x0502
def PEER_LOST : Nat := 0x0503
def COMMIT_ABORTED : Nat := 0x0504
def CKPT_ABANDONED : Nat := 0x0505
def RIM_TIME_LOST : Nat := 0x0506
def NOT_RIM : Nat := 0x0507
def TENSION_DIVERGED : Nat := 0x0508
def ROLE_REQUIRED : Nat := 0x0601
def SESSION_INVALID : Nat := 0x0602
def SIGNATURE_INVALID : Nat := 0x0603
def VERSION_ROLLBACK : Nat := 0x0604
def NOT_IN_SERVICE : Nat := 0x0701
def FROZEN : Nat := 0x0702
def STAKE_UNMAPPED : Nat := 0x0703

/-- The class of a status (R203). -/
def statusClass (st : Nat) : Nat := st / 256

/-- A command that fails. -/
def refuse {α : Type} (status : Nat) (detail : Nat := 0) : Cmd α := throw { status, detail }

/-- Fails with a status where a condition does not hold. -/
def require (ok : Bool) (status : Nat) (detail : Nat := 0) : Cmd Unit :=
  if ok then pure () else refuse status detail

/-- Changes the module. -/
def upd (f : State → State) : Cmd Unit := modify f

/-- Runs an update that gives a value. -/
def act {α : Type} (f : State → α × State) : Cmd α := modifyGet f

end Sys2Proof.Machine
end

