-- ==== Sys2Proof/Machine/Ops.lean ====
section
/-! DEFINITION. Named operations over the registers that every block shares: status bits and interrupts, counters, the
trace, the ledger's appends, and access to queues, stacks and handles. -/

namespace Sys2Proof.Machine

/-- Powered: only then does the module do anything (R279, R283). -/
def State.powered (s : State) : Bool := s.pins.power != .off

/-- The clocks of the arrays, the mesh and the bridges run; a thermal trip stops them, and then no command completes
(R289). -/
def State.clocked (s : State) : Bool := s.pins.power == .on

/-! ### Interrupts (R342) -/

/-- The size of BAR `i` in bytes; BARs 1, 3 and 5 hold the upper halves of those before them (R337). -/
def barSize (i : Nat) : Nat :=
  match i with
  | 0 => 2 ^ 24
  | 2 => 2 ^ 18
  | 4 => 2 ^ 36
  | _ => 0

/-- The low four bits of BAR `i` as it reads: memory, 64-bit; BAR4 is prefetchable (R337). -/
def barType (i : Nat) : Nat := if i = 4 then 0xC else 0x4

/-- BAR registers 0 to 5 as configuration space shows them (R337). -/
def Pci.bar (p : Pci) (i : Nat) : Word :=
  let base := [p.bar0, p.bar2, p.bar4].getD (i / 2) 0
  if i % 2 = 1 then base.extractLsb' 32 32 else BitVec.ofNat 32 (base.toNat / barSize i * barSize i + barType i)

/-- Sends a vector's message, which starts its holdoff, or sets its pending bit while the vector is masked or MSI-X not enabled. -/
def sendMessage (v : Nat) (s : State) : State :=
  if !s.lnk.pci.msixEnable || tget 1 s.lnk.msix (v * 4 + 3) &&& 1 = 1 then
    { s with lnk := { s.lnk with msixPending := if s.lnk.msixPending.contains v then s.lnk.msixPending else s.lnk.msixPending ++ [v] } }
  else
    { s with out := { s.out with messages := s.out.messages ++ [v] },
             lnk := { s.lnk with holdEnd := tset 0 s.lnk.holdEnd v (s.tim.now + 1000 * s.lnk.holdoff) } }

/-- An event of a vector: one message, or held until the vector's holdoff ends (R342). -/
def signalVector (v : Nat) (s : State) : State :=
  if s.tim.now < tget 0 s.lnk.holdEnd v then
    { s with lnk := { s.lnk with held := if s.lnk.held.contains v then s.lnk.held else s.lnk.held ++ [v] } }
  else sendMessage v s

/-! ### Status bits (R301) -/

/-- Hardware sets bit `b`: the bit, and its count saturating at 255. -/
def Status.raise (st : Status) (b : Nat) : Status :=
  { bits := st.bits ||| BitVec.ofNat 8 (2 ^ b), sets := tset 0 st.sets b (sat 255 (tget 0 st.sets b + 1)) }

/-- Software clears the bits of `v`, and their counts. -/
def Status.clear (st : Status) (v : Nat) : Status :=
  { bits := st.bits &&& ~~~ BitVec.ofNat 8 v, sets := st.sets.filter fun e => !bit v e.1 }

/-- The register of set counts: four 8-bit counts from bit index `lo`. -/
def Status.setsWord (st : Status) (lo : Nat) : Nat :=
  tget 0 st.sets lo + 256 * tget 0 st.sets (lo + 1) + 65536 * tget 0 st.sets (lo + 2) + 16777216 * tget 0 st.sets (lo + 3)

def raiseMem (b : Nat) (s : State) : State := signalVector 64 { s with mem := { s.mem with status := s.mem.status.raise b } }
def raisePlc (b : Nat) (s : State) : State := signalVector 64 { s with plc := { s.plc with status := s.plc.status.raise b } }
def raiseTns (b : Nat) (s : State) : State := signalVector 64 { s with tns := { s.tns with status := s.tns.status.raise b } }
def raiseSeq (b : Nat) (s : State) : State := signalVector 64 { s with seq := { s.seq with status := s.seq.status.raise b } }
def raiseTim (b : Nat) (s : State) : State := signalVector 64 { s with tim := { s.tim with status := s.tim.status.raise b } }
def raiseUps (b : Nat) (s : State) : State := signalVector 64 { s with ups := { s.ups with status := s.ups.status.raise b } }
def raisePwr (b : Nat) (s : State) : State := signalVector 64 { s with pwr := { s.pwr with pwrStatus := s.pwr.pwrStatus.raise b } }
def raiseThm (b : Nat) (s : State) : State := signalVector 64 { s with pwr := { s.pwr with thmStatus := s.pwr.thmStatus.raise b } }
def raiseLnk (b : Nat) (s : State) : State := signalVector 64 { s with lnk := { s.lnk with status := s.lnk.status.raise b } }
def raiseCnt (b : Nat) (s : State) : State := signalVector 64 { s with cnt := { s.cnt with status := s.cnt.status.raise b } }
def raiseTrc (b : Nat) (s : State) : State := signalVector 64 { s with trc := { s.trc with status := s.trc.status.raise b } }
def raiseLgr (b : Nat) (s : State) : State := signalVector 64 { s with lgr := { s.lgr with status := s.lgr.status.raise b } }
def raiseSec (b : Nat) (s : State) : State := signalVector 64 { s with sec := { s.sec with status := s.sec.status.raise b } }

/-! ### Queues -/

def State.queue (s : State) (q : Nat) : Queue := tget {} s.que.queues q
def State.setQueue (s : State) (q : Nat) (v : Queue) : State :=
  { s with que := { s.que with queues := tset {} s.que.queues q v } }

/-- Status bit `b` of queue `q`: 0 DB_ERR, 1 CFG_REJECT, 2 CQ_ERR, 3 STOPPED (Table 9.18). -/
def raiseQue (q b : Nat) (s : State) : State :=
  signalVector 64 (s.setQueue q { s.queue q with status := (s.queue q).status.raise b })

def Queue.sqSize (v : Queue) : Nat := 2 ^ v.sqLog2
def Queue.cqSize (v : Queue) : Nat := 2 ^ v.cqLog2

/-- Disables a queue (R194). -/
def disableQueue (q : Nat) (s : State) : State := s.setQueue q { s.queue q with enable := false, head := none }

/-- A reply has been written: the tail moves on, the phase inverts at the wrap, and the queue's vector is signalled (R202, R342). -/
def replied (q : Nat) (bytes : List Byte) (s : State) : State :=
  let v := s.queue q
  let tail := (v.cqTail + 1) % v.cqSize
  let s := s.setQueue q { v with cqTail := tail, phase := if tail = 0 then !v.phase else v.phase }
  let log := s.que.replies ++ [bytes]
  signalVector q { s with que := { s.que with replies := log.drop (log.length - 1024) } }

/-- The write of a reply has failed: it is lost, the queue is disabled and CQ_ERR is set (R202). -/
def replyLost (q : Nat) (s : State) : State := raiseQue q 2 (disableQueue q s)

/-- The sequencer's registers. -/
def State.sequencer (s : State) (n : Nat) : Sequencer := tget {} s.seq.seqs n

/-! ### Counters (R295) -/

/-- The key of a counter. -/
def counterKey (set inst index : Nat) : Nat := set * 65536 + inst * 256 + index

/-- The multiply-adds of a stake count in units of 2^16 (Table 13.1); State holds such a counter with the part of a unit that is not
full yet. -/
def counterUnit (set index : Nat) : Nat := if set = 0 && (index = 7 || index = 8) then 65536 else 1

/-- Adds to a counter, modulo 2^48 of its units. -/
def count (set inst index n : Nat) (s : State) : State :=
  { s with cnt := { s.cnt with counters := tmod 0 s.cnt.counters (counterKey set inst index) fun c =>
      (c + n) % (2 ^ 48 * counterUnit set index) } }

/-- A counter's value. -/
def State.counter (s : State) (set inst index : Nat) : Nat :=
  tget 0 s.cnt.counters (counterKey set inst index) / counterUnit set index

/-! ### The trace (R302 to R305) -/

/-- Types of Table 13.9. -/
def tMARK : Nat := 0
def tISSUE : Nat := 1
def tCOMPLETE : Nat := 2
def tREWEAVE : Nat := 3
def tSTORM : Nat := 4
def tMEM_UNCORR : Nat := 5
def tCRC_MISMATCH : Nat := 6
def tSRAM_DBE : Nat := 7
def tLADDER : Nat := 8
def tTIME_STEP : Nat := 9
def tCLOCK_STEP : Nat := 10
def tPLACEMENT : Nat := 11
def tCLUSTER : Nat := 12
def tMGMT_BUSY : Nat := 13
def tTHERMAL : Nat := 14

/-- C of R302: the records the buffer holds, or the spill region. -/
def Trc.capacity (t : Trc) : Nat :=
  match t.spill with
  | none => 261632
  | some (_, _, len) => len / 32

/-- The post share P of R304. -/
def Trc.postShare (t : Trc) : Nat := Max.max 1 (t.capacity * t.post / 8)

/-- Counts a generated record in the newest summary entry (R305). -/
def Trc.summarise (t : Trc) (typ : Nat) (dropped : Bool) : Trc :=
  if t.running then
    match t.summary.reverse with
    | e :: older =>
      let e := { e with counts := tmod 0 e.counts typ fun n => sat 65535 (n + 1), dropped := e.dropped + b2n dropped }
      { t with summary := older.reverse ++ [e] }
    | [] => t
  else t

/-- A record in its place at the end of a reversed list: records of one cycle are in ascending SOURCE order (R302). At most `n`
records are passed. -/
def placeRecord (r : TrcRec) : Nat → List TrcRec → List TrcRec
  | n + 1, x :: t => if x.time = r.time && r.source < x.source then x :: placeRecord r n t else r :: x :: t
  | _, l => r :: l

/-- Writes a record, overwriting the oldest one held once C are held (R304); the trigger stays the first of its share. -/
def Trc.store (t : Trc) (r : TrcRec) : Trc :=
  let l := (placeRecord r (if t.state == .post then t.postCount - 1 else t.records.length) t.records.reverse).reverse
  { t with records := if l.length > t.capacity then l.drop (l.length - t.capacity) else l }

/-- Counts a record of an enabled type that is not written (R305). -/
def Trc.lose (t : Trc) : Trc :=
  { t with drop := sat 4294967295 (t.drop + 1),
           dropAfter := if t.state == .stopped then sat 4294967295 (t.dropAfter + 1) else t.dropAfter }

/-- Stops the trace: it keeps the newest min(h, C - P) records from before the trigger (R304). -/
def Trc.stop (t : Trc) : Trc :=
  let keep := Min.min t.preHeld (t.capacity - t.postShare)
  let pre := t.records.length - t.postCount
  { t with state := .stopped,
           records := if t.postCount = 0 then t.records else t.records.drop (pre - Min.min keep pre) }

/-- Whether a record is the trigger: of a type set in TRIG_MASK, of the layer, and for COMPLETE of the class (R304). -/
def Trc.triggers (t : Trc) (r : TrcRec) (cls : Nat) : Bool :=
  t.trigMask.getLsbD r.typ && (t.trigLayer == 0xFFFF || t.trigLayer == r.layer) &&
    (r.typ != tCOMPLETE || t.trigClass == 0xFF || t.trigClass.toNat == cls)

/-- Whether the record may be written in this microsecond: at most 128, MARK and the trigger always (R302). -/
def Trc.within (t : Trc) (r : TrcRec) (trigger : Bool) : Bool :=
  r.typ == tMARK || trigger || t.perUs.1 != r.time / 1000 || t.perUs.2 < 128

/-- Counts the record against its microsecond. -/
def Trc.tally (t : Trc) (r : TrcRec) (trigger : Bool) : Trc :=
  if r.typ == tMARK || trigger then t
  else if t.perUs.1 == r.time / 1000 then { t with perUs := (r.time / 1000, t.perUs.2 + 1) }
  else { t with perUs := (r.time / 1000, 1) }

/-- A record as the trace takes it: the trace, and whether it triggered and stopped. -/
def Trc.accept (t : Trc) (r : TrcRec) (cls : Nat) (force : Bool) : Trc × Bool × Bool :=
  let trigger := t.state == .recording && (force || t.triggers r cls)
  let enabled := r.typ == tMARK || trigger || t.typeMask.getLsbD r.typ
  let live := t.state == .recording || t.state == .post
  let written := live && enabled && t.within r trigger
  let t := t.summarise r.typ (enabled && !written)
  if trigger then
    let t := { t with state := .post, preHeld := t.records.length, postCount := 1, trigTime := r.time }
    let t := t.store r
    if t.postShare ≤ 1 then (t.stop, true, true) else (t, true, false)
  else if written then
    let t := (t.tally r false).store r
    if t.state == .post then
      let t := { t with postCount := t.postCount + 1 }
      if t.postShare ≤ t.postCount then (t.stop, false, true) else (t, false, false)
    else (t, false, false)
  else if enabled then (t.lose, false, false)
  else (t, false, false)

/-- The module makes a trace record (Tables 13.8 and 13.9). `cls` is the status class of a COMPLETE record. -/
def traceWith (typ sub source : Nat) (layer : BitVec 16) (payload : List Nat) (cls : Nat) (force : Bool) (s : State) : State :=
  let r : TrcRec := { time := s.tim.now, typ, sub, source, layer, round := s.tns.round, payload }
  let (t, trig, stop) := s.trc.accept r cls force
  let s := { s with trc := t }
  let s := if trig then raiseTrc 0 s else s
  if stop then raiseTrc 1 s else s

def trace (typ sub source : Nat) (layer : BitVec 16) (payload : List Nat) (s : State) : State :=
  traceWith typ sub source layer payload 0 false s

/-! ### The ledger's appends (R311, R325) -/

/-- Record types of Table 13.15. -/
def rLIFETIME : Nat := 1
def rMARGIN : Nat := 2
def rHBM_FAULT : Nat := 3
def rRETRAIN : Nat := 4
def rPPR : Nat := 5
def rSTAKE_RETIRE : Nat := 6
def rERROR_TOTALS : Nat := 7
def rTHERMAL : Nat := 8
def rFIRMWARE : Nat := 9
def rROLE_ACTION : Nat := 10
def rBRIDGE : Nat := 11
def rUPSETT : Nat := 12
def rSTACK_STATE : Nat := 13

/-- A payload as it is stored: padded so that the record is a multiple of 16 bytes long, 48 at least (R310). -/
def padPayload (p : List Byte) : List Byte := slice p 0 (Max.max 48 (cdiv (p.length + 36) 16 * 16) - 36)

/-- Totals are summed word by word. -/
def sumWords (a b : List Byte) : List Byte :=
  (List.range (cdiv (Max.max a.length b.length) 4)).flatMap fun i => leBytes 4 (sat 4294967295 (field a (4 * i) 4 + field b (4 * i) 4))

/-- The records whose contents are sums. -/
def isTotals (typ : Nat) : Bool := typ == rLIFETIME || typ == rERROR_TOTALS

/-- The contents of `a` and, after them, of `b` in one record of a type (R313): totals summed, others side by side, each further one on
16-byte places. A record holds 4,060 bytes of them at most. DESIGN CHOICE, log 28. -/
def mergePayload (typ : Nat) (a b : List Byte) : List Byte :=
  if isTotals typ then sumWords a b
  else
    let m := padPayload a ++ slice b 0 ((padPayload b).length + 4)
    if m.length ≤ 4060 then m else a

/-- Records other than role actions, with nothing waiting for them, merge by type. -/
def Append.mergesWith (a b : Append) : Bool :=
  a.typ == b.typ && a.typ != rROLE_ACTION && a.effect == .nothing && b.effect == .nothing

/-- An append joins those that are held (R313). -/
def addHeld (l : List Append) (a : Append) : List Append :=
  if l.any a.mergesWith then l.map fun b => if a.mergesWith b then { b with payload := mergePayload a.typ b.payload a.payload } else b
  else l ++ [a]

/-- Appends a record; what waits for it takes place when its bytes are programmed (RECORD_PROGRAMMED). While appends are
held, other records than role actions merge into one pending record per type (R313). -/
def append (typ : Nat) (payload : List Byte) (effect : Effect) (s : State) : State :=
  let a : Append := { typ, payload, effect }
  { s with lgr := { s.lgr with appends := if s.lgr.state == .held then addHeld s.lgr.appends a else s.lgr.appends ++ [a] } }

def record (typ : Nat) (payload : List Byte) (s : State) : State := append typ payload .nothing s

/-! ### Platform events (R343) -/

/-- A state sensor has changed: an event goes to the receiver that has been set, or is pending for an SMBus receiver. -/
def notify (sensor : Nat) (s : State) : State :=
  match s.mctp.receiver with
  | none => s
  | some (.pcie, eid) => { s with out := { s.out with sent := s.out.sent ++ [.event .pcie eid sensor] } }
  | some (.smbus, _) => { s with mctp := { s.mctp with events := s.mctp.events ++ [sensor], alert := true } }

/-! ### Stacks (R146) -/

def State.stack (s : State) (k : Nat) : Stack := tget {} s.mem.stackTab k
def State.setStack (s : State) (k : Nat) (v : Stack) : State :=
  { s with mem := { s.mem with stackTab := tset {} s.mem.stackTab k v } }
def modStack (k : Nat) (f : Stack → Stack) (s : State) : State := s.setStack k (f (s.stack k))

/-- The code of MEM_STACK_HEALTH.STATE (Table 7.17). -/
def Health.code : Health → Nat
  | .healthy => 0
  | .localising => 1
  | .degraded => 2
  | .retraining => 3
  | .failed => 4

/-- A transition of Table 7.4, recorded in the ledger (R146); entering FAILED sets STACK_FAILED (R148). -/
def setHealth (k : Nat) (h : Health) (s : State) : State :=
  let old := (s.stack k).health
  let s := modStack k (fun v => { v with health := h }) s
  let s := notify (k + 1) <| record rSTACK_STATE [BitVec.ofNat 8 k, BitVec.ofNat 8 old.code, BitVec.ofNat 8 h.code] s
  if h = .failed then
    let s := modStack k (fun v => { v with offline := none, rebuilding := none, journal := [], booked := [] }) s
    raiseMem 2 (record rHBM_FAULT [BitVec.ofNat 8 k, 2, 0] s)
  else s

/-- Core die `d` of stack `k` is named: DEGRADED, recorded (R144). -/
def failDie (k d : Nat) (s : State) : State :=
  let s := modStack k (fun v => { v with failedDie := some d }) s
  let s := record rHBM_FAULT [BitVec.ofNat 8 k, 0, BitVec.ofNat 8 d] s
  raiseMem 1 (setHealth k .degraded s)

/-- Channel `c` of stack `k` is recorded failed: DEGRADED (R151). -/
def failChannel (k c : Nat) (s : State) : State :=
  let s := modStack k (fun v => { v with failedChan := some c, offline := none, rebuilding := none, journal := [], booked := [] }) s
  let s := record rHBM_FAULT [BitVec.ofNat 8 k, 1, BitVec.ofNat 8 c] s
  setHealth k .degraded s

/-! ### Handles (R171) -/

/-- The descriptor of a handle with its index; a released handle's serves the commands before its RELEASE until it is freed
(R173). -/
def State.desc (s : State) (h : BitVec 32) : Option (Nat × Desc) :=
  let i := h.toNat % 65536
  match tfind s.plc.map i with
  | some d => if d.handle = h then some (i, d) else none
  | none => none

/-- A RELEASE that was issued after the command that firmware now starts has no bearing on that command (R173). -/
def State.releasedLater (s : State) (h : BitVec 32) : Bool :=
  s.seq.starting.any fun n => s.flight.any fun c => n < c.id && c.wait == .released h

/-- A handle is live until the issue of its RELEASE (R171, R173). -/
def State.live (s : State) (h : BitVec 32) : Bool := (s.desc h).any fun e => e.2.state ≠ .releasing || s.releasedLater h

/-- SIZE of a handle, 0 where no entry holds it. -/
def State.handleSize (s : State) (h : BitVec 32) : Nat := ((s.desc h).map fun e => e.2.size).getD 0

/-- Changes the descriptor at index `i`. -/
def modDesc (i : Nat) (f : Desc → Desc) (s : State) : State :=
  match tfind s.plc.map i with
  | some d => { s with plc := { s.plc with map := tinsert s.plc.map i (f d) } }
  | none => s

/-- Advances the write generation of a handle (R83). -/
def advanceGen (h : BitVec 32) (s : State) : State :=
  match s.desc h with
  | some (i, _) => modDesc i (fun d => { d with writeGen := d.writeGen + 1 }) s
  | none => s

/-- The counter of free values moves on. -/
def tick (s : State) : State := { s with freeCtr := s.freeCtr + 1 }

end Sys2Proof.Machine
end

