-- ==== Sys2Proof/Machine/Memory.lean ====
section
/-! DEFINITION. Lines: where a tensor's lines are, health and poison, the check caches, and reads, writes and merges of whole
lines (chapters 7 and 8). -/

namespace Sys2Proof.Machine

/-! ### Sets of natural numbers in rising order -/

def sinsert : List Nat → Nat → List Nat
  | [], k => [k]
  | j :: t, k => if k < j then k :: j :: t else if k = j then j :: t else j :: sinsert t k

def serase : List Nat → Nat → List Nat
  | [], _ => []
  | j :: t, k => if k = j then t else j :: serase t k

/-! ### Lines (R139, R155) -/

def linesPerStack : Nat := 46875000
def dataLines : Nat := 46500000
def hoopLines : Nat := 16384

/-- The identity of line `n` of stack `k`. -/
def hbmLine (k n : Nat) : Nat := k * linesPerStack + n

/-- The identity of line `n` of a global hoop's store. -/
def hoopLine (h n : Nat) : Nat := 12 * linesPerStack + h * hoopLines + n

/-- Whether a line lies in HBM3, and its stack and number there. -/
def isHbm (id : Nat) : Bool := id < 12 * linesPerStack
def lineStack (id : Nat) : Nat := id / linesPerStack
def lineNo (id : Nat) : Nat := id % linesPerStack

/-- Tensor line `i` of a location (R177, R179). -/
def Location.line (l : Location) (i : Nat) : Nat :=
  match l with
  | .across members rot base =>
    let n := members.length
    hbmLine (members.getD ((i + rot) % n) 0) (base + i / n)
  | .hoop h base => hoopLine h (base + i)

/-- Lines of a tensor. -/
def Desc.lines (d : Desc) : Nat := cdiv d.size 512

/-- Where tensor line `i` is, in a migration too (R187). -/
def State.lineOf (s : State) (idx : Nat) (d : Desc) (i : Nat) : Nat :=
  match s.plc.current with
  | some m => if m.index = idx && i < m.pointer then m.newLoc.line i else d.location.line i
  | none => d.location.line i

/-- The die that a line's store is on. -/
def lineDie (id : Nat) : Nat :=
  if isHbm id then lineStack id / 6 else (id - 12 * linesPerStack) / hoopLines / 12

/-- The global hoop of a hoop-store line. -/
def hoopOf (id : Nat) : Nat := (id - 12 * linesPerStack) / hoopLines

/-! ### Bytes of a line -/

/-- The 512 payload bytes last written to a line. -/
def State.payload (s : State) (id : Nat) : List Byte :=
  (List.range 512).map fun b => tget 0 s.store.cells (id * 512 + b)

/-- The canonical form of a memory: addresses strictly rising, no byte listed that an unlisted address reads as (0). -/
def Memory.wf (cells : List Host.Cell) : Bool := tableWf 0 cells

/-- Bytes from `key` on become `l`. -/
def putBytes (cells : List Host.Cell) (key : Nat) : List Byte → List Host.Cell
  | [] => cells
  | b :: t => putBytes (tset 0 cells key b) (key + 1) t

def State.valid (s : State) (id : Nat) : Bool := s.store.valid.contains id

/-! ### Standing erasures (Table 7.3) -/

/-- The wrong symbols of a line. -/
def State.faultsOf (s : State) (id : Nat) : List (Nat × Nat × Byte) := tget [] s.store.faults id

/-- The bursts that a stack's state leaves out of the decode of line `n`: those of the failed die or channel, and while a
channel is offline its burst, and afterwards for the groups still journaled (R149, R152). -/
def Stack.erased (v : Stack) (n : Nat) : List Nat :=
  match v.health with
  | .degraded =>
    match v.failedDie with
    | some d => [2 * d, 2 * d + 1]
    | none => v.failedChan.toList
  | .retraining =>
    match v.offline with
    | some c => [c]
    | none => if v.journal.contains (n / 16) then v.rebuilding.toList else []
  | _ => []

/-! ### Poison (R145) -/

def Stack.poisoned (v : Stack) (n : Nat) : Bool := v.poison.any fun r => r.1 ≤ n && n ≤ r.2

/-- Line `n` leaves the poison list; a range that holds it is split. -/
def unpoison (n : Nat) : List (Nat × Nat) → List (Nat × Nat)
  | [] => []
  | (a, b) :: t =>
    if a ≤ n && n ≤ b then
      (if a < n then [(a, n - 1)] else []) ++ (if n < b then [(n + 1, b)] else []) ++ unpoison n t
    else (a, b) :: unpoison n t

/-- A stack whose poison list is full enters FAILED (R145). -/
def failFull (k : Nat) (s : State) : State :=
  if (s.stack k).health ≠ .failed && (s.stack k).poison.length ≥ 4096 then setHealth k .failed s else s

/-- Enters ranges in the poison list; `counted` adds one to MEM_STACK_UNCORR. A full list, and a DEGRADED stack that reaches
MEM_FAIL_LIMIT, fail the stack (R145, R147). -/
def enterPoison (k : Nat) (ranges : List (Nat × Nat)) (counted : Bool) (s : State) : State :=
  let s := modStack k (fun v =>
    { v with poison := v.poison ++ ranges, uncorr := if counted then sat 65535 (v.uncorr + 1) else v.uncorr }) s
  let s := if counted then count 2 k 8 1 s else s
  let v := s.stack k
  if v.health = .degraded && v.uncorr ≥ s.mem.failLimit then setHealth k .failed s else failFull k s

/-- A whole-line write replaces a line in the poison list; a range that it splits may fill the list (R145). -/
def leavePoison (id : Nat) (s : State) : State :=
  if (s.stack (lineStack id)).poisoned (lineNo id) then
    failFull (lineStack id) (modStack (lineStack id) (fun v => { v with poison := unpoison (lineNo id) v.poison }) s)
  else s

/-- The runs of lines of `[a, a + n)` for which `p` holds. -/
def runsOf (p : Nat → Bool) (a : Nat) : Nat → List (Nat × Nat)
  | 0 => []
  | n + 1 =>
    let l := runsOf p (a + 1) n
    if p a then
      match l with
      | (b, c) :: t => if b = a + 1 then (a, c) :: t else (a, a) :: l
      | [] => [(a, a)]
    else l

/-! ### Corrected errors (R142, R143) -/

/-- Who a line is logged as: a handle and byte offset. -/
structure LineName where
  handle : BitVec 32
  offset : Nat
deriving DecidableEq, Repr

/-- Logs a corrected line in Vell-compatible mode (R143). -/
def logCe (id : Nat) (name : LineName) (codewords : Nat) (scrub : Bool) (s : State) : State :=
  match firstIdx (fun e => e.line == id) s.mem.ceTable with
  | some i =>
    { s with mem := { s.mem with ceTable := s.mem.ceTable.mapIdx fun j e => if j = i then { e with hits := sat 65535 (e.hits + 1) } else e } }
  | none =>
    if s.mem.ceTable.length < 64 then
      { s with mem := { s.mem with ceTable := s.mem.ceTable ++ [{ line := id, handle := name.handle, offset := name.offset, codewords, scrub, hits := 1 }] } }
    else { s with mem := { s.mem with ceOverflow := sat 255 (s.mem.ceOverflow + 1) } }

/-- The wrong symbols of a line that is written back with bytes that the decoder left wrong: those, and the check symbols that go
with them. -/
def wrongSymbols (wrong : List (Nat × Byte)) : List (Nat × Nat × Byte) :=
  (List.range 32).flatMap fun j =>
    let e : Errors := wrong.filterMap fun x => if x.1 % 32 = j then some (x.1 / 32, x.2) else none
    let c := checkSymbols e.at
    let l : Errors := e ++ [(16, c.1), (17, c.2)]
    if e.isEmpty then [] else l.map fun x => (j, x.1, x.2)

/-- A corrected line: written back, or logged (R142, R143); counted, and counted against its channels. -/
def correct (id : Nat) (name : LineName) (codewords : Nat) (bursts : List Nat) (wrong : List (Nat × Byte)) (scrub : Bool) (s : State) : State :=
  let k := lineStack id
  let s := modStack k (fun v =>
    { v with ce := sat 4294967295 (v.ce + 1), burstCe := bursts.foldl (fun t b => tmod 0 t b (· + 1)) v.burstCe }) s
  let s := count 2 k 7 bursts.length (count 2 k 6 1 s)
  if s.mem.ctrl.getLsbD 0 then logCe id name codewords scrub s
  else { s with store := { s.store with faults := tset [] s.store.faults id (wrongSymbols wrong) } }

/-! ### On-die SRAM (R163) -/

/-- The counter of a place's corrected words; a double-bit error counts in the next, where the place's set has one. -/
def SramPlace.counter : SramPlace → Option (Nat × Nat × Nat)
  | .coil k | .scratch k | .operand k => some (0, k, 29)
  | .hoop id => some (1, hoopOf id, 13)
  | .check _ => none
  | .handleDie => some (4, 0, 14)

/-- The store of a place of SRAM, and its logical stake or hoop, as Table 13.9 codes them. -/
def SramPlace.store : SramPlace → Nat
  | .coil _ => 0
  | .scratch _ => 1
  | .operand _ => 2
  | .hoop _ => 3
  | .check _ => 4
  | .handleDie => 5
def SramPlace.owner : SramPlace → Nat
  | .coil k | .scratch k | .operand k => k
  | .hoop id => hoopOf id
  | .check id => lineStack id / 6
  | .handleDie => 0

/-- The trace record of a double-bit error: its store, its owner, its word's offset (Table 13.9). -/
def traceSram (p : SramPlace) (s : State) : State :=
  let word := ((s.store.sram.find? fun e => e.place == p && e.double).map fun e => e.word).getD 0
  trace tSRAM_DBE p.store 0xFF s.seq.acting [p.owner, word] s

/-- A word of SRAM is read: a single-bit error is corrected and counted, a double-bit error is counted and stays. Answers whether
the word is lost. -/
def meetSram (p : SramPlace) (s : State) : Bool × State :=
  let here := s.store.sram.filter fun e => e.place == p
  if here.isEmpty then (false, s)
  else if here.any fun e => e.double then
    (true, match p.counter with
      | some (4, _, _) => s
      | some (a, i, n) => count a i (n + 1) 1 s
      | none => s)
  else
    let s := { s with store := { s.store with sram := s.store.sram.filter fun e => e.place ≠ p } }
    (false, match p.counter with
      | some (a, i, n) => count a i n here.length s
      | none => s)

/-- The uses of the handle die's SRAM (Table 1.5). -/
def useTrace : Nat := 0
def useStaging : Nat := 1
def useJournal : Nat := 2
def useQueue : Nat := 3

/-- A command reads words of the handle die's SRAM in one of its uses: single-bit errors are corrected and counted, a double-bit error
ends it (R163). Those words are written anew before they are read again. Which use a word serves is a free value: DESIGN CHOICE, log 61. -/
def meetHandle (use : Nat) (s : State) : Option Fail × State :=
  let here := fun (e : SramError) => e.place == .handleDie && Config.handleUse e.word % 4 == use
  let met := s.store.sram.filter here
  if met.isEmpty then (none, s)
  else
    let t := count 4 0 14 (met.countP fun e => !e.double) { s with store := { s.store with sram := s.store.sram.filter fun e => !here e } }
    match met.find? fun e => e.double with
    | some e => (some { status := SRAM_UNCORRECTABLE, detail := 0 }, trace tSRAM_DBE SramPlace.handleDie.store 0xFF s.seq.acting [0, e.word] t)
    | none => (none, t)

/-- The words of a place are written anew. -/
def clearSram (p : SramPlace) (s : State) : State :=
  { s with store := { s.store with sram := s.store.sram.filter fun e => e.place ≠ p } }

/-! ### The retrain journal (R149, R150) -/

/-- The groups that the one journal of the device holds, over all stacks. -/
def State.journaled (s : State) : Nat := ((List.range 12).map fun k => (s.stack k).journal.length).sum

/-- The journal entry of a write to a stack whose channel is offline; with the journal full the write is held. -/
def journal (k n : Nat) (s : State) : State :=
  let v := s.stack k
  if v.health = .retraining && v.offline.isSome && !v.journal.contains (n / 16) then
    if s.journaled < 1048576 then count 2 k 12 1 (modStack k (fun v => { v with journal := sinsert v.journal (n / 16) }) s)
    else { s with mem := { s.mem with journalOver := true } }
  else s

/-! ### Check pages (R155 to R157, R145) -/

def crcLineOf (n : Nat) : Nat := 46500000 + n / 128
def validLineOf (n : Nat) : Nat := 46863282 + n / 4096

/-- The lines of a run count as written. -/
def markWritten (k first count : Nat) (s : State) : State :=
  { s with store := { s.store with valid := (List.range count).foldl (fun l i => sinsert l (hbmLine k (first + i))) s.store.valid } }

/-- A check line is written to HBM3: a write as any other (R149 point 4). -/
def writeCheck (k n : Nat) (s : State) : State :=
  if (s.stack k).health = .failed then s
  else journal k n { s with store := { s.store with faults := terase s.store.faults (hbmLine k n) } }

/-- A check line or valid line that cannot be decoded poisons the data lines that it makes uncorrectable, is counted once and is
rewritten whole (R144, R145). -/
def badCheck (k n : Nat) (s : State) : State :=
  let s := trace tMEM_UNCORR 2 (0x20 + k) s.seq.acting [0xFFFFFFFE, 0] (writeCheck k n s)
  if n < 46863282 then
    let first := (n - dataLines) * 128
    let covered := Min.min 128 (dataLines - first)
    enterPoison k (runsOf (fun l => s.valid (hbmLine k l)) first covered) true s
  else if n < 46874635 then
    let first := (n - 46863282) * 4096
    let covered := Min.min 4096 (dataLines - first)
    markWritten k first covered (enterPoison k [(first, first + covered - 1)] true s)
  else enterPoison k [] true s

/-- A check line decoded with bytes still wrong, which nothing shows since it carries no CRC word: the CRC words or valid bits that
it holds are other ones. -/
def wrongCheck (k n : Nat) (wrong : List (Nat × Byte)) (s : State) : State :=
  let s := { s with store := { s.store with faults := terase s.store.faults (hbmLine k n) } }
  if n < 46863282 then
    wrong.foldl (fun s e =>
      let l := (n - dataLines) * 128 + e.1 / 4
      if l < dataLines then
        { s with store := { s.store with crcXor := tmod (0 : BitVec 32) s.store.crcXor (hbmLine k l) fun x => x ^^^ BitVec.ofNat 32 (e.2.toNat * 256 ^ (e.1 % 4)) } }
      else s) s
  else if n < 46874635 then
    wrong.foldl (fun s e => (List.range 8).foldl (fun s b =>
      let l := (n - 46863282) * 4096 + 8 * e.1 + b
      let id := hbmLine k l
      if e.2.getLsbD b && l < dataLines then
        { s with store := { s.store with valid := if s.valid id then serase s.store.valid id else sinsert s.store.valid id } }
      else s) s) s
  else s

/-- Reads a check line or valid line from HBM3 and decodes it. Answers whether it was bad. -/
def readCheck (k n : Nat) (scrub : Bool) (s : State) : Bool × State :=
  let id := hbmLine k n
  let erased := (s.stack k).erased n
  let s := if erased.isEmpty then s else count 2 k 9 1 s
  match if erased.isEmpty then decodePlain id (s.faultsOf id) else decodeErased id erased (s.faultsOf id) with
  | .clean => (false, s)
  | .decoded words bursts wrong _ =>
    let s := if words = 0 then s else correct id { handle := 0xFFFFFFFE, offset := 0 } words bursts [] scrub s
    (false, if wrong.isEmpty then s else wrongCheck k n wrong s)
  | .uncorrectable => (true, badCheck k n s)

/-! ### The check caches (R157) -/

def State.cache (s : State) (die : Nat) : List CheckLine := tget [] s.mem.caches die
def setCache (die : Nat) (l : List CheckLine) (s : State) : State :=
  { s with mem := { s.mem with caches := tset [] s.mem.caches die l } }

/-- A cached check line is read. A double-bit error in the cache is an uncorrectable check line (R163). Answers whether there was
one. -/
def meetCheck (id : Nat) (s : State) : Bool × State :=
  match meetSram (.check id) s with
  | (true, s) => (true, badCheck (lineStack id) (lineNo id) (clearSram (.check id) (traceSram (.check id) s)))
  | (false, s) => (false, s)

/-- A line leaves its cache: a dirty one is read there and written to HBM3. -/
def writeBack (e : CheckLine) (s : State) : State :=
  if e.dirty then
    match meetCheck e.line s with
    | (true, s) => s
    | (false, s) => writeCheck (lineStack e.line) (lineNo e.line) s
  else clearSram (.check e.line) s

/-- A full cache gives up a line, which one is left to the controller (free value, log 5). -/
def evict (die : Nat) (s : State) : State :=
  let l := s.cache die
  if l.length < 4096 then s
  else
    let i := Config.freeNat s.freeCtr % l.length
    let s := setCache die (l.eraseIdx i) (tick s)
    match l[i]? with
    | some e => writeBack e s
    | none => s

/-- A data access needs a check line: it is in its die's cache, or is fetched into words of it that are written anew; `write` makes it
dirty. Answers whether the line was bad. -/
def useCheck (k n : Nat) (write : Bool) (s : State) : Bool × State :=
  let id := hbmLine k n
  let die := k / 6
  if (s.cache die).any fun e => e.line == id then
    meetCheck id (count 2 k 4 1 (setCache die ((s.cache die).map fun e => if e.line = id then { e with dirty := e.dirty || write } else e) s))
  else
    let (bad, s) := readCheck k n false (clearSram (.check id) (evict die (count 2 k 5 1 s)))
    (bad, setCache die (s.cache die ++ [{ line := id, dirty := write }]) s)

/-- Every dirty line of the caches is written to HBM3, and the caches are empty (R157). -/
def flushCaches (s : State) : State :=
  let s := (s.cache 0 ++ s.cache 1).foldl (fun s e => writeBack e s) s
  { s with mem := { s.mem with caches := [] } }

/-! ### Reading a data line -/

/-- What a read of a line gives: its bytes, with the difference between its CRC word and its payload's CRC-32C. -/
inductive LineOut where
  | ok (bytes : List Byte) (crcXor : BitVec 32) (written : Bool)
  | uncorrectable
  | failed (stack : Nat)
  | sram
deriving DecidableEq, Repr

/-- What bytes still wrong make of the difference between a line's CRC word and its payload's CRC-32C. -/
def crcAfter (payload : List Byte) (x : BitVec 32) (wrong : List (Nat × Byte)) : BitVec 32 :=
  if wrong.isEmpty then x else x ^^^ crc32c payload ^^^ crc32c (changeBytes payload wrong)

/-- A die whose erasure decodes a line to the contents that its CRC word covers, with those contents (R144). The CRC word that an unwritten
line has left in place names no die: DESIGN CHOICE, log 64. -/
def candidate (id : Nat) (s : State) (d : Nat) : Option (List Byte) :=
  match decodeErased id [2 * d, 2 * d + 1] (s.faultsOf id) with
  | .decoded _ _ wrong _ =>
    if s.valid id && crcAfter (s.payload id) (tget 0 s.store.crcXor id) wrong = 0 then some (changeBytes (s.payload id) wrong) else none
  | _ => none

/-- Localisation (R144): each core die is tried as an erasure. Exactly one candidate names the die. Answers the line's contents
where it is read. -/
def localise (id : Nat) (name : LineName) (s : State) : Option (List Byte) × State :=
  let k := lineStack id
  let l := (List.range 8).filterMap fun d => (candidate id s d).map fun b => (d, b)
  let s := setHealth k .localising s
  match l with
  | [(d, b)] => (some b, trace tMEM_UNCORR 1 (0x20 + k) s.seq.acting [name.handle.toNat, name.offset] (failDie k d s))
  | _ => (none, setHealth k .healthy s)

/-- A data line that its stack cannot decode (R145); one that is in the poison list already is not entered again. -/
def uncorrectableLine (id : Nat) (counted : Bool) (s : State) : State :=
  if (s.stack (lineStack id)).poisoned (lineNo id) then s
  else enterPoison (lineStack id) [(lineNo id, lineNo id)] counted s

/-- An uncorrectable pattern in a data line: a HEALTHY stack localises from it, unless the line is already in the poison list. -/
def patternFound (id : Nat) (name : LineName) (s : State) : LineOut × State :=
  let v := s.stack (lineStack id)
  if v.health = .healthy && !v.poisoned (lineNo id) then
    match localise id name s with
    | (some b, s) => (.ok b 0 (s.valid id), s)
    | (none, s) => (.uncorrectable, uncorrectableLine id true s)
  else (.uncorrectable, uncorrectableLine id true s)

/-- Decodes the stored symbols of a data line in its stack's state (R141 to R149). A written line's strand is verified wherever a
burst was erased. -/
def decodeLine (id : Nat) (name : LineName) (scrub : Bool) (s : State) : LineOut × State :=
  let k := lineStack id
  let erased := (s.stack k).erased (lineNo id)
  let s := if erased.isEmpty then s else count 2 k 9 1 s
  let x := tget 0 s.store.crcXor id
  match if erased.isEmpty then decodePlain id (s.faultsOf id) else decodeErased id erased (s.faultsOf id) with
  | .clean => (.ok (s.payload id) x (s.valid id), s)
  | .uncorrectable => patternFound id name s
  | .decoded words bursts wrong erasure =>
    let y := crcAfter (s.payload id) x wrong
    if erasure && s.valid id && y ≠ 0 then
      if erased.isEmpty then patternFound id name s
      else (.uncorrectable, uncorrectableLine id ((s.stack k).health == .degraded) s)
    else (.ok (changeBytes (s.payload id) wrong) y (s.valid id),
          if words = 0 then s else correct id name words bursts wrong scrub s)

/-- Reads a line for an access: a poisoned line and a FAILED stack give nothing, an unwritten line reads as zeros without
an access to HBM3 (R145, R148, R156); the check page is read first (R157). -/
def readLine (id : Nat) (name : LineName) (s : State) : LineOut × State :=
  if isHbm id then
    let k := lineStack id
    let n := lineNo id
    let v := s.stack k
    if v.health = .failed then (.failed k, s)
    else if v.poisoned n then (.uncorrectable, s)
    else
      match useCheck k (validLineOf n) false s with
      | (true, s) => (.uncorrectable, s)
      | (false, s) =>
        if !s.valid id then (.ok (List.replicate 512 0) 0 false, count 2 k 3 1 s)
        else
          match useCheck k (crcLineOf n) false s with
          | (true, s) => (.uncorrectable, s)
          | (false, s) => decodeLine id name false (count 2 k 0 1 s)
  else
    match meetSram (.hoop id) s with
    | (true, s) => (.sram, s)
    | (false, s) =>
      if s.valid id then (.ok (s.payload id) (tget 0 s.store.crcXor id) true, 
        count 1 (hoopOf id) 4 1 (count 1 (hoopOf id) 0 1 s))
      else (.ok (List.replicate 512 0) 0 false, s)

/-! ### Reports -/

/-- Bits [57:32] of the details of R145 and R162: bits [34:9] of the byte offset. -/
def lineDetail (name : LineName) : Nat := name.handle.toNat + name.offset / 512 % 2 ^ 26 * 2 ^ 32

/-- The end of a command that met an uncorrectable line (R145). -/
def reportUncorr (name : LineName) (id : Nat) (s : State) : Fail × State :=
  ({ status := UNCORRECTABLE, detail := lineDetail name },
   trace tMEM_UNCORR 0 (0x20 + lineStack id) s.seq.acting [name.handle.toNat, name.offset] (raiseMem 0 s))

/-- The end of a command that moved a strand that fails verification (R162). -/
def reportCrc (name : LineName) (detected lastGood : Nat) (source : Nat) (s : State) : Fail × State :=
  let s := { s with mem := { s.mem with strandFails := tmod 0 s.mem.strandFails detected (· + 1) } }
  ({ status := STRAND_CRC_MISMATCH, detail := lineDetail name + detected * 2 ^ 58 + lastGood * 2 ^ 61 },
   trace tCRC_MISMATCH 0 source s.seq.acting [name.handle.toNat, name.offset, detected, lastGood] (raiseMem 3 s))

/-- The end of a command that met a double-bit error in an SRAM (R163). -/
def reportSram (p : SramPlace) (s : State) : Fail × State :=
  ({ status := SRAM_UNCORRECTABLE, detail := 0 }, traceSram p s)

/-- The last point at which a stored line's strand was made or verified good (R162): the memory write for HBM3, and for a hoop
store what the path to it gave. -/
def lastGood (id : Nat) (s : State) : Nat := if isHbm id then 4 else tget 0 s.store.made id

/-- The last good point of a strand that moves from line `src` to line `dst`: a bridge crossing verifies it (R162). -/
def movedFrom (src dst : Nat) (s : State) : Nat := if lineDie src = lineDie dst then lastGood src s else 5

/-- The last good point of a strand that `die`, or the handle die, makes and sends to a line: the epilogue (Table 7.9), or the
bridge that it crosses. -/
def madeAt (die : Option Nat) (id : Nat) : Nat := if die = some (lineDie id) then 2 else 5

/-- Where a strand read from a line is verified: at a bridge crossing, or at point `here` (R162). -/
def verifyPoint (id : Nat) (die : Option Nat) (here : Nat) : Nat :=
  if die = some (lineDie id) then here else 5

/-- The outcome of a read as a command meets it at point `here`, with the reader on `die`, or on the handle die. -/
def takeLine (id : Nat) (name : LineName) (die : Option Nat) (here : Nat) (s : State) : Except Fail (List Byte × Bool) × State :=
  match readLine id name s with
  | (.ok bytes x written, s) =>
    if x = 0 then (.ok (bytes, written), s)
    else
      let (f, s) := reportCrc name (verifyPoint id die here) (lastGood id s) 0xFF s
      (.error f, s)
  | (.uncorrectable, s) => let (f, s) := reportUncorr name id s; (.error f, s)
  | (.failed k, s) => (.error { status := STACK_FAILED, detail := k }, s)
  | (.sram, s) => let (f, s) := reportSram (.hoop id) s; (.error f, s)

/-! ### Writing a line -/

/-- The stored contents of a line become `bytes`, with a fresh CRC word; the line leaves the poison list (R145, R156). -/
def storeLine (id : Nat) (bytes : List Byte) (made : Nat) (s : State) : State :=
  let st := s.store
  let s := { s with store := { st with
    cells := putBytes st.cells (id * 512) bytes, valid := sinsert st.valid id, crcXor := terase st.crcXor id,
    faults := terase st.faults id, sram := st.sram.filter fun e => e.place ≠ .hoop id,
    made := if isHbm id then st.made else tset 0 st.made id made } }
  if isHbm id then leavePoison id (count 2 (lineStack id) 1 1 (journal (lineStack id) (lineNo id) s))
  else count 1 (hoopOf id) 1 1 s

/-- The check lines that a write of a data line changes: its valid bit where it is clear, and its CRC word (R155, R157). A bad one
is found now, before the write (R145). Answers whether the stack still takes the write. -/
def checkForWrite (id : Nat) (s : State) : Bool × State :=
  let k := lineStack id
  let n := lineNo id
  let (_, s) := useCheck k (validLineOf n) (!s.valid id) s
  let (_, s) := useCheck k (crcLineOf n) true s
  ((s.stack k).health ≠ .failed, s)

/-- Writes a whole line; the strand is verified before it is encoded (R161 point 4, R162: a failure leaves the line). `last` is the
last point at which the strand was good. -/
def writeLine (id : Nat) (name : LineName) (bytes : List Byte) (crcXor : BitVec 32) (last : Nat) (s : State) : Option Fail × State :=
  if isHbm id then
    let k := lineStack id
    if (s.stack k).health = .failed then (some { status := STACK_FAILED, detail := k }, s)
    else if crcXor ≠ 0 then
      let (f, s) := reportCrc name 4 last (0x20 + k) (count 2 k 22 1 s)
      (some f, s)
    else
      match checkForWrite id s with
      | (true, s) => (none, storeLine id bytes last s)
      | (false, s) => (some { status := STACK_FAILED, detail := k }, s)
  else if crcXor ≠ 0 then
    let s := storeLine id bytes last s
    (none, { s with store := { s.store with crcXor := tinsert s.store.crcXor id crcXor } })
  else (none, storeLine id bytes last s)

/-- Clears the valid bit of a whole line (R156): the line reads as zeros, and counts as written whole (R145). What HBM3 stores
stays as it is, wrong symbols too. A stack that fails as the valid line is fetched takes no access (R148). -/
def clearLine (id : Nat) (s : State) : Option Fail × State :=
  let failed := fun (s : State) => isHbm id && (s.stack (lineStack id)).health = .failed
  let refused : Fail := { status := STACK_FAILED, detail := lineStack id }
  if failed s then (some refused, s)
  else
    let s := if isHbm id then (useCheck (lineStack id) (validLineOf (lineNo id)) (s.valid id) s).2 else s
    if failed s then (some refused, s)
    else
      let st := s.store
      let s := { s with store := { st with
        cells := putBytes st.cells (id * 512) (List.replicate 512 0), valid := serase st.valid id,
        crcXor := terase st.crcXor id, sram := st.sram.filter fun e => e.place ≠ .hoop id, made := terase st.made id } }
      (none, if isHbm id then leavePoison id s else s)

/-- Bytes from `at` on replaced in a line. -/
def splice (line : List Byte) (pos : Nat) (bytes : List Byte) : List Byte :=
  line.take pos ++ bytes ++ line.drop (pos + bytes.length)

/-- A store merge (R133, point 3): the line is read and verified, its bytes replaced, and written; a failed read leaves it. -/
def mergeLine (id : Nat) (name : LineName) (pos : Nat) (bytes : List Byte) (s : State) : Option Fail × State :=
  match readLine id name s with
  | (.ok old x _, s) =>
    if x ≠ 0 then
      let (f, s) := reportCrc name 3 (lastGood id s) (if isHbm id then 0x20 + lineStack id else 0xFF) s
      (some f, s)
    else if isHbm id then
      match checkForWrite id s with
      | (true, s) => (none, count 2 (lineStack id) 2 1 (storeLine id (splice old pos bytes) 3 s))
      | (false, s) => (some { status := STACK_FAILED, detail := lineStack id }, s)
    else (none, count 1 (hoopOf id) 12 1 (storeLine id (splice old pos bytes) 3 s))
  | (.uncorrectable, s) => let (f, s) := reportUncorr name id s; (some f, s)
  | (.failed k, s) => (some { status := STACK_FAILED, detail := k }, s)
  | (.sram, s) => let (f, s) := reportSram (.hoop id) s; (some f, s)

/-! ### A handle's bytes -/

/-- Counts lines moved to or from a tensor (R174, TRAFFIC). -/
def traffic (idx n : Nat) (s : State) : State :=
  { s with plc := { s.plc with running := tmod 0 s.plc.running idx (· + n) } }

/-- Reads the lines `i` to `i + n - 1` of a handle and joins their bytes. -/
def readLines (h : BitVec 32) (idx : Nat) (d : Desc) (die : Option Nat) (here : Nat) (i : Nat) : Nat → Cmd (List Byte)
  | 0 => pure []
  | n + 1 => do
    let s ← get
    let id := s.lineOf idx d i
    match takeLine id { handle := h, offset := i * 512 } die here s with
    | (.ok (bytes, _), s) =>
      set (traffic idx 1 s)
      let rest ← readLines h idx d die here (i + 1) n
      pure (bytes ++ rest)
    | (.error f, s) =>
      set s
      throw f

/-- Reads `len` bytes from `off` of a handle, verified at point `here` by a reader on `die`. -/
def readBytes (h : BitVec 32) (off len : Nat) (die : Option Nat) (here : Nat := 6) : Cmd (List Byte) := do
  match (← get).desc h with
  | none => refuse HANDLE_INVALID h.toNat
  | some (idx, d) =>
    if len = 0 then pure []
    else
      let i := off / 512
      let bytes ← readLines h idx d die here i (cdiv (off + len) 512 - i)
      pure (slice bytes (off - i * 512) len)

/-- The pieces of `bytes` at `off`, cut at line boundaries: line, position in it, bytes. -/
def pieces (off : Nat) (bytes : List Byte) : Nat → List (Nat × Nat × List Byte)
  | 0 => []
  | n + 1 =>
    if bytes.isEmpty then []
    else
      let pos := off % 512
      let room := 512 - pos
      (off / 512, pos, bytes.take room) :: pieces (off + room) (bytes.drop room) n

/-- Writes one piece, whose strand `die` or the handle die makes: a whole line, or a merge (R133). -/
def writePiece (die : Option Nat) (h : BitVec 32) (idx : Nat) (d : Desc) (p : Nat × Nat × List Byte) (s : State) : Option Fail × State :=
  let id := s.lineOf idx d p.1
  let name : LineName := { handle := h, offset := p.1 * 512 }
  let s := traffic idx 1 s
  if p.2.2.length = 512 then writeLine id name p.2.2 0 (madeAt die id) s else mergeLine id name p.2.1 p.2.2 s

/-- Writes pieces in order; a failed one leaves its line and the others continue; answers the first failure (R133). -/
def writePieces (die : Option Nat) (h : BitVec 32) (idx : Nat) (d : Desc) : List (Nat × Nat × List Byte) → State → Option Fail × State
  | [], s => (none, s)
  | p :: t, s =>
    let (f, s) := writePiece die h idx d p s
    let (g, s) := writePieces die h idx d t s
    (f.or g, s)

/-- Writes bytes at `off` of a handle, made on `die` or on the handle die. -/
def writeFrom (die : Option Nat) (h : BitVec 32) (off : Nat) (bytes : List Byte) (s : State) : Option Fail × State :=
  match s.desc h with
  | none => (some { status := HANDLE_INVALID, detail := h.toNat }, s)
  | some (idx, d) => writePieces die h idx d (pieces off bytes (bytes.length / 512 + 2)) s

/-- Writes bytes at `off` of a handle from the handle die. -/
def writeBytes (h : BitVec 32) (off : Nat) (bytes : List Byte) (s : State) : Option Fail × State := writeFrom none h off bytes s

/-- What a command writes: handle, offset, bytes. -/
abbrev Out := BitVec 32 × Nat × List Byte

/-- Makes a command's writes from `die`, or from the handle die; the first failure is its status (R133). -/
def writeOuts (die : Option Nat) : List Out → State → Option Fail × State
  | [], s => (none, s)
  | (h, off, bytes) :: t, s =>
    let (f, s) := writeFrom die h off bytes s
    let (g, s) := writeOuts die t s
    (f.or g, s)

/-! ### Writes that a full retrain journal holds (R150) -/

/-- An operation whose writes a full journal would hold has not taken place: it waits as a whole. -/
def unlessOver (f : State → State) (s : State) : State :=
  let t := f { s with mem := { s.mem with journalOver := false } }
  if t.mem.journalOver then s else t

/-- The status bits of a BAR4 request that failed with `fs` (R341): a FAILED stack's is STACK_FAILED; the others' are set where the line
or strand is met. -/
def raisePoisoned (fs : List Fail) (s : State) : State :=
  if fs.isEmpty then s
  else raiseLnk 4 (if fs.any (·.status = STACK_FAILED) then raiseMem 2 s else s)

/-- Writes pieces in order, answering every failure. -/
def writeEach (h : BitVec 32) (idx : Nat) (d : Desc) : List (Nat × Nat × List Byte) → State → List Fail × State
  | [], s => ([], s)
  | p :: t, s =>
    let (f, s) := writePiece none h idx d p s
    let (fs, s) := writeEach h idx d t s
    (f.toList ++ fs, s)

/-- A BAR4 write is made: split at lines, written whole or merged; what fails is discarded and reported (R340, R341). -/
def writeBar4 (h : BitVec 32) (off : Nat) (bytes : List Byte) (s : State) : State :=
  match s.desc h with
  | none => s
  | some (idx, d) =>
    let (fs, s) := writeEach h idx d (pieces off bytes (bytes.length / 512 + 2)) s
    raisePoisoned fs s

/-- A reply's bytes with PHASE as it is when they are written. -/
def setPhase (phase : Bool) (bytes : List Byte) : List Byte :=
  bytes.set 6 ((bytes.getD 6 0 &&& 0xFE) ||| BitVec.ofNat 8 (b2n phase))

/-- A reply goes to the completion tail of a ring in device memory (R202). -/
def writeToTail (q : Nat) (h : BitVec 32) (bytes : List Byte) (s : State) : State :=
  let v := s.queue q
  let bytes := setPhase v.phase bytes
  match writeBytes h (v.cqBase.toNat + 32 * v.cqTail) bytes s with
  | (none, s) => replied q bytes s
  | (some _, s) => replyLost q s

/-- A write that may be held is made. -/
def HeldWrite.make (w : HeldWrite) (s : State) : Option Fail × State :=
  match w.reply with
  | some q => (none, writeToTail q w.handle w.bytes s)
  | none => if w.bar4 then (none, writeBar4 w.handle w.offset w.bytes s) else writeBytes w.handle w.offset w.bytes s

/-- A write of the host, of a reply or of an event: made now, or in the order of arrival once the channel returns. -/
def writeHeld (w : HeldWrite) (s : State) : Option Fail × State :=
  let wait : State := { s with mem := { s.mem with heldWrites := s.mem.heldWrites ++ [w] } }
  if !s.mem.heldWrites.isEmpty then (none, wait)
  else
    let (f, t) := w.make { s with mem := { s.mem with journalOver := false } }
    if t.mem.journalOver then (none, wait) else (f, { t with mem := { t.mem with journalOver := s.mem.journalOver } })

/-- The held writes take place; one that is still held stays, with those after it. -/
def releaseHeld (s : State) : State :=
  s.mem.heldWrites.foldl (fun s w => (writeHeld w s).2) { s with mem := { s.mem with heldWrites := [] } }

/-- Bytes that a failed command leaves in a region it was to write: free values (R145, R203). -/
def freeBytes (ctr : Nat) (n : Nat) : List Byte := (List.range n).map fun i => Config.freeByte ctr i

/-! ### Host memory -/

/-- Whether PCI Express reports an access to these host addresses as failed. -/
def State.hostFails (s : State) (addr len : Nat) : Bool :=
  s.out.failing.any fun r => r.1 < addr + len && addr ≤ r.2

/-- Writes host memory. -/
def hostWrite (addr : Nat) (bytes : List Byte) (s : State) : State :=
  { s with out := { s.out with memory := putBytes s.out.memory addr bytes } }

end Sys2Proof.Machine
end

