-- ==== Sys2Proof/Machine/Numbers.lean ====
section
/-! DEFINITION. Number formats and rounding (chapter 2): exact values, the codes of every format, and the one rounding
operation that every conversion goes through. -/

namespace Sys2Proof.Machine

/-- A value: NaN, an infinity, or m × 2^e. Zero has one sign (R38). -/
inductive Num where
  | nan
  | inf (neg : Bool)
  | fin (m e : Int)
deriving DecidableEq, Repr

/-- How a result is rounded (Table 2.8); SR carries its 16-bit draw (R43). -/
inductive Rnd where
  | rne | rtz
  | sr (draw : Nat)
deriving DecidableEq, Repr

/-- A floating-point format (Table 2.4, Table 2.5): exponent bits, fraction bits, bias, whether it has infinities, and the
significand of its largest finite value. -/
structure Flt where
  ebits  : Nat
  fbits  : Nat
  bias   : Int
  hasInf : Bool
  nan    : Option Nat
  maxSig : Nat
deriving DecidableEq, Repr

def fltFp4 : Flt := ⟨2, 1, 1, false, none, 3⟩
def fltE2M3 : Flt := ⟨2, 3, 1, false, none, 15⟩
def fltE3M2 : Flt := ⟨3, 2, 3, false, none, 7⟩
def fltE4M3 : Flt := ⟨4, 3, 7, false, some 0x7F, 14⟩
def fltE5M2 : Flt := ⟨5, 2, 15, true, some 0x7E, 7⟩
def fltBf16 : Flt := ⟨8, 7, 127, true, some 0x7FC0, 255⟩
def fltFp16 : Flt := ⟨5, 10, 15, true, some 0x7E00, 2047⟩
def fltFp32 : Flt := ⟨8, 23, 127, true, some 0x7FC00000, 16777215⟩
def fltW40 : Flt := ⟨8, 31, 127, true, some 0x7FC0000000, 4294967295⟩

/-- What a format code names (Table 2.1). -/
inductive Kind where
  | int (bits : Nat)
  | flt (f : Flt)
  | scale
deriving DecidableEq, Repr

/-- Table 2.1; 0xF and above name nothing. -/
def formatKind : Nat → Option Kind
  | 0x0 => some (.int 2)
  | 0x1 => some (.int 4)
  | 0x2 => some (.int 8)
  | 0x3 => some (.int 16)
  | 0x4 => some (.int 32)
  | 0x5 => some (.flt fltFp4)
  | 0x6 => some (.flt fltE2M3)
  | 0x7 => some (.flt fltE3M2)
  | 0x8 => some (.flt fltE4M3)
  | 0x9 => some (.flt fltE5M2)
  | 0xA => some (.flt fltBf16)
  | 0xB => some (.flt fltFp16)
  | 0xC => some (.flt fltFp32)
  | 0xD => some .scale
  | 0xE => some (.flt fltW40)
  | _ => none

/-- Storage bits of a format code (Table 2.1). -/
def storageBits (c : Nat) : Nat :=
  match formatKind c with
  | some (.int b) => b
  | some (.flt f) => 1 + f.ebits + f.fbits
  | some .scale => 8
  | none => 0

/-- Whether a format is block-scaled (Table 2.1): INT2, INT4 and FP4 to FP8. -/
def blockScaled (c : Nat) : Bool := c == 0 || c == 1 || (5 ≤ c && c ≤ 9)

/-- Positions of Table 2.2. -/
def isMatrixOperand (c : Nat) : Bool := c ≤ 2 || (5 ≤ c && c ≤ 0xC)
def isVectorFormat (c : Nat) : Bool := c == 3 || c == 4 || (0xA ≤ c && c ≤ 0xC)
def isStoredFormat (c : Nat) : Bool := c ≤ 0xC

/-- Exponent of the smallest normal. -/
def Flt.emin (f : Flt) : Int := 1 - f.bias

/-- Exponent of the unit in the last place of the largest finite value. -/
def Flt.maxUnit (f : Flt) : Int :=
  (2 : Int) ^ f.ebits - (if f.hasInf then 2 else 1) - f.bias - f.fbits

/-- Sign of a magnitude. -/
def signed (neg : Bool) (m : Nat) : Int := if neg then -(m : Int) else m

/-- The value of a float code (R29, R31). -/
def decodeFlt (f : Flt) (c : Nat) : Num :=
  let neg := bit c (f.ebits + f.fbits)
  let e := bits c (f.ebits + f.fbits - 1) f.fbits
  let fr := c % 2 ^ f.fbits
  if f.hasInf && e == 2 ^ f.ebits - 1 then (if fr == 0 then .inf neg else .nan)
  else if !f.hasInf && f.nan.isSome && c % 2 ^ (f.ebits + f.fbits) == 2 ^ (f.ebits + f.fbits) - 1 then .nan
  else if e == 0 then .fin (signed neg fr) (f.emin - f.fbits)
  else .fin (signed neg (2 ^ f.fbits + fr)) (e - f.bias - f.fbits)

/-- A two's complement value. -/
def decodeInt (b c : Nat) : Int :=
  let v : Int := (c % 2 ^ b : Nat)
  if bit c (b - 1) then v - (2 : Int) ^ b else v

/-- The value of a code in a format, without any block or tensor scale (R28, R29, R33). -/
def decode (fmt c : Nat) : Num :=
  match formatKind fmt with
  | some (.int b) => .fin (decodeInt b c) 0
  | some (.flt f) => decodeFlt f c
  | some .scale => if c % 256 == 255 then .nan else .fin 1 ((c % 256 : Nat) - 127)
  | none => .nan

/-- Whether the value is finite. -/
def Num.isFin : Num → Bool
  | .fin _ _ => true
  | _ => false

/-- The exact sum; opposite infinities give NaN. -/
def Num.add : Num → Num → Num
  | .nan, _ => .nan
  | _, .nan => .nan
  | .inf a, .inf b => if a == b then .inf a else .nan
  | .inf a, _ => .inf a
  | _, .inf b => .inf b
  | .fin m e, .fin n d =>
    let k := min e d
    .fin (m * 2 ^ (e - k).toNat + n * 2 ^ (d - k).toNat) k

/-- The exact negation. -/
def Num.neg : Num → Num
  | .nan => .nan
  | .inf a => .inf (!a)
  | .fin m e => .fin (-m) e

def Num.sub (x y : Num) : Num := x.add y.neg

/-- Whether the value is negative. -/
def Num.isNeg : Num → Bool
  | .nan => false
  | .inf a => a
  | .fin m _ => decide (m < 0)

def Num.isZero : Num → Bool
  | .fin m _ => m == 0
  | _ => false

/-- The exact product; infinity times zero gives NaN. -/
def Num.mul : Num → Num → Num
  | .nan, _ => .nan
  | _, .nan => .nan
  | .fin m e, .fin n d => .fin (m * n) (e + d)
  | x, y => if x.isZero || y.isZero then .nan else .inf (x.isNeg != y.isNeg)

/-- Multiplication by a power of two, exact. -/
def Num.scale (x : Num) (k : Int) : Num :=
  match x with
  | .fin m e => .fin m (e + k)
  | y => y

def Num.abs : Num → Num
  | .nan => .nan
  | .inf _ => .inf false
  | .fin m e => .fin (Int.natAbs m) e

/-- `x < y` for values other than NaN. -/
def Num.lt (x y : Num) : Bool :=
  match x, y with
  | .fin _ _, .fin _ _ => (x.sub y).isNeg
  | .inf a, .inf b => a && !b
  | .inf a, .fin _ _ => a
  | .fin _ _, .inf b => !b
  | _, _ => false

def Num.le (x y : Num) : Bool := x.lt y || (x.isFin && y.isFin && (x.sub y).isZero) || (x == y && x != .nan)

/-- R41. -/
def Num.max (x y : Num) : Num :=
  match x, y with
  | .nan, z => z
  | z, .nan => z
  | _, _ => if x.lt y then y else x

def Num.min (x y : Num) : Num :=
  match x, y with
  | .nan, z => z
  | z, .nan => z
  | _, _ => if y.lt x then y else x

/-- floor(log2 (n / d)) for n, d > 0. -/
def floorLog2Quot (n d : Nat) : Int :=
  let l : Int := (Nat.log2 n : Int) - Nat.log2 d
  if l ≥ 0 then (if n < d * 2 ^ l.toNat then l - 1 else l)
  else (if n * 2 ^ (-l).toNat < d then l - 1 else l)

/-- floor(log2 |x|) of a non-zero finite value. -/
def Num.floorLog2 : Num → Int
  | .fin m e => (Nat.log2 m.natAbs : Int) + e
  | _ => 0

/-- The multiple of 2^q that a magnitude n/d × 2^e rounds to (Table 2.8, R43), as a count of 2^q. -/
def roundUnits (r : Rnd) (n d : Nat) (e q : Int) : Nat :=
  let n' := if e ≥ q then n * 2 ^ (e - q).toNat else n
  let d' := if e ≥ q then d else d * 2 ^ (q - e).toNat
  let k := n' / d'
  let rest := n' % d'
  match r with
  | .rne => if 2 * rest > d' || (2 * rest == d' && k % 2 == 1) then k + 1 else k
  | .rtz => k
  | .sr draw => if draw < rest * 65536 / d' then k + 1 else k

/-- The exponent of the last place of a magnitude in a format of `p` significant bits. -/
def lastPlace (p : Nat) (emin : Int) (n d : Nat) (e : Int) : Int :=
  Max.max (floorLog2Quot n d + e) emin - (p - 1 : Nat)

/-- What a conversion gives: the code, and whether it counts as saturated (R40). -/
structure Conv where
  code : Nat
  sat  : Bool := false
deriving DecidableEq, Repr

/-- The code of k × 2^q, a magnitude already rounded into the format. -/
def packFlt (f : Flt) (neg : Bool) (k : Nat) (q : Int) : Nat :=
  let s := if neg then 2 ^ (f.ebits + f.fbits) else 0
  if k == 0 then 0
  else if k < 2 ^ f.fbits then s + k
  else
    let carried := k ≥ 2 ^ (f.fbits + 1)
    let k := if carried then k / 2 else k
    let q := if carried then q + 1 else q
    let e := (q + f.fbits + f.bias).toNat
    if f.hasInf && e ≥ 2 ^ f.ebits - 1 then s + (2 ^ f.ebits - 1) * 2 ^ f.fbits
    else s + e * 2 ^ f.fbits + (k - 2 ^ f.fbits)

/-- The code of the largest finite magnitude. -/
def maxCode (f : Flt) (neg : Bool) : Nat := packFlt f neg f.maxSig f.maxUnit

/-- A magnitude n/d × 2^e with its sign, converted into a float format (R40 points 3 and 4, R42, R43, R38). -/
def convQuot (f : Flt) (r : Rnd) (neg : Bool) (n d : Nat) (e : Int) : Conv :=
  if n == 0 then { code := 0 }
  else
    let max : Num := .fin (f.maxSig * d : Nat) f.maxUnit
    let above := max.lt (.fin n e)
    if above && !f.hasInf then { code := maxCode f neg, sat := true }
    else if above && r == .rtz then { code := maxCode f neg }
    else
      let top : Num := .fin d (f.maxUnit + f.fbits + 1)
      if f.hasInf && top.le (.fin n e) then
        { code := (if neg then 2 ^ (f.ebits + f.fbits) else 0) + (2 ^ f.ebits - 1) * 2 ^ f.fbits }
      else
        let q := lastPlace (f.fbits + 1) f.emin n d e
        { code := packFlt f neg (roundUnits r n d e q) q }

/-- A value converted into a float format (R39, R40). For FP4 and FP6, whose blocks take a NaN scale instead, NaN and
infinity have the code 0 (R40 point 1). -/
def convFlt (f : Flt) (r : Rnd) (x : Num) : Conv :=
  match x with
  | .nan => { code := f.nan.getD 0 }
  | .inf neg =>
    if f.hasInf then { code := (if neg then 2 ^ (f.ebits + f.fbits) else 0) + (2 ^ f.ebits - 1) * 2 ^ f.fbits }
    else { code := f.nan.getD 0 }
  | .fin m e => convQuot f r (decide (m < 0)) m.natAbs 1 e

/-- A magnitude n/d × 2^e with its sign, converted into a two's complement format (R40 point 3). -/
def convIntQuot (b : Nat) (r : Rnd) (neg : Bool) (n d : Nat) (e : Int) : Conv :=
  let limit := if neg then 2 ^ (b - 1) else 2 ^ (b - 1) - 1
  if (Num.fin (limit * d : Nat) 0).lt (.fin n e) then
    { code := (if neg then 2 ^ (b - 1) else limit), sat := true }
  else { code := (signed neg (roundUnits r n d e 0) % (2 : Int) ^ b).toNat }

/-- A value converted into a two's complement format (R40 points 3 and 5). -/
def convInt (b : Nat) (r : Rnd) (x : Num) : Conv :=
  match x with
  | .nan => { code := 0, sat := true }
  | .inf neg => { code := if neg then 2 ^ (b - 1) else 2 ^ (b - 1) - 1, sat := true }
  | .fin m e => convIntQuot b r (decide (m < 0)) m.natAbs 1 e

/-- A value converted into a format. -/
def convert (fmt : Nat) (r : Rnd) (x : Num) : Conv :=
  match formatKind fmt with
  | some (.int b) => convInt b r x
  | some (.flt f) => convFlt f r x
  | _ => { code := 0 }

/-- The exact quotient of finite values as sign, numerator, denominator and exponent. -/
def quotient (m e n d : Int) : Bool × Nat × Nat × Int :=
  (decide (m < 0) != decide (n < 0), m.natAbs, n.natAbs, e - d)

/-- x / y converted into a float format in one rounding; x/0 is an infinity, 0/0 NaN. -/
def divFlt (f : Flt) (r : Rnd) (x y : Num) : Nat :=
  match x, y with
  | .fin m e, .fin n d =>
    if n == 0 then (convFlt f r (if m == 0 then .nan else .inf (decide (m < 0)))).code
    else
      let (neg, a, b, k) := quotient m e n d
      (convQuot f r neg a b k).code
  | .fin _ _, .inf _ => 0
  | .inf a, .fin n _ => (convFlt f r (.inf (a != decide (n < 0)))).code
  | _, _ => (convFlt f r .nan).code

/-- The integer square root, by bits from `2^fuel` down. -/
def isqrtFrom : Nat → Nat → Nat → Nat
  | 0, _, acc => acc
  | fuel + 1, n, acc =>
    let c := acc + 2 ^ fuel
    isqrtFrom fuel n (if c * c ≤ n then c else acc)

def isqrt (n : Nat) : Nat := isqrtFrom (Nat.log2 n / 2 + 1) n 0

/-- The square root of a positive value to `k` more bits than its integer part needs, with a last bit that marks an inexact
root, so that rounding it to fewer bits rounds the root. -/
def sqrtNum (k : Nat) : Num → Num
  | .fin m e =>
    if m ≤ 0 then (if m == 0 then .fin 0 0 else .nan)
    else
      let odd := e % 2 != 0
      let n := m.toNat * (if odd then 2 else 1) * 2 ^ (2 * k)
      let e := if odd then e - 1 else e
      let s := isqrt n
      .fin (2 * s + (if s * s == n then 0 else 1) : Nat) (e / 2 - k - 1)
  | .inf false => .inf false
  | _ => .nan

/-- The FP32 value of a code, and the FP32 code of a value rounded to nearest. -/
def f32 (c : Nat) : Num := decodeFlt fltFp32 c
def toF32 (x : Num) : Nat := (convFlt fltFp32 .rne x).code

/-- One correctly rounded FP32 operation on values that are FP32 (Table 2.11, UPDATE internal steps). -/
def addF (x y : Num) : Num := f32 (toF32 (x.add y))
def subF (x y : Num) : Num := f32 (toF32 (x.sub y))
def mulF (x y : Num) : Num := f32 (toF32 (x.mul y))
def divF (x y : Num) : Num := f32 (divFlt fltFp32 .rne x y)
def sqrtF (x : Num) : Num := f32 (toF32 (sqrtNum 40 x))

/-- A W40 value of a code, and rounding into W40 (R31, Table 2.9). -/
def w40 (c : Nat) : Num := decodeFlt fltW40 c
def toW40 (x : Num) : Nat := (convFlt fltW40 .rne x).code

/-- The sum of two W40 values rounded into W40. -/
def addW (x y : Num) : Num := w40 (toW40 (x.add y))

/-- Pairs of neighbours summed; a last value without a neighbour stands. -/
def pairUp (op : Num → Num → Num) : List Num → List Num
  | a :: b :: t => op a b :: pairUp op t
  | l => l

/-- The pairwise tree in index order (R208): `fuel` levels of pairing. -/
def treeLevels (op : Num → Num → Num) : Nat → List Num → List Num
  | 0, l => l
  | n + 1, l => treeLevels op n (pairUp op l)

/-- The pairwise tree over a list; `z` of an empty one. -/
def tree (op : Num → Num → Num) (z : Num) (l : List Num) : Num :=
  match treeLevels op (clog2 l.length) l with
  | a :: _ => a
  | [] => z

/-- ulp(x) of Table 2.11 for a float format, as the exponent of the unit. -/
def ulpExp (f : Flt) (x : Num) : Int :=
  match x with
  | .fin m e => if m == 0 then f.emin - f.fbits else lastPlace (f.fbits + 1) f.emin m.natAbs 1 e
  | _ => 0

/-- Whether a value lies within `ulps` units in the last place of a reference in a format. -/
def withinUlps (f : Flt) (ulps : Nat) (v ref : Num) : Bool :=
  v.isFin && (v.sub ref).abs.le (.fin ulps (ulpExp f ref))

/-- A result that Table 2.11 bounds to `ulps` ulp of FP32: the free candidate when it lies within the bound, else the reference
rounded to nearest; a reference beyond FP32 stays exact, so that the output conversion settles the overflow. -/
def bounded (op : Nat) (operands : List Nat) (ulps : Nat) (ref : Num) : Num :=
  match ref with
  | .fin _ _ =>
    let v := f32 (Config.candidate op operands % 2 ^ 32)
    let d := f32 (toF32 ref)
    if !d.isFin then ref else if withinUlps fltFp32 ulps v ref then v else d
  | x => x

/-- A value cut to about 120 significant bits. -/
def cut (x : Num) : Num :=
  match x with
  | .fin m e =>
    let l := Nat.log2 m.natAbs
    if l ≤ 120 then x else .fin (m / 2 ^ (l - 120)) (e + (l - 120 : Nat))
  | y => y

/-- x / y to about 120 significant bits, for finite y other than 0. -/
def quotNum (x y : Num) : Num :=
  match x, y with
  | .fin m e, .fin n d =>
    if n == 0 then (if m == 0 then .nan else .inf (decide (m < 0)))
    else
      let k := 240 + Nat.log2 n.natAbs
      cut (.fin (m * 2 ^ k * (if n < 0 then -1 else 1) / n.natAbs) (e - d - k))
  | .fin _ _, .inf _ => .fin 0 0
  | .inf a, .fin n _ => .inf (a != decide (n < 0))
  | _, _ => .nan

/-- ln 2 × 2^128. -/
def ln2Fix : Int := 235865763225513294137944142764154484399

/-- The terms r^k / k! from k = `k` on, at 128 fraction bits, added up. -/
def expTerms : Nat → Int → Int → Int → Int
  | 0, _, _, _ => 0
  | fuel + 1, k, term, r =>
    let t := term * r / 2 ^ 128 / k
    t + expTerms fuel (k + 1) t r

/-- e^x to about 100 bits; arguments beyond ±512 are taken at ±512, where FP32 has overflowed or vanished. -/
def expRef (x : Num) : Num :=
  match x with
  | .nan => .nan
  | .inf neg => if neg then .fin 0 0 else .inf false
  | .fin m e =>
    let big : Num := .fin 512 0
    if big.lt x then .fin 1 738
    else if x.lt big.neg then .fin 1 (-738)
    else
      let fx : Int := if e + 128 ≥ 0 then m * 2 ^ (e + 128).toNat else m / 2 ^ (-(e + 128)).toNat
      let k := fx / ln2Fix
      let r := fx - k * ln2Fix
      .fin (2 ^ 128 + expTerms 60 1 (2 ^ 128) r) (k - 128)

/-- The odd terms 2 z^(2k+1) / (2k+1), at 128 fraction bits. -/
def logTerms : Nat → Int → Int → Int → Int
  | 0, _, _, _ => 0
  | fuel + 1, k, pow, z2 =>
    2 * pow / k + logTerms fuel (k + 2) (pow * z2 / 2 ^ 128) z2

/-- ln x to about 100 bits; of 0, minus infinity; of a negative value, NaN. -/
def logRef (x : Num) : Num :=
  match x with
  | .nan => .nan
  | .inf neg => if neg then .nan else .inf false
  | .fin m e =>
    if m == 0 then .inf true
    else if m < 0 then .nan
    else
      let l := Nat.log2 m.toNat
      let y : Int := m * 2 ^ 128 / 2 ^ l
      let up := decide (y > 2 ^ 128 + 2 ^ 127)
      let y := if up then y / 2 else y
      let k : Int := e + l + (if up then 1 else 0)
      let z := (y - 2 ^ 128) * 2 ^ 128 / (y + 2 ^ 128)
      .fin (k * ln2Fix + logTerms 40 1 z (z * z / 2 ^ 128)) (-128)

/-- 1/√x to about 100 bits; of 0, plus infinity; of a negative value, NaN. -/
def rsqrtRef (x : Num) : Num :=
  match x with
  | .inf false => .fin 0 0
  | .fin m e => if m == 0 then .inf false else quotNum (.fin 1 0) (sqrtNum 120 (.fin m e))
  | _ => .nan

/-- √x to about 100 bits. -/
def sqrtRef (x : Num) : Num := sqrtNum 120 x

end Sys2Proof.Machine
end

