-- ==== Sys2Proof/Machine/Operands.lean ====
section
/-! DEFINITION. Operand forms: packet fields, parameter blocks, regions and their elements, stake groups, destinations. -/

namespace Sys2Proof.Machine

end Sys2Proof.Machine

namespace Sys2Proof

open Machine

/-! ### The packet (Table 9.1) -/

/-- The field of `n` bytes at packet byte `a`, for a from 16 on. -/
def Packet.num (p : Packet) (a n : Nat) : Nat := field p.params (a - 16) n

/-- A handle field of the packet. -/
def Packet.handle (p : Packet) (a : Nat) : BitVec 32 := BitVec.ofNat 32 (p.num a 4)

/-- Flags of Table 9.2. -/
def Packet.fenceBefore (p : Packet) : Bool := p.flags.getLsbD 0
def Packet.signalAfter (p : Packet) : Bool := p.flags.getLsbD 1
def Packet.replyAlways (p : Packet) : Bool := p.flags.getLsbD 2
def Packet.boundsIndirect (p : Packet) : Bool := p.flags.getLsbD 3
def Packet.shadowForce (p : Packet) : Bool := p.flags.getLsbD 4

/-- A 16-byte destination at packet byte `a`. -/
def Packet.dest (p : Packet) (a : Nat) : Machine.Dest :=
  if p.num (a + 14) 1 = 0 then .host (p.num a 8) else .device (p.handle a) (p.num (a + 8) 6)

/-- The 64 bytes of a packet with its opcode (Table 9.1). -/
def packetBytes (opcode : Nat) (p : Packet) : List Byte :=
  [BitVec.ofNat 8 opcode, p.flags] ++ leBytes 2 p.layerId.toNat ++ leBytes 4 p.operatorId.toNat ++ leBytes 4 p.tag.toNat ++
    leBytes 2 p.waitToken.toNat ++ leBytes 2 p.signalToken.toNat ++ slice p.params 0 48

end Sys2Proof

namespace Sys2Proof.Machine

/-! ### Reserved bits (R196 checks 5 and 7) -/

/-- The first byte offset, from `base`, whose bits under its mask are not all zero; masks are given for runs of bytes. -/
def firstReserved (bytes : List Byte) (base : Nat) (runs : List (Nat × Nat × Nat)) : Option Nat :=
  (runs.flatMap fun r => (List.range (r.2.1 + 1 - r.1)).map fun i => (r.1 + i, r.2.2)).find?
    (fun e => (bytes.getD (e.1 - base) 0).toNat &&& e.2 ≠ 0) |>.map (·.1)

/-- Refuses with RESERVED_SET where a reserved bit of the packet is set. -/
def reservedZero (p : Packet) (runs : List (Nat × Nat × Nat)) : Cmd Unit :=
  match firstReserved p.params 16 runs with
  | some o => refuse RESERVED_SET o
  | none => pure ()

/-- The same for a parameter block, whose byte 0 is at offset 0. -/
def blockReservedZero (block : List Byte) (runs : List (Nat × Nat × Nat)) : Cmd Unit :=
  match firstReserved block 0 runs with
  | some o => refuse RESERVED_SET o
  | none => pure ()

/-! ### Handles and parameter blocks (R196 checks 6 and 8) -/

/-- Refuses with HANDLE_INVALID where a handle is not live. -/
def requireLive (h : BitVec 32) : Cmd Unit := do
  require ((← get).live h) HANDLE_INVALID h.toNat

/-- Check 6: the block's handle, the alignment of its offset (whose packet byte is `at`), its extent, its lines. -/
def readBlock (h : BitVec 32) (off len align pos : Nat) (die : Option Nat) : Cmd (List Byte) := do
  requireLive h
  require (off % align == 0) ALIGNMENT pos
  require (off + len ≤ (← get).handleSize h) REGION_OUT_OF_BOUNDS h.toNat
  readBytes h off len die

/-! ### Regions (R205) -/

/-- A region: rows of elements of one format. -/
structure Region where
  handle : BitVec 32
  offset : Nat
  pitch  : Nat
  rows   : Nat
  cols   : Nat
  bits   : Nat
deriving DecidableEq, Repr

def Region.rowBytes (r : Region) : Nat := cdiv (r.cols * r.bits) 8
def Region.empty (r : Region) : Bool := r.rows == 0 || r.cols == 0

/-- Bytes from a region's first to its last. -/
def Region.extent (r : Region) : Nat := if r.empty then 0 else (r.rows - 1) * r.pitch + r.rowBytes

/-- R205; `offPos` and `pitchPos` are the byte offsets of the two fields, for the detail of ALIGNMENT. -/
def checkRegion (r : Region) (offPos pitchPos : Nat) : Cmd Unit := do
  if r.empty then pure ()
  else
    require (r.rowBytes ≤ r.pitch) REGION_OUT_OF_BOUNDS r.handle.toNat
    require (r.offset + r.extent ≤ (← get).handleSize r.handle) REGION_OUT_OF_BOUNDS r.handle.toNat
    if r.bits < 8 then pure ()
    else
      require (r.offset % (r.bits / 8) == 0) ALIGNMENT offPos
      require (r.pitch % (r.bits / 8) == 0) ALIGNMENT pitchPos

/-- A region of plain bytes: R205 with one row; an empty one always passes. -/
def checkExtent (h : BitVec 32) (off len : Nat) : Cmd Unit := do
  require (len == 0 || off + len ≤ (← get).handleSize h) REGION_OUT_OF_BOUNDS h.toNat

/-! ### Elements (R28, chapter 2) -/

/-- The code of element `i` of a row of `bits`-bit elements. -/
def elementCode (row : List Byte) (bits i : Nat) : Nat :=
  if bits = 6 then field row (i / 4 * 3) 3 / 2 ^ (6 * (i % 4)) % 64
  else if bits < 8 then field row (i * bits / 8) 1 / 2 ^ (i * bits % 8) % 2 ^ bits
  else field row (i * (bits / 8)) (bits / 8)

/-- The codes of a row's elements. -/
def rowCodes (row : List Byte) (bits n : Nat) : List Nat := (List.range n).map (elementCode row bits)

/-- The bytes of a row of codes; unused bits at its end are zero (R205). -/
def codesBytes (bits : Nat) (codes : List Nat) : List Byte :=
  leBytes (cdiv (codes.length * bits) 8) (codes.foldr (fun c acc => c % 2 ^ bits + 2 ^ bits * acc) 0)

/-- Lines `i` to `i + n - 1` of a handle, a line that was the last one read not read again. -/
def readSpan (h : BitVec 32) (idx : Nat) (d : Desc) (die : Option Nat) (last : Option (Nat × List Byte)) (i : Nat) :
    Nat → Cmd (List Byte × Option (Nat × List Byte))
  | 0 => pure ([], last)
  | n + 1 => do
    let bytes ← match last with
      | some (j, b) => if j = i then pure b else readLines h idx d die 6 i 1
      | none => readLines h idx d die 6 i 1
    let (rest, l) ← readSpan h idx d die (some (i, bytes)) (i + 1) n
    pure (bytes ++ rest, l)

/-- Reads rows of a region as bytes, each line once: rows lie at rising addresses, so that two rows share at most the line
in which one ends and the next begins. -/
def readRows (r : Region) (idx : Nat) (d : Desc) (die : Option Nat) (last : Option (Nat × List Byte)) (row : Nat) :
    Nat → Cmd (List (List Byte))
  | 0 => pure []
  | n + 1 => do
    let off := r.offset + row * r.pitch
    let i := off / 512
    let (bytes, last) ← readSpan r.handle idx d die last i (cdiv (off + r.rowBytes) 512 - i)
    let rest ← readRows r idx d die last (row + 1) n
    pure (slice bytes (off - i * 512) r.rowBytes :: rest)

/-- Reads a region as codes; an empty one has no rows to read. -/
def readRegion (r : Region) (die : Option Nat) : Cmd (List (List Nat)) := do
  if r.empty then pure (List.replicate r.rows [])
  else
    match (← get).desc r.handle with
    | none => refuse HANDLE_INVALID r.handle.toNat
    | some (idx, d) =>
      let rows ← readRows r idx d die none 0 r.rows
      pure (rows.map fun b => rowCodes b r.bits r.cols)

/-- Reads `len` bytes at `off` of a handle; what lies beyond the handle reads as zeros. DESIGN CHOICE, log 9. -/
def readPadded (h : BitVec 32) (off len : Nat) (die : Option Nat) : Cmd (List Byte) := do
  let b ← readBytes h off (Min.min len ((← get).handleSize h - off)) die
  pure (slice b 0 len)

/-- The die of a queue's sequencer, where packets and parameter blocks are read. -/
def seqDie (q : Nat) : Cmd (Option Nat) := do
  pure (some ((← get).queue q |>.seqr |> (· / 2)))

/-- The writes of a region's rows. -/
def regionOuts (r : Region) (rows : List (List Nat)) : List Out :=
  rows.mapIdx fun i codes => (r.handle, r.offset + i * r.pitch, codesBytes r.bits codes)

/-- Bytes are written with neighbours that touch joined, so that lines a region covers are written whole (R133). -/
def joinOuts (l : List Out) : List Out :=
  l.foldr (fun o acc =>
    match acc with
    | (g, p, b) :: t => if o.1 = g && p = o.2.1 + o.2.2.length then (o.1, o.2.1, o.2.2 ++ b) :: t else o :: acc
    | [] => [o]) []

/-! ### Stake groups (R167, R182, R281) -/

structure Group where
  first : Nat
  count : Nat
deriving DecidableEq, Repr

def groupOf (w : Nat) : Group := { first := w % 256, count := w / 256 % 256 }
def Group.ok (g : Group) : Bool := g.count ≠ 0 && g.first + g.count ≤ 192
def Group.members (g : Group) : List Nat := (List.range g.count).map (g.first + ·)

/-- Whether the group lies on one die. -/
def Group.die (g : Group) : Option Nat :=
  if g.first / 96 = (g.first + g.count - 1) / 96 then some (g.first / 96) else none

/-- The die whose stakes read or write for a group's command where the spec says of no line which of them does: the group's own die, or,
where it lies on both, a free one. Free value, log 5. -/
def Group.reader (g : Group) : Cmd (Option Nat) :=
  match g.die with
  | some d => pure (some d)
  | none => do
    let s ← get
    set (tick s)
    pure (some (Config.freeNat s.freeCtr % 2))

/-- A vector or update command reads the vector scratch and the operand stores of its stakes. -/
def Group.vectorStores (g : Group) : List SramPlace := g.members.flatMap fun i => [.scratch i, .operand i]

/-- A matrix command reads their coils too. -/
def Group.arrayStores (g : Group) : List SramPlace := g.members.map .coil ++ g.vectorStores

/-- How many of a tensor's rows the group's members on die 0 take: the members take runs of ceil(rows / G) rows in their order (R208). -/
def Group.firstRows (g : Group) (rows : Nat) : Nat := Min.min rows ((96 - g.first) * cdiv rows g.count)

/-! ### Physical stakes (R180, R181) -/

/-- The home position of a global logical stake on its die. -/
def homePosition (stake : Nat) : Nat :=
  let h := stake % 96 / 8
  25 * (h / 3) + 8 * (h % 3) + stake % 8

/-- The stake whose home a position is, or nothing for a spare position. -/
def stakeAt (die pos : Nat) : Option Nat :=
  let q := pos % 25
  if q = 24 then none else some (die * 96 + (pos / 25 * 3 + q / 8) * 8 + q % 8)

/-- The spare group of a stake, over both dies. -/
def spareGroup (stake : Nat) : Nat := stake / 96 * 4 + stake % 96 / 24

def State.retired (s : State) (die pos : Nat) : Bool := s.plc.retired.contains (die * 100 + pos)

/-- The position that runs a logical stake, or none where it is unmapped. -/
def State.position (s : State) (stake : Nat) : Option Nat :=
  if tfind s.plc.spares (spareGroup stake) = some stake then some (25 * (stake % 96 / 24) + 24)
  else if s.retired (stake / 96) (homePosition stake) then none
  else some (homePosition stake)

def State.unmapped (s : State) (stake : Nat) : Bool := (s.position stake).isNone
def State.anyUnmapped (s : State) : Bool := (List.range 192).any s.unmapped

/-! ### Services (R281, R282) -/

def State.reduced (s : State) : Bool := s.ups.service == 1

/-- Refuses a group with an unmapped stake, then in reduced service one with a stake of a die that is not ready. -/
def checkStakes (g : Group) : Cmd Unit := do
  let s ← get
  match g.members.find? s.unmapped with
  | some m => refuse STAKE_UNMAPPED m
  | none => require (!s.reduced || g.members.all fun m => s.ups.dieReady.getLsbD (m / 96)) NOT_IN_SERVICE s.ups.stage

/-! ### Destinations (chapter 13) -/

/-- Reserved bytes of a destination: byte 15, and with KIND 1 the bits of bytes 0–7 above the handle (DEDUCED, log 31). -/
def destReserved (p : Packet) (a : Nat) : List (Nat × Nat × Nat) :=
  (if p.num (a + 14) 1 = 1 then [(a + 4, a + 7, 0xFF)] else []) ++ [(a + 15, a + 15, 0xFF)]

/-- The checks of a destination for `len` bytes: KIND, a live handle, R205. -/
def checkDest (p : Packet) (a len : Nat) : Cmd Unit := do
  require (p.num (a + 14) 1 ≤ 1) VALUE_INVALID (a + 14)
  match p.dest a with
  | .host _ => pure ()
  | .device h off => checkExtent h off len

/-- The handle a destination names (R196 check 8). -/
def destLive (p : Packet) (a : Nat) : Cmd Unit :=
  if p.num (a + 14) 1 = 1 then requireLive (p.handle a) else pure ()

/-- Writes bytes at an offset of a destination; a host address that PCI Express refuses loses the write. -/
def writeDest (d : Dest) (off : Nat) (bytes : List Byte) (s : State) : Option Fail × State :=
  match d with
  | .host a => (none, if s.hostFails (a + off) bytes.length then s else hostWrite (a + off) bytes s)
  | .device h o => writeBytes h (o + off) bytes s

/-- The regions that a destination write makes. -/
def destOuts (d : Dest) (len : Nat) : List (BitVec 32 × Nat × Nat) :=
  match d with
  | .host _ => []
  | .device h o => if len = 0 then [] else [(h, o, len)]

def destNames (d : Dest) : List (BitVec 32) :=
  match d with
  | .host _ => []
  | .device h _ => [h]

end Sys2Proof.Machine
end

