-- ==== Sys2Proof/Machine/Tension.lean ====
section
/-! DEFINITION. Tension statistics, summaries, ladders and the policy (chapter 5). -/

namespace Sys2Proof.Machine

/-! ### Ladder words (Table 5.15) -/

def LayerCfg.ladder (c : LayerCfg) (kind : Nat) : Word :=
  match kind with
  | 0 => c.fwd
  | 1 => c.bwdD
  | _ => c.bwdW

/-- The last index of a ladder: COUNT - 1 of R94. -/
def ladderLast (w : Word) : Nat := bits w.toNat 17 16
def ladderInit (w : Word) : Nat := bits w.toNat 19 18
def ladderRung (w : Word) (i : Nat) : Nat := bits w.toNat (4 * i + 3) (4 * i)
def ladderRungs (w : Word) : List Nat := (List.range (ladderLast w + 1)).map (ladderRung w)

/-- R95: every rung a matrix operand format, none twice. -/
def ladderOk (w : Word) : Bool := (ladderRungs w).all isMatrixOperand && (ladderRungs w).Nodup

def TnsCfg.layer (c : TnsCfg) (l : Nat) : LayerCfg := tget {} c.layers l
def State.ladder (s : State) (l k : Nat) : Ladder := tget {} s.tns.ladders (l * 3 + k)

/-- The effective index of a layer's ladder (R94). -/
def State.effectiveIndex (s : State) (l k : Nat) : Nat :=
  Min.min (Max.max (s.ladder l k).cur s.tns.floor) (ladderLast ((s.tns.active.layer l).ladder k))

/-- The effective rung (R94). -/
def State.effectiveRung (s : State) (l k : Nat) : Nat :=
  ladderRung ((s.tns.active.layer l).ladder k) (s.effectiveIndex l k)

/-! ### Statistics (Table 5.2, R106) -/

def sat32 : Nat → Nat := sat 4294967295
def sat64 : Nat → Nat := sat 18446744073709551615

/-- Statistics added as Table 5.7 reduces them: sums saturate, peaks take the maximum. -/
def TStats.add (a b : TStats) : TStats :=
  { tiles := sat32 (a.tiles + b.tiles), reweaveTiles := sat32 (a.reweaveTiles + b.reweaveTiles),
    reweaves := sat32 (a.reweaves + b.reweaves), borderOvf := sat32 (a.borderOvf + b.borderOvf),
    runlossTrig := sat32 (a.runlossTrig + b.runlossTrig), shadowTaken := sat32 (a.shadowTaken + b.shadowTaken),
    shadowDisagree := sat32 (a.shadowDisagree + b.shadowDisagree),
    shadowNonfinite := sat32 (a.shadowNonfinite + b.shadowNonfinite),
    borderPeak := Max.max a.borderPeak b.borderPeak, shadowErrMax := Max.max a.shadowErrMax b.shadowErrMax,
    elements := sat64 (a.elements + b.elements), saturations := sat64 (a.saturations + b.saturations),
    runLoss := sat64 (a.runLoss + b.runLoss), borderEntries := sat64 (a.borderEntries + b.borderEntries),
    outElems := sat64 (a.outElems + b.outElems), underflows := sat64 (a.underflows + b.underflows),
    hist := (List.range 8).foldl (fun t i => tset 0 t i (sat32 (tget 0 a.hist i + tget 0 b.hist i))) [] }

/-- The bin of AMAX_HIST for a block's A_IN (R106). -/
def histBin (aIn : Nat) (base : Int) : Nat :=
  let u : Int := aIn - 127
  if aIn = 255 || u ≥ base + 12 then 7 else if u < base then 0 else ((u - base) / 2).toNat + 1

/-- HIST_BASE of a layer (Table 5.18). -/
def LayerCfg.histBase (c : LayerCfg) : Int := decodeInt 8 (bits c.runloss.toNat 23 16)

/-- A command's statistics join the round's at its completion, unless the round is sealed or over; they are then discarded
and count as LATE (R107). Answers whether they were discarded. Those of a command issued before a ROLLBACK join the redone round,
whose number is the same: DESIGN CHOICE, log 64. -/
def mergeStats (c : InFlight) (s : State) : Bool × State :=
  if c.stats.isEmpty then (false, s)
  else if c.round = s.tns.round && s.tns.sealed.isNone then
    (false, { s with tns := { s.tns with
      statistics := c.stats.foldl (fun t e => tmod {} t e.1 fun a => a.add e.2) s.tns.statistics } })
  else (true, { s with tns := { s.tns with late := sat32 (s.tns.late + 1) } })

/-- Re-weaves as they happen (R104, R114): TNS_ROUND_REWEAVES, and the storm at the one that passes the budget. -/
def countReweaves (n : Nat) (s : State) : State :=
  let old := s.tns.roundReweaves
  let new := sat32 (old + n)
  let s := { s with tns := { s.tns with roundReweaves := new } }
  let budget := s.tns.active.budget.toNat
  if old ≤ budget && budget < new && !s.tns.stormRaised then
    trace tSTORM 0 0xFF 0xFFFF [budget + 1, budget]
      (raiseTns 0 { s with tns := { s.tns with stormRaised := true }, tim := { s.tim with stormNote := true } })
  else s

/-! ### Summaries (R105, Tables 5.6 and 5.7) -/

/-- Byte 3 of a record: effective index and rung; zero for kind 3. -/
def State.recordByte3 (s : State) (l k : Nat) : Nat :=
  if k = 3 then 0 else s.effectiveIndex l k + 16 * s.effectiveRung l k

/-- LAYER_COUNT in force. -/
def State.layerCount (s : State) : Nat := bits s.tns.active.layerCount.toNat 12 0

/-- The local summary as it is sealed (R107). -/
def State.localSummary (s : State) : Summary :=
  { round := s.tns.round.toNat, layerCount := s.layerCount, replicas := 1,
    storm := s.tns.stormRaised && s.tns.active.ctrl.getLsbD 2, roundReweaves := s.tns.roundReweaves, late := s.tns.late,
    floor := 0,
    recs := (List.range (s.layerCount * 4)).map fun i =>
      (i, { layer := i / 4, kind := i % 4, byte3 := s.recordByte3 (i / 4) (i % 4), round := s.tns.round.toNat, stats := tget {} s.tns.statistics i }) }

/-- A record's 128 bytes (Table 5.7). -/
def recordBytes (i : Nat) (r : SumRec) : List Byte :=
  let t := r.stats
  leBytes 2 (i / 4) ++ [BitVec.ofNat 8 (i % 4), BitVec.ofNat 8 r.byte3] ++ leBytes 4 r.round ++
  ([t.tiles, t.reweaveTiles, t.reweaves, t.borderOvf, t.runlossTrig, t.shadowTaken, t.shadowDisagree, t.shadowNonfinite,
    t.borderPeak, t.shadowErrMax].flatMap (leBytes 4)) ++
  ([t.elements, t.saturations, t.runLoss, t.borderEntries, t.outElems, t.underflows].flatMap (leBytes 8)) ++
  ((List.range 8).flatMap fun b => leBytes 4 (tget 0 t.hist b))

/-- A slot's bytes (Table 5.6). -/
def Summary.bytes (m : Summary) : List Byte :=
  [m.round, m.layerCount, m.replicas, b2n m.storm, m.roundReweaves, m.late, m.floor].flatMap (leBytes 4) ++
  List.replicate 484 0 ++ m.recs.flatMap fun e => recordBytes e.1 e.2

/-- A record read back. -/
def parseRecord (b : List Byte) : SumRec :=
  { layer := field b 0 2, kind := field b 2 1, byte3 := field b 3 1, round := field b 4 4,
    stats :=
      { tiles := field b 8 4, reweaveTiles := field b 12 4, reweaves := field b 16 4, borderOvf := field b 20 4,
        runlossTrig := field b 24 4, shadowTaken := field b 28 4, shadowDisagree := field b 32 4,
        shadowNonfinite := field b 36 4, borderPeak := field b 40 4, shadowErrMax := field b 44 4,
        elements := field b 48 8, saturations := field b 56 8, runLoss := field b 64 8, borderEntries := field b 72 8,
        outElems := field b 80 8, underflows := field b 88 8,
        hist := (List.range 8).foldl (fun t i => tset 0 t i (field b (96 + 4 * i) 4)) [] } }

/-- A slot read back. -/
def parseSummary (b : List Byte) : Summary :=
  { round := field b 0 4, layerCount := field b 4 4, replicas := field b 8 4, storm := bit (field b 12 4) 0,
    roundReweaves := field b 16 4, late := field b 20 4, floor := field b 24 4,
    recs := (List.range ((b.length - 512) / 128)).map fun i => (i, parseRecord (slice b (512 + 128 * i) 128)) }

/-- A slot's size for a layer count (R105). -/
def slotBytes (layers : Nat) : Nat := 512 + layers * 512

/-- The summary region in force. Bits [8:0] of its offset, which Table 5.14 wants zero, count as written: DESIGN CHOICE, log 64. -/
def State.summaryHandle (s : State) : BitVec 32 := s.tns.active.sumHandle
def State.summaryOffset (s : State) : Nat := s.tns.active.sumOffLo.toNat + 2 ^ 32 * bits s.tns.active.sumOffHi.toNat 15 0

/-- The checks of a sealing command, made after its others (R105). -/
def checkSummaryRegion : Cmd Unit := do
  let s ← get
  require (s.live s.summaryHandle) HANDLE_INVALID s.summaryHandle.toNat
  require (s.summaryOffset + 2 * slotBytes s.layerCount ≤ s.handleSize s.summaryHandle) TABLE_REGION_SMALL

/-- Slot 0 or 1 written: its tension records first, the header line that holds ROUND last (R108). -/
def writeSlot (slot : Nat) (m : Summary) (s : State) : Option Fail × State :=
  let off := s.summaryOffset + slot * slotBytes s.layerCount
  let (f, s) := writeBytes s.summaryHandle (off + 512) (m.bytes.drop 512) s
  let (g, s) := writeBytes s.summaryHandle off (m.bytes.take 512) s
  (f.or g, s)

/-- Seals the local summary: slot 0 is written, LATE starts again (R107, R108). -/
def sealSummary (s : State) : Option Fail × State :=
  let m := s.localSummary
  let s := { s with tns := { s.tns with sealed := some m, late := 0 } }
  writeSlot 0 m s

/-- Two summaries reduced (R109); the Bool is the divergence mark of R110. -/
def Summary.reduce (a b : Summary) : Bool × Summary :=
  let same := a.round == b.round && a.layerCount == b.layerCount && a.recs.length == b.recs.length &&
    (a.recs.zip b.recs).all fun e => e.1.1 == e.2.1 && e.1.2.layer == e.2.2.layer && e.1.2.kind == e.2.2.kind && e.1.2.byte3 == e.2.2.byte3 && e.1.2.round == e.2.2.round
  (!same, { a with replicas := sat32 (a.replicas + b.replicas), storm := a.storm || b.storm,
                   roundReweaves := sat32 (a.roundReweaves + b.roundReweaves), late := sat32 (a.late + b.late),
                   recs := (a.recs.zip b.recs).map fun e => (e.1.1, { e.1.2 with stats := e.1.2.stats.add e.2.2.stats }) })

/-! ### The policy and the floor (R111, R115) -/

/-- One ladder at a commit that ends round `n` (R111). -/
def policyStep (c : LayerCfg) (w : Word) (policy : Bool) (next : Nat) (t : TStats) (l : Ladder) : Ladder :=
  let l := { l with tiles := sat32 (l.tiles + t.tiles), rw := sat32 (l.rw + t.reweaveTiles),
                    shad := sat32 (l.shad + t.shadowTaken), dis := sat32 (l.dis + t.shadowDisagree) }
  let win := bits c.policy.toNat 15 0
  let d := bits c.policy.toNat 23 16
  let upRw := bits c.upThr.toNat 15 0
  let upDis := bits c.upThr.toNat 31 16
  let clRw := Min.min (bits c.cleanThr.toNat 15 0) upRw
  let clDis := Min.min (bits c.cleanThr.toNat 31 16) upDis
  if next % win = 0 then
    let l :=
      if policy && l.tiles > 0 then
        let up := l.rw * 65536 > upRw * l.tiles || (l.shad > 0 && l.dis * 65536 > upDis * l.shad)
        let clean := l.rw * 65536 ≤ clRw * l.tiles && l.dis * 65536 ≤ clDis * l.shad
        if up then { l with cur := if l.cur < ladderLast w then l.cur + 1 else l.cur, clean := 0 }
        else if clean then
          let k := Min.min (l.clean + 1) 255
          if d > 0 && k ≥ d && l.cur > 0 then { l with cur := l.cur - 1, clean := 0 } else { l with clean := k }
        else { l with clean := 0 }
      else l
    { l with tiles := 0, rw := 0, shad := 0, dis := 0 }
  else l

/-- The ladders after the commit of a round with reduced summary `m`, once the round has advanced (R111, R265). -/
def ladderPolicy (m : Summary) (s : State) : State :=
  let next := s.tns.round.toNat
  let step := fun (s : State) (i : Nat) =>
    let l := i / 3
    let k := i % 3
    let c := s.tns.active.layer l
    let old := s.ladder l k
    let new := policyStep c (c.ladder k) (s.tns.active.ctrl.getLsbD 0) next ((tget {} m.recs (l * 4 + k)).stats) old
    let s := { s with tns := { s.tns with ladders := tset {} s.tns.ladders i new } }
    if old.cur = new.cur then s
    else trace tLADDER 0 0xFF (BitVec.ofNat 16 l) [l, k, old.cur, new.cur, s.tns.floor] s
  (List.range (s.layerCount * 3)).foldl step s

/-- The floor after the commit (R115). -/
def floorPolicy (m : Summary) (s : State) : State :=
  let t := s.tns
  let decay := bits t.active.decay.toNat 15 0
  let (floor, free) :=
    if m.storm then (Min.min (t.floor + 1) 3, 0)
    else
      let free := Min.min (t.stormFree + 1) 65535
      if decay > 0 && free ≥ decay && t.floor > 0 then (t.floor - 1, 0) else (t.floor, free)
  let s := { s with tns := { t with floor := floor, stormFree := free } }
  if floor = t.floor then s else trace tLADDER 1 0xFF 0xFFFF [0, 0, t.floor, floor, floor] s

/-! ### The staged configuration (R116, R117) -/

/-- A ladder word with INIT no higher than its last index (R116). -/
def clampInit (w : Word) : Word :=
  if ladderInit w > ladderLast w then (w &&& ~~~ (0xC0000 : Word)) ||| BitVec.ofNat 32 (ladderLast w * 2 ^ 18) else w

def LayerCfg.clamped (c : LayerCfg) : LayerCfg :=
  { c with fwd := clampInit c.fwd, bwdD := clampInit c.bwdD, bwdW := clampInit c.bwdW }

/-- The values that latch in place of others (Tables 5.16 and 5.18). A SHADOW_TOL of negative zero counts as a negative value, by its sign
bit: DESIGN CHOICE, log 64. -/
def LayerCfg.latched (c : LayerCfg) : LayerCfg :=
  let win := if bits c.policy.toNat 15 0 = 0 then c.policy ||| 1 else c.policy
  let ref := bits c.policy.toNat 27 24
  { c with policy := if ref = 0xA || ref = 0xB || ref = 0xC then win else (win &&& 0xF0FFFFFF) ||| 0x0A000000,
           shadowTol := if (f32 c.shadowTol.toNat == .nan) || c.shadowTol.getLsbD 31 then 0x3C23D70A else c.shadowTol }

/-- TNS_CTRL, of bits [3:0] and [11:8], with SHADOW_LOG2 as it latches: 4 to 12 (Table 5.10). -/
def latchShadow (w : Word) : Word :=
  BitVec.ofNat 32 (w.toNat % 16 + 256 * Min.min 12 (Max.max 4 (bits w.toNat 11 8)))

/-- TNS_LAYER_COUNT as it latches: 1 to 4,096 (Table 5.13). -/
def latchLayers (w : Word) : Word := BitVec.ofNat 32 (Max.max 1 (Min.min (bits w.toNat 12 0) 4096))

/-- The same for the global registers (Tables 5.10 and 5.13). -/
def TnsCfg.latched (c : TnsCfg) : TnsCfg :=
  { c with ctrl := latchShadow c.ctrl, layerCount := latchLayers c.layerCount,
           layers := c.layers.foldl (fun m e => tset {} m e.1 e.2.latched) [] }

/-- The staged copy becomes active (R116, R117). CUR takes INIT for the ladders whose word changes, not for a layer's others: DESIGN
CHOICE, log 64. -/
def latchTns (s : State) : State :=
  let t := s.tns
  let staged := { t.staged with layers := t.staged.layers.foldl (fun m e => tset {} m e.1 e.2.clamped) [] }
  let keys := distinct ((staged.layers.map fun e => e.1) ++ (t.active.layers.map fun e => e.1) ++ (t.ladders.map fun e => e.1 / 3))
  let first := !t.everLatched
  let adjust := fun (m : Tab Ladder) (l : Nat) => (List.range 3).foldl (fun (m : Tab Ladder) k =>
    let old := (t.active.layer l).ladder k
    let new := (staged.layer l).ladder k
    tmod {} m (l * 3 + k) fun x =>
      if first || (old ^^^ new) &&& 0x3FFFF ≠ 0 then { x with cur := ladderInit new }
      else { x with cur := Min.min x.cur (ladderLast new) }) m
  { s with tns := { t with staged := staged, active := staged.latched, latched := true, everLatched := true,
                           ladders := keys.foldl adjust t.ladders } }

end Sys2Proof.Machine
end

