-- ==== Sys2Proof/Machine/Commands.lean ====
section
/-! DEFINITION. Issue and completion of commands, shared by every packet command (chapter 9): the issue conditions of R197,
the checks of R196 that every opcode has, tokens, replies, and the commands in flight. -/

namespace Sys2Proof.Machine

/-! ### Opcodes (Table 9.6) -/

/-- One row of Table 9.6. -/
structure OpInfo where
  firmware : Bool
  role     : Nat
  reply    : Bool
deriving DecidableEq, Repr

def opInfo : Nat → Option OpInfo
  | 0x00 => some ⟨false, 1, false⟩
  | 0x01 => some ⟨false, 1, false⟩
  | 0x02 => some ⟨false, 1, false⟩
  | 0x03 => some ⟨false, 1, false⟩
  | 0x04 => some ⟨false, 1, false⟩
  | 0x08 => some ⟨false, 1, false⟩
  | 0x09 => some ⟨false, 1, false⟩
  | 0x0A => some ⟨false, 1, false⟩
  | 0x0B => some ⟨false, 1, false⟩
  | 0x10 => some ⟨false, 1, false⟩
  | 0x11 => some ⟨false, 1, false⟩
  | 0x12 => some ⟨false, 1, true⟩
  | 0x13 => some ⟨false, 1, false⟩
  | 0x14 => some ⟨false, 1, false⟩
  | 0x20 => some ⟨false, 1, false⟩
  | 0x21 => some ⟨false, 1, false⟩
  | 0x22 => some ⟨false, 1, false⟩
  | 0x40 => some ⟨false, 1, false⟩
  | 0x41 => some ⟨false, 1, false⟩
  | 0x42 => some ⟨false, 1, false⟩
  | 0x48 => some ⟨false, 1, false⟩
  | 0x49 => some ⟨false, 1, true⟩
  | 0x4A => some ⟨false, 1, false⟩
  | 0x4B => some ⟨false, 1, true⟩
  | 0x4C => some ⟨false, 1, true⟩
  | 0x50 => some ⟨false, 1, true⟩
  | 0x51 => some ⟨false, 1, true⟩
  | 0x80 => some ⟨true, 1, true⟩
  | 0x81 => some ⟨true, 1, true⟩
  | 0x82 => some ⟨true, 2, true⟩
  | 0x84 => some ⟨true, 1, true⟩
  | 0x86 => some ⟨true, 2, true⟩
  | 0x88 => some ⟨true, 1, false⟩
  | 0x89 => some ⟨true, 1, false⟩
  | 0x8A => some ⟨true, 1, false⟩
  | 0x8B => some ⟨true, 1, true⟩
  | 0x90 => some ⟨true, 0, true⟩
  | 0x92 => some ⟨true, 2, true⟩
  | 0x94 => some ⟨true, 1, true⟩
  | 0xC0 => some ⟨true, 1, true⟩
  | 0xC8 => some ⟨true, 3, true⟩
  | _ => none

/-- Roles in ascending order of rights, as QUE_STATUS.ROLE codes them. -/
def Role.code : Role → Nat
  | .none => 0
  | .operator => 1
  | .installer => 2
  | .maker => 3

/-- The role bound to a queue (R204). -/
def Queue.role (v : Queue) : Nat := (v.binding.map fun b => b.role.code).getD 0

/-- Opcodes that reduced service admits (Table 12.2). -/
def admittedReduced (op : Nat) : Bool :=
  [0x00, 0x01, 0x02, 0x04, 0x08, 0x10, 0x11, 0x12, 0x13, 0x14, 0x20, 0x22, 0x4C].contains op

/-- Opcodes admitted from U3 on, whatever the service (Table 12.2). -/
def admittedAlways (op : Nat) : Bool :=
  [0x80, 0x81, 0x82, 0x84, 0x88, 0x89, 0x8A, 0x8B, 0x90, 0x92, 0xC0, 0xC8].contains op

/-- R282. -/
def State.admits (s : State) (op : Nat) : Bool :=
  s.ups.service == 2 || (s.ups.stage ≥ 3 && admittedAlways op) || (s.ups.service == 1 && admittedReduced op)

/-- Opcodes that run while the device is frozen (R215). -/
def runsFrozen (op : Nat) : Bool := [0x80, 0x84, 0x8B, 0xC0, 0x90].contains op

/-! ### Tokens (R195, R198) -/

def tokenSlot (t : Nat) : Nat := t % 32768
def tokenPhase (t : Nat) : Bool := bit t 15

/-- Signals a token; one with slot 0 is none. -/
def signalToken (t : Nat) (s : State) : State :=
  if tokenSlot t = 0 then s
  else { s with que := { s.que with tokens := tset false s.que.tokens (tokenSlot t) (tokenPhase t) } }

/-- Whether a wait on a token holds (R198); none always does. -/
def State.holds (s : State) (t : Nat) : Bool :=
  tokenSlot t = 0 || tget false s.que.tokens (tokenSlot t) == tokenPhase t

/-! ### Commands in flight -/

/-- Commands of a queue that have issued without completing (R194). -/
def State.inflight (s : State) (q : Nat) : List InFlight := s.flight.filter fun c => c.queue == q
def State.idleQueue (s : State) (q : Nat) : Bool := (s.inflight q).isEmpty

/-- Occupancy of the management queue (R213). -/
def State.mgmtDepth (s : State) : Nat := s.flight.countP fun c => c.firmware

def Wait.isQueued : Wait → Bool
  | .queued _ => true
  | _ => false

/-- Firmware may start a command: fewer than four run, no command handed off before it still waits to start (R214), and no other
FW_STAGE runs where it is one (R329). -/
def State.mayStart (s : State) (c : InFlight) : Bool :=
  s.flight.countP (fun e => e.firmware && !e.wait.isQueued) < 4 && !(s.flight.any fun e => e.wait.isQueued && e.id < c.id) &&
    !(c.opcode == 0x92 && s.flight.any fun e => e.opcode == 0x92 && !e.wait.isQueued)

/-- The command in flight that its queue issued as its `ordinal`-th, counted from 0. -/
def State.inflightAt (s : State) (q ordinal : Nat) : Option InFlight := s.flight.find? fun c => c.queue == q && c.ordinal == ordinal

def setInflight (id : Nat) (f : InFlight → InFlight) (s : State) : State :=
  { s with flight := s.flight.map fun c => if c.id = id then f c else c }

def dropInflight (id : Nat) (s : State) : State := { s with flight := s.flight.filter fun c => c.id ≠ id }

/-! ### Replies (R202, Table 9.3) -/

/-- DEGRADED of Table 9.4. -/
def State.degradedFlag (s : State) : Bool :=
  (List.range 12).any (fun k => (s.stack k).health ≠ .healthy) || s.anyUnmapped

/-- FLAGS of a reply (Table 9.4). -/
def replyFlags (phase degraded busy rewoven late firmware : Bool) : Nat :=
  b2n phase + 2 * b2n degraded + 4 * b2n busy + 8 * b2n rewoven + 16 * b2n late + 32 * b2n firmware

/-- SAMPLE of a reply: the index of the last sample record, all ones when the sampler is off. -/
def State.sampleIndex (s : State) : Nat := if s.cnt.enable then (s.cnt.prod + 2 ^ 32 - 1) % 2 ^ 32 else 0xFFFFFFFF

/-- The 32 bytes of a reply (Table 9.3). -/
def replyBytes (tag status flags round time sample detail : Nat) : List Byte :=
  leBytes 4 tag ++ leBytes 2 status ++ leBytes 2 flags ++ leBytes 4 round ++ leBytes 8 time ++ leBytes 4 sample ++ leBytes 8 detail

/-- Writes a reply at the completion tail; a failed write loses it (R202). A store write that a full retrain journal holds is made when
the channel returns, and only then is the reply there (R150). -/
def writeReply (q tag status detail round : Nat) (rewoven late firmware : Bool) (s : State) : State :=
  let v := s.queue q
  let flags := replyFlags v.phase s.degradedFlag (s.mgmtDepth ≥ 192) rewoven late firmware
  let bytes := replyBytes tag status flags round s.tim.now s.sampleIndex detail
  let at_ := v.cqBase.toNat + 32 * v.cqTail
  if v.loc then (writeHeld { handle := v.cqHandle, offset := at_, bytes, bar4 := false, reply := some q } s).2
  else if s.hostFails at_ 32 then replyLost q s
  else replied q bytes (hostWrite at_ bytes s)

/-! ### Completion (R199, R201) -/

/-- Whether a command replies (R202). -/
def replies (op status : Nat) (always : Bool) : Bool :=
  status ≠ 0 || always || ((opInfo op).map fun i => i.reply).getD false

/-- The outcome of a LOSS with COMPARE of the round in force (R275). -/
def noteCompare (c : InFlight) (s : State) : State :=
  if c.opcode = 0x0B && bit (c.packet.num 30 1) 5 && c.round = s.tns.round then
    { s with tns := { s.tns with compareOk := s.tns.compareOk || c.status == 0, compareBad := s.tns.compareBad || c.status == 2 } }
  else s

/-- VERIFY clears at the completion of the COMMIT (UPDATED) of a member, however it ends (R275). -/
def noteVerify (c : InFlight) (s : State) : State :=
  if c.wait = .commit true then { s with tns := { s.tns with verify := false } } else s

/-- A command completes with its status and detail: its statistics are recorded, its token signalled when the status has
class 0x00, its reply written, its queue stopped on an error that asks for it. A command that a function-level reset let
finish writes no reply and signals nothing (R216). After a thermal trip no command completes (R289). -/
def complete (c : InFlight) (s : State) : State :=
  if !s.clocked then s
  else
  let s := dropInflight c.id s
  let (late, s) := mergeStats c s
  let st := c.status.toNat
  let class0 := statusClass st == 0
  let s := noteVerify c (noteCompare c s)
  let s := if class0 && !s.trc.completeAll then s
           else traceWith tCOMPLETE 0 c.seqr c.packet.layerId [c.packet.tag.toNat, st, c.opcode, c.queue] (statusClass st) false s
  if c.orphan then s
  else
    let s := if class0 && c.packet.signalAfter then signalToken c.packet.signalToken.toNat s else s
    let s := if replies c.opcode st c.packet.replyAlways then
        writeReply c.queue c.packet.tag.toNat st c.detail.toNat c.round.toNat c.rewoven late c.firmware s
      else s
    if !class0 && (s.queue c.queue).stopOnError then raiseQue c.queue 3 (disableQueue c.queue s) else s

/-- An issued command completes; while the device is frozen it completes with FROZEN, but for the opcodes that run on (R215). -/
def finish (c : InFlight) (s : State) : State :=
  complete (if s.seq.frozen && !runsFrozen c.opcode then { c with status := BitVec.ofNat 16 FROZEN, detail := 0 } else c) s

/-- Completes the command with a given id and result. -/
def finishAs (id status detail : Nat) (s : State) : State :=
  match s.flight.find? fun c => c.id = id with
  | some c => finish { c with status := BitVec.ofNat 16 status, detail := BitVec.ofNat 64 detail } s
  | none => s

/-! ### Issue (R196, R197) -/

/-- What a checked command will do: the regions it will write, the handles it names, whether it completes at its issue, and
its effect. -/
structure Res where
  wait    : Wait := .done
  status  : Nat := 0
  detail  : Nat := 0
  rewoven : Bool := false
  stats   : Tab TStats := []
deriving DecidableEq, Repr

structure Plan where
  outs    : List (BitVec 32 × Nat × Nat) := []
  names   : List (BitVec 32) := []
  atIssue : Bool := false
  run     : Cmd Res := pure {}

/-- The result of a command whose writes ended with `f` (R133). -/
def endWith (f : Option Fail) (r : Res) : Res :=
  match f with
  | none => r
  | some e => { r with status := e.status, detail := e.detail }

/-- Makes the command's writes, whose strands `die` or the handle die makes, and answers its result. -/
def writeAnd (die : Option Nat) (outs : List Out) (r : Res) : Cmd Res := do
  let f ← act (writeOuts die (joinOuts outs))
  pure (endWith f r)

/-- A waiting completion entry can be reserved (R197 condition 5); a reply that a full retrain journal holds keeps its entry. -/
def canReserve (s : State) (q : Nat) : Bool :=
  let v := s.queue q
  (v.cqTail + v.cqSize - v.cqHead) % v.cqSize + (s.inflight q).length + s.mem.heldWrites.countP (fun w => w.reply == some q) + 1 < v.cqSize

/-- The packet that a ring in device memory holds at the head is this one (R189, R192). -/
def ringHolds (s : State) (q : Nat) (bytes : List Byte) : Bool :=
  let v := s.queue q
  !v.loc ||
    (match (readBytes v.sqHandle (v.sqBase.toNat + 64 * v.sqHead) 64 (some (v.seqr / 2))).run s with
     | .ok b _ => b == bytes
     | .error _ _ => false)

/-- The ring has a packet, and the device lets queues issue: it is powered, no warm reset waits (R291), no function-level
reset is completing (R216), the queue is enabled, the sequencer and the completion ring have room (R197). -/
def canIssue (s : State) (q : Nat) : Bool :=
  let v := s.queue q
  s.clocked && s.ups.quiesce.isNone && !s.que.flr && v.enable && v.sqHead ≠ v.sqTail &&
    (s.inflight q).all (fun c => c.opcode ≠ 0x20 && c.opcode ≠ 0x21) &&
    s.flight.countP (fun c => c.seqr == v.seqr) < 512 && canReserve s q

/-- The FENCE_BEFORE and WAIT_TOKEN of the packet at the head of a queue's ring: one in device memory is read, one in host memory is
known once it has come (DESIGN CHOICE, log 62). A packet that cannot be read waits for nothing. -/
def headWaits (s : State) (q : Nat) : Option (Bool × Nat) :=
  let v := s.queue q
  if v.loc then
    some (match (readBytes v.sqHandle (v.sqBase.toNat + 64 * v.sqHead) 64 (some (v.seqr / 2))).run s with
      | .ok b _ => (bit (field b 1 1) 0, field b 12 2)
      | .error _ _ => (false, 0))
  else v.head.bind fun h => if h.ordinal = v.issued then some (h.fence, h.token) else none

/-- The head of a queue waits for nothing of its own (R197 conditions 1 and 2). -/
def headReady (s : State) (q : Nat) : Bool :=
  canIssue s q && (headWaits s q).any fun w => (!w.1 || s.idleQueue q) && s.holds w.2

/-- A packet that has come to the head of a ring in host memory waits there. -/
def noteHead (q : Nat) (p : Packet) (s : State) : State :=
  let v := s.queue q
  if s.clocked && v.enable && !v.loc && v.sqHead ≠ v.sqTail then
    s.setQueue q { v with head := some { ordinal := v.issued, fence := p.fenceBefore, token := p.waitToken.toNat } }
  else s

/-- A sequencer serves queue `a` before queue `b`: a higher PRIORITY, or the same and sooner in the round that starts after the
queue it served last (R197). -/
def servedFirst (s : State) (a b : Nat) : Bool :=
  let turn := fun (q : Nat) => (q + 63 - (s.sequencer (s.queue b).seqr).lastQueue) % 64
  (s.queue b).priority < (s.queue a).priority || ((s.queue a).priority == (s.queue b).priority && turn a < turn b)

/-- The sequencer selects the queue (R197 condition 6). -/
def selects (s : State) (q : Nat) : Bool :=
  s.que.queues.all fun e => !(e.1 ≠ q && e.2.seqr == (s.queue q).seqr && servedFirst s e.1 q && headReady s e.1)

/-- The issue conditions of R197. -/
def gate (q op : Nat) (p : Packet) (s : State) : Bool :=
  canIssue s q && (!p.fenceBefore || s.idleQueue q) && s.holds p.waitToken.toNat && ringHolds s q (packetBytes op p) && selects s q

/-- The counters whose unit is a matter of timing, or whose share for a stake or a unit of work the spec does not state
(Tables 13.1 to 13.5): beside what the model counts of them, they count on from a reset by free steps (log 61). -/
def timedCounter (set index : Nat) : Bool :=
  (match set with
   | 0 => [0, 4, 5, 6, 19, 20, 21, 22, 23, 27, 28]
   | 1 => [5, 6, 7, 8, 9, 15]
   | 2 => [11, 17, 18, 19, 20, 23]
   | 3 => [6, 7, 9]
   | _ => [0, 1, 2, 3, 4, 8, 9, 13]).contains index

/-- The free steps of a counter in the first `n` ns from `t` on. -/
def timedSteps (key t : Nat) : Nat → Nat
  | 0 => 0
  | n + 1 => timedSteps key t n + Config.timedCounter key (t + n)

/-- UP of a link port: the ms that it has been in service (Table 13.4). -/
def Port.upTime (v : Port) (now : Nat) : Nat :=
  (v.up + (match v.state with
    | .eight | .low | .high => now - v.upAt
    | _ => 0)) / 1000000

/-- The present value of a counter entry (Table 13.6), gauges and the sum over instances included. -/
def State.counterValue (s : State) (entry : Nat) : Nat :=
  let set := bits entry 2 0
  let index := bits entry 7 3
  let inst := bits entry 15 8
  let one := fun i => if set = 4 && index = 5 then s.mgmtDepth
    else if set = 4 && index = 15 then Config.timedCounter (counterKey set i index) s.tim.now
    else if set = 3 && index = 15 then (tget {} s.lnk.ports i).upTime s.tim.now % 2 ^ 48
    else if timedCounter set index then
      (s.counter set i index + timedSteps (counterKey set i index) s.cnt.zeroAt.toNat (s.tim.now - s.cnt.zeroAt).toNat) % 2 ^ 48
    else s.counter set i index
  let n := match set with
    | 0 => 192
    | 1 => 24
    | 2 => 12
    | 3 => 12
    | _ => 1
  if inst = 255 then ((List.range n).map one).sum % 2 ^ 48 else one inst

/-- PER_CMD entries of a sequencer start again; what they had just before is kept for a sample of the same cycle (R297). -/
def resetPerCmd (n : Nat) (s : State) : State :=
  let hit := fun (w : Word) => bit w.toNat 16 && bits w.toNat 18 17 == n
  let base := s.cnt.select.mapIdx fun j w => if hit w then s.counterValue w.toNat else s.cnt.base.getD j 0
  let before := s.cnt.select.mapIdx fun j w =>
    if hit w then (s.counterValue w.toNat + 2 ^ 48 - s.cnt.base.getD j 0) % 2 ^ 48 else s.cnt.before.getD j 0
  { s with cnt := { s.cnt with base, before } }

/-- The head packet leaves the ring: the head and the queue's count move on, and the sequencer's registers name it. -/
def takeHead (q op : Nat) (p : Packet) (pathS : Bool) (s : State) : State :=
  let v := s.queue q
  let s := s.setQueue q { v with sqHead := (v.sqHead + 1) % v.sqSize, issued := v.issued + 1 }
  let n := v.seqr
  let z := s.sequencer n
  let z := { z with lastQueue := q, lastOpcode := op, lastTag := p.tag, issued := (z.issued + 1) % 2 ^ 32,
                    prevLayer := z.layer, prevOperator := z.operatorId, layer := p.layerId, operatorId := p.operatorId,
                    lastIssueAt := if pathS then some s.tim.now else z.lastIssueAt }
  let s := { s with seq := { s.seq with seqs := tset {} s.seq.seqs n z } }
  let s := if pathS then resetPerCmd n s else s
  trace tISSUE 0 n p.layerId [p.tag.toNat, op, q, n] s

/-- The command at the head, before it has done anything. -/
def fresh (q op : Nat) (p : Packet) (firmware : Bool) (s : State) : InFlight :=
  let v := s.queue q
  { id := s.nextId, queue := q, ordinal := v.issued, slot := v.sqHead, seqr := v.seqr, opcode := op, packet := p, firmware,
    round := s.tns.round, issuedAt := s.tim.now, progress := s.tim.now, steps := 0, wait := .done, status := 0, detail := 0,
    rewoven := false, stats := [], names := [], writes := [], regions := [], orphan := false }

def launch (c : InFlight) (s : State) : State := { s with flight := s.flight ++ [c], nextId := s.nextId + 1 }

/-- Checks 3 to 5 of R196. -/
def sequencerChecks (q op : Nat) (info : OpInfo) (p : Packet) (s : State) : Option Fail :=
  if (s.queue q).role < info.role || ((s.queue q).role = 0 && op ≠ 0x90) then
    some { status := ROLE_REQUIRED, detail := if op = 0x90 then 0 else Max.max info.role 1 }
  else if !s.admits op then some { status := NOT_IN_SERVICE, detail := s.ups.stage }
  else if s.seq.frozen && !runsFrozen op then some { status := FROZEN, detail := 0 }
  else if p.flags.toNat / 32 ≠ 0 then some { status := RESERVED_SET, detail := 1 }
  else none

/-- The handles a command writes at least one byte of (R83). -/
def Plan.writes (pl : Plan) : List (BitVec 32) := (pl.outs.filter fun o => o.2.2 ≠ 0).foldl (fun l o => if l.contains o.1 then l else l ++ [o.1]) []

/-- Regions whose contents a failed or abandoned command leaves open are filled with free values (R145, R291). -/
def scramble (outs : List (BitVec 32 × Nat × Nat)) (s : State) : State :=
  outs.foldl (fun s o => tick (writeBytes o.1 o.2.1 (freeBytes s.freeCtr o.2.2) s).2) s

/-- The lines a drain copies, in its order: entry and line within it (R244). -/
def DrainPlan.lines (d : DrainPlan) : List (DrainEntry × Nat) :=
  d.entries.flatMap fun e => (List.range (e.length / 512)).map fun i => (e, i)

/-- Line `i` of an entry, verified at the device's exit. -/
def drainRead (e : DrainEntry) (i : Nat) (s : State) : Except Fail (List Byte) × State :=
  match s.desc e.handle with
  | none => (.error { status := HANDLE_INVALID, detail := e.handle.toNat }, s)
  | some (idx, d) =>
    let n := e.offset / 512 + i
    match takeLine (s.lineOf idx d n) { handle := e.handle, offset := n * 512 } none 7 (traffic idx 1 s) with
    | (.ok (b, _), s) => (.ok b, s)
    | (.error f, s) => (.error f, s)

/-- The first `n` lines of a drain to host memory, with the CRC words, the j-th line drained at CRC_DEST + 4 j (R244).
Answers the failure that ended it, if one did. -/
def drainHost (d : DrainPlan) : List (DrainEntry × Nat) → Nat → State → Option Fail × State
  | [], _, s => (none, s)
  | (e, i) :: t, j, s =>
    match drainRead e i s with
    | (.error f, s) => (some f, s)
    | (.ok b, s) =>
      let s := hostWrite (e.dst + 512 * i) b s
      let s := if d.crcDest = 0 then s else hostWrite (d.crcDest + 4 * j) (leBytes 4 (crc32c b).toNat) s
      drainHost d t (j + 1) s

/-- Frames of a command are dropped. -/
def dropFrames (cmd : Nat) (s : State) : State :=
  { s with lnk := { s.lnk with conns := s.lnk.conns.map fun c =>
    { c with unacked := c.unacked.filter fun f => f.cmd ≠ cmd, waiting := c.waiting.filter fun f => f.cmd ≠ cmd } } }

/-- The lines of a command that have not been sent: those of its frames that wait. -/
def State.unsent (s : State) (cmd : Nat) : Nat :=
  (s.lnk.conns.map fun c => ((c.waiting.filter fun f => f.cmd == cmd).map fun f => f.payload.length / 512).sum).sum

/-- How many lines a drain has drained: to another member, those that have been sent; to host memory a free number, none before its
first line is read, and fewer than all (R245). -/
def State.drained (s : State) (c : InFlight) (started : Bool) (d : DrainPlan) : Nat :=
  let n := d.lines.length
  if !started || n = 0 then 0 else if d.member.isSome then n - s.unsent c.id else Config.freeNat s.freeCtr % n

/-- A drain to another member whose last line has been sent: no write stops it, and it stalls none (R245). -/
def State.drainSent (s : State) (c : InFlight) : Bool :=
  match c.wait with
  | .drain true _ d _ => d.member.isSome && !d.lines.isEmpty && s.unsent c.id == 0
  | _ => false

/-- The drains in flight, of those issued before command `id`, that hold a handle of the list (R245). -/
def State.holding (s : State) (id : Nat) (hs : List (BitVec 32)) : List InFlight :=
  s.flight.filter fun c => c.opcode == 0x4A && c.id < id && c.names.any hs.contains && !s.drainSent c

/-- The command whose work is under way, for the trace records that it causes (Table 13.8). -/
def acting (layer : BitVec 16) (s : State) : State := { s with seq := { s.seq with acting := layer } }

/-- `f` as the work of a command, within what else is under way. -/
def actingFor (c : InFlight) (f : State → State) (s : State) : State := acting s.seq.acting (f (acting c.packet.layerId s))

/-- Ends a drain under ABANDON (R245); frames to another member that wait or are not acknowledged go no further. -/
def abandonDrain (c : InFlight) (s : State) : State :=
  match c.wait with
  | .drain started _ d _ =>
    let n := s.drained c started d
    let s := if d.member.isNone then actingFor c (fun s => (drainHost d (d.lines.take n) 0 s).2) (tick s) else tick s
    finishAs c.id CKPT_ABANDONED (512 * n) (dropFrames c.id s)
  | _ => s

/-- Abandons every drain issued before command `id` that holds a handle of the list. -/
def abandonHolding (id : Nat) (hs : List (BitVec 32)) (s : State) : State :=
  (s.holding id hs).foldl (fun s c => abandonDrain c s) s

/-- The handles that a command in flight names: what its plan does, and a drain's parameter block. -/
def InFlight.named (c : InFlight) : List (BitVec 32) := if c.opcode = 0x4A then c.packet.handle 16 :: c.names else c.names

/-- Runs a planned command as `c`; it is in flight while it runs. -/
def runPlan (c : InFlight) (pl : Plan) (s : State) : State :=
  let s := pl.writes.foldl (fun s h => advanceGen h s) s
  let c := { c with names := pl.names, writes := pl.writes, regions := pl.outs }
  let s := launch c s
  let (c, s) :=
    match pl.run.run s with
    | .ok r s => ({ c with wait := r.wait, status := BitVec.ofNat 16 r.status, detail := BitVec.ofNat 64 r.detail,
                           rewoven := r.rewoven, stats := r.stats }, s)
    | .error f s => ({ c with status := BitVec.ofNat 16 f.status, detail := BitVec.ofNat 64 f.detail }, scramble pl.outs s)
  if pl.atIssue then complete c s else setInflight c.id (fun _ => c) s

/-- A command refused with no effect of its own completes at once. -/
def refuseCommand (c : InFlight) (f : Fail) (s : State) : State :=
  complete { c with status := BitVec.ofNat 16 f.status, detail := BitVec.ofNat 64 f.detail } { s with nextId := s.nextId + 1 }

/-- Whether a drain is under STALL (R245). -/
def Wait.stalls : Wait → Bool
  | .drain _ false _ _ => true
  | _ => false

/-- Whether a drain under STALL that was issued before command `id` keeps the planned command back (R245). -/
def drainStalls (id : Nat) (plan : Cmd Plan) (s : State) : Bool :=
  match plan.run s with
  | .ok pl _ => (s.holding id pl.writes).any fun c => c.wait.stalls
  | .error _ _ => false

/-- Whether a held write of a handle that it names keeps the planned command back (R150). -/
def writeHolds (plan : Cmd Plan) (s : State) : Bool :=
  match plan.run s with
  | .ok pl _ => s.mem.heldWrites.any fun w => pl.names.contains w.handle || pl.writes.contains w.handle
  | .error _ _ => false

/-- Either keeps it back. -/
def stalled (id : Nat) (plan : Cmd Plan) (s : State) : Bool := writeHolds plan s || drainStalls id plan s

/-- A path-S command at the head of its queue issues: the checks that every command has, then its own, then its effect. One whose
writes a full retrain journal holds does not issue (R150). -/
def issueS (q op : Nat) (p : Packet) (plan : Cmd Plan) (s : State) : State :=
  let info := (opInfo op).getD ⟨false, 1, false⟩
  if !gate q op p s || ((sequencerChecks q op info p s).isNone && stalled s.nextId plan s) then noteHead q p s
  else
    let c := fresh q op p false s
    unlessOver (fun s =>
      let s := acting p.layerId (takeHead q op p true s)
      acting 0xFFFF <| match sequencerChecks q op info p s with
      | some f => refuseCommand c f s
      | none =>
        match plan.run s with
        | .error f t => refuseCommand c f { t with tns := s.tns }
        | .ok pl t => runPlan c pl (abandonHolding c.id pl.writes t)) s

/-- A command reads words of the handle die's SRAM (R163). -/
def readHandle (use : Nat) : Cmd Unit := do
  match ← act (meetHandle use) with
  | some f => throw f
  | none => pure ()

/-- Firmware executes a command that it reads out of the management queue: checks 6 to 9 of R196, then its effect. -/
def startF (c : InFlight) (plan : Cmd Plan) (s : State) : State :=
  acting 0xFFFF <| match (readHandle useQueue >>= fun _ => plan).run (acting c.packet.layerId s) with
  | .ok pl s => runPlan c pl (abandonHolding c.id pl.writes s)
  | .error f s => launch { c with status := BitVec.ofNat 16 f.status, detail := BitVec.ofNat 64 f.detail } s

/-- A firmware-path command is handed to firmware: the drains that it abandons stop in the same cycle (R245), and firmware starts it, or it
waits its turn (R214) or for the retrain journal (R150). -/
def handOff (c : InFlight) (plan : Cmd Plan) (m : Option RailMeans) (s : State) : State :=
  let s := count 4 0 6 1 s
  let s := { s with que := { s.que with peak := Max.max s.que.peak (s.mgmtDepth + 1) } }
  let (names, writes) := match plan.run s with
    | .ok pl _ => (pl.names, pl.writes)
    | .error _ _ => ([], [])
  let start := s.mayStart c && !stalled c.id plan s
  let queued := unlessOver (abandonHolding c.id writes) (launch { c with wait := .queued m, names, writes } s)
  if !start then queued
  else
    let t := startF c plan { s with mem := { s.mem with journalOver := false } }
    if t.mem.journalOver then queued else t

/-- A firmware-path command at the head of its queue issues: checks 1 to 5, the management queue's places (R213), a drain that stalls it
(R245), then it is handed to firmware. `m` is what GET_TELEMETRY brings. -/
def issueF (q op : Nat) (p : Packet) (plan : InFlight → Cmd Plan) (s : State) (m : Option RailMeans := none) : State :=
  if !gate q op p s then noteHead q p s
  else
    let c := fresh q op p false s
    let t := takeHead q op p false s
    match sequencerChecks q op ((opInfo op).getD ⟨true, 1, true⟩) p t with
    | some f => refuseCommand c f t
    | none =>
      let c := { c with firmware := true }
      if t.mgmtDepth ≥ 256 then
        let t := trace tMGMT_BUSY 0 c.seqr p.layerId [q, t.mgmtDepth] (count 4 0 7 1 t)
        refuseCommand c { status := MGMT_BUSY, detail := Config.freeNat t.freeCtr } (tick t)
      else if drainStalls c.id (plan c) t then noteHead q p s
      else handOff c (plan c) m t

end Sys2Proof.Machine
end

