-- ==== Sys2Proof/Machine/Frames.lean ====
section
/-! DEFINITION. Transport frames (R346, R347): headers, sequence spaces, sending and resending. -/

namespace Sys2Proof.Machine

/-- Frame types (Table 15.3). -/
def fDATA : Nat := 0
def fACK : Nat := 1
def fNAK : Nat := 2
def fCONTROL : Nat := 3

/-- SRC_SEAT: the sender's seat, 0xFFFF before JOIN. -/
def State.srcSeat (s : State) : Nat :=
  match s.tim.domain with
  | .detached | .joining => 0xFFFF
  | _ => s.tim.seat

/-- A transport header (Table 15.3). -/
def transportHeader (s : State) (typ strands dst xgroup seq ack transfer offset : Nat) : List Byte :=
  let h := [BitVec.ofNat 8 (1 + 16 * typ), BitVec.ofNat 8 strands] ++ leBytes 2 s.srcSeat ++ leBytes 2 dst ++ leBytes 2 xgroup ++
    leBytes 4 s.tim.domainId.toNat ++ leBytes 4 seq ++ leBytes 4 ack ++ leBytes 4 transfer ++ leBytes 6 offset
  h ++ leBytes 2 ((crc32c h).toNat % 65536)

/-! ### Sequence spaces (R347) -/

/-- The sequence space of a port and a remote MAC; a new one where none exists. -/
def State.conn (s : State) (port : Nat) (mac : BitVec 48) : Conn :=
  (s.lnk.conns.find? fun c => c.port == port && c.mac == mac).getD { port, mac }

def State.setConn (s : State) (c : Conn) : State :=
  let others := s.lnk.conns.filter fun e => !(e.port == c.port && e.mac == c.mac)
  { s with lnk := { s.lnk with conns := others ++ [c] } }

/-- ACK_SEQ: every frame before the next expected one has been received. -/
def Conn.ackSeq (c : Conn) : Nat := (c.expected + 2 ^ 32 - 1) % 2 ^ 32

def State.port (s : State) (p : Nat) : Port := tget {} s.lnk.ports p
def State.setPort (s : State) (p : Nat) (v : Port) : State :=
  { s with lnk := { s.lnk with ports := tset {} s.lnk.ports p v } }

/-- A port that carries traffic (R345). -/
def PortState.inService : PortState → Bool
  | .eight | .low | .high => true
  | _ => false

/-- A port in another state; how long it has been in service is kept. -/
def Port.into (v : Port) (st : PortState) (now : Nat) : Port :=
  match v.state.inService, st.inService with
  | false, true => { v with state := st, upAt := now }
  | true, false => { v with state := st, up := v.up + (now - v.upAt) }
  | _, _ => { v with state := st }

/-- Puts something on the wire. -/
def emit (e : Sent) (s : State) : State := { s with out := { s.out with sent := s.out.sent ++ [e] } }

/-- MAC address of port `p` (R344). -/
def State.portMac (s : State) (p : Nat) : BitVec 48 := s.id.mac + BitVec.ofNat 48 p

/-- A frame as port `p` sends it (Table 15.2), to MAC `dst`, padded to the 64-byte minimum. Addresses and
EtherType go most significant byte first, as Ethernet has them (PRESUMED, log 66). -/
def State.frameBytes (s : State) (p : Nat) (dst : BitVec 48) (header payload : List Byte) : List Byte :=
  let b := (leBytes 6 dst.toNat).reverse ++ (leBytes 6 (s.portMac p).toNat).reverse ++ [0x88, 0xB5] ++ header ++ payload
  let b := if b.length < 60 then slice b 0 60 else b
  b ++ leBytes 4 (crc32 b).toNat

/-- Whether a port carries traffic. -/
def State.linked (s : State) : Bool := (List.range 12).any fun p => (s.port p).state.inService

/-- A port in service and a MAC of the receiving device for frames to a seat: which port, and which of the device's twelve, are not
stated; nor is the MAC of a seat that the rim's seat list does not have. Free values, log 66. -/
def State.path (s : State) (seat : Nat) : Nat × BitVec 48 :=
  let ports := (List.range 12).filter fun p => (s.port p).state.inService
  let free := Config.freeNat (s.freeCtr + 1)
  (ports.getD (Config.freeNat s.freeCtr % ports.length) 0,
   match tfind s.tim.macs seat with
   | some m => m + BitVec.ofNat 48 (free % 12)
   | none => BitVec.ofNat 48 free)

/-- Sends a CONTROL frame of the rim protocol to a seat's device, by the seat number that it goes by. Its payload is internal to firmware
(R346), and what its SEQ and TRANSFER hold is not stated: free values. Nothing leaves while no port is in service. DESIGN CHOICE,
log 66. -/
def sendControlAs (dst seat : Nat) (what : Control) (s : State) : State :=
  if !s.linked then s
  else
    let free := fun (i : Nat) => Config.freeNat (s.freeCtr + i) % 2 ^ 32
    let (port, mac) := s.path seat
    let h := transportHeader s fCONTROL 0 dst 0 (free 2) (s.conn port mac).ackSeq (free 3) 0
    let b := s.frameBytes port mac h (freeBytes (s.freeCtr + 4) (free 5 % 8193))
    emit (.control port b what) (count 3 port 0 1 { s with freeCtr := s.freeCtr + 6 })

/-- Sends a CONTROL frame to a seat. -/
def sendControl (dst : Nat) (what : Control) (s : State) : State := sendControlAs dst dst what s

/-- Sends a CONTROL frame to the rim. -/
def sendRim (what : Control) (s : State) : State := sendControl s.tim.rimSeat what s

/-- Lines of a command have moved (R215). -/
def noteLines (id n : Nat) (s : State) : State :=
  setInflight id (fun c => { c with progress := s.tim.now, steps := c.steps + n }) s

/-- Sends a frame of a sequence space; it carries ACK_SEQ. -/
def sendTx (port : Nat) (mac : BitVec 48) (f : TxFrame) (s : State) : State :=
  let n := f.payload.length / 512
  let h := transportHeader s fDATA n f.dstSeat f.xgroup f.seq (s.conn port mac).ackSeq f.transfer f.offset
  emit (.frame port (s.frameBytes port mac h f.payload)) (count 3 port 2 n (count 3 port 0 1 s))

/-- Sends an ACK or NAK that names a SEQ. -/
def sendCtl (typ port : Nat) (mac : BitVec 48) (dst seq : Nat) (s : State) : State :=
  let c := s.conn port mac
  let h := transportHeader s typ 0 dst 0 seq c.ackSeq 0 0
  emit (.frame port (s.frameBytes port mac h [])) (count 3 port 0 1 (s.setConn { c with sinceAck := 0 }))

/-- Sends waiting frames while fewer than 64 are unacknowledged. -/
def pumpConn (port : Nat) (mac : BitVec 48) : Nat → State → State
  | 0, s => s
  | n + 1, s =>
    let c := s.conn port mac
    match c.waiting with
    | f :: t =>
      if c.unacked.length < 64 then
        let c := { c with waiting := t, unacked := c.unacked ++ [f], lastAckAt := if c.unacked.isEmpty then s.tim.now else c.lastAckAt }
        pumpConn port mac n (sendTx port mac f (s.setConn c))
      else s
    | [] => s

def pump (port : Nat) (mac : BitVec 48) (s : State) : State := pumpConn port mac 64 s

/-- Cuts bytes into frames of at most 16 strands. -/
def frameCuts (cmd dst xgroup transfer : Nat) (off : Nat) (bytes : List Byte) : Nat → List (Nat → TxFrame)
  | 0 => []
  | n + 1 =>
    if bytes.isEmpty then []
    else
      (fun seq => { cmd, seq, dstSeat := dst, xgroup, transfer, offset := off, payload := bytes.take 8192 }) ::
        frameCuts cmd dst xgroup transfer (off + 8192) (bytes.drop 8192) n

/-- The identifier that the sender chooses for its next transfer (free value, log 5). -/
def State.transferId (s : State) : Nat := Config.freeNat s.freeCtr % 2 ^ 32

/-- Hands a transfer's bytes, whole lines, to a sequence space in SEQ order. -/
def sendBytes (cmd port : Nat) (mac : BitVec 48) (dst xgroup transfer : Nat) (bytes : List Byte) (s : State) : State :=
  let c := s.conn port mac
  let frames := (frameCuts cmd dst xgroup transfer 0 bytes (bytes.length / 8192 + 1)).mapIdx fun i f => f ((c.nextSeq + i) % 2 ^ 32)
  pump port mac (s.setConn { c with waiting := c.waiting ++ frames, nextSeq := (c.nextSeq + frames.length) % 2 ^ 32 })

/-- Sends a region to where the receiver puts it: the CONTROL frame that tells it so, then the lines (R238, R244). -/
def sendRegion (cmd port : Nat) (mac : BitVec 48) (dst : Nat) (handle : BitVec 32) (offset token : Nat) (bytes : List Byte)
    (s : State) : State :=
  sendBytes cmd port mac dst 0 s.transferId bytes
    (sendControl dst (.transfer s.transferId handle offset bytes.length token) (tick s))

/-- Sends bytes of an exchange to a member of the group, by a port and to a MAC of it. -/
def sendMember (cmd dst xgroup : Nat) (bytes : List Byte) (s : State) : State :=
  let (port, mac) := s.path dst
  let t := tick (tick s)
  if s.linked then sendBytes cmd port mac dst xgroup t.transferId bytes (tick t) else s

/-- Whether frames of a command are still to be acknowledged. -/
def State.sending (s : State) (cmd : Nat) : Bool :=
  s.lnk.conns.any fun c => (c.unacked ++ c.waiting).any fun f => f.cmd == cmd

end Sys2Proof.Machine
end

