-- ==== Sys2Proof/Machine/Placer.lean ====
section
/-! DEFINITION. The warp placer (chapter 8): PLACE, RELEASE, round boundaries, spares, migration, and the descriptor window. -/

namespace Sys2Proof.Machine

/-! ### Stack sets and room (R175, R176) -/

/-- Whether a stack can take new placements (R175, R281). -/
def State.eligible (s : State) (k : Nat) : Bool :=
  let v := s.stack k
  v.trained && v.health ≠ .degraded && v.health ≠ .failed && s.ups.dieReady.getLsbD (k / 6)

def dieStacks (d : Nat) : List Nat := (List.range 6).map (· + 6 * d)

/-- The data lines `[base, stop)` that a location holds on every stack of its set. -/
def Location.span (l : Location) (lines : Nat) : List Nat × Nat × Nat :=
  match l with
  | .across ms _ base => (ms, base, base + cdiv lines ms.length)
  | .hoop _ _ => ([], 0, 0)

/-- Everything that holds lines: each descriptor's location, and the new locations of migrations. -/
def State.holdings (s : State) : List (Location × Nat) :=
  let size := fun (i : Nat) => ((tfind s.plc.map i).map Desc.lines).getD 0
  (s.plc.map.map fun e => (e.2.location, e.2.lines)) ++
    (match s.plc.current with
     | some m => [(m.newLoc, size m.index)]
     | none => []) ++ s.plc.taken.map fun e => (e.2, size e.1)

/-- The lowest of the bases that leaves `[base, base + len)` clear of the spans, up to a limit (R176). -/
def lowestBase (spans : List (Nat × Nat)) (len limit : Nat) : Option Nat :=
  let ok := fun (b : Nat) => b + len ≤ limit && spans.all fun e => b + len ≤ e.1 || e.2 ≤ b
  ((0 :: spans.map (·.2)).filter ok).foldl (fun m b => some (match m with | none => b | some c => Min.min b c)) none

/-- Room for `lines` on a set of stacks. -/
def roomOn (held : List (Location × Nat)) (set : List Nat) (lines : Nat) : Option Nat :=
  if set.isEmpty then none
  else
    let spans := held.filterMap fun e =>
      let (ms, a, b) := e.1.span e.2
      if ms.any set.contains then some (a, b) else none
    lowestBase spans (cdiv lines set.length) dataLines

/-- The one die on which every affinity group lies. -/
def affinityDie (gs : List Group) : Option Nat :=
  match gs with
  | [] => none
  | g :: t => if t.all fun h => h.die == g.die then g.die else none

/-- The sets of R175 in order. -/
def State.stackSets (s : State) (cls : Nat) (gs : List Group) : List (List Nat) :=
  let all := (List.range 12).filter s.eligible
  match affinityDie gs with
  | some d => if cls ≠ 4 && cls ≠ 8 then [(dieStacks d).filter s.eligible, all] else [all]
  | none => [all]

/-- The location in HBM3, of the first set with room beside what is held (R175 to R177). -/
def State.findStacks (s : State) (held : List (Location × Nat)) (cls : Nat) (gs : List Group) (lines rot : Nat) : Option Location :=
  (s.stackSets cls gs).findSome? fun set => (roomOn held set lines).map fun b => .across set (rot % set.length) b

/-! ### The store split (R240, Table 10.8) -/

/-- The lines of each part of a hoop store: operand staging, vector scratch, control queues, link staging. -/
def storeParts (linkHeavy : Bool) : List Nat := if linkHeavy then [5462, 2731, 2730, 5461] else [5462, 5461, 5461, 0]

/-- The first line and the lines of a part under the split in force. -/
def State.storePart (s : State) (i : Nat) : Nat × Nat :=
  let l := storeParts s.ups.split
  ((l.take i).sum, l.getD i 0)

/-! ### Residency (R178) -/

/-- The home hoop: the hoop of the die with the most affinity members, the lowest on a tie. -/
def homeHoop (d : Nat) (gs : List Group) : Nat :=
  let n := fun (h : Nat) => (gs.map fun g => g.members.countP fun m => m / 8 == 12 * d + h).sum
  12 * d + (List.range 12).foldl (fun best h => if n h > n best then h else best) 0

def State.findHoop (s : State) (residentOk : Bool) (size : Nat) (gs : List Group) : Option Location :=
  if !(s.plc.ctrl.getLsbD 2 && residentOk && size ≤ bits s.plc.resLimit.toNat 31 16 * 1024) then none
  else
    match affinityDie gs with
    | none => none
    | some d =>
      let h := homeHoop d gs
      let spans := s.holdings.filterMap fun e =>
        match e.1 with
        | .hoop g b => if g = h then some (b, b + e.2) else none
        | _ => none
      let (first, room) := s.storePart 0
      (lowestBase (spans.map fun e => (e.1 - first, e.2 - first)) (cdiv size 512) (Min.min (s.plc.shareNow * 2) room)).map fun b =>
        .hoop h (first + b)

/-! ### Lines of a handle -/

/-- Whether a line lies in a location's range. -/
def Location.covers (l : Location) (lines id : Nat) : Bool :=
  match l with
  | .across ms _ base =>
    isHbm id && ms.contains (lineStack id) && base ≤ lineNo id && lineNo id < base + cdiv lines ms.length
  | .hoop h base => hoopLine h base ≤ id && id < hoopLine h (base + lines)

/-- The valid lines that hold a set valid bit of the lines for which `gone` holds. -/
def State.pagesOf (s : State) (gone : Nat → Bool) : List Nat :=
  distinct ((s.store.valid.filter fun id => isHbm id && gone id).map fun id => hbmLine (lineStack id) (validLineOf (lineNo id)))

/-- The lines become unwritten for which `gone` holds, their valid bits through the check caches (R157); what HBM3 stores stays, wrong
symbols too (R153, R156). -/
def forget (gone : Nat → Bool) (s : State) : State :=
  let s := (s.pagesOf gone).foldl (fun s v => if (s.stack (lineStack v)).health = .failed then s else (useCheck (lineStack v) (lineNo v) true s).2) s
  { s with store := { s.store with
    cells := s.store.cells.filter fun e => !gone (e.1 / 512), valid := s.store.valid.filter fun id => !gone id,
    crcXor := s.store.crcXor.filter fun e => !gone e.1, made := s.store.made.filter fun e => !gone e.1 } }

/-- The lines of a range become unwritten. -/
def forgetLines (l : Location) (lines : Nat) (s : State) : State := forget (fun id => l.covers lines id) s

/-! ### PLACE (R168 to R171) -/

/-- The lowest free index of the warp map. -/
def lowestFree : Nat → Tab Desc → Option Nat
  | n, [] => if n < 65536 then some n else none
  | n, e :: t => if n < e.1 then some n else lowestFree (e.1 + 1) t

def nextTag (t : Nat) : Nat := if t ≥ 0xFFFE then 1 else t + 1

/-- The dimensions of a PLACE, and whether they keep Table 8.1. -/
def placeDims (p : Packet) : List Nat := (List.range 5).map fun j => p.num (28 + 3 * j) 3
def dimsOk (rank : Nat) (ds : List Nat) : Bool :=
  (ds.take rank).all (fun d => d ≠ 0) && (ds.drop rank).all (fun d => d == 0)

def placeOk (p : Packet) : Bool :=
  let size := p.num 16 8
  let rank := p.num 25 1 % 8
  let fmt := p.num 26 1 % 16
  size ≠ 0 && size ≤ 285696000000 && p.num 24 1 ≤ 8 && p.num 25 1 / 8 == 0 && rank ≠ 0 && rank ≤ 5 && p.num 26 1 ≤ 0xD &&
    p.num 27 1 / 4 == 0 && dimsOk rank (placeDims p) &&
    (firstReserved p.params 16 [(52, 63, 0xFF)]).isNone && size * 8 ≥ ((placeDims p).take rank).foldl (· * ·) 1 * storageBits fmt

/-- The checks and effect of PLACE. A FORMAT of 0xF is refused as R169 says, not with the status that R27 gives format fields: DESIGN
CHOICE, log 64. -/
def planPlace (p : Packet) : Cmd Plan := do
  require (placeOk p) PLACE_INVALID
  let n := p.num 43 1
  require (n ≤ 4) GROUP_SHAPE_INVALID
  let words := (List.range 4).map fun i => p.num (44 + 2 * i) 2
  let gs := (words.take n).map groupOf
  require (gs.all Group.ok) GROUP_SHAPE_INVALID
  let s ← get
  match lowestFree 0 s.plc.map with
  | none => refuse WARP_MAP_FULL
  | some i =>
    let size := p.num 16 8
    let cls := p.num 24 1
    let lines := cdiv size 512
    match (s.findHoop (bit (p.num 27 1) 0) size gs).or (s.findStacks s.holdings cls gs lines s.plc.placed) with
    | none => refuse CAPACITY_EXHAUSTED
    | some loc =>
      pure { atIssue := true,
             run := do
               let tag := nextTag (tget 0 s.plc.tags i)
               let h := BitVec.ofNat 32 (tag * 65536 + i)
               let d : Desc :=
                 { handle := h, state := .live, cls, residentOk := bit (p.num 27 1) 0, pin := bit (p.num 27 1) 1,
                   rank := p.num 25 1 % 8, format := p.num 26 1 % 16, size, dims := placeDims p, affCount := n,
                   affinity := words.map (BitVec.ofNat 16), writeGen := 0, epoch := s.plc.epoch, traffic := 0, location := loc }
               upd fun s => { s with plc := { s.plc with
                 map := tinsert s.plc.map i d, tags := tset 0 s.plc.tags i tag, placed := s.plc.placed + 1,
                 running := terase s.plc.running i } }
               upd (forgetLines loc lines)
               pure { detail := h.toNat + s.plc.epoch * 2 ^ 32 } }

/-- PLACE. -/
def execPlace (q : Fin 64) (p : Packet) (s : State) : Host.Outcome State Fault Refusal :=
  .next (issueS q 0x12 p (planPlace p) s)

/-! ### RELEASE (R173) -/

def planRelease (p : Packet) : Cmd Plan := do
  reservedZero p [(20, 63, 0xFF)]
  let h := p.handle 16
  requireLive h
  pure { run := do
           upd fun s => match s.desc h with
             | some (i, _) => modDesc i (fun d => { d with state := .releasing }) s
             | none => s
           pure { wait := .released h } }

/-- RELEASE. -/
def execRelease (q : Fin 64) (p : Packet) (s : State) : Host.Outcome State Fault Refusal :=
  .next (issueS q 0x13 p (planRelease p) s)

/-- Frees a released handle's lines and entry once its earlier users and any copy of it have ended. A copy that the list holds for it and
that has not started counts as one in progress: DESIGN CHOICE, log 64. -/
def releaseFree (h : BitVec 32) (s : State) : State :=
  match s.flight.find? fun c => c.wait == .released h with
  | none => s
  | some c =>
    let i := h.toNat % 65536
    if s.powered && !(s.flight.any fun e => e.id < c.id && e.named.contains h) && !(s.mem.heldWrites.any fun w => w.handle == h) &&
        (s.plc.current.map (·.index)) ≠ some i && !(s.plc.taken.any fun e => e.1 == i) then
      match tfind s.plc.map i with
      | some d =>
        let s := forgetLines d.location d.lines s
        finishAs c.id OK 0 { s with plc := { s.plc with map := terase s.plc.map i, running := terase s.plc.running i } }
      | none => finishAs c.id OK 0 s
    else s

/-- RELEASE_FREE. -/
def execReleaseFree (handle : BitVec 32) (s : State) : Host.Outcome State Fault Refusal := .next (unlessOver (releaseFree handle) s)

/-! ### Spares (R181, R182) -/

/-- The positions of a spare group that do a stake's work: every home but the stood-in one, and the spare while it stands in. -/
def State.activePositions (s : State) (die g : Nat) : List Nat :=
  ((List.range 24).map (· + 24 * g + 96 * die)).filterMap s.position

/-- The readings that the last round's mean temperature is over; the last reading where the round has none. -/
def State.heatCount (s : State) : Nat := Max.max 1 s.plc.heatN

/-- The sum of those readings of a position's nearest sensor (R181). -/
def State.positionHeat (s : State) (die pos : Nat) : Int :=
  tget 0 (if s.plc.heatN = 0 then s.pwr.sensors else s.plc.heat) (48 * die + Config.nearestSensor (die * 100 + pos) % 48)

/-- The stake to which levelling moves a group's spare, if it moves (R181 point 2). Of equally hot positions the first, in the order of the
logical stakes, counts as the hottest: DESIGN CHOICE, log 64. -/
def State.levelled (s : State) (die g : Nat) : Option Nat :=
  let ps := s.activePositions die g
  let sum := ps.foldl (fun a p => a + s.positionHeat die p) 0
  match ps with
  | [] => none
  | p0 :: t =>
    let hot := t.foldl (fun b p => if s.positionHeat die p > s.positionHeat die b then p else b) p0
    let delta := Max.max 1 (bits s.plc.ctrlNow.toNat 23 16)
    if hot ≠ 25 * g + 24 && s.positionHeat die hot * ps.length - sum ≥ (delta * ps.length * s.heatCount : Nat) then stakeAt die hot else none

/-- The stake that a group's spare stands in for at a boundary (R181). -/
def State.assignment (s : State) (die g : Nat) : Option Nat :=
  let now := tfind s.plc.spares (die * 4 + g)
  if s.retired die (25 * g + 24) then none
  else
    match ((List.range 24).map (· + 25 * g)).find? (s.retired die) with
    | some p => stakeAt die p
    | none => if s.plc.ctrlNow.getLsbD 1 then (s.levelled die g).or now else now

/-- Every logical stake at its home. -/
def homePositions : List (Option Nat) := (List.range 192).map fun k => some (homePosition k)

/-- Where each logical stake runs. -/
def State.positions (s : State) : List (Option Nat) := (List.range 192).map s.position

/-- Assigns every group's spare; answers whether any stake's position differs from `old`. SHORT is set when a stake becomes
unmapped. -/
def assignSpares (old : List (Option Nat)) (s : State) : Bool × State :=
  let groups := (List.range 8).map fun i => (i, s.assignment (i / 4) (i % 4))
  let changed := groups.filter fun e => tfind s.plc.spares e.1 ≠ e.2
  let spares := groups.foldl (fun t e => match e.2 with | some k => tinsert t e.1 k | none => terase t e.1) s.plc.spares
  let s := { s with plc := { s.plc with spares := spares } }
  let s := changed.foldl (fun s e => match e.2 with | some k => trace tPLACEMENT 1 0xFF 0xFFFF [k] s | none => s) s
  let short := (List.range 192).any fun k => s.unmapped k && old.getD k none ≠ none
  (s.positions ≠ old, if short then raisePlc 2 s else s)

/-- Triggers of Table 8.4, in its order. -/
def byBist : Nat := 0
def bySram : Nat := 1
def byHang : Nat := 2
def byMaker : Nat := 3

/-- A marking is recorded in the ledger, with its trigger (Table 13.15). -/
def recordMark (die pos trigger : Nat) (s : State) : State :=
  record rSTAKE_RETIRE [BitVec.ofNat 8 die, BitVec.ofNat 8 pos, BitVec.ofNat 8 trigger] s

/-- A marked position is retired and traced (R183). -/
def retire (die pos : Nat) (s : State) : State :=
  if s.retired die pos then s
  else
    let s := { s with plc := { s.plc with retired := sinsert s.plc.retired (die * 100 + pos) } }
    let s := trace tPLACEMENT 0 0xFF 0xFFFF [(stakeAt die pos).getD 0xFFFF] s
    raisePlc 0 s

/-- Marks a position for retirement at the next boundary, with its record. -/
def markRetire (die pos trigger : Nat) (s : State) : State :=
  if s.plc.marked.contains (die, pos) || s.retired die pos then s
  else recordMark die pos trigger { s with plc := { s.plc with marked := s.plc.marked ++ [(die, pos)] } }

/-- A double-bit error in a stake's stores: the position that reaches PLC_RETIRE_LIMIT of them within an hour of rim time is marked
(Table 8.4). -/
def noteDouble (stake : Nat) (s : State) : State :=
  match s.position stake with
  | none => s
  | some pos =>
    let key := stake / 96 * 100 + pos
    let l := (tget [] s.plc.dbes key).filter (fun t => s.tim.now < t + 3600000000000) ++ [s.tim.now]
    let s := { s with plc := { s.plc with dbes := tset [] s.plc.dbes key l } }
    if s.plc.retireNow ≤ l.length then markRetire (stake / 96) pos bySram s else s

/-- A word in a stake's store is read: its double-bit error ends the command that reads it (R163). The store is written anew before
it is read again. -/
def readStakeSram (p : SramPlace) (s : State) : Option Fail × State :=
  match meetSram p s with
  | (true, s) => let (f, s) := reportSram p (noteDouble p.owner s); (some f, clearSram p s)
  | (false, s) => (none, s)

/-- The stores that a command reads; the first double-bit error ends it. -/
def readSrams : List SramPlace → Cmd Unit
  | [] => pure ()
  | p :: t => do
    match ← act (readStakeSram p) with
    | some f => throw f
    | none => readSrams t

/-! ### Migration (R186, R187) -/

/-- Whether a handle is on the migration list: live, not resident, not PIN, on a DEGRADED stack. -/
def State.migratable (s : State) (d : Desc) : Bool :=
  d.state == .live && !d.pin &&
    (match d.location with
     | .across ms _ _ => ms.any fun k => (s.stack k).health == .degraded
     | .hoop _ _ => false)

/-- An element inserted before the first that ranks below it. -/
def insertRanked (e : Nat × Desc) : List (Nat × Desc) → List (Nat × Desc)
  | [] => [e]
  | x :: t => if x.2.traffic < e.2.traffic then e :: x :: t else x :: insertRanked e t

/-- The list in descending traffic, ties in ascending index. -/
def State.migrationList (s : State) : List (Nat × Desc) :=
  (s.plc.map.filter fun e => s.migratable e.2).foldl (fun l e => insertRanked e l) []

/-- What holds lines but a handle's own lines, which do not count for its move (R186). -/
def State.holdingsBut (s : State) (i : Nat) : List (Location × Nat) :=
  let own := (tfind s.plc.map i).map fun d => (d.location, d.lines)
  match own with
  | some e => s.holdings.erase e
  | none => s.holdings

/-- Walks the list with the budget left in bytes; the first handle is always taken. A handle that finds no room is not moved and takes
nothing of the budget; ROT counts the PLACE commands up to the boundary. DESIGN CHOICE, log 64. -/
def takeMigrations : List (Nat × Desc) → Bool → Nat → State → State
  | [], _, _, s => s
  | (i, d) :: t, first, budget, s =>
    if first || d.size ≤ budget then
      match s.findStacks (s.holdingsBut i) d.cls ((d.affinity.take d.affCount).map fun w => groupOf w.toNat) d.lines s.plc.placed with
      | some loc =>
        takeMigrations t false (budget - d.size) { s with plc := { s.plc with taken := s.plc.taken ++ [(i, loc)] } }
      | none =>
        takeMigrations t false budget
          (raisePlc 1 { s with plc := { s.plc with pendingMig := s.plc.pendingMig + 1 } })
    else takeMigrations t false budget { s with plc := { s.plc with pendingMig := s.plc.pendingMig + 1 } }

/-- Starts the next copy when none runs. -/
def startCopy (s : State) : State :=
  match s.plc.current, s.plc.taken with
  | none, (i, loc) :: t =>
    let s := { s with plc := { s.plc with current := some { index := i, newLoc := loc, pointer := 0, stopped := false }, taken := t } }
    match tfind s.plc.map i with
    | some d =>
      let s := if d.state = .live then modDesc i (fun d => { d with state := .migrating }) s else s
      trace tPLACEMENT 2 0xFF 0xFFFF [d.handle.toNat] s
    | none => s
  | _, _ => s

/-- Builds and starts the migration list; answers whether it started any migration. -/
def buildMigrations (s : State) : Bool × State :=
  let busy := s.plc.current.isSome || !s.plc.taken.isEmpty
  let s := { s with plc := { s.plc with pendingMig := 0 } }
  if !s.plc.ctrlNow.getLsbD 0 then (false, s)
  else
    let moving := s.plc.taken.map (·.1)
    let list := s.migrationList.filter fun e => !moving.contains e.1
    let n := s.plc.taken.length
    let s := takeMigrations list true (Max.max 1 (bits s.plc.budgetNow.toNat 15 0) * 1000000000) s
    let started := n < s.plc.taken.length
    (started, if busy then s else startCopy s)

/-- A line of a copy as it is read: its bytes, unwritten, or lost. -/
inductive Moved where
  | bytes (b : List Byte) (last : Nat)
  | unwritten
  | lost
deriving DecidableEq, Repr

/-- The read of one line of a copy (R187). -/
def takeMoved (d : Desc) (newLoc : Location) (line : Nat) (s : State) : Moved × State :=
  let src := d.location.line line
  let dst := newLoc.line line
  let name : LineName := { handle := d.handle, offset := line * 512 }
  match readLine src name s with
  | (.ok bytes x written, s) =>
    if x ≠ 0 then (.lost, (reportCrc name (if lineDie src ≠ lineDie dst then 5 else 4) (lastGood src s) 0xFF s).2)
    else if written then (.bytes bytes (movedFrom src dst s), s)
    else (.unwritten, s)
  | (_, s) => (.lost, s)

/-- The write of one line of a copy: an unwritten line stays unwritten, a lost one is entered in its new stack's poison list. -/
def putMoved (d : Desc) (newLoc : Location) (line : Nat) (m : Moved) (s : State) : State :=
  let dst := newLoc.line line
  count 2 (lineStack dst) 21 1 <| match m with
  | .bytes b last => (writeLine dst { handle := d.handle, offset := line * 512 } b 0 last s).2
  | .unwritten => forget (fun id => id == dst) s
  | .lost => enterPoison (lineStack dst) [(lineNo dst, lineNo dst)] false s

/-- Lines `line` to `line + n - 1` of a copy: all read before the first is written, so that a new location may share lines with the
old one. DESIGN CHOICE, log 64. -/
def takeMovedLines (d : Desc) (newLoc : Location) (line : Nat) : Nat → State → List Moved × State
  | 0, s => ([], s)
  | n + 1, s =>
    let (m, s) := takeMoved d newLoc line s
    let (l, s) := takeMovedLines d newLoc (line + 1) n s
    (m :: l, s)

def putMovedLines (d : Desc) (newLoc : Location) (line : Nat) : List Moved → State → State
  | [], s => s
  | m :: t, s => putMovedLines d newLoc (line + 1) t (putMoved d newLoc line m s)

/-- Whether two locations of the same lines have a data line of a stack in common. -/
def Location.shares (a b : Location) (lines : Nat) : Bool :=
  let (ms, x, y) := a.span lines
  let (ns, u, v) := b.span lines
  ms.any ns.contains && x < v && u < y

/-- The copy under way moves its next line, where its two locations have none in common; the pointer goes on (R187). With idle rim
time, DESIGN CHOICE, log 1. -/
def copyNext (s : State) : State :=
  match s.plc.current with
  | none => s
  | some m =>
    match tfind s.plc.map m.index with
    | none => s
    | some d =>
      if !s.clocked || m.stopped || d.lines ≤ m.pointer || d.location.shares m.newLoc d.lines then s
      else
        unlessOver (fun s =>
          let (x, s) := takeMoved d m.newLoc m.pointer s
          let s := putMoved d m.newLoc m.pointer x s
          { s with plc := { s.plc with current := some { m with pointer := m.pointer + 1 } } }) s

/-- The copy under way finishes (R187). -/
def migrationCopy (s : State) : State :=
  match s.plc.current with
  | none => s
  | some m =>
    if !s.powered || m.stopped then s
    else
      match tfind s.plc.map m.index with
      | none => startCopy { s with plc := { s.plc with current := none } }
      | some d =>
        let (l, s) := takeMovedLines d m.newLoc m.pointer (d.lines - m.pointer) s
        let s := putMovedLines d m.newLoc m.pointer l s
        let s := forget (fun id => d.location.covers d.lines id && !m.newLoc.covers d.lines id) s
        let s := modDesc m.index (fun d => { d with location := m.newLoc, epoch := s.plc.epoch,
                                                    state := if d.state = .releasing then .releasing else .live }) s
        let s := trace tPLACEMENT 3 0xFF 0xFFFF [d.handle.toNat] s
        startCopy { s with plc := { s.plc with current := none } }

/-- MIGRATION_COPY. -/
def execMigrationCopy (s : State) : Host.Outcome State Fault Refusal := .next (unlessOver migrationCopy s)

/-- Every stack of a location is trained and not FAILED. -/
def State.locationReady (s : State) (l : Location) : Bool :=
  match l with
  | .across ms _ _ => ms.all fun k => (s.stack k).trained && (s.stack k).health ≠ .failed
  | .hoop _ _ => true

/-- A copy that a warm reset stopped goes on once its two locations are trained (R291). -/
def migrationResume (s : State) : State :=
  match s.plc.current with
  | some m =>
    match tfind s.plc.map m.index with
    | some d =>
      if s.powered && m.stopped && s.ups.stage ≥ 4 && s.locationReady d.location && s.locationReady m.newLoc then
        { s with plc := { s.plc with current := some { m with stopped := false } } }
      else s
    | none => s
  | none => s

/-- MIGRATION_RESUME. -/
def execMigrationResume (s : State) : Host.Outcome State Fault Refusal := .next (migrationResume s)

/-! ### Round boundaries (R185) -/

/-- The registers that take effect at a boundary (R188). -/
def latchPlc (s : State) : State :=
  { s with plc := { s.plc with
    ctrlNow := s.plc.ctrl, budgetNow := s.plc.migBudget, shareNow := Min.min 2048 (bits s.plc.resLimit.toNat 11 0),
    retireNow := Max.max 1 (bits s.plc.retireLimit.toNat 7 0) } }

/-- TRAFFIC of every live handle, and the running counts start again. -/
def latchTraffic (s : State) : State :=
  { s with plc := { s.plc with
    map := s.plc.map.map fun e => (e.1, { e.2 with traffic := sat 4294967295 (tget 0 s.plc.running e.1) }), running := [] } }

/-- A round boundary. -/
def roundBoundary (s : State) : State :=
  let s := latchTraffic (latchPlc s)
  let marked := s.plc.marked
  let old := s.positions
  let s := marked.foldl (fun s e => retire e.1 e.2 s) { s with plc := { s.plc with marked := [] } }
  let (moved, s) := assignSpares old s
  let s := { s with plc := { s.plc with heat := [], heatN := 0 } }
  let (started, s) := buildMigrations s
  if moved || started then { s with plc := { s.plc with epoch := (s.plc.epoch + 1) % 2 ^ 32 } } else s

/-! ### The descriptor (Table 8.3) -/

/-- A descriptor's 64 bytes; the host view reads the location as zero. -/
def Desc.bytes (d : Desc) (host : Bool) : List Byte :=
  let st := match d.state with
    | .live => 1
    | .migrating => 2
    | .releasing => 3
  let (mask, rot, count, base, res) := match d.location with
    | .across ms rot base => ((ms.map fun k => 2 ^ k).sum, rot, ms.length, base, 0)
    | .hoop h base => (0, 0, 0, 0, 1 + h * 2 + base * 256)
  leBytes 4 d.handle.toNat ++ [BitVec.ofNat 8 st, BitVec.ofNat 8 (d.cls + 16 * b2n d.residentOk + 32 * b2n d.pin),
    BitVec.ofNat 8 d.rank, BitVec.ofNat 8 d.format] ++ leBytes 8 d.size ++ (d.dims.flatMap (leBytes 3)) ++
  [BitVec.ofNat 8 d.affCount] ++ (d.affinity.flatMap fun w => leBytes 2 w.toNat) ++ leBytes 4 d.writeGen.toNat ++
  leBytes 4 d.epoch ++ leBytes 4 d.traffic ++ leBytes 2 (if host then 0 else mask + rot * 4096) ++ [BitVec.ofNat 8 count, 0] ++
  leBytes 4 (if host then 0 else base) ++ leBytes 4 res

/-- The host view of a warp map index; a free entry is all zeros. -/
def State.descBytes (s : State) (i : Nat) (host : Bool) : List Byte :=
  match tfind s.plc.map i with
  | some d => d.bytes host
  | none => List.replicate 64 0

end Sys2Proof.Machine
end

