-- ==== Sys2Proof/Machine/Exchange.lean ====
section
/-! DEFINITION. Exchange windows, BUNDLE_SEND, BUNDLE_REDUCE, BUNDLE_BROADCAST and CKPT_DRAIN (R232 to R245, R260). -/

namespace Sys2Proof.Machine

/-! ### Windows (R260) -/

/-- The first instance from the `n`-th on that ends after `t`: its start and end, in ns. -/
def instanceAfter (b : EntryBody) (n t : Nat) : Option (Nat × Nat) :=
  let dur := b.arg1.toNat * 1000
  let k := if t < b.start + dur then 0 else if b.period = 0 then 1 else (t - b.start - dur) / b.period + 1
  let k := Max.max n k
  if (b.period = 0 && k ≠ 0) || (b.count ≠ 0 && k ≥ b.count) then none
  else some (b.start + k * b.period, b.start + k * b.period + dur)

/-- The instance of an entry that has opened and not ended at `t`, or the first one to open that will not have. -/
def Sched.instanceAfter (e : Sched) (t : Nat) : Option (Nat × Nat) :=
  (e.opened.filter fun i => t < i.2).or (Machine.instanceAfter e.body e.next t)

/-- The earlier of two instances. -/
def earlier (a b : Option (Nat × Nat)) : Option (Nat × Nat) :=
  match a, b with
  | none, b => b
  | a, none => a
  | some x, some y => if y.1 < x.1 then some y else some x

/-- The first instance of a window that has not ended at `t`. -/
def State.windowAfter (s : State) (window t : Nat) : Option (Nat × Nat) :=
  (s.sched.filter fun e => e.1 < 16 && e.2.body.kind == 2 && e.2.body.arg0.toNat == window).foldl
    (fun a e => earlier a (e.2.instanceAfter t)) none

/-- Whether a transfer may start now: no window applies, or rim time lies in the instance or its grace (R239, R260). -/
def State.windowOpen (s : State) (window : Nat) (inst : Option (Nat × Nat)) : Bool :=
  window = 0 ||
    (match inst with
     | some (a, b) => a ≤ s.tim.now && s.tim.now ≤ b + s.tim.policy.grace * 1000
     | none => false)

/-- Whether a window's instance and its grace have passed. -/
def State.windowGone (s : State) (window : Nat) (inst : Option (Nat × Nat)) : Bool :=
  window ≠ 0 &&
    (match inst with
     | some (_, b) => b + s.tim.policy.grace * 1000 < s.tim.now
     | none => false)

/-- An instance that has not opened follows the bookings as they now stand (R261, R262). -/
def State.rebooked (s : State) (window : Nat) (inst : Option (Nat × Nat)) : Option (Nat × Nat) :=
  match inst with
  | some (a, b) => if a ≤ s.tim.now then some (a, b) else s.windowAfter window s.tim.now
  | none => s.windowAfter window s.tim.now

/-- Window entries have changed: the commands that wait for a window find its instance anew. -/
def rebook (s : State) : State :=
  { s with flight := s.flight.map fun c =>
    match c.wait with
    | .exchange inst =>
      let w := c.packet.num 40 4
      { c with wait := .exchange (if w = 0 then none else s.rebooked w inst) }
    | .drain st ab d inst => { c with wait := .drain st ab d (if d.window = 0 then none else s.rebooked d.window inst) }
    | _ => c }

/-! ### Membership -/

/-- A STANDALONE device, and a standby, refuse exchange opcodes (R247, R253). -/
def requireExchange : Cmd Unit := do
  let s ← get
  require (s.tim.role ≠ .standalone && s.tim.domain ≠ .standby && s.tim.domain ≠ .detached && s.tim.domain ≠ .joining) NOT_IN_DOMAIN

/-- The ranks of an exchange group in the device's table. -/
def State.group (s : State) (x : Nat) : Option XGroup := s.tim.groups.find? fun g => g.xgroup == x

/-- Whether a seat is in the device's group table. -/
def State.knowsSeat (s : State) (seat : Nat) : Bool := s.tim.groups.any fun g => g.ranks.contains seat

/-- The tests of R232 and R233 that every exchange opcode has. -/
def checkBundle (p : Packet) : Cmd Unit := do
  require (p.num 20 6 % 512 == 0) ALIGNMENT 20
  let len := p.num 26 6
  require (len % 512 == 0 && 16777216 ≤ len && len ≤ 268435456) VALUE_INVALID 26

/-- The wait of an exchange command (R260). -/
def exchangeWait (p : Packet) (s : State) : Wait :=
  let w := p.num 40 4
  .exchange (if w = 0 then none else s.windowAfter w s.tim.now)

/-! ### BUNDLE_REDUCE (R233, R234, R236) -/

def isWide2 (f : Nat) : Bool := f == 0xA || f == 0xC

def planReduce (p : Packet) : Cmd Plan := do
  reservedZero p [(33, 33, 0xFC), (46, 63, 0xFF)]
  let h := p.handle 16
  requireLive h
  requireExchange
  checkBundle p
  require (isWide2 (p.num 32 1 % 16) && isWide2 (p.num 32 1 / 16)) FORMAT_NOT_ALLOWED
  require (!bit (p.num 33 1) 1 || (f32 (p.num 36 4)).isFin) VALUE_INVALID 36
  let s ← get
  require (s.group (p.num 34 2)).isSome NOT_IN_DOMAIN
  if s.ups.split then pure ()
  else do
    let g := groupOf (p.num 44 2)
    require g.ok GROUP_SHAPE_INVALID
    checkStakes g
  checkExtent h (p.num 20 6) (p.num 26 6)
  let tension := bit (p.num 33 1) 0
  require (!tension || (s.tns.sealed.isNone && s.tns.held.isNone)) VALUE_INVALID 33
  if tension then checkSummaryRegion else pure ()
  let region := [(h, p.num 20 6, p.num 26 6)]
  let slot := if tension then [(s.summaryHandle, s.summaryOffset, slotBytes s.layerCount)] else []
  pure { outs := region ++ slot, names := [h],
         run := do
           let f ← if tension then act sealSummary else pure none
           pure (endWith f { wait := exchangeWait p (← get) }) }

/-- BUNDLE_REDUCE. -/
def execBundleReduce (q : Fin 64) (p : Packet) (s : State) : Host.Outcome State Fault Refusal :=
  .next (issueS q 0x41 p (planReduce p) s)

/-! ### BUNDLE_BROADCAST (R237) -/

def planBroadcast (p : Packet) : Cmd Plan := do
  reservedZero p [(32, 33, 0xFF), (37, 37, 0xF0), (38, 39, 0xFF), (44, 63, 0xFF)]
  let h := p.handle 16
  requireLive h
  requireExchange
  checkBundle p
  let s ← get
  match s.group (p.num 34 2) with
  | none => refuse NOT_IN_DOMAIN
  | some g =>
    let root := p.num 36 2 % 4096
    require (root < g.ranks.length) VALUE_INVALID 36
    checkExtent h (p.num 20 6) (p.num 26 6)
    let mine := g.ranks.getD root 0 = s.tim.seat
    pure { outs := if mine then [] else [(h, p.num 20 6, p.num 26 6)], names := [h],
           run := do pure { wait := exchangeWait p (← get) } }

/-- BUNDLE_BROADCAST. -/
def execBundleBroadcast (q : Fin 64) (p : Packet) (s : State) : Host.Outcome State Fault Refusal :=
  .next (issueS q 0x42 p (planBroadcast p) s)

/-! ### BUNDLE_SEND (R238) -/

def planSend (p : Packet) : Cmd Plan := do
  reservedZero p [(32, 33, 0xFF), (52, 63, 0xFF)]
  let h := p.handle 16
  requireLive h
  requireExchange
  checkBundle p
  require (p.num 46 6 % 512 == 0) ALIGNMENT 46
  require ((← get).knowsSeat (p.num 34 2)) NOT_IN_DOMAIN
  checkExtent h (p.num 20 6) (p.num 26 6)
  pure { names := [h], run := do pure { wait := exchangeWait p (← get) } }

/-- BUNDLE_SEND. -/
def execBundleSend (q : Fin 64) (p : Packet) (s : State) : Host.Outcome State Fault Refusal :=
  .next (issueS q 0x40 p (planSend p) s)

/-! ### Transfers (R234 to R239) -/

/-- A value rounded to a transport format with RNE. -/
def toTransport (fmt : Nat) (x : Num) : Num := decode fmt (convert fmt .rne x).code

/-- One element of a reduction from the members' codes in rank order (R234). -/
def reduceElement (bfmt tfmt : Nat) (scale : Option Num) (codes : List Nat) : Nat :=
  let node := fun (a b : Num) => addF (toTransport tfmt a) (toTransport tfmt b)
  let root := tree node (.fin 0 0) (codes.map (decode bfmt))
  let root := match scale with
    | some k => mulF root k
    | none => root
  (convert bfmt .rne root).code

/-- The reduced bundle, from the members' bytes in rank order. -/
def reduceBytes (bfmt tfmt : Nat) (scale : Option Num) (len : Nat) (leaves : List (List Byte)) : List Byte :=
  let b := storageBits bfmt
  let rows := leaves.map fun l => rowCodes l b (len / (b / 8))
  codesBytes b ((List.range (len / (b / 8))).map fun i => reduceElement bfmt tfmt scale (rows.map fun r => r.getD i 0))

/-- Neighbours reduced in pairs; a last one without a neighbour stands. -/
def reducePairs : List (Bool × Summary) → List (Bool × Summary)
  | a :: b :: t => (a.1 || b.1 || (a.2.reduce b.2).1, (a.2.reduce b.2).2) :: reducePairs t
  | l => l

def reduceLevels : Nat → List (Bool × Summary) → List (Bool × Summary)
  | 0, l => l
  | n + 1, l => reduceLevels n (reducePairs l)

/-- The members' summaries reduced over the same tree, with the divergence mark (R109, R110, R236). -/
def reduceSummaries (l : List Summary) : Option (Bool × Summary) :=
  (reduceLevels (clog2 l.length) (l.map fun m => (false, m))).head?

/-- The result of a transfer joins what the command's issue already found. -/
def doneWith (c : InFlight) (f : Option Fail) (s : State) : State :=
  setInflight c.id (fun c =>
    match f with
    | some e => { c with wait := .done, status := BitVec.ofNat 16 e.status, detail := BitVec.ofNat 64 e.detail }
    | none => { c with wait := .done }) s

/-- After a failure of R239 the destination region holds free values. -/
def spoil (c : InFlight) (s : State) : State :=
  let h := c.packet.handle 16
  let written := c.opcode = 0x41 || (c.opcode = 0x42 &&
    ((s.group (c.packet.num 34 2)).any fun g => g.ranks.getD (c.packet.num 36 2 % 4096) 0 ≠ s.tim.seat))
  if written then tick (writeBytes h (c.packet.num 20 6) (freeBytes s.freeCtr (c.packet.num 26 6)) s).2 else s

/-- Under EVEN an exchange reads its data out of the handle die's link staging (R163, R241). -/
def readStaging : Cmd Unit := do
  if (← get).ups.split then pure () else readHandle useStaging

/-- The device's own region of an exchange, verified as it leaves (R235). -/
def ownBytes (p : Packet) : Cmd (List Byte) := do
  readStaging
  readBytes (p.handle 16) (p.num 20 6) (p.num 26 6) none 7

/-- The leaves in rank order, the device's own among them; none where a member is missing. -/
def orderLeaves (n mine : Nat) (own : List Byte) (leaves : List Leaf) : Option (List (List Byte)) :=
  (List.range n).mapM fun r => if r = mine then some own else (leaves.find? fun l => l.rank == r).map (·.bytes)

/-- The summaries in rank order. -/
def orderSlots (n mine : Nat) (own : Summary) (leaves : List Leaf) : Option (List Summary) :=
  (List.range n).mapM fun r =>
    if r = mine then some own else (leaves.find? fun l => l.rank == r).bind fun l => l.slot.map parseSummary

/-- The tension segment of a reduction: the reduced summary is held until the COMMIT (R236). -/
def holdReduced (c : InFlight) (n mine : Nat) (leaves : List Leaf) (s : State) : State :=
  match s.tns.sealed with
  | none => s
  | some own =>
    if c.round ≠ s.tns.round then s
    else
      match (orderSlots n mine own leaves).bind reduceSummaries with
      | none => s
      | some (bad, m) =>
        let s := { s with tns := { s.tns with held := some m, heldDiverged := bad } }
        if bad then raiseTns 1 s else s

/-- The lines of a transfer have moved, and the command waits for its completion (R215). -/
def moved (c : InFlight) (f : Option Fail) (s : State) : State := noteLines c.id (c.packet.num 26 6 / 512) (doneWith c f s)

/-- The die whose vector units or exchange adders make the additions (R241): under EVEN those of GROUP's stakes, whose stores they read;
under LINK_HEAVY a hoop's adder, of which the spec does not say which hoop has which line. Free value, log 5. -/
def adderDie (p : Packet) : Cmd (Option Nat) := do
  let s ← get
  if s.ups.split then do
    set (tick s)
    pure (some (Config.freeNat s.freeCtr % 2))
  else do
    readSrams (groupOf (p.num 44 2)).vectorStores
    (groupOf (p.num 44 2)).reader

/-- The result of a reduction is made where its additions are, and written (R234, R235). -/
def reduceInto (p : Packet) (n mine : Nat) (leaves : List Leaf) : Cmd Res := do
  let own ← ownBytes p
  let die ← adderDie p
  let scale := if bit (p.num 33 1) 1 then some (f32 (p.num 36 4)) else none
  let l := (orderLeaves n mine own leaves).getD []
  writeAnd die [(p.handle 16, p.num 20 6, reduceBytes (p.num 32 1 % 16) (p.num 32 1 / 16) scale (p.num 26 6) l)] {}

/-- The frames in which a member's halves of the bundle leave, by recursive halving and doubling: twice, in TRANSPORT_FMT, to each rank that
differs from its own in one bit. What of the bundle each frame holds is not stated: free values, log 66. -/
def sendHalves (c : InFlight) (g : XGroup) (mine : Nat) (s : State) : State :=
  let p := c.packet
  let lines := p.num 26 6 / 512 * storageBits (p.num 32 1 / 16) / storageBits (p.num 32 1 % 16)
  (List.range (clog2 g.ranks.length)).foldl (fun s l =>
    match g.ranks[mine ^^^ 2 ^ l]? with
    | some seat => sendMember c.id seat g.xgroup (freeBytes s.freeCtr (2 * (512 * (lines / 2 ^ (l + 1))))) (tick s)
    | none => s) s

/-- A reduction runs. -/
def runReduce (c : InFlight) (leaves : List Leaf) (s : State) : State :=
  let p := c.packet
  match s.group (p.num 34 2) with
  | none => s
  | some g =>
    let n := g.ranks.length
    let mine := (firstIdx (fun r => r == s.tim.seat) g.ranks).getD 0
    if (orderLeaves n mine [] leaves).isNone then s
    else
      match (reduceInto p n mine leaves).run s with
      | .error f s => doneWith c (some f) (spoil c s)
      | .ok r s =>
        let s := if bit (p.num 33 1) 0 then holdReduced c n mine leaves s else s
        moved c (if r.status = 0 then none else some { status := r.status, detail := r.detail }) (sendHalves c g mine s)

/-- The first field of the packet that differs from what the root's packet has, as the detail of VALUE_INVALID names it (R237). -/
def broadcastDiffers (p : Packet) (xgroup root off len : Nat) : Option Nat :=
  if xgroup ≠ p.num 34 2 then some 34
  else if root ≠ p.num 36 2 % 4096 then some 36
  else if off ≠ p.num 20 6 then some 20
  else if len ≠ p.num 26 6 then some 26
  else none

/-- A broadcast arrives, or leaves from the root for each other member (R237). -/
def runBroadcast (c : InFlight) (xgroup root off len : Nat) (bytes : List Byte) (s : State) : State :=
  let p := c.packet
  match s.group (p.num 34 2) with
  | none => s
  | some g =>
    match broadcastDiffers p xgroup root off len with
    | some b => doneWith c (some { status := VALUE_INVALID, detail := b }) s
    | none =>
      if g.ranks.getD root 0 = s.tim.seat then
        match (ownBytes p).run s with
        | .error f s => doneWith c (some f) s
        | .ok b s => moved c none ((g.ranks.filter (· ≠ s.tim.seat)).foldl (fun s seat => sendMember c.id seat g.xgroup b s) s)
      else
        match readStaging.run s with
        | .error f s => doneWith c (some f) (spoil c s)
        | .ok _ s =>
          let (f, s) := writeBytes (p.handle 16) (p.num 20 6) (slice bytes 0 len) s
          moved c f s

/-- A send leaves for its receiver, in the frames of one sequence space, with the place and the token that it has there (R238). -/
def runSend (c : InFlight) (accepted : Bool) (port : Nat) (mac : BitVec 48) (s : State) : State :=
  let p := c.packet
  if !accepted then doneWith c (some { status := HANDLE_INVALID, detail := p.num 36 4 }) s
  else
    match (ownBytes p).run s with
    | .error f s => doneWith c (some f) s
    | .ok b s => doneWith c none (sendRegion c.id port mac (p.num 34 2) (p.handle 36) (p.num 46 6) (p.num 44 2) b s)

/-- A transfer's end under R239. -/
def failTransfer (c : InFlight) (status detail : Nat) (s : State) : State :=
  doneWith c (some { status, detail }) (spoil c s)

/-- The transfer of an exchange command runs as it is told. -/
def runTransfer (c : InFlight) (t : Transfer) (s : State) : State :=
  match t, c.opcode with
  | .reduce leaves, 0x41 => runReduce c leaves s
  | .broadcast xgroup root off len bytes, 0x42 => runBroadcast c xgroup root off len bytes s
  | .send accepted port mac, 0x40 => runSend c accepted port mac s
  | .peerLost, _ => failTransfer c PEER_LOST 0 s
  | .linkIntegrity port, _ => failTransfer c LINK_INTEGRITY port s
  | _, _ => s

/-- A transfer whose frames are under way ends where a member no longer answers, or a frame's retries have failed (R239). -/
def breakTransfer (c : InFlight) (t : Transfer) (s : State) : State :=
  match t with
  | .peerLost => failTransfer c PEER_LOST 0 (dropFrames c.id s)
  | .linkIntegrity port => failTransfer c LINK_INTEGRITY port (dropFrames c.id s)
  | _ => s

/-- The transfer of a waiting exchange command starts, and runs as it is told; one that has started may end under R239. -/
def transferStart (q ordinal : Nat) (t : Transfer) (s : State) : State :=
  match s.inflightAt q ordinal with
  | none => s
  | some c =>
    if !s.powered || s.seq.frozen then s
    else
      match c.wait with
      | .exchange inst => if s.windowOpen (c.packet.num 40 4) inst then actingFor c (runTransfer c t) s else s
      | .done | .drain true _ _ _ => if s.sending c.id then actingFor c (breakTransfer c t) s else s
      | _ => s

/-- TRANSFER_START; one whose writes a full retrain journal holds has not taken place (R150). -/
def execTransferStart (q : Fin 64) (ordinal : Nat) (t : Transfer) (s : State) : Host.Outcome State Fault Refusal :=
  .next (unlessOver (transferStart q ordinal t) s)

/-! ### Instances of the schedule table (R259) -/

/-- Whether an entry has an instance that has not fired. -/
def Sched.unopened (e : Sched) : Bool := (e.body.count = 0 || e.next < e.body.count) && (e.body.period ≠ 0 || e.next = 0)

/-- The instant of an entry's next instance, where rim time has come to it. -/
def Sched.dueAt (e : Sched) (now : Nat) : Option Nat :=
  let t := e.body.start + e.next * e.body.period
  if e.unopened && t ≤ now then some t else none

/-- The instance of an entry that has to fire next, where one is due: its instant, and the contents that it belongs to. One of contents
that a write has replaced comes first. -/
def State.nextDue (s : State) (entry : Nat) : Option (Nat × EntryBody) :=
  match tfind s.tim.owed entry with
  | some b => some (b.start, b)
  | none => (tfind s.sched entry).bind fun e => (e.dueAt s.tim.now).map fun t => (t, e.body)

/-- The contents of the instance that an entry fires now, where they are of this kind: instances that are due fire in ascending order of
instants, and at one instant in ascending order of entries. -/
def State.firing (s : State) (entry kind : Nat) : Option EntryBody :=
  (s.nextDue entry).bind fun d =>
    if d.2.kind == kind && (List.range 64).all fun j => match s.nextDue j with
      | some u => d.1 < u.1 || (d.1 == u.1 && entry ≤ j)
      | none => true
    then some d.2 else none

/-- Whether an entry fires an instance of this kind now. -/
def State.due (s : State) (entry kind : Nat) : Bool := (s.firing entry kind).isSome

/-- An instance has fired. -/
def fireNext (entry : Nat) (s : State) : State :=
  if (tfind s.tim.owed entry).isSome then { s with tim := { s.tim with owed := terase s.tim.owed entry } }
  else
    { s with sched := match tfind s.sched entry with
      | some e => tinsert s.sched entry { e with next := e.next + 1 }
      | none => s.sched }

/-- A window opens: its instance is kept until it ends. -/
def openWindow (entry start stop : Nat) (s : State) : State :=
  { s with sched := match tfind s.sched entry with
    | some e => tinsert s.sched entry { e with opened := some (start, stop) }
    | none => s.sched }

/-- WINDOW_INSTANCE: from now on the transfers of its window may start. -/
def windowInstance (entry : Nat) (s : State) : State :=
  match s.firing entry 2, s.nextDue entry with
  | some b, some d => openWindow entry d.1 (d.1 + b.arg1.toNat * 1000) (fireNext entry s)
  | _, _ => s

def execWindowInstance (entry : Fin 64) (s : State) : Host.Outcome State Fault Refusal :=
  .next (if s.powered && entry.val < 16 && s.due entry 2 then windowInstance entry s else s)

/-! ### CKPT_DRAIN (R243 to R245) -/

def drainEntries (b : List Byte) (n : Nat) : List DrainEntry :=
  (List.range n).map fun i =>
    { handle := BitVec.ofNat 32 (field b (32 + 24 * i) 4), offset := field b (36 + 24 * i) 6,
      length := field b (42 + 24 * i) 6, dst := field b (48 + 24 * i) 8 }

/-- The entries' alignment, entry by entry. -/
def checkEntries : List (Nat × DrainEntry) → Cmd Unit
  | [] => pure ()
  | (i, e) :: t => do
    require (e.offset % 512 == 0) ALIGNMENT (36 + 24 * i)
    require (e.length % 512 == 0) ALIGNMENT (42 + 24 * i)
    require (e.dst % 512 == 0) ALIGNMENT (48 + 24 * i)
    checkEntries t

def checkSources : List DrainEntry → Cmd Unit
  | [] => pure ()
  | e :: t => do
    if e.length = 0 then pure () else checkExtent e.handle e.offset e.length
    checkSources t

def requireSources : List DrainEntry → Cmd Unit
  | [] => pure ()
  | e :: t => do
    requireLive e.handle
    requireSources t

def planDrain (q : Nat) (p : Packet) : Cmd Plan := do
  let b ← readBlock (p.handle 16) (p.num 20 6) 512 512 20 (← seqDie q)
  reservedZero p [(26, 63, 0xFF)]
  blockReservedZero b [(20, 31, 0xFF), (416, 511, 0xFF)]
  let kind := field b 0 1
  let n := field b 1 1
  let es := drainEntries b (Min.min n 16)
  requireSources es
  require (kind ≤ 1) VALUE_INVALID 0
  require (1 ≤ n && n ≤ 16) VALUE_INVALID 1
  let s ← get
  let member := field b 2 2
  require (kind = 0 || (s.tim.role ≠ .standalone && s.knowsSeat member)) NOT_IN_DOMAIN
  checkEntries (es.mapIdx fun i e => (i, e))
  checkSources es
  let window := if kind = 0 then 0 else field b 16 4
  let plan : DrainPlan :=
    { member := if kind = 0 then none else some member, remote := BitVec.ofNat 32 (field b 4 4),
      crcDest := if kind = 0 then field b 8 8 else 0, window, entries := es }
  pure { names := es.map (·.handle),
         run := do
           let s ← get
           pure { wait := .drain false (s.ups.cfgNow.getLsbD 3) plan (if window = 0 then none else s.windowAfter window s.tim.now) } }

/-- CKPT_DRAIN. -/
def execCkptDrain (q : Fin 64) (p : Packet) (s : State) : Host.Outcome State Fault Refusal :=
  .next (issueS q 0x4A p (planDrain q p) s)

/-- The lines of a drain's entry to another member, verified at the device's exit. -/
def drainLines : List (DrainEntry × Nat) → State → Except Fail (List Byte) × State
  | [], s => (.ok [], s)
  | (e, i) :: t, s =>
    match drainRead e i s with
    | (.error f, s) => (.error f, s)
    | (.ok b, s) =>
      match drainLines t s with
      | (.ok rest, s) => (.ok (b ++ rest), s)
      | (.error f, s) => (.error f, s)

/-- The entries of a drain to another member leave in their order, each as a transfer to DST in REMOTE_HANDLE (R244). -/
def drainSend (c : InFlight) (port : Nat) (mac : BitVec 48) (seat : Nat) (remote : BitVec 32) : List DrainEntry → State → Option Fail × State
  | [], s => (none, s)
  | e :: t, s =>
    if e.length = 0 then drainSend c port mac seat remote t s
    else
      match drainLines ((List.range (e.length / 512)).map fun i => (e, i)) s with
      | (.error f, s) => (some f, s)
      | (.ok b, s) => drainSend c port mac seat remote t (sendRegion c.id port mac seat remote e.dst 0 b s)

/-- A drain reads its first line once every earlier command that writes one of its sources has completed (R244); to another
member also when its window allows, in the frames of one sequence space. -/
def drainStart (q ordinal : Nat) (path : Option (Fin 12 × BitVec 48)) (s : State) : State :=
  match s.inflightAt q ordinal with
  | none => s
  | some c =>
    match c.wait with
    | .drain false ab d inst =>
      if !s.powered || s.seq.frozen || s.flight.any (fun e => e.id < c.id && e.writes.any c.names.contains) then s
      else
        match d.member, path with
        | none, _ => setInflight c.id (fun c => { c with wait := .drain true ab d inst, progress := s.tim.now }) s
        | some seat, some (port, mac) =>
          if !s.windowOpen d.window inst then s
          else
            let (f, t) := drainSend c port mac seat d.remote d.entries (acting c.packet.layerId s)
            let t := acting s.seq.acting t
            match f with
            | some f => doneWith c (some f) t
            | none => setInflight c.id (fun c => { c with wait := .drain true ab d inst, progress := s.tim.now }) t
        | some _, none => s
    | _ => s

/-- DRAIN_START; one whose reads write back check lines that a full retrain journal holds has not taken place (R150). -/
def execDrainStart (q : Fin 64) (ordinal : Nat) (path : Option (Fin 12 × BitVec 48)) (s : State) : Host.Outcome State Fault Refusal :=
  .next (unlessOver (drainStart q ordinal path) s)

/-- A started drain comes to its end: the lines to host memory, and the number of bytes drained (R244, R245). -/
def drainEnd (c : InFlight) (d : DrainPlan) (s : State) : State :=
  let bytes := 512 * d.lines.length
  match d.member with
  | some _ => if s.sending c.id then s else finishAs c.id OK bytes s
  | none =>
    match drainHost d d.lines 0 s with
    | (none, s) => finishAs c.id OK bytes s
    | (some f, s) => finishAs c.id f.status f.detail s

/-! ### WINDOW_GRACE_EXPIRY (R260) -/

/-- When the instance began that a command waited for. -/
def Wait.windowStart : Wait → Nat
  | .exchange (some (a, _)) => a
  | .drain _ _ _ (some (a, _)) => a
  | _ => 0

/-- A command whose window and grace have passed before its transfer could start ends with WINDOW_MISSED, and its report
names the members that were absent. -/
def windowGraceExpiry (q ordinal : Nat) (absent : List Nat) (s : State) : State :=
  match s.inflightAt q ordinal with
  | none => s
  | some c =>
    let gone := match c.wait with
      | .exchange inst => s.windowGone (c.packet.num 40 4) inst
      | .drain false _ d inst => s.windowGone d.window inst
      | _ => false
    if !s.powered || !gone then s
    else
      let s := trace tCLUSTER 0 0x14 c.packet.layerId [s.tim.seat, 0, s.tns.round.toNat] s
      let s := finishAs c.id WINDOW_MISSED 0 (if c.opcode = 0x4A then s else actingFor c (spoil c) s)
      sendRim (.report { seat := s.tim.seat, kind := .missed, round := s.tns.round, diverged := false, replayFailed := false, absent,
                         inst := c.wait.windowStart }) s

/-- WINDOW_GRACE_EXPIRY; one whose writes a full retrain journal holds has not taken place (R150). -/
def execWindowGraceExpiry (q : Fin 64) (ordinal : Nat) (absent : List Nat) (s : State) : Host.Outcome State Fault Refusal :=
  .next (unlessOver (windowGraceExpiry q ordinal absent) s)

end Sys2Proof.Machine
end

