-- ==== Sys2Proof/Machine/Rounds.lean ====
section
/-! DEFINITION. The round on one device: the commit's effect, ROLLBACK, COMMIT and the round record (R247, R263 to R266, R271 to
R275). -/

namespace Sys2Proof.Machine

/-! ### Round boundaries -/

/-- The domain's policy registers take what was written (R278). -/
def latchPolicy (s : State) : State :=
  match s.tim.policyNext with
  | some p =>
    let p := { p with hbPeriod := Max.max 100 p.hbPeriod, takeover := Max.max 1 p.takeover, rollback := Max.max 1 p.rollback }
    { s with tim := { s.tim with policy := p, policyNext := none } }
  | none => s

/-- The placer's round boundary, with the domain's policy (R185, R278). -/
def boundary (s : State) : State := roundBoundary (latchPolicy s)

/-- What the round gathered is discarded; TNS_ROUND_REWEAVES returns to zero (R113, R265, R266). -/
def clearRound (s : State) : State :=
  { s with tns := { s.tns with statistics := [], sealed := none, held := none, heldDiverged := false, roundReweaves := 0,
                               stormRaised := false },
           tim := { s.tim with exchanged := false, updated := false, abort := none, abortDiv := false, sourceOnce := none,
                               decided := none, stormNote := false } }

/-- A commit's effect with reduced summary `m` (R265), in its order. Answers whether slot 1 could be written. A summary with a
divergence mark changes no ladder state (R110). -/
def commitEffect (m : Summary) (s : State) : Option Fail × State :=
  let s := { s with tns := { s.tns with round := s.tns.round + 1 } }
  let s := if s.tns.heldDiverged then s else floorPolicy m (ladderPolicy m s)
  let m := { m with floor := s.tns.floor }
  let (f, s) := writeSlot 1 m s
  let s := latchTns { s with tns := { s.tns with last := m } }
  let s := clearRound (boundary s)
  (f, { s with tns := { s.tns with compareOk := false, compareBad := false }, tim := { s.tim with tookSeat := false } })

/-- The summary of a commit without a sealed segment: zero counts, no storm (R236). -/
def State.emptySummary (s : State) : Summary :=
  { round := s.tns.round.toNat, layerCount := s.layerCount, replicas := 1,
    recs := (List.range (s.layerCount * 4)).map fun i =>
      (i, { byte3 := s.recordByte3 (i / 4) (i % 4), round := s.tns.round.toNat, stats := {} }) }

/-! ### Pending COMMITs -/

def State.commits (s : State) : List InFlight :=
  s.flight.filter fun c => match c.wait with
    | .commit _ => true
    | _ => false

/-- Pending COMMITs of the stage UPDATED. -/
def State.updates (s : State) : List InFlight :=
  s.flight.filter fun c => match c.wait with
    | .commit true => true
    | _ => false

/-- Commands complete with one status and detail. -/
def finishAll (l : List InFlight) (status detail : Nat) (s : State) : State :=
  l.foldl (fun s c => finishAs c.id status detail s) s

/-- VERIFY clears at the completion of the COMMIT that it governs (R275). -/
def clearVerify (s : State) : State := { s with tns := { s.tns with verify := false } }

/-- Whether the loaded round's compares prove the restore (R275). -/
def State.compared (s : State) : Bool := s.tns.compareOk && !s.tns.compareBad

/-! ### Decisions as a member sees them (R268) -/

/-- The detail of R268. -/
def decisionDetail (code : Nat) (lost peer : Option Nat) (round : Nat) : Nat :=
  lost.getD 0 % 4096 + peer.getD 0 % 4096 * 2 ^ 12 + code % 8 * 2 ^ 24 + b2n lost.isSome * 2 ^ 28 + b2n peer.isSome * 2 ^ 29 +
    round * 2 ^ 32

/-- TIM_TAKEOVER (Table 11.19). -/
def takeoverWord (code : Nat) (lost peer : Option Nat) (source standby : Bool) : Nat :=
  lost.getD 0 % 4096 + peer.getD 0 % 4096 * 2 ^ 12 + code % 8 * 2 ^ 24 + b2n lost.isSome * 2 ^ 27 + b2n source * 2 ^ 28 +
    b2n standby * 2 ^ 29 + b2n peer.isSome * 2 ^ 30

def writeTakeover (w : Nat) (s : State) : State := raiseTim 2 { s with tim := { s.tim with takeover := BitVec.ofNat 32 w } }

/-! ### COMMIT (R247, R263) -/

/-- What a member reports; its DIVERGED is that of TNS_STATUS (R263). -/
def State.report (s : State) (kind : ReportKind) : Report :=
  { seat := s.tim.seat, kind, round := s.tns.round, diverged := s.tns.status.bits.getLsbD 1,
    replayFailed := s.tns.verify && !s.compared, absent := [] }

/-- COMMIT on a STANDALONE device: sealed, and in effect at its issue (R247, R275). Where a LOAD has left a PENDING summary, that one
is in effect: R274 holds it as the reduced summary of the round, R107 and R236 name the sealed one. DESIGN CHOICE, log 64. -/
def planCommitAlone : Cmd Plan := do
  checkSummaryRegion
  let s ← get
  if s.tns.verify && !s.compared then
    pure { atIssue := true,
           run := do
             upd fun s => clearVerify (writeTakeover (takeoverWord 5 none none false false) s)
             pure { status := COMMIT_ABORTED, detail := decisionDetail 5 none none s.tns.round.toNat } }
  else
    pure { outs := [(s.summaryHandle, s.summaryOffset, 2 * slotBytes s.layerCount)], atIssue := true,
           run := do
             let f ← act sealSummary
             let s ← get
             let m := s.tns.held.getD (s.tns.sealed.getD s.emptySummary)
             let g ← act (commitEffect m)
             upd clearVerify
             pure (endWith (f.or g) { detail := (← get).tns.round.toNat + 2 ^ 32 }) }

/-- COMMIT on a RIB or RIM. A member reports; a device outside a domain and a standby are refused, a halted domain and an abort
decision end it (R253, R263, R267, R268), and VERIFY clears as a first COMMIT (UPDATED) so completes (R275). The write of slot 1 at the commit's effect is not the COMMIT command's, and does not advance the summary
handle's generation; R83 does not say so. DESIGN CHOICE, log 64. -/
def planCommitMember (updated : Bool) : Cmd Plan := do
  let s ← get
  let abortStatus := if s.tim.abortDiv then TENSION_DIVERGED else COMMIT_ABORTED
  match s.tim.domain with
  | .member =>
    match s.tim.abort with
    | some d =>
      pure { atIssue := true,
             run := do
               upd fun s => if updated then clearVerify s else s
               pure { status := abortStatus, detail := d.toNat } }
    | none =>
      if !updated then
        pure { run := do
                 upd fun s => sendRim (.report (s.report .exchanged)) { s with tim := { s.tim with exchanged := true } }
                 pure { wait := .commit false } }
      else
        match s.tim.sourceOnce with
        | some d =>
          pure { atIssue := true,
                 run := do
                   upd fun s => clearVerify { s with tim := { s.tim with sourceOnce := none } }
                   pure { status := PEER_LOST, detail := d.toNat } }
        | none =>
          pure { run := do
                   upd fun s => if s.tim.exchanged then s else
                     sendRim (.report (s.report .exchanged)) { s with tim := { s.tim with exchanged := true } }
                   upd fun s => sendRim (.report (s.report .updated)) { s with tim := { s.tim with updated := true } }
                   pure { wait := .commit true } }
  | .halted => refuse COMMIT_ABORTED ((s.tim.abort.map fun d => d.toNat).getD 0)
  | _ => refuse NOT_IN_DOMAIN

def planCommit (p : Packet) : Cmd Plan := do
  reservedZero p [(16, 16, 0xFE), (17, 63, 0xFF)]
  if (← get).tim.role = .standalone then planCommitAlone else planCommitMember (bit (p.num 16 1) 0)

/-- COMMIT. -/
def execCommit (q : Fin 64) (p : Packet) (s : State) : Host.Outcome State Fault Refusal :=
  .next (issueS q 0x49 p (planCommit p) s)

/-- The COMMIT message on a member (R265). -/
def commitMessage (round : BitVec 32) (seats : Nat) (s : State) : State :=
  if !s.powered || s.tim.domain ≠ .member || round ≠ s.tns.round then s
  else
    let (_, s) := commitEffect (s.tns.held.getD s.emptySummary) s
    finishAll s.updates OK (s.tns.round.toNat + seats * 2 ^ 32) s

/-- COMMIT_EFFECT; one whose write of slot 1 a full retrain journal holds has not taken place (R150). -/
def execCommitEffect (round : BitVec 32) (seats : Nat) (s : State) : Host.Outcome State Fault Refusal :=
  .next (unlessOver (commitMessage round seats) s)

/-! ### ROLLBACK (R266) -/

def rollbackEffect (s : State) : State := finishAll s.commits COMMIT_ABORTED 0 (boundary (clearRound s))

/-- A member tells the rim of it; `kind` is a standby's LOAD where R274 has it so. -/
def reportRedo (kind : ReportKind) (s : State) : State :=
  match s.tim.domain with
  | .member => sendRim (.report (s.report kind)) s
  | _ => s

def planRollback (p : Packet) : Cmd Plan := do
  reservedZero p [(16, 63, 0xFF)]
  pure { atIssue := true,
         run := do
           upd fun s => reportRedo .rollback (rollbackEffect s)
           pure {} }

/-- ROLLBACK. -/
def execRollback (q : Fin 64) (p : Packet) (s : State) : Host.Outcome State Fault Refusal :=
  .next (issueS q 0x4B p (planRollback p) s)

/-! ### ROUND_RECORD (R271 to R275) -/

/-- The four offsets of R272 for a layer count: ladder, summary, pending, and the total size. -/
def recordLayout (layers : Nat) (pending : Bool) : Nat × Nat × Nat × Nat :=
  let so := 1024 + 512 * cdiv (4 + 60 * layers) 512
  let size := 512 + 512 * layers
  (1024, so, if pending then so + size else 0, if pending then so + 2 * size else so + size)

def padTo (n : Nat) (l : List Byte) : List Byte := slice l 0 n

/-- The ladder state of Table 5.8. -/
def State.ladderBytes (s : State) : List Byte :=
  leBytes 4 (s.tns.floor + 65536 * s.tns.stormFree) ++
    (List.range (3 * s.layerCount)).flatMap fun i =>
      let l := tget {} s.tns.ladders i
      [BitVec.ofNat 8 l.cur, BitVec.ofNat 8 l.clean, 0, 0] ++ leBytes 4 l.tiles ++ leBytes 4 l.rw ++ leBytes 4 l.shad ++ leBytes 4 l.dis

/-- A record as SAVE captures it (Table 11.15), with the host block's bytes. -/
def State.roundRecord (s : State) (host : List Byte) : List Byte :=
  let (lo, so, po, total) := recordLayout s.layerCount s.tns.held.isSome
  let head := leBytes 4 0x4E595243 ++ leBytes 2 1 ++ leBytes 2 (b2n s.tns.held.isSome) ++ leBytes 4 s.tns.round.toNat ++
    leBytes 4 s.layerCount ++ leBytes 4 s.plc.epoch ++ leBytes 2 s.tim.seat ++ leBytes 2 s.tim.replicaSet ++
    leBytes 8 s.tns.rsSeed.toNat ++ leBytes 8 s.tim.now ++ leBytes 4 lo ++ leBytes 4 so ++ leBytes 4 po ++ leBytes 4 total ++
    leBytes 4 (field host 64 4) ++ leBytes 4 0 ++ slice host 0 64
  padTo 512 head ++ slice host 512 512 ++ padTo (so - lo) s.ladderBytes ++ padTo (slotBytes s.layerCount) s.tns.last.bytes ++
    (match s.tns.held with
     | some m => m.bytes
     | none => [])

def planSave (p : Packet) (die : Option Nat) : Cmd Plan := do
  let rh := p.handle 20
  let hh := p.handle 32
  requireLive rh
  requireLive hh
  require (p.num 24 6 % 512 == 0) ALIGNMENT 24
  require (p.num 36 6 % 512 == 0) ALIGNMENT 36
  checkExtent hh (p.num 36 6) 1024
  let host ← readBytes hh (p.num 36 6) 1024 die
  require (field host 64 4 ≤ 64) VALUE_INVALID 64
  let s ← get
  let rec_ := s.roundRecord host
  require (p.num 24 6 + rec_.length ≤ s.handleSize rh) TABLE_REGION_SMALL
  pure { outs := [(rh, p.num 24 6, rec_.length)], names := [rh, hh],
         run := do
           upd fun s => if bit (p.num 16 1) 2 && s.tim.domain == .member then sendRim (.ckptDone s.tns.round) s else s
           writeAnd die [(rh, p.num 24 6, rec_)] {} }

def planLoad (p : Packet) : Cmd Plan := do
  let rh := p.handle 20
  requireLive rh
  require (p.num 24 6 % 512 == 0) ALIGNMENT 24
  let s ← get
  let slot1 := s.live s.summaryHandle && s.summaryOffset + 2 * slotBytes s.layerCount ≤ s.handleSize s.summaryHandle
  pure { outs := if slot1 then [(s.summaryHandle, s.summaryOffset + slotBytes s.layerCount, slotBytes s.layerCount)] else [],
         names := [rh], run := pure { wait := .load } }

def planRecord (q : Nat) (p : Packet) : Cmd Plan := do
  reservedZero p [(16, 16, 0xF8), (17, 19, 0xFF), (30, 31, 0xFF), (42, 63, 0xFF)]
  if bit (p.num 16 1) 0 then planLoad p else planSave p (← seqDie q)

/-- ROUND_RECORD. -/
def execRoundRecord (q : Fin 64) (p : Packet) (s : State) : Host.Outcome State Fault Refusal :=
  .next (issueS q 0x4C p (planRecord q p) s)

/-- One ladder read back. -/
def parseLadder (b : List Byte) : Ladder :=
  { cur := field b 0 1 % 4, clean := field b 1 1, tiles := field b 4 4, rw := field b 8 4, shad := field b 12 4, dis := field b 16 4 }

/-- A record's ladder region in place of the ladders that it carries; those of further layers stay. -/
def parseLadders (b : List Byte) (layers : Nat) (old : Tab Ladder) : Tab Ladder :=
  (List.range (3 * layers)).foldl (fun t i => tset {} t i (parseLadder (slice b (4 + 20 * i) 20))) old

/-- A record as LOAD reads it: its bytes, checked against R272 and R274. Its handle was live at the issue; a RELEASE since then waits for
the LOAD (R173). -/
def readRecord (h : BitVec 32) (off : Nat) (die : Option Nat) : Cmd (List Byte) := do
  checkExtent h off 1024
  let b ← readBytes h off 1024 die
  let layers := (← get).layerCount
  let (lo, so, po, total) := recordLayout layers (bit (field b 6 2) 0)
  require (field b 0 4 == 0x4E595243) VALUE_INVALID 0
  require (field b 4 2 == 1) VALUE_INVALID 4
  require (field b 12 4 == layers) VALUE_INVALID 12
  require (field b 40 4 == lo) VALUE_INVALID 40
  require (field b 44 4 == so) VALUE_INVALID 44
  require (field b 48 4 == po) VALUE_INVALID 48
  require (field b 52 4 == total) VALUE_INVALID 52
  checkExtent h off total
  let rest ← readBytes h (off + 1024) (total - 1024) die
  pure (b ++ rest)

/-- What LOAD restores (R274, points 1 to 4). -/
def restore (b : List Byte) (verify : Bool) (s : State) : Option Fail × State :=
  let s := rollbackEffect s
  let layers := s.layerCount
  let (lo, so, po, _) := recordLayout layers (bit (field b 6 2) 0)
  let m := parseSummary (slice b so (slotBytes layers))
  let pending := if po = 0 then none else some (parseSummary (slice b po (slotBytes layers)))
  let s := { s with tns := { s.tns with
    round := BitVec.ofNat 32 (field b 8 4), ladders := parseLadders (slice b lo (so - lo)) layers s.tns.ladders, floor := field b lo 1 % 4,
    stormFree := field b (lo + 2) 2, rsSeed := BitVec.ofNat 64 (field b 24 8), last := m, held := pending, verify := verify,
    compareOk := false, compareBad := false } }
  let fits := s.live s.summaryHandle && s.summaryOffset + 2 * slotBytes layers ≤ s.handleSize s.summaryHandle
  let (f, s) := if fits then writeSlot 1 m s else (none, s)
  (f, reportRedo (if s.tim.tookSeat then .load else .rollback) s)

/-- A LOAD takes effect once every command issued before it has completed (R274). -/
def loadEnd (c : InFlight) (s : State) : State :=
  if s.flight.any fun e => e.id < c.id then s
  else
    match (readRecord (c.packet.handle 20) (c.packet.num 24 6) (some (c.seqr / 2))).run s with
    | .error f s => finishAs c.id f.status f.detail s
    | .ok b s =>
      match restore b (bit (c.packet.num 16 1) 1) s with
      | (none, s) => finishAs c.id OK 0 s
      | (some f, s) => finishAs c.id f.status f.detail s

end Sys2Proof.Machine
end

