-- ==== Sys2Proof/Machine/Time.lean ====
section
/-! DEFINITION. Rim time: synchronisation, holdover, pulses, the protocol's messages, and steps against the schedule table
(R248, R254 to R256, R259, R348). -/

namespace Sys2Proof.Machine

/-! ### Steps (R255, R259) -/

/-- A forward step: a periodic entry skips the instances stepped over; a single one is due at once. -/
def skipInstances (now : Nat) (e : Sched) : Sched :=
  if e.body.period ≠ 0 && e.body.start + e.next * e.body.period ≤ now then
    { e with next := (now - e.body.start) / e.body.period + 1 }
  else e

/-- A WAIT_TIME whose time has come waits for nothing more, whatever rim time does later (R212). -/
def wake (s : State) : State :=
  { s with flight := s.flight.map fun c => match c.wait with
      | .untilTime t => if t ≤ s.tim.now then { c with wait := .done } else c
      | _ => c }

/-- A moment of the past as rim time shifted by `d` counts it. -/
def later (d : Int) (t : Nat) : Nat := (t + d).toNat

/-- What the module measures from a moment of the past goes on as it was: a step changes no time elapsed. -/
def shiftTimers (d : Int) (s : State) : State :=
  { s with
    ups := { s.ups with enteredAt := s.ups.enteredAt + d, quiesce := s.ups.quiesce.map fun q => (later d q.1, q.2) },
    pwr := { s.pwr with lastStepAt := s.pwr.lastStepAt.map (later d) },
    mem := { s.mem with lastTempRead := later d s.mem.lastTempRead },
    flight := s.flight.map fun c => { c with progress := later d c.progress },
    tim := { s.tim with lastHb := later d s.tim.lastHb, lastSync := later d s.tim.lastSync },
    cnt := { s.cnt with zeroAt := s.cnt.zeroAt + d },
    lnk := { s.lnk with
      firstPortAt := s.lnk.firstPortAt.map (· + d), holdEnd := s.lnk.holdEnd.map fun e => (e.1, later d e.2),
      ports := s.lnk.ports.map fun e => (e.1, { e.2 with syncAt := later d e.2.syncAt, reqAt := later d e.2.reqAt,
                                                         lastSync := later d e.2.lastSync, lastReq := later d e.2.lastReq,
                                                         lastAnn := later d e.2.lastAnn, upAt := later d e.2.upAt,
                                                         pair := e.2.pair.map fun q => (q.1, later d q.2) }),
      conns := s.lnk.conns.map fun c => { c with firstAt := later d c.firstAt, lastAckAt := later d c.lastAckAt } } }

/-- After a backward step scrubbing carries on at the slots that come again (R154). -/
def scrubAgain (s : State) : State :=
  { s with mem := { s.mem with stackTab := s.mem.stackTab.map fun e => (e.1, { e.2 with lastScrub := none }) } }

/-- Rim time becomes `t`. After a backward step an entry goes on from the last instance that it fired. -/
def setTime (t : Nat) (s : State) : State :=
  let s := wake s
  let old := s.tim.now
  let s := shiftTimers ((t : Int) - old) s
  let s := { s with tim := { s.tim with now := t % 2 ^ 64 }, cnt := { s.cnt with sinceStep := s.cnt.sinceStep || t ≠ old } }
  if old < t then wake { s with sched := s.sched.map fun e => (e.1, skipInstances t e.2) } else scrubAgain s

/-! ### Synchronisation (R254 to R256) -/

/-- A port that may give a device its time: in service, and SLAVE, or not yet given a state by the rim. -/
def State.syncPort (s : State) (p : Nat) : Bool :=
  (s.port p).state.inService && ((s.port p).ptp == 2 || ((s.port p).ptp == 0 && (s.tim.domain == .detached || s.tim.domain == .joining)))

/-- A device that takes its time from the rim. -/
def State.follower (s : State) : Bool := s.powered && s.ups.stage ≥ 5 && s.tim.role == .rib

/-- A PTP message of the device's domain arrives on a port that carries traffic (R348). -/
def State.hears (s : State) (p domain : Nat) : Bool :=
  s.powered && s.ups.stage ≥ 5 && (s.port p).state.inService && domain == s.lnk.ptpDomain

/-- Rim time may step: at the first lock, at relock, and at a change of the rim (R255). -/
def State.maySteps (s : State) : Bool := s.tim.rimChanged || (s.tim.time != .locked && s.tim.time != .slewing)

/-- Rim time slews by an offset from now on, or steps by one beyond 1 µs. A larger offset where no step may occur slews, which R255
does not say (DESIGN CHOICE, log 57). -/
def correctTime (offset : Int) (s : State) : State :=
  if 1000 < offset.natAbs && s.maySteps then
    let s := setTime (s.tim.now + offset).toNat { s with tim := { s.tim with time := .locked, slew := 0 } }
    trace tTIME_STEP 0 0xFF 0xFFFF [(offset % (2 : Int) ^ 64).toNat] (raiseTim 0 s)
  else { s with tim := { s.tim with time := if offset.natAbs ≤ 50 then .locked else .slewing, slew := offset } }

/-- One synchronisation with a measured offset, the rim's time less the device's (R255, R256). -/
def synchronise (offset : Int) (s : State) : State :=
  let clamp := Max.max (-2147483648) (Min.min 2147483647 offset)
  let s := correctTime offset { s with tim := { s.tim with offset := clamp, holdAt := 0 } }
  { s with tim := { s.tim with lastSync := s.tim.now, rimChanged := false } }

/-- A Sync and its Follow_Up have both come in: with the mean path delay known they give the offset. -/
def takeSync (p origin : Nat) (s : State) : State :=
  let v := { s.port p with heard := false, early := none, pair := some (origin, (s.port p).syncAt) }
  let s := s.setPort p v
  match v.delay with
  | some d => synchronise ((origin : Int) + d - v.syncAt) s
  | none => s

/-- A follower's port hears a Sync or a Follow_Up of its master. -/
def State.hearsMaster (s : State) (p domain : Nat) : Bool := s.follower && s.hears p domain && s.syncPort p

/-- SYNC: its arrival is timed; the Follow_Up may have come before it. -/
def sync (p domain seqId : Nat) (s : State) : State :=
  if !s.hearsMaster p domain then s
  else
    let early := (s.port p).early
    let s := count 3 p 8 1 (s.setPort p { s.port p with syncSeq := seqId, syncAt := s.tim.now, heard := true })
    match early with
    | some (n, origin) => if n = seqId then takeSync p origin s else s
    | none => s

def execSync (port : Fin 12) (domain seqId : Nat) (s : State) : Host.Outcome State Fault Refusal := .next (sync port domain seqId s)

/-- FOLLOW_UP: the precise origin timestamp of its Sync. -/
def followUp (p domain seqId origin : Nat) (s : State) : State :=
  if !s.hearsMaster p domain then s
  else
    let v := s.port p
    let s := count 3 p 8 1 s
    if v.heard && v.syncSeq = seqId then takeSync p origin s else s.setPort p { s.port p with early := some (seqId, origin) }

def execFollowUp (port : Fin 12) (id : PtpId) (origin : Nat) (s : State) : Host.Outcome State Fault Refusal :=
  .next (followUp port id.domain id.seqId origin s)

/-- HOLDOVER: no valid synchronisation for 8 ms. -/
def execHoldover (s : State) : Host.Outcome State Fault Refusal :=
  .next (if s.follower && (s.tim.time == .locked || s.tim.time == .slewing) && s.tim.lastSync + 8000000 ≤ s.tim.now then
    { s with tim := { s.tim with time := .holdover, holdAt := s.tim.now } } else s)

/-- Commands that wait for the domain, and their end when the device leaves it: exchange commands, COMMIT, JOIN, WAIT. -/
def Wait.ofDomain : Wait → Bool
  | .exchange _ => true
  | .commit _ => true
  | .join _ => true
  | .assign => true
  | .poolAdd _ => true
  | .drain false _ d _ => d.member.isSome
  | _ => false

/-- Commands that wait for rim time (R256). -/
def InFlight.onTime (c : InFlight) : Bool :=
  match c.wait with
  | .untilTime _ => true
  | .exchange _ => c.packet.num 40 4 ≠ 0
  | _ => false

def finishThese (l : List InFlight) (status : Nat) (s : State) : State := l.foldl (fun s c => finishAs c.id status 0 s) s

/-- The device leaves its domain: the domain's tables go, and what waits for the domain ends (R253). -/
def detach (s : State) : State :=
  let s := { s with
    tim := { s.tim with domain := .detached, domainId := 0, groups := [], deputy := false, tookSeat := false, abort := none,
                        abortDiv := false, sourceOnce := none, decided := none, barred := true, copy := none, macs := [],
                        owed := s.tim.owed.filter fun e => e.1 ≥ 16 },
    sched := s.sched.filter fun e => e.1 ≥ 16, rim := {} }
  finishThese (s.flight.filter fun c => c.wait.ofDomain) NOT_IN_DOMAIN s

/-- TIME_LOST: after 10 s of holdover the device leaves cluster service (R256). -/
def timeLost (s : State) : State :=
  if !s.follower || s.tim.time ≠ .holdover || s.tim.now < s.tim.holdAt + 10000000000 then s
  else
    let s := raiseTim 1 { s with tim := { s.tim with time := .lost } }
    let s := if s.tim.domain == .detached then s else sendRim .timeLost s
    let s := { s with sched := s.sched.filter fun e => !([2, 4, 5].contains e.2.body.kind),
                      tim := { s.tim with owed := s.tim.owed.filter fun e => !([2, 4, 5].contains e.2.kind) } }
    let s := finishThese (s.flight.filter fun c => c.onTime) RIM_TIME_LOST s
    detach s

def execTimeLost (s : State) : Host.Outcome State Fault Refusal := .next (timeLost s)

/-! ### Pulses (R254) -/

/-- PPS_IN: the rim aligns to the nearest whole second. -/
def execPpsIn (s : State) : Host.Outcome State Fault Refusal :=
  .next (if s.powered && s.tim.role == .rim && s.ups.stage ≥ 5 then
    setTime ((s.tim.now + 500000000) / 1000000000 * 1000000000) { s with tim := { s.tim with ppsLock := true } } else s)

/-- PPS_OUT: a pulse from each whole second, but in the LOST state. -/
def execPpsOut (s : State) : Host.Outcome State Fault Refusal :=
  let second := s.tim.now / 1000000000 * 1000000000
  .next (if s.powered && s.tim.time ≠ .lost && s.tim.ppsOut ≠ some second then
    { s with tim := { s.tim with ppsOut := some second } } else s)

/-- PPS_OUT is high for 1 µs from the start of a pulse. -/
def State.ppsHigh (s : State) : Bool :=
  match s.tim.ppsOut with
  | some t => t ≤ s.tim.now && s.tim.now < t + 1000
  | none => false

/-! ### Messages (R348) -/

/-- DELAY_REQ: a master port answers with its receive timestamp. -/
def execDelayReq (port : Fin 12) (id : PtpId) (s : State) : Host.Outcome State Fault Refusal :=
  .next (if s.hears port id.domain && (s.port port).ptp == 1 then emit (.ptpDelayResp port id.domain id.seqId s.tim.now) (count 3 port 8 1 s) else s)

/-- The mean path delay from the four timestamps of a Sync and a Delay_Req. -/
def pathDelay (t1 t2 t3 t4 : Nat) : Int := (((t2 : Int) - t1) + ((t4 : Int) - t3)) / 2

/-- DELAY_RESP: the mean path delay to the master, with the timestamps of the last Sync whose Follow_Up has come. -/
def execDelayResp (port : Fin 12) (id : PtpId) (t4 : Nat) (s : State) : Host.Outcome State Fault Refusal :=
  let v := s.port port
  .next (if s.hearsMaster port id.domain && v.reqSeq = id.seqId then
    let s := count 3 port 8 1 s
    match v.pair with
    | some (t1, t2) => s.setPort port { v with delay := some (pathDelay t1 t2 v.reqAt t4) }
    | none => s
  else s)

/-- ANNOUNCE: the best master clock algorithm is not run, so an Announce changes no port. -/
def execAnnounce (port : Fin 12) (domain : Nat) (s : State) : Host.Outcome State Fault Refusal :=
  .next (if s.hears port domain then count 3 port 8 1 s else s)

/-- A new PTP_DOMAIN takes effect at the next Sync interval (R352). -/
def latchPtpDomain (s : State) : State :=
  match s.lnk.ptpNext with
  | some d => { s with lnk := { s.lnk with ptpDomain := Min.min 127 d, ptpNext := none } }
  | none => s

/-- SYNC_INTERVAL: a master port sends Sync and its Follow_Up. -/
def execSyncInterval (port : Fin 12) (s : State) : Host.Outcome State Fault Refusal :=
  .next (
    let v := s.port port
    if !s.powered || s.ups.stage < 5 || s.tim.now < v.lastSync + 3906250 then s
    else
      let s := latchPtpDomain s
      if v.ptp == 1 && v.state.inService then
        let seq := (v.txSeq + 1) % 65536
        let s := s.setPort port { v with lastSync := s.tim.now, txSeq := seq }
        emit (.ptpFollowUp port s.lnk.ptpDomain seq s.tim.now) (emit (.ptpSync port s.lnk.ptpDomain seq s.tim.now) s)
      else s.setPort port { v with lastSync := s.tim.now })

/-- DELAY_REQ_INTERVAL: a port that has heard its master sends a Delay_Req. -/
def execDelayReqInterval (port : Fin 12) (s : State) : Host.Outcome State Fault Refusal :=
  let v := s.port port
  .next (if s.hearsMaster port s.lnk.ptpDomain && v.lastReq + 3906250 ≤ s.tim.now then
    let seq := (v.reqSeq + 1) % 65536
    emit (.ptpDelayReq port s.lnk.ptpDomain seq) (s.setPort port { v with lastReq := s.tim.now, reqSeq := seq, reqAt := s.tim.now }) else s)

/-- ANNOUNCE_INTERVAL: a master port sends Announce. -/
def execAnnounceInterval (port : Fin 12) (s : State) : Host.Outcome State Fault Refusal :=
  let v := s.port port
  .next (if s.hears port s.lnk.ptpDomain && v.ptp == 1 && v.lastAnn + 250000000 ≤ s.tim.now then
    emit (.ptpAnnounce port s.lnk.ptpDomain) (s.setPort port { v with lastAnn := s.tim.now }) else s)

/-- Every port of a rim is MASTER (R348). -/
def masterPorts (s : State) : State := (List.range 12).foldl (fun s p => s.setPort p { s.port p with ptp := 1 }) s

/-! ### Scheduled instances (R259) -/

/-- SCRUB_INSTANCE: MEM_SCRUB_INTERVAL takes ARG0, as a write of it latches. -/
def execScrubInstance (entry : Fin 64) (s : State) : Host.Outcome State Fault Refusal :=
  .next (match s.firing entry 3 with
    | some b => if s.powered then fireNext entry { s with mem := { s.mem with scrubInterval := Max.max 500 (b.arg0.toNat % 2 ^ 24) } } else s
    | none => s)

/-- SIGNAL_INSTANCE: the token ARG0[15:0], as a firmware-path completion. -/
def execSignalInstance (entry : Fin 64) (s : State) : Host.Outcome State Fault Refusal :=
  .next (match s.firing entry 5 with
    | some b => if s.powered then fireNext entry (signalToken (b.arg0.toNat % 65536) s) else s
    | none => s)

end Sys2Proof.Machine
end

