-- ==== Sys2Proof/Machine/Rim.lean ====
section
/-! DEFINITION. The rim's table and decisions, and what a member does with a decision (R264, R267 to R269, R276, R277). -/

namespace Sys2Proof.Machine

/-! ### The table (R249) -/

/-- The rim of a domain, in service or halted; a deputy that was a standby has become it on its standby seat (R277). -/
def State.isRim (s : State) : Bool :=
  s.powered && s.tim.role == .rim && (s.tim.domain == .member || s.tim.domain == .standby || s.tim.domain == .halted)

def State.member (s : State) (seat : Nat) : Option Member := tfind s.rim.seats seat

def modMember (seat : Nat) (f : Member → Member) (s : State) : State :=
  match s.member seat with
  | some m => { s with rim := { s.rim with seats := tinsert s.rim.seats seat (f m) } }
  | none => s

def Member.live (m : Member) : Bool := m.joined && !m.lost

/-- The live seats but the rim's own. -/
def State.others (s : State) : List Nat := (s.rim.seats.filter fun e => e.2.live && e.1 ≠ s.tim.seat).map (·.1)

/-- Sends a CONTROL frame to every other live seat. -/
def sendSeats (what : Control) (s : State) : State := s.others.foldl (fun s x => sendControl x what s) s

/-- The deputy: the live seat, other than the rim's, with the lowest non-zero DEPUTY_RANK (R276). -/
def State.deputySeat (s : State) : Option Nat :=
  (s.rim.seats.foldl (fun (best : Option (Nat × Nat)) e =>
    if e.2.live && e.2.deputyRank ≠ 0 && e.1 ≠ s.tim.seat then
      match best with
      | none => some (e.1, e.2.deputyRank)
      | some b => if e.2.deputyRank < b.2 then some (e.1, e.2.deputyRank) else some b
    else best) none).map (·.1)

/-- The rim's protocol state as it goes to the deputy (R276). -/
def State.rimCopy (s : State) : RimCopy :=
  { seats := s.rim.seats.map fun e =>
      { seat := e.1, deviceId := e.2.deviceId, replicaSet := e.2.replicaSet, standby := e.2.standby, deputyRank := e.2.deputyRank,
        joined := e.2.joined, lost := e.2.lost, exchanged := e.2.exchanged, updated := e.2.updated, diverged := e.2.diverged,
        badReplay := e.2.badReplay, badRound := e.2.badRound, redone := e.2.redone, portsOut := e.2.portsOut, ckpts := e.2.ckpts,
        mac := tfind s.tim.macs e.1 },
    groups := s.rim.groups, losses := s.rim.losses, decision := s.rim.decision, rimSeat := s.tim.seat, unacked := s.rim.unacked,
    decided := s.rim.decidedAt, late := s.rim.late, backs := s.rim.backs, storm := s.rim.stretched, retired := s.rim.retired,
    forced := s.rim.forced, bookings := s.rim.bookings }

/-- The rim sends a change of its protocol state to the deputy (R276). -/
def syncDeputy (s : State) : State :=
  match s.deputySeat with
  | some d =>
    if s.isRim && s.rim.sent ≠ some s.rimCopy then
      sendControl d (.deputyCopy s.rimCopy) { s with rim := { s.rim with sent := some s.rimCopy } }
    else s
  | none => s

/-- The standby seats that can take a lost seat. -/
def State.standbys (s : State) : List Nat := (s.rim.seats.filter fun e => e.2.standby && e.2.live).map (·.1)

/-- The surviving members of a lost seat's replica set, in ascending order (R267). -/
def State.survivors (s : State) (seat : Nat) : List Nat :=
  match s.member seat with
  | none => []
  | some m => (s.rim.seats.filter fun e =>
      e.2.live && !e.2.standby && e.2.replicaSet == m.replicaSet && !s.rim.losses.contains e.1).map (·.1)

/-- The lost seats that no standby has taken. -/
def State.vacant (s : State) : List Nat :=
  s.rim.losses.filter fun f => match s.member f with
    | some m => m.lost
    | none => false

/-- The latest round for which every training seat has reported a checkpoint (R273). -/
def State.commonCheckpoint (s : State) : Option Nat :=
  let trained := (s.rim.seats.filter fun e => !e.2.standby).map (·.2)
  match trained with
  | [] => none
  | m :: t => (m.ckpts.filter fun r => t.all fun x => x.ckpts.contains r).foldl
      (fun (b : Option Nat) r => some (match b with
        | none => r
        | some v => Max.max v r)) none

/-! ### The choice (R267, Table 11.9) -/

def State.hasExchanged (s : State) (seat : Nat) : Bool := ((s.member seat).map (·.exchanged)).getD false

/-- The decision's code; `failed` says that the round cannot commit as it is. -/
def State.choose (s : State) (failed : Bool) : Nat :=
  let noPeer := s.rim.losses.any fun f => (s.survivors f).isEmpty
  let halt := (noPeer && s.commonCheckpoint.isNone) || s.standbys.length < s.vacant.length ||
    s.rim.backs ≥ s.tim.policy.rollback || s.rim.seats.any fun e => e.2.badReplay
  if halt then 4
  else if noPeer then 3
  else if !failed && !s.rim.losses.isEmpty && s.rim.losses.all (fun f => (s.survivors f).any s.hasExchanged) then 1
  else 2

/-- The source peer of a lost seat under a code: the lowest survivor, under FORWARD the lowest that has exchanged. -/
def State.sourcePeer (s : State) (code seat : Nat) : Option Nat :=
  match code with
  | 1 => (s.survivors seat).find? s.hasExchanged
  | 2 => (s.survivors seat).head?
  | _ => none

/-- Standbys for the vacant seats in ascending order: the one that ASSIGN names where it is live, else the lowest. -/
def State.pairUp (s : State) (code : Nat) : List Nat → List Nat → List (Nat × Option Nat × Option Nat)
  | [], _ => []
  | f :: t, pool =>
    let sb := match tfind s.rim.forced f with
      | some x => if pool.contains x then some x else pool.head?
      | none => pool.head?
    (f, sb, s.sourcePeer code f) :: s.pairUp code t (pool.filter fun x => some x ≠ sb)

/-- The decision over every loss of the round. Seats already taken by a standby keep their source peer. -/
def State.decisionOf (s : State) (failed : Bool) : RimDecision :=
  let code := s.choose failed
  let taken := (s.rim.losses.filter fun f => !s.vacant.contains f).map fun f => (f, none, s.sourcePeer code f)
  { code, round := match code with
      | 3 => BitVec.ofNat 32 (s.commonCheckpoint.getD 0)
      | _ => s.tns.round,
    diverged := code = 2 && s.rim.seats.any fun e => e.2.diverged
    pairs := if code = 4 then s.rim.losses.map fun f => (f, none, none) else s.pairUp code s.vacant s.standbys ++ taken }

/-! ### A decision on a member (R268, R269, Table 11.10) -/

/-- The first instance of an entry that a write leaves to fire (R259): the first later than now, but for a single one. -/
def firstInstance (b : EntryBody) (now : Nat) : Nat :=
  if now < b.start || b.period = 0 then 0 else (now - b.start) / b.period + 1

/-- An instance of an entry that is due when the entry is replaced still fires (R259): it is kept as contents of one instance. -/
def oweInstance (i : Nat) (s : State) : State :=
  match s.nextDue i with
  | some (t, b) => { s with tim := { s.tim with owed := tinsert s.tim.owed i { b with start := t, period := 0, count := 1 } } }
  | none => s

/-- One entry written, an empty one leaving the table (R259). An instance of a window that has opened goes on to its end. -/
def writeEntry (i : Nat) (b : EntryBody) (s : State) : State :=
  let s := oweInstance i s
  if b.kind = 0 then { s with sched := terase s.sched i }
  else
    { s with sched := tinsert s.sched i { body := b, next := firstInstance b s.tim.now,
                                          opened := (tfind s.sched i).bind fun x => x.opened } }

/-- An entry written by the rim, which sends its windows whole: contents that the entry already has are no write. -/
def renewEntry (i : Nat) (b : EntryBody) (s : State) : State :=
  if (tfind s.sched i).any fun x => x.body == b then s else writeEntry i b s

/-- Window entries 0 to 15 as the rim writes them; one that it does not name is empty. -/
def setWindows (l : List (Fin 16 × EntryBody)) (s : State) : State :=
  let gone := s.sched.filter fun e => e.1 < 16 && !(l.any fun x => x.1.val == e.1)
  let s := gone.foldl (fun s e => writeEntry e.1 { e.2.body with kind := 0 } s) s
  rebook (l.foldl (fun s e => renewEntry e.1.val e.2 s) s)

/-- A standby takes a lost seat: its replica set, its groups, its windows; its WAIT completes (R269). -/
def takeSeat (d : Decision) (detail : Nat) (s : State) : State :=
  match d.takeSeat, s.tim.domain with
  | some (seat, set, groups, windows), .standby =>
    let rimSeat := if s.tim.role == .rim then seat else s.tim.rimSeat
    let s := { s with tim := { s.tim with domain := .member, seat, replicaSet := set, groups := groups.take 16, rimSeat,
                                          tookSeat := d.code == 1 || d.code == 2 } }
    let waits := s.flight.filter fun c => c.wait == .assign
    finishAll waits OK detail (setWindows windows s)
  | _, _ => s

/-- What a decision stops (R268): the member holds it for its COMMITs, and those in flight complete. `diverged` says that it is a BACK
that follows a reported divergence: a member whose reduction found it then sees the cause. -/
def stopRound (diverged : Bool) (detail : Nat) (s : State) : State :=
  let bad := diverged && s.tns.heldDiverged
  let s := { s with tim := { s.tim with abort := some (BitVec.ofNat 64 detail), abortDiv := bad, sourceOnce := none } }
  finishAll s.commits (if bad then TENSION_DIVERGED else COMMIT_ABORTED) detail s

/-- A decision by its code (Table 11.10). -/
def followDecision (d : Decision) (detail : Nat) (s : State) : State :=
  match d.code with
  | 1 =>
    if d.isSource then
      match s.updates with
      | c :: _ => finishAs c.id PEER_LOST detail s
      | [] => { s with tim := { s.tim with sourceOnce := some (BitVec.ofNat 64 detail) } }
    else s
  | 2 => if d.takeSeat.isSome then s else stopRound d.diverged detail s
  | 3 => if d.takeSeat.isSome then s else stopRound false detail s
  | 4 => stopRound false detail { s with tim := { s.tim with domain := .halted } }
  | _ => s

/-- A decision is shown in TIM_TAKEOVER, traced, and held (R268, R277). -/
def showDecision (d : Decision) (detail : Nat) (s : State) : State :=
  let s := writeTakeover (takeoverWord d.code d.lost d.peer d.isSource d.takeSeat.isSome) s
  let s := trace tCLUSTER 1 0x14 0xFFFF [s.tim.seat, d.code, d.round.toNat] s
  { s with tim := { s.tim with decided := some (BitVec.ofNat 64 detail) } }

/-- A decision arrives. One that the member already holds is ignored (R277); a device whose seat the rim has declared lost leaves the
domain (R253). A standby that has taken a lost seat is not that device: a decision that names the seat again is one like any other to it. -/
def applyDecision (d : Decision) (s : State) : State :=
  let detail := decisionDetail d.code d.lost d.peer d.round.toNat
  let held := s.tim.decided == some (BitVec.ofNat 64 detail)
  let bound := s.tim.domain == .member || s.tim.domain == .standby || s.tim.domain == .halted
  if !bound then s
  else if d.refused then detach (showDecision d detail s)
  else if held || s.tim.domain = .halted then s
  else followDecision d detail (takeSeat d detail (showDecision d detail s))

/-- DECISION. -/
def execDecision (d : Decision) (s : State) : Host.Outcome State Fault Refusal :=
  .next (if s.powered then applyDecision d s else s)

/-! ### The rim acts -/

/-- The window entries as the device has them. -/
def State.windows (s : State) : List (Fin 16 × EntryBody) :=
  s.sched.filterMap fun e => if h : e.1 < 16 then some (⟨e.1, h⟩, e.2.body) else none

/-- A decision as it concerns the rim's own seat: the lost seat that it takes, the one whose source peer it is, else the first. A rim on a
standby seat takes a lost seat as any other standby does (R267, R269, R277). -/
def State.decisionAbout (s : State) (d : RimDecision) : Decision :=
  let taken := d.pairs.find? fun e => e.2.1 == some s.tim.seat
  let mine := d.pairs.find? fun e => e.2.2 == some s.tim.seat
  let base : Decision :=
    { code := d.code, round := d.round, lost := none, peer := none, isSource := mine.isSome, diverged := d.diverged, takeSeat := none }
  match (taken.or mine).or d.pairs.head? with
  | some (f, _, peer) =>
    { base with lost := some f, peer, takeSeat := taken.bind fun e => (s.member e.1).map fun m =>
        (e.1, m.replicaSet, s.rim.groups.filter fun g => g.ranks.contains e.1, s.windows) }
  | none => base

/-- Standbys move into the seats they take; their former seats become empty (R269). -/
def seatStandbys : List (Nat × Option Nat × Option Nat) → State → State
  | [], s => s
  | (f, some sb, _) :: t, s =>
    match s.member f, s.member sb with
    | some mf, some ms =>
      let m : Member := { deviceId := ms.deviceId, replicaSet := mf.replicaSet, standby := false, deputyRank := mf.deputyRank,
                          joined := true, portsOut := ms.portsOut, ckpts := mf.ckpts }
      let macs := match tfind s.tim.macs sb with
        | some x => terase (tinsert s.tim.macs f x) sb
        | none => terase s.tim.macs f
      seatStandbys t { s with tim := { s.tim with macs },
                              rim := { s.rim with seats := terase (tinsert s.rim.seats f m) sb, forced := terase s.rim.forced f } }
    | _, _ => seatStandbys t s
  | _ :: t, s => seatStandbys t s

/-- Every member's mark. -/
def modMembers (f : Member → Member) (s : State) : State :=
  { s with rim := { s.rim with seats := s.rim.seats.map fun e => (e.1, f e.2) } }

/-- A decision goes to every other live seat, and to the devices of the seats that it declares lost, some of which may still run (R253,
R268). -/
def sendDecision (d : RimDecision) (s : State) : State :=
  let gone := (d.pairs.map (·.1)).filter fun f => !s.others.contains f && f ≠ s.tim.seat
  gone.foldl (fun s f => sendControl f (.decision d) s) (sendSeats (.decision d) s)

/-- The rim acts on HALT, RESTORE, FORWARD or BACK, and applies it to itself (R267, R268). -/
def actOn (d : RimDecision) (s : State) : State :=
  let own := s.decisionAbout d
  let s := seatStandbys d.pairs (sendDecision d s)
  let s := { s with rim := { s.rim with decision := some d, decidedAt := s.tim.now, unacked := none,
                                        backs := if d.code = 2 then s.rim.backs + 1 else 0 } }
  let s := if d.code = 2 || d.code = 3 then modMembers (fun m => { m with redone := false }) s else s
  applyDecision own s

/-- A decision goes to the deputy first; the rim acts on it once the deputy has acknowledged it (R276). -/
def propose (d : RimDecision) (s : State) : State :=
  match s.deputySeat with
  | some x => sendControl x (.toDeputy d) { s with rim := { s.rim with unacked := some d } }
  | none => actOn d s

/-- The rim decides for the domain, with every loss of the round counted (R267). -/
def decideDomain (failed : Bool) (s : State) : State := propose (s.decisionOf failed) s

/-- A failed commit of the round: BACK, unless the round is already to be redone, restored or halted; a failed replay-compare halts the
domain even so (Table 11.9). -/
def failRound (s : State) : State :=
  match s.rim.decision with
  | some d => if d.code = 1 || (d.code ≠ 4 && s.rim.seats.any fun e => e.2.badReplay) then decideDomain true s else s
  | none => decideDomain true s

/-- The rim acts on COMMIT: the message, its own effect, and a new round; a loss handled after the decision belongs to it
(R264, R265). -/
def actCommit (d : RimDecision) (s : State) : State :=
  let seats := s.rim.seats.countP fun e => e.2.live && !e.2.standby && e.2.updated
  let s := commitMessage d.round seats (sendSeats (.commit d.round seats) s)
  let s := modMembers (fun m => { m with exchanged := false, updated := false, diverged := false, badReplay := false,
                                         badRound := false, redone := false }) s
  let late := s.rim.late
  let s := { s with rim := { s.rim with losses := late, late := [], decision := none, unacked := none, backs := 0, stretched := none } }
  if late.isEmpty then s else decideDomain false s

/-- The commit decision of R264: every seat that is neither lost nor standby has reported UPDATED, and no report stands against
it. -/
def State.canCommit (s : State) : Bool :=
  let ms := (s.rim.seats.filter fun e => !e.2.lost && !e.2.standby).map (·.2)
  let redo := match s.rim.decision with
    | some d => d.code ≠ 1
    | none => false
  !redo && s.rim.unacked.isNone && !ms.isEmpty && ms.all fun m => m.updated && !m.diverged && !m.badReplay && !m.badRound

def tryCommit (s : State) : State :=
  if !s.canCommit then s
  else
    let d : RimDecision := { code := 0, round := s.tns.round, pairs := [] }
    match s.deputySeat with
    | some x => sendControl x (.toDeputy d) { s with rim := { s.rim with unacked := some d } }
    | none => actCommit d s

/-- What waits for the deputy goes on. -/
def release (s : State) : State :=
  match s.rim.unacked with
  | none => s
  | some d => if d.code = 0 then actCommit d { s with rim := { s.rim with unacked := none } }
              else actOn d { s with rim := { s.rim with unacked := none } }

/-- DEPUTY_ACKNOWLEDGE. -/
def execDeputyAcknowledge (s : State) : Host.Outcome State Fault Refusal :=
  .next (unlessOver (fun s => if s.isRim then syncDeputy (release s) else s) s)

/-! ### Losses (R257, R261, R267) -/

/-- The rim declares a seat lost. A lost standby seat is only removed from the pool; a loss after the commit decision belongs
to the next round. The device is refused in the seat from then on (R253). -/
def declareLost (seat : Nat) (s : State) : State :=
  match s.member seat with
  | none => s
  | some m =>
    if m.lost then s
    else
      let s := trace tCLUSTER 2 0x14 0xFFFF [seat, 0, s.tns.round.toNat] s
      if m.standby then { s with rim := { s.rim with seats := terase s.rim.seats seat, retired := s.rim.retired ++ [m.deviceId] } }
      else
        let m' := { m with lost := true, deviceId := 0 }
        let s := { s with rim := { s.rim with seats := tinsert s.rim.seats seat m', retired := s.rim.retired ++ [m.deviceId] } }
        let committing := match s.rim.unacked with
          | some d => d.code == 0
          | none => false
        let halted := match s.rim.decision with
          | some d => d.code == 4
          | none => false
        let s :=
          if committing then { s with rim := { s.rim with late := sinsert s.rim.late seat } }
          else
            let s := { s with rim := { s.rim with losses := sinsert s.rim.losses seat } }
            if halted then s else decideDomain false s
        match s.deputySeat with
        | some _ => s
        | none => release s

/-! ### Reports (R261, R264, R266, R274, R275) -/

/-- Whether a seat has to answer for the round's redo. -/
def State.allRedone (s : State) : Bool := s.rim.seats.all fun e => e.2.lost || e.2.standby || !e.2.joined || e.2.redone

/-- A seat's reports of the round are withdrawn (R266). -/
def withdrawReports (seat : Nat) (s : State) : State :=
  modMember seat (fun m => { m with exchanged := false, updated := false, diverged := false, badReplay := false, badRound := false }) s

/-- A seat has rolled back; once all have, the round starts anew. -/
def noteRedo (seat : Nat) (s : State) : State :=
  let s := modMember seat (fun m => { m with redone := true }) (withdrawReports seat s)
  if s.allRedone then
    { s with rim := { s.rim with decision := none, losses := [] } }
  else s

/-- The rim receives a report; a device whose seat is lost is refused (R253). -/
def rimReport (r : Report) (s : State) : State :=
  match s.member r.seat with
  | none => s
  | some m =>
    if m.lost then sendControl r.seat (.refused r.seat) s
    else
      let wrong := r.round ≠ s.tns.round
      let redo := match s.rim.decision with
        | some d => d.code == 2 || d.code == 3
        | none => false
      match r.kind with
      | .exchanged =>
        if wrong then failRound (modMember r.seat (fun m => { m with badRound := true }) s)
        else modMember r.seat (fun m => { m with exchanged := true }) s
      | .updated =>
        let s := modMember r.seat (fun m => { m with exchanged := m.exchanged || !wrong, updated := true, diverged := r.diverged,
                                                     badReplay := r.replayFailed, badRound := wrong }) s
        if wrong || r.diverged || r.replayFailed then failRound s else tryCommit s
      | .rollback => if redo then noteRedo r.seat s else failRound (withdrawReports r.seat s)
      | .load => if redo then noteRedo r.seat s else s
      | .missed => if s.rim.stretched.any fun t => t < r.inst then s else r.absent.foldl (fun s x => declareLost x s) s

/-- REPORT. -/
def execReport (r : Report) (s : State) : Host.Outcome State Fault Refusal :=
  .next (unlessOver (fun s => if s.isRim then syncDeputy (rimReport r s) else s) s)

/-- TAKEOVER_LIMIT: a FORWARD not committed in time becomes BACK (R267). -/
def execTakeoverLimit (s : State) : Host.Outcome State Fault Refusal :=
  .next (match s.rim.decision with
    | some d => if s.isRim && d.code = 1 && s.rim.decidedAt + s.tim.policy.takeover * 1000000 < s.tim.now then
        syncDeputy (decideDomain true s) else s
    | none => s)

/-- CKPT_DONE_REPORT: the rim keeps the last four complete checkpoints of each seat (R273). -/
def execCkptDoneReport (seat : Nat) (round : BitVec 32) (s : State) : Host.Outcome State Fault Refusal :=
  .next (if s.isRim then syncDeputy (modMember seat (fun m =>
    let l := m.ckpts.filter (fun r => r ≠ round.toNat) ++ [round.toNat]
    { m with ckpts := l.drop (l.length - 4) }) s) else s)

/-! ### The deputy becomes the rim (R277) -/

def copyTable (c : RimCopy) : Tab Member :=
  c.seats.foldl (fun t e => tinsert t e.seat
    { deviceId := e.deviceId, replicaSet := e.replicaSet, standby := e.standby, deputyRank := e.deputyRank, joined := e.joined,
      lost := e.lost, exchanged := e.exchanged, updated := e.updated, diverged := e.diverged, badReplay := e.badReplay,
      badRound := e.badRound, redone := e.redone, portsOut := e.portsOut, ckpts := e.ckpts }) []

/-- The MACs of the seats as the deputy has them. -/
def copyMacs (c : RimCopy) : Tab (BitVec 48) :=
  c.seats.foldl (fun t e => match e.mac with
    | some m => tinsert t e.seat m
    | none => t) []

/-- The rim's table as the deputy has it. -/
def rimOf (c : RimCopy) : Rim :=
  { seats := copyTable c, groups := c.groups, losses := c.losses, decision := c.decision, decidedAt := c.decided, backs := c.backs,
    stretched := c.storm, retired := c.retired, forced := c.forced, late := c.late, bookings := c.bookings }

/-- A decision that the deputy holds is sent to the ribs (R277): one that the old rim had not acted on it acts on itself, one in force it
sends again. -/
def sendHeld (c : RimCopy) (s : State) : State :=
  match c.unacked, c.decision with
  | some d, _ => if d.code = 0 then actCommit d s else actOn d s
  | none, some d => applyDecision (s.decisionAbout d) (sendDecision d s)
  | none, none => s

/-- A deputy, on a training or a standby seat, in a halted domain too, that has missed three heartbeats of the rim takes its place, from
what it holds of the rim's state (R277). -/
def becomeRim (s : State) : State :=
  let bound := s.tim.domain == .member || s.tim.domain == .standby || s.tim.domain == .halted
  if !s.powered || !bound || !s.tim.deputy || s.tim.now < s.tim.lastHb + 3 * s.tim.policy.hbPeriod * 1000 then s
  else
    let c := s.tim.copy.getD { seats := [], groups := [], losses := [], decision := none, rimSeat := s.tim.rimSeat }
    let s := { s with tim := { s.tim with role := .rim, deputy := false, rimSeat := s.tim.seat, copy := none, macs := copyMacs c },
                      rim := rimOf c }
    let s := sendHeld c (masterPorts (raiseTim 3 s))
    declareLost c.rimSeat (sendSeats .askReports s)

/-- RIM_HEARTBEAT_MISSED: `missed` heartbeats of the rim in a row have not come (R277). -/
def execRimHeartbeatMissed (missed : Nat) (s : State) : Host.Outcome State Fault Refusal :=
  .next (if missed < 3 then s else unlessOver (fun s => syncDeputy (becomeRim s)) s)

end Sys2Proof.Machine
end

