-- ==== Sys2Proof/Machine/Cluster.lean ====
section
/-! DEFINITION. Forming, joining and leaving a domain, spares, and heartbeats (R250 to R253, R256, R257, R261, R262, R270). -/

namespace Sys2Proof.Machine

/-! ### FORM (R250, R251) -/

/-- A member entry of the descriptor (Table 11.3). -/
def parseMember (b : List Byte) : Nat × Member :=
  (field b 8 2, { deviceId := BitVec.ofNat 64 (field b 0 8), replicaSet := field b 10 2, standby := bit (field b 12 1) 0,
                  deputyRank := bits (field b 12 1) 3 1 })

/-- The group entries of a descriptor (Table 11.4). -/
def parseGroups (b : List Byte) : Nat → Nat → List XGroup
  | 0, _ => []
  | n + 1, off =>
    let p := field b (off + 2) 2
    { xgroup := field b off 2, ranks := (List.range p).map fun i => field b (off + 8 + 2 * i) 2 } ::
      parseGroups b n (off + cdiv (8 + 2 * p) 8 * 8)

/-- The end of the group entries, where they lie within `limit`. -/
def groupsEnd (h : BitVec 32) (base : Nat) (die : Option Nat) : Nat → Nat → Cmd Nat
  | 0, off => pure off
  | n + 1, off => do
    checkExtent h (base + off) 8
    let b ← readBytes h (base + off) 8 die
    groupsEnd h base die n (off + cdiv (8 + 2 * field b 2 2) 8 * 8)

/-- R251, with the ranges of Tables 11.2 to 11.4. -/
def formOk (s : State) (ms : List (Nat × Member)) (gs : List XGroup) : Bool :=
  let seats := ms.map (·.1)
  let ids := ms.map fun e => e.2.deviceId
  let ranks := (ms.map fun e => e.2.deputyRank).filter (· ≠ 0)
  let trains := fun (x : Nat) => ms.any fun e => e.1 == x && !e.2.standby
  decide seats.Nodup && decide ids.Nodup && decide (gs.map (·.xgroup)).Nodup && decide ranks.Nodup &&
    seats.all (fun x => x < 4096) && gs.all (fun g => g.xgroup ≠ 0 && !g.ranks.isEmpty && g.ranks.length ≤ 4096 &&
      decide g.ranks.Nodup && g.ranks.all trains) &&
    seats.all (fun x => gs.countP (fun g => g.ranks.contains x) ≤ 16) &&
    (match ms with
     | (seat, m) :: _ => seat == 0 && m.deviceId == s.id.deviceId
     | [] => false)

/-- The seats of a new domain: the forming device holds seat 0. -/
def formSeats (ms : List (Nat × Member)) : Tab Member :=
  ms.foldl (fun t e => tinsert t e.1 { e.2 with joined := e.1 == 0 }) []

/-- FORM's effect: rim time, the round kept, seat 0, the policy registers' values. -/
def formDomain (id : BitVec 32) (ms : List (Nat × Member)) (gs : List XGroup) (s : State) : State :=
  let set := ((ms.find? fun e => e.1 == 0).map fun e => e.2.replicaSet).getD 0
  let s := setTime s.tim.epoch.toNat (masterPorts s)
  latchPolicy { s with
    tim := { s.tim with domain := .member, domainId := id, seat := 0, replicaSet := set, deputy := false,
                        groups := (gs.filter fun g => g.ranks.contains 0).take 16, abort := none, abortDiv := false,
                        sourceOnce := none, decided := none, exchanged := false, updated := false, barred := false,
                        rimSeat := 0, copy := none, macs := [] },
    rim := { seats := formSeats ms, groups := gs } }

def planForm (q : Nat) (p : Packet) : Cmd Plan := do
  let h := p.handle 24
  let off := p.num 28 6
  requireLive h
  let s ← get
  require (s.tim.role ≠ .standalone) NOT_IN_DOMAIN
  require (s.tim.role == .rim) NOT_RIM
  require (p.num 20 4 ≠ 0) VALUE_INVALID 20
  require (off % 512 == 0) ALIGNMENT 28
  let die ← seqDie q
  checkExtent h off 64
  let head ← readBytes h off 64 die
  let seats := field head 4 2
  let groups := field head 6 2
  let goff := field head 8 4
  require (field head 0 4 == p.num 20 4) VALUE_INVALID 20
  require (1 ≤ seats && seats ≤ 4096 && groups ≤ 4096 && goff % 8 == 0) VALUE_INVALID 24
  checkExtent h off (64 + 16 * seats)
  let stop ← groupsEnd h off die groups goff
  checkExtent h off stop
  let b ← readBytes h off (Max.max (64 + 16 * seats) stop) die
  let ms := (List.range seats).map fun i => parseMember (slice b (64 + 16 * i) 16)
  let gs := parseGroups b groups goff
  require (formOk (← get) ms gs) VALUE_INVALID 24
  pure { names := [h], atIssue := true,
         run := do
           upd fun s => syncDeputy (formDomain (BitVec.ofNat 32 (p.num 20 4)) ms gs s)
           pure { detail := seats } }

/-! ### JOIN and LEAVE (R252, R253) -/

/-- What the device tells the rim of its ports in a JOIN request (R348). That a port in service on which no master has been measured
leads to devices that the device serves is the model's. DESIGN CHOICE, log 57. -/
def State.portReports (s : State) : List PortReport :=
  (List.range 12).map fun p =>
    let v := s.port p
    { inService := v.state.inService, delay := v.delay, serves := v.state.inService && v.delay.isNone }

/-- The port with the lowest delay among those in service with a measured one. -/
def nearestPort (l : List (Nat × PortReport)) : Option Nat :=
  ((l.filterMap fun e => (e.2.delay.filter fun _ => e.2.inService).map fun d => (e.1, d)).foldl
    (fun (best : Option (Nat × Int)) e => match best with
      | some b => if e.2 < b.2 then some e else some b
      | none => some e) none).map (·.1)

/-- The states that the rim gives a joining device's ports: SLAVE on the in-service port with the lowest mean path delay to a master,
MASTER on those that lead to devices it serves, PASSIVE otherwise (R348). -/
def joinPorts (l : List PortReport) : List PtpState :=
  let ports := l.mapIdx fun i r => (i, r)
  ports.map fun e => if nearestPort ports = some e.1 then 2 else if e.2.serves then 1 else 3

def planJoin (p : Packet) : Cmd Plan := do
  let s ← get
  require (s.tim.role ≠ .standalone) NOT_IN_DOMAIN
  require (p.num 20 4 ≠ 0) VALUE_INVALID 20
  require (s.tim.domain == .detached) VALUE_INVALID 16
  pure { run := do
           upd fun s => sendRim (.joinRequest (BitVec.ofNat 32 (p.num 20 4)) s.portReports s.id.mac)
             { s with tim := { s.tim with domain := .joining, domainId := BitVec.ofNat 32 (p.num 20 4) } }
           pure { wait := .join ((← get).tim.now + 10000000000) } }

def planLeave : Cmd Plan := do
  let s ← get
  require (s.tim.role ≠ .standalone && s.tim.domain ≠ .detached && s.tim.domain ≠ .joining) NOT_IN_DOMAIN
  pure { atIssue := true,
         run := do
           upd fun s => detach (sendRim .leave s)
           pure {} }

def planJoinDomain (q : Nat) (p : Packet) : Cmd Plan := do
  reservedZero p [(16, 16, 0xFC), (17, 19, 0xFF), (34, 63, 0xFF)]
  match p.num 16 1 % 4 with
  | 0 => planForm q p
  | 1 => planJoin p
  | 2 => planLeave
  | _ => do
    require ((← get).tim.role ≠ .standalone) NOT_IN_DOMAIN
    refuse VALUE_INVALID 16

/-- JOIN_DOMAIN. -/
def execJoinDomain (q : Fin 64) (p : Packet) (s : State) : Host.Outcome State Fault Refusal :=
  .next (issueS q 0x50 p (planJoinDomain q p) s)

/-- The rim accepts a device whose domain, entry, seat and time are right (R252), sets its ports (R348), and gives it the seat list with its
MACs (R346). -/
def acceptJoin (dev : BitVec 64) (dom : BitVec 32) (locked : Bool) (ports : List PortReport) (mac : BitVec 48) (s : State) : State :=
  let entry := s.rim.seats.find? fun e => e.2.deviceId == dev && !e.2.joined && !e.2.lost
  match entry with
  | some (seat, _) =>
    if !s.isRim || s.tim.domain == .halted || dom ≠ s.tim.domainId || !locked || s.rim.retired.contains dev then s
    else
      let s := { s with tim := { s.tim with macs := tinsert s.tim.macs seat mac } }
      let macs := tinsert s.tim.macs s.tim.seat s.id.mac
      let s := sendControlAs 0xFFFF seat (.joinAccepted seat (joinPorts ports) macs) (modMember seat (fun m => { m with joined := true }) s)
      finishAll (s.flight.filter fun c => c.wait == .poolAdd dev) OK 0 s
  | none => s

/-- The joining device is accepted: it takes its seat, its group table, its windows and its ports' PTP states (R252, R348). -/
def joined (seat : Nat) (round : BitVec 32) (standby : Bool) (set : Nat) (groups : List XGroup)
    (windows : List (Fin 16 × EntryBody)) (ptp : List PtpState) (macs : List (Nat × BitVec 48)) (s : State) : State :=
  let waits := s.flight.filter fun c => match c.wait with
    | .join _ => true
    | _ => false
  if !s.powered || s.tim.domain ≠ .joining || waits.isEmpty then s
  else
    let s := { s with tim := { s.tim with domain := if standby then .standby else .member, seat, replicaSet := set,
                                          groups := groups.take 16, lastHb := s.tim.now, policyNext := none, barred := false,
                                          macs := macs.foldl (fun t e => tinsert t e.1 e.2) [] } }
    let s := (List.range 12).foldl (fun s p => s.setPort p { s.port p with ptp := ptp.getD p 0 }) s
    finishAll waits OK (seat % 4096 + round.toNat * 2 ^ 32) (setWindows windows s)

/-- JOIN_ACCEPT. -/
def execJoinAccept (a : JoinAccept) (s : State) : Host.Outcome State Fault Refusal :=
  .next (match a with
    | .asRim dev dom locked ports mac => syncDeputy (acceptJoin dev dom locked ports mac s)
    | .asMember seat round standby set groups windows ptp macs => joined seat round standby set groups windows ptp macs s)

/-- JOIN_TIMEOUT. -/
def execJoinTimeout (s : State) : Host.Outcome State Fault Refusal :=
  .next (
    let late := s.flight.filter fun c => match c.wait with
      | .join t => decide (t < s.tim.now)
      | _ => false
    if !s.powered || late.isEmpty then s
    else finishAll late NOT_IN_DOMAIN 0 { s with tim := { s.tim with domain := .detached, domainId := 0 } })

/-- The rim declares a seat lost. -/
def seatLost (seat : Nat) (s : State) : State := if s.isRim then syncDeputy (declareLost seat s) else s

/-- LEAVE_NOTICE. -/
def execLeaveNotice (seat : Nat) (s : State) : Host.Outcome State Fault Refusal := .next (unlessOver (seatLost seat) s)

/-- LOST_NOTICE. -/
def execLostNotice (seat : Nat) (s : State) : Host.Outcome State Fault Refusal := .next (unlessOver (seatLost seat) s)

/-! ### ASSIGN_SPARE (R270) -/

/-- The lowest seat from `n` on without an entry. -/
def emptySeatFrom : Nat → Tab Member → Option Nat
  | n, [] => if n < 4096 then some n else none
  | n, e :: t => if n < e.1 then some n else emptySeatFrom (e.1 + 1) t

def State.emptySeat (s : State) : Option Nat := emptySeatFrom 0 s.rim.seats

/-- ASSIGN, POOL_ADD and POOL_REMOVE are the rim's: a rib is refused, and so is a device that is in no domain (R253, R270). -/
def requireRim : Cmd Unit := do
  let s ← get
  require (s.tim.role != .rib) NOT_RIM
  require s.isRim NOT_IN_DOMAIN

def planAssign (p : Packet) : Cmd Plan := do
  reservedZero p [(16, 16, 0xFC), (17, 17, 0xFF), (22, 23, 0xFF), (32, 63, 0xFF)]
  let s ← get
  require (s.tim.role ≠ .standalone) NOT_IN_DOMAIN
  require (!s.tim.barred) NOT_IN_DOMAIN
  match p.num 16 1 % 4 with
  | 0 => do
    require (s.tim.domain == .standby && s.flight.all fun c => c.wait != .assign) VALUE_INVALID 16
    pure { run := pure { wait := .assign } }
  | 1 => do
    requireRim
    let seat := p.num 18 2
    let sb := p.num 20 2
    require ((s.member seat).any fun m => !m.standby && !m.lost) VALUE_INVALID 18
    require (sb == 0xFFFF || s.standbys.contains sb) VALUE_INVALID 20
    pure { atIssue := true,
           run := do
             let forced := if sb = 0xFFFF then s.rim.forced else tinsert s.rim.forced seat sb
             upd fun s => syncDeputy <| declareLost seat { s with rim := { s.rim with forced := forced } }
             pure {} }
  | 2 => do
    requireRim
    let dev := BitVec.ofNat 64 (p.num 24 8)
    require (s.rim.seats.all fun e => e.2.deviceId ≠ dev) VALUE_INVALID 24
    match s.emptySeat with
    | none => refuse VALUE_INVALID 24
    | some seat =>
      pure { run := do
               let m : Member := { deviceId := dev, replicaSet := 0, standby := true, deputyRank := 0 }
               upd fun s => syncDeputy { s with rim := { s.rim with seats := tinsert s.rim.seats seat m, retired := s.rim.retired.filter (· ≠ dev) } }
               pure { wait := .poolAdd dev } }
  | _ => do
    requireRim
    let seat := p.num 18 2
    require ((s.member seat).any fun m => m.standby) VALUE_INVALID 18
    pure { atIssue := true,
           run := do
             upd fun s => syncDeputy { s with rim := { s.rim with seats := terase s.rim.seats seat } }
             pure {} }

/-- ASSIGN_SPARE. -/
def execAssignSpare (q : Fin 64) (p : Packet) (s : State) : Host.Outcome State Fault Refusal :=
  .next (issueS q 0x51 p (planAssign p) s)

/-! ### Heartbeats (R257, R260 to R262) -/

/-- TIM_STATE.DOMAIN. -/
def DomainState.code : DomainState → Nat
  | .detached => 0
  | .joining => 1
  | .member => 2
  | .standby => 3
  | .halted => 4

/-- The link ports that do not run eight lanes (R345). -/
def State.portsOut (s : State) : Nat := (List.range 12).countP fun p => (s.port p).state ≠ .eight

/-- The most link ports that a live member of an exchange group has out of service. -/
def State.groupPortsOut (s : State) (x : Nat) : Nat :=
  ((s.rim.groups.find? fun g => g.xgroup == x).map fun g =>
    g.ranks.foldl (fun n seat => Max.max n ((((s.member seat).filter Member.live).map (·.portsOut)).getD 0)) 0).getD 0

/-- A window's duration with this many ports out of service (R262). With no port left the spec gives none; the model keeps the one that
was booked. DESIGN CHOICE, log 67. -/
def lengthened (duration lost : Nat) : Nat := if lost < 12 then cdiv (duration * 12) (12 - lost) else duration

/-- Whether seats have yet to roll back before the round starts anew (R266). -/
def State.redoing (s : State) : Bool := s.rim.decision.any fun d => d.code == 2 || d.code == 3

/-- The windows that the rim books anew, each as long as its group's ports make it; those of a round to be redone wait until every seat
has rolled back (R262, R266). -/
def bookWindows (l : List Booking) (s : State) : State :=
  if s.redoing then s
  else
    rebook (l.foldl (fun s b =>
      let arg1 := BitVec.ofNat 32 (lengthened b.body.arg1.toNat (s.groupPortsOut b.xgroup))
      let s := renewEntry b.entry.val (if b.body.kind = 0 then b.body else { b.body with kind := 2, arg1 }) s
      { s with rim := { s.rim with bookings := tset (0, 0) s.rim.bookings b.entry.val (b.xgroup, b.body.arg1.toNat) } }) s)

/-- HEARTBEAT_PERIOD: the rim sends a heartbeat to every member. -/
def heartbeatPeriod (w : List Booking) (s : State) : State :=
  if !s.isRim || s.tim.now < s.rim.lastHbSent + s.tim.policy.hbPeriod * 1000 then s
  else
    let s := bookWindows w s
    let live := s.others
    let s := live.foldl (fun s seat =>
      sendControl seat (.heartbeat seat) (modMember seat (fun m => { m with misses := if m.awaiting then m.misses + 1 else m.misses, awaiting := true }) s)) s
    syncDeputy (count 4 0 10 live.length { s with rim := { s.rim with lastHbSent := s.tim.now } })

def execHeartbeatPeriod (w : List Booking) (s : State) : Host.Outcome State Fault Refusal := .next (heartbeatPeriod w s)

/-- HEARTBEAT: a member takes the rim's policy and windows, and answers. -/
def heartbeat (h : Heartbeat) (s : State) : State :=
  let bound := s.tim.domain == .member || s.tim.domain == .standby || s.tim.domain == .halted
  if !s.powered || !bound || s.isRim then s
  else
    let deputy := h.deputy == some s.tim.seat
    let tim := { s.tim with policy := h.policy, policyNext := none, lastHb := s.tim.now, deputy, rimSeat := h.rim,
                            rimChanged := s.tim.rimChanged || h.rimChange, copy := if deputy then h.copy.or s.tim.copy else none }
    let s := setWindows h.windows { s with tim }
    let s := if h.rimChange then raiseTim 3 s else s
    let a : Answer := { seat := s.tim.seat, round := s.tns.round, domain := s.tim.domain.code, frozen := s.seq.frozen,
                        short := s.anyUnmapped, storm := s.tim.stormNote, portsOut := s.portsOut }
    count 4 0 10 1 (sendRim (.answer a) s)

def execHeartbeat (h : Heartbeat) (s : State) : Host.Outcome State Fault Refusal := .next (heartbeat h s)

/-- An entry's contents less the instances that have fired. -/
def Sched.rebased (e : Sched) : EntryBody :=
  { e.body with start := e.body.start + e.next * e.body.period, count := e.body.count - e.next }

/-- Window entries with instances still to open: what is left of them changed by `f`. -/
def modWindows (f : Nat → EntryBody → EntryBody) (s : State) : State :=
  rebook { s with sched := s.sched.map fun e =>
    if e.1 < 16 && e.2.body.kind == 2 && e.2.unopened then (e.1, { e.2 with body := f e.1 e.2.rebased, next := 0 }) else e }

/-- The first STORM notice of a round delays the windows that have not opened (R261). -/
def stretch (s : State) : State :=
  if s.rim.stretched.isSome then s
  else modWindows (fun _ b => { b with start := b.start + s.tim.policy.stormShift * 1000 })
    { s with rim := { s.rim with stretched := some s.tim.now } }

/-- The windows of a member's groups are as long as its link ports now make them (R262). -/
def lengthen (seat : Nat) (s : State) : State :=
  let groups := (s.rim.groups.filter fun g => g.ranks.contains seat).map (·.xgroup)
  modWindows (fun i b =>
    let (x, duration) := tget (0, 0) s.rim.bookings i
    if groups.contains x then { b with arg1 := BitVec.ofNat 32 (lengthened duration (s.groupPortsOut x)) } else b) s

/-- HEARTBEAT_ANSWER. A device whose seat is lost is refused (R253); a STORM of another round stretches nothing (R261). -/
def heartbeatAnswer (a : Answer) (s : State) : State :=
  match s.member a.seat with
  | none => s
  | some m =>
    if !s.isRim then s
    else if m.lost then sendControl a.seat (.refused a.seat) s
    else
      let s := modMember a.seat (fun m => { m with misses := 0, awaiting := false, portsOut := a.portsOut }) s
      let s := if a.storm && a.round = s.tns.round then stretch s else s
      let s := if a.portsOut ≠ m.portsOut then lengthen a.seat s else s
      syncDeputy (if a.frozen || a.short then declareLost a.seat s else s)

def execHeartbeatAnswer (a : Answer) (s : State) : Host.Outcome State Fault Refusal := .next (unlessOver (heartbeatAnswer a) s)

/-- HEARTBEAT_MISSED: the third consecutive answer is missing. -/
def heartbeatMissed (seat : Nat) (s : State) : State :=
  match s.member seat with
  | some m => if m.joined && m.misses + b2n m.awaiting ≥ 3 then seatLost seat s else s
  | none => s

def execHeartbeatMissed (seat : Nat) (s : State) : Host.Outcome State Fault Refusal := .next (unlessOver (heartbeatMissed seat) s)

end Sys2Proof.Machine
end

