-- ==== Sys2Proof/Machine/Sha.lean ====
section
/-! DEFINITION. SHA-512 (R310, R321) and ECDSA verification on P-521 (R321, R328): FIPS 180-4 and FIPS 186-5, which the spec
names. PRESUMED, log 8: the constants and curve parameters are the standards'. -/

namespace Sys2Proof.Machine

/-! ### SHA-512 -/

abbrev W64 := BitVec 64

/-- Newton's steps down to the `e + 1`-th root of `n`, rounded down, from `r` at or above it. -/
def rootFrom (e n : Nat) : Nat → Nat → Nat
  | 0, r => r
  | fuel + 1, r =>
    let next := (e * r + n / r ^ e) / (e + 1)
    if next < r then rootFrom e n fuel next else r

/-- The first 64 bits of the fractional part of the `e + 1`-th root of `p`, which is below 2 ^ 10. -/
def rootFraction (e p : Nat) : W64 := BitVec.ofNat 64 (rootFrom e (p * 2 ^ (64 * (e + 1))) 96 (2 ^ 74))

/-- The primes below 410. -/
def smallPrimes : List Nat := (List.range 410).filter fun p => 2 ≤ p && (List.range 21).all fun d => d < 2 || d = p || p % d ≠ 0

/-- The round constants, from the cube roots of the first eighty primes. -/
def shaK : List W64 := smallPrimes.map (rootFraction 2)

/-- A hash value, and the working variables of a block: the last four words of each of the two chains, newest first. -/
abbrev Sha := List W64 × List W64

/-- The initial hash value, from the square roots of the first eight primes. -/
def shaInit : Sha := ((smallPrimes.take 4).map (rootFraction 1), ((smallPrimes.drop 4).take 4).map (rootFraction 1))

/-- The big-endian value of bytes, and the `n` big-endian bytes of a value. -/
def beNat (l : List Byte) : Nat := leNat l.reverse
def beBytes (n v : Nat) : List Byte := (leBytes n v).reverse

/-- The exclusive-or of three rotations. -/
def turned (i j k : Nat) (x : W64) : W64 := x.rotateRight i ^^^ x.rotateRight j ^^^ x.rotateRight k

/-- The same with a shift in place of the third. -/
def shifted (i j k : Nat) (x : W64) : W64 := x.rotateRight i ^^^ x.rotateRight j ^^^ (x >>> k)

/-- The schedule's window one word on: `w` holds sixteen words, the one of the present round first. -/
def shaSlide (w : List W64) : List W64 :=
  w.drop 1 ++ [w.getD 0 0 + shifted 1 8 7 (w.getD 1 0) + w.getD 9 0 + shifted 19 61 6 (w.getD 14 0)]

/-- One round; `x` is the round's constant and word together. Each chain takes one new word. -/
def shaStep (x : W64) (v : Sha) : Sha :=
  let p := fun (i : Nat) => v.1.getD i 0
  let q := fun (i : Nat) => v.2.getD i 0
  let choice := q 2 ^^^ (q 0 &&& (q 1 ^^^ q 2))
  let majority := (p 0 &&& (p 1 ||| p 2)) ||| (p 1 &&& p 2)
  let t := x + q 3 + turned 14 18 41 (q 0) + choice
  ((t + turned 28 34 39 (p 0) + majority) :: v.1.take 3, (p 3 + t) :: v.2.take 3)

/-- The rounds over the constants that are left. -/
def shaRounds : List W64 → List W64 → Sha → Sha
  | [], _, v => v
  | k :: ks, w, v => shaRounds ks (shaSlide w) (shaStep (k + w.getD 0 0) v)

def addWords (a b : List W64) : List W64 := List.zipWith (· + ·) a b

/-- One 128-byte block. -/
def shaBlock (h : Sha) (block : List Byte) : Sha :=
  let v := shaRounds shaK ((List.range 16).map fun i => BitVec.ofNat 64 (beNat (slice block (8 * i) 8))) h
  (addWords h.1 v.1, addWords h.2 v.2)

def shaBlocks (h : Sha) (m : List Byte) : Nat → Sha
  | 0 => h
  | n + 1 => shaBlocks (shaBlock h (m.take 128)) (m.drop 128) n

/-- SHA-512: 64 bytes. -/
def sha512 (m : List Byte) : List Byte :=
  let pad := (128 - (m.length + 17) % 128) % 128
  let p := m ++ [0x80] ++ List.replicate pad 0 ++ beBytes 16 (8 * m.length)
  let h := shaBlocks shaInit p (p.length / 128)
  (h.1 ++ h.2).flatMap fun w => beBytes 8 w.toNat

/-! ### P-521 -/

def pField : Nat := 2 ^ 521 - 1
def pOrder : Nat := 0x01FFFFFFFFFFFFFFFFFFFFFFFFFFFFFFFFFFFFFFFFFFFFFFFFFFFFFFFFFFFFFFFFFA51868783BF2F966B7FCC0148F709A5D03BB5C9B8899C47AEBB6FB71E91386409
def pB : Nat := 0x0051953EB9618E1C9A1F929A21A0B68540EEA2DA725B99B315F3B8B489918EF109E156193951EC7E937B1652C0BD3BB1BF073573DF883D2C34F1EF451FD46B503F00
def pGx : Nat := 0x00C6858E06B70404E9CD9E3ECB662395B4429C648139053FB521F828AF606B4D3DBAA14B5E77EFE75928FE1DC127A2FFA8DE3348B3C1856A429BF97E7E31C2E5BD66
def pGy : Nat := 0x011839296A789A3BC0045C8A5FB42C7D1BD998F54449579B446817AFBD17273E662C97EE72995EF42640C550B9013FAD0761353C7086A272C24088BE94769FD16650

/-- `b ^ e` modulo `m` over the low `n` bits of `e`. -/
def powMod (m b e : Nat) : Nat → Nat
  | 0 => 1
  | n + 1 => let r := powMod m (b * b % m) (e / 2) n; if e % 2 = 1 then r * b % m else r

/-- The inverse modulo a prime below 2^521. -/
def invMod (m a : Nat) : Nat := powMod m (a % m) (m - 2) 521

/-- `a - b` in the field. -/
def subMod (a b : Nat) : Nat := (a + pField - b % pField) % pField

/-- A point of y^2 = x^3 - 3x + b as X, Y, Z with x = X / Z^2 and y = Y / Z^3; Z is 0 at infinity. -/
abbrev Point := Nat × Nat × Nat

/-- Twice a point. -/
def pointDouble : Point → Point
  | (x, y, z) =>
    let m := pField
    let yy := y * y % m
    let zz := z * z % m
    let s := 4 * x * yy % m
    let t := 3 * subMod x zz * (x + zz) % m
    let u := subMod (t * t) (2 * s)
    (u, subMod (t * subMod s u) (8 * yy * yy), 2 * y * z % m)

/-- The sum of two points. -/
def pointAdd : Point → Point → Point
  | (x1, y1, z1), (x2, y2, z2) =>
    let m := pField
    if z1 = 0 then (x2, y2, z2)
    else if z2 = 0 then (x1, y1, z1)
    else
      let a := z1 * z1 % m
      let b := z2 * z2 % m
      let u := x1 * b % m
      let v := y1 * b * z2 % m
      let h := subMod (x2 * a) u
      let r := subMod (y2 * a * z1) v
      if h = 0 then if r = 0 then pointDouble (x1, y1, z1) else (1, 1, 0)
      else
        let hh := h * h % m
        let w := u * hh % m
        let x := subMod (r * r) (hh * h + 2 * w)
        (x, subMod (r * subMod w x) (v * hh % m * h), h * z1 * z2 % m)

/-- `k` times a point, over the low `n` bits of `k`. -/
def pointMul (p : Point) (k : Nat) : Nat → Point
  | 0 => (1, 1, 0)
  | n + 1 => let r := pointMul (pointDouble p) (k / 2) n; if k % 2 = 1 then pointAdd r p else r

/-- A public key whose coordinates lie on the curve. -/
def onCurve (x y : Nat) : Bool :=
  x < pField && y < pField && y * y % pField == (x * x * x + 3 * (pField - x) + pB) % pField

/-- ECDSA over P-521 with SHA-512: whether `r`, `s` sign the message under the key (FIPS 186-5). -/
def ecdsaVerify (x y r s : Nat) (msg : List Byte) : Bool :=
  onCurve x y && 0 < r && r < pOrder && 0 < s && s < pOrder &&
    (let e := beNat (sha512 msg)
     let w := invMod pOrder s
     let p := pointAdd (pointMul (pGx, pGy, 1) (e * w % pOrder) 521) (pointMul (x, y, 1) (r * w % pOrder) 521)
     p.2.2 ≠ 0 && p.1 * invMod pField (p.2.2 * p.2.2) % pField % pOrder == r)

end Sys2Proof.Machine
end

