-- ==== Sys2Proof/Machine/Ledger.lean ====
section
/-! DEFINITION. The Phildatu ledger (R309 to R315): records, their chain, replay, compaction, and what role actions record
(R325). -/

namespace Sys2Proof.Machine

/-! ### Records (R310) -/

def LRec.length (r : LRec) : Nat := r.payload.length + 36

/-- Bytes 0 to 15 of a record. -/
def LRec.head (r : LRec) : List Byte :=
  leBytes 2 (r.typ + 32768 * b2n r.isLocal) ++ leBytes 2 r.length ++ leBytes 4 r.seq ++ leBytes 8 r.time

/-- CHAIN of a record that follows a record with chain `prev`. -/
def LRec.chained (prev : List Byte) (r : LRec) : List Byte := slice (sha512 (prev ++ r.head ++ r.payload)) 0 16

/-- The CRC that a record's other bytes have. -/
def LRec.check (r : LRec) : BitVec 32 := crc32c (r.head ++ slice r.chain 0 16 ++ r.payload)

/-- A record as it is stored. -/
def LRec.bytes (r : LRec) : List Byte := r.head ++ slice r.chain 0 16 ++ r.payload ++ leBytes 4 r.crc.toNat

/-- A record that follows one with chain `prev`, complete with CHAIN and CRC. -/
def LRec.completed (prev : List Byte) (r : LRec) : LRec :=
  let r := { r with chain := r.chained prev }
  { r with crc := r.check }

/-- TIME of a record: rim time from U5 on, before it the µs since power-on. -/
def State.ledgerTime (s : State) : Bool × Nat :=
  if s.ups.stage ≥ 5 then (false, s.tim.now) else (true, s.lgr.bootUs + s.tim.now / 1000)

/-- The record that an append makes. -/
def State.nextRecord (s : State) (a : Append) : LRec :=
  let (loc, time) := s.ledgerTime
  LRec.completed (slice s.lgr.chain 0 16)
    { typ := a.typ, isLocal := loc, seq := (s.lgr.lastSeq + 1) % 2 ^ 32, time, chain := [], payload := padPayload a.payload }

/-! ### The journal's room (R309, R312) -/

def journalBytes (l : List LRec) : Nat := (l.map LRec.length).sum

/-- The usable blocks of the journal, in ring order. -/
def Lgr.ring (l : Lgr) : List Nat := ((List.range 96).map (· + 32)).filter fun b => !l.bad.contains b

/-- Usable blocks of the journal. -/
def State.usableBlocks (s : State) : Nat := 96 - s.lgr.bad.length

/-- Blocks from the oldest needed record to the head. -/
def State.journalBlocks (s : State) : Nat := cdiv (journalBytes s.lgr.journal) 65536

/-- FILL: the journal's occupancy in percent of its usable blocks. -/
def State.journalFill (s : State) : Nat := if s.usableBlocks = 0 then 100 else Min.min 100 (s.journalBlocks * 100 / s.usableBlocks)

def State.journalFits (s : State) (r : LRec) : Bool := journalBytes s.lgr.journal + r.length ≤ s.usableBlocks * 65536

/-! ### What the ledger knows -/

/-- Snapshot entries: TYPE, length, payload. -/
def entryBytes (typ : Nat) (p : List Byte) : List Byte := leBytes 2 typ ++ leBytes 2 p.length ++ p

def parseSnapshot (b : List Byte) : Nat → List (Nat × List Byte)
  | 0 => []
  | n + 1 =>
    let typ := field b 0 2
    let len := field b 2 2
    if typ = 0 then [] else (typ, slice b 4 len) :: parseSnapshot (b.drop (4 + len)) n

/-- The snapshot in use. -/
def Lgr.snapshot (l : Lgr) : Option Snapshot := if l.active then l.slot1 else l.slot0

/-- The contents that follow in a record, `n` bytes each, `k` of them at most. -/
def restContents (typ n : Nat) (b : List Byte) : Nat → List (Nat × List Byte)
  | 0 => []
  | k + 1 => if b.isEmpty then [] else (typ, b.take n) :: restContents typ n (b.drop n) k

/-- The contents that a record holds: one, but for a record that several appends were merged into (R313, log 28). -/
def contents (typ : Nat) (b : List Byte) : List (Nat × List Byte) :=
  if isTotals typ || typ = rROLE_ACTION then [(typ, b)]
  else
    let n := if typ = rMARGIN then 32 else 16
    (typ, b.take (n - 4)) :: restContents typ n (b.drop (n - 4)) (b.length / n)

/-- Everything recorded, oldest first: the snapshot's entries, then the journal's records. -/
def Lgr.entries (l : Lgr) : List (Nat × List Byte) :=
  ((l.snapshot.map fun p => p.parts.flatMap fun r => parseSnapshot r.payload (r.payload.length / 4)).getD []) ++
    l.journal.flatMap fun r => contents r.typ r.payload

/-- The same with the records that still wait to be programmed and that nothing waits for. -/
def Lgr.known (l : Lgr) : List (Nat × List Byte) :=
  l.entries ++ (l.appends.filter fun a => a.effect == .nothing).flatMap fun a => contents a.typ (padPayload a.payload)

/-- The last value of a register that the installer wrote: ROLE_ACTION records of code 0x10 name its offset and value. -/
def Lgr.lastWrite (l : Lgr) (off : Nat) : Option Nat :=
  (l.entries.reverse.find? fun e => e.1 == rROLE_ACTION && field e.2 1 1 == 0x10 && field e.2 18 4 == off).map fun e => field e.2 22 4

/-- The persisted cap: the last SET_POWER_CAP with PERSIST (R287). The third parameter byte holds its flags; it is zero in a
schedule entry's record. -/
def Lgr.persistedCap (l : Lgr) : Option Nat :=
  (l.entries.reverse.find? fun e => e.1 == rROLE_ACTION && field e.2 1 1 == 0x11 && bit (field e.2 20 1) 0).map
    fun e => field e.2 18 2

/-- Recorded retirements: die × 100 + position. -/
def Lgr.retirements (l : Lgr) : List Nat :=
  (l.known.filter fun e => e.1 == rSTAKE_RETIRE).map fun e => field e.2 0 1 * 100 + field e.2 1 1

/-- What the ledger records of a stack: FAILED, its failed die, its failed channel (R146, R165). -/
def Lgr.stackFaults (l : Lgr) (k : Nat) : Bool × Option Nat × Option Nat :=
  (l.known.filter fun e => e.1 == rHBM_FAULT && field e.2 0 1 == k).foldl
    (fun a e => match field e.2 1 1 with
      | 0 => (a.1, some (field e.2 2 1), a.2.2)
      | 1 => (a.1, a.2.1, some (field e.2 2 1))
      | _ => (true, a.2)) (false, none, none)

/-- Repairs recorded of a stack. -/
def Lgr.repairs (l : Lgr) (k : Nat) : Nat := l.known.countP fun e => e.1 == rPPR && field e.2 0 1 == k

/-! ### Replay (R311) -/

/-- Records follow each other in SEQ and CHAIN: the records applied, up to the first missing SEQ or failing CRC; none where one has a
correct CRC and a wrong chain. -/
def replay (seq : Nat) (chain : List Byte) : List LRec → Option (List LRec)
  | [] => some []
  | r :: t =>
    if r.seq ≠ (seq + 1) % 2 ^ 32 || r.crc ≠ r.check then some []
    else if r.chain ≠ r.chained chain then none
    else (replay r.seq r.chain t).map (r :: ·)

/-- The parts have correct CRCs and numbers from `i` on, and chain from `chain`, the last one's being `last` (R314). -/
def partsChain (i : Nat) (chain last : List Byte) : List LRec → Bool
  | [] => chain == last
  | r :: t => r.seq == i && r.crc == r.check && r.chain == r.chained chain && partsChain (i + 1) r.chain last t

def partsLength (l : List LRec) : Nat := (l.map LRec.length).sum

/-- A snapshot verifies (R314). -/
def Snapshot.verifies (p : Snapshot) : Bool :=
  p.magic == 0x50414E53 && p.commit == 0 && p.partCount == p.parts.length && p.partsBytes == partsLength p.parts &&
    partsChain 0 p.chain p.lastChain p.parts

/-- The slot that replay takes: the verified one with the higher SNAP_SEQ; true is slot 1. -/
def Lgr.bestSlot (l : Lgr) : Option (Bool × Snapshot) :=
  match l.slot0.filter Snapshot.verifies, l.slot1.filter Snapshot.verifies with
  | some a, some b => if a.seq < b.seq then some (true, b) else some (false, a)
  | some a, none => some (false, a)
  | none, some b => some (true, b)
  | none, none => none

/-- Replay at U2: the ledger it loads, or none where it has no consistent snapshot and chain. A module whose journal begins
with its first record needs no snapshot. -/
def Lgr.load (l : Lgr) : Option Lgr :=
  let (slot, seq, chain) := match l.bestSlot with
    | some (b, p) => (b, p.seq, p.chain)
    | none => (false, 0, List.replicate 16 0)
  let fresh := l.journal.filter fun r => r.seq > seq
  match replay seq chain fresh with
  | none => none
  | some rs =>
    if l.bestSlot.isNone && rs.isEmpty && !fresh.isEmpty then none
    else
      let last := rs.getLast?
      some { l with journal := rs, active := slot, snapSeq := seq, lastSeq := (last.map (·.seq)).getD seq,
                    chain := (last.map (·.chain)).getD chain, state := .inOrder }

/-! ### Compaction (R312 to R314) -/

def totalsOf (es : List (Nat × List Byte)) (typ : Nat) : List (Nat × List Byte) :=
  match (es.filter fun e => e.1 == typ).map (·.2) with
  | [] => []
  | p :: t => [(typ, t.foldl sumWords p)]

/-- The first and the latest margin record of each pseudo-channel. -/
def marginsKept (es : List (Nat × List Byte)) : List (Nat × List Byte) :=
  let ms := es.filter fun e => e.1 == rMARGIN
  let keys := distinct (ms.map fun e => field e.2 0 2)
  keys.flatMap fun k =>
    match ms.filter fun e => field e.2 0 2 == k with
    | [] => []
    | [e] => [e]
    | e :: t => [e, t.getLast?.getD e]

def lastOf (n : Nat) (l : List (Nat × List Byte)) : List (Nat × List Byte) := l.drop (l.length - n)

/-- The kinds of state in the order of R314, with the last `n` role actions. Their count stands before them, under type 0x010A. -/
def snapshotKinds (es : List (Nat × List Byte)) (bad : List Nat) (n : Nat) : List (List (Nat × List Byte)) :=
  let roles := es.filter fun e => e.1 == rROLE_ACTION
  let kept := lastOf n roles
  let earlier := ((es.find? fun e => e.1 == 0x010A).map fun e => field e.2 0 4).getD 0
  let carried := ((es.find? fun e => e.1 == 0x010A).map fun e => field e.2 4 4).getD 0
  let total := earlier + (roles.length - carried)
  [totalsOf es rLIFETIME ++ totalsOf es rERROR_TOTALS, marginsKept es,
   es.filter fun e => [rHBM_FAULT, rPPR, rSTAKE_RETIRE].contains e.1,
   bad.map fun b => (0x0109, leBytes 2 b),
   lastOf 64 (es.filter fun e => e.1 == rFIRMWARE),
   (0x010A, leBytes 4 total ++ leBytes 4 kept.length) :: kept]

/-- Whole entries packed into payloads of at most 4,060 bytes. -/
def packEntries : List (Nat × List Byte) → List Byte → List (List Byte)
  | [], acc => if acc.isEmpty then [] else [acc]
  | (t, p) :: l, acc =>
    let e := entryBytes t p
    if acc.length + e.length ≤ 4060 then packEntries l (acc ++ e) else acc :: packEntries l e

/-- Parts numbered from `i`, chained from `chain`. -/
def chainParts (time i : Nat) (chain : List Byte) : List (List Byte) → List LRec
  | [] => []
  | p :: t =>
    let r := LRec.completed chain { typ := 0x0100, isLocal := false, seq := i, time, chain := [], payload := padPayload p }
    r :: chainParts time (i + 1) r.chain t

/-- A snapshot slot's bytes as stored: header and parts. -/
def Snapshot.bytes (p : Snapshot) : List Byte :=
  leBytes 4 p.magic ++ leBytes 4 p.seq ++ slice p.chain 0 16 ++ leBytes 4 p.partCount ++ leBytes 4 p.partsBytes ++
    slice p.lastChain 0 16 ++ List.replicate 460 0 ++ leBytes 4 p.commit.toNat ++ p.parts.flatMap LRec.bytes

/-- The parts of a snapshot that keeps the last `n` role actions, as payloads. -/
def snapshotParts (es : List (Nat × List Byte)) (bad : List Nat) (n : Nat) : List (List Byte) :=
  (snapshotKinds es bad n).flatMap fun k => packEntries k []

def payloadsLength (l : List (List Byte)) : Nat := (l.map fun p => (padPayload p).length + 36).sum

/-- The parts that fill a slot at most; role actions are left out, the oldest first, until they do (R314). -/
def fitParts (es : List (Nat × List Byte)) (bad : List Nat) : Nat → List (List Byte)
  | 0 => snapshotParts es bad 0
  | n + 1 => let l := snapshotParts es bad (n + 1); if payloadsLength l ≤ 1048064 then l else fitParts es bad n

/-- A complete snapshot of everything up to the record with SEQ `seq` and CHAIN `chain`. -/
def takeSnapshot (seq time : Nat) (chain : List Byte) (es : List (Nat × List Byte)) (bad : List Nat) : Snapshot :=
  let parts := chainParts time 0 chain (fitParts es bad (Min.min 8192 (es.countP fun e => e.1 == rROLE_ACTION)))
  { magic := 0x50414E53, seq, chain, partCount := parts.length, partsBytes := partsLength parts,
    lastChain := (parts.getLast?.map (·.chain)).getD chain, commit := 0, parts }

/-- LEDGER_COMPACTION: a new snapshot of everything up to the last record goes into the slot that is not active, and the
journal's covered records are erased. -/
def compact (s : State) : State :=
  let l := s.lgr
  let p := takeSnapshot l.lastSeq s.tim.now (slice l.chain 0 16) l.entries l.bad
  let l := { l with journal := [], active := !l.active, snapSeq := l.lastSeq, state := .inOrder }
  raiseLgr 0 { s with lgr := if l.active then { l with slot1 := some p } else { l with slot0 := some p } }

/-- Whether compaction is due: the journal is three quarters full, or an append is held. -/
def State.compactionDue (s : State) : Bool :=
  s.lgr.state ≠ .notLoaded && (s.lgr.state == .held || s.journalBlocks * 4 ≥ s.usableBlocks * 3)

/-- LEDGER_COMPACTION. -/
def execLedgerCompaction (s : State) : Host.Outcome State Fault Refusal :=
  .next (if s.powered && s.ups.stage ≥ 2 && s.compactionDue then compact s else s)

/-! ### Programming a record (R311, R313) -/

/-- The block of the journal that takes the next record. The oldest record's place in the ring is a free value (log 28). -/
def State.headBlock (s : State) : Option Nat :=
  let ring := s.lgr.ring
  ring[(Config.journalStart s.lgr.snapSeq + journalBytes s.lgr.journal / 65536) % ring.length]?

/-- The flash fails under the oldest append. Free value, log 28. -/
def State.programFails (s : State) : Bool :=
  match s.lgr.appends, s.headBlock with
  | a :: _, some b => Config.flashFails b (s.nextRecord a).seq
  | _, _ => false

/-- The head's block fails to erase or program: it is retired (R309). The records that it holds stay readable; the append waits for the
next block. DESIGN CHOICE, log 28: the journal's records lie over the blocks that are left. -/
def retireBlock (s : State) : State :=
  match s.headBlock with
  | some b => raiseLgr 2 { s with lgr := { s.lgr with bad := sinsert s.lgr.bad b } }
  | none => s

/-- The oldest append becomes a record. Answers what waited for it. A record that finds no room is held, and the appends merge; where
the flash fails, its block is retired. -/
def programNext (failed : Bool) (s : State) : Option Effect × State :=
  match s.lgr.appends with
  | [] => (none, s)
  | a :: t =>
    if !s.powered || s.lgr.state == .notLoaded || s.lgr.state == .held then (none, s)
    else
      let r := s.nextRecord a
      if failed then (none, retireBlock s)
      else if s.journalFits r then
        let s := { s with lgr := { s.lgr with journal := s.lgr.journal ++ [r], lastSeq := r.seq, chain := r.chain, appends := t } }
        (some a.effect, count 4 0 11 1 (count 4 0 12 r.length s))
      else (none, raiseLgr 1 { s with lgr := { s.lgr with state := .held, appends := s.lgr.appends.foldl addHeld [] } })

/-! ### Role actions (R325) -/

/-- The first 16 bytes of the SHA-512 of a key's X and Y. -/
def keyHash (k : PubKey) : List Byte := slice (sha512 (beBytes 66 k.x ++ beBytes 66 k.y)) 0 16

/-- Appends a role action: role, action code, key hash, up to 64 bytes of parameters. -/
def roleAction (who : Option Binding) (code : Nat) (data : List Byte) (e : Effect) (s : State) : State :=
  let role := (who.map fun b => b.role.code).getD 0
  let hash := (who.map fun b => keyHash b.key).getD (List.replicate 16 0)
  append rROLE_ACTION ([BitVec.ofNat 8 role, BitVec.ofNat 8 code] ++ hash ++ data.take 64) e s

/-- The binding that an installer's register write acts under: that of the lowest queue with one (R319). -/
def State.installerBinding (s : State) : Option Binding :=
  (s.que.queues.find? fun e => e.2.role ≥ 2).bind fun e => e.2.binding

/-- An installer register write: ignored with WRITE_DENIED unless some queue holds an installer or maker binding (R319);
otherwise recorded with its offset and value, its effect waiting for the record. -/
def installerWrite (off v : Nat) (e : Effect) (f : State → State) (s : State) : State :=
  match s.installerBinding with
  | none => raiseSec 0 s
  | some b => roleAction (some b) 0x10 (leBytes 4 off ++ leBytes 4 v) e (f s)

/-- A binding is withdrawn from a queue (R324): recorded with its key, or with zeros for a withdrawal by reset. -/
def withdraw (q : Nat) (byReset : Bool) (s : State) : State :=
  match (s.queue q).binding with
  | none => s
  | some b =>
    let s := s.setQueue q { s.queue q with binding := none }
    let hash := if byReset then List.replicate 16 0 else keyHash b.key
    append rROLE_ACTION ([BitVec.ofNat 8 b.role.code, 0x07] ++ hash ++ leBytes 2 q) .nothing (raiseSec 1 s)

/-- Withdraws every binding that `p` selects. -/
def withdrawWhere (p : Binding → Bool) (byReset : Bool) (s : State) : State :=
  (s.que.queues.filter fun e => (e.2.binding.map p).getD false).foldl (fun s e => withdraw e.1 byReset s) s

end Sys2Proof.Machine
end

