-- ==== Sys2Proof/Machine/Power.lean ====
section
/-! DEFINITION. The power controller (R283 to R289): clock steps, the cap, the brake, thermal limits, and SET_POWER_CAP. -/

namespace Sys2Proof.Machine

/-! ### Limits in force -/

/-- The ceiling of the ordering code (R3). -/
def State.ceiling (s : State) : Nat := if s.id.orderCode = 0x4120 then 1200 else 1500

/-- C: the cap in force, 700 W while the brake holds (R285). -/
def State.capNow (s : State) : Nat := if s.pwr.brake then 700 else s.pwr.cap

/-- k_min (R285). -/
def State.kMin (s : State) : Nat := if s.pwr.brake then 12 else if s.ups.service = 1 then 8 else 0

/-- THM_CTRL as it latches (Table 12.7). -/
def clampThm (w : Word) : Word :=
  let lim := Max.max 85 (Min.min 105 (bits w.toNat 7 0))
  let hbm := Max.max 85 (Min.min 100 (bits w.toNat 15 8))
  BitVec.ofNat 32 (lim + 256 * hbm)

def State.junctionLimit (s : State) : Int := bits s.pwr.thmNow.toNat 7 0
def State.stackLimit (s : State) : Int := bits s.pwr.thmNow.toNat 15 8

/-! ### Readings (R288) -/

def State.sensorValid (s : State) (i : Nat) : Bool := s.pwr.sensed && !s.pwr.invalid.contains i
def State.sensor (s : State) (i : Nat) : Int := tget 0 s.pwr.sensors i

/-- The valid sensors of a range. -/
def State.validSensors (s : State) (lo n : Nat) : List Nat := ((List.range n).map (· + lo)).filter s.sensorValid

/-- The readouts of the trained stacks. -/
def State.stackTemps (s : State) : List Int := ((List.range 12).filter fun k => (s.stack k).trained).map fun k => tget 0 s.pwr.hbm k

/-- The greatest of a list, and the first sensor that reads it. -/
def hottest (l : List Int) : Int := l.foldl Max.max (l.headD 0)
def State.hotSensor (s : State) : Nat :=
  (s.validSensors 0 112).foldl (fun b i => if s.sensor i > s.sensor b then i else b) ((s.validSensors 0 112).headD 0)

/-- A weave die with more than 8 invalid sensors. -/
def State.sensorsLost (s : State) : Bool :=
  [0, 1].any fun d => s.pwr.invalid.countP (fun i => i / 48 == d) > 8

/-- The junction part and the stack part of the thermal condition. -/
def State.junctionHot (s : State) : Bool :=
  s.sensorsLost || (s.validSensors 0 112).any fun i => decide (s.sensor i ≥ s.junctionLimit)
def State.stackHot (s : State) : Bool := s.stackTemps.any fun t => decide (t ≥ s.stackLimit)

/-- What an up-step needs of the temperatures. -/
def State.cool (s : State) : Bool :=
  ((s.validSensors 0 112).all fun i => decide (s.sensor i ≤ s.junctionLimit - 5)) &&
    s.stackTemps.all fun t => decide (t ≤ s.stackLimit - 5)

/-! ### Steps (R284, R285) -/

/-- The clock goes to step `k`; a step down names its cause. -/
def setStep (k : Nat) (cause : BitVec 4) (s : State) : State :=
  let old := s.pwr.step
  if k = old then s
  else
    let s := { s with pwr := { s.pwr with step := k, lastStepAt := some s.tim.now, cause := if old < k then cause else s.pwr.cause } }
    trace tCLOCK_STEP s.pwr.cause.toNat 0x40 0xFFFF [old, k] s

/-- A thermal record (Table 13.15): sensor, reading, kind (0 step down, 1 sensor fault, 2 trip). -/
def thermalRecord (sensor : Nat) (reading : Int) (kind : Nat) (s : State) : State :=
  record rTHERMAL (leBytes 2 sensor ++ [BitVec.ofInt 8 reading, BitVec.ofNat 8 kind]) s

/-- A step down is taken for power, junctions or stacks. -/
def stepDown (power junction stack : Bool) (s : State) : State :=
  let s := if power then raisePwr 0 s else s
  let s := if junction then raiseThm 0 s else s
  let s := if stack then raiseThm 1 s else s
  let s := if junction || stack then
      let i := s.hotSensor
      trace tTHERMAL 0 0x40 0xFFFF [i, int16 (s.sensor i)] (thermalRecord i (s.sensor i) 0 s)
    else s
  setStep (s.pwr.step + 1) (BitVec.ofNat 4 (b2n power + 2 * b2n junction + 4 * b2n stack)) s

/-- The bin of a temperature in LIFETIME: below 60, by tens to 99, 100 and above. -/
def lifeBin (t : Int) : Nat := Min.min 5 ((t - 50) / 10).toNat

/-- An evaluation's 100 µs of service go to the bins of LIFETIME (Table 13.15). -/
def countLife (s : State) : State :=
  if s.ups.service = 0 then s
  else
    let add := fun (t : Tab Nat) (k : Nat) => tmod 0 t k (· + 100000)
    let t := add s.pwr.life s.pwr.step
    let t := if (s.validSensors 0 112).isEmpty then t else add t (13 + lifeBin (hottest ((s.validSensors 0 112).map s.sensor)))
    let t := if s.stackTemps.isEmpty then t else add t (19 + lifeBin (hottest s.stackTemps))
    { s with pwr := { s.pwr with life := t } }

/-- What an evaluation reads: settings that wait for it, sensors, input voltage and power (R283, R294). The sensors' readings also go to
the round's sums (R181). Between 38.0 and 40.0 V and between 52.0 and 54.0 V the spec promises nothing (R12): the module goes on as
within the limits, with VIN_WARN set. DESIGN CHOICE, log 64. -/
def takeReadings (r : PowerReading) (s : State) : State :=
  let sum := r.samples.sum
  let n := Max.max 1 r.samples.length
  let temps := (List.range 112).foldl (fun t i => tset 0 t i (r.junction.getD i 0)) []
  let heat := (List.range 112).foldl (fun t i => tmod 0 t i (· + r.junction.getD i 0)) s.plc.heat
  let s := { s with plc := { s.plc with heat, heatN := s.plc.heatN + 1 } }
  let s := { s with pwr := { s.pwr with
    upNow := Max.max 1 s.pwr.upRec, thmNow := clampThm s.pwr.thmRec, sensors := temps, sensed := true,
    input := sum / n, vin := r.vin, lastEval := s.tim.now + 1 } }
  if r.vin < 4000 || 5200 < r.vin then raisePwr 2 s else s

/-- One evaluation (R285). -/
def evaluate (r : PowerReading) (s : State) : State :=
  let s := countLife (takeReadings r s)
  let sum := r.samples.sum
  let n := Max.max 1 r.samples.length
  let c := s.capNow
  let excess := decide (sum > c * n)
  let junction := s.junctionHot
  let stack := s.stackHot
  let thermal := junction || stack
  let h : EvalRec := { within := decide (sum + s.pwr.upNow * n ≤ c * n), thermal, cool := s.cool }
  let history := (s.pwr.history ++ [h]).drop ((s.pwr.history.length + 1) - 10)
  let s := { s with pwr := { s.pwr with history := history } }
  let rested := match s.pwr.lastStepAt with
    | some t => decide (t + 1000000 ≤ s.tim.now)
    | none => true
  let s :=
    if (excess || thermal) && s.pwr.step < 12 then stepDown excess junction stack s
    else if s.kMin < s.pwr.step && rested && history.length = 10 && history.all (fun e => e.within && !e.thermal && e.cool) then
      setStep (s.pwr.step - 1) 0 s
    else s
  if s.pwr.step < s.kMin then setStep s.kMin (if s.pwr.brake then 8 else 0) s else s

/-- No POWER_CAP instance is due: one that is fires before the evaluation of its cycle (R259). -/
def State.capsFired (s : State) : Bool := (List.range 64).all fun j => (s.nextDue j).all fun d => d.2.kind ≠ 4

/-- POWER_EVALUATION: at every multiple of 100,000 ns of rim time, once. -/
def execPowerEvaluation (r : PowerReading) (s : State) : Host.Outcome State Fault Refusal :=
  .next (if s.powered && s.tim.now % 100000 = 0 && s.pwr.lastEval ≠ s.tim.now + 1 && s.capsFired then evaluate r s else s)

/-! ### The brake (R286) -/

/-- BRAKE_ASSERT. -/
def execBrakeAssert (s : State) : Host.Outcome State Fault Refusal :=
  .next (if s.powered && !s.pwr.brake then setStep 12 8 (raisePwr 1 { s with pwr := { s.pwr with brake := true } }) else s)

/-- BRAKE_RELEASE. -/
def execBrakeRelease (s : State) : Host.Outcome State Fault Refusal :=
  .next (if s.powered then { s with pwr := { s.pwr with brake := false } } else s)

/-! ### Temperatures (R138, R288, R289) -/

/-- The command and address parity errors that a stack's controller has retried since the last readout, and the on-die ECC severity
reports that it has taken, are counted (R138). They come with the readout: DESIGN CHOICE, log 63. -/
def countStack (k retries reports : Nat) (s : State) : State :=
  if (s.stack k).trained then count 2 k 16 reports (count 2 k 15 retries s) else s

/-- STACK_TEMPERATURE_READ: the readouts of the trained stacks, every 1 ms. -/
def execStackTemperatureRead (r : StackReadings) (s : State) : Host.Outcome State Fault Refusal :=
  .next (if s.powered && s.mem.lastTempRead + 1000000 ≤ s.tim.now then
    let hbm := (List.range 12).foldl (fun t k => if (s.stack k).trained then tset 0 t k (r.temps.getD k 0) else t) s.pwr.hbm
    let s := { s with mem := { s.mem with lastTempRead := s.tim.now }, pwr := { s.pwr with hbm := hbm } }
    (List.range 12).foldl (fun s k => countStack k (r.retries.getD k 0) (r.reports.getD k 0) s) s
  else s)

/-- SENSOR_FAULT: the sensor is no longer valid. -/
def sensorFault (i : Nat) (s : State) : State :=
  if !s.powered || s.pwr.invalid.contains i then s
  else
    let s := { s with pwr := { s.pwr with invalid := sinsert s.pwr.invalid i } }
    trace tTHERMAL 1 0x40 0xFFFF [i, int16 (s.sensor i)] (raiseThm 2 (thermalRecord i (s.sensor i) 1 s))

def execSensorFault (sensor : Fin 112) (s : State) : Host.Outcome State Fault Refusal := .next (sensorFault sensor s)

/-- THERM_TRIP: a valid sensor reads 110 °C; the pin goes low and the clocks of arrays, mesh and bridges stop. -/
def execThermTrip (sensor : Fin 112) (reading : Int) (s : State) : Host.Outcome State Fault Refusal :=
  .next (if s.clocked && reading ≥ 110 && !s.pwr.invalid.contains sensor.val then
    let s := { s with pins := { s.pins with power := .tripped, thermTrip := true } }
    thermalRecord sensor reading 2 s
  else s)

/-! ### The cap (R287) -/

/-- The cap in force changes. -/
def setCap (w : Nat) (s : State) : State := { s with pwr := { s.pwr with cap := w } }

/-- POWER_CAP_INSTANCE: the entry's cap, not persisted. -/
def execPowerCapInstance (entry : Fin 64) (s : State) : Host.Outcome State Fault Refusal :=
  .next (match s.firing entry 4 with
    | some b => if s.powered then fireNext entry (setCap (b.arg0.toNat % 65536) s) else s
    | none => s)

/-- The binding of a command's queue. -/
def State.actor (s : State) (c : InFlight) : Option Binding := (s.queue c.queue).binding

def planPowerCap (p : Packet) (c : InFlight) : Cmd Plan := do
  reservedZero p [(18, 18, 0xFE), (19, 63, 0xFF)]
  let w := p.num 16 2
  require (700 ≤ w && w ≤ (← get).ceiling) POWER_CAP_RANGE (← get).ceiling
  pure { run := do
           upd fun s => roleAction (s.actor c) 0x11 (slice p.params 0 3) (.command c.id (.cap w (bit (p.num 18 1) 0))) s
           pure { wait := .record } }

/-- SET_POWER_CAP: the cap takes effect, and the command completes, when its record exists (R325). -/
def execSetPowerCap (q : Fin 64) (p : Packet) (s : State) : Host.Outcome State Fault Refusal :=
  .next (issueF q 0x82 p (planPowerCap p) s)

end Sys2Proof.Machine
end

