-- ==== Sys2Proof/Machine/Resets.lean ====
section
/-! DEFINITION. Resets and the input supply (R216, R279, R283, R290 to R292). -/

namespace Sys2Proof.Machine

/-! ### What a reset keeps (Table 12.4) -/

/-- Bindings are withdrawn by a reset (R324); answers whether there were any. -/
def dropBindings (s : State) : Bool × State :=
  (s.que.queues.any (fun e => e.2.binding.isSome), withdrawWhere (fun _ => true) true s)

/-- SEC_STATUS after a reset that withdrew bindings. -/
def endedStatus (any : Bool) : Status := if any then ({} : Status).raise 1 else {}

/-- The ledger across a reset: what is in flash stays; records that nothing waits for are still to be programmed, all others
are lost with the commands and writes that made them. Without power nothing is left to program. -/
def Lgr.afterReset (l : Lgr) (powerLost : Bool) (us : Nat) : Lgr :=
  { ({} : Lgr) with
    journal := l.journal, slot0 := l.slot0, slot1 := l.slot1, active := l.active, bad := l.bad,
    appends := if powerLost then [] else l.appends.filter fun a => a.effect == .nothing,
    bootUs := if powerLost then 0 else l.bootUs + us }

/-- The security store, the fuses and the flash images stay; the block starts again. -/
def Sec.afterReset (c : Sec) (ended : Bool) : Sec :=
  { ({} : Sec) with
    installer := c.installer, operators := c.operators, keygen := c.keygen, rootHashes := c.rootHashes, revoked := c.revoked,
    fusedSvn := c.fusedSvn, imageA := c.imageA, imageB := c.imageB, validA := c.validA, validB := c.validB, next := c.next,
    running := c.running, rootSlot := c.rootSlot, status := endedStatus ended }

/-- The power block after any reset: the cap is the caller's, the brake input is a pin (R286). -/
def Pwr.afterReset (p : Pwr) (cap : Nat) : Pwr :=
  { ({} : Pwr) with cap := cap, brake := p.brake, step := if p.brake then 12 else 0, cause := if p.brake then 8 else 0 }

/-- SESSION_ENDED set by a reset is an event of vector 64 (R342). -/
def signalEnded (ended : Bool) (s : State) : State := if ended then signalVector 64 s else s

/-- A cold reset: stage U0 on the cold path. `last` is LAST_RESET. The PCI Express link is down until U0 has trained it. -/
def coldReset (last : Nat) (powerLost : Bool) (s : State) : State :=
  let us := s.tim.now / 1000
  let out := s.out
  let (ended, s) := dropBindings s
  signalEnded ended
  { pending := s.pending, freeCtr := s.freeCtr, pins := s.pins, id := { s.id with speed := 0, width := 0, linkUp := false },
    ups := { lastReset := last },
    que := {}, seq := {}, flight := [], nextId := s.nextId, store := {}, mem := {},
    plc := { ({} : Plc) with retired := if powerLost then [] else s.plc.retired },
    tns := {}, coil := [], tim := {}, rim := {}, sched := [], pwr := s.pwr.afterReset s.ceiling,
    lnk := {}, cnt := {}, trc := {}, lgr := s.lgr.afterReset powerLost us, sec := s.sec.afterReset ended, mctp := {}, out }

/-- A stack across a warm reset: contents stay, health comes from the ledger in U4. The poison list lies in the stack's own
reserved lines, and MEM_STACK_UNCORR counts since the last cold reset (R145, Table 7.17; DEDUCED against the counts of Table 12.4,
log 40). -/
def Stack.afterWarm (v : Stack) : Stack := { ({} : Stack) with poison := v.poison, uncorr := v.uncorr }

/-- Releases whose command a warm reset abandons: their lines are freed, and a copy of one is dropped. -/
def freeReleasing (s : State) : State :=
  let gone := s.plc.map.filter fun e => e.2.state == .releasing
  let idx := gone.map (·.1)
  let s := match s.plc.current with
    | some m => if idx.contains m.index then
        let lines := ((tfind s.plc.map m.index).map Desc.lines).getD 0
        forgetLines m.newLoc lines { s with plc := { s.plc with current := none } }
      else s
    | none => s
  let s := gone.foldl (fun s e => forgetLines e.2.location e.2.lines s) s
  { s with plc := { s.plc with map := s.plc.map.filter (fun e => !idx.contains e.1), running := s.plc.running.filter fun e => !idx.contains e.1 } }

/-- The placer across a warm reset: the copy in progress stops, and the handles that the list had not reached stay for the
next boundary (R291 point 4). -/
def Plc.afterWarm (p : Plc) : Plc :=
  { p with status := {}, current := p.current.map fun m => { m with stopped := true },
           taken := [], pendingMig := p.pendingMig + p.taken.length }

/-- Rounds across a warm reset: round, ladders, FLOOR, and both copies of the configuration stay. -/
def Tns.afterWarm (t : Tns) : Tns :=
  { ({} : Tns) with
    staged := t.staged, active := t.active, everLatched := t.everLatched, ladders := t.ladders, floor := t.floor,
    stormFree := t.stormFree, last := t.last, round := t.round }

/-- The trace across a warm reset: its records stay and it is stopped; its configuration goes. -/
def Trc.afterWarm (t : Trc) : Trc :=
  { ({} : Trc) with
    state := if t.state == .idle then .idle else .stopped, spill := t.spill, records := t.records, preHeld := t.preHeld,
    postCount := t.postCount, trigTime := t.trigTime, trigHi := t.trigHi, drop := t.drop, dropAfter := t.dropAfter,
    summary := t.summary, dumpHandle := t.dumpHandle, dumpValid := t.dumpValid, dumpHung := t.dumpHung,
    dumpTime := t.dumpTime, dumpHi := t.dumpHi }

/-- A warm reset once the device is quiet (R291 points 3 to 8): stage U0 on the warm path. -/
def warmReset (last : Nat) (s : State) : State :=
  let us := s.tim.now / 1000
  let out := s.out
  let (ended, s) := dropBindings s
  let s := flushCaches (freeReleasing (s.flight.foldl (fun s c => scramble c.regions s) s))
  signalEnded ended
  { pending := s.pending, freeCtr := s.freeCtr, pins := s.pins, id := s.id,
    ups := { lastReset := last, cfg := s.ups.cfg, cfgNow := s.ups.cfgNow, rsSeed := s.ups.rsSeed,
             rsSeedNow := s.ups.rsSeedNow, warm := true },
    que := {}, seq := {}, flight := [], nextId := s.nextId, store := s.store,
    mem := { ({} : Mem) with stackTab := (List.range 12).foldl (fun t k => tset {} t k (s.stack k).afterWarm) [] },
    plc := s.plc.afterWarm, tns := s.tns.afterWarm, coil := [], tim := {}, rim := {}, sched := [],
    pwr := s.pwr.afterReset s.pwr.cap,
    lnk := { ({} : Lnk) with msix := s.lnk.msix, msixPending := s.lnk.msixPending, pci := s.lnk.pci },
    cnt := {}, trc := s.trc.afterWarm, lgr := s.lgr.afterReset false us, sec := s.sec.afterReset ended, mctp := {}, out }

/-! ### Input supply (R279, R283) -/

/-- POWER_ON: the input has been within 40.0 V to 52.0 V for 10 ms with HOST_RST_N high; `vin` in 10 mV. THERM_TRIP_N stays as it is: an
input that rose above 54 V has not been removed (R289). -/
def execPowerOn (strapA strapB : Bool) (vin : Nat) (s : State) : Host.Outcome State Fault Refusal :=
  .next (if s.pins.power == .off && 4000 ≤ vin && vin ≤ 5200 then
    coldReset 0 true { s with pins := { s.pins with power := .on, strapA, strapB } }
  else s)

/-- PROTECTIVE_SHUTDOWN: every rail is switched off. A fall of the input below 38 V removes it, and THERM_TRIP_N with it, also where the
rails are off already. -/
def execProtectiveShutdown (vin : Nat) (s : State) : Host.Outcome State Fault Refusal :=
  .next (if s.powered && (vin < 3800 || 5400 < vin) then
    let s := coldReset 0 true s
    { s with pins := { s.pins with power := .off, thermTrip := s.pins.thermTrip && 5400 < vin } }
  else if vin < 3800 then { s with pins := { s.pins with thermTrip := false } }
  else s)

/-! ### Cold and warm resets (R290, R291) -/

/-- LIFETIME (Table 13.15): seconds per clock step and per temperature bin, since the last such record. -/
def lifetimeRecord (s : State) : State :=
  let b := (List.range 25).flatMap fun i => leBytes 4 (tget 0 s.pwr.life i / 1000000000)
  record rLIFETIME b { s with pwr := { s.pwr with life := [] } }

/-- A warm request: cold before U4 has exited; otherwise no further command issues, and the device waits (R290, R291). -/
def requestWarm (host : Bool) (s : State) : State :=
  if s.ups.stage < 4 || (s.ups.stage = 4 && !s.ups.done) then coldReset (if host then 1 else 2) false s
  else lifetimeRecord { s with ups := { s.ups with quiesce := some (s.tim.now, if host then 3 else 4) } }

/-- No channel is offline and every retrain journal is empty. -/
def State.quiet (s : State) : Bool := (List.range 12).all fun k => (s.stack k).offline.isNone && (s.stack k).journal.isEmpty

/-- The channel of a window that has not finished: offline, or with groups to rebuild. -/
def Stack.unfinished (v : Stack) : Option Nat := v.offline.or (if v.journal.isEmpty then none else v.rebuilding)

/-- A window that a warm reset cuts short, in its training or its rebuild, ends as R151 gives: its channel stays offline. -/
def cutWindows (s : State) : State :=
  releaseHeld ((List.range 12).foldl (fun s k => match (s.stack k).unfinished with
    | some c => failChannel k c s
    | none => s) s)

/-- WARM_RESET_QUIESCED: the device is quiet, or 100 ms have passed. -/
def execWarmResetQuiesced (s : State) : Host.Outcome State Fault Refusal :=
  .next (match s.ups.quiesce with
    | some (t, cause) => if s.clocked && (s.quiet || t + 100000000 ≤ s.tim.now) then warmReset cause (cutWindows s) else s
    | none => s)

/-- What a UPS_RESET word asks for: KIND 1 cold, 2 warm, with the key. -/
def resetKind (v : Word) : Option Bool :=
  if bits v.toNat 31 16 ≠ 0xA55A then none
  else if bits v.toNat 1 0 = 1 then some false
  else if bits v.toNat 1 0 = 2 then some true
  else none

/-- A write of UPS_RESET: an installer write, whose reset comes when its record exists (R319, R325); another word than one of the two
that ask for a reset is ignored. -/
def upsReset (warm : Bool) (v : Word) (s : State) : State :=
  if s.powered && s.installerBinding.isNone then raiseSec 0 s
  else if s.clocked && resetKind v == some warm then installerWrite 0x00A00018 v.toNat (.reset warm) id s
  else s

/-- COLD_RESET. -/
def execColdReset (v : Word) (s : State) : Host.Outcome State Fault Refusal := .next (upsReset false v s)

/-- WARM_RESET. -/
def execWarmReset (v : Word) (s : State) : Host.Outcome State Fault Refusal := .next (upsReset true v s)

/-- HOST_RST_N: warm in U6 where UPS_CFG.WARM_ON_HOSTRST says so, else cold; it overrides a warm reset in progress. -/
def execHostRstN (s : State) : Host.Outcome State Fault Refusal :=
  .next (if !s.clocked then s
    else if s.ups.cfgNow.getLsbD 5 && s.ups.stage = 6 then requestWarm true s
    else coldReset 1 false s)

/-! ### Function-level reset (R216) -/

/-- FUNCTION_LEVEL_RESET: queues, tokens and bounds go; commands already issued run on without reply or token, and
QUE_STATUS.IDLE, QUE_INFLIGHT and QUE_MGMT.DEPTH still count them (DESIGN CHOICE, log 64). Of configuration space
the error status stays, as PCI Express has it (PRESUMED, log 65). -/
def functionReset (s : State) : State :=
  let (_, s) := dropBindings s
  { s with que := { ({} : Que) with flr := true, replies := s.que.replies },
           flight := s.flight.map fun c => { c with orphan := true },
           lnk := { s.lnk with msix := [], msixPending := [], held := [], holdEnd := [], pci := { ({} : Pci) with aer := s.lnk.pci.aer } } }

def execFunctionLevelReset (s : State) : Host.Outcome State Fault Refusal :=
  .next (if s.powered then functionReset s else s)

/-- What the host's configuration requests leave in the function, for which the table has no row: base addresses, Device Control and the
ECRC enables as the host chooses them (free values), and MSI-X enabled. DESIGN CHOICE, log 65. -/
def enumerate (s : State) : State :=
  let free := fun (i : Nat) => Config.freeNat (s.freeCtr + i)
  let bar := fun (i : Nat) => BitVec.ofNat 64 (free i * barSize i)
  { s with
    freeCtr := s.freeCtr + 9,
    lnk := { s.lnk with pci := { s.lnk.pci with
      bar0 := bar 0, bar2 := bar 2, bar4 := bar 4, msixEnable := true, ecrcGen := bit (free 1) 0, ecrcCheck := bit (free 3) 0,
      relaxed := bit (free 5) 0, maxPayload := 128 * 2 ^ (free 6 % 3), maxRead := 128 * 2 ^ (free 7 % 6) } } }

/-- FUNCTION_LEVEL_RESET_DONE: every command issued before it has completed; the host then sets the function up again. -/
def execFunctionLevelResetDone (s : State) : Host.Outcome State Fault Refusal :=
  .next (if s.powered && s.que.flr && s.flight.all (fun c => !c.orphan) then
    enumerate { s with que := { s.que with flr := false } } else s)

end Sys2Proof.Machine
end

