-- ==== Sys2Proof/Machine/Upsett.lean ====
section
/-! DEFINITION. Upsett (R279 to R282, R16, R165, R246, R311, R326 to R328, R349): the seven stages, their work, failures, and
the services. -/

namespace Sys2Proof.Machine

/-! ### Firmware images (R326, R327) -/

def keyX (b : List Byte) (at_ : Nat) : Nat := beNat (slice b at_ 66)

/-- Why an image does not verify: 1 a header field, hash, signature, key or revoked slot; 2 an SVN below FUSED_SVN. -/
def imageFault (c : Sec) (img : List Byte) : Option Nat :=
  let root := field img 20 1
  let len := field img 16 4
  let body := slice (img.drop 512) 0 len
  let x := keyX body 4
  let y := keyX body 70
  if field img 0 4 ≠ 0x5357464F || field img 4 4 ≠ 1 || root > 3 || len > 25165312 || len < 256 || img.length < 512 + len then some 1
  else if c.revoked.getLsbD root then some 1
  else if field body 0 4 ≠ 0x52454B59 || (slice body 136 120).any (· ≠ 0) || !onCurve x y then some 1
  else if sha512 (slice body 4 132) ≠ tget [] c.rootHashes root then some 1
  else if !ecdsaVerify x y (beNat (slice img 128 66)) (beNat (slice img 194 66)) (slice img 0 128) then some 1
  else if sha512 body ≠ slice img 64 64 then some 1
  else if field img 8 4 < c.fusedSvn then some 2
  else none

/-- A firmware slot as flash holds it: bytes that are not programmed read as 0xFF. -/
def flashImage (img : List Byte) : List Byte :=
  img ++ List.replicate (Min.min 25165824 (512 + field img 16 4) - img.length) 0xFF

def imageSvn (img : List Byte) : Nat := field img 8 4
def Sec.image (c : Sec) (slot : Bool) : List Byte := if slot then c.imageB else c.imageA
def Sec.valid (c : Sec) (slot : Bool) : Bool := if slot then c.validB else c.validA
def Sec.setImage (c : Sec) (slot : Bool) (img : List Byte) (valid : Bool) : Sec :=
  if slot then { c with imageB := img, validB := valid } else { c with imageA := img, validA := valid }

/-- Fuses have been blown: a slot that no longer verifies is not valid (R335). -/
def Sec.recheck (c : Sec) : Sec :=
  { c with validA := c.validA && (imageFault c (flashImage c.imageA)).isNone,
           validB := c.validB && (imageFault c (flashImage c.imageB)).isNone }

/-! ### Stages (R279) -/

/-- A stage's limit in ms (Table 12.1); U0's 50 ms to U5's 12 s. -/
def stageLimitMs : Nat → Nat
  | 0 => 50
  | 1 => 300
  | 2 => 3000
  | 3 => 800
  | 4 => 8000
  | _ => 12000

def State.failed (s : State) : Bool := s.ups.failCode ≠ 0

/-- A stage fails: it holds the device, and is recorded. -/
def failStage (stage code : Nat) (s : State) : State :=
  record rUPSETT [BitVec.ofNat 8 stage, BitVec.ofNat 8 code]
    (raiseUps 0 { s with ups := { s.ups with done := false, failStage := stage, failCode := code } })

/-- The ms spent so far in the stage that the device is in, saturating (R293). -/
def State.stageElapsed (s : State) : Nat := sat 4294967295 (((s.tim.now : Int) - s.ups.enteredAt).toNat / 1000000)

/-- The device leaves its stage, which has exited, for the next. -/
def enterStage (n : Nat) (s : State) : State :=
  { s with ups := { s.ups with stage := n, done := false, enteredAt := s.tim.now, exited := false,
                               stageTime := tset 0 s.ups.stageTime s.ups.stage s.stageElapsed } }

def stageDone (s : State) : State := { s with ups := { s.ups with done := true } }

/-- The module may enter stage `n`: the one before has exited. -/
def State.mayEnter (s : State) (n : Nat) : Bool :=
  s.clocked && !s.failed && s.ups.quiesce.isNone && s.ups.stage + 1 == n && s.ups.done

/-! ### U1 (R328, R332) -/

/-- The image that boots becomes the running one; measurements 2 and 3 are taken (Table 14.7), and a boot record waits for
the ledger. -/
def boot (slot fallback : Bool) (s : State) : State :=
  let img := s.sec.image slot
  let root := field img 20 1
  let s := { s with
    sec := { s.sec with running := slot, next := slot, rootSlot := root, aliasKey := s.freeCtr,
                        boot2 := sha512 (slice img 0 128 ++ slice img 64 64),
                        boot3 := sha512 (leBytes 4 s.sec.fusedSvn ++ leBytes 1 s.sec.revoked.toNat ++ leBytes 1 root) },
    ups := { s.ups with bootImage := slot } }
  let s := if fallback then raiseSec 2 s else s
  stageDone (tick <| record rFIRMWARE ([2, BitVec.ofNat 8 (b2n slot + 2 * b2n fallback)] ++ leBytes 1 (imageSvn img)) s)

/-- PCI Express is up at the end of a cold U0. Its speed and width are negotiated with the host, free values (log 3), which then sets the
function up. -/
def trainPcie (s : State) : State :=
  if s.ups.warm then s
  else
    let width := [1, 2, 4, 8, 16].getD (Config.freeNat (s.freeCtr + 1) % 5) 1
    enumerate (tick (tick { s with id := { s.id with speed := 1 + Config.freeNat s.freeCtr % 5, width, linkUp := true } }))

/-- UPSETT_U1. -/
def upsettU1 (s : State) : State :=
  if !s.mayEnter 1 then s
  else
    let s := trainPcie (enterStage 1 s)
    let okA := (imageFault s.sec (flashImage s.sec.imageA)).isNone
    let okB := (imageFault s.sec (flashImage s.sec.imageB)).isNone
    let s := { s with sec := { s.sec with validA := okA, validB := okB } }
    let first := s.sec.next
    if s.sec.valid first then boot first false s
    else if s.sec.valid (!first) then boot (!first) true s
    else failStage 1 1 { s with sec := { s.sec with recovery := { ({} : Recovery) with serves := 1 } } }

def execUpsettU1 (s : State) : Host.Outcome State Fault Refusal := .next (upsettU1 s)

/-! ### U2 (R311) -/

/-- UPS_CFG and UPS_RS_SEED as the ledger last recorded them (Table 12.6). -/
def loadSettings (s : State) : State :=
  let cfg := BitVec.ofNat 32 ((s.lgr.lastWrite 0x00A0000C).getD 0x10)
  let lo := (s.lgr.lastWrite 0x00A00010).getD 0
  let hi := (s.lgr.lastWrite 0x00A00014).getD 0
  let seed := BitVec.ofNat 64 (lo + 2 ^ 32 * hi)
  { s with ups := { s.ups with cfg, cfgNow := cfg, rsSeed := seed, rsSeedNow := seed } }

/-- The replay and what it loads; a warm reset kept the settings and the cap. -/
def replayLedger (s : State) : State :=
  match s.lgr.load with
  | none => failStage 2 2 { s with sec := { s.sec with recovery := { ({} : Recovery) with serves := 2 } } }
  | some l =>
    let s := { s with lgr := l }
    let s := if s.compactionDue then compact s else s
    let persisted := s.lgr.persistedCap
    let s := { s with pwr := { s.pwr with persisted := persisted, cap := if s.ups.warm then s.pwr.cap else persisted.getD s.ceiling } }
    let s := if s.ups.warm then s else loadSettings s
    stageDone { s with sec := { s.sec with chainAtU2 := s.lgr.chain } }

/-- UPSETT_U2. -/
def upsettU2 (s : State) : State := if s.mayEnter 2 then replayLedger (enterStage 2 s) else s

def execUpsettU2 (s : State) : Host.Outcome State Fault Refusal := .next (upsettU2 s)

/-! ### U3 (R16, R181, R183, R240) -/

/-- A die passes BIST and keeps at least 8 weave-to-weave modules and every weave-to-handle module. -/
def dieOk (d : DieResult) (weave : List (Fin 16)) : Bool :=
  d.bistOk && weave.eraseDups.length ≤ 8 && d.handleFailed.isEmpty

/-- Bridge records: bridge 0 is weave to weave, 1 and 2 join die 0 and die 1 to the handle die. -/
def recordBridges (d0 d1 : DieResult) (weave : List (Fin 16)) (s : State) : State :=
  let s := weave.eraseDups.foldl (fun s m => record rBRIDGE [0, BitVec.ofNat 8 m.val] s) s
  let s := d0.handleFailed.foldl (fun s m => record rBRIDGE [1, BitVec.ofNat 8 m.val] s) s
  d1.handleFailed.foldl (fun s m => record rBRIDGE [2, BitVec.ofNat 8 m.val] s) s

/-- A position that fails BIST is marked, with its record, and retired (R183). -/
def retireFailed (die pos : Nat) (s : State) : State :=
  if s.retired die pos then s else retire die pos (recordMark die pos byBist s)

/-- UPSETT_U3. -/
def upsettU3 (d0 d1 : DieResult) (s : State) : State :=
  if !s.mayEnter 3 then s
  else
    let s := enterStage 3 s
    let weave := d0.weaveFailed ++ d1.weaveFailed
    let s := recordBridges d0 d1 weave s
    let s := { s with plc := { s.plc with retired := s.lgr.retirements.foldl sinsert s.plc.retired } }
    let s := d0.bistFailed.foldl (fun s p => retireFailed 0 p.val s) s
    let s := d1.bistFailed.foldl (fun s p => retireFailed 1 p.val s) s
    let (_, s) := assignSpares homePositions s
    let r0 := dieOk d0 weave
    let r1 := dieOk d1 weave
    let s := { s with ups := { s.ups with dieReady := BitVec.ofNat 2 (b2n r0 + 2 * b2n r1), split := s.ups.cfgNow.getLsbD 2 } }
    if r0 && r1 then stageDone s
    else if r0 || r1 then stageDone (raiseUps 3 s)
    else failStage 3 3 s

def execUpsettU3 (d0 d1 : DieResult) (s : State) : Host.Outcome State Fault Refusal := .next (upsettU3 d0 d1 s)

/-! ### U4 (R165) -/

/-- Whether a margin is below a minimum of Table 7.11. -/
def marginBelow (m : Margin) : Bool :=
  m.readEye.toNat < 16 || m.writeEye.toNat < 16 || m.vrefLow.toNat < 6 || m.vrefHigh.toNat < 6

/-- A margin record (Table 7.11). -/
def marginBytes (k c pc : Nat) (m : Margin) (ppr : Bool) (temp : Int) (time : Nat) : List Byte :=
  leBytes 2 (k + 16 * c + 256 * pc) ++ [m.readEye, m.writeEye, m.vrefLow, m.vrefHigh, BitVec.ofNat 8 (b2n (marginBelow m) + 2 * b2n ppr),
    BitVec.ofInt 8 temp] ++ leBytes 8 time

/-- A stack enters service with the fault that the ledger already records. -/
def loadHealth (k : Nat) (s : State) : State :=
  modStack k (fun v => { v with health := if v.failedDie.isSome || v.failedChan.isSome then .degraded else .healthy }) s

/-- Channels newly below a minimum that leave the stack without a correctable state: each is recorded, and the stack fails. -/
def failChannels (k : Nat) (cs : List Nat) (s : State) : State :=
  setHealth k .failed (cs.foldl (fun s c => record rHBM_FAULT [BitVec.ofNat 8 k, 1, BitVec.ofNat 8 c] s) s)

/-- A scanned channel with a pseudo-channel below a minimum. -/
def scanBelow (e : Fin 16 × Margin × Margin) : Bool := marginBelow e.2.1 || marginBelow e.2.2

/-- The margin records of one scan of a stack (R165). -/
def recordScan (k : Nat) (temp : Int) (l : List (Fin 16 × Margin × Margin)) (s : State) : State :=
  l.foldl (fun s e =>
    record rMARGIN (marginBytes k e.1 1 e.2.2 false temp s.tim.now) (record rMARGIN (marginBytes k e.1 0 e.2.1 false temp s.tim.now) s)) s

/-- One stack's training and bring-up scan: a channel below a minimum is retrained once and scanned again (R165). -/
def trainStack (k : Nat) (r : StackResult) (s : State) : State :=
  if !s.ups.dieReady.getLsbD (k / 6) then s
  else
    let (dead, die, chan) := s.lgr.stackFaults k
    let s := modStack k (fun v => { v with pprUsed := s.lgr.repairs k, failedDie := die,
                                           failedChan := if die.isSome then none else chan }) s
    if dead then modStack k (fun v => { v with health := .failed }) s
    else if !r.trains then setHealth k .failed s
    else
      let scanned := fun (c : Nat) => some c ≠ chan && some (c / 2) ≠ die
      let first := r.margins.filter fun e => scanned e.1
      let low := first.filter scanBelow
      let again := r.again.filter fun e => low.any fun x => x.1 == e.1
      let s := recordScan k r.temp again (recordScan k r.temp first s)
      let s := modStack k (fun v => { v with trained := true }) s
      let s := { s with pwr := { s.pwr with hbm := tset 0 s.pwr.hbm k r.temp } }
      let new := distinct ((low.filter fun e => (again.find? fun x => x.1 == e.1).all scanBelow).map fun e => e.1.val)
      if new.isEmpty then loadHealth k s
      else if die.isSome || chan.isSome then failChannels k new s
      else
        match new with
        | [c] => failChannel k c s
        | [c, d] =>
          if c / 2 ≠ d / 2 then failChannels k new s
          else
            let s := modStack k (fun v => { v with failedDie := some (c / 2) }) s
            setHealth k .degraded (record rHBM_FAULT [BitVec.ofNat 8 k, 0, BitVec.ofNat 8 (c / 2)] s)
        | _ => failChannels k new s

/-- UPSETT_U4: one pair of stacks, s and s + 6, in ascending order; with the last pair the stage exits. -/
def upsettU4 (pair : Nat) (lo hi : StackResult) (s : State) : State :=
  let s := if s.mayEnter 4 then
      let s := enterStage 4 s
      if s.ups.warm then s else { s with store := { s.store with valid := s.store.valid.filter fun i => !isHbm i } }
    else s
  if !s.clocked || s.failed || s.ups.stage ≠ 4 || s.ups.pairs.length ≠ pair then s
  else
    let s := trainStack (pair + 6) hi (trainStack pair lo s)
    let s := { s with ups := { s.ups with pairs := s.ups.pairs ++ [pair] } }
    if pair = 5 then stageDone s else s

def execUpsettU4 (pair : Fin 6) (lo hi : StackResult) (s : State) : Host.Outcome State Fault Refusal := .next (upsettU4 pair lo hi s)

/-! ### U5 (R246, R349) -/

/-- The domain role: UPS_CFG.ROLE, or the straps where it is 0. -/
def State.roleSetting (s : State) : DomainRole :=
  match bits s.ups.cfgNow.toNat 1 0 with
  | 1 => .standalone
  | 2 => .rib
  | 3 => .rim
  | _ =>
    match s.pins.strapA, s.pins.strapB with
    | true, false => .rib
    | false, true => .rim
    | _, _ => .standalone

/-- Enabled ports begin training; the others are disabled. -/
def startPorts (s : State) : State :=
  (List.range 12).foldl (fun s p =>
    s.setPort p ((s.port p).into (if s.lnk.portEn.getLsbD p then .training else .disabled) s.tim.now)) s

/-- UPSETT_U5. -/
def upsettU5 (s : State) : State :=
  if !s.mayEnter 5 then s
  else
    let s := enterStage 5 s
    startPorts { s with tim := { s.tim with role := s.roleSetting } }

def execUpsettU5 (s : State) : Host.Outcome State Fault Refusal := .next (upsettU5 s)

/-- U5's exit condition: no port still trains, and on a RIB rim time is LOCKED or 10 s have passed since the first port came up. -/
def State.u5Exit (s : State) : Bool :=
  (List.range 12).all (fun p => (s.port p).state ≠ .training) &&
    (s.tim.role ≠ .rib || s.tim.time == .locked ||
      (match s.lnk.firstPortAt with
       | some t => t + 10000000000 ≤ s.tim.now
       | none => false))

/-- A stage that the device is still in has exited; in U5 the device may stay after its exit, which holds for good (R280). -/
def State.stageExited (s : State) : Bool := s.ups.stage = 5 && (s.ups.exited || s.u5Exit)

/-- U5 exits as soon as its condition holds. -/
def noteExit (s : State) : State :=
  if s.ups.stage = 5 && !s.ups.exited && s.u5Exit then { s with ups := { s.ups with exited := true } } else s

/-! ### Services (R280, R281) -/

/-- Both dies ready and no stack FAILED. -/
def State.whole (s : State) : Bool := s.ups.dieReady == 3 && (List.range 12).all fun k => (s.stack k).health ≠ .failed

/-- UPSETT_U6: full service. -/
def upsettU6 (s : State) : State :=
  if !s.clocked || s.failed || s.ups.quiesce.isSome || !s.stageExited || !s.whole then s
  else
    let s := { s with lgr := { s.lgr with hourAt := if s.ups.service = 0 then s.tim.now else s.lgr.hourAt } }
    let s := stageDone (enterStage 6 s)
    notify 0 (raiseUps 2 { s with ups := { s.ups with service := 2 } })

def execUpsettU6 (s : State) : Host.Outcome State Fault Refusal := .next (upsettU6 s)

/-- A ready die has two trained stacks attached. -/
def State.dieServes (s : State) (d : Nat) : Bool :=
  s.ups.dieReady.getLsbD d && (dieStacks d).countP (fun k => (s.stack k).trained) ≥ 2

/-- REDUCED_SERVICE. -/
def reducedService (s : State) : State :=
  let u3Exited := s.ups.stage ≥ 4 || (s.ups.stage = 3 && s.ups.done)
  if s.clocked && s.ups.quiesce.isNone && s.ups.service = 0 && s.ups.stage < 6 && s.ups.cfgNow.getLsbD 4 && u3Exited &&
      (s.dieServes 0 || s.dieServes 1) then
    let s := { s with ups := { s.ups with service := 1 }, tns := { s.tns with rsSeed := s.ups.rsSeedNow },
                      lgr := { s.lgr with hourAt := s.tim.now } }
    notify 0 (raiseUps 1 (record rUPSETT [BitVec.ofNat 8 s.ups.stage, 0] s))
  else s

def execReducedService (s : State) : Host.Outcome State Fault Refusal := .next (reducedService s)

/-- STAGE_LIMIT: the stage in force has taken longer than its limit. -/
def stageLimit (s : State) : State :=
  if s.clocked && !s.failed && s.ups.stage < 6 && !s.stageExited &&
      s.ups.enteredAt + stageLimitMs s.ups.stage * 1000000 < s.tim.now then
    failStage s.ups.stage 4 s
  else s

def execStageLimit (s : State) : Host.Outcome State Fault Refusal := .next (stageLimit s)

end Sys2Proof.Machine
end

