-- ==== Sys2Proof/Machine/Patrol.lean ====
section
/-! DEFINITION. Memory maintenance (R144 to R154, R164): scrubbing, localisation, retrain windows, rebuilds, margin scans. -/

namespace Sys2Proof.Machine

/-! ### Lines by name (R143) -/

/-- The tensor line of a location that a line in its range is. -/
def Location.index (l : Location) (id : Nat) : Nat :=
  match l with
  | .across ms rot base =>
    let n := ms.length
    let p := (firstIdx (fun k => k == lineStack id) ms).getD 0
    (lineNo id - base) * n + (p + n - rot % n) % n
  | .hoop h base => id - hoopLine h base

/-- The handle and offset of a line, HANDLE 0xFFFF_FFFF for a line in no handle. -/
def State.nameOf (s : State) (id : Nat) : LineName :=
  let here := fun (e : Nat × Desc) (l : Location) =>
    let i := l.index id
    if l.covers e.2.lines id && i < e.2.lines && s.lineOf e.1 e.2 i == id then some ({ handle := e.2.handle, offset := i * 512 } : LineName) else none
  let found := s.plc.map.findSome? fun e =>
    (here e e.2.location).or (match s.plc.current with
      | some m => if m.index = e.1 then here e m.newLoc else none
      | none => none)
  found.getD { handle := 0xFFFFFFFF, offset := 0 }

/-- An uncorrectable line that no command met is reported (R145). -/
def reportFound (id : Nat) (s : State) : State := (reportUncorr (s.nameOf id) id s).2

/-! ### Scrubbing (R153, R154) -/

/-- A stack's scrub slots: T - s × floor(I / 12) is a multiple of I. -/
def State.scrubSlot (s : State) (k : Nat) : Bool :=
  let i := Max.max 500 s.mem.scrubNow
  ((s.tim.now : Int) - (k * (i / 12) : Nat)) % (i : Int) == 0

/-- One line read and decoded, whether written or not, poisoned or not. -/
def scrubRead (k n : Nat) (s : State) : State :=
  let id := hbmLine k n
  let s := count 2 k 10 1 s
  if n < dataLines then
    match decodeLine id (s.nameOf id) true s with
    | (.uncorrectable, s) => reportFound id s
    | (_, s) => s
  else
    match readCheck k n true s with
    | (true, s) => reportFound id s
    | (false, s) => s

/-- SCRUB_SLOT. -/
def scrub (k : Nat) (s : State) : State :=
  let v := s.stack k
  if s.clocked && s.mem.ctrl.getLsbD 1 && v.trained && s.ups.stage ≥ 4 && v.health ≠ .failed && s.scrubSlot k && v.lastScrub ≠ some s.tim.now then
    let n := v.scrubLine
    let s := modStack k (fun v => { v with scrubLine := (n + 1) % linesPerStack, lastScrub := some s.tim.now }) s
    scrubRead k n { s with mem := { s.mem with scrubNow := Max.max 500 s.mem.scrubInterval } }
  else s

def execScrubSlot (stack : Fin 12) (s : State) : Host.Outcome State Fault Refusal := .next (unlessOver (scrub stack) s)

/-! ### Localisation (R144) -/

/-- DIE_LOCALISATION: a data line of a HEALTHY stack holds an uncorrectable pattern. -/
def dieLocalisation (k n : Nat) (s : State) : State :=
  let id := hbmLine k n
  if s.clocked && n < dataLines && (s.stack k).trained && (s.stack k).health == .healthy && !(s.stack k).poisoned n &&
      decodePlain id (s.faultsOf id) == .uncorrectable then
    match localise id (s.nameOf id) s with
    | (some _, s) => s
    | (none, s) => reportFound id (uncorrectableLine id true s)
  else s

def execDieLocalisation (stack : Fin 12) (line : Nat) (s : State) : Host.Outcome State Fault Refusal :=
  .next (dieLocalisation stack line s)

/-! ### Retrain windows (R149 to R152) -/

/-- No channel of the device is offline. -/
def State.noneOffline (s : State) : Bool := (List.range 12).all fun k => (s.stack k).offline.isNone

/-- Whether a window of this channel is booked or waits. -/
def State.windowBooked (s : State) (k c : Nat) : Bool :=
  (s.stack k).booked.contains c ||
    s.sched.any fun e => e.1 ≥ 48 && e.2.body.kind == 6 && e.2.body.arg0.toNat % 256 == k + 16 * c && e.2.next == 0

/-- Firmware books a window in the lowest empty of its entries; when it falls is firmware's choice (free value, log 5). With
no entry free the window waits. -/
def bookWindow (k c : Nat) (s : State) : State :=
  if s.windowBooked k c then s
  else
    match ((List.range 16).map (· + 48)).find? fun i => (match tfind s.sched i with | none => true | some e => e.next ≠ 0) with
    | some i =>
      let b : EntryBody := { kind := 6, arg0 := BitVec.ofNat 32 (k + 16 * c), start := s.tim.now + Config.freeNat s.freeCtr,
                             period := 0, count := 1, arg1 := 0 }
      let s := tick s
      { s with sched := tinsert s.sched i { body := b, next := 0 } }
    | none => modStack k (fun v => { v with booked := v.booked ++ [c] }) s

/-- A scan is over when no channel is left to it but those of stacks that can run no window any more. -/
def State.scanOver (s : State) (left : List (Nat × Nat)) : Bool :=
  left.all fun e => (s.stack e.1).health == .degraded || (s.stack e.1).health == .failed

/-- The next channels of a scan whose stack can run no window are passed over. -/
def passOver (s : State) : List (Nat × Nat) → List (Nat × Nat)
  | [] => []
  | e :: t => if (s.stack e.1).health == .degraded || (s.stack e.1).health == .failed then passOver s t else e :: t

/-- A scan whose next channel can run no window goes on to the next that can. -/
def advanceScans (s : State) : State :=
  s.flight.foldl (fun s i => match i.wait with
    | .margins left h off w b =>
      let left' := passOver s left
      if left' = left then s
      else
        let s := setInflight i.id (fun i => { i with wait := .margins left' h off w b }) s
        (match left' with
         | (k, c) :: _ => bookWindow k c s
         | [] => s)
    | _ => s) s

/-- STACK_INTERFACE_LOSS. -/
def execStackInterfaceLoss (stack : Fin 12) (s : State) : Host.Outcome State Fault Refusal :=
  .next (if s.powered && s.ups.stage ≥ 4 && (s.stack stack).health ≠ .failed then
    releaseHeld (advanceScans (setHealth stack .failed s)) else s)

/-- The window of a channel starts, or waits (R149 points 1 and 2). -/
def startWindow (k c : Nat) (s : State) : State :=
  if s.noneOffline && (s.stack k).health == .healthy && (s.stack k).trained then
    let s := modStack k (fun v => { v with offline := some c, offlineAt := s.tim.now, booked := v.booked.filter (· ≠ c) }) s
    setHealth k .retraining s
  else if (s.stack k).booked.contains c then s
  else modStack k (fun v => { v with booked := v.booked ++ [c] }) s

/-- RETRAIN_EVALUATION: each second of rim time the channel's corrected bursts are compared with the threshold. -/
def retrainEvaluation (k c : Nat) (s : State) : State :=
  let v := s.stack k
  if s.clocked && s.ups.stage ≥ 4 && tget 0 v.evaluated c + 1000000000 ≤ s.tim.now then
    let n := tget 0 v.burstCe c
    let s := modStack k (fun v => { v with evaluated := tset 0 v.evaluated c s.tim.now, burstCe := terase v.burstCe c }) s
    if s.mem.ctrl.getLsbD 2 && v.health ≠ .degraded && v.health ≠ .failed && Max.max 1 s.mem.retrainThresh < n then bookWindow k c s else s
  else s

def execRetrainEvaluation (stack : Fin 12) (channel : Fin 16) (s : State) : Host.Outcome State Fault Refusal :=
  .next (retrainEvaluation stack channel s)

/-- RETRAIN_WINDOW: a window that waits starts when no other channel is offline. -/
def execRetrainWindow (stack : Fin 12) (channel : Fin 16) (s : State) : Host.Outcome State Fault Refusal :=
  .next (if s.clocked && (s.stack stack).booked.contains channel.val then advanceScans (startWindow stack channel s) else s)

/-- MARGIN_INSTANCE: the window of the channel in ARG0 begins. -/
def execMarginInstance (entry : Fin 64) (s : State) : Host.Outcome State Fault Refusal :=
  .next (match s.firing entry 6 with
    | some b => if s.clocked then startWindow (b.arg0.toNat % 16) (b.arg0.toNat / 16 % 16) (fireNext entry s) else s
    | none => s)

/-- The scan that has a channel's window as its next. -/
def State.scanOf (s : State) (k c : Nat) : Option InFlight :=
  s.flight.find? fun i => match i.wait with
    | .margins (x :: _) _ _ _ _ => x == (k, c)
    | _ => false

/-- A scan's records of one channel: two in the ledger, two at its destination (R164); then it books its next channel. -/
def scanChannel (k c : Nat) (lo hi : Margin) (ppr : Bool) (time : Nat) (s : State) : State :=
  match s.scanOf k c with
  | some i =>
    (match i.wait with
     | .margins (_ :: left) h off w b =>
       let t := tget 0 s.pwr.hbm k
       let r0 := marginBytes k c 0 lo ppr t time
       let r1 := marginBytes k c 1 hi ppr t time
       let s := record rMARGIN r1 (record rMARGIN r0 s)
       let (f, s) := writeHeld { handle := h, offset := off + 16 * w, bytes := r0 ++ r1, bar4 := false } s
       let s := setInflight i.id (fun i =>
         { i with wait := .margins left h off (w + 2) (b + b2n (marginBelow lo) + b2n (marginBelow hi)), progress := s.tim.now, steps := i.steps + 1,
                  status := match f with | some e => if i.status = 0 then BitVec.ofNat 16 e.status else i.status | none => i.status,
                  detail := match f with | some e => if i.status = 0 then BitVec.ofNat 64 e.detail else i.detail | none => i.detail }) s
       match left with
       | (k, c) :: _ => bookWindow k c s
       | [] => s
     | _ => s)
  | none => s

/-- CHANNEL_RETURN: the channel has passed training, with any hard repair; its rebuild starts. -/
def channelReturn (k : Nat) (repair : Option Repair) (lo hi : Margin) (s : State) : State :=
  let v := s.stack k
  match v.offline with
  | some c =>
    if !s.clocked || v.health ≠ .retraining || v.offlineAt + 50000000 < s.tim.now then s
    else
      let s := record rRETRAIN ([BitVec.ofNat 8 k, BitVec.ofNat 8 c] ++ leBytes 4 ((s.tim.now - v.offlineAt) / 1000) ++ leBytes 4 v.journal.length) s
      let s := match repair with
        | some r =>
          modStack k (fun v => { v with pprUsed := sat 255 (v.pprUsed + 1) })
            (record rPPR ([BitVec.ofNat 8 k, BitVec.ofNat 8 c, BitVec.ofNat 8 r.pseudo.val] ++ leBytes 1 r.bank ++ leBytes 4 r.row) s)
        | none => s
      let s := count 2 k 14 1 s
      let s := modStack k (fun v => { v with offline := none, rebuilding := some c }) s
      releaseHeld (scanChannel k c lo hi repair.isSome v.offlineAt s)
  | none => s

def execChannelReturn (stack : Fin 12) (repair : Option Repair) (lo hi : Margin) (s : State) : Host.Outcome State Fault Refusal :=
  .next (channelReturn stack repair lo hi s)

/-- CHANNEL_OFFLINE_LIMIT: a channel that has not passed training in 50 ms stays offline. -/
def channelLimit (k : Nat) (s : State) : State :=
  let v := s.stack k
  match v.offline with
  | some c =>
    if s.clocked && v.offlineAt + 50000000 ≤ s.tim.now then
      releaseHeld <| advanceScans <| failChannel k c (record rRETRAIN ([BitVec.ofNat 8 k, BitVec.ofNat 8 c] ++ leBytes 4 50000 ++ leBytes 4 v.journal.length) s)
    else s
  | none => s

def execChannelOfflineLimit (stack : Fin 12) (s : State) : Host.Outcome State Fault Refusal := .next (channelLimit stack s)

/-- Burst `c` of a line is written anew with the check bytes that go with it. -/
def writeBurst (c id : Nat) (s : State) : State :=
  let rest := (s.faultsOf id).filter fun f => symbolBurst f.1 f.2.1 ≠ c
  { s with store := { s.store with faults := tset [] s.store.faults id rest } }

/-- One line of the rebuild: read with burst `c` erased, then burst `c` written (R152); an unwritten line is not read (R149). -/
def rebuildLine (c k n : Nat) (s : State) : State :=
  let id := hbmLine k n
  if n < dataLines then
    if !s.valid id then s
    else
      match decodeLine id (s.nameOf id) false s with
      | (.uncorrectable, s) => reportFound id s
      | (_, s) => writeBurst c id s
  else
    match readCheck k n false s with
    | (true, s) => reportFound id s
    | (false, s) => writeBurst c id s

/-- The lines of a group of 16; the last group of a stack is short (R152). -/
def groupLines (g : Nat) : List Nat := ((List.range 16).map (· + 16 * g)).filter (· < linesPerStack)

/-- REBUILD_COMPLETE: every line of every journaled group is rebuilt, and the stack is HEALTHY. -/
def rebuild (k : Nat) (s : State) : State :=
  let v := s.stack k
  match v.rebuilding with
  | some c =>
    if !s.clocked || v.health ≠ .retraining || v.offline.isSome then s
    else
      let s := (meetHandle useJournal s).2
      let s := v.journal.foldl (fun s g => (groupLines g).foldl (fun s n => rebuildLine c k n s) s) s
      let s := count 2 k 13 ((v.journal.map fun g => (groupLines g).length).sum) s
      if (s.stack k).health == .retraining then
        setHealth k .healthy (modStack k (fun v => { v with rebuilding := none, journal := [] }) s)
      else s
  | none => s

def execRebuildComplete (stack : Fin 12) (s : State) : Host.Outcome State Fault Refusal := .next (rebuild stack s)

/-! ### MARGIN_SCAN (R164, Table 9.13) -/

/-- The channels that the masks name, stacks and channels ascending. -/
def scanList (stackMask channels : Nat) : List (Nat × Nat) :=
  ((List.range 12).filter (bit stackMask)).flatMap fun k => ((List.range 16).filter (bit channels)).map fun c => (k, c)

def planMarginScan (p : Packet) (c : InFlight) : Cmd Plan := do
  reservedZero p [(17, 17, 0xF0), (30, 63, 0xFF)]
  let l := scanList (p.num 16 2) (p.num 18 2)
  let h := p.handle 20
  requireLive h
  require (!l.isEmpty) VALUE_INVALID (if p.num 16 2 = 0 then 16 else 18)
  let s ← get
  match l.find? fun e => (s.stack e.1).health ≠ .healthy with
  | some e => refuse STACK_NOT_HEALTHY e.1
  | none => pure ()
  require s.noneOffline RETRAIN_BUSY
  checkExtent h (p.num 24 6) (32 * l.length)
  require (p.num 24 6 % 16 == 0) ALIGNMENT 24
  pure { outs := [(h, p.num 24 6, 32 * l.length)], names := [h],
         run := do
           upd fun s => roleAction (s.actor c) 0x12 (slice p.params 0 14) (.command c.id (.marginScan l h (p.num 24 6))) s
           pure { wait := .record } }

/-- MARGIN_SCAN: the scan starts when its record exists (R325). -/
def execMarginScan (q : Fin 64) (p : Packet) (s : State) : Host.Outcome State Fault Refusal :=
  .next (issueF q 0x86 p (planMarginScan p) s)

/-- The scan's effect: it waits for its channels, and books the first. -/
def startScan (id : Nat) (l : List (Nat × Nat)) (h : BitVec 32) (off : Nat) (s : State) : State :=
  let s := setInflight id (fun i => { i with wait := .margins l h off 0 0 }) s
  match l with
  | (k, c) :: _ => bookWindow k c s
  | [] => s

end Sys2Proof.Machine
end

