-- ==== Sys2Proof/Machine/Registers.lean ====
section
/-! DEFINITION. BAR0 as it reads (R8, R10, R25, R279 and the register maps of each chapter): the 32-bit word at every
offset. -/

namespace Sys2Proof.Machine

/-! ### Which registers respond (Table 12.1) -/

/-- LNK_ registers that respond only from U5: LNK_CTRL and LNK_PORT (R352). -/
def lateLink (off : Nat) : Bool := off = 0x00400000 || (0x00400100 ≤ off && off < 0x00400130)

/-- The stage from which the block of an offset responds. -/
def blockStage (off : Nat) : Nat :=
  if off < 0x00010000 then 0
  else if off < 0x00300000 then 3
  else if off < 0x00400000 then 4
  else if off < 0x00500000 then (if lateLink off then 5 else 0)
  else if off < 0x00600000 then 5
  else if off < 0x00700000 then 0
  else if off < 0x00900000 then 2
  else if off < 0x00A00000 then 1
  else 0

def State.responds (s : State) (off : Nat) : Bool := s.powered && blockStage off ≤ s.ups.stage

/-! ### Words of each block -/

def lo32 (n : Nat) : Nat := n % 2 ^ 32
def hi32 (n : Nat) : Nat := n / 2 ^ 32 % 2 ^ 32
def int8 (i : Int) : Nat := (i % 256).toNat

/-- ID_ (Table 15.8). -/
def idWord (s : State) (o : Nat) : Nat :=
  match o with
  | 0x00 => s.id.orderCode.toNat + 65536 * s.id.stepping.toNat
  | 0x04 => lo32 s.id.deviceId.toNat
  | 0x08 => hi32 s.id.deviceId.toNat
  | 0x0C => lo32 s.id.mac.toNat / 16 * 16
  | 0x10 => hi32 s.id.mac.toNat
  | 0x14 =>
    let d := match s.pins.strapA, s.pins.strapB with
      | true, false => 2
      | false, true => 3
      | _, _ => 1
    b2n s.pins.strapA + 2 * b2n s.pins.strapB + 4 * d
  | 0x18 => s.id.speed % 16 + 16 * (s.id.width % 32) + 512 * b2n s.id.linkUp
  | _ => 0

/-- QUE_RETIRED (R200): commands of the queue completed in an unbroken ring-order prefix. -/
def State.retiredCount (s : State) (q : Nat) : Nat :=
  ((s.inflight q).filter fun c => !c.orphan).foldl (fun m c => Min.min m c.ordinal) (s.queue q).issued

/-- A queue's registers (Tables 9.16 to 9.19). -/
def queueWord (s : State) (q o : Nat) : Nat :=
  let v := s.queue q
  match o with
  | 0x00 => b2n v.enable + 2 * b2n v.loc + 4 * v.seqr + 16 * v.priority + 64 * b2n v.stopOnError + 256 * v.sqLog2 + 65536 * v.cqLog2
  | 0x04 => b2n (s.idleQueue q) + 2 * b2n v.phase + 4 * (v.status.bits.toNat % 16) + 256 * v.role
  | 0x08 => lo32 v.sqBase.toNat
  | 0x0C => hi32 v.sqBase.toNat
  | 0x10 => v.sqHandle.toNat
  | 0x14 => lo32 v.cqBase.toNat
  | 0x18 => hi32 v.cqBase.toNat
  | 0x1C => v.cqHandle.toNat
  | 0x20 => v.sqHead + 65536 * v.sqTail
  | 0x24 => v.cqTail + 65536 * v.cqHead
  | 0x28 => lo32 (s.retiredCount q)
  | 0x2C => (s.inflight q).length % 1024
  | 0x30 => v.status.setsWord 0
  | _ => 0

/-- QUE_ (Table 9.16, Table 9.20). -/
def queWord (s : State) (o : Nat) : Nat :=
  if o < 0x1000 then queueWord s (o / 64) (o % 64)
  else if o = 0x1008 then s.mgmtDepth + 65536 * s.que.peak
  else if 0x2000 ≤ o && o < 0x3000 then
    let w := (o - 0x2000) / 4
    ((List.range 32).map fun b => b2n (tget false s.que.tokens (32 * w + b)) * 2 ^ b).sum
  else 0

/-- SEQ_STATE.STATE (Table 9.22). A sequencer with a command in flight is not idle; a head in host memory that has not come yet counts as
waiting for nothing of its own (log 17). -/
def State.seqStateCode (s : State) (n : Nat) : Nat :=
  let waiting := s.que.queues.filter fun e => e.2.enable && e.2.seqr == n && e.2.sqHead ≠ e.2.sqTail
  if s.seq.status.bits.getLsbD n then 3
  else if s.seq.frozen then 4
  else if waiting.isEmpty then b2n (s.flight.any fun c => c.seqr == n)
  else if waiting.any fun e => headReady s e.1 || (canIssue s e.1 && (headWaits s e.1).isNone) then 1
  else 2

/-- SEQ_ (Tables 9.21 and 9.22). -/
def seqWord (s : State) (o : Nat) : Nat :=
  if o < 0x400 then
    let n := o / 256
    let z := s.sequencer n
    match o % 256 with
    | 0x00 => s.seqStateCode n + 256 * z.lastQueue + 65536 * z.lastOpcode
    | 0x04 => z.lastTag.toNat
    | 0x08 => z.issued
    | 0x0C => s.flight.countP fun c => c.seqr == n
    | _ => 0
  else
    match o with
    | 0x1000 => s.seq.wdog
    | 0x1004 => s.seq.status.bits.toNat % 16
    | 0x1008 => s.seq.status.setsWord 0
    | _ => 0

/-- A ladder register: the staged word with the current index (Table 5.15). -/
def ladderWord (s : State) (l k : Nat) : Nat :=
  let w := ((s.tns.staged.layer l).ladder k).toNat % 2 ^ 20
  w + 2 ^ 20 * (s.ladder l k).cur

/-- TNS_ (Tables 5.9 to 5.18). -/
def tnsWord (s : State) (o : Nat) : Nat :=
  let c := s.tns.staged
  if 0x10000 ≤ o && o < 0x50000 then
    let l := (o - 0x10000) / 64
    let e := c.layer l
    match o % 64 with
    | 0x00 => ladderWord s l 0
    | 0x04 => ladderWord s l 1
    | 0x08 => ladderWord s l 2
    | 0x0C => e.policy.toNat
    | 0x10 => e.upThr.toNat
    | 0x14 => e.cleanThr.toNat
    | 0x18 => e.shadowTol.toNat
    | 0x1C => e.runloss.toNat
    | 0x20 => (s.ladder l 0).clean + 256 * (s.ladder l 1).clean + 65536 * (s.ladder l 2).clean
    | _ => 0
  else
    match o with
    | 0x00 => c.ctrl.toNat
    | 0x04 => s.tns.status.bits.toNat % 4 + 65536 * tget 0 s.tns.status.sets 0 + 16777216 * tget 0 s.tns.status.sets 1
    | 0x08 => s.tns.floor + 65536 * s.tns.stormFree
    | 0x0C => s.tns.roundReweaves
    | 0x10 => c.budget.toNat
    | 0x14 => c.decay.toNat
    | 0x18 => c.layerCount.toNat
    | 0x20 => c.sumHandle.toNat
    | 0x24 => c.sumOffLo.toNat
    | 0x28 => c.sumOffHi.toNat
    | _ => 0

/-- A span put in its place by its start. -/
def insertSpan (e : Nat × Nat) : List (Nat × Nat) → List (Nat × Nat)
  | [] => [e]
  | x :: t => if e.1 ≤ x.1 then e :: x :: t else x :: insertSpan e t

/-- How many numbers from `done` on lie in one or more of the spans, which come in the order of their starts. -/
def unionLength (done : Nat) : List (Nat × Nat) → Nat
  | [] => 0
  | (a, b) :: t => (b - Max.max a done) + unionLength (Max.max b done) t

/-- PLC_FREE (Table 8.9): 512 × the free data lines of the stacks that can take new placements; a line that two locations share, as a
migration's new one may with the old (R186), counts once. -/
def State.freeBytes (s : State) : Nat :=
  let spans := s.holdings.map fun e => e.1.span e.2
  512 * (((List.range 12).filter s.eligible).map fun k =>
    dataLines - unionLength 0 (((spans.filter fun e => e.1.contains k).map (·.2)).foldr insertSpan [])).sum

/-- The spares of a die that stand in for a retired position. -/
def State.sparesUsed (s : State) (d : Nat) : Nat :=
  s.plc.spares.countP fun e => e.1 / 4 == d && s.retired d (homePosition e.2)

/-- PLC_ (Tables 8.6 to 8.10). -/
def plcWord (s : State) (o : Nat) : Nat :=
  let p := s.plc
  let unmapped := fun (d w b : Nat) => w * 32 + b < 96 && s.unmapped (d * 96 + w * 32 + b)
  if 0x140 ≤ o && o < 0x180 then field p.descData (o - 0x140) 4
  else if 0x50 ≤ o && o < 0x70 then
    ((List.range 32).map fun b => b2n (unmapped ((o - 0x50) / 16) ((o - 0x50) % 16 / 4) b) * 2 ^ b).sum
  else
    match o with
    | 0x00 => p.ctrl.toNat
    | 0x04 => p.status.bits.toNat % 8
    | 0x08 => p.status.setsWord 0 % 2 ^ 24
    | 0x0C => p.epoch
    | 0x10 => p.map.countP fun e => e.2.state ≠ .releasing
    | 0x14 => lo32 s.freeBytes
    | 0x18 => hi32 s.freeBytes % 65536
    | 0x1C => p.migBudget.toNat
    | 0x20 => ((p.current.bind fun m => tfind p.map m.index).map fun d => d.handle.toNat).getD 0
    | 0x24 => (p.current.map (·.pointer)).getD 0
    | 0x28 => (p.pendingMig + p.taken.length) % 2 ^ 17
    | 0x30 => p.resLimit.toNat
    | 0x34 => p.retireLimit.toNat
    | 0x40 => p.retired.countP (· < 100) + 256 * s.sparesUsed 0 + 65536 * (List.range 96).countP s.unmapped
    | 0x44 => p.retired.countP (100 ≤ ·) + 256 * s.sparesUsed 1 + 65536 * ((List.range 96).map (· + 96)).countP s.unmapped
    | 0x100 => p.descSel
    | _ => 0

/-- MEM_STACK_HEALTH (Table 7.17). -/
def healthWord (v : Stack) : Nat :=
  let chan := v.offline.or v.failedChan
  v.health.code + 8 * b2n v.failedDie.isSome + 16 * v.failedDie.getD 0 + 128 * b2n chan.isSome + 256 * chan.getD 0 +
    4096 * b2n (v.offline.isNone && v.failedChan.isSome) + 65536 * v.pprUsed

/-- A word of the correctable-error table (Table 7.16). -/
def ceWord (s : State) (i o : Nat) : Nat :=
  match s.mem.ceTable[i]? with
  | none => 0
  | some e =>
    match o with
    | 0 => e.handle.toNat
    | 4 => lo32 e.offset
    | 8 => hi32 e.offset % 65536
    | _ => e.codewords % 64 + 64 * b2n e.scrub + 128 + 65536 * e.hits

/-- MEM_ (Tables 7.12 to 7.17). -/
def memWord (s : State) (o : Nat) : Nat :=
  let m := s.mem
  if 0x1000 ≤ o && o < 0x1180 then
    let v := s.stack ((o - 0x1000) / 32)
    match o % 32 with
    | 0 => healthWord v
    | 4 => v.journal.length
    | 8 => v.ce
    | 12 => v.uncorr
    | _ => 0
  else if 0x100 ≤ o && o < 0x500 then ceWord s ((o - 0x100) / 16) (o % 16)
  else
    match o with
    | 0x00 => m.ctrl.toNat
    | 0x04 => m.status.bits.toNat % 16
    | 0x08 => m.status.setsWord 0
    | 0x0C => m.scrubInterval
    | 0x10 => m.retrainThresh
    | 0x14 => m.failLimit
    | 0x18 => m.ceTable.length + 256 * m.ceOverflow
    | _ => 0

/-- LNK_PORT.STATE (Table 15.9). -/
def PortState.code : PortState → Nat
  | .absent => 0
  | .training => 1
  | .eight => 2
  | .low => 3
  | .high => 4
  | .down => 5
  | .disabled => 6

/-- An MSI-X table word (R342); vector control words reset masked. -/
def msixWord (s : State) (i : Nat) : Nat := (tget (if i % 4 = 3 then 1 else 0) s.lnk.msix i).toNat

/-- LNK_ (Table 15.9). -/
def lnkWord (s : State) (o : Nat) : Nat :=
  let l := s.lnk
  if 0x100 ≤ o && o < 0x130 then
    let p := s.port ((o - 0x100) / 4)
    p.state.code + 256 * p.lanes.toNat + 65536 * p.ptp.val
  else if 0x1000 ≤ o && o < 0x1400 then
    let a := tget {} l.apertures ((o - 0x1000) / 16)
    match o % 16 with
    | 0 => a.handle.toNat
    | 4 => lo32 a.base
    | 8 => hi32 a.base
    | _ => 0
  else if 0xE000 ≤ o && o < 0xE420 then msixWord s ((o - 0xE000) / 4)
  else if 0xF000 ≤ o && o < 0xF010 then
    ((List.range 32).map fun b => b2n (l.msixPending.contains ((o - 0xF000) * 8 + b)) * 2 ^ b).sum
  else
    match o with
    | 0x00 => l.portEn.toNat + 65536 * (l.ptpNext.getD l.ptpDomain)
    | 0x04 => l.status.bits.toNat % 32
    | 0x08 => l.status.setsWord 0
    | 0x0C => tget 0 l.status.sets 4
    | 0x10 => l.holdoff
    | _ => 0

/-- Codes of TIM_STATE (Table 11.17). -/
def DomainRole.code : DomainRole → Nat
  | .standalone => 0
  | .rib => 1
  | .rim => 2

def domainCode : DomainState → Nat
  | .detached => 0
  | .joining => 1
  | .member => 2
  | .standby => 3
  | .halted => 4

def TimeState.code : TimeState → Nat
  | .free => 0
  | .locked => 1
  | .slewing => 2
  | .holdover => 3
  | .lost => 4

/-- A schedule entry's words (Tables 11.5 and 11.21); COUNT is what is still to fire. -/
def schedWord (s : State) (e o : Nat) : Nat :=
  match tfind s.sched e with
  | none => 0
  | some x =>
    match o with
    | 0x00 => x.body.kind
    | 0x04 => x.body.arg0.toNat
    | 0x08 => lo32 x.body.start
    | 0x0C => hi32 x.body.start
    | 0x10 => lo32 x.body.period
    | 0x14 => hi32 x.body.period
    | 0x18 => if x.body.count = 0 then 0 else x.body.count - x.next
    | 0x1C => x.body.arg1.toNat
    | _ => 0

/-- The policy that TIM_HB and its fellows read: what was written, or what is in force. -/
def State.policyRead (s : State) : Policy := s.tim.policyNext.getD s.tim.policy

/-- TIM_ (Tables 11.16 to 11.21). -/
def timWord (s : State) (o : Nat) : Nat :=
  let t := s.tim
  if 0x1000 ≤ o && o < 0x1800 then schedWord s ((o - 0x1000) / 32) (o % 32)
  else
    match o with
    | 0x00 => t.role.code + 4 * domainCode t.domain + 32 * t.time.code + 256 * b2n t.deputy + 512 * b2n t.ppsLock +
        1024 * b2n s.tns.verify + 65536 * (t.seat % 4096)
    | 0x04 => t.status.bits.toNat % 16
    | 0x08 => t.status.setsWord 0
    | 0x0C => s.tns.round.toNat
    | 0x10 => lo32 t.now
    | 0x14 => t.nowHi.toNat
    | 0x18 => (t.offset % (2 : Int) ^ 32).toNat
    | 0x1C => if t.time == .holdover then lo32 ((t.now - t.holdAt) / 1000) else 0
    | 0x20 => t.domainId.toNat
    | 0x24 => t.takeover.toNat
    | 0x28 => lo32 t.epoch.toNat
    | 0x2C => hi32 t.epoch.toNat
    | 0x30 => s.policyRead.hbPeriod
    | 0x34 => s.policyRead.grace
    | 0x38 => s.policyRead.stormShift
    | 0x3C => s.policyRead.takeover + 65536 * s.policyRead.rollback
    | _ => 0

/-- THM_MAX: the hottest valid reading of each die and of the stacks. -/
def State.thmMax (s : State) : Nat :=
  let die := fun (lo n : Nat) => int8 (hottest ((s.validSensors lo n).map s.sensor))
  die 0 48 + 256 * die 48 48 + 65536 * die 96 16 + 16777216 * int8 (hottest s.stackTemps)

/-- PWR_ and THM_ (Table 12.7). -/
def pwrWord (s : State) (o : Nat) : Nat :=
  let p := s.pwr
  if 0x1100 ≤ o && o < 0x12C0 then
    let i := (o - 0x1100) / 4
    int8 (s.sensor i) + 256 * b2n (s.sensorValid i)
  else if 0x1300 ≤ o && o < 0x1330 then
    let k := (o - 0x1300) / 4
    int8 (tget 0 p.hbm k) + 256 * b2n (s.stack k).trained
  else
    match o with
    | 0x0000 => p.cap + 65536 * s.ceiling
    | 0x0004 => p.upMargin
    | 0x0008 => p.step + 16 * p.cause.toNat + 256 * s.kMin
    | 0x000C => p.input % 65536 + 65536 * (p.vin % 65536)
    | 0x0010 => p.pwrStatus.bits.toNat % 8
    | 0x0014 => p.pwrStatus.setsWord 0 % 2 ^ 24
    | 0x1000 => p.thmCtrl.toNat
    | 0x1004 => s.thmMax
    | 0x1008 => p.thmStatus.bits.toNat % 8
    | 0x100C => p.thmStatus.setsWord 0 % 2 ^ 24
    | _ => 0

/-- CNT_ (Table 13.18). -/
def cntWord (s : State) (o : Nat) : Nat :=
  let c := s.cnt
  let kind := match c.ring with
    | .host _ => 0
    | .device _ _ => 1
  match o with
  | 0x00 => b2n c.enable + 2 * kind + 256 * c.ringLog2
  | 0x04 => c.prod
  | 0x08 => c.cons
  | 0x0C => c.drops + 65536 * c.skips
  | 0x10 => c.status.bits.toNat % 4
  | 0x14 => c.status.setsWord 0 % 65536
  | 0x18 => c.gen
  | 0x20 => c.peekSel.toNat
  | 0x24 => lo32 c.peek
  | 0x28 => hi32 c.peek
  | _ => 0

/-- TRC_ (Table 13.19). -/
def TrcState.code : TrcState → Nat
  | .idle => 0
  | .recording => 1
  | .post => 2
  | .stopped => 3

def trcWord (s : State) (o : Nat) : Nat :=
  let t := s.trc
  match o with
  | 0x00 => t.state.code + 4 * t.post + 64 * b2n t.spill.isSome
  | 0x04 => t.records.length
  | 0x08 => lo32 t.trigTime
  | 0x0C => t.trigHi.toNat
  | 0x10 => t.drop
  | 0x14 => t.dropAfter
  | 0x18 => t.status.bits.toNat % 16
  | 0x1C => t.status.setsWord 0
  | 0x20 => t.dumpHandle.toNat
  | 0x24 => b2n t.dumpValid + 2 * b2n t.dumpWriting + 4 * t.dumpHung.toNat
  | 0x28 => lo32 t.dumpTime
  | 0x2C => t.dumpHi.toNat
  | _ => 0

def LgrState.code : LgrState → Nat
  | .notLoaded => 0
  | .inOrder => 1
  | .compacting => 2
  | .held => 3

/-- LGR_ (Table 13.20). Nothing of the flash shows until the ledger is loaded. -/
def lgrWord (s : State) (o : Nat) : Nat :=
  let l := s.lgr
  if 0x20 ≤ o && o < 0x30 then field l.chain (o - 0x20) 4
  else
    match o with
    | 0x00 => l.state.code + if l.state == .notLoaded then 0 else 4 * b2n l.active + 256 * s.journalFill + 65536 * l.bad.length
    | 0x04 => l.lastSeq
    | 0x08 => l.snapSeq
    | 0x0C => l.status.bits.toNat % 8
    | 0x10 => l.status.setsWord 0 % 2 ^ 24
    | _ => 0

/-- SPDM sessions that are open (R322): from FINISH on. -/
def State.openSessions (s : State) : Nat := s.sec.sessions.countP fun x => x.finished

/-- SEC_ (Table 14.10). -/
def secWord (s : State) (o : Nat) : Nat :=
  let c := s.sec
  let fw := fun (b : Bool) => imageSvn (c.image b) % 256 + 256 * b2n (c.valid b) + 65536 * (field (c.image b) 12 4 % 65536)
  if 0x10000 ≤ o && o < 0x20000 then
    if c.recovery.serves = 0 then 0
    else leNat ((List.range 4).map fun i => tget 0 c.recovery.data (o - 0x10000 + i))
  else
    match o with
    | 0x00 => b2n c.installer.isSome + 2 * b2n c.running + 4 * b2n c.next + 8 * b2n (c.recovery.serves ≠ 0) + 16 * c.rootSlot +
        256 * c.revoked.toNat + 65536 * c.fusedSvn
    | 0x04 => c.ctrl.toNat
    | 0x08 => c.status.bits.toNat % 16
    | 0x0C => c.status.setsWord 0
    | 0x10 => lo32 c.keygen
    | 0x14 => ((List.range 16).map fun i => b2n (tfind c.operators i).isSome * 2 ^ i).sum + 65536 * b2n c.installer.isSome +
        131072 * s.openSessions
    | 0x18 => fw false
    | 0x1C => fw true
    | 0x24 => c.recovery.state + 256 * c.recovery.error
    | _ => 0

/-- UPS_ (Table 12.6). -/
def upsWord (s : State) (o : Nat) : Nat :=
  let u := s.ups
  if 0x40 ≤ o && o < 0x5C then
    let i := (o - 0x40) / 4
    if i = u.stage then s.stageElapsed else tget 0 u.stageTime i
  else
    match o with
    | 0x00 => u.stage + 8 * u.service + 32 * u.dieReady.toNat + 128 * b2n u.bootImage +
        256 * ((List.range 12).map fun k => b2n (s.stack k).trained * 2 ^ k).sum + 2 ^ 20 * u.lastReset
    | 0x04 => u.status.bits.toNat % 16 + 256 * u.failStage + 65536 * u.failCode
    | 0x08 => u.status.setsWord 0
    | 0x0C => u.cfg.toNat
    | 0x10 => lo32 u.rsSeed.toNat
    | 0x14 => hi32 u.rsSeed.toNat
    | _ => 0

/-! ### The word at an offset -/

/-- A word by block, whether or not the block responds. -/
def rawWord (s : State) (off : Nat) : Nat :=
  if off < 0x00010000 then idWord s off
  else if off < 0x00020000 then queWord s (off - 0x00010000)
  else if off < 0x00100000 then seqWord s (off - 0x00020000)
  else if off < 0x00200000 then tnsWord s (off - 0x00100000)
  else if off < 0x00300000 then plcWord s (off - 0x00200000)
  else if off < 0x00400000 then memWord s (off - 0x00300000)
  else if off < 0x00500000 then lnkWord s (off - 0x00400000)
  else if off < 0x00600000 then timWord s (off - 0x00500000)
  else if off < 0x00700000 then pwrWord s (off - 0x00600000)
  else if off < 0x00780000 then cntWord s (off - 0x00700000)
  else if off < 0x00800000 then trcWord s (off - 0x00780000)
  else if off < 0x00900000 then lgrWord s (off - 0x00800000)
  else if off < 0x00A00000 then secWord s (off - 0x00900000)
  else if off < 0x00B00000 then upsWord s (off - 0x00A00000)
  else 0

/-- The 32-bit word at a multiple of 4 in BAR0. -/
def State.word (s : State) (off : Nat) : Word := if s.responds off then BitVec.ofNat 32 (rawWord s off) else 0

end Sys2Proof.Machine
end

