-- ==== Sys2Proof/Machine/Recovery.lean ====
section
/-! DEFINITION. The recovery window (R330, R331): firmware images loaded at U1, the ledger extracted and resealed at U2. -/

namespace Sys2Proof.Machine

/-! ### The window -/

def setRecovery (state error : Nat) (s : State) : State :=
  { s with sec := { s.sec with recovery := { s.sec.recovery with state, error } } }

/-- The 64 KiB that SEC_RECOVERY_DATA holds. -/
def State.windowBytes (s : State) : List Byte := (List.range 65536).map fun i => tget 0 s.sec.recovery.data i

/-- The window takes bytes from its start on. -/
def fillWindow (b : List Byte) (s : State) : State :=
  let data := (b.mapIdx fun i x => (i, x)).filter fun e => e.2 ≠ 0
  { s with sec := { s.sec with recovery := { s.sec.recovery with data } } }

/-- A word of SEC_RECOVERY_DATA. -/
def writeWindow (o : Nat) (w : Word) (s : State) : State :=
  if s.sec.recovery.serves = 0 then s
  else
    let data := (List.range 4).foldl (fun t i => tset 0 t (o + i) (w.extractLsb' (8 * i) 8)) s.sec.recovery.data
    { s with sec := { s.sec with recovery := { s.sec.recovery with data } } }

/-! ### MODE 0: the image (R330) -/

/-- Slot A with chunk `n` programmed; chunk 0 erases it first. -/
def programChunk (img : List Byte) (n : Nat) (b : List Byte) : List Byte :=
  let old := if n = 0 then [] else img
  splice (old ++ List.replicate (65536 * n - old.length) 0xFF) (65536 * n) b

/-- GO with MODE 0: the chunk is programmed, and with LAST the slot is verified and boots. Where the flash fails, what the chunk then holds
is free (ERROR 3, Table 14.10). -/
def recoverImage (chunk : Nat) (last : Bool) (s : State) : State :=
  if s.sec.recovery.serves = 0 || chunk > 383 then s
  else
    let fails := Config.programFails chunk s.freeCtr
    let b := if fails then freeBytes s.freeCtr 65536 else s.windowBytes
    let s := setRecovery 2 0 (tick { s with sec := { s.sec with imageA := programChunk s.sec.imageA chunk b, validA := false } })
    if fails then setRecovery 3 3 s
    else if !last then s
    else if (imageFault s.sec (flashImage s.sec.imageA)).isNone then
      coldReset 2 false { s with sec := { s.sec with validA := true, next := false } }
    else setRecovery 3 1 s

/-! ### MODE 1: the raw ledger (R309, R314, R331) -/

/-- Bytes `a` to `a + n - 1` of a region whose programmed bytes are `l`. -/
def flashSlice (l : List Byte) (a n : Nat) : List Byte :=
  let b := (l.drop a).take n
  b ++ List.replicate (n - b.length) 0xFF

/-- A 64 KiB block of the ledger partition. The oldest record's place in the ring is a free value. -/
def Lgr.block (l : Lgr) (n : Nat) : List Byte :=
  if n < 16 then flashSlice ((l.slot0.map Snapshot.bytes).getD []) (65536 * n) 65536
  else if n < 32 then flashSlice ((l.slot1.map Snapshot.bytes).getD []) (65536 * (n - 16)) 65536
  else
    let ring := l.ring
    match firstIdx (fun b => b == n) ring with
    | none => List.replicate 65536 0xFF
    | some i =>
      let start := Config.journalStart l.snapSeq % ring.length
      flashSlice (l.journal.flatMap LRec.bytes) (65536 * ((i + ring.length - start) % ring.length)) 65536

/-- GO with MODE 1. -/
def recoverBlock (chunk : Nat) (s : State) : State :=
  if s.sec.recovery.serves ≠ 2 || chunk > 127 then s
  else setRecovery 2 0 (fillWindow (s.lgr.block chunk) s)

/-! ### MODE 2: resealing (R331) -/

/-- The ledger with the records from `seq` on discarded and a stage failure appended. -/
def reseal (seq : Nat) (s : State) : State :=
  let best := s.lgr.bestSlot
  let base := (best.map fun e => e.2.seq).getD 0
  let chain := (best.map fun e => e.2.chain).getD (List.replicate 16 0)
  let kept := s.lgr.journal.filter fun r => r.seq < seq
  let last := kept.getLast?
  let l := { s.lgr with journal := kept, lastSeq := (last.map (·.seq)).getD base, chain := (last.map (·.chain)).getD chain }
  let s := { s with lgr := l }
  let r := s.nextRecord { typ := rUPSETT, payload := [2, 2], effect := .nothing }
  { s with lgr := { s.lgr with journal := s.lgr.journal ++ [r] } }

/-- GO with MODE 2: a verified token for this device reseals the ledger, and U2 starts again. -/
def recoverReseal (s : State) : State :=
  if s.sec.recovery.serves ≠ 2 then s
  else
    match Config.resealToken s.windowBytes with
    | some (id, seq) =>
      if id = s.id.deviceId.toNat then
        let s := reseal seq s
        replayLedger { s with
          sec := { s.sec with recovery := {} },
          ups := { s.ups with failStage := 0, failCode := 0, enteredAt := s.tim.now } }
      else setRecovery 3 2 s
    | none => setRecovery 3 2 s

/-! ### SEC_RECOVERY_CTRL -/

/-- A write of SEC_RECOVERY_CTRL: GO starts MODE on CHUNK; mode 3 is ignored. -/
def recoveryGo (w : Word) (s : State) : State :=
  let n := w.toNat
  if !bit n 0 then s
  else
    match bits n 2 1 with
    | 0 => recoverImage (bits n 16 8) (bit n 3) s
    | 1 => recoverBlock (bits n 16 8) s
    | 2 => recoverReseal s
    | _ => s

/-- SEC_ responds: the window is served once the boot ROM or firmware serves it. -/
def execRecoveryProgram (v : Word) (s : State) : Host.Outcome State Fault Refusal :=
  .next (if s.responds 0x00900020 && bits v.toNat 2 1 = 0 then recoveryGo v s else s)

/-- RECOVERY_LEDGER_READ. -/
def execRecoveryLedgerRead (v : Word) (s : State) : Host.Outcome State Fault Refusal :=
  .next (if s.responds 0x00900020 && bits v.toNat 2 1 = 1 then recoveryGo v s else s)

/-- RECOVERY_RESEAL. -/
def execRecoveryReseal (v : Word) (s : State) : Host.Outcome State Fault Refusal :=
  .next (if s.responds 0x00900020 && bits v.toNat 2 1 = 2 then recoveryGo v s else s)

end Sys2Proof.Machine
end

