-- ==== Sys2Proof/Machine/Moves.lean ====
section
/-! DEFINITION. NOP, COPY, FILL, FENCE, WAIT_TIME, SIGNAL and BOUNDS_SET (R135, R211, R212). -/

namespace Sys2Proof.Machine

def planNop (p : Packet) : Cmd Plan := do
  reservedZero p [(16, 63, 0xFF)]
  pure { atIssue := true }

/-- NOP. -/
def execNop (q : Fin 64) (p : Packet) (s : State) : Host.Outcome State Fault Refusal :=
  .next (issueS q 0x00 p (planNop p) s)

/-! ### COPY -/

/-- A line that crosses a bridge to or from a hoop store counts there (Table 13.2). -/
def countCrossing (src dst : Nat) (s : State) : State :=
  if lineDie src = lineDie dst then s
  else if !isHbm dst then count 1 (hoopOf dst) 11 1 s
  else if !isHbm src then count 1 (hoopOf src) 11 1 s
  else s

/-- One line moved with its CRC word (R160): an unwritten line leaves its destination unwritten, a strand that fails is found
at a bridge crossing or before the memory write. Answers a failed read (which ends the command), or a failed write. -/
def copyLine (sh : BitVec 32) (si : Nat) (sd : Desc) (i : Nat) (dh : BitVec 32) (di : Nat) (dd : Desc) (j : Nat) (s : State) :
    Except Fail (Option Fail) × State :=
  let src := s.lineOf si sd i
  let dst := s.lineOf di dd j
  let sn : LineName := { handle := sh, offset := i * 512 }
  let dn : LineName := { handle := dh, offset := j * 512 }
  match readLine src sn (traffic di 1 (traffic si 1 s)) with
  | (.ok bytes x written, s) =>
    if x ≠ 0 && lineDie src ≠ lineDie dst then
      let (f, s) := reportCrc sn 5 (lastGood src s) 0xFF s
      (.error f, s)
    else
      let s := countCrossing src dst s
      let (f, s) := if written then writeLine dst dn bytes x (movedFrom src dst s) s else clearLine dst s
      (.ok f, s)
  | (.uncorrectable, s) => let (f, s) := reportUncorr sn src s; (.error f, s)
  | (.failed k, s) => (.error { status := STACK_FAILED, detail := k }, s)
  | (.sram, s) => let (f, s) := reportSram (.hoop src) s; (.error f, s)

/-- Lines `i` on of one handle to lines `j` on of another; the first failed write is the result (R133). -/
def copyLines (sh : BitVec 32) (si : Nat) (sd : Desc) (dh : BitVec 32) (di : Nat) (dd : Desc) (i j : Nat) : Nat → Cmd (Option Fail)
  | 0 => pure none
  | n + 1 => do
    match copyLine sh si sd i dh di dd j (← get) with
    | (.ok f, s) =>
      set s
      let g ← copyLines sh si sd dh di dd (i + 1) (j + 1) n
      pure (f.or g)
    | (.error f, s) =>
      set s
      throw f

def planCopy (p : Packet) : Cmd Plan := do
  reservedZero p [(42, 63, 0xFF)]
  let sh := p.handle 16
  let so := p.num 20 6
  let dh := p.handle 26
  let dof := p.num 30 6
  let len := p.num 36 6
  requireLive sh
  requireLive dh
  require (so % 512 == 0) ALIGNMENT 20
  require (dof % 512 == 0) ALIGNMENT 30
  require (len % 512 == 0) ALIGNMENT 36
  if len = 0 then pure {}
  else
    checkExtent sh so len
    checkExtent dh dof len
    require (!(sh == dh && so < dof + len && dof < so + len)) REGION_OVERLAP
    pure { outs := [(dh, dof, len)], names := [sh, dh],
           run := do
             let s ← get
             match s.desc sh, s.desc dh with
             | some (si, sd), some (di, dd) =>
               let f ← copyLines sh si sd dh di dd (so / 512) (dof / 512) (len / 512)
               pure (endWith f {})
             | _, _ => pure {} }

/-- COPY. -/
def execCopy (q : Fin 64) (p : Packet) (s : State) : Host.Outcome State Fault Refusal :=
  .next (issueS q 0x10 p (planCopy p) s)

/-! ### FILL -/

/-- The byte that a pattern of `n` bytes puts at distance `i` from the start. -/
def patternByte (pattern n i : Nat) : Byte := BitVec.ofNat 8 (pattern / 256 ^ (i % n))

/-- One piece of a FILL: a whole line of zeros loses its valid bit (R156). -/
def fillPiece (die : Option Nat) (h : BitVec 32) (idx : Nat) (d : Desc) (p : Nat × Nat × List Byte) (s : State) : Option Fail × State :=
  if p.2.2.length = 512 && p.2.2.all (· == 0) then clearLine (s.lineOf idx d p.1) (traffic idx 1 s)
  else writePiece die h idx d p s

def fillPieces (die : Option Nat) (h : BitVec 32) (idx : Nat) (d : Desc) : List (Nat × Nat × List Byte) → State → Option Fail × State
  | [], s => (none, s)
  | p :: t, s =>
    let (f, s) := fillPiece die h idx d p s
    let (g, s) := fillPieces die h idx d t s
    (f.or g, s)

def planFill (q : Nat) (p : Packet) : Cmd Plan := do
  reservedZero p [(41, 63, 0xFF)]
  let h := p.handle 16
  let off := p.num 20 6
  let len := p.num 26 6
  let n := p.num 40 1
  requireLive h
  require (n == 1 || n == 2 || n == 4 || n == 8) VALUE_INVALID 40
  require (off % n == 0) ALIGNMENT 20
  require (len % n == 0) ALIGNMENT 26
  if len = 0 then pure {}
  else
    checkExtent h off len
    pure { outs := [(h, off, len)], names := [h],
           run := do
             match (← get).desc h with
             | some (idx, d) =>
               let bytes := (List.range len).map (patternByte (p.num 32 8) n)
               let f ← act (fillPieces (← seqDie q) h idx d (pieces off bytes (len / 512 + 2)))
               pure (endWith f {})
             | none => pure {} }

/-- FILL. -/
def execFill (q : Fin 64) (p : Packet) (s : State) : Host.Outcome State Fault Refusal :=
  .next (issueS q 0x11 p (planFill q p) s)

/-! ### FENCE, WAIT_TIME, SIGNAL -/

def planFence (p : Packet) : Cmd Plan := do
  reservedZero p [(16, 16, 0xFE), (17, 63, 0xFF)]
  pure { run := pure { wait := .fence (bit (p.num 16 1) 0) } }

/-- FENCE. -/
def execFence (q : Fin 64) (p : Packet) (s : State) : Host.Outcome State Fault Refusal :=
  .next (issueS q 0x20 p (planFence p) s)

def planWaitTime (p : Packet) : Cmd Plan := do
  reservedZero p [(24, 63, 0xFF)]
  let t := p.num 16 8
  pure { run := do pure { wait := if t ≤ (← get).tim.now then .done else .untilTime t } }

/-- WAIT_TIME. -/
def execWaitTime (q : Fin 64) (p : Packet) (s : State) : Host.Outcome State Fault Refusal :=
  .next (issueS q 0x21 p (planWaitTime p) s)

def planSignal (p : Packet) : Cmd Plan := do
  reservedZero p [(49, 63, 0xFF)]
  let n := p.num 48 1
  require (1 ≤ n && n ≤ 16) VALUE_INVALID 48
  pure { atIssue := true,
         run := do
           upd fun s => (List.range n).foldl (fun s i => signalToken (p.num (16 + 2 * i) 2) s) s
           pure {} }

/-- SIGNAL. -/
def execSignal (q : Fin 64) (p : Packet) (s : State) : Host.Outcome State Fault Refusal :=
  .next (issueS q 0x22 p (planSignal p) s)

/-! ### BOUNDS_SET (R135) -/

def planBoundsSet (q : Nat) (p : Packet) : Cmd Plan := do
  let first := p.num 16 1
  let n := p.num 17 1
  require (n ≠ 0 && n ≤ 8 && first + n ≤ 64) BOUND_INVALID
  require ((firstReserved p.params 16 [(18, 19, 0xFF), (52, 63, 0xFF)]).isNone) BOUND_INVALID
  pure { atIssue := true,
         run := do
           upd fun s => { s with que := { s.que with bounds := (List.range n).foldl (fun t i =>
             tset 0 t (q * 64 + first + i) (BitVec.ofNat 32 (p.num (20 + 4 * i) 4))) s.que.bounds } }
           pure {} }

/-- BOUNDS_SET. -/
def execBoundsSet (q : Fin 64) (p : Packet) (s : State) : Host.Outcome State Fault Refusal :=
  .next (issueS q 0x14 p (planBoundsSet q p) s)

end Sys2Proof.Machine
end

