-- ==== Sys2Proof/Machine/Telemetry.lean ====
section
/-! DEFINITION. The device's reports on itself (R295 to R308, R311, R315, R316): counter selections, the sampler, the trace,
hangs and the dump, the ledger as read, GET_HEALTH. -/

namespace Sys2Proof.Machine

/-- Writes a command's bytes to its destination. -/
def writeReport (d : Dest) (bytes : List Byte) (r : Res) : Cmd Res := do
  let f ← act (writeDest d 0 bytes)
  pure (endWith f r)

/-! ### COUNTER_CFG (R296, R297) -/

/-- Instances and counters of a set (Tables 13.1 to 13.5). -/
def setShape : Nat → Nat × Nat
  | 0 => (192, 32)
  | 1 => (24, 16)
  | 2 => (12, 24)
  | 3 => (12, 16)
  | 4 => (1, 16)
  | _ => (0, 0)

/-- A selection entry that R296 accepts. -/
def entryOk (w : Nat) : Bool :=
  let (n, m) := setShape (bits w 2 0)
  bits w 7 3 < m && (bits w 15 8 < n || bits w 15 8 = 255) && m ≠ 0 && bits w 31 19 = 0

/-- MGMT_DEPTH and LOAD hold a current value. -/
def isGauge (w : Nat) : Bool := bits w 2 0 = 4 && (bits w 7 3 = 5 || bits w 7 3 = 15)

/-- A new selection waits for the next sampling cycle (R296). -/
def select (ws : List Word) (s : State) : State := { s with cnt := { s.cnt with coming := some ws } }

/-- After its record, a sampling cycle brings the selection that waits into force: every entry counts from now on (R296). A
sampling cycle is one with an instance of a SAMPLE entry, whether or not the sampler writes a record then (DEDUCED, log 64). -/
def applySelection (s : State) : State :=
  match s.cnt.coming with
  | none => s
  | some ws =>
    raiseCnt 1 { s with cnt := { s.cnt with select := ws, base := ws.map fun w => s.counterValue w.toNat, before := ws.map fun _ => 0,
                                            coming := none, gen := (s.cnt.gen + 1) % 2 ^ 32 } }

def planCounterCfg (p : Packet) : Cmd Plan := do
  let h := p.handle 16
  let n := p.num 26 1
  let b ← readBlock h (p.num 20 6) (4 * n) 512 20 none
  reservedZero p [(27, 63, 0xFF)]
  require (n ≤ 112) VALUE_INVALID 26
  let ws := (List.range n).map fun j => BitVec.ofNat 32 (field b (4 * j) 4)
  match firstIdx (fun w : Word => !entryOk w.toNat) ws with
  | some j => refuse VALUE_INVALID (4 * j)
  | none => pure { names := [h], run := do upd (select ws); pure {} }

/-- COUNTER_CFG. -/
def execCounterCfg (q : Fin 64) (p : Packet) (s : State) : Host.Outcome State Fault Refusal :=
  .next (issueF q 0x88 p (fun _ => planCounterCfg p) s)

/-! ### Sample records (R299, R300, Table 13.7) -/

/-- The sequencers whose issue in this cycle resets an entry of the selection. -/
def State.boundaries (s : State) : List Nat :=
  (List.range 4).filter fun n => (s.sequencer n).lastIssueAt == some s.tim.now &&
    s.cnt.select.any fun w => bit w.toNat 16 && bits w.toNat 18 17 == n && !isGauge w.toNat

/-- Entry `j` as a record reports it: a count since its last reset where it is PER_CMD, before a reset of this cycle (R297). -/
def State.entryValue (s : State) (atReset : Bool) (j : Nat) (w : Word) : Nat :=
  let v := s.counterValue w.toNat
  if !bit w.toNat 16 || isGauge w.toNat then v
  else if atReset && s.boundaries.contains (bits w.toNat 18 17) then s.cnt.before.getD j 0
  else (v + 2 ^ 48 - s.cnt.base.getD j 0) % 2 ^ 48

/-- The 1,024 bytes of a sample record. -/
def State.sampleRecord (s : State) (index : Nat) (telemetry : Bool) (m : RailMeans) : List Byte :=
  let c := s.cnt
  let bs := s.boundaries
  let flags := b2n (!bs.isEmpty) + 2 * b2n c.sinceStep + 4 * b2n (s.tim.time == .holdover || s.tim.time == .lost) +
    8 * b2n (c.sinceDrop ≠ 0) + 16 * b2n c.sinceSkip + 32 * b2n telemetry + 64 * s.ups.service + 256 * (bs.map fun n => 2 ^ n).sum
  let seqs := (List.range 4).map fun n => (bs.contains n, s.sequencer n)
  let layers := seqs.flatMap fun e => leBytes 2 (if e.1 then e.2.prevLayer else e.2.layer).toNat
  let operators := seqs.flatMap fun e => leBytes 4 (if e.1 then e.2.prevOperator else e.2.operatorId).toNat
  let interval := sat 4294967295 (s.tim.now - c.lastRec.getD 0)
  let temps := (List.range 12).map fun k => if (s.stack k).trained then BitVec.ofInt 8 (tget 0 s.pwr.hbm k) else 0x80
  let counters := (c.select.mapIdx fun j w => leBytes 8 (s.entryValue true j w)).flatten
  leBytes 4 index ++ leBytes 2 flags ++ leBytes 2 c.select.length ++ leBytes 8 s.tim.now ++ leBytes 4 s.tns.round.toNat ++
    leBytes 4 c.gen ++ layers ++ operators ++ [BitVec.ofNat 8 s.pwr.step, 0] ++ leBytes 2 m.input ++ leBytes 4 interval ++
    leBytes 4 c.sinceDrop ++ leBytes 4 0 ++ (List.range 16).flatMap (fun i => leBytes 2 (m.rails.getD i 0)) ++
    leBytes 4 s.thmMax ++ temps ++ List.replicate 16 0 ++ slice counters 0 896

/-- Records the host has not consumed. -/
def State.sampleFill (s : State) : Nat := (s.cnt.prod + 2 ^ 32 - s.cnt.cons % 2 ^ 32) % 2 ^ 32

/-- One sample instance while the sampler is enabled (R299). -/
def takeSample (m : RailMeans) (s : State) : State :=
  let c := s.cnt
  let soon := match c.lastRec with
    | some t => decide (s.tim.now < t + 10000)
    | none => false
  if soon then { s with cnt := { c with skips := sat 65535 (c.skips + 1), sinceSkip := true } }
  else if s.sampleFill = 2 ^ c.ringLog2 then
    raiseCnt 0 { s with cnt := { c with drops := sat 65535 (c.drops + 1), sinceDrop := sat 4294967295 (c.sinceDrop + 1) } }
  else
    let b := s.sampleRecord c.prod false m
    let s := (writeDest c.ring (1024 * (c.prod % 2 ^ c.ringLog2)) b s).2
    let s := { s with cnt := { s.cnt with prod := (c.prod + 1) % 2 ^ 32, lastRec := some s.tim.now, sinceDrop := 0, sinceSkip := false,
                                          sinceStep := false } }
    if s.sampleFill * 2 = 2 ^ c.ringLog2 then signalVector 65 s else s

/-- SAMPLE_INSTANCE. -/
def execSampleInstance (entry : Fin 64) (m : RailMeans) (s : State) : Host.Outcome State Fault Refusal :=
  .next (unlessOver (fun s => if s.powered && s.due entry 1 then
    fireNext entry (applySelection (if s.cnt.enable then takeSample m s else s))
  else s) s)

def planTelemetry (p : Packet) (m : RailMeans) : Cmd Plan := do
  reservedZero p (destReserved p 16 ++ [(32, 63, 0xFF)])
  destLive p 16
  checkDest p 16 1024
  let d := p.dest 16
  pure { outs := destOuts d 1024, names := destNames d,
         run := do writeReport d ((← get).sampleRecord 0xFFFFFFFF true m) {} }

/-- GET_TELEMETRY. -/
def execGetTelemetry (q : Fin 64) (p : Packet) (m : RailMeans) (s : State) : Host.Outcome State Fault Refusal :=
  .next (issueF q 0x81 p (fun _ => planTelemetry p m) s (some m))

/-- The sampler's settings; a ring elsewhere or of another size starts again (R298). -/
def configureSampler (enable : Bool) (log2 : Nat) (d : Dest) (s : State) : State :=
  let c := s.cnt
  let moved := c.ring ≠ d || c.ringLog2 ≠ log2
  { s with cnt := { c with enable, ringLog2 := log2, ring := d, prod := if moved then 0 else c.prod, cons := if moved then 0 else c.cons } }

def planSamplerCfg (p : Packet) : Cmd Plan := do
  reservedZero p ([(16, 16, 0xFE)] ++ destReserved p 18 ++ [(34, 63, 0xFF)])
  destLive p 18
  let n := p.num 17 1
  require (4 ≤ n && n ≤ 16) VALUE_INVALID 17
  require (p.num 32 1 ≤ 1) VALUE_INVALID 32
  let d := p.dest 18
  match d with
  | .host a => require (a % 4096 == 0) ALIGNMENT 18
  | .device _ o => require (o % 4096 == 0) ALIGNMENT 26
  checkDest p 18 (1024 * 2 ^ n)
  pure { names := destNames d, run := do upd (configureSampler (bit (p.num 16 1) 0) n d); pure {} }

/-- SAMPLER_CFG. -/
def execSamplerCfg (q : Fin 64) (p : Packet) (s : State) : Host.Outcome State Fault Refusal :=
  .next (issueF q 0x89 p (fun _ => planSamplerCfg p) s)

/-! ### The trace (R302 to R306) -/

/-- A record's 32 bytes (Table 13.8). A MARK arm record holds the bytes of its TRACE_ARM, other MARK records nothing. -/
def TrcRec.bytes (r : TrcRec) : List Byte :=
  let payload := if r.typ = tMARK then r.payload.map (BitVec.ofNat 8) else Config.tracePayload r.typ r.payload
  leBytes 8 r.time ++ [BitVec.ofNat 8 (r.typ + 16 * r.sub), BitVec.ofNat 8 r.source] ++ leBytes 2 r.layer.toNat ++
    leBytes 4 r.round.toNat ++ slice payload 0 16

/-- A summary entry's 64 bytes (Table 13.11). -/
def TrcSum.bytes (e : TrcSum) : List Byte :=
  leBytes 8 e.start ++ leBytes 4 e.round.toNat ++ leBytes 4 e.dropped ++
    (List.range 16).flatMap (fun t => leBytes 2 (tget 0 e.counts t)) ++ List.replicate 16 0

/-- A summary entry for the aligned interval of this moment. -/
def State.newSummary (s : State) (us : Nat) : TrcSum :=
  { start := s.tim.now / (Max.max 1 us * 1000) * (Max.max 1 us * 1000), round := s.tns.round }

/-- The records staged on the die reach the spill region (R302), the oldest at its start; when they do, and where each lies, is the
model's choice, log 50. -/
def spillRecords (s : State) : State :=
  match s.trc.spill with
  | some (h, off, _) => if s.clocked then (writeBytes h off (s.trc.records.flatMap TrcRec.bytes) s).2 else s
  | none => s

/-- The trace is armed, or disarmed with its contents kept (R303). -/
def armTrace (p : Packet) (s : State) : State :=
  let t := s.trc
  let ctrl := p.num 23 1
  if bit ctrl 6 then spillRecords { s with trc := { t with state := .idle, running := false } }
  else
    let us := p.num 40 4
    let t := { t with
      state := .recording, typeMask := BitVec.ofNat 16 (p.num 16 2), trigMask := BitVec.ofNat 16 (p.num 18 2),
      trigLayer := BitVec.ofNat 16 (p.num 20 2), trigClass := BitVec.ofNat 8 (p.num 22 1), post := bits ctrl 3 0, force := bit ctrl 4,
      completeAll := bit ctrl 5, spill := if p.num 24 4 = 0 then none else some (p.handle 24, p.num 28 6, p.num 34 6),
      summaryUs := us, running := true, records := [], preHeld := 0, postCount := 0, trigTime := 0, trigHi := 0, drop := 0, dropAfter := 0,
      summary := [s.newSummary us] }
    traceWith tMARK 0 0x10 0xFFFF ((slice p.params 0 16).map BitVec.toNat) 0 t.force { s with trc := t }

def planTraceArm (p : Packet) : Cmd Plan := do
  reservedZero p [(23, 23, 0x80), (44, 63, 0xFF)]
  let h := p.handle 24
  let spill := p.num 24 4 ≠ 0
  if spill then requireLive h
  require (bits (p.num 23 1) 3 0 ≤ 8) VALUE_INVALID 23
  require (10 ≤ p.num 40 4 && p.num 40 4 ≤ 1000000) VALUE_INVALID 40
  if spill then
    require (p.num 28 6 % 512 == 0) ALIGNMENT 28
    checkExtent h (p.num 28 6) (p.num 34 6)
    require (p.num 34 6 % 512 == 0 && 1048576 ≤ p.num 34 6) REGION_OUT_OF_BOUNDS h.toNat
  require ((← get).flight.all fun c => c.opcode ≠ 0x8B || c.wait.isQueued) TRACE_BUSY
  pure { names := if spill then [h] else [], run := do upd (armTrace p); pure {} }

/-- TRACE_ARM. -/
def execTraceArm (q : Fin 64) (p : Packet) (s : State) : Host.Outcome State Fault Refusal :=
  .next (issueF q 0x8A p (fun _ => planTraceArm p) s)

def planTraceRead (p : Packet) : Cmd Plan := do
  reservedZero p (destReserved p 16 ++ [(38, 63, 0xFF)])
  destLive p 16
  let t := (← get).trc
  require (t.state == .idle || t.state == .stopped) TRACE_BUSY
  let n := 32 * t.records.length + 16384
  let h := match p.dest 16 with
    | .host _ => 0
    | .device h _ => h.toNat
  require (n ≤ p.num 32 6) REGION_OUT_OF_BOUNDS h
  checkDest p 16 n
  let d := p.dest 16
  let b := t.records.flatMap TrcRec.bytes ++ slice (t.summary.flatMap TrcSum.bytes) 0 16384
  pure { outs := destOuts d n, names := destNames d,
         run := do
           if t.spill.isNone then readHandle useTrace
           writeReport d b { detail := t.records.length + t.drop * 2 ^ 32 } }

/-- TRACE_READ. -/
def execTraceRead (q : Fin 64) (p : Packet) (s : State) : Host.Outcome State Fault Refusal :=
  .next (issueF q 0x8B p (fun _ => planTraceRead p) s)

/-- TRACE_SUMMARY_INTERVAL: a new entry begins; the ring keeps 256. The staged records reach the spill region. -/
def summaryInterval (s : State) : State :=
  let t := s.trc
  let e := s.newSummary t.summaryUs
  let due := match t.summary.getLast? with
    | some l => decide (l.start < e.start)
    | none => true
  if s.powered && t.running && due then
    spillRecords { s with trc := { t with summary := (t.summary ++ [e]).drop (t.summary.length + 1 - 256) } }
  else s

def execTraceSummaryInterval (s : State) : Host.Outcome State Fault Refusal :=
  .next (unlessOver summaryInterval s)

/-! ### Hangs and the dump (R215, R307, R308) -/

def dumpBytes : Nat := 1178112

/-- The handle that TRC_DUMP_HANDLE names can hold the dump. -/
def State.dumpFits (s : State) : Bool := s.live s.trc.dumpHandle && dumpBytes ≤ s.handleSize s.trc.dumpHandle

/-- What sequencers and queues hold when the device freezes, for the dump (R307). -/
def holdForDump (s : State) : State :=
  { s with trc := { s.trc with
    heldFlight := s.flight
    heldSeq := (List.range 4).map fun n => (List.range 4).map fun i => (s.word (0x00020000 + 256 * n + 4 * i)).toNat
    heldQue := (List.range 64).map fun q =>
      [0x00, 0x04, 0x20, 0x24, 0x28, 0x2C].map fun o => (s.word (0x00010000 + 64 * q + o)).toNat
    dumpHung := BitVec.ofNat 4 s.seq.status.bits.toNat, dumpTime := s.tim.now } }

/-- The freeze: a MARK freeze record, the trace stops, the dump begins or is lost. -/
def freeze (s : State) : State :=
  let s := { s with seq := { s.seq with frozen := true, freezeTime := s.tim.now } }
  let live := s.trc.state == .recording || s.trc.state == .post
  let s := trace tMARK 2 0xFF 0xFFFF [] s
  let s := if live && s.trc.state ≠ .stopped then raiseTrc 1 { s with trc := s.trc.stop } else s
  let s := holdForDump s
  if s.dumpFits then { s with trc := { s.trc with dumpValid := false, dumpWriting := true } } else raiseTrc 3 s

/-- SEQ_WATCHDOG: a command of sequencer `n` has made no progress for SEQ_WDOG.TIMEOUT µs. -/
def seqWatchdog (n : Nat) (s : State) : State :=
  if s.clocked && s.flight.any (fun c => c.seqr == n && decide (c.progress + 1000 * s.seq.wdog ≤ s.tim.now)) && !s.seq.status.bits.getLsbD n then
    let s := raiseSeq n s
    if s.seq.frozen then s else freeze s
  else s

def execSeqWatchdog (n : Fin 4) (s : State) : Host.Outcome State Fault Refusal := .next (seqWatchdog n s)

/-- Region of the sequencers: registers, then the commands in flight (Table 13.13). -/
def State.dumpSequencers (s : State) : List Byte :=
  (List.range 4).flatMap fun n =>
    let cs := (s.trc.heldFlight.filter fun c => c.seqr == n).take 512
    slice (Config.dumpEntry 1 n (s.trc.heldSeq.getD n [])) 0 512 ++
      slice ((cs.mapIdx fun i c => slice (Config.dumpEntry 2 i ((packetBytes c.opcode c.packet).take 16 |>.map BitVec.toNat |>.append
        [c.issuedAt, c.progress, c.steps])) 0 32).flatten) 0 16384

/-- Region of the queues: six registers each. -/
def State.dumpQueues (s : State) : List Byte :=
  (List.range 64).flatMap fun q => slice ((s.trc.heldQue.getD q []).flatMap (leBytes 4)) 0 64

/-- The dump (Table 13.13). What the spec names without a place, or without a value that the module's state gives, is free. -/
def State.dump (s : State) : List Byte :=
  let offsets := [512, 68096, 72192, 84480, 96768, 129536]
  slice (Config.dumpEntry 0 0 ([0x504D5544, 1, s.trc.dumpHung.toNat, s.seq.freezeTime, s.tns.round.toNat, s.seq.wdog] ++ offsets)) 0 512 ++
    s.dumpSequencers ++ s.dumpQueues ++
    (List.range 192).flatMap (fun k => slice (Config.dumpEntry 3 k ([(s.position k).getD 255, s.freeCtr] ++
      (List.range 8).map fun i => s.counterValue (k * 256 + i * 8))) 0 64) ++
    (List.range 768).flatMap (fun i => slice (Config.dumpEntry 4 i [s.freeCtr]) 0 16) ++
    slice s.que.replies.flatten 0 32768 ++
    slice ((s.trc.records.drop (s.trc.records.length - 32768)).flatMap TrcRec.bytes) 0 1048576

/-- DUMP_WRITE: the dump is complete; a stake that it names as the cause is marked for retirement (Table 8.4). Firmware's writes
advance no generation: they are no command's (R83). -/
def dumpWrite (stake : Option (Fin 2 × Fin 100)) (s : State) : State :=
  if !s.clocked || !s.trc.dumpWriting then s
  else
    let s := match stake with
      | some (d, p) => markRetire d.val p.val byHang s
      | none => s
    let lost := fun (s : State) => raiseTrc 3 { s with trc := { s.trc with dumpWriting := false } }
    if !s.dumpFits then lost s
    else
      match writeBytes s.trc.dumpHandle 0 s.dump (tick s) with
      | (none, s) => raiseTrc 2 { s with trc := { s.trc with dumpWriting := false, dumpValid := true } }
      | (some _, s) => lost s

def execDumpWrite (stake : Option (Fin 2 × Fin 100)) (s : State) : Host.Outcome State Fault Refusal :=
  .next (unlessOver (dumpWrite stake) s)

def planDumpRead (p : Packet) : Cmd Plan := do
  reservedZero p (destReserved p 16 ++ [(44, 63, 0xFF)])
  destLive p 16
  let off := p.num 32 6
  let len := p.num 38 6
  require (off % 512 == 0) ALIGNMENT 32
  require (len % 512 == 0) ALIGNMENT 38
  require (← get).trc.dumpValid VALUE_INVALID
  let h := (← get).trc.dumpHandle
  require (off + len ≤ dumpBytes) REGION_OUT_OF_BOUNDS h.toNat
  checkDest p 16 len
  let d := p.dest 16
  pure { outs := destOuts d len, names := destNames d,
         run := do
           requireLive h
           let s ← get
           match d with
           | .device dh dof =>
             match s.desc h, s.desc dh with
             | some (si, sd), some (di, dd) =>
               if dof % 512 = 0 then
                 let f ← copyLines h si sd dh di dd (off / 512) (dof / 512) (len / 512)
                 pure (endWith f {})
               else writeReport d (← readBytes h off len none) {}
             | _, _ => pure {}
           | .host _ => writeReport d (← readBytes h off len none 7) {} }

/-- DUMP_READ. -/
def execDumpRead (q : Fin 64) (p : Packet) (s : State) : Host.Outcome State Fault Refusal :=
  .next (issueF q 0xC0 p (fun _ => planDumpRead p) s)

/-! ### The ledger (R311, R315) -/

/-- Records that fit, each with the SEQ it carries in the journal. -/
def takeRecords (room : Nat) : List (List Byte × Option Nat) → List Byte × Option Nat
  | [] => ([], none)
  | (b, q) :: t =>
    if room < b.length then ([], none)
    else
      let (rest, last) := takeRecords (room - b.length) t
      (b ++ rest, last.or q)

/-- What LEDGER_READ writes from a SEQ on: the snapshot first where it covers that SEQ. -/
def Lgr.readFrom (l : Lgr) (from_ max : Nat) : List Byte × Option Nat :=
  match l.snapshot with
  | some p =>
    if from_ ≤ l.snapSeq then
      takeRecords max ((p.bytes.take 512, some p.seq) :: (p.parts.map fun r => (r.bytes, some p.seq)) ++
        (l.journal.filter fun r => p.seq < r.seq).map fun r => (r.bytes, some r.seq))
    else takeRecords max ((l.journal.filter fun r => from_ ≤ r.seq).map fun r => (r.bytes, some r.seq))
  | none => takeRecords max ((l.journal.filter fun r => from_ ≤ r.seq).map fun r => (r.bytes, some r.seq))

/-- The detail of LEDGER_READ; which SEQ is the last where nothing was written is not stated (free value, log 5). -/
def planLedgerRead (p : Packet) : Cmd Plan := do
  reservedZero p (destReserved p 16 ++ [(42, 63, 0xFF)])
  destLive p 16
  let s ← get
  let (b, last) := s.lgr.readFrom (p.num 38 4) (p.num 32 6)
  checkDest p 16 b.length
  let d := p.dest 16
  let seq := last.getD (Config.freeNat s.freeCtr % 2 ^ 32)
  pure { outs := destOuts d b.length, names := destNames d,
         run := do upd tick; writeReport d b { detail := b.length % 2 ^ 32 + seq * 2 ^ 32 } }

/-- LEDGER_READ. -/
def execLedgerRead (q : Fin 64) (p : Packet) (s : State) : Host.Outcome State Fault Refusal :=
  .next (issueF q 0x84 p (fun _ => planLedgerRead p) s)

/-- The counts that ERROR_TOTALS sums (Table 13.15): corrected and uncorrectable lines per stack, SECDED counts per die
(0, 1 and the handle die), FEC_UE per port. -/
def State.errorCounts (s : State) : List Nat :=
  let c := fun (set i n : Nat) => tget 0 s.cnt.counters (counterKey set i n)
  let die := fun (d : Nat) => ((List.range 96).map fun i => c 0 (96 * d + i) 29 + c 0 (96 * d + i) 30).sum +
    ((List.range 12).map fun i => c 1 (12 * d + i) 13 + c 1 (12 * d + i) 14).sum
  (List.range 12).map (fun k => c 2 k 6) ++ (List.range 12).map (fun k => c 2 k 8) ++ [die 0, die 1, c 4 0 14] ++
    (List.range 12).map fun p => c 3 p 7

/-- ERROR_TOTALS: what was counted since the last such record. -/
def errorTotals (s : State) : State :=
  let now := s.errorCounts
  let diff := now.mapIdx fun i n => sat 4294967295 ((n + 2 ^ 48 - tget 0 s.lgr.totalsAt i) % 2 ^ 48)
  let b := (diff ++ (List.range 8).map fun d => tget 0 s.mem.strandFails d).flatMap (leBytes 4)
  let s := record rERROR_TOTALS b s
  { s with mem := { s.mem with strandFails := [] },
           lgr := { s.lgr with totalsAt := ((List.range now.length).foldl (fun t i => tset 0 t i (now.getD i 0)) []) } }

/-- LEDGER_HOURLY. -/
def ledgerHourly (s : State) : State :=
  if s.powered && s.ups.service ≠ 0 && s.lgr.hourAt + 3600000000000 ≤ s.tim.now then
    let s := errorTotals (lifetimeRecord s)
    { s with lgr := { s.lgr with hourAt := s.tim.now } }
  else s

def execLedgerHourly (s : State) : Host.Outcome State Fault Refusal := .next (ledgerHourly s)

/-! ### GET_HEALTH (R316) -/

/-- The registers of Table 13.16 from byte 8 on. -/
def healthOffsets : List Nat :=
  [0x0050000C, 0x00A00000, 0x00A00004, 0x00300004] ++ (List.range 12).map (fun k => 0x00301000 + 32 * k) ++
    [0x00200040, 0x00200044, 0x00200004, 0x00600000, 0x00600008, 0x0060000C, 0x00601004, 0x00601008, 0x00500000, 0x00500004,
     0x00100004, 0x00021004, 0x00800000]

/-- The health block; QUE_MGMT with PEAK zero. -/
def State.healthBlock (s : State) : List Byte :=
  slice (leBytes 8 s.tim.now ++ healthOffsets.flatMap (fun o => leBytes 4 (s.word o).toNat) ++
    leBytes 4 ((s.word 0x00011008).toNat % 65536)) 0 256

def planHealth (p : Packet) : Cmd Plan := do
  reservedZero p (destReserved p 16 ++ [(32, 63, 0xFF)])
  destLive p 16
  checkDest p 16 256
  let d := p.dest 16
  pure { outs := destOuts d 256, names := destNames d, run := do writeReport d (← get).healthBlock {} }

/-- GET_HEALTH. -/
def execGetHealth (q : Fin 64) (p : Packet) (s : State) : Host.Outcome State Fault Refusal :=
  .next (issueF q 0x80 p (fun _ => planHealth p) s)

end Sys2Proof.Machine
end

