-- ==== Sys2Proof/Machine/Roles.lean ====
section
/-! DEFINITION. Role actions (R258, R320 to R329, R334): ROLE_SESSION, FW_STAGE, SCHEDULE_SET, MAKER_DIAG, and what takes place
when their records exist. -/

namespace Sys2Proof.Machine

/-! ### Key slots (R320, R321, R324) -/

/-- The key in a slot: 0 to 15 operators, 16 the installer. -/
def Sec.keyIn (c : Sec) (slot : Nat) : Option PubKey := if slot = 16 then c.installer else tfind c.operators slot

def Sec.setKey (c : Sec) (slot : Nat) (k : Option PubKey) : Sec :=
  if slot = 16 then { c with installer := k }
  else { c with operators := match k with
    | some k => tinsert c.operators slot k
    | none => terase c.operators slot }

/-- A key change: a key that leaves withdraws the bindings made under it; KEYGEN moves on, KEY_CHANGED is set. -/
def changeKey (slot : Nat) (k : Option PubKey) (s : State) : State :=
  if k.isNone && (s.sec.keyIn slot).isNone then s
  else
    let s := withdrawWhere (fun b => b.holder == .slot slot) false s
    let c := s.sec.setKey slot k
    raiseSec 3 { s with sec := { c with keygen := (c.keygen + 1) % 2 ^ 32 } }

/-- Every slot is emptied. -/
def releaseKeys (s : State) : State := (List.range 17).foldl (fun s i => changeKey i none s) s

def State.session (s : State) (id : BitVec 32) : Option Session := s.sec.sessions.find? fun x => x.id == id

/-- What a session's key may bind: the holder and role, where it may bind at all (R323). -/
def State.bindable (s : State) (x : Session) : Option (Role × KeyHolder × PubKey) :=
  if !x.finished then none
  else
    match x.requester with
    | .maker k => if s.sec.makerAllow || s.sec.installer.isNone then some (.maker, .maker, k) else none
    | .key k =>
      match (List.range 17).find? fun i => s.sec.keyIn i == some k with
      | some i => some (if i = 16 then .installer else .operator, .slot i, k)
      | none => none
    | .anonymous => none

/-! ### Actions on bindings, keys and firmware -/

/-- A firmware slot is erased (R329). -/
def eraseSlot (slot : Bool) (s : State) : State := { s with sec := s.sec.setImage slot [] false }

/-- What an action of queue `q` does to bindings, keys, fuses and firmware. -/
def applySecurity (q : Nat) (a : Action) (s : State) : State :=
  match a with
  | .bind b =>
    if ((s.session b.session).bind s.bindable).isSome then s.setQueue q { s.queue q with binding := some b } else s
  | .unbind => s.setQueue q { s.queue q with binding := none }
  | .addKey slot k => changeKey slot (some k) s
  | .removeKey slot => changeKey slot none s
  | .claim k => changeKey 16 (some k) s
  | .releaseOwner => releaseKeys s
  | .fwStage slot _ => eraseSlot slot s
  | .fwActivate slot =>
    record rFIRMWARE ([1, BitVec.ofNat 8 (b2n slot)] ++ leBytes 1 (imageSvn (s.sec.image slot))) { s with sec := { s.sec with next := slot } }
  | .fwCommit svn => { s with sec := { s.sec with fusedSvn := Max.max s.sec.fusedSvn svn }.recheck }
  | .makerDiag 3 root _ => { s with sec := { s.sec with revoked := s.sec.revoked ||| BitVec.ofNat 4 (2 ^ root) }.recheck }
  | .makerDiag 4 _ _ =>
    let s := releaseKeys s
    { s with sec := { s.sec with makerAllow := true, ctrl := 1 } }
  | _ => s

/-- The queue of a command in flight. -/
def State.queueOf (s : State) (id : Nat) : Nat := ((s.flight.find? fun c => c.id = id).map (·.queue)).getD 0

/-- The module as it will be once the role actions before this command have their records: firmware checks a role action
against it, since actions take effect in order. -/
def State.settled (s : State) : State :=
  s.lgr.appends.foldl (fun t a => match a.effect with
    | .command id act => applySecurity (s.queueOf id) act t
    | _ => t) s

/-! ### ROLE_SESSION (R323) -/

/-- A key block's checks (R321): reserved bytes, ROLE, KEYGEN, and the proof over bytes 0 to 139 and DEVICE_ID. -/
def checkKeyBlock (b : List Byte) (role : Nat) (t : State) : Cmd PubKey := do
  let x := keyX b 0
  let y := keyX b 66
  require (field b 132 1 == role) VALUE_INVALID 132
  require (beNat (slice b 136 4) == t.sec.keygen) SIGNATURE_INVALID
  require (ecdsaVerify x y (beNat (slice b 140 66)) (beNat (slice b 206 66)) (slice b 0 140 ++ leBytes 8 t.id.deviceId.toNat))
    SIGNATURE_INVALID
  pure { x, y }

/-- A role action of a command: its record is appended with packet bytes 16 to 35, and the command waits for it. -/
def actAs (who : Option Binding) (code : Nat) (c : InFlight) (p : Packet) (a : Action) : Plan :=
  { run := do
      upd (roleAction who code (slice p.params 0 20) (.command c.id a))
      pure { wait := .record } }

def installerSlot : Nat := 16
def slotOf (n : Nat) : Nat := if n = 255 then installerSlot else n

def planRoleSession (p : Packet) (c : InFlight) : Cmd Plan := do
  let action := bits (p.num 16 1) 2 0
  let slot := p.num 17 1
  let b ← if action = 2 || action = 4 then readBlock (p.handle 24) (p.num 28 6) 512 512 28 none else pure []
  reservedZero p [(16, 16, 0xF8), (18, 19, 0xFF), (34, 63, 0xFF)]
  blockReservedZero b [(133, 135, 0xFF), (272, 511, 0xFF)]
  require (action ≤ 5) VALUE_INVALID 16
  let t := (← get).settled
  let mine := (t.queue c.queue).binding
  let names := if action = 2 || action = 4 then [p.handle 24] else []
  require (!(action = 2 || action = 3 || action = 5) || (t.queue c.queue).role ≥ 2) ROLE_REQUIRED 2
  match action with
  | 0 =>
    match (t.session (p.handle 20)).bind t.bindable with
    | some (role, holder, key) =>
      let b : Binding := { session := p.handle 20, role, holder, key }
      pure (actAs (some b) 0x05 c p (.bind b))
    | none => refuse SESSION_INVALID
  | 1 => pure (actAs mine 0x06 c p .unbind)
  | 2 =>
    require (slot ≤ 15 || slot = 255) VALUE_INVALID 17
    let k ← checkKeyBlock b (if slot = 255 then 2 else 1) t
    pure { actAs mine 0x03 c p (.addKey (slotOf slot) k) with names }
  | 3 =>
    require (slot ≤ 15) VALUE_INVALID 17
    pure (actAs mine 0x04 c p (.removeKey slot))
  | 4 =>
    require t.sec.installer.isNone VALUE_INVALID 16
    let k ← checkKeyBlock b 2 t
    let who : Binding := { session := 0, role := .installer, holder := .slot installerSlot, key := k }
    pure { actAs (some who) 0x01 c p (.claim k) with names }
  | _ => pure (actAs mine 0x02 c p .releaseOwner)

/-- ROLE_SESSION. -/
def execRoleSession (q : Fin 64) (p : Packet) (s : State) : Host.Outcome State Fault Refusal :=
  .next (issueF q 0x90 p (planRoleSession p) s)

/-! ### FW_STAGE (R329) -/

def planFwStage (p : Packet) (c : InFlight) : Cmd Plan := do
  reservedZero p [(16, 16, 0xFC), (36, 63, 0xFF)]
  let action := bits (p.num 16 1) 1 0
  let h := p.handle 20
  if action = 0 then requireLive h
  require (action ≤ 2) VALUE_INVALID 16
  let s ← get
  let t := s.settled
  let other := !t.sec.running
  let who := (t.queue c.queue).binding
  match action with
  | 0 =>
    checkExtent h (p.num 24 6) (p.num 30 6)
    let img ← readBytes h (p.num 24 6) (p.num 30 6) none 6
    match imageFault t.sec img with
    | some 2 => refuse VERSION_ROLLBACK
    | some _ => refuse SIGNATURE_INVALID
    | none =>
      let img := img.take (512 + field img 16 4)
      pure { actAs who 0x20 c p (.fwStage other img) with names := [h] }
  | 1 =>
    require (t.sec.valid other) VALUE_INVALID 16
    pure (actAs who 0x21 c p (.fwActivate other))
  | _ =>
    let svn := imageSvn (t.sec.image t.sec.running)
    require (!(t.sec.valid other && imageSvn (t.sec.image other) < svn)) VERSION_ROLLBACK
    pure (actAs who 0x22 c p (.fwCommit svn))

/-- FW_STAGE. -/
def execFwStage (q : Fin 64) (p : Packet) (s : State) : Host.Outcome State Fault Refusal :=
  .next (issueF q 0x92 p (planFwStage p) s)

/-! ### SCHEDULE_SET (R258) -/

/-- An entry body as the packet holds it. -/
def packetEntry (p : Packet) : EntryBody :=
  { kind := p.num 24 1, arg0 := p.handle 28, start := p.num 32 8, period := p.num 40 8, count := p.num 48 4, arg1 := p.handle 52 }

/-- Entries that a role action still to be recorded will write. -/
def State.entryClaimed (s : State) (i : Nat) : Bool :=
  s.lgr.appends.any fun a => match a.effect with
    | .command _ (.schedule e _) => e == i
    | _ => false

/-- The lowest empty host entry. -/
def State.freeEntry (s : State) : Option Nat :=
  ((List.range 32).map (· + 16)).find? fun i => (tfind s.sched i).isNone && !s.entryClaimed i

def planScheduleSet (p : Packet) (c : InFlight) : Cmd Plan := do
  let clear := bit (p.num 17 1) 0
  reservedZero p ([(17, 17, 0xFE), (18, 23, 0xFF)] ++ (if clear then [] else [(24, 24, 0xF0), (25, 27, 0xFF)]) ++ [(56, 63, 0xFF)])
  let n := p.num 16 1
  require ((16 ≤ n && n ≤ 47) || n = 255) VALUE_INVALID 16
  let b := packetEntry p
  let s ← get
  if !clear then
    require (b.kind ≠ 2 && b.kind < 6) VALUE_INVALID 24
    require (b.kind ≠ 1 || 10000 ≤ b.period) VALUE_INVALID 40
    require (b.kind ≠ 4 || (s.queue c.queue).role ≥ 2) ROLE_REQUIRED 2
    require (b.kind ≠ 4 || (700 ≤ b.arg0.toNat && b.arg0.toNat ≤ s.ceiling)) POWER_CAP_RANGE s.ceiling
  match if n = 255 then s.freeEntry else some n with
  | none => refuse SCHEDULE_FULL
  | some i =>
    if !clear && b.kind = 4 then
      pure { run := do
               upd fun s => roleAction (s.actor c) 0x11 (slice p.params 0 40) (.command c.id (.schedule i (some b))) s
               pure { wait := .record } }
    else
      pure { run := do
               upd (writeEntry i (if clear then { b with kind := 0 } else b))
               pure { detail := i } }

/-- SCHEDULE_SET. -/
def execScheduleSet (q : Fin 64) (p : Packet) (s : State) : Host.Outcome State Fault Refusal :=
  .next (issueF q 0x94 p (planScheduleSet p) s)

/-! ### MAKER_DIAG (R334) -/

def unrevoked (r : BitVec 4) : Nat := (List.range 4).countP fun i => !r.getLsbD i

/-- Bytes that functions 0 and 1 write. -/
def diagLength (f : Nat) : Nat := if f = 0 then 192 else if f = 1 then 64 else 0

/-- The regions that hold a dump or spilled trace records (R302, R307). -/
def State.traceRegions (s : State) : List (BitVec 32 × Nat × Nat) :=
  (if s.trc.dumpValid && s.dumpFits then [(s.trc.dumpHandle, 0, dumpBytes)] else []) ++
    (match s.trc.spill with
     | some (h, off, len) => if s.live h && off + len ≤ s.handleSize h then [(h, off, len)] else []
     | none => [])

def planMakerDiag (p : Packet) (c : InFlight) : Cmd Plan := do
  reservedZero p (destReserved p 20 ++ [(36, 63, 0xFF)])
  let f := p.num 16 1
  let arg := p.num 17 3
  if f ≤ 1 then destLive p 20
  require (f ≤ 4) VALUE_INVALID 16
  let t := (← get).settled
  if f ≤ 1 then checkDest p 20 (diagLength f)
  require (f ≠ 1 || arg < 65536) VALUE_INVALID 17
  require (f ≠ 2 || bits arg 15 8 < 100) VALUE_INVALID 18
  require (f ≠ 3 || (arg < 4 && arg ≠ t.sec.rootSlot && (t.sec.revoked.getLsbD arg || 1 < unrevoked t.sec.revoked))) VALUE_INVALID 17
  let d := p.dest 20
  let pl := actAs ((t.queue c.queue).binding) (0x30 + f) c p (.makerDiag f arg (if f ≤ 1 then some d else none))
  let outs := if f ≤ 1 then destOuts d (diagLength f) else if f = 4 then t.traceRegions else []
  pure { pl with outs, names := if f ≤ 1 then destNames d else outs.map (·.1) }

/-- MAKER_DIAG. -/
def execMakerDiag (q : Fin 64) (p : Packet) (s : State) : Host.Outcome State Fault Refusal :=
  .next (issueF q 0xC8 p (planMakerDiag p) s)

/-- The physical position of every logical stake of both dies. That of an unmapped one is not stated (free value, log 5). -/
def State.stakeMap (s : State) : List Byte :=
  (List.range 192).map fun k => match s.position k with
    | some p => BitVec.ofNat 8 p
    | none => Config.freeByte s.freeCtr k

/-- Trace and dump contents are cleared; their regions in device memory hold zeros. -/
def clearTraces (s : State) : State :=
  let s := s.traceRegions.foldl (fun s r => (writeBytes r.1 r.2.1 (List.replicate r.2.2 0) s).2) s
  { s with trc := { s.trc with records := [], summary := [], preHeld := 0, postCount := 0, dumpValid := false, dumpWriting := false } }

/-- What a MAKER_DIAG does beside `applySecurity`; answers how its destination's write ended. -/
def diagnose (f arg : Nat) (d : Option Dest) (s : State) : Option Fail × State :=
  match f, d with
  | 0, some d => writeDest d 0 s.stakeMap (tick s)
  | 1, some d => writeDest d 0 (s.descBytes arg false) s
  | 2, _ => (none, markRetire (arg % 2) (bits arg 15 8) byMaker s)
  | 4, _ => (none, clearTraces s)
  | _, _ => (none, s)

/-! ### RECORD_PROGRAMMED (R325) -/

/-- The command whose role action is recorded completes; while the device is frozen, as R215 says. -/
def completeAction (id : Nat) (f : Option Fail) (detail : Nat) (s : State) : State :=
  match s.flight.find? fun c => c.id = id with
  | none => s
  | some c =>
    if s.seq.frozen && !runsFrozen c.opcode then finishAs id FROZEN 0 s
    else
      match f with
      | some e => finishAs id e.status e.detail s
      | none => finishAs id OK detail s

/-- The detail of a successful FW_STAGE: the slot and its SVN. -/
def fwDetail (slot : Bool) (svn : Nat) : Nat := b2n slot + 256 * (svn % 256)

/-- A command's role action takes effect, and the command completes. -/
def applyAction (id : Nat) (a : Action) (s : State) : State :=
  let q := s.queueOf id
  match a with
  | .bind b =>
    let ok := ((s.session b.session).bind s.bindable).isSome
    completeAction id (if ok then none else some { status := SESSION_INVALID, detail := 0 }) 0 (applySecurity q a s)
  | .cap w persist =>
    let old := s.pwr.cap
    let s := setCap w s
    let s := if persist then { s with pwr := { s.pwr with persisted := some w } } else s
    completeAction id none (old + 65536 * w) s
  | .marginScan l h off => startScan id l h off s
  | .schedule i (some b) => completeAction id none i (writeEntry i b s)
  | .schedule i none => completeAction id none i (writeEntry i { kind := 0, arg0 := 0, start := 0, period := 0, count := 0, arg1 := 0 } s)
  | .fwStage slot img => setInflight id (fun c => { c with wait := .staging slot img }) (applySecurity q a s)
  | .fwActivate slot => completeAction id none (fwDetail slot (imageSvn (s.sec.image slot))) (applySecurity q a s)
  | .fwCommit svn => completeAction id none (fwDetail s.sec.running svn) (applySecurity q a s)
  | .makerDiag f arg d =>
    let (e, s) := diagnose f arg d (applySecurity q a s)
    completeAction id e 0 s
  | _ => completeAction id none 0 (applySecurity q a s)

/-- The image has been programmed into its slot and is verified again from there; the command completes (R329). -/
def finishStaging (id : Nat) (slot : Bool) (img : List Byte) (s : State) : State :=
  let f := imageFault s.sec (flashImage img)
  let s := { s with sec := s.sec.setImage slot img f.isNone }
  match f with
  | some 2 => finishAs id VERSION_ROLLBACK 0 s
  | some _ => finishAs id SIGNATURE_INVALID 0 s
  | none => finishAs id OK (fwDetail slot (imageSvn img)) (record rFIRMWARE ([0, BitVec.ofNat 8 (b2n slot)] ++ leBytes 1 (imageSvn img)) s)

/-- What waited for a record takes place. -/
def applyEffect (e : Effect) (s : State) : State :=
  match e with
  | .nothing => s
  | .command id a => applyAction id a s
  | .upsCfg v => { s with ups := { s.ups with cfgNow := v } }
  | .rsSeedLo v => { s with ups := { s.ups with rsSeedNow := BitVec.ofNat 64 (hi32 s.ups.rsSeedNow.toNat * 2 ^ 32 + v.toNat) } }
  | .rsSeedHi v => { s with ups := { s.ups with rsSeedNow := BitVec.ofNat 64 (v.toNat * 2 ^ 32 + lo32 s.ups.rsSeedNow.toNat) } }
  | .pwrCtrl v => { s with pwr := { s.pwr with upRec := v.toNat % 256 } }
  | .thmCtrl v => { s with pwr := { s.pwr with thmRec := v } }
  | .secCtrl v =>
    let s := { s with sec := { s.sec with makerAllow := v.getLsbD 0 } }
    if v.getLsbD 0 then s else withdrawWhere (fun b => b.role == .maker) false s
  | .reset warm => if !s.clocked then s else if warm then requestWarm false s else coldReset 2 false s

/-- RECORD_PROGRAMMED: the oldest append's bytes are programmed, so its record exists; or the flash fails under it. -/
def recordProgrammed (failed : Bool) (s : State) : State :=
  match programNext failed s with
  | (some e, s) => applyEffect e s
  | (none, s) => s

def execRecordProgrammed (s : State) : Host.Outcome State Fault Refusal := .next (unlessOver (fun s => recordProgrammed s.programFails s) s)

end Sys2Proof.Machine
end

