-- ==== Sys2Proof/Machine/Complete.lean ====
section
/-! DEFINITION. Events at a queue's head and tail (R193, R196, R199, R215, R342): completions, packets that no opcode or no read
gives, and the end of a vector's holdoff. -/

namespace Sys2Proof.Machine

/-! ### COMMAND_COMPLETE (R199) -/

/-- A command that waits for nothing of its own kind completes when the frames that carry its data are acknowledged. -/
def completeDone (c : InFlight) (s : State) : State := if s.sending c.id then s else finish c s

/-- A FENCE: every earlier command of its queue, or of the device, has completed (R212). -/
def fenceHeld (c : InFlight) (device : Bool) (s : State) : Bool :=
  s.flight.any fun e => e.id < c.id && (device || e.queue == c.queue)

/-- A command in flight completes where what it waits for has come about. -/
def completeInFlight (c : InFlight) (s : State) : State :=
  match c.wait with
  | .done => completeDone c s
  | .fence device => if fenceHeld c device s then s else finish c s
  | .untilTime t => if t ≤ s.tim.now then finish c s else s
  | .load => loadEnd c s
  | .drain true _ d _ => drainEnd c d s
  | .staging slot img => finishStaging c.id slot img s
  | .commit false => finish c s
  | .margins left _ _ w b =>
    if s.scanOver left then finish (if c.status = 0 then { c with detail := BitVec.ofNat 64 (w + b * 2 ^ 32) } else c) s else s
  | _ => s

/-- COMMAND_COMPLETE of the command that queue `q` issued as its `n`-th; while the device is frozen it completes with FROZEN,
but for the opcodes that run on (R215). -/
def commandComplete (q n : Nat) (s : State) : State :=
  match s.inflightAt q n with
  | none => s
  | some c =>
    if s.seq.frozen && !runsFrozen c.opcode then finishAs c.id FROZEN 0 (dropFrames c.id s)
    else actingFor c (completeInFlight c) s

def execCommandComplete (q : Fin 64) (ordinal : Nat) (s : State) : Host.Outcome State Fault Refusal :=
  .next (unlessOver (fun s => if s.clocked then commandComplete q ordinal s else s) s)

/-! ### Packets that are not executed -/

/-- OPCODE_UNKNOWN: refused at issue with 0x0101 (R196). -/
def opcodeUnknown (q : Nat) (op : BitVec 8) (p : Packet) (s : State) : State :=
  if (opInfo op.toNat).isSome then s
  else if !gate q op.toNat p s then noteHead q p s
  else
    let c := fresh q op.toNat p false s
    refuseCommand c { status := OPCODE_UNKNOWN, detail := op.toNat } (takeHead q op.toNat p false s)

def execOpcodeUnknown (q : Fin 64) (opcode : BitVec 8) (p : Packet) (s : State) : Host.Outcome State Fault Refusal :=
  .next (opcodeUnknown q opcode p s)

/-- The packet that stands for one that could not be read: TAG holds the ring index (R193). -/
def lostPacket (index : Nat) : Packet :=
  { flags := 0, layerId := 0xFFFF, operatorId := 0xFFFFFFFF, tag := BitVec.ofNat 32 (0xFFFF0000 + index % 65536),
    waitToken := 0, signalToken := 0, params := List.replicate 48 0 }

/-- How the read of the head packet failed, if it did: a host ring as PCI Express reports it, a device ring as its line does. -/
def packetLoss (q : Nat) (why : PacketLoss) (s : State) : Option (Fail × State) :=
  let v := s.queue q
  if v.loc then
    match (readBytes v.sqHandle (v.sqBase.toNat + 64 * v.sqHead) 64 (some (v.seqr / 2))).run s with
    | .ok _ _ => none
    | .error f s => some (f, s)
  else if why = .ringLine then none
  else some ({ status := PACKET_UNREADABLE, detail := v.sqHead }, s)

/-- The head packet cannot be read: it is not executed, and a reply says so. The sequencer's registers name the last command that issued,
which this one is not: DESIGN CHOICE, log 64. -/
def packetUnreadable (q : Nat) (why : PacketLoss) (s : State) : State :=
  if !canIssue s q || !selects s q then s
  else
    match packetLoss q why s with
    | none => s
    | some (f, s) =>
      let v := s.queue q
      let c := fresh q 0 (lostPacket v.sqHead) false s
      refuseCommand c f (s.setQueue q { v with sqHead := (v.sqHead + 1) % v.sqSize, issued := v.issued + 1 })

def execPacketUnreadable (q : Fin 64) (why : PacketLoss) (s : State) : Host.Outcome State Fault Refusal :=
  .next (packetUnreadable q why s)

/-! ### MSIX_HOLDOFF_END (R342) -/

/-- The events during a vector's holdoff send one message, which starts its next holdoff. -/
def holdoffEnd (v : Nat) (s : State) : State :=
  if s.powered && s.lnk.held.contains v && tget 0 s.lnk.holdEnd v ≤ s.tim.now then
    sendMessage v { s with lnk := { s.lnk with held := s.lnk.held.filter (· ≠ v) } }
  else s

def execMsixHoldoffEnd (v : Fin 66) (s : State) : Host.Outcome State Fault Refusal := .next (holdoffEnd v s)

end Sys2Proof.Machine
end

