-- ==== Sys2Proof/Machine/Links.lean ====
section
/-! DEFINITION. Link ports and transport frames as they arrive (R344 to R348, R352). -/

namespace Sys2Proof.Machine

/-! ### Acknowledgement (R347) -/

/-- Whether sequence number `a` lies at or before `b`, modulo 2³². -/
def seqLe (a b : Nat) : Bool := (b + 2 ^ 32 - a) % 2 ^ 32 < 2 ^ 31

/-- A cumulative ACK_SEQ frees frames, whose lines have moved (R215), and lets waiting ones leave. -/
def takeAck (port : Nat) (mac : BitVec 48) (ack : Nat) (s : State) : State :=
  let c := s.conn port mac
  let (freed, left) := c.unacked.partition fun f => seqLe f.seq ack
  if freed.isEmpty then s
  else
    let s := freed.foldl (fun s f => noteLines f.cmd (f.payload.length / 512) s) s
    pump port mac (s.setConn { c with unacked := left, lastAckAt := s.tim.now, resends := 0, nakked := false })

/-- Sends unacknowledged frames again, from a SEQ on. -/
def resendFrom (port : Nat) (mac : BitVec 48) (seq : Nat) (s : State) : State :=
  ((s.conn port mac).unacked.filter fun f => seqLe seq f.seq).foldl (fun s f => sendTx port mac f (count 3 port 5 1 s)) s

/-! ### Ports leave service (R345, R347, R348) -/

/-- A measured delay before a longer one, and before one not measured. -/
def shorter : Option Int → Option Int → Bool
  | some a, some b => a < b
  | some _, none => true
  | none, _ => false

/-- The in-service port, not a MASTER, with the lowest mean path delay. -/
def State.nextSlave (s : State) : Option Nat :=
  ((List.range 12).filter fun p => (s.port p).state.inService && (s.port p).ptp ≠ 1).foldl
    (fun b p => match b with
      | some q => if shorter (s.port p).delay (s.port q).delay then some p else some q
      | none => some p) none

/-- A SLAVE port that has left service hands its role to the next such port. -/
def moveSlave (p : Nat) (s : State) : State :=
  if (s.port p).ptp ≠ 2 then s
  else
    let s := s.setPort p { s.port p with ptp := 3 }
    match s.nextSlave with
    | some q => s.setPort q { s.port q with ptp := 2 }
    | none => s

/-- The lowest in-service port other than `p`. -/
def State.otherPort (s : State) (p : Nat) : Option Nat := (List.range 12).find? fun q => q ≠ p && (s.port q).state.inService

/-- Frames join another port's sequence space. -/
def reroute (p q : Nat) (c : Conn) (s : State) : State :=
  let frames := c.unacked ++ c.waiting
  let d := s.conn q c.mac
  let moved := frames.mapIdx fun i f => { f with seq := (d.nextSeq + i) % 2 ^ 32 }
  let s := s.setConn { c with unacked := [], waiting := [], resends := 0, nakked := false }
  let s := s.setConn { d with waiting := d.waiting ++ moved, nextSeq := (d.nextSeq + frames.length) % 2 ^ 32 }
  pump q c.mac (count 3 p 10 frames.length s)

/-- How a transfer ends whose frames no port can carry (R239): with PEER_LOST where the receiver has not answered 8 resends at all, with
LINK_INTEGRITY where their checks failed or the port has gone. -/
def Conn.lossOf (c : Conn) (p : Nat) : Fail :=
  if c.resends ≥ 8 && !c.nakked then { status := PEER_LOST, detail := 0 } else { status := LINK_INTEGRITY, detail := p }

/-- Transfers whose frames no port can carry end (R239). -/
def loseFrames (p : Nat) (c : Conn) (s : State) : State :=
  let ids := distinct ((c.unacked ++ c.waiting).map (·.cmd))
  let s := s.setConn { c with unacked := [], waiting := [], resends := 0, nakked := false }
  ids.foldl (fun s id =>
    let s := dropFrames id s
    match s.flight.find? fun e => e.id = id with
    | some e => doneWith e (some (c.lossOf p)) s
    | none => s) s

/-- The traffic of a port that has left service moves to another, or ends. -/
def moveTraffic (p : Nat) (s : State) : State :=
  (s.lnk.conns.filter fun c => c.port == p && !(c.unacked ++ c.waiting).isEmpty).foldl (fun s c =>
    match s.otherPort p with
    | some q => reroute p q c s
    | none => loseFrames p c s) s

/-- A port leaves service for state `st`, and PORT_DOWN is set. -/
def portLost (p : Nat) (st : PortState) (s : State) : State :=
  let s := s.setPort p ((s.port p).into st s.tim.now)
  moveSlave p (moveTraffic p (raiseLnk 0 (count 3 p 11 1 s)))

/-- The state that trained lanes give a port (R345). -/
def lanesState (lanes : BitVec 8) : PortState :=
  if lanes = 0xFF then .eight else if lanes &&& 0x0F = 0x0F then .low else if lanes &&& 0xF0 = 0xF0 then .high else .down

/-- A port runs on four lanes. -/
def degradePort (p : Nat) (s : State) : State := raiseLnk 1 (count 3 p 14 1 s)

/-- LINK_TRAINING: a training port ends in eight-lane, four-lane, down or absent state. -/
def linkTraining (p : Nat) (lanes : BitVec 8) (present : Bool) (s : State) : State :=
  if !s.powered || s.ups.stage < 5 || (s.port p).state ≠ .training then s
  else if !present then s.setPort p { (s.port p).into .absent s.tim.now with lanes := 0 }
  else
    let st := lanesState lanes
    let s := s.setPort p { (s.port p).into st s.tim.now with lanes }
    if st.inService then
      let s := { s with lnk := { s.lnk with firstPortAt := s.lnk.firstPortAt.or (some (s.tim.now : Int)) } }
      if st = .eight then s else degradePort p s
    else portLost p .down s

def execLinkTraining (port : Fin 12) (lanes : BitVec 8) (present : Bool) (s : State) : Host.Outcome State Fault Refusal :=
  .next (linkTraining port lanes present s)

/-- LINK_PORT_DOWN: an in-service port is left with these lanes; lanes come back by training only. -/
def linkPortDown (p : Nat) (lanes : BitVec 8) (s : State) : State :=
  let v := s.port p
  let st := lanesState lanes
  if !s.powered || !v.state.inService || st = v.state || st = .eight then s
  else if st.inService then degradePort p (s.setPort p { v.into st s.tim.now with lanes })
  else portLost p .down (s.setPort p { v with lanes })

def execLinkPortDown (port : Fin 12) (lanes : BitVec 8) (s : State) : Host.Outcome State Fault Refusal :=
  .next (linkPortDown port lanes s)

/-- LNK_CTRL's PORT_EN: a bit cleared takes its port down, a bit set begins training. PTP_DOMAIN waits for the next Sync
interval (R352). -/
def writeLnkCtrl (v : Word) (s : State) : State :=
  let old := s.lnk.portEn
  let en := BitVec.ofNat 12 v.toNat
  let s := { s with lnk := { s.lnk with portEn := en, ptpNext := some (Min.min 127 (bits v.toNat 23 16)) } }
  (List.range 12).foldl (fun s p =>
    if old.getLsbD p && !en.getLsbD p then portLost p .disabled s
    else if !old.getLsbD p && en.getLsbD p then s.setPort p { (s.port p).into .training s.tim.now with lanes := 0 }
    else s) s

/-! ### Frames (R344, R346, R347) -/

/-- The transport header's fields (Table 15.3). -/
def hdrType (f : Frame) : Nat := bits (field f.header 0 1) 7 4
def hdrSeq (f : Frame) : Nat := field f.header 12 4
def hdrAck (f : Frame) : Nat := field f.header 16 4

/-- The seat that frames to this device must name: its own, or 0xFFFF before JOIN. -/
def State.ownSeat (s : State) : Nat := s.srcSeat

/-- FCS and header pass, and domain and seat match. -/
def frameOk (s : State) (typ : Nat) (f : Frame) : Bool :=
  bits (field f.header 0 1) 3 0 == 1 && hdrType f == typ && field f.header 30 2 == (crc32c (slice f.header 0 30)).toNat % 65536 &&
    field f.header 8 4 == s.tim.domainId.toNat && field f.header 4 2 == s.ownSeat

/-- A frame arrives at a port that carries traffic; one that is too long, tagged or damaged is discarded and counted, one for another
MAC or EtherType is not the port's (Table 15.2). Answers whether it is looked at. -/
def hearFrame (p : Nat) (f : Frame) (s : State) : Bool × State :=
  if !s.powered || s.ups.stage < 5 || !(s.port p).state.inService then (false, s)
  else
    let s := count 3 p 1 1 s
    if f.length > 8242 || f.vlan || !f.fcsOk then (false, count 3 p 4 1 s)
    else (f.dstMac == s.portMac p && f.etherType == 0x88B5, s)

/-- An accepted frame's strands go where its transfer says; the last line that is written of a send signals RX_TOKEN (R238). A line that
comes twice, because its frame was sent again by another port, counts once. -/
def takeStrands (f : Frame) (s : State) : State :=
  match f.dest with
  | none => s
  | some d =>
    if !s.live d.handle || d.base + d.length > s.handleSize d.handle then s
    else
      let seat := field f.header 2 2
      let tr := field f.header 20 4
      let off := field f.header 24 6
      let had := ((s.lnk.rx.find? fun r => r.seat == seat && r.transfer == tr).map (·.written)).getD []
      let (n, s) :=
        if off + f.payload.length ≤ d.length then
          let (e, s) := writeBytes d.handle (d.base + off) f.payload s
          (if e.isNone then f.payload.length / 512 else 0, s)
        else (0, s)
      let got := (List.range n).foldl (fun l i => sinsert l (off / 512 + i)) had
      let others := s.lnk.rx.filter fun r => !(r.seat == seat && r.transfer == tr)
      if 512 * got.length ≥ d.length then signalToken d.rxToken.toNat { s with lnk := { s.lnk with rx := others } }
      else { s with lnk := { s.lnk with rx := others ++ [{ seat, transfer := tr, written := got }] } }

/-- DATA_FRAME. A frame whose strands the retrain journal holds is not taken yet (R150). -/
def dataFrame (p : Nat) (f : Frame) (s : State) : State :=
  match hearFrame p f s with
  | (false, s) => s
  | (true, s) =>
    let n := field f.header 1 1
    if !frameOk s fDATA f || n = 0 || n > 16 || f.payload.length ≠ 512 * n then s
    else
      let c := s.conn p f.srcMac
      let seq := hdrSeq f
      if seq = c.expected then
        let c := { c with seat := field f.header 2 2, expected := (c.expected + 1) % 2 ^ 32, sinceAck := c.sinceAck + 1,
                          firstAt := if c.sinceAck = 0 then s.tim.now else c.firstAt }
        takeStrands f (takeAck p f.srcMac (hdrAck f) (count 3 p 3 n (count 3 p 13 n (s.setConn c))))
      else if seqLe seq c.expected then s
      else sendCtl fNAK p f.srcMac (field f.header 2 2) c.expected s

def execDataFrame (port : Fin 12) (f : Frame) (s : State) : Host.Outcome State Fault Refusal := .next (unlessOver (dataFrame port f) s)

/-- ACK_FRAME: frees what it acknowledges. -/
def execAckFrame (port : Fin 12) (f : Frame) (s : State) : Host.Outcome State Fault Refusal :=
  .next (match hearFrame port f s with
    | (true, s) => if frameOk s fACK f then takeAck port f.srcMac (hdrAck f) s else s
    | (false, s) => s)

/-- ACK_TIMER: 16 DATA frames or 2 µs without an acknowledgement sent. -/
def ackTimer (p : Nat) (mac : BitVec 48) (s : State) : State :=
  let c := s.conn p mac
  if s.powered && (s.port p).state.inService && c.sinceAck ≠ 0 && (c.sinceAck ≥ 16 || c.firstAt + 2000 ≤ s.tim.now) then
    sendCtl fACK p mac c.seat c.ackSeq s
  else s

def execAckTimer (port : Fin 12) (mac : BitVec 48) (s : State) : Host.Outcome State Fault Refusal := .next (ackTimer port mac s)

/-- A sequence space whose frame has been resent 8 times without progress: its port is retrained once, then down; its frames
go through another port, or its transfers end. -/
def portFails (p : Nat) (mac : BitVec 48) (s : State) : State :=
  let c := s.conn p mac
  if c.retrained then portLost p .down s
  else
    let s := s.setConn { c with retrained := true }
    moveSlave p (moveTraffic p (s.setPort p { (s.port p).into .training s.tim.now with lanes := 0 }))

/-- Frames from `seq` on, which are to be resent: a ninth time without progress fails the port. -/
def resend (p : Nat) (mac : BitVec 48) (seq : Nat) (s : State) : State :=
  let c := s.conn p mac
  if !(c.unacked.any fun f => seqLe seq f.seq) then s
  else if c.resends ≥ 8 then portFails p mac s
  else resendFrom p mac seq (s.setConn { c with resends := c.resends + 1 })

/-- NAK_FRAME: frees what it acknowledges and resends from the SEQ that it names. -/
def nakFrame (p : Nat) (f : Frame) (s : State) : State :=
  match hearFrame p f s with
  | (true, s) =>
    if frameOk s fNAK f then
      let s := takeAck p f.srcMac (hdrAck f) s
      resend p f.srcMac (hdrSeq f) (s.setConn { s.conn p f.srcMac with nakked := true })
    else s
  | (false, s) => s

def execNakFrame (port : Fin 12) (f : Frame) (s : State) : Host.Outcome State Fault Refusal := .next (nakFrame port f s)

/-- RESEND_TIMER: 20 µs without a new ACK_SEQ. -/
def resendTimer (p : Nat) (mac : BitVec 48) (s : State) : State :=
  let c := s.conn p mac
  match c.unacked.head? with
  | some f =>
    if s.powered && (s.port p).state.inService && c.lastAckAt + 20000 ≤ s.tim.now then
      resend p mac f.seq (s.setConn { c with lastAckAt := s.tim.now })
    else s
  | none => s

def execResendTimer (port : Fin 12) (mac : BitVec 48) (s : State) : Host.Outcome State Fault Refusal := .next (resendTimer port mac s)

end Sys2Proof.Machine
end

