-- ==== Sys2Proof/Machine/Generator.lean ====
section
/-! DEFINITION. The counter-based generator and its keys (R219, R220). -/

namespace Sys2Proof.Machine

def mixStep (s c x : Nat) : Nat := (x ^^^ (x >>> s)) * c % 2 ^ 64

/-- mix of R219. -/
def mix (x : Nat) : Nat :=
  let x := mixStep 27 0x94D049BB133111EB (mixStep 30 0xBF58476D1CE4E5B9 x)
  x ^^^ (x >>> 31)

/-- gen of R219. -/
def gen (seed layer round index : Nat) : Nat :=
  let key := mix (seed ^^^ ((layer * 2 ^ 32 + round) % 2 ^ 64))
  mix (key ^^^ mix ((index + 0x5D2C7A913E6F0B47) % 2 ^ 64))

/-- Whether twist element `k` is negated (R74). -/
def twistSign (seed layer k : Nat) : Bool := gen seed layer 0xFFFFFFFF k % 2 == 1

/-- What keys the draws of a command in reduced service (Table 10.1): seed, operator, layer, round. -/
structure DrawKey where
  seed  : Nat
  op    : Nat
  layer : Nat
  round : Nat
deriving DecidableEq, Repr

/-- The 16-bit draw of class `cls`, number `j`, output element `index` (R220). -/
def DrawKey.draw (k : DrawKey) (cls j index : Nat) : Nat :=
  gen (k.seed ^^^ (k.op * 2 ^ 32 % 2 ^ 64)) k.layer k.round (cls % 16 * 2 ^ 60 + j % 2 ^ 20 * 2 ^ 40 + index % 2 ^ 40) % 65536

end Sys2Proof.Machine
end

