-- ==== Sys2Proof/Machine/Quantise.lean ====
section
/-! DEFINITION. Quantise on load (chapter 4): the twist, scale tables, the operand path at every rung, and SCALE_PASS. -/

namespace Sys2Proof.Machine

/-! ### Rungs (R73) -/

/-- Border-lane rungs, FP8 rungs, wide rungs; none of raw mode is any of them. -/
def borderRung (r : Nat) : Bool := r == 0 || r == 1 || (5 ≤ r && r ≤ 7)
def fp8Rung (r : Nat) : Bool := r == 8 || r == 9
def wideRung (r : Nat) : Bool := 0xA ≤ r && r ≤ 0xC

/-- emax of Table 2.6. -/
def emaxOf (r : Nat) : Nat :=
  match r with
  | 0 => 0
  | 7 => 4
  | 8 => 8
  | 9 => 15
  | _ => 2

/-! ### The twist (R74) -/

/-- One stage of the transform over a group. -/
def whtStage (h : Nat) : Nat → List Num → List Num
  | 0, l => l
  | n + 1, l =>
    if l.isEmpty then []
    else
      let a := l.take h
      let b := (l.drop h).take h
      List.zipWith addF a b ++ List.zipWith subF a b ++ whtStage h n (l.drop (2 * h))

/-- The log2 n stages, h = 1, 2, 4 and so on. -/
def wht (n : Nat) (l : List Num) : List Num :=
  (List.range (Nat.log2 n)).foldl (fun l i => whtStage (2 ^ i) n l) l

/-- Table 4.2, as a power of two; role 1 is the stationary one. -/
def twistExp (size role : Nat) : Int := if size = 256 then -4 else if role = 1 then -2 else -3

/-- TWIST_SIZE of a CONTROL byte. -/
def twistSize (control : Nat) : Nat :=
  match control % 4 with
  | 1 => 32
  | 2 => 256
  | _ => 0

/-- The twisted elements of one table row from table index `t` on. -/
def twistFrom (size role seed layer redLen : Nat) : Nat → Nat → List Num → List Num
  | 0, _, l => l
  | n + 1, t, l =>
    if l.isEmpty then []
    else
      let g := (l.take size).mapIdx fun i y => if twistSign seed layer (t + i) then y.neg else y
      let g := if t + size ≤ redLen && g.length = size then (wht size g).map fun y => mulF y (.fin 1 (twistExp size role)) else g
      g ++ twistFrom size role seed layer redLen n (t + size) (l.drop size)

def twist (size role seed layer redLen t : Nat) (l : List Num) : List Num :=
  if size = 0 then l else twistFrom size role seed layer redLen l.length t l

/-! ### Operands -/

/-- An operand descriptor (Table 9.9). -/
structure Operand where
  handle      : BitVec 32
  offset      : Nat
  orient      : Bool
  format      : Nat
  pitch       : Nat
  table       : BitVec 32
  tableOffset : Nat
deriving DecidableEq, Repr

def parseOperand (b : List Byte) (a : Nat) : Operand :=
  { handle := BitVec.ofNat 32 (field b a 4), offset := field b (a + 4) 6, orient := bit (field b (a + 10) 1) 0,
    format := field b (a + 11) 1 % 16, pitch := field b (a + 12) 4, table := BitVec.ofNat 32 (field b (a + 16) 4),
    tableOffset := field b (a + 20) 6 }

/-- The region of an operand of `rows` rows and reduction length `k`. -/
def Operand.region (o : Operand) (rows k : Nat) : Region :=
  { handle := o.handle, offset := o.offset, pitch := o.pitch, rows := if o.orient then k else rows,
    cols := if o.orient then rows else k, bits := storageBits o.format }

/-- Columns of a matrix of `n` columns. -/
def transpose (n : Nat) (l : List (List Nat)) : List (List Nat) :=
  (List.range n).map fun i => l.map fun r => r.getD i 0

/-- The elements of an operand, row by row. -/
def Operand.read (o : Operand) (rows k : Nat) (die : Option Nat) : Cmd (List (List Num)) := do
  let l ← readRegion (o.region rows k) die
  let l := if o.orient then transpose rows l else l
  pure (l.map fun r => r.map (decode o.format))

/-! ### Scale tables (R81, R84) -/

/-- What a scale table's header says (Table 4.5), with the origin of the operand in it. -/
structure Table where
  handle   : BitVec 32
  offset   : Nat
  source   : BitVec 32
  gen      : Nat
  seed     : Nat
  layer    : Nat
  control  : Nat
  rows     : Nat
  redLen   : Nat
  tscale   : Nat
  count    : Nat
  expOff   : Nat
  dirOff   : Nat
  listOff  : Nat
  srcOff   : Nat
  r0       : Nat := 0
  k0       : Nat := 0
deriving DecidableEq, Repr

def parseTable (h : BitVec 32) (off : Nat) (b : List Byte) : Table :=
  { handle := h, offset := off, source := BitVec.ofNat 32 (field b 0 4), gen := field b 4 4, seed := field b 8 8,
    layer := field b 16 2, control := field b 18 1, rows := field b 20 3, redLen := field b 24 3, tscale := field b 32 4,
    count := field b 36 4, expOff := field b 44 4, dirOff := field b 48 4, listOff := field b 52 4, srcOff := field b 60 6 }

def Table.blocks (t : Table) : Nat := cdiv t.redLen 32
def Table.cols (t : Table) : Nat := cdiv t.redLen 256

/-- Where an element index of the source lies: `d = a × w + b` with room for `n` more `a` and `m` more `b`. -/
def origin (d w a m n : Nat) : Option (Nat × Nat) :=
  let fits := fun (x y : Nat) => y + m ≤ w && x + n ≤ a
  if w = 0 then (if fits 0 d then some (0, d) else none)
  else if fits (d / w) (d % w) then some (d / w, d % w)
  else if d / w ≥ 1 && fits (d / w - 1) (d % w + w) then some (d / w - 1, d % w + w)
  else none

/-- The origin (r0, k0) of an operand of `n` rows in a table (R84). -/
def Table.locate (t : Table) (o : Operand) (n k : Nat) : Option (Nat × Nat) :=
  let w := if o.orient then t.rows else t.redLen
  if o.pitch ≠ 2 * w || o.offset < t.srcOff || (o.offset - t.srcOff) % 2 ≠ 0 then none
  else
    let d := (o.offset - t.srcOff) / 2
    if o.orient then (origin d w t.redLen n k).map fun e => (e.2, e.1) else origin d w t.rows k n

/-- Whether the reduction range starts on a group and does not end inside one that is not the tail (R84). -/
def Table.groups (t : Table) (k : Nat) : Bool :=
  let n := if twistSize t.control = 0 then 32 else twistSize t.control
  let stop := t.k0 + k
  t.k0 % n == 0 && (stop % n == 0 || stop / n == t.redLen / n)

/-- The scale-table checks (R84): each case in order, A's table first. -/
def checkTables (layer : Nat) (a b : Operand) (m n k : Nat) (ta tb : Nat) (x y : Table) : Cmd (Table × Table) := do
  require (!bit x.control 2) SCALE_TABLE_MISMATCH x.handle.toNat
  require (bit y.control 2) SCALE_TABLE_MISMATCH y.handle.toNat
  require (x.source == a.handle && bit x.control 3 == a.orient) SCALE_TABLE_MISMATCH x.handle.toNat
  require (y.source == b.handle && bit y.control 3 == b.orient) SCALE_TABLE_MISMATCH y.handle.toNat
  match x.locate a m k with
  | none => refuse SCALE_TABLE_MISMATCH x.handle.toNat
  | some (r, c) =>
    let x := { x with r0 := r, k0 := c }
    match y.locate b n k with
    | none => refuse SCALE_TABLE_MISMATCH y.handle.toNat
    | some (r, c) =>
      let y := { y with r0 := r, k0 := c }
      require (x.groups k) SCALE_TABLE_MISMATCH x.handle.toNat
      require (y.groups k) SCALE_TABLE_MISMATCH y.handle.toNat
      require (x.tscale == ta) SCALE_TABLE_MISMATCH x.handle.toNat
      require (y.tscale == tb) SCALE_TABLE_MISMATCH y.handle.toNat
      require (x.seed == y.seed && x.layer == y.layer && x.control % 4 == y.control % 4 && x.layer == layer) TWIST_MISMATCH
      let s ← get
      let current := fun (t : Table) => ((s.desc t.source).map fun e => e.2.writeGen.toNat) == some t.gen
      require (current x) SCALE_TABLE_STALE x.handle.toNat
      require (current y) SCALE_TABLE_STALE y.handle.toNat
      pure (x, y)

/-- What a product reads of a table: the exponents A_IN and A_ALL of the operand's blocks row by row, the border entries in
operand coordinates (row, k, value), and the directory's truncated cells. -/
structure Scales where
  table   : Table
  exps    : List (List (Nat × Nat))
  entries : List (Nat × Nat × Num)
  trunc   : List Nat
deriving DecidableEq, Repr

/-- Rows `r` on of the exponent array, blocks from `j` on. -/
def readExps (t : Table) (j n : Nat) (die : Option Nat) (r : Nat) : Nat → Cmd (List (List (Nat × Nat)))
  | 0 => pure []
  | f + 1 => do
    let b ← readPadded t.handle (t.offset + t.expOff + (r * t.blocks + j) * 2) (2 * n) die
    let rest ← readExps t j n die (r + 1) f
    pure ((List.range n).map (fun i => (field b (2 * i) 1, field b (2 * i + 1) 1)) :: rest)

/-- The entries of a border list's bytes (Table 4.7) that lie in an operand. -/
def parseEntries (t : Table) (b : List Byte) (rows k : Nat) : List (Nat × Nat × Num) :=
  (List.range (b.length / 8)).filterMap fun i =>
    let r := field b (8 * i) 3
    let c := field b (8 * i + 3) 3
    if t.r0 ≤ r && r < t.r0 + rows && t.k0 ≤ c && c < t.k0 + k then
      some (r - t.r0, c - t.k0, decodeFlt fltBf16 (field b (8 * i + 6) 2))
    else none

/-- Reads what an operand of `rows` rows and reduction length `k` uses of its table. -/
def Table.read (t : Table) (rows k : Nat) (die : Option Nat) : Cmd Scales := do
  let exps ← readExps t (t.k0 / 32) (cdiv k 32) die t.r0 rows
  let cells := cdiv t.rows 256 * t.cols
  let dir ← readPadded t.handle (t.offset + t.dirOff) (4 * cells) die
  let size := (← get).handleSize t.handle
  let list ← readPadded t.handle (t.offset + t.listOff) (8 * Min.min t.count (size / 8)) die
  pure { table := t, exps, entries := parseEntries t list rows k,
         trunc := (List.range cells).filter fun i => bit (field dir (4 * i) 4) 31 }

/-- Whether a piece of operand rows `r` to `r + n - 1` and indices `k` to `k + m - 1` touches a truncated cell (R90). -/
def Scales.truncated (c : Scales) (r n k m : Nat) : Bool :=
  let t := c.table
  n ≠ 0 && m ≠ 0 && c.trunc.any fun i =>
    let rc := i / t.cols
    let kc := i % t.cols
    (t.r0 + r) / 256 ≤ rc && rc ≤ (t.r0 + r + n - 1) / 256 && (t.k0 + k) / 256 ≤ kc && kc ≤ (t.k0 + k + m - 1) / 256

/-- Border entries of a piece. -/
def Scales.countIn (c : Scales) (r n k m : Nat) : Nat :=
  c.entries.countP fun e => r ≤ e.1 && e.1 < r + n && k ≤ e.2.1 && e.2.1 < k + m

/-! ### One operand row at one rung (Table 4.1) -/

/-- A row as it enters the array: element values without block scale, which elements saturated, the block scales E (127
where there are none), A_IN of its blocks where R85 converted it, and its border entries by rising k. -/
structure Prep where
  elems  : List Num
  sats   : List Bool := []
  scales : List Nat := []
  ains   : List Nat := []
  border : List (Nat × Num) := []
deriving DecidableEq, Repr

/-- A quotient y / t as one FP32 operation, when the scale is enabled (R36, R78). -/
def scaleDown (t : Option Num) (y : Num) : Num :=
  match t with
  | some v => divF y v
  | none => y

/-- y / t into INT8 in one rounding (Table 4.1). DEDUCED, log 10. -/
def toInt8 (t : Option Num) (y : Num) : Conv :=
  match t, y with
  | some (.fin n d), .fin m e => let (neg, a, b, k) := quotient m e n d; convIntQuot 8 .rne neg a b k
  | some v, .inf a => convInt 8 .rne (.inf (a != v.isNeg))
  | _, y => convInt 8 .rne y

/-- A row at INT8 or a wide rung. -/
def prepWide (rung : Nat) (t : Option Num) (row : List Num) : Prep :=
  let cs := row.map fun y => if rung = 2 then toInt8 t y else convert rung .rne (scaleDown t y)
  { elems := cs.map fun c => decode rung c.code, sats := cs.map Conv.sat }

/-- One element at a block-scaled rung (R85, R86). -/
def prepElem (rung e : Nat) (border : Bool) (y : Num) : Conv :=
  if border || (e = 255 && borderRung rung) then { code := 0 } else convert rung .rne (y.scale (127 - e))

/-- A row of one side at a block-scaled rung without a scale table: every block takes scale 0x00 (R131). -/
def prepScaleless (rung : Nat) (t : Option Num) (row : List Num) : Prep :=
  let cs := row.map fun y => prepElem rung 0 false (scaleDown t y)
  { elems := cs.map fun c => decode rung c.code, sats := cs.map Conv.sat, scales := List.replicate (cdiv row.length 32) 0 }

/-- A row at a block-scaled rung. -/
def prepScaled (rung role : Nat) (t : Option Num) (tab : Table) (exps : List (Nat × Nat)) (border : List (Nat × Num))
    (row : List Num) : Prep :=
  let ys := (twist (twistSize tab.control) role tab.seed tab.layer tab.redLen tab.k0 row).map (scaleDown t)
  let xs := exps.map fun e => if borderRung rung then e.1 else e.2
  let es := xs.map fun x => if x = 255 then 255 else x - emaxOf rung
  let lane := if borderRung rung then border else []
  let cs := ys.mapIdx fun k y => prepElem rung (es.getD (k / 32) 0) (lane.any fun b => b.1 == k) y
  { elems := cs.map fun c => decode rung c.code, sats := cs.map Conv.sat, scales := es, ains := exps.map (·.1), border := lane }

/-! ### SCALE_PASS (R76 to R82) -/

/-- clamp(floor(log2 a) + 127, 0, 254), 0 for 0 (R78). -/
def expCode (a : Num) : Nat := if a.isZero then 0 else Min.min 254 (a.floorLog2 + 127).toNat

/-- One block: A_IN, A_ALL and the outliers as (index in the block, BF16 code) (R78 to R80). -/
def scaleBlock (tau : Num) (ys : List Num) : Nat × Nat × List (Nat × Nat) :=
  let ys := ys ++ List.replicate (32 - ys.length) (.fin 0 0)
  if ys.any fun y => !y.isFin then (255, 255, [])
  else
    let sq := ys.map fun y => mulF y y
    let h := mulF (mulF tau tau) (mulF (tree addF (.fin 0 0) sq) (.fin 1 (-5)))
    let out := sq.map fun v => tau.isFin && h.lt v
    let top := fun (l : List Num) => l.foldl (fun a y => a.max y.abs) (.fin 0 0)
    let ins := (ys.zip out).filterMap fun e => if e.2 then none else some e.1
    (expCode (top ins), expCode (top ys),
     ((List.range 32).zip (ys.zip out)).filterMap fun e => if e.2.2 then some (e.1, (convFlt fltBf16 .rne e.2.1).code) else none)

/-- A list cut into pieces of `n`. -/
def chunks {α : Type} (n : Nat) : Nat → List α → List (List α)
  | 0, _ => []
  | f + 1, l => if l.isEmpty then [] else l.take n :: chunks n f (l.drop n)

def pad512 (n : Nat) : Nat := cdiv n 512 * 512

/-- Bytes padded with zeros to a multiple of 512. -/
def padLine (b : List Byte) : List Byte := b ++ List.replicate (pad512 b.length - b.length) 0

/-- The fields of a SCALE_PASS (Table 4.3). -/
structure ScaleArgs where
  src     : BitVec 32
  dst     : BitVec 32
  srcOff  : Nat
  dstOff  : Nat
  rows    : Nat
  redLen  : Nat
  control : Nat
  tauCode : Nat
  tCode   : Nat
  seed    : Nat
  limit   : Nat
  layer   : Nat
  round   : Nat
deriving DecidableEq, Repr

def ScaleArgs.operand (a : ScaleArgs) : Operand :=
  { handle := a.src, offset := a.srcOff, orient := bit a.control 3, format := 0xA,
    pitch := 2 * (if bit a.control 3 then a.rows else a.redLen), table := 0, tableOffset := 0 }

def ScaleArgs.tscale (a : ScaleArgs) : Option Num := if bit a.control 4 then some (f32 a.tCode) else none
def ScaleArgs.empty (a : ScaleArgs) : Bool := a.rows == 0 || a.redLen == 0
def ScaleArgs.cells (a : ScaleArgs) : Nat := cdiv a.rows 256 * cdiv a.redLen 256
def ScaleArgs.dirOff (a : ScaleArgs) : Nat := 512 + pad512 (a.rows * cdiv a.redLen 32 * 2)
def ScaleArgs.listOff (a : ScaleArgs) : Nat := a.dirOff + pad512 (4 * (a.cells + 1))
def ScaleArgs.total (a : ScaleArgs) : Nat := if a.empty then 512 else a.listOff + pad512 (8 * a.limit)

/-- The header (Table 4.5). A table of no elements is its header alone; DIR_OFFSET and LIST_OFFSET are those of the empty regions; where
they do not fit their 32-bit fields, an exponent array of 4 GiB or more, their low 32 bits stand there. DESIGN CHOICE, log 64. -/
def ScaleArgs.header (a : ScaleArgs) (gen count nans : Nat) : List Byte :=
  leBytes 4 a.src.toNat ++ leBytes 4 gen ++ leBytes 8 a.seed ++ leBytes 2 a.layer ++ [BitVec.ofNat 8 a.control, 0] ++
  leBytes 4 a.rows ++ leBytes 4 a.redLen ++ leBytes 4 a.tauCode ++ leBytes 4 (if bit a.control 4 then a.tCode else 0x3F800000) ++
  leBytes 4 count ++ leBytes 4 a.round ++ leBytes 4 512 ++ leBytes 4 a.dirOff ++ leBytes 4 a.listOff ++ leBytes 4 nans ++
  leBytes 6 a.srcOff ++ List.replicate 446 0

/-- The whole cells that fit, in cell order, and the first that does not (R82). -/
def fitCells (limit : Nat) : Nat → List (List Nat) → Nat → List Nat × List Nat × Option Nat
  | _, [], n => ([], [n], none)
  | c, l :: t, n =>
    if n + l.length ≤ limit then
      let (es, ws, cut) := fitCells limit (c + 1) t (n + l.length)
      (l ++ es, n :: ws, cut)
    else ([], (List.replicate (t.length + 1) (2 ^ 31 + n)) ++ [n], some c)

/-- The result of the pass over the source's elements: the table's bytes, ENTRY_COUNT and the first truncated cell. -/
def ScaleArgs.build (a : ScaleArgs) (gen : Nat) (rows : List (List Num)) : List Byte × Nat × Option Nat :=
  if a.empty then (a.header gen 0 0, 0, none)
  else
    let tau := f32 a.tauCode
    let role := b2n (bit a.control 2)
    let blocks := rows.map fun row =>
      (chunks 32 row.length ((twist (twistSize a.control) role a.seed a.layer a.redLen 0 row).map (scaleDown a.tscale))).map (scaleBlock tau)
    let exps := blocks.flatMap fun r => r.flatMap fun b => [BitVec.ofNat 8 b.1, BitVec.ofNat 8 b.2.1]
    let entries := (blocks.mapIdx fun r bs => (bs.mapIdx fun j b => b.2.2.map fun o => (r, 32 * j + o.1, o.2)).flatten).flatten
    let cols := cdiv a.redLen 256
    let cells := (List.range a.cells).map fun c =>
      (entries.filter fun e => e.1 / 256 * cols + e.2.1 / 256 == c).map fun e => e.2.2 * 2 ^ 48 + e.2.1 * 2 ^ 24 + e.1
    let (list, words, cut) := fitCells a.limit 0 cells 0
    let nans := (blocks.map fun r => r.countP fun b => b.2.1 == 255).sum
    (a.header gen list.length nans ++ padLine exps ++ padLine (words.flatMap (leBytes 4)) ++ padLine (list.flatMap (leBytes 8)),
     list.length, cut)

def parseScale (p : Packet) (round : Nat) : ScaleArgs :=
  { src := p.handle 16, dst := p.handle 20, srcOff := p.num 24 6, dstOff := p.num 30 6, rows := p.num 36 3, redLen := p.num 39 3,
    control := p.num 42 1, tauCode := p.num 44 4, tCode := p.num 48 4, seed := p.num 52 8, limit := p.num 60 4,
    layer := p.layerId.toNat, round }

/-- R77. -/
def checkScale (p : Packet) (a : ScaleArgs) : Cmd Unit := do
  requireLive a.src
  requireLive a.dst
  require (a.control % 4 ≠ 3 && a.control / 32 == 0 && p.num 43 1 / 16 == 0) FORMAT_NOT_ALLOWED
  require (p.num 43 1 == 0xA) FORMAT_NOT_ALLOWED
  let tau := f32 a.tauCode
  require (tau == .inf false || ((Num.fin 1 0).le tau && tau.le (.fin 11 (-1)))) THRESHOLD_INVALID
  require (!bit a.control 4 || ((f32 a.tCode).isFin && !(f32 a.tCode).isZero)) TENSOR_SCALE_INVALID
  require (a.limit ≤ 0x7FFFFFFF) TABLE_REGION_SMALL
  require (a.srcOff % 512 == 0) ALIGNMENT 24
  require (a.dstOff % 512 == 0) ALIGNMENT 30
  checkRegion (a.operand.region a.rows a.redLen) 24 24
  require (a.dstOff + a.total ≤ (← get).handleSize a.dst) TABLE_REGION_SMALL

def planScalePass (p : Packet) : Cmd Plan := do
  let a := parseScale p (← get).tns.round.toNat
  checkScale p a
  pure { outs := [(a.dst, a.dstOff, a.total)], names := [a.src, a.dst],
         run := do
           let rows ← if a.empty then pure [] else a.operand.read a.rows a.redLen none
           let gen := (((← get).desc a.src).map fun e => e.2.writeGen.toNat).getD 0
           let (bytes, n, cut) := a.build gen rows
           match cut with
           | none => writeAnd none [(a.dst, a.dstOff, bytes)] {}
           | some c => writeAnd none [(a.dst, a.dstOff, bytes)] { status := BORDER_TRUNCATED, detail := n + c * 2 ^ 32 } }

/-- SCALE_PASS. -/
def execScalePass (q : Fin 64) (p : Packet) (s : State) : Host.Outcome State Fault Refusal :=
  .next (issueS q 0x03 p (planScalePass p) s)

end Sys2Proof.Machine
end

