-- ==== Sys2Proof/Machine/Array.lean ====
section
/-! DEFINITION. The splint array (chapter 3) and the border lane: runs, promotion into an accumulator, and the contributions
of one pass to one output row. -/

namespace Sys2Proof.Machine

/-! ### Modes (Tables 3.1, 3.3, 6.2) -/

/-- The blocks of each run of a slice, by format. -/
def runShape (rung : Nat) : List (List Nat) :=
  match rung with
  | 0 | 5 => List.replicate 8 [32, 32]
  | 2 | 0xA => List.replicate 4 [32]
  | 0xB => [[32], [32], [21]]
  | 0xC => [[32], [10]]
  | _ => List.replicate 8 [32]

/-- cap_K and cap_N. -/
def capK (rung : Nat) : Nat := (runShape rung).flatten.sum
def capN (rung : Nat) : Nat :=
  match rung with
  | 2 | 0xA => 128
  | 0xB => 85
  | 0xC => 42
  | _ => 256

/-! ### Accumulators (R126, R45, R62) -/

/-- What the coil holds: W40, INT32 in raw mode, BF16 in reduced service with the key of its draws. -/
inductive Acc where
  | wide
  | raw
  | reduced (k : DrawKey)
deriving DecidableEq, Repr

/-- The value of an accumulator. -/
def Acc.value (a : Acc) (c : BitVec 40) : Num :=
  match a with
  | .wide => w40 c.toNat
  | .raw => .fin (decodeInt 32 (c.toNat % 2 ^ 32)) 0
  | .reduced _ => decodeFlt fltBf16 (c.toNat % 65536)

/-- An exact value rounded into an accumulator (R60, R62, R45); `j` numbers the rounding, `index` the output element. -/
def Acc.round (a : Acc) (j index : Nat) (x : Num) : Conv :=
  match a with
  | .wide => convFlt fltW40 .rne x
  | .raw => convInt 32 .rne x
  | .reduced k => convFlt fltBf16 (.sr (k.draw 0 j index)) x

/-! ### Runs (R58 to R60) -/

/-- What one block of a run gives: its sum scaled by its two block scales, and the products flushed. -/
structure BlockSum where
  sum  : Num
  lost : Nat := 0
deriving DecidableEq, Repr

/-- The position T of the largest non-zero product. -/
def topBit (l : List Num) : Option Int :=
  l.foldl (fun t x =>
    if x.isFin && !x.isZero then
      match t with
      | none => some x.floorLog2
      | some b => some (Max.max b x.floorLog2)
    else t) none

/-- One block: the streaming and stationary elements and the block scales. -/
def blockSum (raw : Bool) (xs ws : List Num) (ex ew : Nat) : BlockSum :=
  let ps := List.zipWith Num.mul xs ws
  if ex = 255 || ew = 255 then { sum := .nan }
  else if ps.any fun p => !p.isFin then { sum := ps.foldl Num.add (.fin 0 0) }
  else
    let t := topBit ps
    let keep := fun (p : Num) => raw || p.isZero || (match t with | some b => p.floorLog2 > b - 28 | none => true)
    { sum := ((ps.filter keep).foldl Num.add (.fin 0 0)).scale ((ex : Int) + ew - 254), lost := ps.countP fun p => !keep p }

/-- The blocks of one slice of a row, run by run: elements and scale. -/
def cutBlocks (scales : List Nat) : Nat → List Nat → List Num → List (List Num × Nat)
  | _, [], _ => []
  | b, n :: t, l => (l.take n, if scales.isEmpty then 127 else scales.getD b 0) :: cutBlocks scales (b + 1) t (l.drop n)

def cutRuns (scales : List Nat) : Nat → List (List Nat) → List Num → List (List (List Num × Nat))
  | _, [], _ => []
  | b, r :: t, l => cutBlocks scales b r l :: cutRuns scales (b + r.length) t (l.drop r.sum)

/-- Slice `i` of a prepared row. -/
def Prep.slice (p : Prep) (rung i : Nat) : List (List (List Num × Nat)) :=
  let k := capK rung
  cutRuns p.scales (i * k / 32) (runShape rung) ((p.elems.drop (i * k)).take k)

/-- What a chain of promotions gives: the accumulator, products flushed, INT32 saturations, the next promotion's number. -/
structure Chain where
  code : BitVec 40
  lost : Nat := 0
  sats : Nat := 0
  j    : Nat := 0
deriving DecidableEq, Repr

/-- One run's promotion: all its block sums and the chain value in one addition (R60). -/
def promote (a : Acc) (index : Nat) (c : Chain) (x w : List (List Num × Nat)) : Chain :=
  let sums := List.zipWith (fun u v => blockSum (a == .raw) u.1 v.1 u.2 v.2) x w
  let special := sums.any fun b => !b.sum.isFin
  let r := a.round c.j index (sums.foldl (fun t b => t.add b.sum) (a.value c.code))
  { code := BitVec.ofNat 40 r.code, lost := c.lost + (if special then 0 else (sums.map BlockSum.lost).sum),
    sats := c.sats + b2n (r.sat && a == .raw), j := c.j + 1 }

/-- The runs of one slice promoted in band order (R61). -/
def promoteSlice (a : Acc) (index : Nat) (c : Chain) : List (List (List Num × Nat)) → List (List (List Num × Nat)) → Chain
  | x :: xt, w :: wt => promoteSlice a index (promote a index c x w) xt wt
  | _, _ => c

/-! ### The border lane (R87, R88) -/

/-- x' or w' of R87 at index `k`. -/
def Prep.value (p : Prep) (k : Nat) : Num :=
  match p.border.find? fun b => b.1 == k with
  | some b => b.2
  | none =>
    if p.scales.getD (k / 32) 127 = 255 then .nan
    else (p.elems.getD k (.fin 0 0)).scale ((p.scales.getD (k / 32) 127 : Int) - 127)

/-- The border additions of one pass into one accumulator, by rising `k` from `lo` to `hi - 1`. -/
def borderAdd (a : Acc) (index : Nat) (x w : Prep) (lo hi : Nat) (code : BitVec 40) : BitVec 40 :=
  let ks := (x.border ++ w.border).filterMap fun b => if lo ≤ b.1 && b.1 < hi then some b.1 else none
  (ks.foldl sinsert []).foldl (fun c k => BitVec.ofNat 40 (a.round 0 index ((a.value c).add ((x.value k).mul (w.value k)))).code) code

end Sys2Proof.Machine
end

