-- ==== Sys2Proof/Machine/Delivery.lean ====
section
/-! DEFINITION. How a command's stakes get what they read: the lines of an operand, their first
fetch for each die, and the multicast of every step of a matrix command (R125). -/

namespace Sys2Proof.Machine

/-! ### The lines of an operand -/

/-- A piece of an operand: rows `r` to `r + n - 1`, reduction indices `k` to `k + m - 1`. -/
structure Piece where
  r : Nat
  n : Nat
  k : Nat
  m : Nat
deriving DecidableEq, Repr

/-- The lines of its handle in which elements (rows `r` on, columns `c` on) of a region lie, each once, rising. -/
def Region.lines (g : Region) (r n c m : Nat) : List Nat :=
  if m = 0 then []
  else
    (((List.range n).flatMap fun i =>
      let a := (g.offset + (r + i) * g.pitch) * 8 + c * g.bits
      (List.range (cdiv (a + m * g.bits) 4096 - a / 4096)).map (a / 4096 + ·)).foldl
        (fun l x => if l.head? = some x then l else x :: l) []).reverse

/-- The lines of a piece of an operand of `rows` rows and reduction length `k`. -/
def Operand.lines (o : Operand) (rows k : Nat) (p : Piece) : List Nat :=
  let g := o.region rows k
  if o.orient then g.lines p.k p.m p.r p.n else g.lines p.r p.n p.k p.m

/-- The lines fetched so far, keyed line × 2 + die. -/
abbrev Fetched := Tab (List Byte)

/-- Fetches lines of a handle for a die, each once. -/
def fetchLines (h : BitVec 32) (idx : Nat) (d : Desc) (die : Nat) : List Nat → Fetched → Cmd Fetched
  | [], t => pure t
  | i :: l, t => do
    let s ← get
    let id := s.lineOf idx d i
    if (tfind t (id * 2 + die)).isSome then fetchLines h idx d die l t
    else
      match takeLine id { handle := h, offset := i * 512 } (some die) 6 s with
      | (.ok (bytes, _), s) =>
        set (traffic idx 1 s)
        fetchLines h idx d die l (tinsert t (id * 2 + die) bytes)
      | (.error f, s) =>
        set s
        throw f

/-- Fetches pieces of an operand for a die. -/
def Operand.fetch (o : Operand) (rows k die : Nat) (ps : List Piece) (t : Fetched) : Cmd Fetched := do
  match (← get).desc o.handle with
  | none => refuse HANDLE_INVALID o.handle.toNat
  | some (idx, d) => fetchLines o.handle idx d die (ps.flatMap (o.lines rows k)) t

/-- The bytes of a line that some die has fetched. -/
def Fetched.line (t : Fetched) (id : Nat) : List Byte :=
  match tfind t (id * 2) with
  | some b => b
  | none => tget [] t (id * 2 + 1)

/-- An operand's elements row by row, from the lines fetched. -/
def Operand.rows (o : Operand) (rows k : Nat) (t : Fetched) (s : State) : List (List Num) :=
  let g := o.region rows k
  let codes : List (List Nat) := match g.empty, s.desc o.handle with
    | false, some (idx, d) => (List.range g.rows).map fun r =>
      let off := g.offset + r * g.pitch
      let bytes := (g.lines r 1 0 g.cols).flatMap fun i => t.line (s.lineOf idx d i)
      rowCodes (slice bytes (off % 512) g.rowBytes) g.bits g.cols
    | _, _ => List.replicate g.rows []
  (if o.orient then transpose rows codes else codes).map fun r => r.map (decode o.format)

/-! ### Multicast (R125) -/

/-- A multicast descriptor: the hoops of a die, and the stakes of each hoop named, hoops rising. -/
structure Multicast where
  hoopMask   : BitVec 12
  stakeMasks : List (BitVec 8)
deriving DecidableEq, Repr

/-- The descriptor of a line for stakes of one die. -/
def multicast (stakes : List Nat) : Multicast :=
  let hoops := (List.range 12).filter fun h => stakes.any fun i => i % 96 / 8 == h
  { hoopMask := hoops.foldl (fun m h => m ||| 1#12 <<< h) 0,
    stakeMasks := hoops.map fun h => stakes.foldl (fun m i => if i % 96 / 8 = h then m ||| 1#8 <<< (i % 8) else m) 0 }

/-- The stakes a descriptor names on a die. -/
def Multicast.stakesOf (m : Multicast) (die : Nat) : List Nat :=
  (((List.range 12).filter m.hoopMask.getLsbD).zip m.stakeMasks).flatMap fun e =>
    ((List.range 8).filter e.2.getLsbD).map fun i => die * 96 + e.1 * 8 + i

/-- The hoops a descriptor names. -/
def Multicast.hoops (m : Multicast) : List Nat := (List.range 12).filter m.hoopMask.getLsbD

/-- The counts of a delivery on a die (Tables 13.1, 13.2): the descriptor at each hoop it names, the line once for each stake, which checks
its strand and writes it into its operand store, and its crossing of the bridge, where it comes from the other die, at the first hoop.
DESIGN CHOICE, log 64. -/
def countMulticast (die id : Nat) (m : Multicast) (s : State) : State :=
  let s := (m.stakesOf die).foldl (fun s k => count 0 k 27 1 (count 0 k 23 1 s)) s
  let s := (m.hoops.zip m.stakeMasks).foldl (fun s e =>
    count 1 (die * 12 + e.1) 3 1 (count 1 (die * 12 + e.1) 2 ((List.range 8).countP e.2.getLsbD) s)) s
  if lineDie id = die then s else count 1 (die * 12 + m.hoops.headD 0) 11 1 s

/-- Delivers a line to the stakes of a die that consume it at a step. What the first fetch brought is not read again; `seen` holds
the lines that have been delivered (line × 2 + die). -/
def deliverLine (h : BitVec 32) (idx : Nat) (d : Desc) (die i : Nat) (stakes seen : List Nat) : Cmd (List Nat) := do
  let s ← get
  let id := s.lineOf idx d i
  if seen.contains (id * 2 + die) then
    match takeLine id { handle := h, offset := i * 512 } (some die) 6 s with
    | (.ok _, s) =>
      set (countMulticast die id (multicast stakes) (traffic idx 1 s))
      pure seen
    | (.error f, s) =>
      set s
      throw f
  else
    set (countMulticast die id (multicast stakes) s)
    pure ((id * 2 + die) :: seen)

def deliverLines (h : BitVec 32) (idx : Nat) (d : Desc) (die : Nat) (takes : List (Nat × List Nat)) :
    List Nat → List Nat → Cmd (List Nat)
  | [], seen => pure seen
  | i :: l, seen => do
    let stakes := (takes.filter fun e => e.2.contains i).map (·.1)
    let seen ← deliverLine h idx d die i stakes seen
    deliverLines h idx d die takes l seen

/-- One operand's deliveries at a step on a die: `takes` are the stakes with the lines that each consumes. -/
def Operand.deliver (o : Operand) (die : Nat) (takes : List (Nat × List Nat)) (seen : List Nat) : Cmd (List Nat) := do
  match (← get).desc o.handle with
  | none => refuse HANDLE_INVALID o.handle.toNat
  | some (idx, d) => deliverLines o.handle idx d die takes ((takes.flatMap (·.2)).foldl sinsert []) seen

/-- A pass of a stake as delivery sees it: the rows it streams, its stationary columns, its slice (R121), its step (R124), and whether its
stake still has what it streams or loads (Table 6.3). -/
structure Pass where
  stake : Nat
  r0    : Nat
  rows  : Nat
  n0    : Nat
  cols  : Nat
  lo    : Nat
  hi    : Nat
  step  : Nat
  hasA  : Bool := false
  hasB  : Bool := false
deriving DecidableEq, Repr

/-- A stake's passes, in the order in which they run, with what stays in its operand store marked: in order 2 a slice of A across the
column tiles, in order 3 a stationary slice of B across the row chunks (Table 6.3). `prev` holds those before, the last one first. -/
def keep (order tm tn : Nat) : List Pass → List Pass → List Pass
  | _, [] => []
  | prev, p :: t =>
    let sameA := fun (q : Pass) => q.r0 / tm == p.r0 / tm && q.lo == p.lo && q.hi == p.hi
    let sameB := fun (q : Pass) => q.n0 / tn == p.n0 / tn && q.lo == p.lo && q.hi == p.hi
    { p with hasA := order == 2 && (prev.takeWhile sameA).any fun q => q.r0 == p.r0 && q.rows == p.rows,
             hasB := order == 3 && (prev.takeWhile sameB).any fun q => q.n0 == p.n0 && q.cols == p.cols } ::
      keep order tm tn (p :: prev) t

/-- The passes of a command by step (R124). -/
def stepsOf (ps : List Pass) : List (List Pass) :=
  (List.range ((ps.map (·.step + 1)).foldl Max.max 0)).map fun i => ps.filter fun p => p.step == i

/-- The deliveries of the steps, a die after the other, A before B. -/
def deliverSteps (a b : Operand) (m n k : Nat) : List (List Pass × Nat) → List Nat → Cmd Unit
  | [], _ => pure ()
  | (ps, die) :: t, seen => do
    let here := ps.filter fun p => p.stake / 96 == die
    let takes := fun (o : Operand) (rows : Nat) (l : List Pass) (f : Pass → Piece) => l.map fun p => (p.stake, o.lines rows k (f p))
    let as := here.filter fun p => !p.hasA
    let bs := here.filter fun p => !p.hasB
    let seen ← a.deliver die (takes a m as fun p => { r := p.r0, n := p.rows, k := p.lo, m := p.hi - p.lo }) seen
    let seen ← b.deliver die (takes b n bs fun p => { r := p.n0, n := p.cols, k := p.lo, m := p.hi - p.lo }) seen
    deliverSteps a b m n k t seen

end Sys2Proof.Machine
end

