-- ==== Sys2Proof/Machine/Matrix.lean ====
section
/-! DEFINITION. MATMUL and MATMUL_ACC: checks, grid, steps, attempts, shadows and the epilogue (chapters 5, 6 and 9). -/

namespace Sys2Proof.Machine

/-- A matrix command whose checks have passed, with its operands' elements. `beta` is present for MATMUL_ACC, `tprod` where
a per-tensor scale is enabled; `rungs` is the ladder, one rung for kind 3. -/
structure Job where
  m      : Nat
  n      : Nat
  k      : Nat
  tm     : Nat
  tn     : Nat
  order  : Nat
  base   : Nat
  gm     : Nat
  gn     : Nat
  group  : Group
  layer  : Nat
  op     : Nat
  round  : Nat
  kind   : Nat
  rung   : Nat
  rungs  : List Nat
  outFmt : Nat
  rmode  : Nat
  acc    : Acc
  beta   : Option Num
  ta     : Option Num
  tb     : Option Num
  tprod  : Option Num
  cfg    : LayerCfg
  ctrl   : Nat
  force  : Bool
  stats  : Bool
  c      : Operand
  xs     : List (List Num) := []
  ws     : List (List Num) := []
  xt     : Option Scales := none
  wt     : Option Scales := none
  cs     : List (List Num) := []
deriving DecidableEq, Repr

/-- Both operands' rows at one rung. -/
structure Preps where
  rung : Nat
  x    : List Prep
  w    : List Prep
deriving DecidableEq, Repr

/-- A row of one side at a rung; `plain` is the shadow's reference, without twist and border lane (R98). At a block-scaled rung that
a re-weave reaches from a wide one, with no scale table that fits the operand, blocks take scale 0x00 (R131), with no twist and no border
lane (DESIGN CHOICE, log 64). -/
def prepSide (raw plain : Bool) (rung role : Nat) (t : Option Num) (sc : Option Scales) (rows : List (List Num)) : List Prep :=
  rows.mapIdx fun r row =>
    if raw then { elems := row }
    else
      match plain || wideRung rung || rung == 2, sc with
      | false, some c =>
        prepScaled rung role t c.table (c.exps.getD r []) ((c.entries.filter fun e => e.1 == r).map (·.2)) row
      | false, none => prepScaleless rung t row
      | true, _ => prepWide rung t row

def Job.preps (j : Job) (plain : Bool) (rung : Nat) : Preps :=
  { rung, x := prepSide (j.acc == .raw) plain rung 0 j.ta j.xt j.xs, w := prepSide (j.acc == .raw) plain rung 1 j.tb j.wt j.ws }

/-- An output tile (R121). `p` is the position of R97. -/
structure Tile where
  stake : Nat
  base  : Nat
  cr0   : Nat
  r0    : Nat
  rows  : Nat
  c0    : Nat
  cols  : Nat
  p     : Nat
deriving DecidableEq, Repr

/-- A re-weave as it is traced: cause, tile, old and new rung, the attempt that ended. -/
structure Reweave where
  cause   : Nat
  tile    : Tile
  old     : Nat
  new     : Nat
  attempt : Nat
deriving DecidableEq, Repr

/-- The command under way: accumulators, statistics, stake counters (stake × 32 + index), the products flushed by the present
attempt of each tile, the tiles that have drained, each tile's stake and outputs as (row, column, codes), the re-weaves, the
passes that have run, the last one first, and the step at which the stake is (R124). -/
structure Run where
  coil  : Tab (BitVec 40)
  stats : TStats := {}
  cnt   : Tab Nat := []
  lost  : Tab Nat := []
  done  : List Nat := []
  outs  : List (Nat × List (Nat × Nat × List Nat)) := []
  rw    : List Reweave := []
  passes : List Pass := []
  step   : Nat := 0
deriving DecidableEq, Repr

def Run.bump (r : Run) (stake index n : Nat) : Run := { r with cnt := tmod 0 r.cnt (stake * 32 + index) (· + n) }
def Run.stat (r : Run) (f : TStats → TStats) : Run := { r with stats := f r.stats }

/-- The statistics of a command that keeps them; the stake counters count in every service (R295). -/
def Run.statOf (r : Run) (j : Job) (f : TStats → TStats) : Run := if j.stats then r.stat f else r

/-! ### Statistics of a conversion (R92, R96) -/

/-- Elements, saturations and blocks of one row of one slice, added. -/
def countRow (base : Int) (p : Prep) (lo hi : Nat) (t : TStats) : TStats :=
  let sats := ((p.sats.drop lo).take (hi - lo)).countP (·)
  let t := { t with saturations := sat64 (t.saturations + sats) }
  if p.scales.isEmpty then t
  else
    let border := p.border.countP fun b => lo ≤ b.1 && b.1 < hi
    let ains := (p.ains.drop (lo / 32)).take (cdiv hi 32 - lo / 32)
    { t with elements := sat64 (t.elements + (hi - lo - border)),
             hist := ains.foldl (fun h a => tmod 0 h (histBin a base) fun n => sat32 (n + 1)) t.hist }

def rowCounts (p : Prep) (lo hi : Nat) : Nat × Nat :=
  (((p.sats.drop lo).take (hi - lo)).countP (·),
   if p.scales.isEmpty then 0 else hi - lo - p.border.countP fun b => lo ≤ b.1 && b.1 < hi)

/-- Counts rows of a pass, in the statistics and in the stake's counters. -/
def Run.countRows (r : Run) (j : Job) (stake lo hi : Nat) (ps : List Prep) : Run :=
  let r := r.statOf j fun t => ps.foldl (fun t p => countRow j.cfg.histBase p lo hi t) t
  let n := ps.foldl (fun n p => let c := rowCounts p lo hi; (n.1 + c.1, n.2 + c.2)) (0, 0)
  (r.bump stake 9 n.2).bump stake 10 n.1

/-! ### Accumulators (R126, R127) -/

/-- The key of the accumulator of row `m` and column `n` in `State.coil`. -/
def Tile.key (t : Tile) (m n : Nat) : Nat :=
  let d := m - t.cr0
  t.stake * 2 ^ 18 + (t.base + d / 256) % 4 * 2 ^ 16 + d % 256 * 256 + (n - t.c0)

/-- x / y of exact values rounded once into W40. -/
def divW40 (x y : Num) : Nat := divFlt fltW40 .rne x y

/-- The INIT value of an accumulator (R127). -/
def Job.init (j : Job) (m n : Nat) : Conv :=
  match j.beta with
  | none => { code := 0 }
  | some b =>
    let x := ((j.cs.getD m []).getD n (.fin 0 0)).mul b
    match j.acc, j.tprod with
    | .wide, some t => { code := divW40 x t }
    | a, _ => a.round 0xFFFFF (m * j.n + n) x

/-- The output code of an accumulator: R63, the output conversion, and the value that was converted (R127 DRAIN). -/
def Job.output (j : Job) (m n : Nat) (v : Num) : Num × Nat :=
  match j.acc with
  | .raw => (v, (convInt 32 .rne v).code)
  | .reduced k => (v, (convert j.outFmt (.sr (k.draw 1 0 (m * j.n + n))) v).code)
  | .wide =>
    let v := match j.tprod with
      | some t => w40 (toW40 (v.mul t))
      | none => v
    (v, (convert j.outFmt (if j.rmode = 1 then .rtz else .rne) v).code)

/-! ### Passes (R121, R127) -/

/-- One output row of one pass: the runs of slice `s` for columns `n0` to `n0 + w - 1`, then its border additions (R88). -/
def rowPass (j : Job) (pr : Preps) (t : Tile) (s n0 w m : Nat) (r : Run) : Run :=
  let x := pr.x.getD m { elems := [] }
  let xb := x.slice pr.rung s
  let lo := s * capK pr.rung
  let hi := Min.min j.k (lo + capK pr.rung)
  let first := s * (runShape pr.rung).length
  (List.range w).foldl (fun r i =>
    let n := n0 + i
    let key := t.key m n
    let y := pr.w.getD n { elems := [] }
    let index := m * j.n + n
    let c := promoteSlice j.acc index { code := tget 0 r.coil key, j := first } xb (y.slice pr.rung s)
    let code := borderAdd j.acc index x y lo hi c.code
    let r := { r with coil := tset 0 r.coil key code, lost := tmod 0 r.lost t.p (· + c.lost) }
    ((r.statOf j fun u => { u with runLoss := sat64 (u.runLoss + c.lost), saturations := sat64 (u.saturations + c.sats) }).bump
      t.stake 11 c.lost).bump t.stake 10 c.sats) r

/-- The whole groups of one slice that the twist transforms in `rows` rows of a side (R74). -/
def twistGroups (raw : Bool) (rung : Nat) (sc : Option Scales) (rows lo hi : Nat) : Nat :=
  match !raw && (borderRung rung || fp8Rung rung), sc with
  | true, some c =>
    let n := twistSize c.table.control
    if n = 0 then 0 else rows * Min.min (cdiv (hi - lo) n) ((c.table.redLen - (c.table.k0 + lo)) / n)
  | _, _ => 0

/-- A pass's own counts (Table 13.1): its multiply-adds by width, a slot row read and written for each row streamed, and the groups
twisted for what it loads and streams. -/
def Run.countPass (r : Run) (j : Job) (rung : Nat) (p : Pass) (fresh : Bool) : Run :=
  let wide := rung == 2 || wideRung rung
  let groups := twistGroups (j.acc == .raw) rung j.xt p.rows p.lo p.hi +
    (if fresh then twistGroups (j.acc == .raw) rung j.wt p.cols p.lo p.hi else 0)
  (((r.bump p.stake (if wide then 8 else 7) (p.rows * p.cols * (p.hi - p.lo))).bump p.stake 24 p.rows).bump p.stake 25 p.rows).bump
    p.stake 31 groups

/-- A tile's rows in one pass (slice `s`, columns from `n0` on). `joined` holds the entries that the pass has already met in
the rows before, when these rows go on with it (R122); answers the entries met so far. -/
def tilePass (j : Job) (pr : Preps) (t : Tile) (s n0 : Nat) (joined : Option Nat) (r : Run) : Nat × Run :=
  let w := Min.min (t.c0 + t.cols) (n0 + capN pr.rung) - n0
  let lo := s * capK pr.rung
  let hi := Min.min j.k (lo + capK pr.rung)
  let xs := (pr.x.drop t.r0).take t.rows
  let ws := (pr.w.drop n0).take w
  let entries := fun (ps : List Prep) => (ps.map fun p => p.border.countP fun b => lo ≤ b.1 && b.1 < hi).sum
  let p : Pass := { stake := t.stake, r0 := t.r0, rows := t.rows, n0, cols := w, lo, hi, step := r.step }
  let r := { r with passes := match joined, r.passes with
    | some _, q :: l => { q with rows := q.rows + t.rows } :: l
    | _, l => p :: l }
  let r := r.countPass j pr.rung p joined.isNone
  let r := if joined.isSome then r
           else ((r.countRows j t.stake lo hi ws).bump t.stake 1 1).bump t.stake 3 256
  let r := (r.countRows j t.stake lo hi xs).bump t.stake 2 t.rows
  let r := (List.range t.rows).foldl (fun r i => rowPass j pr t s n0 w (t.r0 + i) r) r
  let new := entries xs + (if joined.isSome then 0 else entries ws)
  let total := joined.getD 0 + new
  let r := r.statOf j fun u =>
    { u with borderEntries := sat64 (u.borderEntries + new), borderPeak := Max.max u.borderPeak total }
  (total, (r.bump t.stake 12 new).bump t.stake 13 (entries xs + entries ws * cdiv t.rows 256))

/-- INIT of a tile's accumulators; its attempt's flush count starts again. A β·C INIT writes a slot row for each row. -/
def beginTile (j : Job) (t : Tile) (r : Run) : Run :=
  let r := { r with lost := tset 0 r.lost t.p 0 }
  let r := if j.beta.isSome then r.bump t.stake 25 t.rows else r
  (List.range t.rows).foldl (fun r i => (List.range t.cols).foldl (fun r k =>
    let c := j.init (t.r0 + i) (t.c0 + k)
    let r := { r with coil := tset 0 r.coil (t.key (t.r0 + i) (t.c0 + k)) (BitVec.ofNat 40 c.code) }
    if c.sat && j.acc == .raw then
      (r.statOf j fun u => { u with saturations := sat64 (u.saturations + 1) }).bump t.stake 10 1
    else r) r) r

/-- All passes of an attempt, one after another (R123, R129). -/
def allPasses (j : Job) (pr : Preps) (t : Tile) (r : Run) : Run :=
  (List.range (cdiv j.k (capK pr.rung))).foldl (fun r s =>
    (List.range (cdiv t.cols (capN pr.rung))).foldl (fun r i => (tilePass j pr t s (t.c0 + i * capN pr.rung) none r).2) r) r

/-! ### Re-weaves (R90, R91, R100 to R104) -/

/-- R90: some border piece of the tile holds more than 1,024 entries, or touches a truncated cell. -/
def overflows (j : Job) (rung : Nat) (t : Tile) : Bool :=
  match borderRung rung && j.acc == .wide, j.xt, j.wt with
  | true, some x, some w =>
    (List.range (cdiv j.k (capK rung))).any fun s => (List.range (cdiv t.cols (capN rung))).any fun i =>
      let k := s * capK rung
      let n := t.c0 + i * capN rung
      let km := Min.min j.k (k + capK rung) - k
      let nm := Min.min (t.c0 + t.cols) (n + capN rung) - n
      x.truncated t.r0 t.rows k km || w.truncated n nm k km || x.countIn t.r0 t.rows k km + w.countIn n nm k km > 1024
  | _, _, _ => false

/-- The rungs after `r` on the ladder; none where `r` is not on it. -/
def rungsAfter (j : Job) (r : Nat) : List Nat := (j.rungs.dropWhile (· ≠ r)).drop 1

/-- R91 and R102. -/
def rungAfterOverflow (j : Job) (r : Nat) : Nat := ((rungsAfter j r).find? fun x => !borderRung x).getD 0xA
def rungAfter (j : Job) (r : Nat) : Nat := (rungsAfter j r).headD 0xA

/-- Counts a re-weave (R104); the first of a tile counts the tile. -/
def Run.reweave (r : Run) (j : Job) (e : Reweave) : Run :=
  let again := r.rw.any fun x => x.tile.p == e.tile.p
  let r := { r with rw := r.rw ++ [e] }
  let r := r.statOf j fun u => { u with
      reweaves := sat32 (u.reweaves + 1), reweaveTiles := sat32 (u.reweaveTiles + b2n (!again)),
      borderOvf := sat32 (u.borderOvf + b2n (e.cause == 1)), runlossTrig := sat32 (u.runlossTrig + b2n (e.cause == 2)),
      shadowDisagree := sat32 (u.shadowDisagree + b2n (e.cause == 3)) }
  (((r.bump e.tile.stake 14 1).bump e.tile.stake 15 (b2n (e.cause == 1))).bump e.tile.stake 16 (b2n (e.cause == 2))).bump
    e.tile.stake 18 (b2n (e.cause == 3))

/-- Tile setup (R90, R91): the rung the attempt runs at. -/
def setupTile (j : Job) (t : Tile) (rung attempt : Nat) (r : Run) : Nat × Run :=
  if overflows j rung t then
    let new := rungAfterOverflow j rung
    (new, r.reweave j { cause := 1, tile := t, old := rung, new, attempt })
  else (rung, r)

/-! ### Shadows (R97 to R99) -/

/-- R97, but for the rung. -/
def shadowed (j : Job) (t : Tile) : Bool :=
  bit j.ctrl 1 && j.kind < 3 &&
    (j.force ||
      mix (((j.round + j.layer * 2 ^ 32) % 2 ^ 64) ^^^ ((j.op * 2 ^ 32 + t.p) % 2 ^ 64)) / 2 ^ (64 - bits j.ctrl 11 8) == 0)

/-- The strip's reference results at REF_RUNG, as accumulator codes in row-major order (R98). -/
def reference (j : Job) (t : Tile) (rows : Nat) : List (BitVec 40) :=
  let pr := j.preps true (bits j.cfg.policy.toNat 27 24)
  (List.range rows).flatMap fun i => (List.range t.cols).map fun k =>
    let m := t.r0 + i
    let n := t.c0 + k
    let start : Chain := { code := BitVec.ofNat 40 (j.init m n).code }
    ((List.range (cdiv j.k (capK pr.rung))).foldl (fun c s =>
      promoteSlice j.acc (m * j.n + n) c ((pr.x.getD m { elems := [] }).slice pr.rung s)
        ((pr.w.getD n { elems := [] }).slice pr.rung s)) start).code

/-- How a comparison ends: not made, or made with whether it disagrees and the FP32 code of its error (R99). -/
inductive Compared where
  | nonfinite
  | made (disagree : Bool) (err : Nat)
deriving DecidableEq, Repr

def compareStrips (tol : Num) (cn cr : List Num) : Compared :=
  if cr.any fun x => !x.isFin then .nonfinite
  else if cr.all Num.isZero then
    (if cn.all Num.isZero then .made false 0 else .made true 0x7F800000)
  else
    let e := (cr.foldl (fun (a : Num) x => a.max x.abs) (Num.fin 0 0)).floorLog2
    let scaled := fun (x : Num) => f32 (toF32 (x.scale (-e)))
    let sq := fun (l : List Num) => tree addF (.fin 0 0) (l.map fun x => mulF x x)
    let num := sq (List.zipWith (fun a b => scaled (subF a b)) cn cr)
    let den := sq (cr.map scaled)
    .made ((mulF (mulF tol tol) den).lt num || cn.any fun x => !x.isFin) (toF32 (sqrtF (divF num den)))

/-- The shadow of a tile whose attempt has ended: whether it disagrees, with its counts (R98, R99, R104). -/
def shadow (j : Job) (t : Tile) (r : Run) : Bool × Run :=
  let rows := Min.min 256 t.rows
  let narrow := (List.range rows).flatMap fun i => (List.range t.cols).map fun k => tget 0 r.coil (t.key (t.r0 + i) (t.c0 + k))
  let toF := fun (l : List (BitVec 40)) => l.map fun c => f32 (toF32 (w40 c.toNat))
  match compareStrips (f32 j.cfg.shadowTol.toNat) (toF narrow) (toF (reference j t rows)) with
  | .nonfinite => (false, r.stat fun u => { u with shadowNonfinite := sat32 (u.shadowNonfinite + 1) })
  | .made bad err =>
    (bad, (r.stat fun u => { u with shadowTaken := sat32 (u.shadowTaken + 1), shadowErrMax := Max.max u.shadowErrMax err }).bump
      t.stake 17 1)

/-- The tests after an attempt's last pass (R100, R101, R103): the cause of a re-weave, and whether a shadow was taken. -/
def attemptTests (j : Job) (t : Tile) (rung : Nat) (r : Run) : Option Nat × Bool × Run :=
  if wideRung rung || j.kind = 3 then (none, false, r)
  else if fp8Rung rung && bit j.ctrl 3 &&
      tget 0 r.lost t.p * 2 ^ 24 > bits j.cfg.runloss.toNat 15 0 * (t.rows * t.cols * j.k) then (some 2, false, r)
  else if shadowed j t then
    let (bad, r) := shadow j t r
    (if bad then some 3 else none, true, r)
  else (none, false, r)

/-! ### The epilogue (R63, R127) -/

/-- Whether an output counts as an underflow (Table 5.2). -/
def underflowed (fmt : Nat) (v : Num) (code : Nat) : Bool :=
  v.isFin && !v.isZero &&
    (match formatKind fmt with
     | some (.flt f) => bits code (f.ebits + f.fbits - 1) f.fbits == 0
     | _ => false)

/-- DRAIN of a tile. -/
def drainTile (j : Job) (t : Tile) (r : Run) : Run :=
  let rows : List (List (Num × Nat)) := (List.range t.rows).map fun i => (List.range t.cols).map fun k =>
    j.output (t.r0 + i) (t.c0 + k) (j.acc.value (tget 0 r.coil (t.key (t.r0 + i) (t.c0 + k))))
  let out := rows.mapIdx fun i (l : List (Num × Nat)) => (t.r0 + i, t.c0, l.map Prod.snd)
  let r := { r with done := t.p :: r.done, outs := r.outs ++ [(t.stake, out)] }
  ((r.bump t.stake 24 t.rows).bump t.stake 26 t.rows).statOf j fun u =>
    let u := { u with tiles := sat32 (u.tiles + 1) }
    if j.kind = 1 || j.kind = 2 then
      { u with outElems := sat64 (u.outElems + t.rows * t.cols),
               underflows := sat64 (u.underflows + (rows.map fun l => l.countP fun e => underflowed j.outFmt e.1 e.2).sum) }
    else u

/-- An attempt at `rung` has run its passes: its tests, then its drain or further attempts (at most five in all, R103).
Answers whether a shadow or a re-weave ran. -/
def settle (j : Job) (t : Tile) : Nat → Nat → Run → Bool × Run
  | 0, _, r => (true, drainTile j t r)
  | n + 1, rung, r =>
    match attemptTests j t rung r with
    | (none, cut, r) => (cut, drainTile j t r)
    | (some cause, _, r) =>
      let next := rungAfter j rung
      let r := r.reweave j { cause, tile := t, old := rung, new := next, attempt := 5 - n }
      let (next, r) := setupTile j t next (6 - n) r
      (true, (settle j t n next (allPasses j (j.preps false next) t (beginTile j t r))).2)

/-! ### Steps (R124 to R129) -/

/-- The output tiles of chunk tile (i, c), the `number`-th of its stake (R121, R126). -/
def chunkTiles (j : Job) (stake number i c : Nat) : List Tile :=
  let cr0 := i * j.tm
  let rows := Min.min j.m (cr0 + j.tm) - cr0
  let c0 := c * j.tn
  let cols := Min.min j.n (c0 + j.tn) - c0
  let base := (j.base + number * cdiv (Min.min j.tm j.m) 256) % 4
  (List.range (cdiv rows 1024)).map fun t =>
    { stake, base, cr0, r0 := cr0 + 1024 * t, rows := Min.min 1024 (rows - 1024 * t), c0, cols,
      p := (i * cdiv j.tm 1024 + t) * cdiv j.n j.tn + c }

/-- A tile's share of one pass, with its setup before the first and its tests after the last. -/
def stepTile (j : Job) (pr : Preps) (s st slices sts : Nat) (t : Tile) (a : Option Nat × Run) : Option Nat × Run :=
  let (joined, r) := a
  if r.done.contains t.p then (none, r)
  else
    let first := s = 0 && st = 0
    let (rung, r) := if first then setupTile j t pr.rung 1 r else (pr.rung, r)
    if rung ≠ pr.rung then
      (none, (settle j t 4 rung (allPasses j (j.preps false rung) t (beginTile j t r))).2)
    else
      let r := if first then beginTile j t r else r
      let (n, r) := tilePass j pr t s (t.c0 + st * capN pr.rung) joined r
      if s + 1 = slices && st + 1 = sts then
        let (cut, r) := settle j t 5 rung r
        (if cut then none else some n, r)
      else (some n, r)

/-- The passes of slice `s` of a chunk tile, its stationary tiles in ascending order (R123), a step each (R124); a re-woven tile's all fall
at the step of its first, or of the attempt that failed, and the steps that it skips pass (R129). -/
def runStep (j : Job) (pr : Preps) (tiles : List Tile) (s : Nat) (r : Run) : Run :=
  let slices := cdiv j.k (capK pr.rung)
  let sts := cdiv ((tiles.map (·.cols)).headD 0) (capN pr.rung)
  (List.range sts).foldl (fun r st =>
    let r := (tiles.foldl (fun a t => stepTile j pr s st slices sts t a) (none, r)).2
    { r with step := r.step + 1 }) r

/-- The steps (i, c, s) of a stake in the loop order (Table 6.3). -/
def stepOrder (order : Nat) (ms ns ks : List Nat) : List (Nat × Nat × Nat) :=
  match order with
  | 0 => ms.flatMap fun i => ns.flatMap fun c => ks.map fun s => (i, c, s)
  | 1 => ns.flatMap fun c => ms.flatMap fun i => ks.map fun s => (i, c, s)
  | 2 => ms.flatMap fun i => ks.flatMap fun s => ns.map fun c => (i, c, s)
  | 3 => ns.flatMap fun c => ks.flatMap fun s => ms.map fun i => (i, c, s)
  | 4 => ks.flatMap fun s => ms.flatMap fun i => ns.map fun c => (i, c, s)
  | _ => ks.flatMap fun s => ns.flatMap fun c => ms.map fun i => (i, c, s)

/-- The row chunks and column tiles of member `g` (R124). -/
def memberChunks (j : Job) (g : Nat) : List Nat :=
  let mc := cdiv j.m j.tm
  (List.range mc).filter fun i => i / cdiv mc j.gm == g / j.gn
def memberColumns (j : Job) (g : Nat) : List Nat :=
  let nt := cdiv j.n j.tn
  (List.range nt).filter fun c => c / cdiv nt j.gn == g % j.gn

/-- One stake's work. Chunk tiles are numbered in the order in which their first passes run (R126). -/
def runMember (j : Job) (pr : Preps) (g : Nat) (r : Run) : Run :=
  let steps := stepOrder j.order (memberChunks j g) (memberColumns j g) (List.range (cdiv j.k (capK pr.rung)))
  let stake := j.group.first + g
  (steps.foldl (fun (a : List (Nat × Nat) × Run) e =>
    let seen := if a.1.contains (e.1, e.2.1) then a.1 else a.1 ++ [(e.1, e.2.1)]
    let number := (firstIdx (fun x => x == (e.1, e.2.1)) seen).getD 0
    (seen, runStep j pr (chunkTiles j stake number e.1 e.2.1) e.2.2 a.2)) ([], { r with step := 0 })).2

/-- The whole grid, stake by stake. -/
def runGrid (j : Job) (coil : Tab (BitVec 40)) : Run :=
  let pr := j.preps false j.rung
  (List.range j.group.count).foldl (fun r g => runMember j pr g r) { coil }

/-! ### The command (R70, R71, R206, R207) -/

/-- The tiling word's fields and reserved bits (Table 6.1). -/
def tilingReserved (w : Nat) : Bool := bit w 27 || bits w 31 30 ≠ 0 || w / 2 ^ 48 ≠ 0

/-- One dimension: a literal, or a reference (R136, R137). A referenced word that begins below the handle's SIZE and ends beyond it, where
SIZE is no multiple of 4, is refused as a word beyond SIZE is. DESIGN CHOICE, log 64. -/
def resolveDim (q : Nat) (h : BitVec 32) (off : Nat) (indirect : Bool) (w : Nat) (die : Option Nat) : Cmd Nat := do
  if !indirect then pure w
  else
    let b := w % 2 ^ 22
    let v ← match w / 2 ^ 22 with
      | 0 => pure b
      | 1 => do
        require (b < 64) BOUND_INVALID
        pure ((tget 0 (← get).que.bounds (q * 64 + b)).toNat)
      | 2 => do
        require (b < 65536) BOUND_INVALID
        require (off + 4 * b + 4 ≤ (← get).handleSize h) BOUND_INVALID
        let bytes ← readBytes h (off + 4 * b) 4 die
        pure (leNat bytes)
      | _ => refuse BOUND_INVALID
    require (v ≤ 16777215) BOUND_INVALID
    pure v

def blockRung (raw : Bool) (r : Nat) : Bool := !raw && (borderRung r || fp8Rung r)

/-- The handles a matrix command names (R196 check 8), in the order of the parameter block. -/
def matrixNames (b : List Byte) (a c o : Operand) (scaled bound : Bool) : List (BitVec 32) :=
  [a.handle] ++ (if scaled then [a.table] else []) ++ [c.handle] ++ (if scaled then [c.table] else []) ++ [o.handle] ++
    (if bound then [BitVec.ofNat 32 (field b 96 4)] else [])

def requireAllLive : List (BitVec 32) → Cmd Unit
  | [] => pure ()
  | h :: t => do
    requireLive h
    requireAllLive t

/-- Whether a code is a usable per-tensor scale (R35). -/
def scaleOk (c : Nat) : Bool := (f32 c).isFin && !(f32 c).isZero

/-- The rung checks of R206 and R94, R95: the rung and the ladder. -/
def matrixRung (kind ra rb layer : Nat) : Cmd (Nat × List Nat) := do
  let s ← get
  if kind < 3 then
    require (layer < s.layerCount) LAYER_OUT_OF_RANGE layer
    let w := (s.tns.active.layer layer).ladder kind
    require (ladderOk w) FORMAT_NOT_ALLOWED
    pure (s.effectiveRung layer kind, ladderRungs w)
  else
    require (isMatrixOperand ra && isMatrixOperand rb) FORMAT_NOT_ALLOWED
    require (ra == rb) OPERAND_FORMATS_DIFFER
    pure (ra, [ra])

/-- Every check of a matrix command in the order of R196 and R207, with the values resolved at issue, and the handles it names. The
first matrix command after upsett latches the tension registers before its own checks, and runs with what it latched (R116).
DESIGN CHOICE, log 64. -/
def checkMatrix (q : Nat) (acc : Bool) (p : Packet) : Cmd (Job × Operand × Operand × List (BitVec 32)) := do
  let die ← seqDie q
  let b ← readBlock (p.handle 16) (p.num 20 6) 128 128 20 die
  reservedZero p [(45, 45, 0x80), (47, 47, 0xF0), (60, 63, 0xFF)]
  blockReservedZero b [(10, 10, 0xFE), (11, 11, 0xF0), (26, 31, 0xFF), (42, 42, 0xFE), (43, 43, 0xF0), (58, 63, 0xFF),
    (74, 75, 0xFF), (80, 95, 0xFF), (106, 127, 0xFF)]
  let oa := parseOperand b 0
  let ob := parseOperand b 32
  let mode := p.num 45 1
  let kind := mode % 4
  let rmode := bits mode 3 2
  let raw := bit mode 4
  let ra := p.num 46 1 % 16
  let rb := p.num 46 1 / 16
  let out := p.num 47 1 % 16
  let oc := { parseOperand b 64 with format := out, orient := false }
  let layer := p.layerId.toNat
  if (← get).tns.latched then pure () else upd latchTns
  let s ← get
  let rung := if kind < 3 then s.effectiveRung layer kind else ra
  let scaled := blockRung raw rung && (kind = 3 || layer < s.layerCount)
  let dims := [p.num 36 3, p.num 39 3, p.num 42 3]
  let bound := p.boundsIndirect && dims.any fun d => d / 2 ^ 22 == 2
  let names := matrixNames b oa ob oc scaled bound
  requireAllLive names
  let (rung, rungs) ← matrixRung kind ra rb layer
  if raw then
    require (kind == 3 && (rung ≤ 2) && oa.format == rung && ob.format == rung && out == 4 && mode / 32 == 0) FORMAT_NOT_ALLOWED
  else
    require (oa.format == 0xA && ob.format == 0xA && wideRung out) FORMAT_NOT_ALLOWED
  require (rmode < 2 || (rmode == 2 && s.reduced)) ROUNDING_NOT_ALLOWED
  require (!bit mode 5 || scaleOk (p.num 52 4)) TENSOR_SCALE_INVALID
  require (!bit mode 6 || scaleOk (p.num 56 4)) TENSOR_SCALE_INVALID
  require (!acc || (f32 (p.num 48 4)).isFin) VALUE_INVALID 48
  require (!s.reduced || (kind == 3 && !raw && (rung == 0xA || rung == 0xB) && (out == 0xA || out == 0xB) && mode / 32 % 4 == 0))
    FORMAT_NOT_ALLOWED
  let g := groupOf (p.num 26 2)
  require g.ok GROUP_SHAPE_INVALID
  let tw := p.num 28 8
  require (bits tw 26 24 < 6 && !tilingReserved tw) TILING_INVALID
  let gm := bits tw 39 32
  let gn := bits tw 47 40
  require (gm ≠ 0 && gn ≠ 0 && gm * gn == g.count) GROUP_SHAPE_INVALID
  checkStakes g
  let bh := BitVec.ofNat 32 (field b 96 4)
  let bo := field b 100 6
  require (!bound || bo % 4 == 0) ALIGNMENT 100
  let m ← resolveDim q bh bo p.boundsIndirect (p.num 36 3) die
  let n ← resolveDim q bh bo p.boundsIndirect (p.num 39 3) die
  let k ← resolveDim q bh bo p.boundsIndirect (p.num 42 3) die
  checkRegion (oa.region m k) 4 12
  checkRegion (ob.region n k) 36 44
  checkRegion (oc.region m n) 68 76
  let one := fun (i c : Nat) => if bit mode i then some (f32 c) else none
  let ta := one 5 (p.num 52 4)
  let tb := one 6 (p.num 56 4)
  let key : DrawKey := { seed := s.tns.rsSeed.toNat, op := p.operatorId.toNat, layer, round := s.tns.round.toNat }
  let job : Job :=
    { m, n, k, tm := tw % 65536 + 1, tn := bits tw 23 16 + 1, order := bits tw 26 24, base := bits tw 29 28, gm, gn, group := g,
      layer, op := p.operatorId.toNat, round := s.tns.round.toNat, kind, rung, rungs, outFmt := out, rmode,
      acc := if raw then .raw else if s.reduced then .reduced key else .wide,
      beta := if acc then some (f32 (p.num 48 4)) else none, ta, tb,
      tprod := if ta.isSome || tb.isSome then some (mulF (ta.getD (.fin 1 0)) (tb.getD (.fin 1 0))) else none,
      cfg := s.tns.active.layer layer, ctrl := s.tns.active.ctrl.toNat, force := p.shadowForce, stats := !s.reduced, c := oc }
  if blockRung raw rung then
    let hx ← readPadded oa.table oa.tableOffset 512 die
    let hw ← readPadded ob.table ob.tableOffset 512 die
    let code := fun (i c : Nat) => if bit mode i then c else 0x3F800000
    let (x, w) ← checkTables layer oa ob m n k (code 5 (p.num 52 4)) (code 6 (p.num 56 4))
      (parseTable oa.table oa.tableOffset hx) (parseTable ob.table ob.tableOffset hw)
    pure ({ job with xt := some { table := x, exps := [], entries := [], trunc := [] },
                     wt := some { table := w, exps := [], entries := [], trunc := [] } }, oa, ob, names)
  else pure (job, oa, ob, names)

/-! ### What the stakes read (R125) -/

/-- The row chunks and column tiles that the members on a die work on. -/
def Job.share (j : Job) (die : Nat) : List Nat × List Nat :=
  ((List.range j.group.count).filter fun g =>
      (j.group.first + g) / 96 == die && !(memberChunks j g).isEmpty && !(memberColumns j g).isEmpty).foldl
    (fun a g => ((memberChunks j g).foldl sinsert a.1, (memberColumns j g).foldl sinsert a.2)) ([], [])

/-- Rows of A, rows of B and, where β is present, elements of C that a die's stakes consume, fetched once for the die. -/
def Job.fetchShare (j : Job) (oa ob : Operand) (die : Nat) (t : Fetched) : Cmd Fetched := do
  let (cs, ns) := j.share die
  let ys := cs.map fun i => (i * j.tm, Min.min j.tm (j.m - i * j.tm))
  let xs := ns.map fun c => (c * j.tn, Min.min j.tn (j.n - c * j.tn))
  let t ← if ys.isEmpty then pure t else oa.fetch j.m j.k die (ys.map fun y => { r := y.1, n := y.2, k := 0, m := j.k }) t
  let t ← if xs.isEmpty then pure t else ob.fetch j.n j.k die (xs.map fun x => { r := x.1, n := x.2, k := 0, m := j.k }) t
  if j.beta.isNone || ys.isEmpty then pure t
  else j.c.fetch j.m j.n die (ys.flatMap fun y => xs.map fun x => { r := y.1, n := y.2, k := x.1, m := x.2 }) t

/-- Fetches the operands for both dies, die 0 first; answers the lines fetched (line × 2 + die) too. -/
def fetchJob (j : Job) (oa ob : Operand) : Cmd Job := do
  let t ← j.fetchShare oa ob 0 []
  let t ← j.fetchShare oa ob 1 t
  let s ← get
  pure { j with xs := oa.rows j.m j.k t s, ws := ob.rows j.n j.k t s, cs := if j.beta.isSome then j.c.rows j.m j.n t s else [] }

/-- The die that reads a command's scale tables: that of its first stake. DESIGN CHOICE, log 64. -/
def Job.tableDie (j : Job) : Option Nat := some (j.group.first / 96)

/-- Reads the scale tables that the checks accepted. -/
def fetchTables (j : Job) : Cmd Job := do
  let xt ← match j.xt with
    | some c => do pure (some (← c.table.read j.m j.k j.tableDie))
    | none => pure none
  let wt ← match j.wt with
    | some c => do pure (some (← c.table.read j.n j.k j.tableDie))
    | none => pure none
  pure { j with xt, wt }

/-- An operand's scale table read for a re-weave from a wide rung onto a block-scaled one (R102; R84 is not repeated): none where
its handle is not live or its source does not hold the operand. Where the operand's k0 is not on a block or twist-group boundary, which R84
would have refused, blocks and twist groups are counted from k0, not from the table's multiples of 32 or 256. DESIGN CHOICE, log 64. -/
def lateTable (j : Job) (o : Operand) (n : Nat) : Cmd (Option Scales) := do
  if !(← get).live o.table then pure none
  else
    let t := parseTable o.table o.tableOffset (← readPadded o.table o.tableOffset 512 j.tableDie)
    match t.locate o n j.k with
    | none => pure none
    | some (r, c) => do pure (some (← ({ t with r0 := r, k0 := c } : Table).read n j.k j.tableDie))

/-- The output codes as bytes to write. -/
def Job.outBytes (j : Job) (o : Nat × Nat × List Nat) : Out :=
  let b := storageBits j.outFmt
  (j.c.handle, j.c.offset + o.1 * j.c.pitch + o.2.1 * (b / 8), codesBytes b o.2.2)

/-- The re-weaves' traces and the round's count (R104, R114). -/
def noteReweaves (j : Job) (l : List Reweave) (s : State) : State :=
  l.foldl (fun s e =>
    countReweaves (b2n j.stats) (trace tREWEAVE e.cause 0xFF (BitVec.ofNat 16 j.layer)
      [e.tile.stake, e.tile.p, j.op, e.old, e.new, e.attempt] s)) s

/-- A product with reduction length zero (R70), tile by tile. -/
def zeroProduct (j : Job) : List (Nat × List (Nat × Nat × List Nat)) :=
  (List.range j.group.count).flatMap fun g => (memberChunks j g).flatMap fun i => (memberColumns j g).map fun c =>
    (j.group.first + g, (List.range (Min.min j.tm (j.m - i * j.tm))).map fun r =>
      (i * j.tm + r, c * j.tn, (List.range (Min.min j.tn (j.n - c * j.tn))).map fun x =>
        match j.beta with
        | none => 0
        | some b =>
          let m := i * j.tm + r
          let n := c * j.tn + x
          (({ j with tprod := none } : Job).output m n (((j.cs.getD m []).getD n (.fin 0 0)).mul b)).2))

/-- Writes the outputs, tile by tile, each from its stake's die; the first failure is the answer (R133). -/
def writeTiles (j : Job) : List (Nat × List (Nat × Nat × List Nat)) → State → Option Fail × State
  | [], s => (none, s)
  | (stake, l) :: t, s =>
    let (f, s) := writeOuts (some (stake / 96)) (joinOuts (l.map j.outBytes)) s
    let (g, s) := writeTiles j t s
    (f.or g, s)

/-- The grid at the rungs it comes to. A re-weave that brings a wide rung's tile onto a block-scaled one has the tables read. -/
def runRungs (j : Job) (oa ob : Operand) : Cmd (Job × Run) := do
  let coil := (← get).coil
  let r := runGrid j coil
  if j.xt.isNone && r.rw.any fun e => blockRung (j.acc == .raw) e.new then
    let xt ← lateTable j oa j.m
    let wt ← lateTable j ob j.n
    let j := { j with xt, wt }
    pure (j, runGrid j coil)
  else pure (j, r)

/-- The deliveries of a run's passes, step by step, die 0 before die 1 (R125). -/
def deliverRun (j : Job) (oa ob : Operand) (r : Run) : Cmd Unit :=
  let ps := j.group.members.flatMap fun k => keep j.order j.tm j.tn [] (r.passes.reverse.filter fun p => p.stake == k)
  deliverSteps oa ob j.m j.n j.k ((stepsOf ps).flatMap fun ps => [(ps, 0), (ps, 1)]) []

/-- The effect of a matrix command whose checks have passed. -/
def runMatrix (j : Job) (oa ob : Operand) : Cmd Res := do
  if j.m = 0 || j.n = 0 then pure {}
  else
    if j.k = 0 then
      let j ← fetchJob j oa ob
      let f ← act (writeTiles j (zeroProduct j))
      pure (endWith f {})
    else
      readSrams j.group.arrayStores
      let j ← fetchJob (← fetchTables j) oa ob
      let (j, r) ← runRungs j oa ob
      deliverRun j oa ob r
      upd fun s => { s with coil := r.coil }
      upd (noteReweaves j r.rw)
      upd fun s => r.cnt.foldl (fun s e => count 0 (e.1 / 32) (e.1 % 32) e.2 s) s
      let stats := if j.stats && j.layer < (← get).layerCount then [(j.layer * 4 + j.kind, r.stats)] else []
      let f ← act (writeTiles j r.outs)
      pure (endWith f { rewoven := !r.rw.isEmpty, stats })

/-- The regions a matrix command will write: C, when it has elements. -/
def Job.regions (j : Job) : List (BitVec 32 × Nat × Nat) :=
  if j.m = 0 || j.n = 0 then [] else [(j.c.handle, j.c.offset, (j.c.region j.m j.n).extent)]

def planMatrix (q : Nat) (acc : Bool) (p : Packet) : Cmd Plan := do
  let (j, oa, ob, names) ← checkMatrix q acc p
  pure { outs := j.regions, names := p.handle 16 :: names, run := runMatrix j oa ob }

/-- MATMUL. -/
def execMatmul (q : Fin 64) (p : Packet) (s : State) : Host.Outcome State Fault Refusal :=
  .next (issueS q 0x01 p (planMatrix q false p) s)

/-- MATMUL_ACC. -/
def execMatmulAcc (q : Fin 64) (p : Packet) (s : State) : Host.Outcome State Fault Refusal :=
  .next (issueS q 0x02 p (planMatrix q true p) s)

end Sys2Proof.Machine
end

