-- ==== Sys2Proof/Machine/Trust.lean ====
section
/-! DEFINITION. SPDM sessions, attestation, MCTP and PLDM (R322, R324, R332, R333, R343). Codes of requests, responses and message
types are those of DSP0274, DSP0236, DSP0239 and DSP0248, which the spec names (PRESUMED, log 30). -/

namespace Sys2Proof.Machine

/-- The endpoint answers from the exit of stage U1 (R343). -/
def State.answers (s : State) : Bool := s.powered && (s.ups.stage ≥ 2 || (s.ups.stage = 1 && s.ups.done))

/-! ### Identity (R332) -/

/-- SPDM slot 0: Oxevo root CA, Ronys intermediate, identity certificate, alias certificate with measurements 2 and 3. -/
def State.chain (s : State) : List Byte :=
  Config.rootCertificate ++ Config.intermediateCertificate ++ Config.identityCertificate s.id.deviceId.toNat ++
    Config.aliasCertificate s.sec.aliasKey (s.sec.boot2 ++ s.sec.boot3)

/-- A key as measurement 4 digests it: X and Y, or 132 zero bytes. -/
def keyBytes (k : Option PubKey) : List Byte :=
  match k with
  | some k => beBytes 66 k.x ++ beBytes 66 k.y
  | none => List.replicate 132 0

/-- The measurements of Table 14.7. -/
def State.measurement (s : State) (i : Nat) : List Byte :=
  match i with
  | 1 => slice Config.measuredRom 0 64
  | 2 => slice s.sec.boot2 0 64
  | 3 => slice s.sec.boot3 0 64
  | 4 => sha512 (keyBytes s.sec.installer ++ (List.range 16).flatMap fun n => keyBytes (tfind s.sec.operators n))
  | 5 => sha512 (leBytes 4 s.ups.cfgNow.toNat ++ leBytes 4 (s.pwr.cap + 65536 * s.ceiling) ++ leBytes 4 (b2n s.sec.makerAllow))
  | 6 => sha512 (slice s.sec.chainAtU2 0 16)
  | _ => []

/-! ### Responses (R322) -/

/-- A response, which the alias key signs (R332). -/
def respond (m : Medium) (code : Nat) (data : List Byte) (s : State) : State :=
  emit (.spdm m code (data ++ Config.signature s.sec.aliasKey data)) s

/-- An ERROR response: 1 invalid request, 3 busy, 4 unexpected request, 7 unsupported request. -/
def respondError (m : Medium) (why : Nat) (s : State) : State := respond m 0x7F [BitVec.ofNat 8 why] s

/-- A request that the negotiated algorithms must precede. -/
def afterNegotiation (m : Medium) (f : State → State) (s : State) : State :=
  if !s.answers then s else if s.sec.negotiated.contains m then f s else respondError m 4 s

/-- GET_VERSION: SPDM 1.2; the connection starts again. -/
def execGetVersion (m : Medium) (s : State) : Host.Outcome State Fault Refusal :=
  .next (if s.answers then
    respond m 0x04 [0x12] { s with sec := { s.sec with negotiated := s.sec.negotiated.filter (· ≠ m) } }
  else s)

/-- GET_CAPABILITIES. -/
def execGetCapabilities (m : Medium) (s : State) : Host.Outcome State Fault Refusal :=
  .next (if s.answers then respond m 0x61 [] s else s)

/-- NEGOTIATE_ALGORITHMS: P-521, SHA-512, secp521r1 and AES-256-GCM only. -/
def execNegotiateAlgorithms (m : Medium) (a : SpdmAlgorithms) (s : State) : Host.Outcome State Fault Refusal :=
  .next (if !s.answers then s
    else if a.ecdsaP521 && a.sha512 && a.secp521r1 && a.aes256gcm then
      respond m 0x63 [] { s with sec := { s.sec with negotiated := m :: s.sec.negotiated.filter (· ≠ m) } }
    else respondError m 1 s)

/-- GET_DIGESTS: of certificate slot 0. -/
def execGetDigests (m : Medium) (s : State) : Host.Outcome State Fault Refusal :=
  .next (afterNegotiation m (fun s => respond m 0x01 (sha512 s.chain) s) s)

/-- GET_CERTIFICATE: slot 0 only. -/
def execGetCertificate (m : Medium) (slot : Fin 8) (s : State) : Host.Outcome State Fault Refusal :=
  .next (afterNegotiation m (fun s => if slot.val = 0 then respond m 0x02 s.chain s else respondError m 1 s) s)

/-- CHALLENGE. -/
def execChallenge (m : Medium) (slot : Fin 8) (s : State) : Host.Outcome State Fault Refusal :=
  .next (afterNegotiation m (fun s => if slot.val = 0 then respond m 0x03 (sha512 s.chain) s else respondError m 1 s) s)

/-- GET_MEASUREMENTS: one index, or all of them with index 255; index 0 asks how many there are. -/
def execGetMeasurements (m : Medium) (index : BitVec 8) (s : State) : Host.Outcome State Fault Refusal :=
  .next (afterNegotiation m (fun s =>
    let i := index.toNat
    if i = 0 then respond m 0x60 [6] s
    else if i = 255 then respond m 0x60 ((List.range 6).flatMap fun j => s.measurement (j + 1)) s
    else if i ≤ 6 then respond m 0x60 (s.measurement i) s
    else respondError m 1 s) s)

/-! ### Sessions (R322, R324) -/

/-- KEY_EXCHANGE: a session begins to be established; at most 8 at once. -/
def execKeyExchange (m : Medium) (id : BitVec 32) (r : Requester) (s : State) : Host.Outcome State Fault Refusal :=
  .next (afterNegotiation m (fun s =>
    if s.sec.sessions.length ≥ 8 || (s.session id).isSome then respondError m 3 s
    else
      let x : Session := { id, medium := m, requester := r, finished := false, lastBeat := s.tim.now, epochKeys := 0 }
      respond m 0x64 (sha512 s.chain) { s with sec := { s.sec with sessions := s.sec.sessions ++ [x] } }) s)

def modSession (id : BitVec 32) (f : Session → Session) (s : State) : State :=
  { s with sec := { s.sec with sessions := s.sec.sessions.map fun x => if x.id = id then f x else x } }

/-- A session is gone; the bindings made under it are withdrawn. -/
def closeSession (id : BitVec 32) (s : State) : State :=
  withdrawWhere (fun b => b.session == id) false
    { s with sec := { s.sec with sessions := s.sec.sessions.filter fun x => x.id ≠ id } }

/-- FINISH: the session is open once its requester is verified. -/
def execFinish (id : BitVec 32) (verified : Bool) (s : State) : Host.Outcome State Fault Refusal :=
  .next (match s.session id with
    | some x =>
      if !s.answers || x.finished then s
      else if verified then respond x.medium 0x65 [] (modSession id (fun x => { x with finished := true, lastBeat := s.tim.now }) s)
      else respondError x.medium 1 (closeSession id s)
    | none => s)

/-- SPDM_HEARTBEAT. -/
def execSpdmHeartbeat (id : BitVec 32) (s : State) : Host.Outcome State Fault Refusal :=
  .next (match s.session id with
    | some x => if s.answers && x.finished then respond x.medium 0x68 [] (modSession id (fun x => { x with lastBeat := s.tim.now }) s) else s
    | none => s)

/-- SPDM_HEARTBEAT_MISSED: the 60 s period has passed without one. -/
def execSpdmHeartbeatMissed (id : BitVec 32) (s : State) : Host.Outcome State Fault Refusal :=
  .next (match s.session id with
    | some x => if s.answers && x.finished && x.lastBeat + 60000000000 ≤ s.tim.now then closeSession id s else s
    | none => s)

/-- KEY_UPDATE. -/
def execKeyUpdate (id : BitVec 32) (s : State) : Host.Outcome State Fault Refusal :=
  .next (match s.session id with
    | some x => if s.answers && x.finished then respond x.medium 0x69 [] (modSession id (fun x => { x with epochKeys := x.epochKeys + 1 }) s) else s
    | none => s)

/-- END_SESSION. -/
def execEndSession (id : BitVec 32) (s : State) : Host.Outcome State Fault Refusal :=
  .next (match s.session id with
    | some x => if s.answers && x.finished then respond x.medium 0x6C [] (closeSession id s) else s
    | none => s)

/-- SESSION_TRANSPORT_FAILURE. -/
def execSessionTransportFailure (id : BitVec 32) (s : State) : Host.Outcome State Fault Refusal :=
  .next (if s.powered && (s.session id).isSome then closeSession id s else s)

/-! ### MCTP control (R343) -/

/-- Each medium takes the EID that its bus owner assigns; 0 and 255 are no EIDs. -/
def setEid (m : Medium) (eid : BitVec 8) (s : State) : State :=
  if eid = 0 || eid = 255 then emit (.mctp m [1]) s
  else
    let s := match m with
      | .pcie => { s with mctp := { s.mctp with eidPcie := eid } }
      | .smbus => { s with mctp := { s.mctp with eidSmbus := eid } }
    emit (.mctp m [0, eid.toNat]) s

def State.eid (s : State) (m : Medium) : BitVec 8 :=
  match m with
  | .pcie => s.mctp.eidPcie
  | .smbus => s.mctp.eidSmbus

/-- MCTP_CONTROL; the message types are MCTP control, PLDM, SPDM and secured messages. -/
def execMctpControl (c : MctpControl) (s : State) : Host.Outcome State Fault Refusal :=
  .next (if !s.answers then s
    else
      match c with
      | .setEid m eid => setEid m eid s
      | .getEid m => emit (.mctp m [0, (s.eid m).toNat]) s
      | .getMessageTypes m => emit (.mctp m [0, 4, 0, 1, 5, 6]) s)

/-! ### PLDM (R343) -/

/-- A PLDM response: its command code, a completion code (0 success), its values. -/
def pldm (m : Medium) (code : Nat) (data : List Nat) (s : State) : State := emit (.pldm m code data) s

/-- Numeric sensors: input voltage in 10 mV, input power in W, the cap in force in W, THM_MAX of the dies 0, 1 and handle, the
hottest stack. -/
def State.numericSensor (s : State) (i : Nat) : Option Nat :=
  match i with
  | 0 => some s.pwr.vin
  | 1 => some s.pwr.input
  | 2 => some s.pwr.cap
  | 3 => some (s.thmMax % 256)
  | 4 => some (s.thmMax / 256 % 256)
  | 5 => some (s.thmMax / 65536 % 256)
  | 6 => some (s.thmMax / 16777216)
  | _ => none

/-- State sensors: UPS_STAGE.SERVICE, then each stack's health. -/
def State.stateSensor (s : State) (i : Nat) : Option Nat :=
  if i = 0 then some s.ups.service else if i ≤ 12 then some (s.stack (i - 1)).health.code else none

/-- GET_PDR_REPOSITORY_INFO: seven numeric and thirteen state sensors. -/
def execGetPdrRepositoryInfo (m : Medium) (s : State) : Host.Outcome State Fault Refusal :=
  .next (if s.answers then pldm m 0x50 [0, 20] s else s)

/-- GET_PDR: record r describes numeric sensor r - 1, or state sensor r - 8. -/
def execGetPdr (m : Medium) (record : Nat) (s : State) : Host.Outcome State Fault Refusal :=
  .next (if !s.answers then s
    else if 1 ≤ record && record ≤ 7 then pldm m 0x51 [0, record, 2, record - 1] s
    else if 8 ≤ record && record ≤ 20 then pldm m 0x51 [0, record, 4, record - 8] s
    else pldm m 0x51 [0x82] s)

/-- GET_SENSOR_READING. -/
def execGetSensorReading (m : Medium) (sensor : Nat) (s : State) : Host.Outcome State Fault Refusal :=
  .next (if !s.answers then s
    else
      match s.numericSensor sensor with
      | some v => pldm m 0x11 [0, v] s
      | none => pldm m 0x11 [0x80] s)

/-- GET_STATE_SENSOR_READINGS. -/
def execGetStateSensorReadings (m : Medium) (sensor : Nat) (s : State) : Host.Outcome State Fault Refusal :=
  .next (if !s.answers then s
    else
      match s.stateSensor sensor with
      | some v => pldm m 0x21 [0, v] s
      | none => pldm m 0x21 [0x80] s)

/-- SET_EVENT_RECEIVER. -/
def execSetEventReceiver (m : Medium) (eid : BitVec 8) (s : State) : Host.Outcome State Fault Refusal :=
  .next (if s.answers then
    pldm m 0x04 [0] { s with mctp := { s.mctp with receiver := some (m, eid) } }
  else s)

end Sys2Proof.Machine
end

