-- ==== Sys2Proof/Machine/Update.lean ====
section
/-! DEFINITION. UPDATE: its parameter block, its two buffers, its four rules and the weight write with its carry
(R221 to R231). -/

namespace Sys2Proof.Machine

/-! ### The weight write (R221) -/

/-- The BF16 value nearest to a value, a tie going toward +infinity, before the largest magnitude is applied. -/
def nearestUp (x : Num) : Num :=
  match x with
  | .fin m e =>
    let u := ulpExp fltBf16 x
    if e ≥ u then x
    else
      let d : Int := 2 ^ (u - e).toNat
      .fin ((2 * m + d) / (2 * d)) u
  | y => y

/-- The largest finite BF16 value with a sign. -/
def maxBf16 (neg : Bool) : Num := .fin (signed neg 255) 120

/-- The nearest BF16 value. Where that would lie beyond the largest finite value it is that value. DEDUCED, log 12. -/
def nearestBf16 (x : Num) : Num :=
  let w := nearestUp x
  if (maxBf16 false).lt w then maxBf16 false else if w.lt (maxBf16 true) then maxBf16 true else w

/-- Overflow of R40 rule 4 under a mode. -/
def overflowBf16 (r : Rnd) (neg : Bool) : Nat := (convFlt fltBf16 r (.fin (signed neg 1) 128)).code

/-- A weight and its carry after a rule's result `t`, from the weight `w` and carry `c` read. -/
def weightWrite (r : Rnd) (w : Num) (c : Int) (t : Num) : Nat × Nat :=
  let x := t.add (Num.fin c (ulpExp fltBf16 w - 8))
  match x with
  | .nan => (0x7FC0, 0)
  | .inf neg => (overflowBf16 r neg, 0)
  | .fin m _ =>
    if (Num.fin 1 128).le x.abs then (overflowBf16 r (decide (m < 0)), 0)
    else
      let w' := nearestBf16 x
      let q := (x.sub w').scale (8 - ulpExp fltBf16 w')
      ((convFlt fltBf16 .rne w').code, (convInt 8 r q).code)

/-! ### The command's arguments (Tables 10.3 to 10.5) -/

structure UpdArgs where
  rule   : Nat
  roots  : Bool
  mode   : Nat
  carry  : Bool
  gfmt   : Nat
  sfmt   : Nat
  seed   : Nat
  base   : Nat
  step0  : Nat
  layer  : Nat
  round  : Nat
  group  : Nat
  lr     : Num
  wd     : Num
  b1     : Num
  b2     : Num
  eps    : Num
  gscale : Num
  damp   : Num
  rows   : Nat
  cols   : Nat
  blkR   : Nat
  blkC   : Nat
  iters  : Nat
  pairs  : List (BitVec 32 × BitVec 32)
  grad   : BitVec 32
  gradAt : Nat

def parseUpdate (p : Packet) (b : List Byte) (round : Nat) : UpdArgs :=
  let f := fun (i : Nat) => f32 (field b i 4)
  { rule := p.num 28 1 % 4, roots := bit (p.num 28 1) 2, mode := p.num 29 1 % 4, carry := bit (p.num 29 1) 2,
    gfmt := p.num 30 1 % 16, sfmt := p.num 30 1 / 16, seed := p.num 32 8, base := p.num 40 6, step0 := p.num 46 4,
    layer := p.layerId.toNat, round, group := p.num 26 2,
    lr := f 0, wd := f 4, b1 := f 8, b2 := f 12, eps := f 16, gscale := f 20, damp := f 24,
    rows := field b 28 3, cols := field b 31 3, blkR := field b 34 2, blkC := field b 36 2, iters := field b 38 1,
    pairs := (List.range 7).map fun i => (BitVec.ofNat 32 (field b (48 + 8 * i) 4), BitVec.ofNat 32 (field b (52 + 8 * i) 4)),
    grad := BitVec.ofNat 32 (field b 104 4), gradAt := field b 108 6 }

/-- The pairs that Table 10.5 uses: 0 W, 1 CARRY, 2 to 6 S1 to S5; a phase without a row uses none. -/
def UpdArgs.used (a : UpdArgs) : List Nat :=
  if a.roots then (if a.rule = 3 then [2, 3, 4, 5] else [])
  else [0] ++ (if a.carry then [1] else []) ++
    (match a.rule with
     | 1 => [2, 3]
     | 3 => [2, 3, 4, 5, 6]
     | _ => [2])

def UpdArgs.pair (a : UpdArgs) (i : Nat) : BitVec 32 × BitVec 32 := a.pairs.getD i (0, 0)

/-- H[(r + d) mod 2] of a pair (R224). -/
def UpdArgs.side (a : UpdArgs) (i d : Nat) : BitVec 32 :=
  if (a.round + d) % 2 = 0 then (a.pair i).1 else (a.pair i).2

/-- The sum of the squares of the sizes of blocks of `blk` over a length. -/
def blockSquares (len blk : Nat) : Nat := len / blk * (blk * blk) + (len % blk) * (len % blk)

/-- The format of the tensor of pair `i`, and its elements. -/
def UpdArgs.shape (a : UpdArgs) (i : Nat) : Nat × Nat :=
  let n := a.rows * a.cols
  let factor := fun (left : Bool) =>
    if left then cdiv a.cols a.blkC * blockSquares a.rows a.blkR else cdiv a.rows a.blkR * blockSquares a.cols a.blkC
  match i with
  | 0 => (0xA, n)
  | 1 => (2, n)
  | 6 => (a.sfmt, n)
  | _ => if a.rule = 3 then (0xC, factor (i == 2 || i == 4)) else (a.sfmt, n)

def UpdArgs.bytes (a : UpdArgs) (i : Nat) : Nat := (a.shape i).2 * (storageBits (a.shape i).1 / 8)
def UpdArgs.gradBytes (a : UpdArgs) : Nat := a.rows * a.cols * (storageBits a.gfmt / 8)

/-- The pairs a command writes: a STEP all that it uses, ROOTS the two roots. -/
def UpdArgs.written (a : UpdArgs) : List Nat := if a.roots then [4, 5] else a.used

/-- The hyperparameters a rule and phase use, with their places in the block. -/
def UpdArgs.hyper (a : UpdArgs) : List (Nat × Num) :=
  if a.roots then [(24, a.damp)]
  else [(0, a.lr), (4, a.wd), (8, a.b1)] ++ (if a.rule = 0 then [] else [(12, a.b2)]) ++
    (if a.rule = 1 then [(16, a.eps)] else []) ++ [(20, a.gscale)]

/-! ### Checks (R225, Table 10.6) -/

def requireHandles : List (BitVec 32) → Cmd Unit
  | [] => pure ()
  | h :: t => do
    requireLive h
    requireHandles t

def requireFinite : List (Nat × Num) → Cmd Unit
  | [] => pure ()
  | (o, x) :: t => do
    require x.isFin VALUE_INVALID o
    requireFinite t

def requireSizes : List (BitVec 32 × Nat) → Cmd Unit
  | [] => pure ()
  | (h, n) :: t => do
    require (n ≤ (← get).handleSize h) REGION_OUT_OF_BOUNDS h.toNat
    requireSizes t

def checkUpdate (a : UpdArgs) : Cmd Unit := do
  requireHandles (a.used.flatMap fun i => [(a.pair i).1, (a.pair i).2])
  if a.roots then pure () else requireLive a.grad
  require (!a.roots || a.rule == 3) VALUE_INVALID 28
  require (a.mode ≠ 3) ROUNDING_NOT_ALLOWED
  require ((a.gfmt == 0xA || a.gfmt == 0xC) && (a.sfmt == 0xA || a.sfmt == 0xC)) FORMAT_NOT_ALLOWED
  requireFinite a.hyper
  require (a.rows ≠ 0) VALUE_INVALID 28
  require (a.cols ≠ 0) VALUE_INVALID 31
  require (a.rule ≠ 3 || (1 ≤ a.blkR && a.blkR ≤ 1024)) VALUE_INVALID 34
  require (a.rule ≠ 3 || (1 ≤ a.blkC && a.blkC ≤ 1024)) VALUE_INVALID 36
  require (!a.roots || (1 ≤ a.iters && a.iters ≤ 32)) VALUE_INVALID 38
  require (a.roots || a.rule ≠ 1 || a.step0 ≤ a.round) VALUE_INVALID 46
  let g := groupOf a.group
  require g.ok GROUP_SHAPE_INVALID
  checkStakes g
  if a.roots then pure () else require (a.gradAt % (storageBits a.gfmt / 8) == 0) ALIGNMENT 108
  require (a.used.flatMap fun i => [(a.pair i).1, (a.pair i).2]).Nodup REGION_OVERLAP
  requireSizes (a.used.flatMap fun i => [((a.pair i).1, a.bytes i), ((a.pair i).2, a.bytes i)])
  if a.roots then pure () else requireSizes [(a.grad, a.gradAt + a.gradBytes)]

/-! ### Arithmetic (R226 to R231) -/

/-- pow of R228, over the bits of the exponent from the highest set one down. -/
def powF (b : Num) (s : Nat) : Nat → Num
  | 0 => .fin 1 0
  | n + 1 =>
    let y := powF b (s / 2) n
    let y := if s = 0 then y else mulF y y
    if s % 2 = 1 then mulF y b else y

/-- c1 and c2 of R228: 1 - pow(b, s). -/
def biasOf (b : Num) (s : Nat) : Num := subF (.fin 1 0) (powF b s 33)

/-- The scalars computed once per command (R226): 1 - B1, 1 - B2, LR × WD, and the two corrections of ADAPTIVE. -/
structure Scalars where
  nb1  : Num
  nb2  : Num
  lrwd : Num
  c1   : Num
  c2   : Num

def UpdArgs.scalars (a : UpdArgs) : Scalars :=
  let s := a.round - a.step0 + 1
  { nb1 := subF (.fin 1 0) a.b1, nb2 := subF (.fin 1 0) a.b2, lrwd := mulF a.lr a.wd,
    c1 := biasOf a.b1 s, c2 := biasOf a.b2 s }

/-- b × x + nb × y, each step rounded. -/
def decayF (b x nb y : Num) : Num := addF (mulF b x) (mulF nb y)

/-- (w - LR × d) - (LR × WD) × w. -/
def UpdArgs.weightStep (a : UpdArgs) (k : Scalars) (w d : Num) : Num :=
  subF (subF w (mulF a.lr d)) (mulF k.lrwd w)

/-- d of R229. -/
def signOf (c : Num) : Num :=
  match c with
  | .nan => .nan
  | x => if x.isZero then .fin 0 0 else if x.isNeg then .fin (-1) 0 else .fin 1 0

/-- One element of MOMENTUM, ADAPTIVE or SIGN: the new m, the new v, and t. -/
def UpdArgs.element (a : UpdArgs) (k : Scalars) (w grad m v : Num) : Num × Num × Num :=
  let g := mulF grad a.gscale
  match a.rule with
  | 0 =>
    let m := addF (mulF a.b1 m) g
    (m, v, a.weightStep k w m)
  | 1 =>
    let m := decayF a.b1 m k.nb1 g
    let v := addF (mulF a.b2 v) (mulF (mulF k.nb2 g) g)
    let d := divF (divF m k.c1) (addF (sqrtF (divF v k.c2)) a.eps)
    (m, v, a.weightStep k w d)
  | _ =>
    let c := decayF a.b1 m k.nb1 g
    let m := decayF a.b2 m k.nb2 g
    (m, v, a.weightStep k w (signOf c))

/-- Matrices as rows. -/
abbrev Mat := List (List Num)

def Mat.at (x : Mat) (i j : Nat) : Num := (x.getD i []).getD j (.fin 0 0)

/-- The n × m matrix of a function. -/
def matOf (n m : Nat) (f : Nat → Nat → Num) : Mat := (List.range n).map fun i => (List.range m).map fun j => f i j

/-- A product with `k` terms per element (R226). -/
def matMul (n k m : Nat) (x y : Mat) : Mat :=
  matOf n m fun i j => tree addF (.fin 0 0) ((List.range k).map fun l => mulF (x.at i l) (y.at l j))

/-- An n × n matrix of the first n × n elements. -/
def squareOf (n : Nat) (l : List Num) : Mat := matOf n n fun i j => l.getD (i * n + j) (.fin 0 0)

/-- One block of KRONECKER STEP (R230): L, R, m and t, with `pb` rows and `qb` columns. -/
def UpdArgs.kronBlock (a : UpdArgs) (k : Scalars) (pb qb : Nat) (grad w m l r ql qr : Mat) : Mat × Mat × Mat × Mat :=
  let g := matOf pb qb fun i j => mulF (grad.at i j) a.gscale
  let gt := matOf qb pb fun i j => g.at j i
  let gg := matMul pb qb pb g gt
  let hh := matMul qb pb qb gt g
  let l := matOf pb pb fun i j => decayF a.b2 (l.at i j) k.nb2 (gg.at i j)
  let r := matOf qb qb fun i j => decayF a.b2 (r.at i j) k.nb2 (hh.at i j)
  let p := matMul pb qb qb (matMul pb pb qb ql g) qr
  let m := matOf pb qb fun i j => decayF a.b1 (m.at i j) k.nb1 (p.at i j)
  (l, r, m, matOf pb qb fun i j => a.weightStep k (w.at i j) (m.at i j))

/-- One Newton iteration of R231. -/
def rootStep (n : Nat) (xm : Mat × Mat) : Mat × Mat :=
  let t := matOf n n fun i j =>
    mulF (if i = j then subF (.fin 5 0) (xm.2.at i j) else (xm.2.at i j).neg) (.fin 1 (-2))
  let t2 := matMul n n n t t
  (matMul n n n xm.1 t, matMul n n n (matMul n n n t2 t2) xm.2)

def rootSteps (n : Nat) : Nat → Mat × Mat → Mat × Mat
  | 0, x => x
  | k + 1, x => rootSteps n k (rootStep n x)

/-- The inverse fourth root of a factor (R231). -/
def rootOf (n iters : Nat) (damp : Num) (f : Mat) : Mat :=
  let a := matOf n n fun i j => if i = j then addF (f.at i j) damp else f.at i j
  let norm := sqrtF (tree addF (.fin 0 0) (a.flatten.map fun x => mulF x x))
  if norm.isZero then matOf n n fun _ _ => .fin 0 0
  else if !norm.isFin then matOf n n fun _ _ => .nan
  else
    let d := divF (.fin 1 0) (sqrtF (sqrtF norm))
    let x := matOf n n fun i j => if i = j then d else .fin 0 0
    let inv := divF (.fin 1 0) norm
    (rootSteps n iters (x, matOf n n fun i j => mulF (a.at i j) inv)).1

/-! ### The command's effect (R224) -/

/-- The codes of a whole tensor read from a handle, from a byte offset. -/
def readTensor (h : BitVec 32) (off fmt n : Nat) (die : Option Nat) : Cmd (List Nat) := do
  let b ← readBytes h off (n * (storageBits fmt / 8)) die
  pure (rowCodes b (storageBits fmt) n)

/-- Pair `i` read from H[(r + d) mod 2]. -/
def UpdArgs.readPair (a : UpdArgs) (i d : Nat) (die : Option Nat) : Cmd (List Nat) :=
  readTensor (a.side i d) 0 (a.shape i).1 (a.shape i).2 die

/-- A write of pair `i` into H[(r + 1) mod 2]. -/
def UpdArgs.out (a : UpdArgs) (i : Nat) (codes : List Nat) : Out :=
  (a.side i 1, 0, codesBytes (storageBits (a.shape i).1) codes)

/-- The rounding of element `i` under MODE, with its draw (R220). -/
def UpdArgs.rnd (a : UpdArgs) (i : Nat) : Rnd :=
  match a.mode with
  | 0 => .rne
  | 1 => .rtz
  | _ => .sr (gen a.seed a.layer a.round ((a.base + i) % 2 ^ 64) % 65536)

/-- The weights and carries written for the results `ts` of the elements in order (R221). -/
def UpdArgs.weights (a : UpdArgs) (ws : List Num) (cs : List Int) (ts : List Num) : List Out :=
  if a.carry then
    let r := ts.mapIdx fun i t => weightWrite (a.rnd i) (ws.getD i (.fin 0 0)) (cs.getD i 0) t
    [a.out 0 (r.map (·.1)), a.out 1 (r.map (·.2))]
  else [a.out 0 (ts.mapIdx fun i t => (convFlt fltBf16 (a.rnd i) t).code)]

/-- State values written in the state format with RNE (R226). -/
def UpdArgs.stateOut (a : UpdArgs) (i : Nat) (l : List Num) : Out :=
  a.out i (l.map fun x => (convert (a.shape i).1 .rne x).code)

/-- MOMENTUM, ADAPTIVE and SIGN. -/
def UpdArgs.elementwise (a : UpdArgs) (ws gs ms vs : List Num) (cs : List Int) : List Out :=
  let k := a.scalars
  let r := ws.mapIdx fun i w => a.element k w (gs.getD i (.fin 0 0)) (ms.getD i (.fin 0 0)) (vs.getD i (.fin 0 0))
  a.weights ws cs (r.map (·.2.2)) ++ [a.stateOut 2 (r.map (·.1))] ++
    (if a.rule = 1 then [a.stateOut 3 (r.map (·.2.1))] else [])

/-- The blocks of a KRONECKER tensor in row-major order: first row, first column, rows, columns. -/
def UpdArgs.blocks (a : UpdArgs) : List (Nat × Nat × Nat × Nat) :=
  (List.range (cdiv a.rows a.blkR)).flatMap fun i => (List.range (cdiv a.cols a.blkC)).map fun j =>
    (i * a.blkR, j * a.blkC, Min.min a.blkR (a.rows - i * a.blkR), Min.min a.blkC (a.cols - j * a.blkC))

/-- What the blocks done so far gave, and the factors still to read. -/
structure KronRun where
  ls  : List Num
  rs  : List Num
  qls : List Num
  qrs : List Num
  lo  : List Num := []
  ro  : List Num := []
  mo  : List Mat := []
  ts  : List Mat := []

/-- KRONECKER STEP, block by block. -/
def UpdArgs.kronStep (a : UpdArgs) (ws gs ms : List Num) (r : KronRun) : KronRun :=
  let k := a.scalars
  let part := fun (l : List Num) (b : Nat × Nat × Nat × Nat) =>
    matOf b.2.2.1 b.2.2.2 fun i j => l.getD ((b.1 + i) * a.cols + b.2.1 + j) (.fin 0 0)
  a.blocks.foldl (fun r b =>
    let pb := b.2.2.1
    let qb := b.2.2.2
    let (l, r', m, t) := a.kronBlock k pb qb (part gs b) (part ws b) (part ms b) (squareOf pb r.ls) (squareOf qb r.rs)
      (squareOf pb r.qls) (squareOf qb r.qrs)
    { ls := r.ls.drop (pb * pb), rs := r.rs.drop (qb * qb), qls := r.qls.drop (pb * pb), qrs := r.qrs.drop (qb * qb),
      lo := r.lo ++ l.flatten, ro := r.ro ++ r'.flatten, mo := r.mo ++ [m], ts := r.ts ++ [t] }) r

/-- Block results as a row-major tensor. -/
def UpdArgs.assemble (a : UpdArgs) (bs : List Mat) : List Num :=
  (List.range (a.rows * a.cols)).map fun n =>
    let i := n / a.cols
    let j := n % a.cols
    Mat.at (bs.getD (i / a.blkR * cdiv a.cols a.blkC + j / a.blkC) []) (i % a.blkR) (j % a.blkC)

/-- ROOTS over the factors of L and R. -/
def UpdArgs.rootsOf (a : UpdArgs) (ls rs : List Num) : List Num × List Num :=
  let r := a.blocks.foldl (fun (r : List Num × List Num × List Num × List Num) b =>
    let pb := b.2.2.1
    let qb := b.2.2.2
    (r.1.drop (pb * pb), r.2.1.drop (qb * qb), r.2.2.1 ++ (rootOf pb a.iters a.damp (squareOf pb r.1)).flatten,
     r.2.2.2 ++ (rootOf qb a.iters a.damp (squareOf qb r.2.1)).flatten)) (ls, rs, [], [])
  (r.2.2.1, r.2.2.2)

/-- The effect of an UPDATE whose checks have passed. -/
def runUpdate (a : UpdArgs) : Cmd Res := do
  readSrams (groupOf a.group).vectorStores
  let die ← (groupOf a.group).reader
  if a.roots then
    let ls ← a.readPair 2 1 die
    let rs ← a.readPair 3 1 die
    let (ql, qr) := a.rootsOf (ls.map f32) (rs.map f32)
    writeAnd die [a.stateOut 4 ql, a.stateOut 5 qr] {}
  else
    let ws ← a.readPair 0 0 die
    let cs ← if a.carry then a.readPair 1 0 die else pure []
    let gs ← readTensor a.grad a.gradAt a.gfmt (a.rows * a.cols) die
    let ws := ws.map (decode 0xA)
    let cs := cs.map (decodeInt 8)
    let gs := gs.map (decode a.gfmt)
    if a.rule = 3 then
      let ls ← a.readPair 2 0 die
      let rs ← a.readPair 3 0 die
      let qls ← a.readPair 4 0 die
      let qrs ← a.readPair 5 0 die
      let ms ← a.readPair 6 0 die
      let r := a.kronStep ws gs (ms.map (decode a.sfmt))
        { ls := ls.map f32, rs := rs.map f32, qls := qls.map f32, qrs := qrs.map f32 }
      writeAnd die (a.weights ws cs (a.assemble r.ts) ++
        [a.stateOut 2 r.lo, a.stateOut 3 r.ro, a.out 4 qls, a.out 5 qrs, a.stateOut 6 (a.assemble r.mo)]) {}
    else
      let ms ← a.readPair 2 0 die
      let vs ← if a.rule = 1 then a.readPair 3 0 die else pure []
      writeAnd die (a.elementwise ws gs (ms.map (decode a.sfmt)) (vs.map (decode a.sfmt)) cs) {}

def planUpdate (q : Nat) (p : Packet) : Cmd Plan := do
  let b ← readBlock (p.handle 16) (p.num 20 6) 128 128 20 (← seqDie q)
  reservedZero p [(28, 29, 0xF8), (31, 31, 0xFF), (50, 63, 0xFF)]
  blockReservedZero b [(39, 47, 0xFF), (114, 127, 0xFF)]
  let a := parseUpdate p b (← get).tns.round.toNat
  checkUpdate a
  pure { outs := a.written.map fun i => (a.side i 1, 0, a.bytes i),
         names := p.handle 16 :: (a.used.flatMap fun i => [(a.pair i).1, (a.pair i).2]) ++ (if a.roots then [] else [a.grad]),
         run := runUpdate a }

/-- UPDATE. -/
def execUpdate (q : Fin 64) (p : Packet) (s : State) : Host.Outcome State Fault Refusal :=
  .next (issueS q 0x48 p (planUpdate q p) s)

end Sys2Proof.Machine
end

