-- ==== Sys2Proof/Machine/Vector.lean ====
section
/-! DEFINITION. VECTOR_OP, NORM, SOFTMAX, LOSS and QUANT_STORE (R208 to R210). After SUBOP and the formats, whose order R208 gives, the
order of their checks is the model's: ROUND, COLS, the tensor scale, the group and its stakes, the regions. DESIGN CHOICE, log 64. -/

namespace Sys2Proof.Machine

/-- The packet fields of a vector command (Table 9.10), with its four regions' handles, offsets and pitches. -/
structure VecArgs where
  pb     : BitVec 32
  op     : Nat
  subop  : Nat
  inFmt  : Nat
  outFmt : Nat
  ctrl   : Nat
  rows   : Nat
  cols   : Nat
  s0     : Nat
  s1     : Nat
  refs   : List (BitVec 32 × Nat × Nat)
  key    : DrawKey
  rs     : Bool
deriving DecidableEq, Repr

def VecArgs.round (a : VecArgs) : Nat := a.ctrl % 4
def VecArgs.yScalar (a : VecArgs) : Bool := bit a.ctrl 2
def VecArgs.yEn (a : VecArgs) : Bool := bit a.ctrl 3
def VecArgs.tscaleEn (a : VecArgs) : Bool := bit a.ctrl 4
def VecArgs.compare (a : VecArgs) : Bool := bit a.ctrl 5

/-- Region `i` (0 X, 1 Y, 2 Z, 3 OUT) with its shape and format. -/
def VecArgs.region (a : VecArgs) (i rows cols fmt : Nat) : Region :=
  let r := a.refs.getD i (0, 0, 0)
  { handle := r.1, offset := r.2.1, pitch := r.2.2, rows, cols, bits := storageBits fmt }

/-- The rounding of element `index` (R44, R45): class 2 for vector results, 3 for QUANT_STORE. -/
def VecArgs.rnd (a : VecArgs) (cls index : Nat) : Rnd :=
  if a.rs then .sr (a.key.draw cls 0 index) else if a.round = 1 then .rtz else .rne

/-- The checks that all five commands share: the block, reserved bits, and the fields. -/
def readVec (q op : Nat) (p : Packet) : Cmd VecArgs := do
  let die ← seqDie q
  let b ← readBlock (p.handle 16) (p.num 20 6) 64 64 20 die
  reservedZero p [(30, 30, 0xC0), (31, 31, 0xFF), (46, 63, 0xFF)]
  blockReservedZero b [(10, 11, 0xFF), (26, 27, 0xFF), (42, 43, 0xFF), (58, 59, 0xFF)]
  let s ← get
  pure { pb := p.handle 16, op, subop := p.num 28 1, inFmt := p.num 29 1 % 16, outFmt := p.num 29 1 / 16, ctrl := p.num 30 1, rows := p.num 32 3,
         cols := p.num 35 3, s0 := p.num 38 4, s1 := p.num 42 4,
         refs := (List.range 4).map fun i => (BitVec.ofNat 32 (field b (16 * i) 4), field b (16 * i + 4) 6, field b (16 * i + 12) 4),
         key := { seed := s.tns.rsSeed.toNat, op := p.operatorId.toNat, layer := p.layerId.toNat, round := s.tns.round.toNat },
         rs := s.reduced }

def requireLives (a : VecArgs) : List Nat → Cmd Unit
  | [] => pure ()
  | i :: t => do
    requireLive (a.refs.getD i (0, 0, 0)).1
    requireLives a t

/-- R42, R44, R45. -/
def checkRound (a : VecArgs) : Cmd Unit :=
  require (a.round < 2 || (a.round == 2 && a.rs)) ROUNDING_NOT_ALLOWED

/-- The group word and its stakes. -/
def checkGroup (w : Nat) : Cmd Group := do
  let g := groupOf w
  require g.ok GROUP_SHAPE_INVALID
  checkStakes g
  pure g

/-- R205 for regions given as (index, rows, columns, format). -/
def checkShapes (a : VecArgs) : List (Nat × Nat × Nat × Nat) → Cmd Unit
  | [] => pure ()
  | (i, r, c, f) :: t => do
    checkRegion (a.region i r c f) (16 * i + 4) (16 * i + 12)
    checkShapes a t

/-- The regions written, as extents. -/
def VecArgs.outs (a : VecArgs) (shapes : List (Nat × Nat × Nat × Nat)) : List (BitVec 32 × Nat × Nat) :=
  shapes.filterMap fun (i, r, c, f) =>
    let g := a.region i r c f
    if g.empty then none else some (g.handle, g.offset, g.extent)

/-- The handles a command names: its parameter block's and its regions'. -/
def VecArgs.names (a : VecArgs) (l : List Nat) : List (BitVec 32) := a.pb :: l.map fun i => (a.refs.getD i (0, 0, 0)).1

/-- The part of a region that begins at row `n`. -/
def Region.from (r : Region) (n : Nat) : Region := { r with offset := r.offset + n * r.pitch, rows := r.rows - n }

/-- Elements of region `i` with the given shape, each row by the member that has it (R208). -/
def VecArgs.read (a : VecArgs) (i rows cols fmt : Nat) (g : Group) : Cmd (List (List Nat)) := do
  let r := a.region i rows cols fmt
  let n := g.firstRows rows
  let l ← readRegion { r with rows := n } (some 0)
  let m ← readRegion (r.from n) (some 1)
  pure (l ++ m)

/-- Elements of region `i` that every member takes. -/
def VecArgs.readShared (a : VecArgs) (i rows cols fmt : Nat) (g : Group) : Cmd (List (List Nat)) := do
  readRegion (a.region i rows cols fmt) (← g.reader)

/-- The writes of a region's rows, by the die whose members have them. -/
def rowWrites (g : Group) (r : Region) (rows : List (List Nat)) : List (Option Nat × List Out) :=
  let n := g.firstRows r.rows
  [(some 0, regionOuts r (rows.take n)), (some 1, regionOuts (r.from n) (rows.drop n))]

/-- Writes by the dies that make them, in order; the first failure counts. -/
def writeBy : List (Option Nat × List Out) → Cmd Res
  | [] => pure {}
  | (die, l) :: t => do
    let f ← act (writeOuts die (joinOuts l))
    pure (endWith f (← writeBy t))

/-- Element (r, c) of rows of codes, decoded. -/
def at2 (fmt : Nat) (l : List (List Nat)) (r c : Nat) : Num := decode fmt ((l.getD r []).getD c 0)

/-! ### VECTOR_OP -/

/-- Sub-operations that take y, and those that integers may use (R208). -/
def usesY (sub : Nat) : Bool := sub ≤ 4 || sub == 9 || sub == 0xA
def integerOp (sub : Nat) : Bool := sub ≤ 2 || (9 ≤ sub && sub ≤ 0xB)

/-- A quotient or square root, bounded to one ulp of the result format (Table 2.11): the free candidate within the bound, else
the exact value rounded. In reduced service it is the exact value rounded with its draw (R43, R45). -/
def boundedIn (rs : Bool) (fmt op : Nat) (operands : List Nat) (exact : Num) (dflt : Nat) : Nat :=
  if rs then dflt
  else match formatKind fmt with
  | some (.flt f) =>
    let c := Config.candidate op (fmt :: operands) % 2 ^ storageBits fmt
    let v := decodeFlt f c
    if exact.isFin && (decodeFlt f dflt).isFin && !(v.isZero && c ≠ 0) && withinUlps f 1 v exact then c else dflt
  | _ => dflt

/-- x / y rounded into a format. -/
def divInto (fmt : Nat) (r : Rnd) (x y : Num) : Nat :=
  match formatKind fmt with
  | some (.flt f) => divFlt f r x y
  | _ => (convert fmt r (quotNum x y)).code

/-- The code of one result (Table 9.11). -/
def vectorElem (a : VecArgs) (r : Rnd) (x y z : Num) (operands : List Nat) : Nat :=
  let put := fun (v : Num) => (convert a.outFmt r v).code
  let s0 := f32 a.s0
  match a.subop with
  | 0 => put (x.add y)
  | 1 => put (x.sub y)
  | 2 => put (x.mul y)
  | 3 => put ((x.mul y).add z)
  | 4 => boundedIn a.rs a.outFmt 4 operands (quotNum x y) (divInto a.outFmt r x y)
  | 5 => boundedIn a.rs a.outFmt 5 operands (sqrtRef x) (put (sqrtNum 80 x))
  | 6 => put (bounded 6 operands 2 (expRef x))
  | 7 => put (bounded 7 operands 2 (logRef x))
  | 8 => put (bounded 8 operands 2 (rsqrtRef x))
  | 9 => put (x.max y)
  | 0xA => put (x.min y)
  | 0xB => put x
  | _ => put ((x.mul s0).add (f32 a.s1))

def planVectorOp (q : Nat) (p : Packet) : Cmd Plan := do
  let a ← readVec q 0x08 p
  let y := usesY a.subop && !a.yScalar
  let z := a.subop == 3
  let used := [0] ++ (if y then [1] else []) ++ (if z then [2] else []) ++ [3]
  requireLives a used
  require (a.subop ≤ 0xC) VALUE_INVALID 28
  let ok := fun (f : Nat) => if a.rs then f == 3 || f == 0xA || f == 0xB else isVectorFormat f
  require (ok a.inFmt && ok a.outFmt && (a.inFmt ≥ 5 || integerOp a.subop)) FORMAT_NOT_ALLOWED
  checkRound a
  let g ← checkGroup (p.num 26 2)
  checkShapes a (used.map fun i => (i, a.rows, a.cols, if i = 3 then a.outFmt else a.inFmt))
  pure { outs := a.outs [(3, a.rows, a.cols, a.outFmt)], names := a.names used,
         run := do
           readSrams g.vectorStores
           let xs ← a.read 0 a.rows a.cols a.inFmt g
           let ys ← if y then a.read 1 a.rows a.cols a.inFmt g else pure []
           let zs ← if z then a.read 2 a.rows a.cols a.inFmt g else pure []
           let rows := (List.range a.rows).map fun r => (List.range a.cols).map fun c =>
             let yc := if y then (ys.getD r []).getD c 0 else a.s0
             let yv := if y then decode a.inFmt yc else f32 a.s0
             let xc := (xs.getD r []).getD c 0
             vectorElem a (a.rnd 2 (r * a.cols + c)) (decode a.inFmt xc) yv (at2 a.inFmt zs r c) [a.inFmt, xc, yc]
           writeBy (rowWrites g (a.region 3 a.rows a.cols a.outFmt) rows) }

/-- VECTOR_OP. -/
def execVectorOp (q : Fin 64) (p : Packet) (s : State) : Host.Outcome State Fault Refusal :=
  .next (issueS q 0x08 p (planVectorOp q p) s)

/-! ### Row reductions (R208) -/

/-- A sum in W40 over the pairwise tree. -/
def sumW (l : List Num) : Num := tree addW (.fin 0 0) l

/-- A maximum over the tree; minus infinity of none. -/
def maxW (l : List Num) : Num := tree Num.max (.inf true) l

/-! ### NORM -/

/-- One row of NORM, before the output conversion (Table 9.11). `tag` names the element's operands. -/
def normRow (a : VecArgs) (xs gs bs : List Num) (codes : List Nat) : List Num :=
  let n : Num := .fin a.cols 0
  let mean := fun (l : List Num) => quotNum (sumW l) n
  let mu := if a.subop = 1 then mean xs else .fin 0 0
  let ds := xs.map fun x => x.sub mu
  let k := rsqrtRef ((mean (ds.map fun d => d.mul d)).add (f32 a.s0))
  ds.mapIdx fun i d =>
    let v := cut ((d.mul k).mul (gs.getD i (.fin 1 0)))
    bounded (0x90 + a.subop) (a.inFmt :: a.s0 :: i :: codes) 4 (if a.subop = 1 then v.add (bs.getD i (.fin 0 0)) else v)

def planNorm (q : Nat) (p : Packet) : Cmd Plan := do
  let a ← readVec q 0x09 p
  let layer := a.subop == 1
  let used := [0] ++ (if a.yEn then [1] else []) ++ (if a.yEn && layer then [2] else []) ++ [3]
  requireLives a used
  require (a.subop ≤ 1) VALUE_INVALID 28
  let ok := fun (f : Nat) => isVectorFormat f
  require (ok a.inFmt && ok a.outFmt && a.inFmt ≥ 5) FORMAT_NOT_ALLOWED
  checkRound a
  require (a.cols ≤ 65536) VALUE_INVALID 35
  let g ← checkGroup (p.num 26 2)
  checkShapes a (used.map fun i => (i, if i = 1 || i = 2 then 1 else a.rows, a.cols, if i = 3 then a.outFmt else a.inFmt))
  pure { outs := a.outs [(3, a.rows, a.cols, a.outFmt)], names := a.names used,
         run := do
           readSrams g.vectorStores
           let xs ← a.read 0 a.rows a.cols a.inFmt g
           let gs ← if a.yEn then a.readShared 1 1 a.cols a.inFmt g else pure []
           let bs ← if a.yEn && layer then a.readShared 2 1 a.cols a.inFmt g else pure []
           let gv := (gs.headD []).map (decode a.inFmt)
           let bv := (bs.headD []).map (decode a.inFmt)
           let rows := xs.mapIdx fun r row =>
             (normRow a (row.map (decode a.inFmt)) gv bv (row ++ gs.headD [] ++ bs.headD [])).mapIdx fun c v =>
               (convert a.outFmt (a.rnd 2 (r * a.cols + c)) v).code
           writeBy (rowWrites g (a.region 3 a.rows a.cols a.outFmt) rows) }

/-- NORM. -/
def execNorm (q : Fin 64) (p : Packet) (s : State) : Host.Outcome State Fault Refusal :=
  .next (issueS q 0x09 p (planNorm q p) s)

/-! ### SOFTMAX -/

/-- One row of SOFTMAX over its terms SCALAR0 × x + y (Table 9.11). -/
def softmaxRow (a : VecArgs) (ts : List Num) (codes : List Nat) : List Num :=
  if ts.all fun t => t == .inf true then ts.map fun _ => .fin 0 0
  else
    let m := maxW ts
    let es := ts.map fun t => expRef (t.sub m)
    let sum := sumW (es.map fun e => w40 (toW40 e))
    es.mapIdx fun i e => bounded 0xA0 (a.inFmt :: a.s0 :: i :: codes) 4 (quotNum e sum)

def planSoftmax (q : Nat) (p : Packet) : Cmd Plan := do
  let a ← readVec q 0x0A p
  let used := [0] ++ (if a.yEn then [1] else []) ++ [3]
  requireLives a used
  require (a.subop == 0) VALUE_INVALID 28
  require (isVectorFormat a.inFmt && isVectorFormat a.outFmt && a.inFmt ≥ 5) FORMAT_NOT_ALLOWED
  checkRound a
  require (a.cols ≤ 65536) VALUE_INVALID 35
  let g ← checkGroup (p.num 26 2)
  checkShapes a (used.map fun i => (i, a.rows, a.cols, if i = 3 then a.outFmt else a.inFmt))
  pure { outs := a.outs [(3, a.rows, a.cols, a.outFmt)], names := a.names used,
         run := do
           readSrams g.vectorStores
           let xs ← a.read 0 a.rows a.cols a.inFmt g
           let ys ← if a.yEn then a.read 1 a.rows a.cols a.inFmt g else pure []
           let s0 := f32 a.s0
           let rows := xs.mapIdx fun r row =>
             let ts := row.mapIdx fun c x =>
               ((decode a.inFmt x).mul s0).add (if a.yEn then at2 a.inFmt ys r c else .fin 0 0)
             (softmaxRow a ts (row ++ ys.getD r [])).mapIdx fun c v => (convert a.outFmt (a.rnd 2 (r * a.cols + c)) v).code
           writeBy (rowWrites g (a.region 3 a.rows a.cols a.outFmt) rows) }

/-- SOFTMAX. -/
def execSoftmax (q : Fin 64) (p : Packet) (s : State) : Host.Outcome State Fault Refusal :=
  .next (issueS q 0x0A p (planSoftmax q p) s)

/-! ### LOSS -/

/-- log Σ exp(x) over a row, taken from its maximum. -/
def logSumExp (xs : List Num) : Num :=
  if xs.any fun x => x == .nan then .nan
  else
    match maxW xs with
    | .fin m e =>
      let sum := sumW (xs.map fun x => w40 (toW40 (expRef (x.sub (.fin m e)))))
      (logRef sum).add (.fin m e)
    | x => x

/-- One row's loss: none for a row that counts no term (Table 9.11). -/
def lossRow (a : VecArgs) (xs : List Num) (ys : List Num) (target : Int) (codes : List Nat) : Option Num :=
  if a.subop = 0 then
    if target = -1 then none
    else if target < 0 || target ≥ a.cols then some .nan
    else some (bounded 0xB0 (a.inFmt :: target.toNat :: codes) 4 ((logSumExp xs).sub (xs.getD target.toNat .nan)))
  else
    let ds := List.zipWith (fun x y => x.sub y) xs ys
    some (bounded 0xB1 (a.inFmt :: codes) 4 ((sumW (ds.map fun d => w40 (toW40 (d.mul d)))).scale (-1)))

/-- Rows' codes and the total's code. -/
def lossCodes (a : VecArgs) (xs ys : List (List Nat)) : List Nat × Nat :=
  let rnd : Rnd := if a.round = 1 then .rtz else .rne
  let rows := xs.mapIdx fun r row =>
    let yr := ys.getD r []
    (lossRow a (row.map (decode a.inFmt)) (yr.map (decode a.inFmt)) (decodeInt 32 (yr.getD 0 0)) (row ++ yr)).map fun v =>
      (convFlt fltFp32 rnd v).code
  (rows.map fun r => r.getD 0, (convFlt fltFp32 rnd (sumW (rows.filterMap fun r => r.map f32))).code)

def planLoss (q : Nat) (p : Packet) : Cmd Plan := do
  let a ← readVec q 0x0B p
  requireLives a [0, 1, 2, 3]
  require (a.subop ≤ 1) VALUE_INVALID 28
  require (0xA ≤ a.inFmt && a.inFmt ≤ 0xC && a.outFmt == 0xC) FORMAT_NOT_ALLOWED
  checkRound a
  require (a.cols ≤ 65536) VALUE_INVALID 35
  let g ← checkGroup (p.num 26 2)
  let (yf, yc) := if a.subop = 0 then (4, 1) else (a.inFmt, a.cols)
  checkShapes a [(0, a.rows, a.cols, a.inFmt), (1, a.rows, yc, yf), (2, 1, 1, 0xC), (3, a.rows, 1, 0xC)]
  pure { outs := if a.compare then [] else a.outs [(3, a.rows, 1, 0xC), (2, 1, 1, 0xC)], names := a.names [0, 1, 2, 3],
         run := do
           readSrams g.vectorStores
           let xs ← a.read 0 a.rows a.cols a.inFmt g
           let ys ← a.read 1 a.rows yc yf g
           let (rows, z) := lossCodes a xs ys
           if a.compare then
             let old ← a.read 3 a.rows 1 0xC g
             let oldZ ← a.readShared 2 1 1 0xC g
             match firstIdx (fun r => (old.getD r []).getD 0 0 != rows.getD r 0) (List.range a.rows) with
             | some r => pure { status := COMPARE_MISMATCH, detail := r }
             | none => pure (if (oldZ.getD 0 []).getD 0 0 = z then {} else { status := COMPARE_MISMATCH, detail := 0xFFFFFFFF })
           else
             writeBy (rowWrites g (a.region 3 a.rows 1 0xC) (rows.map fun r => [r]) ++ [(← g.reader, regionOuts (a.region 2 1 1 0xC) [[z]])]) }

/-- LOSS. -/
def execLoss (q : Fin 64) (p : Packet) (s : State) : Host.Outcome State Fault Refusal :=
  .next (issueS q 0x0B p (planLoss q p) s)

/-! ### QUANT_STORE (R209) -/

/-- One block into a block-scaled format: its scale and codes (R36, R40). In an FP8 block with an infinity or NaN the scale is taken
over the finite elements. DESIGN CHOICE, log 64. -/
def quantBlock (fmt : Nat) (ys : List (Num × Rnd)) : Nat × List Nat :=
  if borderRung fmt && ys.any fun y => !y.1.isFin then (255, ys.map fun _ => 0)
  else
    let top := ys.foldl (fun (a : Num) y => if y.1.isFin then a.max y.1.abs else a) (Num.fin 0 0)
    let e : Nat := if top.isZero then 0 else Min.min 254 (top.floorLog2 - emaxOf fmt + 127).toNat
    (e, ys.map fun y => (convert fmt y.2 (y.1.scale (127 - e))).code)

/-- One row: scales and codes. -/
def quantRow (fmt : Nat) (ys : List (Num × Rnd)) : List Nat × List Nat :=
  if blockScaled fmt then
    let bs := (chunks 32 ys.length ys).map (quantBlock fmt)
    (bs.map (·.1), bs.flatMap (·.2))
  else ([], ys.map fun y => (convert fmt y.2 y.1).code)

def planQuantStore (q : Nat) (p : Packet) : Cmd Plan := do
  let a ← readVec q 0x04 p
  let z := blockScaled a.outFmt
  let used := [0] ++ (if z then [2] else []) ++ [3]
  requireLives a used
  require (a.subop == 0) VALUE_INVALID 28
  require ((a.inFmt == 0xA || a.inFmt == 0xC) && isStoredFormat a.outFmt) FORMAT_NOT_ALLOWED
  require (!a.rs || (a.inFmt == 0xA && storageBits a.outFmt ≤ 16 && !a.tscaleEn)) FORMAT_NOT_ALLOWED
  checkRound a
  require (!a.tscaleEn || ((f32 a.s0).isFin && !(f32 a.s0).isZero)) TENSOR_SCALE_INVALID
  let g ← checkGroup (p.num 26 2)
  let zs := if z then [(2, a.rows, cdiv a.cols 32, 0xD)] else []
  checkShapes a ([(0, a.rows, a.cols, a.inFmt)] ++ zs ++ [(3, a.rows, a.cols, a.outFmt)])
  pure { outs := a.outs ([(3, a.rows, a.cols, a.outFmt)] ++ zs), names := a.names used,
         run := do
           readSrams g.vectorStores
           let xs ← a.read 0 a.rows a.cols a.inFmt g
           let t := if a.tscaleEn then some (f32 a.s0) else none
           let rows := xs.mapIdx fun r row => quantRow a.outFmt (row.mapIdx fun c x =>
             (scaleDown t (decode a.inFmt x), a.rnd 3 (r * a.cols + c)))
           let scales := if z then rowWrites g (a.region 2 a.rows (cdiv a.cols 32) 0xD) (rows.map (·.1)) else []
           writeBy (rowWrites g (a.region 3 a.rows a.cols a.outFmt) (rows.map (·.2)) ++ scales) }

/-- QUANT_STORE. -/
def execQuantStore (q : Fin 64) (p : Packet) (s : State) : Host.Outcome State Fault Refusal :=
  .next (issueS q 0x04 p (planQuantStore q p) s)

end Sys2Proof.Machine
end

