-- ==== Sys2Proof/Machine/Window.lean ====
section
/-! DEFINITION. The BAR4 window (R339 to R341). -/

namespace Sys2Proof.Machine

/-- What a BAR4 request of `len` bytes at `off` addresses: its aperture's handle and the byte offset in it. -/
def State.aperture (s : State) (off : Nat) : BitVec 32 × Nat :=
  let a := tget {} s.lnk.apertures (off / 2 ^ 30 % 64)
  (a.handle, a.base + off % 2 ^ 30)

/-- A request that lies in one aperture. -/
def inAperture (off len : Nat) : Bool := off < barSize 4 && off % 2 ^ 30 + len ≤ 2 ^ 30

/-- Whether the device accepts a request: aperture enabled, handle live, bytes below its SIZE. -/
def State.accepts (s : State) (off len : Nat) : Bool :=
  let (h, x) := s.aperture off
  h ≠ 0 && s.live h && x + len ≤ s.handleSize h

/-- `n` whole lines of a handle from line `i` on, each strand verified at the device's exit: their bytes, and every failure. -/
def readEach (h : BitVec 32) (i : Nat) : Nat → State → List Byte × List Fail × State
  | 0, s => ([], [], s)
  | n + 1, s =>
    let (b, f, s) : List Byte × List Fail × State := match (readBytes h (512 * i) 512 none 7).run s with
      | .ok b s => (b, [], s)
      | .error f s => ([], [f], s)
    let (c, g, s) := readEach h (i + 1) n s
    (b ++ c, f ++ g, s)

/-- AER reports a poisoned completion (R341), with the bit of a poisoned TLP (PRESUMED, log 65). -/
def reportAer (s : State) : State := { s with lnk := { s.lnk with pci := { s.lnk.pci with aer := s.lnk.pci.aer ||| 0x1000 } } }

/-- BAR4_READ: whole lines, each strand verified at the device's exit. -/
def bar4Read (off len : Nat) (s : State) : State :=
  if !s.clocked || !inAperture off len then s
  else if !s.accepts off len then
    raiseLnk 3 { s with out := { s.out with readData := List.replicate len 0xFF, readEnd := .refused } }
  else
    let (h, x) := s.aperture off
    let (b, fs, s) := readEach h (x / 512) (cdiv (x + len) 512 - x / 512) s
    if fs.isEmpty then { s with out := { s.out with readData := slice b (x % 512) len, readEnd := .ok } }
    else raisePoisoned fs <| reportAer { s with out := { s.out with readData := [], readEnd := .poisoned } }

def execBar4Read (off len : Nat) (s : State) : Host.Outcome State Fault Refusal := .next (unlessOver (bar4Read off len) s)

/-- BAR4_WRITE: split at lines, written whole or merged. Each accepted write advances the handle's write generation once, and
abandons the drains that hold it (R83, R245). A write that needs room in a full retrain journal is held, and those
after it with it (R150, R340). -/
def bar4Write (off : Nat) (data : List Byte) (s : State) : State :=
  if !s.clocked || !inAperture off data.length || data.isEmpty then s
  else if !s.accepts off data.length then raiseLnk 3 s
  else
    let (h, x) := s.aperture off
    (writeHeld { handle := h, offset := x, bytes := data, bar4 := true } (advanceGen h (abandonHolding s.nextId [h] s))).2

def execBar4Write (off : Nat) (data : List Byte) (s : State) : Host.Outcome State Fault Refusal := .next (bar4Write off data s)

end Sys2Proof.Machine
end

