-- ==== Sys2Proof/Machine/Writes.lean ====
section
/-! DEFINITION. BAR0 writes, reads with a side effect, and the doorbells of BAR2 (R8 to R10, R191, R194, R198, R301, R319, R338
and the register maps). -/

namespace Sys2Proof.Machine

/-! ### Queues (R194) -/

/-- Whether two queues have the same configuration: what changes only while a queue is disabled and idle. -/
def Queue.sameConfig (v w : Queue) : Bool :=
  v.loc == w.loc && v.seqr == w.seqr && v.sqLog2 == w.sqLog2 && v.cqLog2 == w.cqLog2 && v.sqBase == w.sqBase &&
    v.cqBase == w.cqBase && v.sqHandle == w.sqHandle && v.cqHandle == w.cqHandle

/-- A write that gives queue `q` the configuration of `w`: rejected as a whole, or accepted, with its indices and phase at
their start where it changes the configuration. Answers whether it was accepted. -/
def configure (q : Nat) (w : Queue) (s : State) : Bool × State :=
  let v := s.queue q
  if w.sameConfig v then (true, s)
  else if v.enable || !s.idleQueue q then (false, raiseQue q 1 s)
  else (true, s.setQueue q { v with loc := w.loc, seqr := w.seqr, sqLog2 := w.sqLog2, cqLog2 := w.cqLog2, sqBase := w.sqBase,
                                    cqBase := w.cqBase, sqHandle := w.sqHandle, cqHandle := w.cqHandle,
                                    sqHead := 0, sqTail := 0, cqTail := 0, cqHead := 0, phase := true, head := none })

/-- A ring size as it latches: 4 to 16. -/
def clampLog2 (n : Nat) : Nat := Max.max 4 (Min.min 16 n)

/-- QUE_CTRL: configuration first, ENABLE second. -/
def writeQueCtrl (q : Nat) (w : Word) (s : State) : State :=
  let n := w.toNat
  let v := { s.queue q with loc := bit n 1, seqr := bits n 3 2, sqLog2 := clampLog2 (bits n 12 8), cqLog2 := clampLog2 (bits n 20 16) }
  match configure q v s with
  | (true, s) =>
    let v := s.queue q
    s.setQueue q { v with enable := bit n 0, priority := bits n 5 4, stopOnError := bit n 6, head := if bit n 0 then v.head else none }
  | (false, s) => s

/-- A 64-bit register with its low or high word replaced. -/
def setLo (r : BitVec 64) (w : Nat) : BitVec 64 := BitVec.ofNat 64 (hi32 r.toNat * 2 ^ 32 + lo32 w)
def setHi (r : BitVec 64) (w : Nat) : BitVec 64 := BitVec.ofNat 64 (lo32 w * 2 ^ 32 + lo32 r.toNat)

/-- A register of queue `q` at its page offset. -/
def writeQueue (q o : Nat) (w : Word) (s : State) : State :=
  let v := s.queue q
  let n := w.toNat
  match o with
  | 0x00 => writeQueCtrl q w s
  | 0x04 => s.setQueue q { v with status := v.status.clear (bits n 5 2) }
  | 0x08 => (configure q { v with sqBase := setLo v.sqBase (n / 4096 * 4096) } s).2
  | 0x0C => (configure q { v with sqBase := setHi v.sqBase n } s).2
  | 0x10 => (configure q { v with sqHandle := w } s).2
  | 0x14 => (configure q { v with cqBase := setLo v.cqBase (n / 4096 * 4096) } s).2
  | 0x18 => (configure q { v with cqBase := setHi v.cqBase n } s).2
  | 0x1C => (configure q { v with cqHandle := w } s).2
  | _ => s

/-! ### Doorbells (R191) -/

/-- A doorbell value: its index, where it is accepted. -/
def doorbell (size : Nat) (v : Word) : Option Nat := if v.toNat < 65536 && v.toNat < size then some v.toNat else none

/-- SQ_DOORBELL. -/
def execSqDoorbell (q : Fin 64) (v : Word) (s : State) : Host.Outcome State Fault Refusal :=
  .next (if !s.responds 0x00010000 || s.que.flr then s
    else
      let x := s.queue q
      match doorbell x.sqSize v with
      | some i => s.setQueue q { x with sqTail := i }
      | none => raiseQue q 0 s)

/-- CQ_DOORBELL. -/
def execCqDoorbell (q : Fin 64) (v : Word) (s : State) : Host.Outcome State Fault Refusal :=
  .next (if !s.responds 0x00010000 || s.que.flr then s
    else
      let x := s.queue q
      match doorbell x.cqSize v with
      | some i => s.setQueue q { x with cqHead := i }
      | none => raiseQue q 0 s)

/-! ### Tokens (R198) -/

def writeTokenSet (w : Word) (s : State) : State := signalToken (w.toNat % 65536) s
def writeTokenClear (w : Word) (s : State) : State :=
  if w.getLsbD 0 then { s with que := { s.que with tokens := [] } } else s

/-! ### Blocks -/

/-- QUE_. -/
def writeQue (o : Nat) (w : Word) (s : State) : State :=
  if o < 0x1000 then writeQueue (o / 64) (o % 64) w s
  else if o = 0x1000 then writeTokenSet w s
  else if o = 0x1004 then writeTokenClear w s
  else s

/-- SEQ_. -/
def writeSeq (o : Nat) (w : Word) (s : State) : State :=
  match o with
  | 0x1000 => { s with seq := { s.seq with wdog := Max.max 100 (w.toNat % 2 ^ 24) } }
  | 0x1004 => { s with seq := { s.seq with status := s.seq.status.clear (w.toNat % 16) } }
  | _ => s

/-- One layer's register in the staged copy (Tables 5.15 to 5.18); a value that latches as another does so when written. -/
def LayerCfg.write (c : LayerCfg) (o : Nat) (w : Word) : LayerCfg :=
  match o with
  | 0x00 => { c with fwd := w &&& 0xFFFFF }
  | 0x04 => { c with bwdD := w &&& 0xFFFFF }
  | 0x08 => { c with bwdW := w &&& 0xFFFFF }
  | 0x0C => { c with policy := w &&& 0x0FFFFFFF }.latched
  | 0x10 => { c with upThr := w }
  | 0x14 => { c with cleanThr := w }
  | 0x18 => { c with shadowTol := w }.latched
  | 0x1C => { c with runloss := w &&& 0x00FFFFFF }
  | _ => c

/-- The staged copy (R116). TNS_SUMMARY_OFFSET_LO holds what is written, bits [8:0] too, which Table 5.14 wants zero (DESIGN CHOICE,
log 64). -/
def TnsCfg.write (c : TnsCfg) (o : Nat) (w : Word) : TnsCfg :=
  if 0x10000 ≤ o && o < 0x50000 then { c with layers := tmod {} c.layers ((o - 0x10000) / 64) fun l => l.write (o % 64) w }
  else
    match o with
    | 0x00 => { c with ctrl := latchShadow w }
    | 0x10 => { c with budget := w }
    | 0x14 => { c with decay := w &&& 0xFFFF }
    | 0x18 => { c with layerCount := latchLayers (w &&& 0x1FFF) }
    | 0x20 => { c with sumHandle := w }
    | 0x24 => { c with sumOffLo := w }
    | 0x28 => { c with sumOffHi := w &&& 0xFFFF }
    | _ => c

/-- TNS_. -/
def writeTns (o : Nat) (w : Word) (s : State) : State :=
  if o = 0x04 then { s with tns := { s.tns with status := s.tns.status.clear (w.toNat % 4) } }
  else { s with tns := { s.tns with staged := s.tns.staged.write o w } }

/-- PLC_DESC_SEL: the snapshot is taken in the cycle of the write (R188). -/
def writeDescSel (w : Word) (s : State) : State :=
  let i := w.toNat % 65536
  { s with plc := { s.plc with descSel := i, descData := s.descBytes i true } }

/-- A field whose zero latches as 1. -/
def atLeastOne (n : Nat) : Nat := Max.max 1 n

/-- PLC_CTRL with MIG_SHARE and LEVEL_DELTA as they latch. -/
def latchPlcCtrl (w : Word) : Word :=
  BitVec.ofNat 32 (w.toNat % 8 + 256 * atLeastOne (bits w.toNat 11 8) + 65536 * atLeastOne (bits w.toNat 23 16))

/-- PLC_STATUS; SHORT is set again while a logical stake is unmapped (R182, R301). -/
def writePlcStatus (w : Word) (s : State) : State :=
  let s := { s with plc := { s.plc with status := s.plc.status.clear (w.toNat % 8) } }
  if w.getLsbD 2 && s.anyUnmapped then raisePlc 2 s else s

/-- PLC_. -/
def writePlc (o : Nat) (w : Word) (s : State) : State :=
  let p := s.plc
  match o with
  | 0x00 => { s with plc := { p with ctrl := latchPlcCtrl w } }
  | 0x04 => writePlcStatus w s
  | 0x1C => { s with plc := { p with migBudget := BitVec.ofNat 32 (atLeastOne (w.toNat % 65536)) } }
  | 0x30 => { s with plc := { p with resLimit := BitVec.ofNat 32 (Min.min 2048 (w.toNat % 4096) + 65536 * bits w.toNat 31 16) } }
  | 0x34 => { s with plc := { p with retireLimit := BitVec.ofNat 32 (atLeastOne (w.toNat % 256)) } }
  | 0x100 => writeDescSel w s
  | _ => s

/-- MEM_CE_LOG_CTRL.CLEAR empties the table (R143). -/
def clearCeLog (w : Word) (s : State) : State :=
  if w.getLsbD 31 then { s with mem := { s.mem with ceTable := [] } } else s

/-- MEM_. -/
def writeMem (o : Nat) (w : Word) (s : State) : State :=
  let m := s.mem
  match o with
  | 0x00 => { s with mem := { m with ctrl := w &&& 7 } }
  | 0x04 => { s with mem := { m with status := m.status.clear (w.toNat % 16) } }
  | 0x0C => { s with mem := { m with scrubInterval := Max.max 500 (w.toNat % 2 ^ 24) } }
  | 0x10 => { s with mem := { m with retrainThresh := atLeastOne (w.toNat % 65536) } }
  | 0x14 => { s with mem := { m with failLimit := atLeastOne (w.toNat % 65536) } }
  | 0x18 => clearCeLog w s
  | _ => s

/-- An MSI-X table word: an address or data word holds what is written to it (DESIGN CHOICE, log 64), a vector control word its mask bit
alone (R10); a vector that is unmasked sends its pending message, or holds it during its holdoff (R342). -/
def writeMsix (i : Nat) (w : Word) (s : State) : State :=
  let d : Word := if i % 4 = 3 then 1 else 0
  let w := if i % 4 = 3 then w &&& 1 else w
  let s := { s with lnk := { s.lnk with msix := tset d s.lnk.msix i w } }
  let v := i / 4
  if i % 4 = 3 && !w.getLsbD 0 && s.lnk.msixPending.contains v then
    signalVector v { s with lnk := { s.lnk with msixPending := s.lnk.msixPending.filter (· ≠ v) } }
  else s

/-- An aperture register (R339). -/
def Aperture.write (a : Aperture) (o : Nat) (w : Word) : Aperture :=
  match o with
  | 0x0 => { a with handle := w }
  | 0x4 => { a with base := hi32 a.base * 2 ^ 32 + w.toNat / 512 * 512 }
  | 0x8 => { a with base := w.toNat % 65536 * 2 ^ 32 + lo32 a.base }
  | _ => a

/-- LNK_. -/
def writeLnk (o : Nat) (w : Word) (s : State) : State :=
  if 0x1000 ≤ o && o < 0x1400 then
    { s with lnk := { s.lnk with apertures := tmod {} s.lnk.apertures ((o - 0x1000) / 16) fun a => a.write (o % 16) w } }
  else if 0xE000 ≤ o && o < 0xE420 then writeMsix ((o - 0xE000) / 4) w s
  else
    match o with
    | 0x00 => writeLnkCtrl w s
    | 0x04 => { s with lnk := { s.lnk with status := s.lnk.status.clear (w.toNat % 32) } }
    | 0x10 => { s with lnk := { s.lnk with holdoff := w.toNat % 65536 } }
    | _ => s

/-- A domain policy register (Table 11.20): ignored on a rib in a domain; elsewhere in force from the next round boundary. -/
def writePolicy (f : Policy → Policy) (s : State) : State :=
  if s.tim.role == .rib && s.tim.domain ≠ .detached && s.tim.domain ≠ .joining then s
  else { s with tim := { s.tim with policyNext := some (f s.policyRead) } }

/-- TIM_. -/
def writeTim (o : Nat) (w : Word) (s : State) : State :=
  let t := s.tim
  match o with
  | 0x04 => { s with tim := { t with status := t.status.clear (w.toNat % 16) } }
  | 0x28 => { s with tim := { t with epoch := setLo t.epoch w.toNat } }
  | 0x2C => { s with tim := { t with epoch := setHi t.epoch w.toNat } }
  | 0x30 => writePolicy (fun p => { p with hbPeriod := Max.max 100 (w.toNat % 65536) }) s
  | 0x34 => writePolicy (fun p => { p with grace := w.toNat % 2 ^ 24 }) s
  | 0x38 => writePolicy (fun p => { p with stormShift := w.toNat % 2 ^ 24 }) s
  | 0x3C => writePolicy (fun p => { p with takeover := atLeastOne (w.toNat % 65536), rollback := atLeastOne (bits w.toNat 19 16) }) s
  | _ => s

/-- PWR_ and THM_; the control registers are the installer's (R319). -/
def writePwr (o : Nat) (w : Word) (s : State) : State :=
  match o with
  | 0x0004 => installerWrite 0x00600004 w.toNat (.pwrCtrl w) (fun s => { s with pwr := { s.pwr with upMargin := atLeastOne (w.toNat % 256) } }) s
  | 0x0010 => { s with pwr := { s.pwr with pwrStatus := s.pwr.pwrStatus.clear (w.toNat % 8) } }
  | 0x1000 => installerWrite 0x00601000 w.toNat (.thmCtrl w) (fun s => { s with pwr := { s.pwr with thmCtrl := clampThm (w &&& 0xFFFF) } }) s
  | 0x1008 => { s with pwr := { s.pwr with thmStatus := s.pwr.thmStatus.clear (w.toNat % 8) } }
  | _ => s

/-- CNT_PEEK_SEL: the counter's value in the cycle of the write (R317). -/
def writePeekSel (w : Word) (s : State) : State :=
  { s with cnt := { s.cnt with peekSel := w, peek := s.counterValue w.toNat } }

/-- CNT_. -/
def writeCnt (o : Nat) (w : Word) (s : State) : State :=
  match o with
  | 0x08 => { s with cnt := { s.cnt with cons := w.toNat } }
  | 0x10 => { s with cnt := { s.cnt with status := s.cnt.status.clear (w.toNat % 4) } }
  | 0x20 => writePeekSel w s
  | _ => s

/-- TRC_. -/
def writeTrc (o : Nat) (w : Word) (s : State) : State :=
  match o with
  | 0x18 => { s with trc := { s.trc with status := s.trc.status.clear (w.toNat % 16) } }
  | 0x20 => { s with trc := { s.trc with dumpHandle := w } }
  | _ => s

/-- LGR_STATUS. -/
def writeLgr (o : Nat) (w : Word) (s : State) : State :=
  if o = 0x0C then { s with lgr := { s.lgr with status := s.lgr.status.clear (w.toNat % 8) } } else s

/-- UPS_CFG: an installer write (R293). -/
def writeUpsCfg (w : Word) (s : State) : State :=
  installerWrite 0x00A0000C (w.toNat % 64) (.upsCfg (w &&& 0x3F)) (fun s => { s with ups := { s.ups with cfg := w &&& 0x3F } }) s

/-- UPS_. -/
def writeUps (o : Nat) (w : Word) (s : State) : State :=
  match o with
  | 0x04 => { s with ups := { s.ups with status := s.ups.status.clear (w.toNat % 16) } }
  | 0x0C => writeUpsCfg w s
  | 0x10 => installerWrite 0x00A00010 w.toNat (.rsSeedLo w) (fun s => { s with ups := { s.ups with rsSeed := setLo s.ups.rsSeed w.toNat } }) s
  | 0x14 => installerWrite 0x00A00014 w.toNat (.rsSeedHi w) (fun s => { s with ups := { s.ups with rsSeed := setHi s.ups.rsSeed w.toNat } }) s
  | 0x18 => upsReset (resetKind w == some true) w s
  | _ => s

/-- SEC_CTRL: an installer write (R324). -/
def writeSecCtrl (w : Word) (s : State) : State :=
  installerWrite 0x00900004 (w.toNat % 2) (.secCtrl (w &&& 1)) (fun s => { s with sec := { s.sec with ctrl := w &&& 1 } }) s

/-- SEC_ (Table 14.10). -/
def writeSec (o : Nat) (w : Word) (s : State) : State :=
  if 0x10000 ≤ o && o < 0x20000 then writeWindow (o - 0x10000) w s
  else
    match o with
    | 0x04 => writeSecCtrl w s
    | 0x08 => { s with sec := { s.sec with status := s.sec.status.clear (w.toNat % 16) } }
    | 0x20 => recoveryGo w s
    | _ => s

/-! ### A word of BAR0 (R338) -/

/-- An aligned 32-bit write as its block takes it, whether or not the block responds. -/
def rawWrite (off : Nat) (w : Word) (s : State) : State :=
  if off < 0x00010000 then s
  else if off < 0x00020000 then writeQue (off - 0x00010000) w s
  else if off < 0x00100000 then writeSeq (off - 0x00020000) w s
  else if off < 0x00200000 then writeTns (off - 0x00100000) w s
  else if off < 0x00300000 then writePlc (off - 0x00200000) w s
  else if off < 0x00400000 then writeMem (off - 0x00300000) w s
  else if off < 0x00500000 then writeLnk (off - 0x00400000) w s
  else if off < 0x00600000 then writeTim (off - 0x00500000) w s
  else if off < 0x00700000 then writePwr (off - 0x00600000) w s
  else if off < 0x00780000 then writeCnt (off - 0x00700000) w s
  else if off < 0x00800000 then writeTrc (off - 0x00780000) w s
  else if off < 0x00900000 then writeLgr (off - 0x00800000) w s
  else if off < 0x00A00000 then writeSec (off - 0x00900000) w s
  else if off < 0x00B00000 then writeUps (off - 0x00A00000) w s
  else s

/-- An aligned 32-bit write; a block that does not yet respond ignores it (R279). -/
def writeWord (off : Nat) (w : Word) (s : State) : State := if s.responds off then rawWrite off w s else s

/-- REGISTER_WRITE: aligned 32-bit with all byte enables, or aligned 64-bit as two, lower offset first; any other write is
ignored and sets BAR0_WRITE_ERR (R338). -/
def execRegisterWrite (off size : Nat) (enables : Bool) (v : BitVec 64) (s : State) : Host.Outcome State Fault Refusal :=
  .next (if !s.powered || 0x1000000 ≤ off then s
    else if size = 4 && off % 4 = 0 && enables then writeWord off (v.extractLsb' 0 32) s
    else if size = 8 && off % 8 = 0 && enables then writeWord (off + 4) (v.extractLsb' 32 32) (writeWord off (v.extractLsb' 0 32) s)
    else raiseLnk 2 s)

/-! ### Writes with rows of their own -/

/-- QUE_CTRL_WRITE. -/
def execQueCtrlWrite (q : Fin 64) (v : Word) (s : State) : Host.Outcome State Fault Refusal :=
  .next (writeWord (0x00010000 + 64 * q.val) v s)

/-- QUE_TOKEN_SET. -/
def execQueTokenSet (v : Word) (s : State) : Host.Outcome State Fault Refusal := .next (writeWord 0x00011000 v s)

/-- QUE_TOKEN_CLEAR. -/
def execQueTokenClear (v : Word) (s : State) : Host.Outcome State Fault Refusal := .next (writeWord 0x00011004 v s)

/-- PLC_DESC_SEL_WRITE. -/
def execPlcDescSelWrite (v : Word) (s : State) : Host.Outcome State Fault Refusal := .next (writeWord 0x00200100 v s)

/-- CNT_PEEK_SEL_WRITE. -/
def execCntPeekSelWrite (v : Word) (s : State) : Host.Outcome State Fault Refusal := .next (writeWord 0x00700020 v s)

/-- CE_LOG_CLEAR: a write of MEM_CE_LOG_CTRL. -/
def execCeLogClear (v : Word) (s : State) : Host.Outcome State Fault Refusal := .next (writeWord 0x00300018 v s)

/-- UPS_CFG_WRITE. -/
def execUpsCfgWrite (v : Word) (s : State) : Host.Outcome State Fault Refusal := .next (writeWord 0x00A0000C v s)

/-- SEC_CTRL_WRITE. -/
def execSecCtrlWrite (v : Word) (s : State) : Host.Outcome State Fault Refusal := .next (writeWord 0x00900004 v s)

/-- LNK_CTRL_WRITE. -/
def execLnkCtrlWrite (v : Word) (s : State) : Host.Outcome State Fault Refusal := .next (writeWord 0x00400000 v s)

/-- The offset of a W1C status register. -/
def statusOffset : StatusReg → Nat
  | .que q => 0x00010004 + 64 * q.val
  | .seq => 0x00021004
  | .tns => 0x00100004
  | .plc => 0x00200004
  | .mem => 0x00300004
  | .lnk => 0x00400004
  | .tim => 0x00500004
  | .ups => 0x00A00004
  | .pwr => 0x00600010
  | .thm => 0x00601008
  | .cnt => 0x00700010
  | .trc => 0x00780018
  | .lgr => 0x0080000C
  | .sec => 0x00900008

/-- STATUS_W1C_WRITE. -/
def execStatusW1cWrite (r : StatusReg) (v : Word) (s : State) : Host.Outcome State Fault Refusal :=
  .next (writeWord (statusOffset r) v s)

/-! ### Reads with a side effect (R9, R338) -/

/-- A register's read side effect: an RC field of which a byte is read is cleared, a 64-bit time's high word is latched. `m` says
which bytes of the word are read. -/
def readEffect (off : Nat) (m : Nat → Bool) (s : State) : State :=
  match off with
  | 0x00011008 => if m 2 || m 3 then { s with que := { s.que with peak := 0 } } else s
  | 0x00300018 => if m 1 then { s with mem := { s.mem with ceOverflow := 0 } } else s
  | 0x00500010 => { s with tim := { s.tim with nowHi := BitVec.ofNat 32 (hi32 s.tim.now) } }
  | 0x0070000C =>
    { s with cnt := { s.cnt with drops := if m 0 || m 1 then 0 else s.cnt.drops, skips := if m 2 || m 3 then 0 else s.cnt.skips } }
  | 0x00780008 => { s with trc := { s.trc with trigHi := BitVec.ofNat 32 (hi32 s.trc.trigTime) } }
  | 0x00780028 => { s with trc := { s.trc with dumpHi := BitVec.ofNat 32 (hi32 s.trc.dumpTime) } }
  | _ => s

/-- The bytes from `lo` to `hi - 1` of the word at `off`, and its side effect where its block responds. -/
def readWord (lo hi off : Nat) (s : State) : List Byte × State :=
  let m := fun (i : Nat) => decide (lo ≤ off + i ∧ off + i < hi)
  let b := leBytes 4 (s.word off).toNat
  (((List.range 4).filter m).map fun i => b.getD i 0, if s.responds off then readEffect off m s else s)

/-- `n` words from `off` on, in ascending order. -/
def readWords (lo hi : Nat) : Nat → Nat → State → List Byte × State
  | 0, _, s => ([], s)
  | n + 1, off, s =>
    let (b, s) := readWord lo hi off s
    let (c, s) := readWords lo hi n (off + 4) s
    (b ++ c, s)

/-- A read of `len` bytes of BAR0 from `off` on. -/
def readBar0 (off len : Nat) (s : State) : State :=
  if !s.powered then s
  else
    let (b, s) := readWords off (off + len) ((off + len + 3) / 4 - off / 4) (off / 4 * 4) s
    { s with out := { s.out with readData := b, readEnd := .ok } }

/-- QUE_MGMT_READ: a read of BAR0 over QUE_MGMT; PEAK is cleared. -/
def execQueMgmtRead (r : ReadSpan) (s : State) : Host.Outcome State Fault Refusal := .next (readBar0 r.off r.len s)

/-- CNT_SMP_LOSS_READ: a read over CNT_SMP_LOSS; DROPS and SKIPS are cleared, each where its bytes are read. -/
def execCntSmpLossRead (r : ReadSpan) (s : State) : Host.Outcome State Fault Refusal := .next (readBar0 r.off r.len s)

/-- MEM_CE_LOG_CTRL_READ: a read over MEM_CE_LOG_CTRL; OVERFLOW is cleared. -/
def execMemCeLogCtrlRead (r : ReadSpan) (s : State) : Host.Outcome State Fault Refusal := .next (readBar0 r.off r.len s)

/-- TIM_NOW_LO_READ: a read over TIM_NOW_LO; TIM_NOW_HI is latched. -/
def execTimNowLoRead (r : ReadSpan) (s : State) : Host.Outcome State Fault Refusal := .next (readBar0 r.off r.len s)

/-- TRC_TRIGGER_TIME_LO_READ: a read over TRC_TRIGGER_TIME_LO; its _HI is latched. -/
def execTrcTriggerTimeLoRead (r : ReadSpan) (s : State) : Host.Outcome State Fault Refusal := .next (readBar0 r.off r.len s)

/-- TRC_DUMP_TIME_LO_READ: a read over TRC_DUMP_TIME_LO; its _HI is latched. -/
def execTrcDumpTimeLoRead (r : ReadSpan) (s : State) : Host.Outcome State Fault Refusal := .next (readBar0 r.off r.len s)

end Sys2Proof.Machine
end

