-- ==== Sys2Proof/Machine/Dispatch.lean ====
section
/-! DEFINITION. The meaning of every command: one arm per row of the table, each one call of its own definition. -/

namespace Sys2Proof.Machine

def exec (i : Instr) (s : State) : Host.Outcome State Fault Refusal :=
  match i with
  | .nop q p => Sys2Proof.Machine.execNop q p s
  | .matmul q p => Sys2Proof.Machine.execMatmul q p s
  | .matmulAcc q p => Sys2Proof.Machine.execMatmulAcc q p s
  | .scalePass q p => Sys2Proof.Machine.execScalePass q p s
  | .quantStore q p => Sys2Proof.Machine.execQuantStore q p s
  | .vectorOp q p => Sys2Proof.Machine.execVectorOp q p s
  | .norm q p => Sys2Proof.Machine.execNorm q p s
  | .softmax q p => Sys2Proof.Machine.execSoftmax q p s
  | .loss q p => Sys2Proof.Machine.execLoss q p s
  | .copy q p => Sys2Proof.Machine.execCopy q p s
  | .fill q p => Sys2Proof.Machine.execFill q p s
  | .place q p => Sys2Proof.Machine.execPlace q p s
  | .release q p => Sys2Proof.Machine.execRelease q p s
  | .boundsSet q p => Sys2Proof.Machine.execBoundsSet q p s
  | .fence q p => Sys2Proof.Machine.execFence q p s
  | .waitTime q p => Sys2Proof.Machine.execWaitTime q p s
  | .signal q p => Sys2Proof.Machine.execSignal q p s
  | .bundleSend q p => Sys2Proof.Machine.execBundleSend q p s
  | .bundleReduce q p => Sys2Proof.Machine.execBundleReduce q p s
  | .bundleBroadcast q p => Sys2Proof.Machine.execBundleBroadcast q p s
  | .update q p => Sys2Proof.Machine.execUpdate q p s
  | .commit q p => Sys2Proof.Machine.execCommit q p s
  | .ckptDrain q p => Sys2Proof.Machine.execCkptDrain q p s
  | .rollback q p => Sys2Proof.Machine.execRollback q p s
  | .roundRecord q p => Sys2Proof.Machine.execRoundRecord q p s
  | .joinDomain q p => Sys2Proof.Machine.execJoinDomain q p s
  | .assignSpare q p => Sys2Proof.Machine.execAssignSpare q p s
  | .getHealth q p => Sys2Proof.Machine.execGetHealth q p s
  | .getTelemetry q p m => Sys2Proof.Machine.execGetTelemetry q p m s
  | .setPowerCap q p => Sys2Proof.Machine.execSetPowerCap q p s
  | .ledgerRead q p => Sys2Proof.Machine.execLedgerRead q p s
  | .marginScan q p => Sys2Proof.Machine.execMarginScan q p s
  | .counterCfg q p => Sys2Proof.Machine.execCounterCfg q p s
  | .samplerCfg q p => Sys2Proof.Machine.execSamplerCfg q p s
  | .traceArm q p => Sys2Proof.Machine.execTraceArm q p s
  | .traceRead q p => Sys2Proof.Machine.execTraceRead q p s
  | .roleSession q p => Sys2Proof.Machine.execRoleSession q p s
  | .fwStage q p => Sys2Proof.Machine.execFwStage q p s
  | .scheduleSet q p => Sys2Proof.Machine.execScheduleSet q p s
  | .dumpRead q p => Sys2Proof.Machine.execDumpRead q p s
  | .makerDiag q p => Sys2Proof.Machine.execMakerDiag q p s
  | .commandComplete q ordinal => Sys2Proof.Machine.execCommandComplete q ordinal s
  | .msixHoldoffEnd v => Sys2Proof.Machine.execMsixHoldoffEnd v s
  | .sqDoorbell q v => Sys2Proof.Machine.execSqDoorbell q v s
  | .cqDoorbell q v => Sys2Proof.Machine.execCqDoorbell q v s
  | .queCtrlWrite q v => Sys2Proof.Machine.execQueCtrlWrite q v s
  | .queTokenSet v => Sys2Proof.Machine.execQueTokenSet v s
  | .queTokenClear v => Sys2Proof.Machine.execQueTokenClear v s
  | .queMgmtRead r => Sys2Proof.Machine.execQueMgmtRead r s
  | .plcDescSelWrite v => Sys2Proof.Machine.execPlcDescSelWrite v s
  | .cntPeekSelWrite v => Sys2Proof.Machine.execCntPeekSelWrite v s
  | .cntSmpLossRead r => Sys2Proof.Machine.execCntSmpLossRead r s
  | .memCeLogCtrlRead r => Sys2Proof.Machine.execMemCeLogCtrlRead r s
  | .ceLogClear v => Sys2Proof.Machine.execCeLogClear v s
  | .timNowLoRead r => Sys2Proof.Machine.execTimNowLoRead r s
  | .trcTriggerTimeLoRead r => Sys2Proof.Machine.execTrcTriggerTimeLoRead r s
  | .trcDumpTimeLoRead r => Sys2Proof.Machine.execTrcDumpTimeLoRead r s
  | .statusW1cWrite r v => Sys2Proof.Machine.execStatusW1cWrite r v s
  | .upsCfgWrite v => Sys2Proof.Machine.execUpsCfgWrite v s
  | .secCtrlWrite v => Sys2Proof.Machine.execSecCtrlWrite v s
  | .lnkCtrlWrite v => Sys2Proof.Machine.execLnkCtrlWrite v s
  | .coldReset v => Sys2Proof.Machine.execColdReset v s
  | .warmReset v => Sys2Proof.Machine.execWarmReset v s
  | .warmResetQuiesced => Sys2Proof.Machine.execWarmResetQuiesced s
  | .recoveryProgram v => Sys2Proof.Machine.execRecoveryProgram v s
  | .recoveryLedgerRead v => Sys2Proof.Machine.execRecoveryLedgerRead v s
  | .recoveryReseal v => Sys2Proof.Machine.execRecoveryReseal v s
  | .registerWrite off size enables v => Sys2Proof.Machine.execRegisterWrite off size enables v s
  | .bar4Read off len => Sys2Proof.Machine.execBar4Read off len s
  | .bar4Write off data => Sys2Proof.Machine.execBar4Write off data s
  | .powerOn strapA strapB vin => Sys2Proof.Machine.execPowerOn strapA strapB vin s
  | .hostRstN => Sys2Proof.Machine.execHostRstN s
  | .functionLevelReset => Sys2Proof.Machine.execFunctionLevelReset s
  | .functionLevelResetDone => Sys2Proof.Machine.execFunctionLevelResetDone s
  | .protectiveShutdown vin => Sys2Proof.Machine.execProtectiveShutdown vin s
  | .brakeAssert => Sys2Proof.Machine.execBrakeAssert s
  | .brakeRelease => Sys2Proof.Machine.execBrakeRelease s
  | .thermTrip sensor reading => Sys2Proof.Machine.execThermTrip sensor reading s
  | .sensorFault sensor => Sys2Proof.Machine.execSensorFault sensor s
  | .ppsIn => Sys2Proof.Machine.execPpsIn s
  | .ppsOut => Sys2Proof.Machine.execPpsOut s
  | .powerEvaluation r => Sys2Proof.Machine.execPowerEvaluation r s
  | .stackTemperatureRead r => Sys2Proof.Machine.execStackTemperatureRead r s
  | .scrubSlot stack => Sys2Proof.Machine.execScrubSlot stack s
  | .dieLocalisation stack line => Sys2Proof.Machine.execDieLocalisation stack line s
  | .stackInterfaceLoss stack => Sys2Proof.Machine.execStackInterfaceLoss stack s
  | .retrainEvaluation stack channel => Sys2Proof.Machine.execRetrainEvaluation stack channel s
  | .retrainWindow stack channel => Sys2Proof.Machine.execRetrainWindow stack channel s
  | .channelReturn stack repair lo hi => Sys2Proof.Machine.execChannelReturn stack repair lo hi s
  | .channelOfflineLimit stack => Sys2Proof.Machine.execChannelOfflineLimit stack s
  | .rebuildComplete stack => Sys2Proof.Machine.execRebuildComplete stack s
  | .migrationCopy => Sys2Proof.Machine.execMigrationCopy s
  | .migrationResume => Sys2Proof.Machine.execMigrationResume s
  | .releaseFree handle => Sys2Proof.Machine.execReleaseFree handle s
  | .seqWatchdog n => Sys2Proof.Machine.execSeqWatchdog n s
  | .dumpWrite stake => Sys2Proof.Machine.execDumpWrite stake s
  | .transferStart q ordinal t => Sys2Proof.Machine.execTransferStart q ordinal t s
  | .windowGraceExpiry q ordinal absent => Sys2Proof.Machine.execWindowGraceExpiry q ordinal absent s
  | .drainStart q ordinal path => Sys2Proof.Machine.execDrainStart q ordinal path s
  | .commitEffect round seats => Sys2Proof.Machine.execCommitEffect round seats s
  | .report r => Sys2Proof.Machine.execReport r s
  | .decision d => Sys2Proof.Machine.execDecision d s
  | .deputyAcknowledge => Sys2Proof.Machine.execDeputyAcknowledge s
  | .joinAccept a => Sys2Proof.Machine.execJoinAccept a s
  | .joinTimeout => Sys2Proof.Machine.execJoinTimeout s
  | .takeoverLimit => Sys2Proof.Machine.execTakeoverLimit s
  | .heartbeatPeriod w => Sys2Proof.Machine.execHeartbeatPeriod w s
  | .heartbeat h => Sys2Proof.Machine.execHeartbeat h s
  | .heartbeatAnswer a => Sys2Proof.Machine.execHeartbeatAnswer a s
  | .heartbeatMissed seat => Sys2Proof.Machine.execHeartbeatMissed seat s
  | .rimHeartbeatMissed missed => Sys2Proof.Machine.execRimHeartbeatMissed missed s
  | .sync port domain seqId => Sys2Proof.Machine.execSync port domain seqId s
  | .delayReq port id => Sys2Proof.Machine.execDelayReq port id s
  | .delayResp port id t4 => Sys2Proof.Machine.execDelayResp port id t4 s
  | .announce port domain => Sys2Proof.Machine.execAnnounce port domain s
  | .syncInterval port => Sys2Proof.Machine.execSyncInterval port s
  | .holdover => Sys2Proof.Machine.execHoldover s
  | .timeLost => Sys2Proof.Machine.execTimeLost s
  | .sampleInstance entry m => Sys2Proof.Machine.execSampleInstance entry m s
  | .windowInstance entry => Sys2Proof.Machine.execWindowInstance entry s
  | .scrubInstance entry => Sys2Proof.Machine.execScrubInstance entry s
  | .powerCapInstance entry => Sys2Proof.Machine.execPowerCapInstance entry s
  | .signalInstance entry => Sys2Proof.Machine.execSignalInstance entry s
  | .marginInstance entry => Sys2Proof.Machine.execMarginInstance entry s
  | .dataFrame port f => Sys2Proof.Machine.execDataFrame port f s
  | .ackFrame port f => Sys2Proof.Machine.execAckFrame port f s
  | .nakFrame port f => Sys2Proof.Machine.execNakFrame port f s
  | .ackTimer port mac => Sys2Proof.Machine.execAckTimer port mac s
  | .resendTimer port mac => Sys2Proof.Machine.execResendTimer port mac s
  | .linkTraining port lanes present => Sys2Proof.Machine.execLinkTraining port lanes present s
  | .upsettU1 => Sys2Proof.Machine.execUpsettU1 s
  | .upsettU2 => Sys2Proof.Machine.execUpsettU2 s
  | .upsettU3 d0 d1 => Sys2Proof.Machine.execUpsettU3 d0 d1 s
  | .upsettU4 pair lo hi => Sys2Proof.Machine.execUpsettU4 pair lo hi s
  | .upsettU5 => Sys2Proof.Machine.execUpsettU5 s
  | .upsettU6 => Sys2Proof.Machine.execUpsettU6 s
  | .stageLimit => Sys2Proof.Machine.execStageLimit s
  | .reducedService => Sys2Proof.Machine.execReducedService s
  | .traceSummaryInterval => Sys2Proof.Machine.execTraceSummaryInterval s
  | .ledgerHourly => Sys2Proof.Machine.execLedgerHourly s
  | .ledgerCompaction => Sys2Proof.Machine.execLedgerCompaction s
  | .getVersion m => Sys2Proof.Machine.execGetVersion m s
  | .getCapabilities m => Sys2Proof.Machine.execGetCapabilities m s
  | .negotiateAlgorithms m a => Sys2Proof.Machine.execNegotiateAlgorithms m a s
  | .getDigests m => Sys2Proof.Machine.execGetDigests m s
  | .getCertificate m slot => Sys2Proof.Machine.execGetCertificate m slot s
  | .challenge m slot => Sys2Proof.Machine.execChallenge m slot s
  | .getMeasurements m index => Sys2Proof.Machine.execGetMeasurements m index s
  | .keyExchange m id r => Sys2Proof.Machine.execKeyExchange m id r s
  | .finish id verified => Sys2Proof.Machine.execFinish id verified s
  | .spdmHeartbeat id => Sys2Proof.Machine.execSpdmHeartbeat id s
  | .spdmHeartbeatMissed id => Sys2Proof.Machine.execSpdmHeartbeatMissed id s
  | .keyUpdate id => Sys2Proof.Machine.execKeyUpdate id s
  | .endSession id => Sys2Proof.Machine.execEndSession id s
  | .mctpControl c => Sys2Proof.Machine.execMctpControl c s
  | .getPdrRepositoryInfo m => Sys2Proof.Machine.execGetPdrRepositoryInfo m s
  | .getPdr m record => Sys2Proof.Machine.execGetPdr m record s
  | .getSensorReading m sensor => Sys2Proof.Machine.execGetSensorReading m sensor s
  | .getStateSensorReadings m sensor => Sys2Proof.Machine.execGetStateSensorReadings m sensor s
  | .setEventReceiver m eid => Sys2Proof.Machine.execSetEventReceiver m eid s
  | .opcodeUnknown q opcode p => Sys2Proof.Machine.execOpcodeUnknown q opcode p s
  | .packetUnreadable q why => Sys2Proof.Machine.execPacketUnreadable q why s
  | .recordProgrammed => Sys2Proof.Machine.execRecordProgrammed s
  | .sessionTransportFailure id => Sys2Proof.Machine.execSessionTransportFailure id s
  | .linkPortDown port lanes => Sys2Proof.Machine.execLinkPortDown port lanes s
  | .leaveNotice seat => Sys2Proof.Machine.execLeaveNotice seat s
  | .lostNotice seat => Sys2Proof.Machine.execLostNotice seat s
  | .ckptDoneReport seat round => Sys2Proof.Machine.execCkptDoneReport seat round s
  | .followUp port id origin => Sys2Proof.Machine.execFollowUp port id origin s
  | .delayReqInterval port => Sys2Proof.Machine.execDelayReqInterval port s
  | .announceInterval port => Sys2Proof.Machine.execAnnounceInterval port s

end Sys2Proof.Machine
end

