-- ==== Sys2Proof/Machine/Firmware.lean ====
section
/-! DEFINITION. Management commands that wait for firmware to start them (R150, R214, R245, R329). -/

namespace Sys2Proof.Machine

/-- The checks and the effect of a firmware-path command, by its opcode; `m` is what GET_TELEMETRY brought. -/
def firmwarePlan (c : InFlight) (m : Option RailMeans) : Cmd Plan :=
  let p := c.packet
  match c.opcode with
  | 0x80 => planHealth p
  | 0x81 => planTelemetry p (m.getD { input := 0, rails := [] })
  | 0x82 => planPowerCap p c
  | 0x84 => planLedgerRead p
  | 0x86 => planMarginScan p c
  | 0x88 => planCounterCfg p
  | 0x89 => planSamplerCfg p
  | 0x8A => planTraceArm p
  | 0x8B => planTraceRead p
  | 0x90 => planRoleSession p c
  | 0x92 => planFwStage p c
  | 0x94 => planScheduleSet p c
  | 0xC0 => planDumpRead p
  | _ => planMakerDiag p c

/-- The command that firmware takes out of the management queue to start. -/
def starting (n : Option Nat) (s : State) : State := { s with seq := { s.seq with starting := n } }

/-- A command that waits in the management queue starts. -/
def startQueuedAs (c : InFlight) (m : Option RailMeans) (s : State) : State :=
  unlessOver (fun s => starting none (startF { c with wait := .done, progress := s.tim.now } (firmwarePlan c m)
    (starting (some c.id) (dropInflight c.id s)))) s

/-- Firmware starts the command that has waited longest, where nothing keeps it back. One at a time: when, is the model's choice (DESIGN
CHOICE, log 44). -/
def startQueued (s : State) : State :=
  match s.flight.find? fun c => c.wait.isQueued with
  | none => s
  | some c =>
    match c.wait with
    | .queued m =>
      if !s.clocked || (s.seq.frozen && !runsFrozen c.opcode) || !s.mayStart c || stalled c.id (firmwarePlan c m) s then s
      else startQueuedAs c m s
    | _ => s

end Sys2Proof.Machine
end

