-- ==== Sys2Proof/Machine/Idle.lean ====
section
/-! DEFINITION. What the module does when no command waits: a nanosecond passes. -/

namespace Sys2Proof.Machine

/-- Rim time advances by one nanosecond (R254, R278); while it slews, at most one nanosecond in each 10,000 is counted twice or not at
all, until the offset is worked off, and within 50 ns of it the device is LOCKED (R255). -/
def tickTime (s : State) : State :=
  let t := s.tim
  let turn := t.slew ≠ 0 && (t.time == .slewing || t.time == .locked) && (t.now : Int) % 10000 == (-t.slew) % 10000
  let (d, slew) : Nat × Int := if !turn then (1, t.slew) else if 0 < t.slew then (2, t.slew - 1) else (0, t.slew + 1)
  { s with tim := { t with now := (t.now + d) % 2 ^ 64, slew,
                           time := if t.time == .slewing && slew.natAbs ≤ 50 then .locked else t.time } }

/-- An event that is pending for an SMBus receiver is sent (R343). When, is the model's choice: DESIGN CHOICE, log 30. -/
def deliverEvent (s : State) : State :=
  match s.mctp.events, s.mctp.receiver with
  | e :: t, some (m, eid) =>
    { s with out := { s.out with sent := s.out.sent ++ [.event m eid e] }, mctp := { s.mctp with events := t, alert := !t.isEmpty } }
  | _, _ => s

/-- Rim time moves on while the module is powered; a module without power keeps its state. With the clocks running, what needs no
command of its own goes on: waits for rim time end, a migration copies a line, U5 exits, firmware starts a command, an event goes out.
DESIGN CHOICE, log 1. -/
def idle (s : State) : State :=
  match s.pins.power with
  | .off => s
  | .tripped => tickTime s
  | .on => deliverEvent (startQueued (noteExit (copyNext (wake (tickTime s)))))

end Sys2Proof.Machine
end

