-- ==== Sys2Proof/Safety.lean ====
section
/-! DEFINITION. What a run is held to: every step answers a next state, the registers that software sets hold only what their
tables let latch, nothing but software and resets changes them, and the memories stay in canonical form; and when a packet
command succeeds. -/

namespace Sys2Proof.Machine

/-- The step answers a next state. -/
def Runs (s : State) : Prop := ∃ t, step s = .next t

/-- The staged TNS_ registers but for the layers' words. -/
def TnsCfg.rest (c : TnsCfg) : TnsCfg := { c with layers := [] }

/-- The ID_ block but for what U1's link training sets (Table 12.1). -/
def IdBlock.fixed (b : IdBlock) : IdBlock := { b with speed := 0, width := 0, linkUp := false }

/-- The registers that software sets and that the device leaves to it, the fixed identity of the device, and the queue of commands. The TNS_
registers are the staged ones but for the layers' words, which a latch brings into range. Not among them are the QUE_ registers (a device that
fails disables a queue), UPS_CFG, the RS seed and SEC_CTRL (which upsett loads), the TIM_ policy (which a rim sends) and the MSI-X table
(which a function-level reset clears). -/
structure Ctl where
  pending       : List Instr
  id            : IdBlock
  wdog          : Nat
  memCtrl       : Word
  scrubInterval : Nat
  retrainThresh : Nat
  failLimit     : Nat
  plcCtrl       : Word
  migBudget     : Word
  resLimit      : Word
  retireLimit   : Word
  tnsCtrl       : Word
  layerCount    : Word
  tnsRest       : TnsCfg
  portEn        : BitVec 12
  ptpDomain     : Nat
  ptpNext       : Option Nat
  holdoff       : Nat
  apertures     : Tab Aperture
  peekSel       : Word
  upMargin      : Nat
  thmCtrl       : Word
  dumpHandle    : BitVec 32
deriving DecidableEq, Repr

def State.ctl (s : State) : Ctl where
  pending := s.pending
  id := s.id.fixed
  wdog := s.seq.wdog
  memCtrl := s.mem.ctrl
  scrubInterval := s.mem.scrubInterval
  retrainThresh := s.mem.retrainThresh
  failLimit := s.mem.failLimit
  plcCtrl := s.plc.ctrl
  migBudget := s.plc.migBudget
  resLimit := s.plc.resLimit
  retireLimit := s.plc.retireLimit
  tnsCtrl := s.tns.staged.ctrl
  layerCount := s.tns.staged.layerCount
  tnsRest := s.tns.staged.rest
  portEn := s.lnk.portEn
  ptpDomain := s.lnk.ptpDomain
  ptpNext := s.lnk.ptpNext
  holdoff := s.lnk.holdoff
  apertures := s.lnk.apertures
  peekSel := s.cnt.peekSel
  upMargin := s.pwr.upMargin
  thmCtrl := s.pwr.thmCtrl
  dumpHandle := s.trc.dumpHandle

/-- A register set whose every field holds a value that its table lets latch, and whose reserved bits are zero (R10; Tables 5.10, 5.13,
7.15, 8.7, 8.9, 9.22, 12.6, 12.7, 15.9). -/
structure Ctl.ok (c : Ctl) : Prop where
  wdog          : 100 ≤ c.wdog ∧ c.wdog < 2 ^ 24
  memCtrl       : c.memCtrl.toNat < 2 ^ 3
  scrubInterval : 500 ≤ c.scrubInterval ∧ c.scrubInterval < 2 ^ 24
  retrainThresh : 1 ≤ c.retrainThresh ∧ c.retrainThresh < 2 ^ 16
  failLimit     : 1 ≤ c.failLimit ∧ c.failLimit < 2 ^ 16
  plcCtrl       : 1 ≤ bits c.plcCtrl.toNat 11 8 ∧ 1 ≤ bits c.plcCtrl.toNat 23 16
  plcReserved   : bits c.plcCtrl.toNat 7 3 = 0 ∧ bits c.plcCtrl.toNat 15 12 = 0 ∧ bits c.plcCtrl.toNat 31 24 = 0
  migBudget     : 1 ≤ c.migBudget.toNat ∧ c.migBudget.toNat < 2 ^ 16
  resLimit      : bits c.resLimit.toNat 11 0 ≤ 2048 ∧ bits c.resLimit.toNat 15 12 = 0
  retireLimit   : 1 ≤ c.retireLimit.toNat ∧ c.retireLimit.toNat < 2 ^ 8
  shadowRate    : 4 ≤ bits c.tnsCtrl.toNat 11 8 ∧ bits c.tnsCtrl.toNat 11 8 ≤ 12
  layerCount    : 1 ≤ bits c.layerCount.toNat 12 0 ∧ bits c.layerCount.toNat 12 0 ≤ 4096
  ptpDomain     : c.ptpDomain ≤ 127
  ptpNext       : ∀ d, c.ptpNext = some d → d ≤ 127
  holdoff       : c.holdoff < 2 ^ 16
  upMargin      : 1 ≤ c.upMargin ∧ c.upMargin < 2 ^ 8
  thmLimit      : 85 ≤ bits c.thmCtrl.toNat 7 0 ∧ bits c.thmCtrl.toNat 7 0 ≤ 105
  thmHbmLimit   : 85 ≤ bits c.thmCtrl.toNat 15 8 ∧ bits c.thmCtrl.toNat 15 8 ≤ 100
  thmReserved   : c.thmCtrl.toNat < 2 ^ 16

/-- The commands that may change a register that software sets: writes of BAR0, resets, a scrub interval that a schedule entry
sets, a PTP domain that takes effect, and a ledger record that a reset waits for. -/
def setsRegisters (i : Instr) : Bool :=
  match i with
  | .registerWrite _ _ _ _ | .plcDescSelWrite _ | .cntPeekSelWrite _ | .ceLogClear _ | .queCtrlWrite _ _ | .queTokenSet _
  | .queTokenClear _ | .statusW1cWrite _ _ | .upsCfgWrite _ | .secCtrlWrite _ | .lnkCtrlWrite _ | .coldReset _ | .warmReset _
  | .warmResetQuiesced | .recoveryProgram _ | .recoveryLedgerRead _ | .recoveryReseal _ | .powerOn _ _ _ | .hostRstN
  | .protectiveShutdown _ | .scrubInstance _ | .syncInterval _ | .recordProgrammed => true
  | _ => false

/-! ### Queues -/

/-- Every index of a queue lies inside its ring (R190, R191). -/
def Queue.inRings (v : Queue) : Prop := v.sqHead < v.sqSize ∧ v.sqTail < v.sqSize ∧ v.cqTail < v.cqSize ∧ v.cqHead < v.cqSize

/-- Every queue's indices lie inside its rings, and the management queue holds at most 256 commands (R190, R213). -/
def State.queuesOk (s : State) : Prop := (∀ q, (s.queue q).inRings) ∧ s.mgmtDepth ≤ 256

/-! ### Memories -/

/-- The bytes of the stores and of host memory. -/
def State.bytes (s : State) : List Host.Cell × List Host.Cell := (s.store.cells, s.out.memory)

/-- Both memories are in canonical form. -/
def State.canonical (s : State) : Bool := Memory.wf s.bytes.1 && Memory.wf s.bytes.2

/-! ### What has been sent -/

/-- What the CONTROL frames sent so far say, oldest first (R346). -/
def State.told (s : State) : List Control := s.out.sent.filterMap fun e => match e with
  | .control _ _ w => some w
  | _ => none

/-- A CONTROL frame whose header names a seat in DST_SEAT (Tables 15.2 and 15.3) has told it something. -/
def State.toldSeat (s : State) (seat : Nat) (what : Control) : Prop :=
  ∃ p b, Sent.control p b what ∈ s.out.sent ∧ field b 18 2 = seat % 65536

/-! ### Status registers (R301) -/

/-- The status group of a W1C register. -/
def State.status (s : State) (r : StatusReg) : Status :=
  match r with
  | .que q => (s.queue q).status
  | .seq => s.seq.status
  | .tns => s.tns.status
  | .plc => s.plc.status
  | .mem => s.mem.status
  | .lnk => s.lnk.status
  | .tim => s.tim.status
  | .ups => s.ups.status
  | .pwr => s.pwr.pwrStatus
  | .thm => s.pwr.thmStatus
  | .cnt => s.cnt.status
  | .trc => s.trc.status
  | .lgr => s.lgr.status
  | .sec => s.sec.status

/-- The state with another status group. -/
def State.setStatus (s : State) (r : StatusReg) (v : Status) : State :=
  match r with
  | .que q => s.setQueue q { s.queue q with status := v }
  | .seq => { s with seq := { s.seq with status := v } }
  | .tns => { s with tns := { s.tns with status := v } }
  | .plc => { s with plc := { s.plc with status := v } }
  | .mem => { s with mem := { s.mem with status := v } }
  | .lnk => { s with lnk := { s.lnk with status := v } }
  | .tim => { s with tim := { s.tim with status := v } }
  | .ups => { s with ups := { s.ups with status := v } }
  | .pwr => { s with pwr := { s.pwr with pwrStatus := v } }
  | .thm => { s with pwr := { s.pwr with thmStatus := v } }
  | .cnt => { s with cnt := { s.cnt with status := v } }
  | .trc => { s with trc := { s.trc with status := v } }
  | .lgr => { s with lgr := { s.lgr with status := v } }
  | .sec => { s with sec := { s.sec with status := v } }

/-- The W1C bits that a write selects, in the order of the group. -/
def statusSelect (r : StatusReg) (v : Word) : Nat :=
  match r with
  | .que _ => bits v.toNat 5 2
  | .tns | .cnt => v.toNat % 4
  | .plc | .pwr | .thm | .lgr => v.toNat % 8
  | .lnk => v.toNat % 32
  | _ => v.toNat % 16

/-! ### Packet commands that succeed -/

/-- A packet command as it stands in flight after its effect has ended with `r`. -/
def inFlightAs (c : InFlight) (pl : Plan) (r : Res) : InFlight :=
  { c with names := pl.names, writes := pl.writes, regions := pl.outs, wait := r.wait, status := BitVec.ofNat 16 r.status,
           detail := BitVec.ofNat 64 r.detail, rewoven := r.rewoven, stats := r.stats }

/-- The state in which a planned command runs: the write generations of the handles that it writes have moved on (R83), and it
is in flight. -/
def running (c : InFlight) (pl : Plan) (s : State) : State :=
  launch { c with names := pl.names, writes := pl.writes, regions := pl.outs } (pl.writes.foldl (fun s h => advanceGen h s) s)

/-- The state after the command's issue: in flight until what it waits for has come about, or complete where it completes at its
issue. -/
def issued (c : InFlight) (pl : Plan) (r : Res) (v : State) : State :=
  if pl.atIssue then complete (inFlightAs c pl r) v else setInflight c.id (fun _ => inFlightAs c pl r) v

/-- In `s`, in which no write is held back, `f` makes no write that a full retrain journal holds (R150). -/
def State.lets (s : State) (f : State → State) : Prop := s.mem.journalOver = false ∧ (f s).mem.journalOver = false

/-- The state with no write held back by a full retrain journal so far (R150). -/
def State.unheld (s : State) : State := { s with mem := { s.mem with journalOver := false } }

/-- A path-S packet issues (R197), passes the checks that every opcode has (R196) and its own, which plan `pl`, and its effect
ends with `r` in state `v`, with no write that a full retrain journal holds. -/
def SucceedsS (q : Fin 64) (op : Nat) (p : Packet) (plan : Cmd Plan) (s : State) (pl : Plan) (r : Res) (v : State) : Prop :=
  gate q op p s = true ∧ stalled s.nextId plan s = false ∧ sequencerChecks q op ((opInfo op).getD ⟨false, 1, false⟩) p s = none ∧
  (∃ u, plan.run (acting p.layerId (takeHead q op p true s.unheld)) = .ok pl u ∧
    pl.run.run (running (fresh q op p false s) pl (abandonHolding s.nextId pl.writes u)) = .ok r v) ∧
  (issued (fresh q op p false s) pl r v).mem.journalOver = false

/-- The management queue takes one more command: COMMANDS and PEAK count it (R213, Table 9.11). -/
def handedOff (s : State) : State :=
  let s := count 4 0 6 1 s
  { s with que := { s.que with peak := Max.max s.que.peak (s.mgmtDepth + 1) } }

/-- The same for a packet of the firmware path, which no drain under STALL holds in its ring (R245), whose hand-off needs a place in
the management queue (R213), and which firmware may start at once (R214), reading its handle table (R163). -/
def SucceedsF (q : Fin 64) (op : Nat) (p : Packet) (plan : InFlight → Cmd Plan) (s : State) (pl : Plan) (r : Res) (v : State) :
    Prop :=
  gate q op p s = true ∧ sequencerChecks q op ((opInfo op).getD ⟨true, 1, true⟩) p s = none ∧ s.mgmtDepth < 256 ∧
  drainStalls s.nextId (plan (fresh q op p true s)) (takeHead q op p false s) = false ∧
  (handedOff (takeHead q op p false s)).mayStart (fresh q op p true s) = true ∧
  stalled s.nextId (plan (fresh q op p true s)) (handedOff (takeHead q op p false s)) = false ∧
  (∃ u, (readHandle useQueue >>= fun _ => plan (fresh q op p true s)).run (acting p.layerId (handedOff (takeHead q op p false s)).unheld) = .ok pl u ∧
    pl.run.run (running (fresh q op p true s) pl (abandonHolding s.nextId pl.writes u)) = .ok r v) ∧
  (issued (fresh q op p true s) pl r v).mem.journalOver = false

/-! ### Arithmetic -/

/-- A code's value differs from the magnitude n/d × 2^e, with its sign, by half a unit or less of the last place that the magnitude has in
the format (R39, R40). -/
def Flt.nearest (f : Flt) (code : Nat) (neg : Bool) (n d : Nat) (e : Int) : Prop :=
  (((((decodeFlt f code).mul (.fin d 0)).sub (.fin (signed neg n) e)).abs.scale 1).le
    (.fin d (lastPlace (f.fbits + 1) f.emin n d e))) = true

/-- A result that Table 2.11 bounds to `ulps` ulp of FP32: within the bound, or the reference rounded; one beyond FP32, or no number, stays
as it is. -/
def boundedBy (ulps : Nat) (v ref : Num) : Prop :=
  withinUlps fltFp32 ulps v ref = true ∨ (v = f32 (toF32 ref) ∧ v.isFin = true) ∨ (v = ref ∧ (f32 (toF32 ref)).isFin = false)

/-- `top` is the largest magnitude of a list, 0 of one without a non-zero value. -/
def largest (l : List Num) (top : Num) : Prop :=
  (∀ y ∈ l, y.abs.le top = true) ∧ (top.isZero = true ∨ ∃ y ∈ l, top = y.abs)

/-- `e` is the block scale, biased by 127 and less `emax`, of a largest magnitude: 0 for 0, else its power of two, within 0 to 254 (R36,
R78). -/
def scaleOf (emax : Int) (top : Num) (e : Nat) : Prop :=
  e ≤ 254 ∧ (top.isZero = true → e = 0) ∧ (top.isZero = false →
    (0 < e → (Num.fin 1 (e - 127 + emax)).le top = true) ∧ (e < 254 → top.lt (.fin 1 (e - 126 + emax)) = true))

/-! ### Resets -/

/-- `t` is `s` after a cold reset with LAST_RESET `last`: stage U0 is entered on the cold path, every block is at its reset values,
every memory and every table is empty, and only what Table 12.4 keeps is kept (R290). The end of sessions is an event that waits for vector 64
to be unmasked (R342). -/
structure ColdStart (last : Nat) (s t : State) : Prop where
  ups     : t.ups = { lastReset := last }
  que     : t.que = {}
  seq     : t.seq = {}
  flight  : t.flight = []
  store   : t.store = {}
  mem     : t.mem = {}
  tns     : t.tns = {}
  coil    : t.coil = []
  tim     : t.tim = {}
  rim     : t.rim = {}
  sched   : t.sched = []
  lnk     : t.lnk = { ({} : Lnk) with msixPending := if s.que.queues.any fun e => e.2.binding.isSome then [64] else [] }
  cnt     : t.cnt = {}
  trc     : t.trc = {}
  mctp    : t.mctp = {}
  map     : t.plc.map = []
  cap     : t.pwr.cap = s.ceiling
  brake   : t.pwr.brake = s.pwr.brake
  keys    : t.sec.installer = s.sec.installer ∧ t.sec.operators = s.sec.operators ∧ t.sec.keygen = s.sec.keygen
  fuses   : t.sec.rootHashes = s.sec.rootHashes ∧ t.sec.revoked = s.sec.revoked ∧ t.sec.fusedSvn = s.sec.fusedSvn
  images  : t.sec.imageA = s.sec.imageA ∧ t.sec.imageB = s.sec.imageB ∧ t.sec.next = s.sec.next
  ledger  : t.lgr.journal = s.lgr.journal ∧ t.lgr.slot0 = s.lgr.slot0 ∧ t.lgr.slot1 = s.lgr.slot1 ∧ t.lgr.bad = s.lgr.bad
  device  : t.id = s.id.fixed ∧ t.out = s.out

end Sys2Proof.Machine
end

