-- ==== Sys2Proof/WellFormed.lean ====
section
/-! DEFINITION. When a command is one that the module's surroundings can bring: packets of 64 bytes, samples in the numbers the
spec gives, frames with their header, seats below 4,096. -/

namespace Sys2Proof

/-- Bytes 16 to 63 of a packet (Table 9.1). -/
def Packet.wf (p : Packet) : Bool := p.params.length == 48

/-- 16 rails (Table 13.7). -/
def RailMeans.wf (m : RailMeans) : Bool := m.rails.length == 16

/-- Ten samples of input power and 112 junction sensors (R285, R288). -/
def PowerReading.wf (r : PowerReading) : Bool := r.samples.length == 10 && r.junction.length == 112

/-- A frame's 32-byte header and its whole strands (R346). -/
def Frame.wf (f : Frame) : Bool := f.header.length == 32 && f.payload.length % 512 == 0 && f.payload.length ≤ 8192

/-- A seat of a domain (R249). -/
def seatWf (n : Nat) : Bool := n < 4096

def Transfer.wf (t : Transfer) : Bool :=
  match t with
  | .reduce leaves => leaves.all fun l => l.slot.all fun b => b.length != 0
  | .broadcast _ _ _ len bytes => bytes.length == len
  | .send _ _ _ => true
  | .peerLost => true
  | .linkIntegrity _ => true

/-- Coordinates below 2^528, as a key block carries them (R321). -/
def PubKey.wf (k : PubKey) : Bool := k.x < 2 ^ 528 && k.y < 2 ^ 528

def Requester.wf (r : Requester) : Bool :=
  match r with
  | .key k => k.wf
  | .maker k => k.wf
  | .anonymous => true

def JoinAccept.wf (a : JoinAccept) : Bool :=
  match a with
  | .asRim _ _ _ ports _ => ports.length == 12
  | .asMember seat _ _ _ _ _ ptp macs => seatWf seat && ptp.length == 12 && macs.all fun e => seatWf e.1

/-- A PTP message's domainNumber has 8 bits and its sequenceId 16. -/
def PtpId.wf (i : PtpId) : Bool := i.domain < 256 && i.seqId < 65536

/-- A read of BAR0: 1 to 64 bytes of its 16 MiB (R337, R338). -/
def readWf (off len : Nat) : Bool := 1 ≤ len && len ≤ 64 && off + len ≤ 2 ^ 24

/-- Opcodes of Table 9.6. -/
def listedOpcodes : List Nat :=
  [0x00, 0x01, 0x02, 0x03, 0x04, 0x08, 0x09, 0x0A, 0x0B, 0x10, 0x11, 0x12, 0x13, 0x14, 0x20, 0x21, 0x22, 0x40, 0x41, 0x42, 0x48,
    0x49, 0x4A, 0x4B, 0x4C, 0x50, 0x51, 0x80, 0x81, 0x82, 0x84, 0x86, 0x88, 0x89, 0x8A, 0x8B, 0x90, 0x92, 0x94, 0xC0, 0xC8]

/-- The queue, the opcode and the packet of a command that a sequencer reads from a ring (R189, Tables 9.1 and 9.6). -/
def Instr.packet : Instr → Option (Fin 64 × Nat × Packet)
  | .nop q p => some (q, 0x00, p)
  | .matmul q p => some (q, 0x01, p)
  | .matmulAcc q p => some (q, 0x02, p)
  | .scalePass q p => some (q, 0x03, p)
  | .quantStore q p => some (q, 0x04, p)
  | .vectorOp q p => some (q, 0x08, p)
  | .norm q p => some (q, 0x09, p)
  | .softmax q p => some (q, 0x0A, p)
  | .loss q p => some (q, 0x0B, p)
  | .copy q p => some (q, 0x10, p)
  | .fill q p => some (q, 0x11, p)
  | .place q p => some (q, 0x12, p)
  | .release q p => some (q, 0x13, p)
  | .boundsSet q p => some (q, 0x14, p)
  | .fence q p => some (q, 0x20, p)
  | .waitTime q p => some (q, 0x21, p)
  | .signal q p => some (q, 0x22, p)
  | .bundleSend q p => some (q, 0x40, p)
  | .bundleReduce q p => some (q, 0x41, p)
  | .bundleBroadcast q p => some (q, 0x42, p)
  | .update q p => some (q, 0x48, p)
  | .commit q p => some (q, 0x49, p)
  | .ckptDrain q p => some (q, 0x4A, p)
  | .rollback q p => some (q, 0x4B, p)
  | .roundRecord q p => some (q, 0x4C, p)
  | .joinDomain q p => some (q, 0x50, p)
  | .assignSpare q p => some (q, 0x51, p)
  | .getHealth q p => some (q, 0x80, p)
  | .getTelemetry q p _ => some (q, 0x81, p)
  | .setPowerCap q p => some (q, 0x82, p)
  | .ledgerRead q p => some (q, 0x84, p)
  | .marginScan q p => some (q, 0x86, p)
  | .counterCfg q p => some (q, 0x88, p)
  | .samplerCfg q p => some (q, 0x89, p)
  | .traceArm q p => some (q, 0x8A, p)
  | .traceRead q p => some (q, 0x8B, p)
  | .roleSession q p => some (q, 0x90, p)
  | .fwStage q p => some (q, 0x92, p)
  | .scheduleSet q p => some (q, 0x94, p)
  | .dumpRead q p => some (q, 0xC0, p)
  | .makerDiag q p => some (q, 0xC8, p)
  | .commandComplete _ _ => none
  | .msixHoldoffEnd _ => none
  | .sqDoorbell _ _ => none
  | .cqDoorbell _ _ => none
  | .queCtrlWrite _ _ => none
  | .queTokenSet _ => none
  | .queTokenClear _ => none
  | .queMgmtRead _ => none
  | .plcDescSelWrite _ => none
  | .cntPeekSelWrite _ => none
  | .cntSmpLossRead _ => none
  | .memCeLogCtrlRead _ => none
  | .ceLogClear _ => none
  | .timNowLoRead _ => none
  | .trcTriggerTimeLoRead _ => none
  | .trcDumpTimeLoRead _ => none
  | .statusW1cWrite _ _ => none
  | .upsCfgWrite _ => none
  | .secCtrlWrite _ => none
  | .lnkCtrlWrite _ => none
  | .coldReset _ => none
  | .warmReset _ => none
  | .warmResetQuiesced => none
  | .recoveryProgram _ => none
  | .recoveryLedgerRead _ => none
  | .recoveryReseal _ => none
  | .registerWrite _ _ _ _ => none
  | .bar4Read _ _ => none
  | .bar4Write _ _ => none
  | .powerOn _ _ _ => none
  | .hostRstN => none
  | .functionLevelReset => none
  | .functionLevelResetDone => none
  | .protectiveShutdown _ => none
  | .brakeAssert => none
  | .brakeRelease => none
  | .thermTrip _ _ => none
  | .sensorFault _ => none
  | .ppsIn => none
  | .ppsOut => none
  | .powerEvaluation _ => none
  | .stackTemperatureRead _ => none
  | .scrubSlot _ => none
  | .dieLocalisation _ _ => none
  | .stackInterfaceLoss _ => none
  | .retrainEvaluation _ _ => none
  | .retrainWindow _ _ => none
  | .channelReturn _ _ _ _ => none
  | .channelOfflineLimit _ => none
  | .rebuildComplete _ => none
  | .migrationCopy => none
  | .migrationResume => none
  | .releaseFree _ => none
  | .seqWatchdog _ => none
  | .dumpWrite _ => none
  | .transferStart _ _ _ => none
  | .windowGraceExpiry _ _ _ => none
  | .drainStart _ _ _ => none
  | .commitEffect _ _ => none
  | .report _ => none
  | .decision _ => none
  | .deputyAcknowledge => none
  | .joinAccept _ => none
  | .joinTimeout => none
  | .takeoverLimit => none
  | .heartbeatPeriod _ => none
  | .heartbeat _ => none
  | .heartbeatAnswer _ => none
  | .heartbeatMissed _ => none
  | .rimHeartbeatMissed _ => none
  | .sync _ _ _ => none
  | .delayReq _ _ => none
  | .delayResp _ _ _ => none
  | .announce _ _ => none
  | .syncInterval _ => none
  | .holdover => none
  | .timeLost => none
  | .sampleInstance _ _ => none
  | .windowInstance _ => none
  | .scrubInstance _ => none
  | .powerCapInstance _ => none
  | .signalInstance _ => none
  | .marginInstance _ => none
  | .dataFrame _ _ => none
  | .ackFrame _ _ => none
  | .nakFrame _ _ => none
  | .ackTimer _ _ => none
  | .resendTimer _ _ => none
  | .linkTraining _ _ _ => none
  | .upsettU1 => none
  | .upsettU2 => none
  | .upsettU3 _ _ => none
  | .upsettU4 _ _ _ => none
  | .upsettU5 => none
  | .upsettU6 => none
  | .stageLimit => none
  | .reducedService => none
  | .traceSummaryInterval => none
  | .ledgerHourly => none
  | .ledgerCompaction => none
  | .getVersion _ => none
  | .getCapabilities _ => none
  | .negotiateAlgorithms _ _ => none
  | .getDigests _ => none
  | .getCertificate _ _ => none
  | .challenge _ _ => none
  | .getMeasurements _ _ => none
  | .keyExchange _ _ _ => none
  | .finish _ _ => none
  | .spdmHeartbeat _ => none
  | .spdmHeartbeatMissed _ => none
  | .keyUpdate _ => none
  | .endSession _ => none
  | .mctpControl _ => none
  | .getPdrRepositoryInfo _ => none
  | .getPdr _ _ => none
  | .getSensorReading _ _ => none
  | .getStateSensorReadings _ _ => none
  | .setEventReceiver _ _ => none
  | .opcodeUnknown q opcode p => some (q, opcode.toNat, p)
  | .packetUnreadable _ _ => none
  | .recordProgrammed => none
  | .sessionTransportFailure _ => none
  | .linkPortDown _ _ => none
  | .leaveNotice _ => none
  | .lostNotice _ => none
  | .ckptDoneReport _ _ => none
  | .followUp _ _ _ => none
  | .delayReqInterval _ => none
  | .announceInterval _ => none

/-- A command that the surroundings can bring. -/
def Instr.wf : Instr → Bool
  | .nop _ p => p.wf
  | .matmul _ p => p.wf
  | .matmulAcc _ p => p.wf
  | .scalePass _ p => p.wf
  | .quantStore _ p => p.wf
  | .vectorOp _ p => p.wf
  | .norm _ p => p.wf
  | .softmax _ p => p.wf
  | .loss _ p => p.wf
  | .copy _ p => p.wf
  | .fill _ p => p.wf
  | .place _ p => p.wf
  | .release _ p => p.wf
  | .boundsSet _ p => p.wf
  | .fence _ p => p.wf
  | .waitTime _ p => p.wf
  | .signal _ p => p.wf
  | .bundleSend _ p => p.wf
  | .bundleReduce _ p => p.wf
  | .bundleBroadcast _ p => p.wf
  | .update _ p => p.wf
  | .commit _ p => p.wf
  | .ckptDrain _ p => p.wf
  | .rollback _ p => p.wf
  | .roundRecord _ p => p.wf
  | .joinDomain _ p => p.wf
  | .assignSpare _ p => p.wf
  | .getHealth _ p => p.wf
  | .getTelemetry _ p m => p.wf && m.wf
  | .setPowerCap _ p => p.wf
  | .ledgerRead _ p => p.wf
  | .marginScan _ p => p.wf
  | .counterCfg _ p => p.wf
  | .samplerCfg _ p => p.wf
  | .traceArm _ p => p.wf
  | .traceRead _ p => p.wf
  | .roleSession _ p => p.wf
  | .fwStage _ p => p.wf
  | .scheduleSet _ p => p.wf
  | .dumpRead _ p => p.wf
  | .makerDiag _ p => p.wf
  | .commandComplete _ _ => true
  | .msixHoldoffEnd _ => true
  | .sqDoorbell _ _ => true
  | .cqDoorbell _ _ => true
  | .queCtrlWrite _ _ => true
  | .queTokenSet _ => true
  | .queTokenClear _ => true
  | .queMgmtRead r => readWf r.off r.len
  | .plcDescSelWrite _ => true
  | .cntPeekSelWrite _ => true
  | .cntSmpLossRead r => readWf r.off r.len
  | .memCeLogCtrlRead r => readWf r.off r.len
  | .ceLogClear _ => true
  | .timNowLoRead r => readWf r.off r.len
  | .trcTriggerTimeLoRead r => readWf r.off r.len
  | .trcDumpTimeLoRead r => readWf r.off r.len
  | .statusW1cWrite _ _ => true
  | .upsCfgWrite _ => true
  | .secCtrlWrite _ => true
  | .lnkCtrlWrite _ => true
  | .coldReset _ => true
  | .warmReset _ => true
  | .warmResetQuiesced => true
  | .recoveryProgram _ => true
  | .recoveryLedgerRead _ => true
  | .recoveryReseal _ => true
  | .registerWrite off _ _ _ => off < 2 ^ 24
  | .bar4Read off len => off + len ≤ 2 ^ 36
  | .bar4Write off data => off + data.length ≤ 2 ^ 36
  | .powerOn _ _ _ => true
  | .hostRstN => true
  | .functionLevelReset => true
  | .functionLevelResetDone => true
  | .protectiveShutdown _ => true
  | .brakeAssert => true
  | .brakeRelease => true
  | .thermTrip _ _ => true
  | .sensorFault _ => true
  | .ppsIn => true
  | .ppsOut => true
  | .powerEvaluation r => r.wf
  | .stackTemperatureRead r => r.temps.length == 12 && r.retries.length == 12 && r.reports.length == 12
  | .scrubSlot _ => true
  | .dieLocalisation _ line => line < 46875000
  | .stackInterfaceLoss _ => true
  | .retrainEvaluation _ _ => true
  | .retrainWindow _ _ => true
  | .channelReturn _ _ _ _ => true
  | .channelOfflineLimit _ => true
  | .rebuildComplete _ => true
  | .migrationCopy => true
  | .migrationResume => true
  | .releaseFree _ => true
  | .seqWatchdog _ => true
  | .dumpWrite _ => true
  | .transferStart _ _ t => t.wf
  | .windowGraceExpiry _ _ _ => true
  | .drainStart _ _ _ => true
  | .commitEffect _ _ => true
  | .report r => seatWf r.seat
  | .decision _ => true
  | .deputyAcknowledge => true
  | .joinAccept a => a.wf
  | .joinTimeout => true
  | .takeoverLimit => true
  | .heartbeatPeriod _ => true
  | .heartbeat _ => true
  | .heartbeatAnswer a => seatWf a.seat
  | .heartbeatMissed seat => seatWf seat
  | .rimHeartbeatMissed _ => true
  | .sync _ domain seqId => PtpId.wf ⟨domain, seqId⟩
  | .delayReq _ id => id.wf
  | .delayResp _ id _ => id.wf
  | .announce _ domain => domain < 256
  | .syncInterval _ => true
  | .holdover => true
  | .timeLost => true
  | .sampleInstance _ m => m.wf
  | .windowInstance _ => true
  | .scrubInstance _ => true
  | .powerCapInstance _ => true
  | .signalInstance _ => true
  | .marginInstance _ => true
  | .dataFrame _ f => f.wf
  | .ackFrame _ f => f.wf
  | .nakFrame _ f => f.wf
  | .ackTimer _ _ => true
  | .resendTimer _ _ => true
  | .linkTraining _ _ _ => true
  | .upsettU1 => true
  | .upsettU2 => true
  | .upsettU3 _ _ => true
  | .upsettU4 _ _ _ => true
  | .upsettU5 => true
  | .upsettU6 => true
  | .stageLimit => true
  | .reducedService => true
  | .traceSummaryInterval => true
  | .ledgerHourly => true
  | .ledgerCompaction => true
  | .getVersion _ => true
  | .getCapabilities _ => true
  | .negotiateAlgorithms _ _ => true
  | .getDigests _ => true
  | .getCertificate _ _ => true
  | .challenge _ _ => true
  | .getMeasurements _ _ => true
  | .keyExchange _ _ r => r.wf
  | .finish _ _ => true
  | .spdmHeartbeat _ => true
  | .spdmHeartbeatMissed _ => true
  | .keyUpdate _ => true
  | .endSession _ => true
  | .mctpControl _ => true
  | .getPdrRepositoryInfo _ => true
  | .getPdr _ _ => true
  | .getSensorReading _ _ => true
  | .getStateSensorReadings _ _ => true
  | .setEventReceiver _ _ => true
  | .opcodeUnknown _ opcode p => p.wf && !listedOpcodes.contains opcode.toNat
  | .packetUnreadable _ _ => true
  | .recordProgrammed => true
  | .sessionTransportFailure _ => true
  | .linkPortDown _ _ => true
  | .leaveNotice seat => seatWf seat
  | .lostNotice seat => seatWf seat
  | .ckptDoneReport seat _ => seatWf seat
  | .followUp _ id _ => id.wf
  | .delayReqInterval _ => true
  | .announceInterval _ => true

end Sys2Proof
end

