-- ==== Sys2Proof/Certificates/Slice0/Obligations.lean ====
section
/-! DEFINITION. What is to be proved about the module: one statement per definition, with the rules that it follows. A statement that
rests on a choice of the model names its log entry. -/

open Sys2Proof Sys2Proof.Machine

/-! ### The module as a whole -/

/-- One step runs the command at the front of the queue on the state that holds the rest. That commands wait in a queue of the
model's own, and that one step runs one of them, is the model's choice, log 1. -/
def Obligations.StepRunsFrontCommand : Prop :=
  ∀ (c : Instr) (rest : List Instr) (s : State), s.pending = c :: rest → step s = exec c { s with pending := rest }

/-- With no command waiting: a module that is off keeps its state, and of one that has tripped only rim time moves on. So it is
with the clocks running too where nothing else can go on: no command in flight, no migration copied, no event to send, and not
in U5. Each nanosecond counts once; while rim time slews, one in 10,000 counts twice or not at all until the offset is worked
off (R255). The model's choice, log 1. -/
def Obligations.IdleMovesRimTime : Prop :=
  ∀ s : State, s.pending = [] →
    (s.pins.power = .off → step s = .next s) ∧
    (s.pins.power = .tripped → step s = .next (tickTime s)) ∧
    (s.pins.power = .on → s.flight = [] → s.plc.current = none → s.mctp.events = [] → s.ups.stage ≠ 5 → step s = .next (tickTime s)) ∧
    ∃ (k : Int) (m : TimeState), tickTime s =
      { s with tim := { s.tim with now := (s.tim.now + 1 + k).toNat % 2 ^ 64, slew := s.tim.slew - k, time := m } } ∧
      (s.tim.slew = 0 ∨ (s.tim.time ≠ .slewing ∧ s.tim.time ≠ .locked) ∨ ((s.tim.now : Int) + s.tim.slew) % 10000 ≠ 0 → k = 0) ∧
      (0 < s.tim.slew → s.tim.time = .slewing ∨ s.tim.time = .locked → ((s.tim.now : Int) + s.tim.slew) % 10000 = 0 → k = 1) ∧
      (s.tim.slew < 0 → s.tim.time = .slewing ∨ s.tim.time = .locked → ((s.tim.now : Int) + s.tim.slew) % 10000 = 0 → k = -1) ∧
      m = if s.tim.time = .slewing ∧ (s.tim.slew - k).natAbs ≤ 50 then .locked else s.tim.time

/-- No command stops the module: each answers a next state, from every state. What is refused ends with a status (R196, R203); that
every event answers a next state is a property of the model. -/
def Obligations.EveryCommandRuns : Prop :=
  ∀ (c : Instr) (s : State), ∃ t, exec c s = .next t

/-- The registers that software sets and no block changes for itself (`Ctl`: the watchdog, MEM_, PLC_, TNS_ but for the layers'
words, LNK_, TIM_'s PTP domain, PWR_ and THM_ settings, the peek selection, the dump handle) hold only what their tables let
latch, over every step, and zero in the reserved bits of MEM_CTRL, PLC_CTRL and THM_CTRL. That a register holds the latched value
from its write on is log 13. Left out are QUE_CTRL and the bases, UPS_CFG, SEC_CTRL, the RS seed, the TIM_ policy, the layers' words
and the MSI-X table, which the device writes too. -/
def Obligations.SettingsStayLegal : Prop :=
  ∀ s t : State, s.ctl.ok → step s = .next t → t.ctl.ok

/-- The reset values are legal settings (R7, the Reset columns). What State.reset is, log 2. -/
def Obligations.ResetSettingsLegal : Prop :=
  State.reset.ctl.ok

/-- No command changes the identity block but for the fields of the PCI Express link (R351, Table 15.8), which U1 sets by log 3, and
none changes the queue of the commands behind it, which is the model's own, log 1. -/
def Obligations.IdentityAndQueueKept : Prop :=
  ∀ (c : Instr) (s t : State), exec c s = .next t → t.id.fixed = s.id.fixed ∧ t.pending = s.pending

/-- The frame of every command that is no register write, no reset, no scheduled setting, no PTP interval and no ledger record:
the registers of `Ctl` are as before (Left out of `Ctl` are QUE_CTRL and the bases, UPS_CFG, SEC_CTRL, the RS seed, the TIM_
policy, the layers' words and the MSI-X table). -/
def Obligations.OnlyWritesChangeSettings : Prop :=
  ∀ (c : Instr) (s t : State), setsRegisters c = false → exec c s = .next t → t.ctl = s.ctl

/-- Every step keeps the bytes of the stores and of host memory in canonical form, the addresses rising and no byte listed that
an unlisted address reads as; and they are in it at reset. -/
def Obligations.MemoriesStayCanonical : Prop :=
  State.reset.canonical = true ∧ ∀ s t : State, s.canonical = true → step s = .next t → t.canonical = true

/-! ### Status registers, register writes and reads -/

/-- R301, the set counts of W1C bits: a hardware set sets the bit and adds one to its count up to 255; a write of 1 clears the
bit and its count and leaves the others alone; and a set that comes with such a write leaves the bit set with a count of 1. A
write of a W1C status register whose block responds clears the bits that it names, and changes nothing else, but that PLC_STATUS.SHORT is
set again while a stake is unmapped (R182, log 52). -/
def Obligations.StatusBitsCountTheirSets : Prop :=
  (∀ (st : Status) (b : Nat) (v : Nat), b < 8 →
    ((st.raise b).bits.getLsbD b = true ∧ tget 0 (st.raise b).sets b = min 255 (tget 0 st.sets b + 1)) ∧
    (∀ c, c ≠ b → c < 8 → (st.raise b).bits.getLsbD c = st.bits.getLsbD c ∧ tget 0 (st.raise b).sets c = tget 0 st.sets c) ∧
    (bit v b = true → (st.clear v).bits.getLsbD b = false ∧ tget 0 (st.clear v).sets b = 0) ∧
    (bit v b = false → (st.clear v).bits.getLsbD b = st.bits.getLsbD b ∧ tget 0 (st.clear v).sets b = tget 0 st.sets b) ∧
    (bit v b = true → ((st.clear v).raise b).bits.getLsbD b = true ∧ tget 0 ((st.clear v).raise b).sets b = 1)) ∧
  (∀ (r : StatusReg) (v : Word) (s : State), s.responds (statusOffset r) = true →
    let t := s.setStatus r ((s.status r).clear (statusSelect r v))
    exec (.statusW1cWrite r v) s = .next (if r = .plc ∧ v.getLsbD 2 = true ∧ s.anyUnmapped = true then raisePlc 2 t else t))

/-- R338, writes of BAR0: an aligned 32-bit write with all byte enables takes effect, an aligned 64-bit write acts as two, the
lower offset first, and any other write is ignored and sets BAR0_WRITE_ERR; before their block responds, registers ignore writes
(R279). -/
def Obligations.Bar0WritesByShape : Prop :=
  ∀ (off size : Nat) (enables : Bool) (v : BitVec 64) (s : State), s.powered = true → off < 2 ^ 24 →
    (size = 4 → off % 4 = 0 → enables = true →
      exec (.registerWrite off size enables v) s = .next (writeWord off (v.extractLsb' 0 32) s)) ∧
    (size = 8 → off % 8 = 0 → enables = true →
      exec (.registerWrite off size enables v) s =
        .next (writeWord (off + 4) (v.extractLsb' 32 32) (writeWord off (v.extractLsb' 0 32) s))) ∧
    (¬((size = 4 ∧ off % 4 = 0 ∧ enables = true) ∨ (size = 8 ∧ off % 8 = 0 ∧ enables = true)) →
      exec (.registerWrite off size enables v) s = .next (raiseLnk 2 s)) ∧
    (∀ o w, s.responds o = false → writeWord o w s = s)

/-- An interval, a threshold, a holdoff: registers that latch a written value into their range, each alone changed (Tables 7.15, 9.22,
15.9). That each holds the latched value from the write on is log 13. -/
def Obligations.SettingsLatchInRange : Prop :=
  ∀ (w : Word) (s : State),
    (s.responds 0x00021000 = true →
      exec (.registerWrite 0x00021000 4 true (w.setWidth 64)) s =
        .next { s with seq := { s.seq with wdog := max 100 (w.toNat % 2 ^ 24) } }) ∧
    (s.responds 0x0030000C = true →
      exec (.registerWrite 0x0030000C 4 true (w.setWidth 64)) s =
        .next { s with mem := { s.mem with scrubInterval := max 500 (w.toNat % 2 ^ 24) } }) ∧
    (s.responds 0x00300014 = true →
      exec (.registerWrite 0x00300014 4 true (w.setWidth 64)) s =
        .next { s with mem := { s.mem with failLimit := max 1 (w.toNat % 2 ^ 16) } }) ∧
    (s.responds 0x00400010 = true →
      exec (.registerWrite 0x00400010 4 true (w.setWidth 64)) s =
        .next { s with lnk := { s.lnk with holdoff := w.toNat % 65536 } })

/-- Writes with rows of their own, where their block responds: the token slots cleared, the descriptor snapshot and the
counter's value taken in the cycle of the write (R188, R317), the correctable-error table emptied (R143); and LNK_CTRL, whose
PORT_EN takes a cleared port down with PORT_DOWN and has a set port train, at once, while PTP_DOMAIN waits for the next Sync
interval (R352). -/
def Obligations.SelectWritesSnapshot : Prop :=
  ∀ (w : Word) (s : State),
    (s.responds 0x00011004 = true → exec (.queTokenClear w) s =
      .next (if w.getLsbD 0 then { s with que := { s.que with tokens := [] } } else s)) ∧
    (s.responds 0x00200100 = true → exec (.plcDescSelWrite w) s =
      .next { s with plc := { s.plc with descSel := w.toNat % 65536, descData := s.descBytes (w.toNat % 65536) true } }) ∧
    (s.responds 0x00700020 = true → exec (.cntPeekSelWrite w) s =
      .next { s with cnt := { s.cnt with peekSel := w, peek := s.counterValue w.toNat } }) ∧
    (s.responds 0x00300018 = true → exec (.ceLogClear w) s =
      .next (if w.getLsbD 31 then { s with mem := { s.mem with ceTable := [] } } else s)) ∧
    (s.responds 0x00400000 = true →
      (∃ t, exec (.lnkCtrlWrite w) s = .next t ∧ t.lnk.portEn = BitVec.ofNat 12 w.toNat ∧
        t.lnk.ptpNext = some (min 127 (w.toNat / 2 ^ 16 % 256)) ∧ t.lnk.ptpDomain = s.lnk.ptpDomain ∧
        ∀ p, p < 12 →
          (s.lnk.portEn.getLsbD p = true → bit w.toNat p = false →
            (t.port p).state = .disabled ∧ t.lnk.status.bits.getLsbD 0 = true) ∧
          (s.lnk.portEn.getLsbD p = false → bit w.toNat p = true → (t.port p).state = .training ∧ (t.port p).lanes = 0) ∧
          (s.lnk.portEn.getLsbD p = bit w.toNat p → (t.port p).state = (s.port p).state ∧ (t.port p).lanes = (s.port p).lanes)) ∧
      (BitVec.ofNat 12 w.toNat = s.lnk.portEn → exec (.lnkCtrlWrite w) s =
        .next { s with lnk := { s.lnk with ptpNext := some (min 127 (w.toNat / 2 ^ 16 % 256)) } }))

/-- R319: a write of an installer register is accepted only while some queue has an installer or maker binding. Without one it
is ignored and WRITE_DENIED is set, for UPS_RESET whatever the word; with one the register reads the written value, and a ledger
record of the action waits, with which the reset, too, takes place. When the effect comes, and what reads meanwhile, is the
model's choice, logs 13, 32 and 60. -/
def Obligations.InstallerRegisterWrites : Prop :=
  ∀ (w : Word) (s : State),
    (s.installerBinding.isSome = s.que.queues.any fun e => decide (2 ≤ e.2.role)) ∧
    (s.installerBinding = none →
      (s.responds 0x00A0000C = true → exec (.upsCfgWrite w) s = .next (raiseSec 0 s)) ∧
      (s.responds 0x00900004 = true → exec (.secCtrlWrite w) s = .next (raiseSec 0 s)) ∧
      (s.powered = true → exec (.coldReset w) s = .next (raiseSec 0 s) ∧ exec (.warmReset w) s = .next (raiseSec 0 s)) ∧
      (∀ o ∈ [0x00600004, 0x00601000, 0x00A00010, 0x00A00014, 0x00A00018], s.responds o = true → writeWord o w s = raiseSec 0 s)) ∧
    (∀ b, s.installerBinding = some b →
      (s.responds 0x00A0000C = true → exec (.upsCfgWrite w) s =
        .next (roleAction (some b) 0x10 (leBytes 4 0x00A0000C ++ leBytes 4 (w.toNat % 64)) (.upsCfg (w &&& 0x3F))
          { s with ups := { s.ups with cfg := w &&& 0x3F } })) ∧
      (s.responds 0x00900004 = true → exec (.secCtrlWrite w) s =
        .next (roleAction (some b) 0x10 (leBytes 4 0x00900004 ++ leBytes 4 (w.toNat % 2)) (.secCtrl (w &&& 1))
          { s with sec := { s.sec with ctrl := w &&& 1 } })) ∧
      (s.clocked = true → resetKind w = some false → exec (.coldReset w) s =
        .next (roleAction (some b) 0x10 (leBytes 4 0x00A00018 ++ leBytes 4 w.toNat) (.reset false) s)) ∧
      (s.clocked = true → resetKind w = some true → exec (.warmReset w) s =
        .next (roleAction (some b) 0x10 (leBytes 4 0x00A00018 ++ leBytes 4 w.toNat) (.reset true) s)) ∧
      (resetKind w ≠ some false → exec (.coldReset w) s = .next s) ∧ (resetKind w ≠ some true → exec (.warmReset w) s = .next s) ∧
      (s.responds 0x00600004 = true → writeWord 0x00600004 w s =
        roleAction (some b) 0x10 (leBytes 4 0x00600004 ++ leBytes 4 w.toNat) (.pwrCtrl w)
          { s with pwr := { s.pwr with upMargin := max 1 (w.toNat % 256) } }) ∧
      (s.responds 0x00601000 = true → writeWord 0x00601000 w s =
        roleAction (some b) 0x10 (leBytes 4 0x00601000 ++ leBytes 4 w.toNat) (.thmCtrl w)
          { s with pwr := { s.pwr with thmCtrl := clampThm (w &&& 0xFFFF) } }) ∧
      (s.responds 0x00A00010 = true → writeWord 0x00A00010 w s =
        roleAction (some b) 0x10 (leBytes 4 0x00A00010 ++ leBytes 4 w.toNat) (.rsSeedLo w)
          { s with ups := { s.ups with rsSeed := setLo s.ups.rsSeed w.toNat } }) ∧
      (s.responds 0x00A00014 = true → writeWord 0x00A00014 w s =
        roleAction (some b) 0x10 (leBytes 4 0x00A00014 ++ leBytes 4 w.toNat) (.rsSeedHi w)
          { s with ups := { s.ups with rsSeed := setHi s.ups.rsSeed w.toNat } }))

/-- Reads of BAR0 (R338): the bytes that the read names are returned, and of what it covers each register has its side effect
once, an RC field where its bytes are read; nothing else changes. A read of both words of TIM_NOW returns the whole rim time.
The rows' reads are any reads over their register, log 49. -/
def Obligations.ReadsHaveTheirSideEffect : Prop :=
  ∀ s : State,
    let reads (off len : Nat) (t : State) : State :=
      { t with out := { s.out with readData := ((leBytes 4 (s.word (off / 4 * 4)).toNat).drop (off % 4)).take len, readEnd := .ok } }
    (s.responds 0x00011008 = true →
      exec (.queMgmtRead ⟨0x00011008, 4⟩) s = .next (reads 0x00011008 4 { s with que := { s.que with peak := 0 } }) ∧
      exec (.queMgmtRead ⟨0x00011008, 2⟩) s = .next (reads 0x00011008 2 s)) ∧
    (s.responds 0x0070000C = true →
      exec (.cntSmpLossRead ⟨0x0070000C, 4⟩) s = .next (reads 0x0070000C 4 { s with cnt := { s.cnt with drops := 0, skips := 0 } }) ∧
      exec (.cntSmpLossRead ⟨0x0070000C, 2⟩) s = .next (reads 0x0070000C 2 { s with cnt := { s.cnt with drops := 0 } }) ∧
      exec (.cntSmpLossRead ⟨0x0070000E, 2⟩) s = .next (reads 0x0070000E 2 { s with cnt := { s.cnt with skips := 0 } })) ∧
    (s.responds 0x00300018 = true →
      exec (.memCeLogCtrlRead ⟨0x00300018, 4⟩) s = .next (reads 0x00300018 4 { s with mem := { s.mem with ceOverflow := 0 } })) ∧
    (s.responds 0x00500010 = true →
      exec (.timNowLoRead ⟨0x00500010, 4⟩) s =
        .next (reads 0x00500010 4 { s with tim := { s.tim with nowHi := BitVec.ofNat 32 (s.tim.now / 2 ^ 32) } }) ∧
      ∃ t, exec (.timNowLoRead ⟨0x00500010, 8⟩) s = .next t ∧ t.out.readData = leBytes 8 s.tim.now) ∧
    (s.responds 0x00780008 = true →
      exec (.trcTriggerTimeLoRead ⟨0x00780008, 4⟩) s =
        .next (reads 0x00780008 4 { s with trc := { s.trc with trigHi := BitVec.ofNat 32 (s.trc.trigTime / 2 ^ 32) } })) ∧
    (s.responds 0x00780028 = true →
      exec (.trcDumpTimeLoRead ⟨0x00780028, 4⟩) s =
        .next (reads 0x00780028 4 { s with trc := { s.trc with dumpHi := BitVec.ofNat 32 (s.trc.dumpTime / 2 ^ 32) } }))

/-! ### Queues and tokens -/

/-- R191, doorbells: an index below the ring size with bits 31:16 zero becomes the submission tail or the completion head, for a
disabled queue too; any other value is ignored and sets DB_ERR. Over every step each queue's four indices stay inside its rings, and
the management queue holds at most 256 commands (R190, R213); so it is at reset. -/
def Obligations.DoorbellsSetTheirIndex : Prop :=
  (State.reset.queuesOk ∧ ∀ s t : State, s.queuesOk → step s = .next t → t.queuesOk) ∧
  ∀ (q : Fin 64) (v : Word) (s : State), s.responds 0x00010000 = true → s.que.flr = false →
    (v.toNat < 65536 → v.toNat < (s.queue q).sqSize →
      exec (.sqDoorbell q v) s = .next (s.setQueue q { s.queue q with sqTail := v.toNat })) ∧
    (v.toNat < 65536 → v.toNat < (s.queue q).cqSize →
      exec (.cqDoorbell q v) s = .next (s.setQueue q { s.queue q with cqHead := v.toNat })) ∧
    (65536 ≤ v.toNat ∨ (s.queue q).sqSize ≤ v.toNat → exec (.sqDoorbell q v) s = .next (raiseQue q 0 s)) ∧
    (65536 ≤ v.toNat ∨ (s.queue q).cqSize ≤ v.toNat → exec (.cqDoorbell q v) s = .next (raiseQue q 0 s))

/-- R194, QUE_CTRL: a write that leaves the configuration as it is only sets ENABLE, PRIORITY and STOP_ON_ERROR; one that
changes it is ignored as a whole with CFG_REJECT where the queue is enabled or a command of it is in flight; and where the queue
is disabled and idle it is taken, the heads and tails become 0 and PHASE 1, before ENABLE. Ring sizes latch from 4 to 16, log
46. -/
def Obligations.QueueControlWrite : Prop :=
  ∀ (q : Fin 64) (w : Word) (s : State),
    s.responds (0x00010000 + 64 * q.val) = true →
    let v := s.queue q
    let c := { v with loc := bit w.toNat 1, seqr := bits w.toNat 3 2, sqLog2 := max 4 (min 16 (bits w.toNat 12 8)),
                      cqLog2 := max 4 (min 16 (bits w.toNat 20 16)) }
    (v.sameConfig c = true → exec (.queCtrlWrite q w) s =
      .next (s.setQueue q { v with enable := bit w.toNat 0, priority := bits w.toNat 5 4, stopOnError := bit w.toNat 6 })) ∧
    (v.sameConfig c = false → v.enable = true ∨ s.idleQueue q = false →
      exec (.queCtrlWrite q w) s = .next (raiseQue q 1 s)) ∧
    (v.sameConfig c = false → v.enable = false → s.idleQueue q = true → ∃ t, exec (.queCtrlWrite q w) s = .next t ∧
      t.queue q = { c with enable := bit w.toNat 0, priority := bits w.toNat 5 4, stopOnError := bit w.toNat 6,
                           sqHead := 0, sqTail := 0, cqTail := 0, cqHead := 0, phase := true } ∧
      ∀ r, r ≠ q.val → t.queue r = s.queue r)

/-- R195: a token whose slot is 0 is no token: signalling it changes nothing, and a wait on it holds; any other token carries
its slot in bits 14:0 and its phase in bit 15. -/
def Obligations.TokenZeroIsNone : Prop :=
  ∀ (w : Word) (s : State), s.responds 0x00011000 = true →
    let slot := w.toNat % 2 ^ 15
    let phase := w.getLsbD 15
    (slot = 0 → exec (.queTokenSet w) s = .next s ∧ s.holds (w.toNat % 2 ^ 16) = true) ∧
    (slot ≠ 0 → exec (.queTokenSet w) s = .next { s with que := { s.que with tokens := tset false s.que.tokens slot phase } } ∧
      s.holds (w.toNat % 2 ^ 16) = (tget false s.que.tokens slot == phase))

/-- Tokens (R198): once a token has been signalled a wait on it holds, whatever the slot held; no other slot's waits change; and
the clear makes every wait hold that asks for phase 0. -/
def Obligations.SignalledTokenHolds : Prop :=
  ∀ (w : Word) (s : State), s.responds 0x00011000 = true →
    ∃ t, exec (.queTokenSet w) s = .next t ∧ t.holds (w.toNat % 2 ^ 16) = true ∧
      (∀ x, x % 2 ^ 15 ≠ w.toNat % 2 ^ 15 → t.holds x = s.holds x) ∧
      (∃ u, exec (.queTokenClear 1) t = .next u ∧ ∀ x, x < 2 ^ 15 → u.holds x = true)

/-! ### Packet commands -/

/-- The array's and the lanes' commands: where the issue conditions and the checks pass, nothing that the command needs is held,
and the effect ends, the command has issued, its effect has taken place, and it is in flight with its result until
COMMAND_COMPLETE (R196, R197, R199). That the packet's command is its issue, and its effect takes place there, is the model's
choice, logs 54 and 55. -/
def Obligations.ComputeCommandsIssue : Prop :=
  ∀ (q : Fin 64) (p : Packet) (s : State) (pl : Plan) (r : Res) (v : State),
    (SucceedsS q 0x01 p (planMatrix q false p) s pl r v →
      exec (.matmul q p) s = .next (acting 0xFFFF (issued (fresh q 0x01 p false s) pl r v))) ∧
    (SucceedsS q 0x02 p (planMatrix q true p) s pl r v →
      exec (.matmulAcc q p) s = .next (acting 0xFFFF (issued (fresh q 0x02 p false s) pl r v))) ∧
    (SucceedsS q 0x03 p (planScalePass p) s pl r v →
      exec (.scalePass q p) s = .next (acting 0xFFFF (issued (fresh q 0x03 p false s) pl r v))) ∧
    (SucceedsS q 0x04 p (planQuantStore q p) s pl r v →
      exec (.quantStore q p) s = .next (acting 0xFFFF (issued (fresh q 0x04 p false s) pl r v))) ∧
    (SucceedsS q 0x08 p (planVectorOp q p) s pl r v →
      exec (.vectorOp q p) s = .next (acting 0xFFFF (issued (fresh q 0x08 p false s) pl r v))) ∧
    (SucceedsS q 0x09 p (planNorm q p) s pl r v →
      exec (.norm q p) s = .next (acting 0xFFFF (issued (fresh q 0x09 p false s) pl r v))) ∧
    (SucceedsS q 0x0A p (planSoftmax q p) s pl r v →
      exec (.softmax q p) s = .next (acting 0xFFFF (issued (fresh q 0x0A p false s) pl r v))) ∧
    (SucceedsS q 0x0B p (planLoss q p) s pl r v →
      exec (.loss q p) s = .next (acting 0xFFFF (issued (fresh q 0x0B p false s) pl r v)))

/-- The same for moves, the warp map and synchronisation; a command that completes at its issue is complete (R197, R199). Logs
54 and 55. -/
def Obligations.MoveCommandsIssue : Prop :=
  ∀ (q : Fin 64) (p : Packet) (s : State) (pl : Plan) (r : Res) (v : State),
    (SucceedsS q 0x00 p (planNop p) s pl r v →
      exec (.nop q p) s = .next (acting 0xFFFF (issued (fresh q 0x00 p false s) pl r v))) ∧
    (SucceedsS q 0x10 p (planCopy p) s pl r v →
      exec (.copy q p) s = .next (acting 0xFFFF (issued (fresh q 0x10 p false s) pl r v))) ∧
    (SucceedsS q 0x11 p (planFill q p) s pl r v →
      exec (.fill q p) s = .next (acting 0xFFFF (issued (fresh q 0x11 p false s) pl r v))) ∧
    (SucceedsS q 0x12 p (planPlace p) s pl r v →
      exec (.place q p) s = .next (acting 0xFFFF (issued (fresh q 0x12 p false s) pl r v))) ∧
    (SucceedsS q 0x13 p (planRelease p) s pl r v →
      exec (.release q p) s = .next (acting 0xFFFF (issued (fresh q 0x13 p false s) pl r v))) ∧
    (SucceedsS q 0x14 p (planBoundsSet q p) s pl r v →
      exec (.boundsSet q p) s = .next (acting 0xFFFF (issued (fresh q 0x14 p false s) pl r v))) ∧
    (SucceedsS q 0x20 p (planFence p) s pl r v →
      exec (.fence q p) s = .next (acting 0xFFFF (issued (fresh q 0x20 p false s) pl r v))) ∧
    (SucceedsS q 0x21 p (planWaitTime p) s pl r v →
      exec (.waitTime q p) s = .next (acting 0xFFFF (issued (fresh q 0x21 p false s) pl r v))) ∧
    (SucceedsS q 0x22 p (planSignal p) s pl r v →
      exec (.signal q p) s = .next (acting 0xFFFF (issued (fresh q 0x22 p false s) pl r v)))

/-- The same for exchanges, rounds and the domain (R197, R199). Logs 54 and 55. -/
def Obligations.ClusterCommandsIssue : Prop :=
  ∀ (q : Fin 64) (p : Packet) (s : State) (pl : Plan) (r : Res) (v : State),
    (SucceedsS q 0x40 p (planSend p) s pl r v →
      exec (.bundleSend q p) s = .next (acting 0xFFFF (issued (fresh q 0x40 p false s) pl r v))) ∧
    (SucceedsS q 0x41 p (planReduce p) s pl r v →
      exec (.bundleReduce q p) s = .next (acting 0xFFFF (issued (fresh q 0x41 p false s) pl r v))) ∧
    (SucceedsS q 0x42 p (planBroadcast p) s pl r v →
      exec (.bundleBroadcast q p) s = .next (acting 0xFFFF (issued (fresh q 0x42 p false s) pl r v))) ∧
    (SucceedsS q 0x48 p (planUpdate q p) s pl r v →
      exec (.update q p) s = .next (acting 0xFFFF (issued (fresh q 0x48 p false s) pl r v))) ∧
    (SucceedsS q 0x49 p (planCommit p) s pl r v →
      exec (.commit q p) s = .next (acting 0xFFFF (issued (fresh q 0x49 p false s) pl r v))) ∧
    (SucceedsS q 0x4A p (planDrain q p) s pl r v →
      exec (.ckptDrain q p) s = .next (acting 0xFFFF (issued (fresh q 0x4A p false s) pl r v))) ∧
    (SucceedsS q 0x4B p (planRollback p) s pl r v →
      exec (.rollback q p) s = .next (acting 0xFFFF (issued (fresh q 0x4B p false s) pl r v))) ∧
    (SucceedsS q 0x4C p (planRecord q p) s pl r v →
      exec (.roundRecord q p) s = .next (acting 0xFFFF (issued (fresh q 0x4C p false s) pl r v))) ∧
    (SucceedsS q 0x50 p (planJoinDomain q p) s pl r v →
      exec (.joinDomain q p) s = .next (acting 0xFFFF (issued (fresh q 0x50 p false s) pl r v))) ∧
    (SucceedsS q 0x51 p (planAssign p) s pl r v →
      exec (.assignSpare q p) s = .next (acting 0xFFFF (issued (fresh q 0x51 p false s) pl r v)))

/-- Firmware-path packets: a packet that passes the sequencer's checks takes a place in the management queue; where firmware may
start it at once, its checks pass, nothing that it writes is held and its effect ends, it is in flight with its result (R196,
R213, R214). SCHEDULE_SET writes or clears its entry and answers its index (R258), but for a POWER_CAP entry, which, like the role
actions, waits for its ledger record. With that record (RECORD_PROGRAMMED) the cap is in force, and persisted where PERSIST asks for it
(R287), the binding is made or removed and the key slot written (R323), and the firmware slot erased, chosen or the fuses blown; an image
that has been programmed is verified again from its slot (R329). Logs 54 and 55. -/
def Obligations.FirmwareCommandsRun : Prop :=
  ∀ (q : Fin 64) (p : Packet) (m : RailMeans) (s : State) (pl : Plan) (r : Res) (v : State),
    (SucceedsF q 0x80 p (fun _ => planHealth p) s pl r v →
      exec (.getHealth q p) s = .next (acting 0xFFFF (issued (fresh q 0x80 p true s) pl r v))) ∧
    (SucceedsF q 0x81 p (fun _ => planTelemetry p m) s pl r v →
      exec (.getTelemetry q p m) s = .next (acting 0xFFFF (issued (fresh q 0x81 p true s) pl r v))) ∧
    (SucceedsF q 0x82 p (planPowerCap p) s pl r v →
      exec (.setPowerCap q p) s = .next (acting 0xFFFF (issued (fresh q 0x82 p true s) pl r v)) ∧
      700 ≤ p.num 16 2 ∧ p.num 16 2 ≤ s.ceiling ∧ r.wait = .record ∧
      ∃ a ∈ v.lgr.appends, a.effect = .command s.nextId (.cap (p.num 16 2) (bit (p.num 18 1) 0))) ∧
    (SucceedsF q 0x84 p (fun _ => planLedgerRead p) s pl r v →
      exec (.ledgerRead q p) s = .next (acting 0xFFFF (issued (fresh q 0x84 p true s) pl r v))) ∧
    (SucceedsF q 0x86 p (planMarginScan p) s pl r v →
      exec (.marginScan q p) s = .next (acting 0xFFFF (issued (fresh q 0x86 p true s) pl r v))) ∧
    (SucceedsF q 0x88 p (fun _ => planCounterCfg p) s pl r v →
      exec (.counterCfg q p) s = .next (acting 0xFFFF (issued (fresh q 0x88 p true s) pl r v))) ∧
    (SucceedsF q 0x89 p (fun _ => planSamplerCfg p) s pl r v →
      exec (.samplerCfg q p) s = .next (acting 0xFFFF (issued (fresh q 0x89 p true s) pl r v))) ∧
    (SucceedsF q 0x8A p (fun _ => planTraceArm p) s pl r v →
      exec (.traceArm q p) s = .next (acting 0xFFFF (issued (fresh q 0x8A p true s) pl r v))) ∧
    (SucceedsF q 0x8B p (fun _ => planTraceRead p) s pl r v →
      exec (.traceRead q p) s = .next (acting 0xFFFF (issued (fresh q 0x8B p true s) pl r v))) ∧
    (SucceedsF q 0x90 p (planRoleSession p) s pl r v →
      exec (.roleSession q p) s = .next (acting 0xFFFF (issued (fresh q 0x90 p true s) pl r v))) ∧
    (SucceedsF q 0x92 p (planFwStage p) s pl r v →
      exec (.fwStage q p) s = .next (acting 0xFFFF (issued (fresh q 0x92 p true s) pl r v))) ∧
    (SucceedsF q 0x94 p (planScheduleSet p) s pl r v →
      exec (.scheduleSet q p) s = .next (acting 0xFFFF (issued (fresh q 0x94 p true s) pl r v)) ∧
      let clear := bit (p.num 17 1) 0
      let b := packetEntry p
      (clear = true ∨ b.kind ≠ 4 → r.wait = .done ∧ 16 ≤ r.detail ∧ r.detail ≤ 47 ∧
        (p.num 16 1 ≠ 255 → r.detail = p.num 16 1) ∧ (p.num 16 1 = 255 → tfind s.sched r.detail = none) ∧
        (∀ j, j ≠ r.detail → tfind v.sched j = tfind s.sched j) ∧
        (tfind v.sched r.detail).map (·.body) = if clear = true ∨ b.kind = 0 then none else some b) ∧
      (clear = false → b.kind = 4 → r.wait = .record ∧ (s.queue q).role ≥ 2 ∧
        ∃ i, ∃ a ∈ v.lgr.appends, a.effect = .command s.nextId (.schedule i (some b)))) ∧
    (SucceedsF q 0xC0 p (fun _ => planDumpRead p) s pl r v →
      exec (.dumpRead q p) s = .next (acting 0xFFFF (issued (fresh q 0xC0 p true s) pl r v))) ∧
    (SucceedsF q 0xC8 p (planMakerDiag p) s pl r v →
      exec (.makerDiag q p) s = .next (acting 0xFFFF (issued (fresh q 0xC8 p true s) pl r v))) ∧
    ∀ (c : InFlight) (slot : Nat) (k : PubKey) (w : Nat) (other persist : Bool) (b : Binding) (body : EntryBody) (img : List Byte),
      s.flight.find? (fun e => e.id = c.id) = some c → s.seq.frozen = false →
      let ends (status detail : Nat) (t : State) := finish { c with status := BitVec.ofNat 16 status, detail := BitVec.ofNat 64 detail } t
      let takes (a : Action) (t : State) := applyEffect (.command c.id a) s = t
      takes (.cap w persist) (ends 0 (s.pwr.cap + 65536 * w)
        { s with pwr := { s.pwr with cap := w, persisted := if persist then some w else s.pwr.persisted } }) ∧
      takes (.schedule slot (some body)) (ends 0 slot (writeEntry slot body s)) ∧
      (((s.session b.session).bind s.bindable).isSome = true →
        takes (.bind b) (ends 0 0 (s.setQueue c.queue { s.queue c.queue with binding := some b }))) ∧
      (((s.session b.session).bind s.bindable).isSome = false → takes (.bind b) (ends 0x0602 0 s)) ∧
      takes .unbind (ends 0 0 (s.setQueue c.queue { s.queue c.queue with binding := none })) ∧
      (slot ≤ 16 →
        takes (.addKey slot k) (ends 0 0 (changeKey slot (some k) s)) ∧ takes (.claim k) (ends 0 0 (changeKey 16 (some k) s)) ∧
        takes (.removeKey slot) (ends 0 0 (changeKey slot none s)) ∧ takes .releaseOwner (ends 0 0 (releaseKeys s)) ∧
        (∀ n, n ≤ 16 → (releaseKeys s).sec.keyIn n = none) ∧
        ∀ o : Option PubKey, o ≠ none ∨ s.sec.keyIn slot ≠ none →
          let t := changeKey slot o s
          t.sec.keyIn slot = o ∧ (∀ n, n ≠ slot → n ≤ 16 → t.sec.keyIn n = s.sec.keyIn n) ∧
          t.sec.keygen = (s.sec.keygen + 1) % 2 ^ 32 ∧ t.sec.status.bits.getLsbD 3 = true ∧
          ∀ r e, (t.queue r).binding = some e → e.holder ≠ .slot slot) ∧
      (∃ t, takes (.fwStage other img) t ∧ t.sec = s.sec.setImage other [] false) ∧
      (∃ t u, takes (.fwActivate other) t ∧ t = ends 0 (fwDetail other (imageSvn (s.sec.image other))) u ∧ u.sec.next = other) ∧
      (∃ t u, takes (.fwCommit w) t ∧ t = ends 0 (fwDetail s.sec.running w) u ∧ u.sec.fusedSvn = max s.sec.fusedSvn w) ∧
      ∃ u, finishStaging c.id other img s = (match imageFault s.sec (flashImage img) with
          | none => ends 0 (fwDetail other (imageSvn img)) u
          | some f => ends (if f = 2 then 0x0604 else 0x0603) 0 u) ∧
        u.sec = s.sec.setImage other img (imageFault s.sec (flashImage img)).isNone

/-- R197, R196: a packet whose issue conditions do not hold stays in its ring, where the module knows it from then on as a host ring's
head (log 62), and nothing else changes; otherwise the first of the checks 2 to 5 that fails gives the status, and the command has no
effect: it only leaves the ring and completes. -/
def Obligations.FirstFailingCheckRefuses : Prop :=
  ∀ (c : Instr) (q : Fin 64) (op : Nat) (p : Packet) (s : State), c.packet = some (q, op, p) → c.wf = true →
    let refused (f : Fail) (s : State) := refuseCommand (fresh q op p false s) f
    let v := s.queue q
    let waits := s.clocked = true ∧ v.enable = true ∧ v.loc = false ∧ v.sqHead ≠ v.sqTail
    (gate q op p s = false →
      (waits → exec c s =
        .next (s.setQueue q { v with head := some { ordinal := v.issued, fence := p.fenceBefore, token := p.waitToken.toNat } })) ∧
      (¬waits → exec c s = .next s)) ∧
    (gate q op p s = true →
      (opInfo op = none → exec c s = .next (refused { status := 0x0101, detail := op } s (takeHead q op p false s))) ∧
      (∀ i f, opInfo op = some i → sequencerChecks q op i p s = some f → exec c s = .next
        (if i.firmware then refused f s (takeHead q op p false s)
         else acting 0xFFFF (refused f s (acting p.layerId (takeHead q op p true s.unheld))))))

/-- The order of those checks: the role, the device's state, the freeze, the reserved flags. -/
def Obligations.ChecksComeInOrder : Prop :=
  ∀ (q op : Nat) (i : OpInfo) (p : Packet) (s : State),
    ((s.queue q).role < i.role → op ≠ 0x90 →
      sequencerChecks q op i p s = some { status := 0x0601, detail := max i.role 1 }) ∧
    (i.role ≤ (s.queue q).role → 0 < (s.queue q).role ∨ op = 0x90 →
      (s.admits op = false → sequencerChecks q op i p s = some { status := 0x0701, detail := s.ups.stage }) ∧
      (s.admits op = true →
        (s.seq.frozen = true → runsFrozen op = false → sequencerChecks q op i p s = some { status := 0x0702, detail := 0 }) ∧
        (s.seq.frozen = false ∨ runsFrozen op = true →
          sequencerChecks q op i p s =
            if p.flags.toNat < 32 then none else some { status := 0x0102, detail := 1 })))

/-- A packet that cannot be read (R193), at the head of the queue that the sequencer selects: for a ring in host memory it
leaves the ring with status 0x0303 and a tag that names its ring index, for one in device memory with the status of the read,
and it is not executed; and an undefined opcode is refused with 0x0101 (R196). -/
def Obligations.UnreadPacketsAreNotExecuted : Prop :=
  ∀ (q : Fin 64) (s : State), canIssue s q = true → selects s q = true →
    (∀ why : PacketLoss, why ≠ .ringLine → (s.queue q).loc = false →
      exec (.packetUnreadable q why) s =
        .next (refuseCommand (fresh q 0 (lostPacket (s.queue q).sqHead) false s)
          { status := 0x0303, detail := (s.queue q).sqHead }
          (s.setQueue q { s.queue q with sqHead := ((s.queue q).sqHead + 1) % (s.queue q).sqSize,
                                         issued := (s.queue q).issued + 1 })) ∧
      (lostPacket (s.queue q).sqHead).tag.toNat / 2 ^ 16 = 0xFFFF ∧
      (lostPacket (s.queue q).sqHead).tag.toNat % 2 ^ 16 = (s.queue q).sqHead % 2 ^ 16) ∧
    (∀ why f u, (s.queue q).loc = true →
      (readBytes (s.queue q).sqHandle ((s.queue q).sqBase.toNat + 64 * (s.queue q).sqHead) 64 (some ((s.queue q).seqr / 2))).run s =
        .error f u →
      exec (.packetUnreadable q why) s = .next (refuseCommand (fresh q 0 (lostPacket (u.queue q).sqHead) false u) f
        (u.setQueue q { u.queue q with sqHead := ((u.queue q).sqHead + 1) % (u.queue q).sqSize,
                                       issued := (u.queue q).issued + 1 }))) ∧
    (∀ (opcode : BitVec 8) (p : Packet), opInfo opcode.toNat = none → gate q opcode.toNat p s = true →
      exec (.opcodeUnknown q opcode p) s =
        .next (refuseCommand (fresh q opcode.toNat p false s) { status := 0x0101, detail := opcode.toNat }
          (takeHead q opcode.toNat p false s)))

/-- The commands that synchronise (R212) and set bounds (R135), with no reserved bit set: NOP, SIGNAL and BOUNDS_SET complete at
their issue; FENCE is in flight and waits, and so does WAIT_TIME unless its TIME has been reached. Logs 54 and 55. -/
def Obligations.SynchronisationCommands : Prop :=
  ∀ (q : Fin 64) (p : Packet) (s : State),
    let issues (op : Nat) := gate q op p s = true ∧ sequencerChecks q op ((opInfo op).getD ⟨false, 1, false⟩) p s = none
    let at_ (op : Nat) (w : Wait) : InFlight := { fresh q op p false s with wait := w }
    let after (op : Nat) (c : InFlight) : State :=
      { acting p.layerId (takeHead q op p true s.unheld) with flight := s.flight ++ [c], nextId := s.nextId + 1 }
    (issues 0x00 → firstReserved p.params 16 [(16, 63, 0xFF)] = none →
      exec (.nop q p) s = .next (acting 0xFFFF (complete (at_ 0 .done) (after 0 (at_ 0 .done))))) ∧
    (issues 0x20 → firstReserved p.params 16 [(16, 16, 0xFE), (17, 63, 0xFF)] = none →
      exec (.fence q p) s = .next (acting 0xFFFF (setInflight s.nextId (fun _ => at_ 0x20 (.fence (bit (p.num 16 1) 0)))
        (after 0x20 (at_ 0x20 .done))))) ∧
    (issues 0x21 → firstReserved p.params 16 [(24, 63, 0xFF)] = none →
      exec (.waitTime q p) s = .next (acting 0xFFFF (setInflight s.nextId
        (fun _ => at_ 0x21 (if p.num 16 8 ≤ s.tim.now then .done else .untilTime (p.num 16 8))) (after 0x21 (at_ 0x21 .done))))) ∧
    (issues 0x22 → firstReserved p.params 16 [(49, 63, 0xFF)] = none → 1 ≤ p.num 48 1 → p.num 48 1 ≤ 16 →
      exec (.signal q p) s = .next (acting 0xFFFF (complete (at_ 0x22 .done)
        ((List.range (p.num 48 1)).foldl (fun s i => signalToken (p.num (16 + 2 * i) 2) s) (after 0x22 (at_ 0x22 .done)))))) ∧
    (issues 0x14 → firstReserved p.params 16 [(18, 19, 0xFF), (52, 63, 0xFF)] = none → p.num 17 1 ≠ 0 → p.num 17 1 ≤ 8 →
      p.num 16 1 + p.num 17 1 ≤ 64 →
      ∃ t, exec (.boundsSet q p) s = .next (acting 0xFFFF (complete (at_ 0x14 .done) t)) ∧
        t = { after 0x14 (at_ 0x14 .done) with que := { (after 0x14 (at_ 0x14 .done)).que with bounds := t.que.bounds } } ∧
        (∀ n, n < 64 → tget 0 t.que.bounds (q * 64 + n) =
          if p.num 16 1 ≤ n ∧ n < p.num 16 1 + p.num 17 1 then BitVec.ofNat 32 (p.num (20 + 4 * (n - p.num 16 1)) 4)
          else tget 0 s.que.bounds (q * 64 + n)) ∧
        (∀ k, k < q.val * 64 ∨ q.val * 64 + 64 ≤ k → tget 0 t.que.bounds k = tget 0 s.que.bounds k))

/-- R199, R212, R215: a command that waits for nothing of its own completes with its result; so does a member's COMMIT
(EXCHANGED), at any COMMAND_COMPLETE, where R263 has the rim acknowledge it (log 25); a FENCE waits while an earlier command of its queue (with DEVICE any earlier command) is in flight; a WAIT_TIME
completes once rim time is TIME or later; and while the device is frozen every command but those that run on completes with
FROZEN. That a completion is a command of its own is the model's choice, log 55. -/
def Obligations.CommandsComplete : Prop :=
  ∀ (q : Fin 64) (n : Nat) (c : InFlight) (s : State), s.clocked = true → s.mem.journalOver = false → s.inflightAt q n = some c →
    (s.seq.frozen = false ∨ runsFrozen c.opcode = true →
      (c.wait = .done → exec (.commandComplete q n) s = .next (if s.sending c.id then s else finish c s)) ∧
      (c.wait = .commit false → exec (.commandComplete q n) s = .next (finish c s)) ∧
      (∀ device, c.wait = .fence device →
        ((∃ e ∈ s.flight, e.id < c.id ∧ (device = true ∨ e.queue = c.queue)) → exec (.commandComplete q n) s = .next s) ∧
        ((∀ e ∈ s.flight, e.id < c.id → device = false ∧ e.queue ≠ c.queue) → exec (.commandComplete q n) s = .next (finish c s))) ∧
      (∀ t, c.wait = .untilTime t →
        (s.tim.now < t → exec (.commandComplete q n) s = .next s) ∧
        (t ≤ s.tim.now → exec (.commandComplete q n) s = .next (finish c s)))) ∧
    (s.seq.frozen = true → runsFrozen c.opcode = false →
      exec (.commandComplete q n) s = .next (finishAs c.id 0x0702 0 (dropFrames c.id s)))

/-- R201, R198: a command that completes with class 0x00 signals its token where SIGNAL_AFTER asks for it; with any other class
it signals nothing, and where its queue stops on errors the queue is disabled. -/
def Obligations.CompletionSignalsOnSuccessOnly : Prop :=
  ∀ (c : InFlight) (s : State), s.clocked = true → c.orphan = false →
    (statusClass c.status.toNat = 0 → c.packet.signalAfter = true →
      (complete c s).que.tokens = (signalToken c.packet.signalToken.toNat s).que.tokens) ∧
    (statusClass c.status.toNat ≠ 0 ∨ c.packet.signalAfter = false → (complete c s).que.tokens = s.que.tokens) ∧
    (statusClass c.status.toNat ≠ 0 → (s.queue c.queue).stopOnError = true →
      ((complete c s).queue c.queue).enable = false ∧ ((complete c s).queue c.queue).status.bits.getLsbD 3 = true)

/-! ### Resets and supply -/

/-- POWER_ON, HOST_RST_N and PROTECTIVE_SHUTDOWN: each is a cold reset where its condition holds (R279, R283, R290), and a
module that has shut down answers no register access. An input below 38 V, and nothing else, takes THERM_TRIP_N back (R289), of a module
that is off too. What each keeps is log 34 (the ledger), log 41 (MSI-X) and log 42 (straps); that idling does nothing then, log 1. -/
def Obligations.SupplyAndHostResetsAreCold : Prop :=
  ∀ (strapA strapB : Bool) (vin : Nat) (s : State),
    (s.pins.power = .off → 4000 ≤ vin → vin ≤ 5200 → ∃ t, exec (.powerOn strapA strapB vin) s = .next t ∧ ColdStart 0 s t ∧
      t.pins = { power := .on, strapA := strapA, strapB := strapB, thermTrip := s.pins.thermTrip } ∧ t.plc.retired = [] ∧ t.lgr.appends = []) ∧
    (s.clocked = true → s.ups.cfgNow.getLsbD 5 = false ∨ s.ups.stage ≠ 6 → ∃ t, exec .hostRstN s = .next t ∧ ColdStart 1 s t ∧
      t.pins = s.pins ∧ t.plc.retired = s.plc.retired) ∧
    (s.powered = true → vin < 3800 ∨ 5400 < vin → ∃ t, exec (.protectiveShutdown vin) s = .next t ∧ ColdStart 0 s t ∧
      t.pins.power = .off ∧ t.pins.thermTrip = (s.pins.thermTrip && 5400 < vin) ∧ (∀ off, t.responds off = false) ∧
      (t.pending = [] → step t = .next t)) ∧
    (s.powered = false → vin < 3800 →
      exec (.protectiveShutdown vin) s = .next { s with pins := { s.pins with thermTrip := false } })

/-- R291, Table 12.4, a warm reset: HOST_RST_N in U6 with WARM_ON_HOSTRST asks for it, and no packet issues from then on; once
the device is quiet, with no channel offline or being rebuilt, no write held and no handle releasing, it abandons the commands in
flight, without a reply, and keeps the warp map, the round, the ladders, both copies of the configuration, the cap, and what the
stores hold outside the regions that an abandoned command was to write; with none in flight, and no check line whose cached word is
in error (R163), it keeps all that they hold, the poison lists, and the trace's records. What R291 and Table 12.4 do not name has its
reset value, log 40; that the MSI-X table stays, log 41. -/
def Obligations.WarmResetKeepsContents : Prop :=
  ∀ (s : State) (since cause : Nat),
    (s.clocked = true → s.ups.cfgNow.getLsbD 5 = true → s.ups.stage = 6 → ∃ t, exec .hostRstN s = .next t ∧
      t.ups.quiesce = some (s.tim.now, 3) ∧ t.flight = s.flight ∧ t.que = s.que ∧ ∀ q op p, gate q op p t = false) ∧
    (s.clocked = true → s.ups.quiesce = some (since, cause) → s.mem.heldWrites = [] →
    (∀ k, k < 12 → (s.stack k).offline = none ∧ (s.stack k).rebuilding = none ∧ (s.stack k).journal = []) →
    (∀ e ∈ s.plc.map, e.2.state ≠ .releasing) →
    ∃ t, exec .warmResetQuiesced s = .next t ∧
      t.ups.stage = 0 ∧ t.ups.warm = true ∧ t.ups.lastReset = cause ∧ t.ups.quiesce = none ∧ t.ups.service = 0 ∧
      t.flight = [] ∧ t.out.memory = s.out.memory ∧
      (∀ j, (∀ c ∈ s.flight, ∀ o ∈ c.regions, ∀ i d, s.desc o.1 = some (i, d) →
        ∀ k, o.2.1 / 512 ≤ k → k ≤ (o.2.1 + o.2.2) / 512 → j ≠ s.lineOf i d k) → t.payload j = s.payload j) ∧
      (s.flight = [] → (∀ e ∈ s.store.sram, ∀ l, e.place ≠ .check l) →
        t.store.valid = s.store.valid ∧ t.store.crcXor = s.store.crcXor ∧ (s.mem.caches = [] → t.store = s.store) ∧
        t.trc.records = s.trc.records ∧ ∀ k, k < 12 → (t.stack k).poison = (s.stack k).poison) ∧
      t.plc.map = s.plc.map ∧ t.tns.round = s.tns.round ∧ t.tns.ladders = s.tns.ladders ∧
      t.tns.staged = s.tns.staged ∧ t.tns.active = s.tns.active ∧ t.pwr.cap = s.pwr.cap ∧
      t.que = {} ∧ t.seq = {} ∧ t.tim = {} ∧ t.sched = [] ∧ t.lnk.msix = s.lnk.msix)

/-- R216: a function-level reset puts the queues, tokens and bounds back and ignores doorbells until it is done; commands
already issued stay in flight, to reply to no one and signal nothing; and it is done once they have all completed, and the host has then
set configuration space up again (log 65): the BARs read with their types, 64-bit, and only BAR4 prefetchable (R337). -/
def Obligations.FunctionLevelReset : Prop :=
  ∀ s : State, s.powered = true →
    (∃ t, exec .functionLevelReset s = .next t ∧ t.que.queues = [] ∧ t.que.tokens = [] ∧ t.que.bounds = [] ∧ t.que.flr = true ∧
      t.flight.length = s.flight.length ∧ (∀ c ∈ t.flight, c.orphan = true) ∧
      (∀ q v, exec (.sqDoorbell q v) t = .next t ∧ exec (.cqDoorbell q v) t = .next t) ∧
      (∀ c ∈ t.flight, (finish c t).que = t.que)) ∧
    (s.que.flr = true → (∀ c ∈ s.flight, c.orphan = false) →
      ∃ t : State, exec .functionLevelResetDone s = .next t ∧
        t = { s with freeCtr := t.freeCtr, que := { s.que with flr := false }, lnk := { s.lnk with pci := t.lnk.pci } } ∧
        t.lnk.pci.msixEnable = true ∧ t.lnk.pci.aer = s.lnk.pci.aer ∧
        (t.lnk.pci.bar 0).toNat % 2 ^ 24 = 0x4 ∧ (t.lnk.pci.bar 2).toNat % 2 ^ 18 = 0x4 ∧ (t.lnk.pci.bar 4).toNat % 2 ^ 32 = 0xC) ∧
    ((∃ c ∈ s.flight, c.orphan = true) → exec .functionLevelResetDone s = .next s)

/-! ### Power and temperature -/

/-- R285, POWER_EVALUATION at a multiple of 100,000 ns that has not been evaluated, with no scheduled cap still to fire: with
the power above the cap or the thermal condition, the clock steps down by one; otherwise, where the step is above k_min, no step was
taken in the last 1 ms and each of the last ten evaluations, this one the last of them, was within the margin, without the thermal
condition and cool (R288), it steps up by one; where one of these fails it stays; and it is never below k_min after it. The
readings come with the command, log 36. -/
def Obligations.PowerEvaluationSteps : Prop :=
  ∀ (r : PowerReading) (s : State), s.powered = true → s.tim.now % 100000 = 0 → s.pwr.lastEval ≠ s.tim.now + 1 → s.capsFired = true →
    let n := max 1 r.samples.length
    let v := countLife (takeReadings r s)
    let above := s.capNow * n < r.samples.sum
    let hot := v.junctionHot = true ∨ v.stackHot = true
    let last := s.pwr.history.drop (s.pwr.history.length - 9)
    let mayRise := s.kMin < s.pwr.step ∧ (∀ k, s.pwr.lastStepAt = some k → k + 1000000 ≤ s.tim.now) ∧
      last.length = 9 ∧ (∀ e ∈ last, e.within = true ∧ e.thermal = false ∧ e.cool = true) ∧
      r.samples.sum + v.pwr.upNow * n ≤ s.capNow * n ∧ v.cool = true
    ∃ t, exec (.powerEvaluation r) s = .next t ∧ s.kMin ≤ t.pwr.step ∧ t.pwr.input = r.samples.sum / n ∧ t.pwr.vin = r.vin ∧
      (above ∨ hot → s.pwr.step < 12 → t.pwr.step = max (s.pwr.step + 1) s.kMin) ∧
      (above ∨ hot → 12 ≤ s.pwr.step → t.pwr.step = max s.pwr.step s.kMin) ∧
      (¬above → ¬hot → mayRise → t.pwr.step = s.pwr.step - 1) ∧
      (¬above → ¬hot → ¬mayRise → t.pwr.step = max s.pwr.step s.kMin) ∧
      t.pwr.history = (s.pwr.history ++ [({ within := decide (r.samples.sum + v.pwr.upNow * n ≤ s.capNow * n),
                                            thermal := v.junctionHot || v.stackHot, cool := v.cool } : EvalRec)]).drop (s.pwr.history.length - 9)

/-- R286, R288, R289, R138: the brake takes the clock to step 12 and sets BRAKE, leaves the cap as it is, and holds until it is
released; a valid sensor at 110 °C trips the device, in which no packet issues and no command completes; a failed sensor is no
longer valid and sets SENSOR_FAULT; and stack readouts are taken from trained stacks only, once a millisecond, with what their
controllers counted meanwhile (log 63). What goes on after a trip is log 35. -/
def Obligations.BrakeTripAndSensors : Prop :=
  ∀ (i : Fin 112) (c : Int) (r : StackReadings) (s : State), s.powered = true →
    (s.pwr.brake = false → ∃ t, exec .brakeAssert s = .next t ∧ t.pwr.brake = true ∧ t.pwr.step = 12 ∧ t.pwr.cap = s.pwr.cap ∧
      t.pwr.pwrStatus.bits.getLsbD 1 = true ∧ t.capNow = 700 ∧ t.kMin = 12) ∧
    exec .brakeRelease s = .next { s with pwr := { s.pwr with brake := false } } ∧
    (s.clocked = true → s.mem.journalOver = false → 110 ≤ c → i.val ∉ s.pwr.invalid → ∃ t, exec (.thermTrip i c) s = .next t ∧
      t.pins.thermTrip = true ∧ t.pins.power = .tripped ∧ (∀ q op p, gate q op p t = false) ∧
      (∀ q n, exec (.commandComplete q n) t = .next t) ∧ (∀ f, finish f t = t)) ∧
    (i.val ∉ s.pwr.invalid → ∃ t, exec (.sensorFault i) s = .next t ∧ i.val ∈ t.pwr.invalid ∧ t.sensorValid i = false ∧
      t.pwr.thmStatus.bits.getLsbD 2 = true ∧ (∀ j, j ≠ i.val → t.sensorValid j = s.sensorValid j)) ∧
    (s.mem.lastTempRead + 1000000 ≤ s.tim.now → ∃ t, exec (.stackTemperatureRead r) s = .next t ∧
      t.mem.lastTempRead = s.tim.now ∧
      ∀ k, k < 12 →
        tget 0 t.pwr.hbm k = (if (s.stack k).trained then r.temps.getD k 0 else tget 0 s.pwr.hbm k) ∧
        t.counter 2 k 15 = (if (s.stack k).trained then (s.counter 2 k 15 + r.retries.getD k 0) % 2 ^ 48 else s.counter 2 k 15) ∧
        t.counter 2 k 16 = (if (s.stack k).trained then (s.counter 2 k 16 + r.reports.getD k 0) % 2 ^ 48 else s.counter 2 k 16))

/-! ### The schedule table -/

/-- R259: an instance that is due, with none before it in time or in the order of entries, takes its entry's effect and the
entry goes on to its next instance: the cap without persisting it, the scrub interval as a write latches it, the token, a sample
where the sampler is enabled, a retrain window, a link window from its start for its duration. An instance of contents that a
write has replaced fires once. -/
def Obligations.ScheduledInstancesTakeEffect : Prop :=
  ∀ (i : Fin 64) (m : RailMeans) (s : State) (b : EntryBody), s.clocked = true →
    (s.firing i 4 = some b → exec (.powerCapInstance i) s =
      .next (fireNext i { s with pwr := { s.pwr with cap := b.arg0.toNat % 65536 } })) ∧
    (s.firing i 3 = some b → exec (.scrubInstance i) s =
      .next (fireNext i { s with mem := { s.mem with scrubInterval := max 500 (b.arg0.toNat % 2 ^ 24) } })) ∧
    (s.firing i 5 = some b → exec (.signalInstance i) s = .next (fireNext i (signalToken (b.arg0.toNat % 65536) s))) ∧
    (let sample (s : State) := fireNext i (applySelection (if s.cnt.enable then takeSample m s else s))
     s.firing i 1 = some b → s.lets sample → exec (.sampleInstance i m) s = .next (sample s)) ∧
    (s.firing i 6 = some b → exec (.marginInstance i) s =
      .next (startWindow (b.arg0.toNat % 16) (b.arg0.toNat / 16 % 16) (fireNext i s))) ∧
    (i.val < 16 → s.firing i 2 = some b → ∃ d, s.nextDue i = some d ∧ exec (.windowInstance i) s =
      .next (openWindow i d.1 (d.1 + b.arg1.toNat * 1000) (fireNext i s))) ∧
    (∀ d u, ∀ j < 64, s.nextDue i = some d → s.nextDue j = some u → u.1 < d.1 ∨ (u.1 = d.1 ∧ j < i.val) → ∀ k, s.firing i k = none) ∧
    (∀ e, tfind s.tim.owed i = none → tfind s.sched i = some e →
      tfind (fireNext i s).sched i = some { e with next := e.next + 1 } ∧
      (e.body.period ≠ 0 → s.tim.now < e.body.start + (e.next + 1) * e.body.period → (fireNext i s).nextDue i = none)) ∧
    (∀ o, tfind s.tim.owed i = some o → tfind (fireNext i s).tim.owed i = none ∧ (fireNext i s).sched = s.sched)

/-! ### Rim time -/

/-- R255, R256, a rib: Sync and Follow_Up give the offset from its master. An offset up to 1 µs slews, and is LOCKED within 50
ns; a larger one is one step where a step may occur, which sets STEP, and slews where none may; 8 ms without synchronisation is
HOLDOVER, in which rim time goes on; and 10 s of it is LOST: the device is DETACHED, its WINDOW, POWER_CAP and SIGNAL entries
are gone, TIME_LOST is set, and rim time goes on as it was. How rim time slews is log 57. -/
def Obligations.RimTimeFollows : Prop :=
  ∀ (p : Fin 12) (seqId origin : Nat) (delay : Int) (s : State), s.follower = true →
    let follows (offset : Int) (t : State) : Prop := t.tim.lastSync = t.tim.now ∧ t.tim.holdAt = 0 ∧
      (offset.natAbs ≤ 1000 ∨ s.maySteps = false → t.tim.now = s.tim.now ∧ t.tim.status = s.tim.status ∧ t.sched = s.sched ∧
        t.tim.slew = offset ∧ t.tim.time = if offset.natAbs ≤ 50 then .locked else .slewing) ∧
      (1000 < offset.natAbs → s.maySteps = true → t.tim.now = (s.tim.now + offset).toNat % 2 ^ 64 ∧ t.tim.time = .locked ∧
        t.tim.slew = 0 ∧ t.tim.status.bits.getLsbD 0 = true)
    (s.hearsMaster p s.lnk.ptpDomain = true → (s.port p).delay = some delay →
      ((s.port p).heard = true → (s.port p).syncSeq = seqId → ∃ t, exec (.followUp p ⟨s.lnk.ptpDomain, seqId⟩ origin) s = .next t ∧
        follows (origin + delay - (s.port p).syncAt) t) ∧
      ((s.port p).early = some (seqId, origin) → ∃ t, exec (.sync p s.lnk.ptpDomain seqId) s = .next t ∧
        follows (origin + delay - s.tim.now) t) ∧
      ((s.port p).early = none → exec (.sync p s.lnk.ptpDomain seqId) s = .next
        (count 3 p 8 1 (s.setPort p { s.port p with syncSeq := seqId, syncAt := s.tim.now, heard := true })))) ∧
    (s.tim.time = .locked ∨ s.tim.time = .slewing → s.tim.lastSync + 8000000 ≤ s.tim.now →
      exec .holdover s = .next { s with tim := { s.tim with time := .holdover, holdAt := s.tim.now } }) ∧
    (s.tim.time = .holdover → s.tim.holdAt + 10000000000 ≤ s.tim.now →
      ∃ t, exec .timeLost s = .next t ∧ t.tim.time = .lost ∧ t.tim.domain = .detached ∧ t.rim = {} ∧ t.tim.now = s.tim.now ∧
        t.tim.status.bits.getLsbD 1 = true ∧ (∀ e ∈ t.sched, e ∈ s.sched ∧ e.2.body.kind ≠ 2 ∧ e.2.body.kind ≠ 4 ∧ e.2.body.kind ≠ 5))

/-- R254, pulses: PPS_IN takes a rim to the nearest whole second; PPS_OUT marks the second begun, in every state but LOST, and
the pin is then high for its first microsecond. That an edge sets rim time at once is log 57. -/
def Obligations.PulsesMarkSeconds : Prop :=
  ∀ s : State, s.powered = true →
    (s.tim.role = .rim → 5 ≤ s.ups.stage → s.tim.now + 500000000 < 2 ^ 64 → ∃ t, exec .ppsIn s = .next t ∧
      t.tim.ppsLock = true ∧ t.tim.now % 1000000000 = 0 ∧ (t.tim.now - s.tim.now ≤ 500000000 ∧ s.tim.now - t.tim.now ≤ 500000000)) ∧
    (s.tim.time ≠ .lost → s.tim.ppsOut ≠ some (s.tim.now / 1000000000 * 1000000000) → ∃ t, exec .ppsOut s = .next t ∧
      t.tim.ppsOut = some (s.tim.now / 1000000000 * 1000000000) ∧ t.ppsHigh = decide (s.tim.now % 1000000000 < 1000)) ∧
    (s.tim.time = .lost → exec .ppsOut s = .next s)

/-- R348, R352, at an in-service port, of messages with the device's PTP domain: a master answers Delay_Req with its receive
time; a slave takes the mean path delay from a Delay_Resp to its own request, with the timestamps of the last Sync whose Follow_Up
has come, and none before there is one; Announce is only counted; a message of another
domain does nothing. At its Sync interval a master sends Sync and Follow_Up under the next sequence number, and a written
PTP_DOMAIN takes effect; a slave sends Delay_Req; a master announces the domain. -/
def Obligations.PtpMessages : Prop :=
  ∀ (p : Fin 12) (seqId t4 domain : Nat) (s : State), s.hears p domain = true →
    ((s.port p).ptp = 1 →
      exec (.delayReq p ⟨domain, seqId⟩) s = .next (emit (.ptpDelayResp p domain seqId s.tim.now) (count 3 p 8 1 s))) ∧
    (s.follower = true → (s.port p).ptp = 2 → (s.port p).reqSeq = seqId → 
      ((s.port p).pair = none → exec (.delayResp p ⟨domain, seqId⟩ t4) s = .next (count 3 p 8 1 s)) ∧
      ∀ t1 t2, (s.port p).pair = some (t1, t2) → exec (.delayResp p ⟨domain, seqId⟩ t4) s =
        .next ((count 3 p 8 1 s).setPort p { s.port p with
          delay := some (((t2 : Int) - t1 + ((t4 : Int) - (s.port p).reqAt)) / 2) })) ∧
    exec (.announce p domain) s = .next (count 3 p 8 1 s) ∧
    (∀ d origin, d ≠ domain → ∀ c ∈ [Instr.sync p d seqId, .followUp p ⟨d, seqId⟩ origin, .delayReq p ⟨d, seqId⟩, .delayResp p ⟨d, seqId⟩ t4,
      .announce p d], exec c s = .next s) ∧
    ((s.port p).lastSync + 3906250 ≤ s.tim.now → ∃ t, exec (.syncInterval p) s = .next t ∧ (t.port p).lastSync = s.tim.now ∧
      t.lnk.ptpNext = none ∧
      t.lnk.ptpDomain = (match s.lnk.ptpNext with | some d => min 127 d | none => s.lnk.ptpDomain) ∧
      ((s.port p).ptp = 1 → (t.port p).txSeq = ((s.port p).txSeq + 1) % 65536 ∧
        t.out.sent = s.out.sent ++ [.ptpSync p t.lnk.ptpDomain (((s.port p).txSeq + 1) % 65536) s.tim.now,
          .ptpFollowUp p t.lnk.ptpDomain (((s.port p).txSeq + 1) % 65536) s.tim.now]) ∧
      ((s.port p).ptp ≠ 1 → t.out.sent = s.out.sent)) ∧
    (s.follower = true → (s.port p).ptp = 2 → (s.port p).lastReq + 3906250 ≤ s.tim.now → ∃ t, exec (.delayReqInterval p) s = .next t ∧
      (t.port p).reqSeq = ((s.port p).reqSeq + 1) % 65536 ∧ (t.port p).reqAt = s.tim.now ∧
      t.out.sent = s.out.sent ++ [.ptpDelayReq p domain (((s.port p).reqSeq + 1) % 65536)]) ∧
    ((s.port p).ptp = 1 → (s.port p).lastAnn + 250000000 ≤ s.tim.now → ∃ t, exec (.announceInterval p) s = .next t ∧
      (t.port p).lastAnn = s.tim.now ∧ t.out.sent = s.out.sent ++ [.ptpAnnounce p domain])

/-! ### Rounds and the domain -/

/-- R265, COMMIT_EFFECT on a member, of the round that it is in: the round advances by one; with the configuration of the round
that ends, the ladders follow R111 and the floor R115, a storm raising it and STORM_DECAY rounds without one lowering it, but a
divergence leaves both as they were (R110); the summary goes to slot 1; the placer has its round boundary (R185); then the staged configuration is active, what the round
gathered is gone, and the pending COMMIT completes with the new round and the number of seats. A message of another round does
nothing. The detail, and what a divergence leaves, is log 24. -/
def Obligations.CommitEffectAdvancesTheRound : Prop :=
  ∀ (round : BitVec 32) (seats : Nat) (s : State), s.clocked = true → s.tim.domain = .member →
    (round = s.tns.round → s.lets (commitMessage round seats) → ∃ t, exec (.commitEffect round seats) s = .next t ∧
      let m := s.tns.held.getD s.emptySummary
      let u : State := { s with tns := { s.tns with round := s.tns.round + 1 } }
      let free := min (s.tns.stormFree + 1) 65535
      let decay := bits s.tns.active.decay.toNat 15 0
      t.tns.round = s.tns.round + 1 ∧ t.tns.last = { m with floor := t.tns.floor } ∧
      (s.tns.heldDiverged = true → t.tns.floor = s.tns.floor ∧ t.tns.stormFree = s.tns.stormFree ∧ t.tns.ladders = (latchTns s).tns.ladders) ∧
      (s.tns.heldDiverged = false → t.tns.ladders = (latchTns (ladderPolicy m u)).tns.ladders ∧
        (∀ l k, l < s.layerCount → k < 3 → (ladderPolicy m u).ladder l k = policyStep (s.tns.active.layer l) ((s.tns.active.layer l).ladder k)
          (s.tns.active.ctrl.getLsbD 0) (s.tns.round + 1).toNat (tget {} m.recs (l * 4 + k)).stats (s.ladder l k)) ∧
        (m.storm = true → t.tns.floor = min (s.tns.floor + 1) 3 ∧ t.tns.stormFree = 0) ∧
        (m.storm = false → 0 < decay → decay ≤ free → 0 < s.tns.floor → t.tns.floor = s.tns.floor - 1 ∧ t.tns.stormFree = 0) ∧
        (m.storm = false → decay = 0 ∨ free < decay ∨ s.tns.floor = 0 → t.tns.floor = s.tns.floor ∧ t.tns.stormFree = free)) ∧
      (s.updates = [] → ∃ v : State, v.store = s.store ∧ v.plc = s.plc ∧ v.mem = s.mem ∧ v.tns.active = s.tns.active ∧
        t.bytes = (writeSlot 1 t.tns.last v).2.bytes) ∧
      (∀ c, s.updates = [c] → ∃ v : State, v.flight = s.flight ∧ v.tns.round = s.tns.round + 1 ∧
        t = finishAs c.id 0 ((s.tns.round + 1).toNat + seats * 2 ^ 32) v) ∧
      (∃ w : State, w.plc = { s.plc with running := w.plc.running } ∧ w.ups = s.ups ∧ w.pwr = s.pwr ∧
        t.plc = { (roundBoundary w).plc with running := t.plc.running }) ∧
      t.tns.active.ctrl = (TnsCfg.latched s.tns.staged).ctrl ∧ t.tns.latched = true ∧
      t.tns.roundReweaves = 0 ∧ t.tns.sealed = none ∧ t.tns.held = none ∧ t.tim.exchanged = false ∧ t.tim.updated = false) ∧
    (round ≠ s.tns.round → s.mem.journalOver = false → exec (.commitEffect round seats) s = .next s)

/-- R268, Table 11.10, DECISION on a member of the round: TIM_TAKEOVER shows it, TAKEOVER is set; under BACK, RESTORE and HALT
every COMMIT in flight completes, with 0x0508 where the member's own divergence is the cause and else with 0x0504, and later
ones will find the decision; under HALT the domain is HALTED. A decision already held changes nothing (R277), and the refusal of
a device whose seat the rim has declared lost takes it out of the domain (R253). -/
def Obligations.DecisionsReachMembers : Prop :=
  ∀ (d : Decision) (s : State), s.clocked = true → s.tim.domain = .member →
    let detail := decisionDetail d.code d.lost d.peer d.round.toNat
    let word := BitVec.ofNat 32 (takeoverWord d.code d.lost d.peer d.isSource d.takeSeat.isSome)
    let stops := d.code = 4 ∨ (d.code = 2 ∨ d.code = 3) ∧ d.takeSeat = none
    (d.refused = false → s.tim.decided = some (BitVec.ofNat 64 detail) → exec (.decision d) s = .next s) ∧
    (d.refused = true → ∃ t, exec (.decision d) s = .next t ∧
      t.tim.takeover = word ∧ t.tim.domain = .detached ∧ t.tim.barred = true) ∧
    (d.refused = false → s.tim.decided ≠ some (BitVec.ofNat 64 detail) → ∃ t, exec (.decision d) s = .next t ∧
      t.tim.takeover = word ∧ t.tim.status.bits.getLsbD 2 = true ∧ t.tns.round = s.tns.round ∧
      t.tim.domain = (if d.code = 4 then .halted else .member) ∧
      (stops → t.tim.abort = some (BitVec.ofNat 64 detail) ∧
        (∀ c ∈ t.flight, c ∈ s.flight ∧ ∀ u, c.wait ≠ .commit u) ∧
        (∀ c, s.commits = [c] → ∃ v : State, v.flight = s.flight ∧
          t = finishAs c.id (if d.code = 2 ∧ d.diverged = true ∧ s.tns.heldDiverged = true then 0x0508 else 0x0504) detail v)))

/-- R252, JOIN_ACCEPT at the rim and at the joining device, and JOIN_TIMEOUT: only an entry whose seat is empty is accepted, at
LOCKED, for this domain, and the rim sends the states of its ports (R348) and the seat list with its MACs (R346); the device takes its seat, its round's windows, at
most 16 groups and its ports' PTP states, and its JOIN_DOMAIN completes; and what has waited more than 10 s leaves it DETACHED,
with 0x0501. -/
def Obligations.JoinsAreAccepted : Prop :=
  ∀ (s : State) (dev : BitVec 64) (dom : BitVec 32) (locked : Bool) (ports : List PortReport) (seat : Nat) (round : BitVec 32)
    (standby : Bool) (set : Nat) (groups : List XGroup) (windows : List (Fin 16 × EntryBody)) (ptp : List PtpState)
    (mac : BitVec 48) (macs : List (Nat × BitVec 48)),
    (∀ k m, s.isRim = true → s.tim.domain = .member →
      s.rim.seats.find? (fun e => e.2.deviceId == dev && !e.2.joined && !e.2.lost) = some (k, m) → s.member k = some m →
      dom = s.tim.domainId → locked = true → dev ∉ s.rim.retired → (∀ c ∈ s.flight, c.wait ≠ .poolAdd dev) →
      ∃ t, exec (.joinAccept (.asRim dev dom locked ports mac)) s = .next t ∧ t.member k = some { m with joined := true } ∧
        (s.linked = true → ∃ rest, t.told = s.told ++
          .joinAccepted k (joinPorts ports) (tinsert (tinsert s.tim.macs k mac) s.tim.seat s.id.mac) :: rest)) ∧
    ((∀ e ∈ s.rim.seats, e.2.deviceId = dev → e.2.joined = true ∨ e.2.lost = true) ∨ dom ≠ s.tim.domainId ∨ locked = false ∨
      dev ∈ s.rim.retired → exec (.joinAccept (.asRim dev dom locked ports mac)) s = .next (syncDeputy s)) ∧
    (s.clocked = true → s.tim.domain = .joining → (∃ c ∈ s.flight, ∃ k, c.wait = .join k) →
      ∃ t, exec (.joinAccept (.asMember seat round standby set groups windows ptp macs)) s = .next t ∧
        t.tim.domain = (if standby then .standby else .member) ∧ t.tim.seat = seat ∧ t.tim.replicaSet = set ∧
        t.tim.groups = groups.take 16 ∧ t.tns.round = s.tns.round ∧ t.tim.barred = false ∧
        t.tim.macs = macs.foldl (fun l e => tinsert l e.1 e.2) [] ∧
        (∀ p, p < 12 → (t.port p).ptp = ptp.getD p 0) ∧
        (∀ i e, i < 16 → tfind t.sched i = some e → ∃ w ∈ windows, w.1.val = i ∧ e.body = w.2) ∧
        (∀ i, 16 ≤ i → tfind t.sched i = tfind s.sched i) ∧
        (∀ c ∈ t.flight, ∀ k, c.wait ≠ .join k) ∧
        (∀ c, (s.flight.filter fun e => match e.wait with | .join _ => true | _ => false) = [c] → ∃ v : State, t = finishAs c.id 0
          (seat % 4096 + round.toNat * 2 ^ 32) v)) ∧
    (s.clocked = true → (∃ c ∈ s.flight, ∃ k, c.wait = .join k ∧ k < s.tim.now) →
      ∃ t, exec .joinTimeout s = .next t ∧ t.tim.domain = .detached ∧ t.tim.domainId = 0 ∧
        ∀ c ∈ t.flight, ∀ k, c.wait = .join k → s.tim.now ≤ k) ∧
    ((∀ c ∈ s.flight, ∀ k, c.wait = .join k → s.tim.now ≤ k) → exec .joinTimeout s = .next s)

/-- R253, R257, R267: a seat that leaves, that is reported lost, or whose third answer is missing is declared lost. A lost
standby seat is only removed from the pool. A lost training seat is empty from then on and a loss of the round, and the rim
decides for the domain: with a deputy the decision goes to it first (R276), without one every other live seat is sent it, and the
lost one; after the commit decision the loss belongs to the next round. The rim refuses the device of that seat from then on. That
nothing leaves while no port is in service is log 66. -/
def Obligations.LostSeatsAreRefused : Prop :=
  ∀ (seat : Nat) (m : Member) (s : State), s.isRim = true → s.member seat = some m → m.lost = false →
    let u := declareLost seat s
    (s.lets (seatLost seat) → exec (.leaveNotice seat) s = .next (syncDeputy u) ∧ exec (.lostNotice seat) s = .next (syncDeputy u)) ∧
    (m.joined = true → 3 ≤ m.misses + (if m.awaiting then 1 else 0) → s.lets (heartbeatMissed seat) →
      exec (.heartbeatMissed seat) s = .next (syncDeputy u)) ∧
    (m.misses + (if m.awaiting then 1 else 0) < 3 → s.mem.journalOver = false → exec (.heartbeatMissed seat) s = .next s) ∧
    (m.standby = true → u.rim = { s.rim with seats := terase s.rim.seats seat, retired := s.rim.retired ++ [m.deviceId] }) ∧
    (m.standby = false →
      let v : State := { s with rim := { s.rim with seats := tinsert s.rim.seats seat { m with lost := true, deviceId := 0 },
                                                    retired := s.rim.retired ++ [m.deviceId] } }
      let w : State := { v with rim := { v.rim with losses := sinsert s.rim.losses seat } }
      let d := w.decisionOf false
      (∀ x, v.deputySeat = some x → (∃ c, s.rim.unacked = some c ∧ c.code = 0) →
        u.rim = { v.rim with late := sinsert s.rim.late seat }) ∧
      (s.rim.unacked = none → (∀ c, s.rim.decision = some c → c.code ≠ 4) →
        (∀ x, v.deputySeat = some x → u.rim = { w.rim with unacked := some d } ∧
          u.told = s.told ++ if s.linked then [.toDeputy d] else []) ∧
        (v.deputySeat = none → u.rim.decision = some d ∧ u.rim.losses = w.rim.losses ∧
          u.rim.retired = w.rim.retired ∧ (s.linked = true → (∀ x ∈ w.others, u.toldSeat x (.decision d)) ∧
            (seat ≠ s.tim.seat → u.toldSeat seat (.decision d)))))) ∧
    (∀ dom locked ports mac, exec (.joinAccept (.asRim m.deviceId dom locked ports mac)) u = .next (syncDeputy u))

/-- R257, heartbeats: the rim sends one to every other live member in each period and each of them owes an answer, one that it
owed already being missed; a member takes the rim's policy and answers with its round, its domain state and its notices; an
answer without a notice clears what was missed, STORM of the rim's round delays the windows (R261), FROZEN or SHORT is a loss (R267),
and a lost seat that answers is told so (R253). A deputy keeps the copy of the rim's state that it is sent (R276). -/
def Obligations.HeartbeatsAreAnswered : Prop :=
  ∀ (h : Heartbeat) (w : List Booking) (a : Answer) (m : Member) (s : State),
    (s.isRim = true → s.rim.lastHbSent + s.tim.policy.hbPeriod * 1000 ≤ s.tim.now → ∃ t, exec (.heartbeatPeriod w) s = .next t ∧
      t.rim.lastHbSent = s.tim.now ∧
      (s.linked = true → (∃ rest, t.told = s.told ++ s.others.map Control.heartbeat ++ rest ∧ rest.length ≤ 1) ∧
        ∀ x ∈ s.others, t.toldSeat x (.heartbeat x)) ∧
      ∀ k n, s.others.Nodup → k ∈ s.others → s.member k = some n →
        t.member k = some { n with misses := if n.awaiting then n.misses + 1 else n.misses, awaiting := true }) ∧
    (s.powered = true → s.tim.domain = .member → s.tim.role ≠ .rim → ∃ t, exec (.heartbeat h) s = .next t ∧
      t.tim.policy = h.policy ∧ t.tim.lastHb = s.tim.now ∧ t.tim.deputy = (h.deputy == some s.tim.seat) ∧
      t.tim.copy = (if h.deputy = some s.tim.seat then h.copy.or s.tim.copy else none) ∧
      (h.rimChange = true → t.tim.status.bits.getLsbD 3 = true) ∧
      t.told = s.told ++ if s.linked then [.answer
        { seat := s.tim.seat, round := s.tns.round, domain := s.tim.domain.code, frozen := s.seq.frozen, short := s.anyUnmapped,
          storm := s.tim.stormNote, portsOut := s.portsOut }] else []) ∧
    (s.isRim = true → s.member a.seat = some m → m.lost = true → s.mem.journalOver = false →
      exec (.heartbeatAnswer a) s = .next (sendControl a.seat (.refused a.seat) s)) ∧
    (s.isRim = true → s.member a.seat = some m → m.lost = false → a.portsOut = m.portsOut →
      let u : State := { s with rim := { s.rim with
        seats := tinsert s.rim.seats a.seat { m with misses := 0, awaiting := false, portsOut := a.portsOut } } }
      (a.storm = false ∨ a.round ≠ s.tns.round → a.frozen = false → a.short = false → s.mem.journalOver = false →
        exec (.heartbeatAnswer a) s = .next (syncDeputy u)) ∧
      (a.storm = true → a.round = s.tns.round → a.frozen = false → a.short = false → s.mem.journalOver = false →
        exec (.heartbeatAnswer a) s = .next (syncDeputy (stretch u))) ∧
      (a.storm = false ∨ a.round ≠ s.tns.round → a.frozen = true ∨ a.short = true → s.lets (heartbeatAnswer a) →
        exec (.heartbeatAnswer a) s = .next (syncDeputy (declareLost a.seat u))))

/-- Reports at the rim (R263, R264, R261, R273): EXCHANGED of the round is noted; an UPDATED that leaves others to report is
noted; with every seat's report in, the commit decision goes to the deputy, or without one the rim commits: every other live
seat is sent COMMIT, the round advances, and the round's reports and decision are gone; a missed window counts for nothing where
the round was stretched before its instance; a checkpoint is kept, and of each seat the last four. The deputy's copy follows
each change (R276). -/
def Obligations.ReportsAreCounted : Prop :=
  ∀ (r : Report) (m : Member) (s : State), s.isRim = true → s.member r.seat = some m → m.lost = false → r.round = s.tns.round →
    s.mem.journalOver = false →
    (r.kind = .exchanged → exec (.report r) s = .next
      (syncDeputy { s with rim := { s.rim with seats := tinsert s.rim.seats r.seat { m with exchanged := true } } })) ∧
    (r.kind = .updated → r.diverged = false → r.replayFailed = false →
      let n : Member := { m with exchanged := true, updated := true, diverged := false, badReplay := false, badRound := false }
      let u : State := { s with rim := { s.rim with seats := tinsert s.rim.seats r.seat n } }
      (u.canCommit = false → exec (.report r) s = .next (syncDeputy u)) ∧
      (u.canCommit = true → u.deputySeat ≠ none → ∃ t, exec (.report r) s = .next t ∧
        t.rim.unacked = some { code := 0, round := s.tns.round, pairs := [] } ∧ t.tns.round = s.tns.round) ∧
      (u.canCommit = true → u.deputySeat = none → s.tim.domain = .member → s.rim.late = [] →
        s.lets (fun s => syncDeputy (rimReport r s)) → ∃ t, exec (.report r) s = .next t ∧
        t.tns.round = s.tns.round + 1 ∧ t.rim.losses = [] ∧ t.rim.decision = none ∧ t.rim.backs = 0 ∧
        (∀ e ∈ t.rim.seats, e.2.exchanged = false ∧ e.2.updated = false) ∧
        (s.linked = true → ∃ n, t.told = s.told ++ List.replicate u.others.length (.commit s.tns.round n) ∧
          ∀ x ∈ u.others, t.toldSeat x (.commit s.tns.round n)))) ∧
    (r.kind = .missed → (∀ k, s.rim.stretched = some k → k < r.inst → exec (.report r) s = .next (syncDeputy s))) ∧
    (∃ t l, exec (.ckptDoneReport r.seat r.round) s = .next t ∧ t.member r.seat = some { m with ckpts := l } ∧
      l.length ≤ 4 ∧ l.getLast? = some r.round.toNat)

/-- R276, R277, R267: what the deputy has acknowledged is acted on; a FORWARD that has not committed within its limit is decided
again, as a round that cannot commit; and a deputy that has missed three heartbeats of the rim, and no fewer, becomes it, on a training
or a standby seat and in a halted domain too, from the copy that it holds, with its ports MASTER and RIM_CHANGE set, and the old rim's
seat is lost. A divergence decides BACK, log 26. -/
def Obligations.DeputyAndTakeover : Prop :=
  ∀ (missed : Nat) (s : State) (d : RimDecision),
    (s.isRim = true → s.rim.unacked = none → s.mem.journalOver = false → exec .deputyAcknowledge s = .next (syncDeputy s)) ∧
    (s.isRim = true → s.rim.unacked = some d → d.code ≠ 0 →
      s.lets (fun s => syncDeputy (release s)) → ∃ t, exec .deputyAcknowledge s = .next t ∧
      t.rim.decision = some d ∧ t.rim.unacked = none ∧ t.rim.decidedAt = s.tim.now ∧ t.tns.round = s.tns.round ∧
      (s.linked = true → ∀ x ∈ s.others, t.toldSeat x (.decision d))) ∧
    (s.isRim = true → s.rim.decision = some d → d.code = 1 →
      (s.rim.decidedAt + s.tim.policy.takeover * 1000000 < s.tim.now →
        exec .takeoverLimit s = .next (syncDeputy (decideDomain true s)) ∧ (s.choose true = 2 ∨ s.choose true = 3 ∨ s.choose true = 4)) ∧
      (s.tim.now ≤ s.rim.decidedAt + s.tim.policy.takeover * 1000000 → exec .takeoverLimit s = .next s)) ∧
    (s.powered = true → s.tim.domain = .member ∨ s.tim.domain = .standby ∨ s.tim.domain = .halted → s.tim.deputy = true → s.tim.lastHb + 3 * s.tim.policy.hbPeriod * 1000 ≤ s.tim.now →
      s.lets (fun s => syncDeputy (becomeRim s)) → 3 ≤ missed →
      ∃ t, exec (.rimHeartbeatMissed missed) s = .next t ∧ t.tim.role = .rim ∧ t.tim.deputy = false ∧ t.tim.now = s.tim.now ∧
        t.tim.status.bits.getLsbD 3 = true ∧ (∀ p, p < 12 → (t.port p).ptp = 1) ∧
        ∀ c, s.tim.copy = some c → c.decision = none → c.unacked = none → t.rim.groups = c.groups ∧ t.rim.late = c.late ∧
          (tfind (copyTable c) c.rimSeat = none → t.rim.losses = c.losses ∧ t.rim.backs = c.backs ∧ t.rim.retired = c.retired ∧
            t.rim.stretched = c.storm) ∧
          ∀ m, tfind (copyTable c) c.rimSeat = some m → m.standby = false → m.lost = false →
            t.rim.losses = sinsert c.losses c.rimSeat ∧ t.rim.retired = c.retired ++ [m.deviceId]) ∧
    (missed < 3 → exec (.rimHeartbeatMissed missed) s = .next s)

/-! ### The memory window and memory maintenance -/

/-- R83, R150, R340, R341, BAR4: a request that the device does not accept reads as ones or is dropped, with BAR4_REFUSED; an
accepted whole-line read of a hoop store or of a stack without faults gives what the line holds; one of a FAILED stack is
returned poisoned, with STACK_FAILED, and AER reports it; a write goes behind those that a full retrain journal holds back; and with none held and
room in the journal a whole-line write reaches its line and no other. Each accepted write advances the handle's generation once,
and every write keeps the memories canonical. -/
def Obligations.MemoryWindowAccesses : Prop :=
  ∀ (off len : Nat) (data : List Byte) (s : State) (i : Nat) (d : Desc), s.clocked = true →
    let h := (s.aperture off).1
    let x := (s.aperture off).2
    let id := s.lineOf i d (x / 512)
    let sound := isHbm id = true → (s.stack (lineStack id)).health ≠ .failed ∧ s.store.faults = [] ∧ s.store.sram = []
    (inAperture off len = true → s.accepts off len = false → s.mem.journalOver = false → exec (.bar4Read off len) s =
      .next (raiseLnk 3 { s with out := { s.out with readData := List.replicate len 0xFF, readEnd := .refused } })) ∧
    (inAperture off data.length = true → data ≠ [] → s.accepts off data.length = false →
      exec (.bar4Write off data) s = .next (raiseLnk 3 s)) ∧
    (inAperture off 512 = true → s.accepts off 512 = true → x % 512 = 0 → s.desc h = some (i, d) →
      (sound → (isHbm id = true → (s.stack (lineStack id)).poisoned (lineNo id) = false) →
        (isHbm id = false → ∀ e ∈ s.store.sram, e.place ≠ .hoop id) → tget 0 s.store.crcXor id = 0 → s.lets (bar4Read off 512) → ∃ t, exec (.bar4Read off 512) s = .next t ∧
        t.out.readEnd = .ok ∧ t.out.readData = if s.valid id then s.payload id else List.replicate 512 0) ∧
      (isHbm id = true → (s.stack (lineStack id)).health = .failed → ∃ t, exec (.bar4Read off 512) s = .next t ∧
        t.out.readEnd = .poisoned ∧ t.out.readData = [] ∧ t.mem.status.bits.getLsbD 2 = true ∧
        t.lnk.pci.aer = s.lnk.pci.aer ||| 0x1000) ∧
      (data.length = 512 → (∀ c ∈ s.flight, c.opcode ≠ 0x4A) → ∃ t, exec (.bar4Write off data) s = .next t ∧
        (t.desc h).map (·.2.writeGen) = some (d.writeGen + 1) ∧ (s.canonical = true → t.canonical = true) ∧
        (s.mem.heldWrites ≠ [] → t.bytes = s.bytes ∧
          t.mem.heldWrites = s.mem.heldWrites ++ [{ handle := h, offset := x, bytes := data, bar4 := true }]) ∧
        (s.mem.heldWrites = [] → sound → s.journaled + 3 < 1048576 →
          t.payload id = data ∧ t.valid id = true ∧ (∀ j, j ≠ id → t.payload j = s.payload j))))

/-- FILL and COPY (R211): every line that is no line of the destination's region holds what it held; and where no write fails
and the region's lines lie apart, a line that FILL writes whole holds the pattern, and with no memory error in the stores a line
that COPY writes holds what the source's line reads as. -/
def Obligations.MovesWriteTheirLines : Prop :=
  ∀ (q : Fin 64) (p : Packet) (s : State) (pl : Plan) (r : Res) (v : State) (i : Nat) (d : Desc),
    (∀ c ∈ s.flight, c.opcode ≠ 0x4A) →
    (SucceedsS q 0x11 p (planFill q p) s pl r v → s.desc (p.handle 16) = some (i, d) → 0 < p.num 26 6 →
      let off := p.num 20 6
      let last := (off + p.num 26 6 - 1) / 512
      ∃ t, exec (.fill q p) s = .next t ∧
        (∀ j, (∀ k, off / 512 ≤ k → k ≤ last → j ≠ s.lineOf i d k) → t.payload j = s.payload j) ∧
        (r.status = 0 → (∀ a b, a ≤ last → b ≤ last → s.lineOf i d a = s.lineOf i d b → a = b) →
          ∀ k, off ≤ 512 * k → 512 * k + 512 ≤ off + p.num 26 6 → t.payload (s.lineOf i d k) =
            (List.range 512).map fun b => patternByte (p.num 32 8) (p.num 40 1) (512 * k - off + b))) ∧
    (SucceedsS q 0x10 p (planCopy p) s pl r v → s.desc (p.handle 26) = some (i, d) → 0 < p.num 36 6 →
      let n := p.num 36 6 / 512
      let dst := fun k => s.lineOf i d (p.num 30 6 / 512 + k)
      ∃ t, exec (.copy q p) s = .next t ∧
        (∀ j, (∀ k, k < n → j ≠ dst k) → t.payload j = s.payload j) ∧
        ∀ m e, s.desc (p.handle 16) = some (m, e) →
          let src := fun k => s.lineOf m e (p.num 20 6 / 512 + k)
          r.status = 0 → s.store.faults = [] → s.store.crcXor = [] → s.store.sram = [] → (∀ a b, a < n → b < n → dst a = dst b → a = b) →
          (∀ a b, a < n → b < n → src a ≠ dst b) →
          ∀ k, k < n → t.payload (dst k) = if s.valid (src k) then s.payload (src k) else List.replicate 512 0)

/-- R142, R144, R148, R149, R153, maintenance that finds faults: a scrub slot reads one line and moves on, with the interval
last written, and writes back a line whose wrong symbols lie in one burst; a die is localised where its erasure, and no other
die's, gives what the line's CRC word covers, and the line is uncorrectable where none or several do; an interface that is lost
leaves a FAILED stack; and a channel whose corrected bursts in a second exceed the threshold has a window booked. None of it
writes to what the lines hold. When a scrub slot falls, and when an evaluation, is the model's reading (logs 43 and 44). -/
def Obligations.MemoryIsPatrolled : Prop :=
  ∀ (k : Fin 12) (c : Fin 16) (n : Nat) (s : State), s.clocked = true → 4 ≤ s.ups.stage →
    let v := s.stack k
    let id := hbmLine k n
    let next := hbmLine k v.scrubLine
    (s.mem.ctrl.getLsbD 1 = true → v.trained = true → v.health ≠ .failed → s.scrubSlot k = true → v.lastScrub ≠ some s.tim.now →
      s.lets (scrub k) → ∃ t, exec (.scrubSlot k) s = .next t ∧ (t.stack k).scrubLine = (v.scrubLine + 1) % linesPerStack ∧
        (t.stack k).lastScrub = some s.tim.now ∧ t.mem.scrubNow = max 500 s.mem.scrubInterval ∧ t.bytes = s.bytes ∧
        (∀ b, v.scrubLine < dataLines → v.health = .healthy → s.mem.ctrl.getLsbD 0 = false →
          (∀ f ∈ s.faultsOf next, symbolBurst f.1 f.2.1 = b) → wrongWords (t.faultsOf next) = [])) ∧
    (s.mem.ctrl.getLsbD 1 = false ∨ s.scrubSlot k = false ∨ v.lastScrub = some s.tim.now → s.mem.journalOver = false →
      exec (.scrubSlot k) s = .next s) ∧
    (n < dataLines → v.trained = true → v.health = .healthy → v.poisoned n = false →
      decodePlain id (s.faultsOf id) = .uncorrectable →
      ∃ t, exec (.dieLocalisation k n) s = .next t ∧ t.bytes = s.bytes ∧
        match (List.range 8).filter fun die => (candidate id s die).isSome with
        | [die] => (t.stack k).health = .degraded ∧ (t.stack k).failedDie = some die ∧ t.mem.status.bits.getLsbD 1 = true
        | _ => (t.stack k).health ≠ .degraded ∧ (t.stack k).poisoned n = true) ∧
    (v.health ≠ .failed → s.mem.heldWrites = [] → ∃ t, exec (.stackInterfaceLoss k) s = .next t ∧ (t.stack k).health = .failed ∧
      (t.stack k).offline = none ∧ t.mem.status.bits.getLsbD 2 = true ∧ t.bytes = s.bytes) ∧
    (tget 0 v.evaluated c + 1000000000 ≤ s.tim.now → ∃ t, exec (.retrainEvaluation k c) s = .next t ∧
      tget 0 (t.stack k).evaluated c = s.tim.now ∧ tget 0 (t.stack k).burstCe c = 0 ∧ t.bytes = s.bytes ∧
      (s.mem.ctrl.getLsbD 2 = true → v.health ≠ .degraded → v.health ≠ .failed → max 1 s.mem.retrainThresh < tget 0 v.burstCe c →
        t.windowBooked k c = true) ∧
      (s.mem.ctrl.getLsbD 2 = false ∨ tget 0 v.burstCe c ≤ max 1 s.mem.retrainThresh → t.sched = s.sched)) ∧
    (s.tim.now < tget 0 v.evaluated c + 1000000000 → exec (.retrainEvaluation k c) s = .next s)

/-- R149 to R152, a retrain window: it starts where no channel is offline and its stack is HEALTHY; the channel returns within
50 ms, with its repair counted, and its groups are rebuilt; a channel that does not return is recorded failed and its stack is
DEGRADED; and with the rebuild over the stack is HEALTHY, unless the rebuild has failed it. No line's contents change where no
write was held back. -/
def Obligations.RetrainWindowsRun : Prop :=
  ∀ (k : Fin 12) (c : Fin 16) (r : Option Repair) (lo hi : Margin) (s : State), s.clocked = true →
    let v := s.stack k
    let calm := s.flight = [] ∧ s.mem.heldWrites = []
    (v.booked.contains c.val = true → s.noneOffline = true → v.health = .healthy → v.trained = true →
      ∃ t, exec (.retrainWindow k c) s = .next t ∧ (t.stack k).offline = some c.val ∧ (t.stack k).offlineAt = s.tim.now ∧
        (t.stack k).health = .retraining ∧ t.bytes = s.bytes) ∧
    (v.booked.contains c.val = true → s.noneOffline = false → s.flight = [] → exec (.retrainWindow k c) s = .next s) ∧
    (v.offline = some c.val → v.health = .retraining → s.tim.now ≤ v.offlineAt + 50000000 → calm →
      ∃ t, exec (.channelReturn k r lo hi) s = .next t ∧ (t.stack k).offline = none ∧ (t.stack k).rebuilding = some c.val ∧
        (t.stack k).health = .retraining ∧ (t.stack k).journal = v.journal ∧
        (t.stack k).pprUsed = (if r.isSome then min 255 (v.pprUsed + 1) else v.pprUsed) ∧ t.bytes = s.bytes) ∧
    (v.offline = some c.val → v.offlineAt + 50000000 ≤ s.tim.now → s.mem.heldWrites = [] → ∃ t, exec (.channelOfflineLimit k) s = .next t ∧
      (t.stack k).health = .degraded ∧ (t.stack k).failedChan = some c.val ∧ (t.stack k).offline = none ∧
      (t.stack k).journal = [] ∧ t.bytes = s.bytes) ∧
    (v.rebuilding = some c.val → v.health = .retraining → v.offline = none → ∃ t, exec (.rebuildComplete k) s = .next t ∧
      t.bytes = s.bytes ∧
      ((t.stack k).health = .healthy ∧ (t.stack k).rebuilding = none ∧ (t.stack k).journal = [] ∨ (t.stack k).health = .failed))

/-- R171 to R187, the placer: PLACE takes the lowest free index under that index's next tag, and with no affinity and not to be
resident the lowest base that is clear of everything held, on all the stacks that can take it, rotated by the PLACEs so far. A released
handle whose users and copy have ended is gone from the map, and its RELEASE
completes; while an earlier command or a write held back names it, it stays. A migration that was stopped goes on once both its
locations are ready; a copy that finishes leaves its handle LIVE at the new location under this epoch, and the handle's size,
generation and name as they were. A round boundary retires what was marked, gives each group's spare to the lowest retired home of the
group and to none where the spare itself is retired (R181), and with migration enabled and none under way takes handles of DEGRADED
stacks in descending traffic, within the budget but for the first, to stacks that can take them (R186). -/
def Obligations.HandlesMoveAndGo : Prop :=
  ∀ (h : BitVec 32) (c : InFlight) (m : Migration) (d : Desc) (s : State), s.powered = true →
    (∀ (q : Fin 64) (p : Packet) (pl : Plan) (r : Res) (v : State), SucceedsS q 0x12 p (planPlace p) s pl r v →
      (s.plc.map.map (·.1)).Pairwise (· < ·) →
      ∃ t i e, exec (.place q p) s = .next t ∧ tfind s.plc.map i = none ∧ (∀ j, j < i → (tfind s.plc.map j).isSome = true) ∧
        tfind t.plc.map i = some e ∧ (∀ j, j ≠ i → tfind t.plc.map j = tfind s.plc.map j) ∧
        e.handle = BitVec.ofNat 32 (nextTag (tget 0 s.plc.tags i) * 65536 + i) ∧ tget 0 t.plc.tags i = nextTag (tget 0 s.plc.tags i) ∧
        e.state = .live ∧ e.size = p.num 16 8 ∧ e.writeGen = 0 ∧ e.epoch = s.plc.epoch ∧ t.plc.placed = s.plc.placed + 1 ∧
        (bit (p.num 27 1) 0 = false → p.num 43 1 = 0 →
          let set := (List.range 12).filter s.eligible
          let n := cdiv (cdiv (p.num 16 8) 512) set.length
          let clear := fun (b : Nat) => b + n ≤ dataLines ∧ ∀ x ∈ s.holdings, (∃ k ∈ (x.1.span x.2).1, k ∈ set) →
            b + n ≤ (x.1.span x.2).2.1 ∨ (x.1.span x.2).2.2 ≤ b
          ∃ base, e.location = .across set (s.plc.placed % set.length) base ∧ clear base ∧ ∀ b, b < base → ¬clear b)) ∧
    (s.flight.find? (fun e => e.wait == .released h) = some c →
      ((∀ e ∈ s.flight, e.id < c.id → h ∉ e.named) → (∀ w ∈ s.mem.heldWrites, w.handle ≠ h) →
        s.plc.current.map (·.index) ≠ some (h.toNat % 65536) →
        (∀ e ∈ s.plc.taken, e.1 ≠ h.toNat % 65536) → s.clocked = true → s.lets (releaseFree h) → ∃ t, exec (.releaseFree h) s = .next t ∧
          tfind t.plc.map (h.toNat % 65536) = none ∧ t.live h = false ∧ c.id ∉ t.flight.map (·.id)) ∧
      ((∃ e ∈ s.flight, e.id < c.id ∧ h ∈ e.named) ∨ (∃ w ∈ s.mem.heldWrites, w.handle = h) → s.mem.journalOver = false →
        exec (.releaseFree h) s = .next s)) ∧
    (s.plc.current = some m → tfind s.plc.map m.index = some d →
      (m.stopped = true → 4 ≤ s.ups.stage → s.locationReady d.location = true → s.locationReady m.newLoc = true →
        exec .migrationResume s = .next { s with plc := { s.plc with current := some { m with stopped := false } } }) ∧
      (m.stopped = true → s.mem.journalOver = false → exec .migrationCopy s = .next s) ∧
      (m.stopped = false → s.plc.taken = [] → s.lets migrationCopy → ∃ t u, exec .migrationCopy s = .next t ∧ t.plc.current = none ∧
        tfind t.plc.map m.index = some u ∧ u.location = m.newLoc ∧ u.epoch = t.plc.epoch ∧
        u.state = (if d.state = .releasing then .releasing else .live) ∧ u.size = d.size ∧ u.writeGen = d.writeGen ∧ u.handle = d.handle)) ∧
    (let t := roundBoundary s
     let moving := (t.plc.current.toList.map fun x => (x.index, x.newLoc)) ++ t.plc.taken
     let budget := max 1 (bits s.plc.migBudget.toNat 15 0) * 1000000000
     t.plc.marked = [] ∧ (∀ die pos, pos < 100 → (t.retired die pos = true ↔ s.retired die pos = true ∨
       ∃ x ∈ s.plc.marked, x.1 * 100 + x.2 = die * 100 + pos)) ∧
     ((s.plc.spares.map (·.1)).Pairwise (· < ·) → ∀ die g, die < 2 → g < 4 →
       (t.retired die (25 * g + 24) = true → tfind t.plc.spares (die * 4 + g) = none) ∧
       (t.retired die (25 * g + 24) = false →
         (∀ k, k < 24 → t.retired die (25 * g + k) = true → (∀ j, j < k → t.retired die (25 * g + j) = false) →
           tfind t.plc.spares (die * 4 + g) = stakeAt die (25 * g + k)) ∧
         ((∀ k, k < 24 → t.retired die (25 * g + k) = false) → s.plc.ctrl.getLsbD 1 = false →
           tfind t.plc.spares (die * 4 + g) = tfind s.plc.spares (die * 4 + g)))) ∧
     (s.plc.ctrl.getLsbD 0 = false → t.plc.taken = s.plc.taken ∧ t.plc.current = s.plc.current ∧ t.plc.pendingMig = 0) ∧
     (s.plc.ctrl.getLsbD 0 = true → s.plc.current = none → s.plc.taken = [] →
       (∀ x ∈ moving, ∃ set rot base, x.2 = .across set rot base ∧ ∀ k ∈ set, s.eligible k = true) ∧
       ∃ l : List (Nat × Desc), l.map (·.1) = moving.map (·.1) ∧ (∀ x ∈ l, x ∈ s.plc.map ∧ s.migratable x.2 = true) ∧
         l.Pairwise (fun x y => min 4294967295 (tget 0 s.plc.running y.1) ≤ min 4294967295 (tget 0 s.plc.running x.1)) ∧
         (l.map (·.2.size)).sum ≤ max budget ((l.head?.map (·.2.size)).getD 0)))

/-! ### Waits, hangs and ports -/

/-- Events that end a wait: at the end of a vector's holdoff one message leaves for what it held, and starts the next holdoff,
or the vector's pending bit is set where it is masked or MSI-X is not enabled (R342); a hang sets its sequencer's bit and freezes the
device (R215); the dump's bytes are written to the handle that holds it (R307); a window passed without its transfer ends the command
with WINDOW_MISSED and tells the rim (R260); a drain starts once no earlier command writes its sources, one to another member
when its window allows, each entry of it as a transfer to DST in REMOTE_HANDLE (R244). A transfer in its window: a reduction leaves in the
region what R234's tree makes of all the members' bundles; a broadcast sends the root's region to each other member and writes it on each
(R237), and where a field differs ends with VALUE_INVALID; a send goes to where its packet says (R238); and a member that does not answer
ends a transfer, one under way too, with PEER_LOST (R239). How frames carry them is log 48 and log 66. -/
def Obligations.WaitsEnd : Prop :=
  ∀ (v : Fin 66) (n : Fin 4) (q : Fin 64) (o : Nat) (absent : List Nat) (c : InFlight) (s : State), s.clocked = true →
    (v.val ∈ s.lnk.held → tget 0 s.lnk.holdEnd v ≤ s.tim.now → ∃ t, exec (.msixHoldoffEnd v) s = .next t ∧ v.val ∉ t.lnk.held ∧
      (s.lnk.pci.msixEnable = true → tget 1 s.lnk.msix (v.val * 4 + 3) &&& 1 ≠ 1 → t.out.messages = s.out.messages ++ [v.val] ∧
        tget 0 t.lnk.holdEnd v = s.tim.now + 1000 * s.lnk.holdoff) ∧
      (s.lnk.pci.msixEnable = false ∨ tget 1 s.lnk.msix (v.val * 4 + 3) &&& 1 = 1 → t.out.messages = s.out.messages ∧ v.val ∈ t.lnk.msixPending)) ∧
    (v.val ∉ s.lnk.held ∨ s.tim.now < tget 0 s.lnk.holdEnd v → exec (.msixHoldoffEnd v) s = .next s) ∧
    (s.flight.any (fun e => e.seqr == n.val && decide (e.progress + 1000 * s.seq.wdog ≤ s.tim.now)) = true →
      s.seq.status.bits.getLsbD n = false → s.seq.frozen = false → ∃ t, exec (.seqWatchdog n) s = .next t ∧ t.seq.frozen = true ∧
        t.seq.freezeTime = s.tim.now ∧ t.seq.status.bits.getLsbD n = true ∧ t.trc.dumpWriting = (s.dumpFits || s.trc.dumpWriting) ∧
        (s.dumpFits = false → t.trc.status.bits.getLsbD 3 = true) ∧
        t.flight = s.flight ∧ ∀ r op i p, runsFrozen op = false → ∃ f, sequencerChecks r op i p t = some f) ∧
    (s.trc.dumpWriting = true → s.dumpFits = true → s.lets (dumpWrite none) →
      (writeBytes s.trc.dumpHandle 0 s.dump (tick s)).1 = none → ∃ t, exec (.dumpWrite none) s = .next t ∧
        t.trc.dumpWriting = false ∧ t.trc.dumpValid = true ∧ t.trc.status.bits.getLsbD 2 = true ∧
        ∀ i d, s.desc s.trc.dumpHandle = some (i, d) → (∀ a b, a < dumpBytes / 512 → b < dumpBytes / 512 → s.lineOf i d a = s.lineOf i d b → a = b) →
          ∀ k, k < dumpBytes / 512 → t.payload (s.lineOf i d k) = slice s.dump (512 * k) 512) ∧
    (s.trc.dumpWriting = true → s.dumpFits = false → s.mem.journalOver = false → ∃ t, exec (.dumpWrite none) s = .next t ∧
      t.trc.dumpWriting = false ∧ t.trc.status.bits.getLsbD 3 = true ∧ t.bytes = s.bytes) ∧
    (∀ inst, s.inflightAt q o = some c → c.wait = .exchange inst → c.opcode ≠ 0x4A → s.windowGone (c.packet.num 40 4) inst = true →
      s.lets (windowGraceExpiry q o absent) → ∃ t, exec (.windowGraceExpiry q o absent) s = .next t ∧ c.id ∉ t.flight.map (·.id) ∧
        t = sendRim (.report { seat := s.tim.seat, kind := .missed, round := s.tns.round, diverged := false, replayFailed := false, absent,
                               inst := c.wait.windowStart })
              (finishAs c.id 0x0502 0 (actingFor c (spoil c)
                (trace tCLUSTER 0 0x14 c.packet.layerId [s.tim.seat, 0, s.tns.round.toNat] s)))) ∧
    (∀ ab d inst, s.inflightAt q o = some c → c.wait = .drain false ab d inst → s.seq.frozen = false →
      (∀ e ∈ s.flight, e.id < c.id → ∀ w ∈ e.writes, w ∉ c.names) →
      let started := fun now => setInflight c.id fun e => { e with wait := .drain true ab d inst, progress := now }
      (d.member = none → s.mem.journalOver = false → exec (.drainStart q o none) s = .next (started s.tim.now s)) ∧
      ∀ seat port mac u, d.member = some seat → s.windowOpen d.window inst = true → s.lets (drainStart q o (some (port, mac))) →
        drainSend c port mac seat d.remote d.entries (acting c.packet.layerId s) = (none, u) →
        exec (.drainStart q o (some (port, mac))) s = .next (started s.tim.now (acting s.seq.acting u)) ∧
        (s.linked = true → ∃ ids : List Nat, ids.length = (d.entries.filter fun e => e.length ≠ 0).length ∧
          u.told = s.told ++ List.zipWith (fun n (e : DrainEntry) => .transfer n d.remote e.dst (512 * (e.length / 512)) 0) ids
            (d.entries.filter fun e => e.length ≠ 0))) ∧
    (∀ inst, s.inflightAt q o = some c → c.wait = .exchange inst → s.seq.frozen = false →
      s.windowOpen (c.packet.num 40 4) inst = true →
      let p := c.packet
      let own := (ownBytes p).run (acting p.layerId s)
      (∀ port mac b u, c.opcode = 0x40 → own = .ok b u → s.lets (transferStart q o (.send true port mac)) →
        exec (.transferStart q o (.send true port mac)) s = .next (acting s.seq.acting
          (doneWith c none (sendRegion c.id port mac (p.num 34 2) (p.handle 36) (p.num 46 6) (p.num 44 2) b u)))) ∧
      (∀ port mac, c.opcode = 0x40 → s.mem.journalOver = false → exec (.transferStart q o (.send false port mac)) s =
        .next (doneWith c (some { status := 0x011F, detail := p.num 36 4 }) s)) ∧
      (s.lets (transferStart q o .peerLost) → exec (.transferStart q o .peerLost) s = .next (actingFor c (failTransfer c 0x0503 0) s)) ∧
      (∀ g leaves b u die w l, c.opcode = 0x41 → s.group (p.num 34 2) = some g → own = .ok b u → (adderDie p).run u = .ok die w →
        orderLeaves g.ranks.length ((firstIdx (fun r => r == s.tim.seat) g.ranks).getD 0) b leaves = some l →
        s.lets (transferStart q o (.reduce leaves)) → ∃ t, exec (.transferStart q o (.reduce leaves)) s = .next t ∧
          t.bytes = (writeFrom die (p.handle 16) (p.num 20 6) (reduceBytes (p.num 32 1 % 16) (p.num 32 1 / 16)
            (if bit (p.num 33 1) 1 then some (f32 (p.num 36 4)) else none) (p.num 26 6) l) w).2.bytes ∧ w.bytes = s.bytes) ∧
      (∀ g x root off len bytes, c.opcode = 0x42 → s.group (p.num 34 2) = some g →
        (x = p.num 34 2 → root = p.num 36 2 % 4096 → off = p.num 20 6 → len = p.num 26 6 →
          s.lets (transferStart q o (.broadcast x root off len bytes)) →
          (∀ b u, g.ranks.getD root 0 = s.tim.seat → own = .ok b u → ∃ t,
            exec (.transferStart q o (.broadcast x root off len bytes)) s = .next t ∧ t.bytes = s.bytes ∧
            (s.linked = true → 0 < len → ∀ y ∈ g.ranks, y ≠ s.tim.seat →
              ∃ k ∈ t.lnk.conns, ∃ f ∈ k.unacked ++ k.waiting, f.cmd = c.id ∧ f.dstSeat = y ∧ f.xgroup = x)) ∧
          (∀ u v, g.ranks.getD root 0 ≠ s.tim.seat → readStaging.run (acting p.layerId s) = .ok u v → ∃ t,
            exec (.transferStart q o (.broadcast x root off len bytes)) s = .next t ∧ v.bytes = s.bytes ∧
            t.bytes = (writeBytes (p.handle 16) off (slice bytes 0 len) v).2.bytes)) ∧
        (¬(x = p.num 34 2 ∧ root = p.num 36 2 % 4096 ∧ off = p.num 20 6 ∧ len = p.num 26 6) → s.mem.journalOver = false →
          let k := if x ≠ p.num 34 2 then 34 else if root ≠ p.num 36 2 % 4096 then 36 else if off ≠ p.num 20 6 then 20 else 26
          exec (.transferStart q o (.broadcast x root off len bytes)) s = .next (doneWith c (some { status := 0x0107, detail := k }) s)))) ∧
    (s.inflightAt q o = some c → c.wait = .done → s.sending c.id = true → s.seq.frozen = false → s.lets (transferStart q o .peerLost) →
      exec (.transferStart q o .peerLost) s = .next (actingFor c (fun s => failTransfer c 0x0503 0 (dropFrames c.id s)) s))

/-- R345, R348: a port that has trained is in service on the lanes that trained, or down; a loss of lanes takes it to four lanes
with PORT_DEGRADED, or down with PORT_DOWN, and a SLAVE port that goes down is SLAVE no more; each keeps how long it has been in
service. That PORT_DOWN is set after a
training that no lane ends, and that such a port is PASSIVE, is the model's reading (log 47). -/
def Obligations.PortsTrainAndFail : Prop :=
  ∀ (p : Fin 12) (lanes : BitVec 8) (s : State), s.powered = true →
    (5 ≤ s.ups.stage → (s.port p).state = .training →
      exec (.linkTraining p lanes false) s = .next (s.setPort p { (s.port p).into .absent s.tim.now with lanes := 0 }) ∧
      ∃ t, exec (.linkTraining p lanes true) s = .next t ∧
        (lanesState lanes ≠ .down → t.port p = { (s.port p).into (lanesState lanes) s.tim.now with lanes } ∧
          (∀ r, r ≠ p.val → t.port r = s.port r)) ∧
        (lanesState lanes = .down → (t.port p).state = .down ∧ t.lnk.status.bits.getLsbD 0 = true) ∧
        (lanesState lanes = .low ∨ lanesState lanes = .high → t.lnk.status.bits.getLsbD 1 = true)) ∧
    (s.ups.stage < 5 ∨ (s.port p).state ≠ .training → ∀ b, exec (.linkTraining p lanes b) s = .next s) ∧
    ((s.port p).state.inService = true → lanesState lanes ≠ (s.port p).state → lanesState lanes ≠ .eight →
      ∃ t, exec (.linkPortDown p lanes) s = .next t ∧
        (lanesState lanes ≠ .down → t.port p = { (s.port p).into (lanesState lanes) s.tim.now with lanes } ∧
          t.lnk.status.bits.getLsbD 1 = true) ∧
        (lanesState lanes = .down → (t.port p).state = .down ∧ t.lnk.status.bits.getLsbD 0 = true ∧
          (t.port p).ptp = (if (s.port p).ptp = 2 then 3 else (s.port p).ptp))) ∧
    ((s.port p).state.inService = false ∨ lanesState lanes = (s.port p).state ∨ lanesState lanes = .eight → exec (.linkPortDown p lanes) s = .next s)

/-- R344, R346, R347: a whole DATA frame for the port with the expected SEQ is accepted, the next SEQ is expected and its
strands go where its transfer says; one ahead is not, and a NAK names the SEQ expected; what an ACK names is freed; a NAK has
the rest sent again from the SEQ that it names, as has 20 µs without progress, each frame with its own SEQ; an acknowledgement
leaves after 16 frames or 2 µs. A frame that is too long, tagged or damaged only counts, and one for another MAC or EtherType
has no effect but that it is counted. -/
def Obligations.FramesAreAcknowledged : Prop :=
  ∀ (p : Fin 12) (f : Frame) (mac : BitVec 48) (s : State), s.powered = true → 5 ≤ s.ups.stage → (s.port p).state.inService = true →
    s.mem.journalOver = false →
    let whole := f.length ≤ 8242 ∧ f.vlan = false ∧ f.fcsOk = true
    let ours := whole ∧ f.dstMac = s.portMac p ∧ f.etherType = 0x88B5
    let n := field f.header 1 1
    let c := s.conn p f.srcMac
    let acked := c.unacked.filter fun e => !seqLe e.seq (hdrAck f)
    let wire := fun (a : BitVec 48) (k : Nat) (e : TxFrame) => Sent.frame p (s.frameBytes p a
      (transportHeader s fDATA (e.payload.length / 512) e.dstSeat e.xgroup e.seq k e.transfer e.offset) e.payload)
    (¬whole → ∃ t, exec (.dataFrame p f) s = .next t ∧ exec (.ackFrame p f) s = .next t ∧ exec (.nakFrame p f) s = .next t ∧
      t = count 3 p 4 1 (count 3 p 1 1 s)) ∧
    (whole → ¬ours → ∃ t, exec (.dataFrame p f) s = .next t ∧ exec (.ackFrame p f) s = .next t ∧ exec (.nakFrame p f) s = .next t ∧
      t = count 3 p 1 1 s) ∧
    (ours → frameOk s fDATA f = true → 1 ≤ n → n ≤ 16 → f.payload.length = 512 * n →
      (hdrSeq f = c.expected → s.lets (dataFrame p f) →
        ∃ t v, exec (.dataFrame p f) s = .next t ∧ (t.conn p f.srcMac).expected = (c.expected + 1) % 2 ^ 32 ∧
          (t.conn p f.srcMac).seat = field f.header 2 2 ∧ v.bytes = s.bytes ∧
          (f.dest = none → t.bytes = v.bytes) ∧
          ∀ d, f.dest = some d → s.live d.handle = true → d.base + d.length ≤ s.handleSize d.handle →
            field f.header 24 6 + f.payload.length ≤ d.length →
            t.bytes = (writeBytes d.handle (d.base + field f.header 24 6) f.payload v).2.bytes) ∧
      (seqLe (hdrSeq f) c.expected = false → exec (.dataFrame p f) s =
        .next (sendCtl fNAK p f.srcMac (field f.header 2 2) c.expected (count 3 p 1 1 s))) ∧
      (seqLe (hdrSeq f) c.expected = true → hdrSeq f ≠ c.expected → exec (.dataFrame p f) s = .next (count 3 p 1 1 s))) ∧
    (ours → frameOk s fACK f = true → c.waiting = [] → ∃ t, exec (.ackFrame p f) s = .next t ∧ (t.conn p f.srcMac).unacked = acked ∧
      t.out.sent = s.out.sent ∧ (acked.length ≠ c.unacked.length → (t.conn p f.srcMac).resends = 0)) ∧
    (ours → frameOk s fNAK f = true → c.waiting = [] → c.resends < 8 → ∃ t, exec (.nakFrame p f) s = .next t ∧
      (t.conn p f.srcMac).unacked = acked ∧
      t.out.sent = s.out.sent ++ (acked.filter fun e => seqLe (hdrSeq f) e.seq).map (wire f.srcMac c.ackSeq)) ∧
    (let e := s.conn p mac
     (e.sinceAck ≠ 0 → 16 ≤ e.sinceAck ∨ e.firstAt + 2000 ≤ s.tim.now →
        exec (.ackTimer p mac) s = .next (sendCtl fACK p mac e.seat e.ackSeq s)) ∧
     (e.sinceAck = 0 → exec (.ackTimer p mac) s = .next s) ∧
     (∀ x, e.unacked.head? = some x → e.lastAckAt + 20000 ≤ s.tim.now → e.resends < 8 → ∃ t, exec (.resendTimer p mac) s = .next t ∧
        (t.conn p mac).resends = e.resends + 1 ∧ (t.conn p mac).unacked = e.unacked ∧
        t.out.sent = s.out.sent ++ (e.unacked.filter fun y => seqLe x.seq y.seq).map (wire mac e.ackSeq)) ∧
     (e.unacked = [] ∨ s.tim.now < e.lastAckAt + 20000 → exec (.resendTimer p mac) s = .next s))

/-! ### Bring-up, the ledger and trust -/

/-- R280, UPSETT: each stage is entered once the one before has exited. U1 boots the next image where it verifies, else the
other one with FW_FALLBACK, and fails with code 1 where no image does; U3 fails where neither die is ready; U4 takes the six
pairs in order and exits with the last; U5 starts the enabled ports; U6 is full service; reduced service starts once U3 has
exited and a die serves, where UPS_CFG allows it; and a stage past its limit that has not exited fails with code 4. The numbers
of the bridges, the health at U4 and a stage at exactly its limit are the model's readings (logs 42 and 43). -/
def Obligations.BringUpRunsInOrder : Prop :=
  ∀ (s : State) (d0 d1 : DieResult) (k : Fin 6) (lo hi : StackResult),
    (s.mayEnter 1 = true → ∃ t, exec .upsettU1 s = .next t ∧ t.ups.stage = 1 ∧
      (imageFault s.sec (flashImage (s.sec.image s.sec.next)) = none → t.ups.done = true ∧ t.sec.running = s.sec.next) ∧
      (imageFault s.sec (flashImage (s.sec.image s.sec.next)) ≠ none → imageFault s.sec (flashImage (s.sec.image (!s.sec.next))) = none →
        t.ups.done = true ∧ t.sec.running = (!s.sec.next) ∧ t.sec.status.bits.getLsbD 2 = true) ∧
      (imageFault s.sec (flashImage s.sec.imageA) ≠ none → imageFault s.sec (flashImage s.sec.imageB) ≠ none →
        t.ups.failStage = 1 ∧ t.ups.failCode = 1 ∧ t.ups.done = false)) ∧
    (s.mayEnter 2 = true → ∃ t, exec .upsettU2 s = .next t ∧ t.ups.stage = 2 ∧
      (s.lgr.load = none → t.ups.failStage = 2 ∧ t.ups.failCode = 2 ∧ t.ups.done = false) ∧
      (s.lgr.load ≠ none → t.ups.done = true)) ∧
    (s.mayEnter 3 = true → ∃ t, exec (.upsettU3 d0 d1) s = .next t ∧ t.ups.stage = 3 ∧
      t.ups.dieReady = BitVec.ofNat 2 (b2n (dieOk d0 (d0.weaveFailed ++ d1.weaveFailed)) +
        2 * b2n (dieOk d1 (d0.weaveFailed ++ d1.weaveFailed))) ∧
      (t.ups.dieReady = 0 → t.ups.failStage = 3 ∧ t.ups.failCode = 3) ∧ (t.ups.dieReady ≠ 0 → t.ups.done = true)) ∧
    (s.mayEnter 4 = true → s.ups.pairs = [] → ∃ t, exec (.upsettU4 0 lo hi) s = .next t ∧ t.ups.stage = 4 ∧ t.ups.pairs = [0]) ∧
    (s.clocked = true → s.failed = false → s.ups.stage = 4 → s.ups.pairs.length = k.val → ∃ t, exec (.upsettU4 k lo hi) s = .next t ∧
      t.ups.pairs = s.ups.pairs ++ [k.val] ∧ t.ups.stage = 4 ∧ (k.val = 5 → t.ups.done = true)) ∧
    (s.mayEnter 5 = true → ∃ t, exec .upsettU5 s = .next t ∧ t.ups.stage = 5 ∧ t.tim.role = s.roleSetting ∧
      ∀ p, p < 12 → (t.port p).state = if s.lnk.portEn.getLsbD p then .training else .disabled) ∧
    (s.clocked = true → s.failed = false → s.ups.quiesce = none → s.ups.stage = 5 → s.ups.exited = true ∨ s.u5Exit = true →
      (s.whole = true → ∃ t, exec .upsettU6 s = .next t ∧ t.ups.stage = 6 ∧ t.ups.service = 2 ∧ t.ups.status.bits.getLsbD 2 = true) ∧
      (s.whole = false → exec .upsettU6 s = .next s)) ∧
    (s.clocked = true → s.ups.quiesce = none → s.ups.service = 0 → s.ups.stage < 6 → s.ups.cfgNow.getLsbD 4 = true →
      4 ≤ s.ups.stage → s.dieServes 0 = true ∨ s.dieServes 1 = true → ∃ t, exec .reducedService s = .next t ∧ t.ups.service = 1 ∧
        t.ups.stage = s.ups.stage ∧ t.ups.status.bits.getLsbD 1 = true ∧ t.tns.rsSeed = s.ups.rsSeedNow) ∧
    (s.clocked = true → s.failed = false → s.ups.stage < 6 →
      (s.ups.enteredAt + stageLimitMs s.ups.stage * 1000000 < s.tim.now → s.ups.stage < 5 ∨ s.ups.exited = false ∧ s.u5Exit = false → ∃ t, exec .stageLimit s = .next t ∧ t.ups.failStage = s.ups.stage ∧ t.ups.failCode = 4 ∧ t.ups.done = false) ∧
      (s.tim.now ≤ s.ups.enteredAt + stageLimitMs s.ups.stage * 1000000 → exec .stageLimit s = .next s))

/-- R309 to R313, R325: an append is programmed in the order of appending, under the next sequence number and chained to the
record before it, and what it records takes effect then and not before; a block that the flash fails, which is a free value (log
28), is retired and the append waits; one without room is held. Compaction leaves the journal empty and its sequence and chain as they were; once an hour of
service the totals are appended, and while appends are held they merge into the one pending record of their type; and a trace's
summary takes one record in each of its intervals, keeps 256, and touches only its spill region. -/
def Obligations.LedgerIsChained : Prop :=
  ∀ (a : Append) (rest : List Append) (s : State), s.powered = true →
    (∀ typ payload e, ∃ l, append typ payload e s = { s with lgr := { s.lgr with appends := l } }) ∧
    (s.lgr.appends = a :: rest → s.lgr.state ≠ .notLoaded → s.lgr.state ≠ .held → s.lets (fun s => recordProgrammed s.programFails s) →
      ∃ t, exec .recordProgrammed s = .next t ∧
      (s.programFails = false → s.journalFits (s.nextRecord a) = true → ∃ v, t = applyEffect a.effect v ∧
        v.lgr.appends = rest ∧ v.lgr.lastSeq = (s.lgr.lastSeq + 1) % 2 ^ 32 ∧ v.lgr.journal = s.lgr.journal ++ [s.nextRecord a] ∧
        (s.nextRecord a).seq = v.lgr.lastSeq ∧ v.lgr.chain = (s.nextRecord a).chain ∧
        (s.nextRecord a).chain = (s.nextRecord a).chained (slice s.lgr.chain 0 16) ∧ (s.nextRecord a).crc = (s.nextRecord a).check) ∧
      (s.programFails = true → t.lgr.appends = s.lgr.appends ∧ t.lgr.journal = s.lgr.journal ∧
        ∀ b, s.headBlock = some b → b ∈ t.lgr.bad ∧ t.lgr.status.bits.getLsbD 2 = true) ∧
      (s.programFails = false → s.journalFits (s.nextRecord a) = false →
        t.lgr.state = .held ∧ t.lgr.status.bits.getLsbD 1 = true ∧ t.lgr.journal = s.lgr.journal ∧ t.lgr.appends = s.lgr.appends.foldl addHeld [])) ∧
    (s.mem.journalOver = false → s.lgr.appends = [] ∨ s.lgr.state = .held → exec .recordProgrammed s = .next s) ∧
    (2 ≤ s.ups.stage → s.compactionDue = true → exec .ledgerCompaction s = .next (compact s) ∧ (compact s).lgr.journal = [] ∧
      (compact s).lgr.lastSeq = s.lgr.lastSeq ∧ (compact s).lgr.chain = s.lgr.chain ∧ (compact s).lgr.appends = s.lgr.appends ∧
      (compact s).lgr.state = .inOrder) ∧
    (s.ups.service ≠ 0 → s.lgr.hourAt + 3600000000000 ≤ s.tim.now → ∃ t, exec .ledgerHourly s = .next t ∧
      t.lgr.hourAt = s.tim.now ∧ t.mem.strandFails = [] ∧
      let pending := fun typ => s.lgr.state == .held && s.lgr.appends.any fun b => b.typ == typ && b.effect == .nothing
      t.lgr.appends.length = s.lgr.appends.length + (if pending rLIFETIME then 0 else 1) + (if pending rERROR_TOTALS then 0 else 1)) ∧
    (s.ups.service = 0 ∨ s.tim.now < s.lgr.hourAt + 3600000000000 → exec .ledgerHourly s = .next s) ∧
    (s.trc.running = true → s.lets summaryInterval →
      let e := s.newSummary s.trc.summaryUs
      ((∀ l, s.trc.summary.getLast? = some l → l.start < e.start) → ∃ t, exec .traceSummaryInterval s = .next t ∧
        t.trc.summary = (s.trc.summary ++ [e]).drop (s.trc.summary.length + 1 - 256) ∧
        (s.trc.spill = none → t.bytes = s.bytes) ∧
        ∀ h off len i d, s.trc.spill = some (h, off, len) → s.desc h = some (i, d) →
          ∀ j, (∀ k, off / 512 ≤ k → k ≤ (off + 32 * s.trc.records.length) / 512 → j ≠ s.lineOf i d k) → t.payload j = s.payload j) ∧
      (∀ l, s.trc.summary.getLast? = some l → e.start ≤ l.start → exec .traceSummaryInterval s = .next s))

/-- R322, R324, R332, SPDM: before the negotiation only the version, the capabilities and the algorithms are answered; every
response is signed under the alias key; at most 8 sessions are open, each until its end, its transport's loss or 60 s without a
heartbeat, and the bindings made under it are withdrawn with it. No step opens a ninth session. Codes are log 30. -/
def Obligations.SessionsAreServed : Prop :=
  State.reset.sec.sessions = [] ∧
  (∀ s t : State, s.sec.sessions.length ≤ 8 → step s = .next t → t.sec.sessions.length ≤ 8) ∧
  ∀ (m : Medium) (a : SpdmAlgorithms) (slot : Fin 8) (i : BitVec 8) (id : BitVec 32) (r : Requester) (x : Session) (s : State),
    s.answers = true →
    let signed := fun (b : List Byte) => b ++ Config.signature s.sec.aliasKey b
    (∀ code b, (respond m code b s).out.sent = s.out.sent ++ [.spdm m code (signed b)]) ∧
    (∃ t, exec (.getVersion m) s = .next t ∧ m ∉ t.sec.negotiated ∧ t.out.sent = s.out.sent ++ [.spdm m 0x04 (signed [0x12])]) ∧
    exec (.getCapabilities m) s = .next (respond m 0x61 [] s) ∧
    (a.ecdsaP521 = true → a.sha512 = true → a.secp521r1 = true → a.aes256gcm = true → ∃ t, exec (.negotiateAlgorithms m a) s = .next t ∧
      m ∈ t.sec.negotiated ∧ t.out.sent = s.out.sent ++ [.spdm m 0x63 (signed [])]) ∧
    (a.ecdsaP521 = false ∨ a.sha512 = false ∨ a.secp521r1 = false ∨ a.aes256gcm = false →
      exec (.negotiateAlgorithms m a) s = .next (respondError m 1 s)) ∧
    (m ∉ s.sec.negotiated → ∀ c ∈ [Instr.getDigests m, .getCertificate m slot, .challenge m slot, .getMeasurements m i,
      .keyExchange m id r], exec c s = .next (respondError m 4 s)) ∧
    (m ∈ s.sec.negotiated →
      exec (.getDigests m) s = .next (respond m 0x01 (sha512 s.chain) s) ∧
      exec (.getCertificate m slot) s = .next (if slot = 0 then respond m 0x02 s.chain s else respondError m 1 s) ∧
      exec (.challenge m slot) s = .next (if slot = 0 then respond m 0x03 (sha512 s.chain) s else respondError m 1 s) ∧
      (1 ≤ i.toNat → i.toNat ≤ 6 → exec (.getMeasurements m i) s = .next (respond m 0x60 (s.measurement i.toNat) s)) ∧
      (i = 0xFF → exec (.getMeasurements m i) s = .next (respond m 0x60 ((List.range 6).flatMap fun j => s.measurement (j + 1)) s)) ∧
      (s.sec.sessions.length < 8 → s.session id = none → ∃ t y, exec (.keyExchange m id r) s = .next t ∧
        t.sec.sessions = s.sec.sessions ++ [y] ∧ y.id = id ∧ y.requester = r ∧ y.finished = false) ∧
      (8 ≤ s.sec.sessions.length → exec (.keyExchange m id r) s = .next (respondError m 3 s))) ∧
    (s.session id = some x →
      (x.finished = false → ∃ t, exec (.finish id true) s = .next t ∧ t.session id = some { x with finished := true, lastBeat := s.tim.now }) ∧
      (x.finished = false → ∃ t, exec (.finish id false) s = .next t ∧ t.session id = none) ∧
      (x.finished = true →
        (∃ t, exec (.spdmHeartbeat id) s = .next t ∧ t.session id = some { x with lastBeat := s.tim.now }) ∧
        (x.lastBeat + 60000000000 ≤ s.tim.now → exec (.spdmHeartbeatMissed id) s = .next (closeSession id s)) ∧
        (s.tim.now < x.lastBeat + 60000000000 → exec (.spdmHeartbeatMissed id) s = .next s) ∧
        (∃ t, exec (.keyUpdate id) s = .next t ∧ t.session id = some { x with epochKeys := x.epochKeys + 1 }) ∧
        exec (.endSession id) s = .next (respond x.medium 0x6C [] (closeSession id s))) ∧
      exec (.sessionTransportFailure id) s = .next (closeSession id s)) ∧
    ((closeSession id s).session id = none ∧ ∀ q b, ((closeSession id s).queue q).binding = some b → b.session ≠ id)

/-- R343, MCTP and PLDM: each medium has its own EID; there are seven numeric and thirteen state sensors, which read the
registers they name; an unknown one has no reading; and events go to the receiver that has been set, by its medium and EID.
Codes are log 30. -/
def Obligations.ManagementIsAnswered : Prop :=
  ∀ (m : Medium) (eid : BitVec 8) (n : Nat) (s : State), s.answers = true →
    let reads := fun (k v : Nat) => exec (.getSensorReading m k) s = .next (pldm m 0x11 [0, v] s)
    (eid ≠ 0 → eid ≠ 255 → ∃ t, exec (.mctpControl (.setEid m eid)) s = .next t ∧ t.eid m = eid ∧
      (∀ o, o ≠ m → t.eid o = s.eid o) ∧ exec (.mctpControl (.getEid m)) t = .next (emit (.mctp m [0, eid.toNat]) t)) ∧
    (eid = 0 ∨ eid = 255 → exec (.mctpControl (.setEid m eid)) s = .next (emit (.mctp m [1]) s)) ∧
    exec (.mctpControl (.getMessageTypes m)) s = .next (emit (.mctp m [0, 4, 0, 1, 5, 6]) s) ∧
    exec (.getPdrRepositoryInfo m) s = .next (pldm m 0x50 [0, 20] s) ∧
    (1 ≤ n → n ≤ 20 → ∃ k, k ≤ 12 ∧ exec (.getPdr m n) s = .next (pldm m 0x51 [0, n, if n ≤ 7 then 2 else 4, k] s) ∧
      (if n ≤ 7 then (s.numericSensor k).isSome else (s.stateSensor k).isSome) = true) ∧
    (n = 0 ∨ 20 < n → exec (.getPdr m n) s = .next (pldm m 0x51 [0x82] s)) ∧
    reads 0 s.pwr.vin ∧ reads 1 s.pwr.input ∧ reads 2 s.pwr.cap ∧
    (∀ k, k < 4 → reads (3 + k) (s.thmMax / 256 ^ k % 256)) ∧
    (7 ≤ n → exec (.getSensorReading m n) s = .next (pldm m 0x11 [0x80] s)) ∧
    exec (.getStateSensorReadings m 0) s = .next (pldm m 0x21 [0, s.ups.service] s) ∧
    (1 ≤ n → n ≤ 12 → exec (.getStateSensorReadings m n) s = .next (pldm m 0x21 [0, (s.stack (n - 1)).health.code] s)) ∧
    (12 < n → exec (.getStateSensorReadings m n) s = .next (pldm m 0x21 [0x80] s)) ∧
    (∃ t, exec (.setEventReceiver m eid) s = .next t ∧ t.mctp.receiver = some (m, eid) ∧ t.mctp.events = s.mctp.events ∧
      t.out.sent = s.out.sent ++ [.pldm m 0x04 [0]] ∧
      (m = .pcie → (notify n t).out.sent = t.out.sent ++ [.event .pcie eid n]) ∧
      (m = .smbus → (notify n t).mctp.events = t.mctp.events ++ [n] ∧ (notify n t).mctp.alert = true) ∧
      ∀ e rest, s.mctp.events = e :: rest → (deliverEvent t).out.sent = t.out.sent ++ [.event m eid e] ∧ (deliverEvent t).mctp.events = rest ∧
        (deliverEvent t).mctp.alert = !rest.isEmpty)

/-- R330, R331, the recovery window: a chunk is programmed into slot A, and with LAST the slot is verified: one that verifies
boots in a cold reset, another is an error; a block of the ledger fills the window; a reseal, with a token that verifies and
names this device, keeps the snapshot slots and the records before the token's SEQ, appends an UPSETT record with code 2 and starts U2
again; and a write that does not set GO changes nothing. That the flash can fail (ERROR 3) and that a token verifies are free values,
log 29; that LAST_RESET then reads 2 is the model's choice, log 68. -/
def Obligations.RecoveryWindowServes : Prop :=
  ∀ (v : Word) (s : State), s.responds 0x00900020 = true →
    let mode := v.toNat / 2 % 4
    let chunk := v.toNat / 2 ^ 8 % 512
    (v.getLsbD 0 = false → exec (.recoveryProgram v) s = .next s ∧ exec (.recoveryLedgerRead v) s = .next s ∧
      exec (.recoveryReseal v) s = .next s) ∧
    (v.getLsbD 0 = true → mode = 0 → s.sec.recovery.serves ≠ 0 → chunk ≤ 383 →
      let img := programChunk s.sec.imageA chunk s.windowBytes
      ∃ t, exec (.recoveryProgram v) s = .next t ∧ t.sec.imageB = s.sec.imageB ∧
        (Config.programFails chunk s.freeCtr = true → t.sec.recovery.state = 3 ∧ t.sec.recovery.error = 3 ∧ t.sec.validA = false ∧
          t.ups = s.ups) ∧
        (Config.programFails chunk s.freeCtr = false → t.sec.imageA = img ∧
          (v.getLsbD 3 = false → t.sec.recovery.state = 2 ∧ t.sec.recovery.error = 0 ∧ t.ups = s.ups) ∧
          (v.getLsbD 3 = true → imageFault s.sec (flashImage img) = none →
            ColdStart 2 { s with sec := { s.sec with imageA := img, next := false } } t) ∧
          (v.getLsbD 3 = true → imageFault s.sec (flashImage img) ≠ none →
            t.sec.recovery.state = 3 ∧ t.sec.recovery.error = 1 ∧ t.ups = s.ups))) ∧
    (v.getLsbD 0 = true → mode = 0 → s.sec.recovery.serves = 0 ∨ 383 < chunk → exec (.recoveryProgram v) s = .next s) ∧
    (v.getLsbD 0 = true → mode = 1 → s.sec.recovery.serves = 2 → chunk ≤ 127 → ∃ t, exec (.recoveryLedgerRead v) s = .next t ∧
      t.windowBytes = s.lgr.block chunk ∧ t.sec.recovery.state = 2 ∧ t.lgr = s.lgr) ∧
    (v.getLsbD 0 = true → mode = 2 → s.sec.recovery.serves = 2 →
      (Config.resealToken s.windowBytes = none → exec (.recoveryReseal v) s = .next (setRecovery 3 2 s)) ∧
      (∀ id seq, Config.resealToken s.windowBytes = some (id, seq) → id ≠ s.id.deviceId.toNat →
        exec (.recoveryReseal v) s = .next (setRecovery 3 2 s)) ∧
      (∀ seq, Config.resealToken s.windowBytes = some (s.id.deviceId.toNat, seq) → ∃ t r, exec (.recoveryReseal v) s = .next t ∧
        t.ups.enteredAt = s.tim.now ∧ t.id = s.id ∧
        let kept := s.lgr.journal.filter fun r => r.seq < seq
        let before := (kept.getLast?.map (·.seq)).getD ((s.lgr.bestSlot.map (·.2.seq)).getD 0)
        let l := (reseal seq s).lgr
        l.journal = kept ++ [r] ∧ r.typ = 12 ∧ r.payload.take 2 = [2, 2] ∧ r.seq = (before + 1) % 2 ^ 32 ∧
        l.slot0 = s.lgr.slot0 ∧ l.slot1 = s.lgr.slot1 ∧
        (l.load ≠ none → t.ups.done = true ∧ t.ups.failStage = 0 ∧ t.sec.recovery.serves = 0) ∧
        (l.load = none → t.ups.failStage = 2 ∧ t.ups.failCode = 2 ∧ t.sec.recovery.serves = 2 ∧ t.lgr.journal = l.journal)))

/-! ### Arithmetic and replies -/

/-- R41: the maximum and the minimum return the other operand when exactly one is NaN, the canonical NaN when both are, and +0
for two zeros; otherwise the greater and the lesser, and for equal values one of the two. On the values of FP32 codes, with the
result's code. R208 with Table 2.11: a sum, difference, product and multiply-add is the exact value converted once, to the nearest value
where RNE rounds it; a quotient and a square root lies within one ulp, EXP, LOG and RSQRT within two ulp of FP32, and the elements of NORM,
SOFTMAX and LOSS within four, of a reference over the pairwise tree in W40. A SOFTMAX row of nothing but minus infinity gives zeros; a LOSS
row with target −1 is not counted, one with a target out of range is NaN. R209, R36: the scale and codes of a block of QUANT_STORE. -/
def Obligations.VectorValues : Prop :=
  (∀ (a : VecArgs) (r : Rnd) (x y z : Sys2Proof.Machine.Num) (l : List Nat) (sub : Nat), a.subop = sub →
    let code := vectorElem a r x y z l
    let once (v : Sys2Proof.Machine.Num) := code = (convert a.outFmt r v).code
    (sub = 0 → once (x.add y)) ∧ (sub = 1 → once (x.sub y)) ∧ (sub = 2 → once (x.mul y)) ∧ (sub = 3 → once ((x.mul y).add z)) ∧
    (sub = 11 → once x) ∧ (sub = 12 → once ((x.mul (f32 a.s0)).add (f32 a.s1))) ∧
    (∀ f, formatKind a.outFmt = some (.flt f) → (decodeFlt f code).isFin = true →
      (sub = 4 → withinUlps f 1 (decodeFlt f code) (quotNum x y) = true ∨ code = divFlt f r x y) ∧
      (sub = 5 → withinUlps f 1 (decodeFlt f code) (sqrtRef x) = true ∨ code = (convFlt f r (sqrtNum 80 x)).code)) ∧
    ∃ v, (sub = 6 → once v ∧ boundedBy 2 v (expRef x)) ∧ (sub = 7 → once v ∧ boundedBy 2 v (logRef x)) ∧
      (sub = 8 → once v ∧ boundedBy 2 v (rsqrtRef x))) ∧
  (∀ (f : Flt) (m n e d : Int) (fmt : Nat), formatKind fmt = some (.flt f) → f.hasInf = true →
    let whole := (convert fmt .rne (.fin m e)).code
    let part := divFlt f .rne (.fin m e) (.fin n d)
    ((decodeFlt f whole).isFin = true → f.nearest whole (decide (m < 0)) m.natAbs 1 e) ∧
    (n ≠ 0 → (decodeFlt f part).isFin = true →
      f.nearest part (decide (m < 0) != decide (n < 0)) m.natAbs n.natAbs (e - d))) ∧
  (∀ n, isqrt n * isqrt n ≤ n ∧ n < (isqrt n + 1) * (isqrt n + 1)) ∧
  (∀ a b c d : Sys2Proof.Machine.Num, sumW [a, b] = addW a b ∧ sumW [a, b, c] = addW (addW a b) c ∧
    sumW [a, b, c, d] = addW (addW a b) (addW c d)) ∧
  (∀ (a : VecArgs) (xs gs bs : List Sys2Proof.Machine.Num) (codes : List Nat) (i : Nat) (x : Sys2Proof.Machine.Num), xs[i]? = some x →
    let mean (l : List Sys2Proof.Machine.Num) := quotNum (sumW l) (.fin a.cols 0)
    let root (l : List Sys2Proof.Machine.Num) := rsqrtRef ((mean (l.map fun d => d.mul d)).add (f32 a.s0))
    let g := gs.getD i (.fin 1 0)
    ∃ v, (normRow a xs gs bs codes)[i]? = some v ∧
      (a.subop ≠ 1 → boundedBy 4 v (cut (((x.sub (.fin 0 0)).mul (root (xs.map fun y => y.sub (.fin 0 0)))).mul g))) ∧
      (a.subop = 1 → boundedBy 4 v ((cut (((x.sub (mean xs)).mul (root (xs.map fun y => y.sub (mean xs)))).mul g)).add
        (bs.getD i (.fin 0 0))))) ∧
  (∀ (a : VecArgs) (ts : List Sys2Proof.Machine.Num) (codes : List Nat) (i : Nat) (t : Sys2Proof.Machine.Num), ts[i]? = some t →
    ∃ v, (softmaxRow a ts codes)[i]? = some v ∧
      ((∀ u ∈ ts, u = .inf true) → v = .fin 0 0) ∧
      ((∃ u ∈ ts, u ≠ .inf true) → let part (u : Sys2Proof.Machine.Num) := expRef (u.sub (maxW ts))
        boundedBy 4 v (quotNum (part t) (sumW (ts.map fun u => w40 (toW40 (part u))))))) ∧
  (∀ (a : VecArgs) (xs ys : List Sys2Proof.Machine.Num) (target : Int) (codes : List Nat),
    (a.subop = 0 → lossRow a xs ys (-1) codes = none ∧
      (target < -1 ∨ a.cols ≤ target → lossRow a xs ys target codes = some .nan) ∧
      (0 ≤ target → target < a.cols → ∃ v, lossRow a xs ys target codes = some v ∧
        boundedBy 4 v ((logSumExp xs).sub (xs.getD target.toNat .nan)))) ∧
    (a.subop ≠ 0 → ∃ v, lossRow a xs ys target codes = some v ∧ boundedBy 4 v
      ((sumW ((List.zipWith (fun x y => x.sub y) xs ys).map fun d => w40 (toW40 (d.mul d)))).scale (-1)))) ∧
  (∀ (a : VecArgs) (xs ys : List (List Nat)), a.subop = 0 → (∀ y ∈ ys, decodeInt 32 (y.getD 0 0) = -1) → xs.length = ys.length →
    (lossCodes a xs ys).2 = 0 ∧ ∀ c ∈ (lossCodes a xs ys).1, c = 0) ∧
  (∀ (fmt : Nat) (ys : List (Sys2Proof.Machine.Num × Rnd)),
    let e := (quantBlock fmt ys).1
    (borderRung fmt = true → (∃ y ∈ ys, y.1.isFin = false) → quantBlock fmt ys = (255, ys.map fun _ => 0)) ∧
    ((∀ y ∈ ys, y.1.isFin = true) → (∃ top, largest (ys.map (·.1)) top ∧ scaleOf (emaxOf fmt) top e) ∧
      (quantBlock fmt ys).2 = ys.map fun y => (convert fmt y.2 (y.1.scale (127 - e))).code)) ∧
  ∀ x y : Sys2Proof.Machine.Num,
    (x = .nan → x.max y = y ∧ x.min y = y) ∧ (y = .nan → x.max y = x ∧ x.min y = x) ∧
    (x = .nan → y = .nan → toF32 (x.max y) = 0x7FC00000 ∧ toF32 (x.min y) = 0x7FC00000) ∧
    (x.isZero = true → y.isZero = true → toF32 (x.max y) = 0 ∧ toF32 (x.min y) = 0) ∧
    (x.lt y = true → x.max y = y ∧ x.min y = x) ∧ (y.lt x = true → x.max y = x ∧ x.min y = y) ∧
    (x.lt y = false → y.lt x = false → x ≠ .nan → y ≠ .nan → x.max y = x ∧ x.min y = x ∧ x.le y = true ∧ y.le x = true)

/-- R62: in raw integer mode a run's sum, over all its blocks, is the exact integer sum of its products, and its promotion is an
INT32 addition that saturates at the range limit and counts a saturation; the 28-position window flushes no product. R60: in full
service the promotion is one addition, rounded to the nearest W40 value. R126, R127: no two outputs of a chunk share an accumulator, and
INIT gives each output of a tile its initial value and no other accumulator one. R91, R102: the rung after a border overflow is the first
later one of the ladder that is no border-lane rung, after another cause the next, BF16 where there is none. R78 to R80: a block's two
exponents and its outliers. R226 to R229, R221: an element of MOMENTUM, ADAPTIVE and SIGN in the order of its operations, and the weight
and carry written, which together lie within one carry unit of the result. R234: the fixed tree of a reduction. -/
def Obligations.ArrayAndUpdateValues : Prop :=
  (∀ (index : Nat) (c : Chain) (x w : List (List Sys2Proof.Machine.Num × Nat)) (m e : Int),
    (List.zipWith (fun u v => blockSum false u.1 v.1 u.2 v.2) x w).foldl (fun t b => t.add b.sum) (w40 c.code.toNat) = .fin m e →
    let r := promote .wide index c x w
    r.j = c.j + 1 ∧ r.sats = c.sats ∧
      ((w40 r.code.toNat).isFin = true → fltW40.nearest r.code.toNat (decide (m < 0)) m.natAbs 1 e)) ∧
  (∀ (j : Job) (t : Tile) (r : Run) (m n k : Nat), t.cr0 ≤ t.r0 → t.r0 + t.rows ≤ t.cr0 + 1024 → t.cols ≤ 256 →
    let inside (m n : Nat) := t.r0 ≤ m ∧ m < t.r0 + t.rows ∧ t.c0 ≤ n ∧ n < t.c0 + t.cols
    (∀ m' n', inside m n → inside m' n' → t.key m n = t.key m' n' → m = m' ∧ n = n') ∧
    (inside m n → tget 0 (beginTile j t r).coil (t.key m n) = BitVec.ofNat 40 (j.init m n).code) ∧
    ((∀ m n, inside m n → k ≠ t.key m n) → tget 0 (beginTile j t r).coil k = tget 0 r.coil k) ∧
    tget 0 (beginTile j t r).lost t.p = 0 ∧
    (j.beta = none → (j.init m n).code = 0) ∧
    (∀ b, j.beta = some b → j.acc = .raw → (j.init m n).code = (convInt 32 .rne (((j.cs.getD m []).getD n (.fin 0 0)).mul b)).code)) ∧
  (∀ (j : Job) (r x : Nat) (before a b : List Nat), r ∉ before →
    (j.rungs = before ++ r :: x :: b → rungAfter j r = x) ∧ (j.rungs = before ++ [r] → rungAfter j r = 10) ∧
    ((∀ y ∈ a, borderRung y = true) →
      (j.rungs = before ++ r :: a ++ x :: b → borderRung x = false → rungAfterOverflow j r = x) ∧
      (j.rungs = before ++ r :: a → rungAfterOverflow j r = 10))) ∧
  (∀ (tau : Sys2Proof.Machine.Num) (ys : List Sys2Proof.Machine.Num), ys.length = 32 →
    let b := scaleBlock tau ys
    ((∃ y ∈ ys, y.isFin = false) → b = (255, 255, [])) ∧
    ((∀ y ∈ ys, y.isFin = true) →
      let h := mulF (mulF tau tau) (mulF (tree addF (.fin 0 0) (ys.map fun y => mulF y y)) (.fin 1 (-5)))
      let isOut (y : Sys2Proof.Machine.Num) := tau.isFin = true ∧ h.lt (mulF y y) = true
      (∃ top, largest ys top ∧ scaleOf 0 top b.2.1) ∧ (∃ top ins, (∀ y, y ∈ ins ↔ y ∈ ys ∧ ¬isOut y) ∧ largest ins top ∧ scaleOf 0 top b.1) ∧
      ∀ i y, ys[i]? = some y → ∀ c, (i, c) ∈ b.2.2 ↔ isOut y ∧ c = (convFlt fltBf16 .rne y).code)) ∧
  (∀ (a : UpdArgs) (w grad m v : Sys2Proof.Machine.Num),
    let g := mulF grad a.gscale
    let k := a.scalars
    let step (d : Sys2Proof.Machine.Num) := subF (subF w (mulF a.lr d)) (mulF (mulF a.lr a.wd) w)
    let nb (b : Sys2Proof.Machine.Num) := subF (.fin 1 0) b
    (a.rule = 0 → let m1 := addF (mulF a.b1 m) g
      a.element k w grad m v = (m1, v, step m1)) ∧
    (a.rule = 1 → let m1 := addF (mulF a.b1 m) (mulF (nb a.b1) g)
      let v1 := addF (mulF a.b2 v) (mulF (mulF (nb a.b2) g) g)
      let s := a.round - a.step0 + 1
      a.element k w grad m v =
        (m1, v1, step (divF (divF m1 (biasOf a.b1 s)) (addF (sqrtF (divF v1 (biasOf a.b2 s))) a.eps)))) ∧
    (a.rule = 2 → a.element k w grad m v = (addF (mulF a.b2 m) (mulF (nb a.b2) g), v,
      step (signOf (addF (mulF a.b1 m) (mulF (nb a.b1) g)))))) ∧
  (∀ (r : Rnd) (w t : Sys2Proof.Machine.Num) (c : Int),
    let x := t.add (.fin c (ulpExp fltBf16 w - 8))
    let written := decodeFlt fltBf16 (weightWrite r w c t).1
    let unit := ulpExp fltBf16 written - 8
    x.isFin = true → x.abs.le (maxBf16 false) = true →
      (((written.add (.fin (decodeInt 8 (weightWrite r w c t).2) unit)).sub x).abs.le (.fin 1 unit)) = true) ∧
  (∀ (bfmt tfmt : Nat) (scale : Option Sys2Proof.Machine.Num) (a b c d : Nat),
    let v (c : Nat) := decode bfmt c
    let node (x y : Sys2Proof.Machine.Num) := addF (toTransport tfmt x) (toTransport tfmt y)
    let root (x : Sys2Proof.Machine.Num) := (convert bfmt .rne (match scale with
      | some k => mulF x k
      | none => x)).code
    reduceElement bfmt tfmt scale [a, b] = root (node (v a) (v b)) ∧
    reduceElement bfmt tfmt scale [a, b, c] = root (node (node (v a) (v b)) (v c)) ∧
    reduceElement bfmt tfmt scale [a, b, c, d] = root (node (node (v a) (v b)) (node (v c) (v d)))) ∧
  ∀ (index : Nat) (c : Chain) (blocks : List (List Int × List Int)) (v : Int), v = decodeInt 32 (c.code.toNat % 2 ^ 32) →
    let ints (l : List Int) := l.map fun i => Sys2Proof.Machine.Num.fin i 0
    let exact := v + (blocks.map fun b => (List.zipWith (· * ·) b.1 b.2).sum).sum
    let r := promote .raw index c (blocks.map fun b => (ints b.1, 127)) (blocks.map fun b => (ints b.2, 127))
    r.lost = c.lost ∧ r.j = c.j + 1 ∧
      decodeInt 32 (r.code.toNat % 2 ^ 32) = max (-2147483648) (min 2147483647 exact) ∧
      r.sats = c.sats + (if exact < -2147483648 ∨ 2147483647 < exact then 1 else 0)

/-- R202: a command whose status is not 0, that asks for a reply, or whose opcode always replies, writes one at the completion tail with
the queue's phase; the tail moves on, and the phase inverts where it wraps to 0. A write that PCI Express fails in host memory, or the
store in device memory, loses the reply: the queue is disabled, CQ_ERR is set and the tail stays. A write of device memory that a full
retrain journal holds waits with its reply (R150). No other command writes one. -/
def Obligations.RepliesFillTheirRing : Prop :=
  ∀ (c : InFlight) (s : State), s.clocked = true → c.orphan = false →
    let v := s.queue c.queue
    let at_ := v.cqBase.toNat + 32 * v.cqTail
    let t := complete c s
    let tail := (v.cqTail + 1) % v.cqSize
    let moves := (t.queue c.queue).cqTail = tail ∧ (t.queue c.queue).phase = (if tail = 0 then !v.phase else v.phase)
    let lost := (t.queue c.queue).cqTail = v.cqTail ∧ (t.queue c.queue).enable = false ∧
      (t.queue c.queue).status.bits.getLsbD 2 = true
    let isReply (b : List Byte) := ∃ flags, bit flags 0 = v.phase ∧
      b = replyBytes c.packet.tag.toNat c.status.toNat flags c.round.toNat s.tim.now s.sampleIndex c.detail.toNat
    let wanted := c.status ≠ 0 ∨ c.packet.replyAlways = true ∨ (∃ i, opInfo c.opcode = some i ∧ i.reply = true)
    (wanted → v.loc = true → s.mem.heldWrites = [] → ∃ u b, u.store = s.store ∧ u.plc = s.plc ∧
      u.mem = s.unheld.mem ∧ isReply b ∧
      let w := writeBytes v.cqHandle at_ b u
      (w.2.mem.journalOver = false → t.store = w.2.store ∧ (w.1 = none → moves) ∧ (w.1 ≠ none → lost)) ∧
      (w.2.mem.journalOver = true → t.store = s.store ∧ (t.queue c.queue).cqTail = v.cqTail ∧ (t.queue c.queue).phase = v.phase ∧
        ∃ h, t.mem.heldWrites = [h] ∧ h.reply = some c.queue ∧ h.handle = v.cqHandle ∧ h.bytes = b)) ∧
    (wanted → v.loc = false →
      (s.hostFails at_ 32 = false → moves ∧ ∃ b, isReply b ∧ t.out.memory = putBytes s.out.memory at_ b) ∧
      (s.hostFails at_ 32 = true → lost ∧ t.out.memory = s.out.memory)) ∧
    (c.status = 0 → c.packet.replyAlways = false → (∀ i, opInfo c.opcode = some i → i.reply = false) →
      (t.queue c.queue).cqTail = v.cqTail ∧ t.out.memory = s.out.memory)
end

