-- ==== Sys2Proof/Laws/Tab.lean ====
section
/-! SUPPORT. Sparse tables and memories: an entry reads back as it was set, no other entry changes, and every operation keeps the
canonical form. -/

namespace Sys2Proof.Machine

variable {α : Type}

/-! ### Rising keys -/

theorem risingFrom_weaken {b c : Nat} {t : Tab α} (h : c ≤ b) (w : risingFrom (some b) t = true) : risingFrom (some c) t = true := by
  cases t with
  | nil => rfl
  | cons e t =>
    obtain ⟨k, a⟩ := e
    simp only [risingFrom, Bool.and_eq_true, decide_eq_true_eq] at w ⊢
    exact ⟨by omega, w.2⟩

theorem risingFrom_tail {b : Option Nat} {k : Nat} {a : α} {t : Tab α} (w : risingFrom b ((k, a) :: t) = true) :
    risingFrom (some k) t = true := by
  cases b with
  | none => exact w
  | some b => simp only [risingFrom, Bool.and_eq_true] at w; exact w.2

theorem risingFrom_none {b : Option Nat} {t : Tab α} (w : risingFrom b t = true) : risingFrom none t = true := by
  cases t with
  | nil => rfl
  | cons e t => exact risingFrom_tail w

/-! ### Reading after setting -/

theorem tfind_tinsert_self (t : Tab α) (k : Nat) (a : α) : tfind (tinsert t k a) k = some a := by
  induction t with
  | nil => simp [tinsert, tfind]
  | cons e t ih =>
    obtain ⟨j, b⟩ := e
    simp only [tinsert]
    split
    · simp [tfind]
    · split
      · simp [tfind]
      · rename_i h
        rw [tfind, if_neg (by omega), ih]

theorem tfind_tinsert_ne (t : Tab α) {k j : Nat} (a : α) (h : j ≠ k) : tfind (tinsert t k a) j = tfind t j := by
  induction t with
  | nil => simp [tinsert, tfind, h.symm]
  | cons e t ih =>
    obtain ⟨i, b⟩ := e
    simp only [tinsert]
    split
    · rw [tfind, if_neg (by omega)]
    · split
      · rename_i _ e
        rw [tfind, if_neg (by omega), tfind, if_neg (by omega)]
      · simp only [tfind, ih]

theorem tfind_terase_ne (t : Tab α) {k j : Nat} (h : j ≠ k) : tfind (terase t k) j = tfind t j := by
  induction t with
  | nil => rfl
  | cons e t ih =>
    obtain ⟨i, b⟩ := e
    simp only [terase]
    split
    · rw [tfind, if_neg (by omega), ih]
    · simp only [tfind, ih]

theorem tfind_terase_self (t : Tab α) (k : Nat) : tfind (terase t k) k = none := by
  induction t with
  | nil => rfl
  | cons e t ih =>
    obtain ⟨i, a⟩ := e
    simp only [terase]
    split
    · exact ih
    · rename_i e; rw [tfind, if_neg e]; exact ih

theorem tget_tset_ne [DecidableEq α] (d : α) (t : Tab α) {k j : Nat} (a : α) (h : j ≠ k) :
    tget d (tset d t k a) j = tget d t j := by
  unfold tget tset
  split
  · rw [tfind_terase_ne t h]
  · rw [tfind_tinsert_ne t a h]

theorem tget_tset_self [DecidableEq α] (d : α) (t : Tab α) (k : Nat) (a : α) : tget d (tset d t k a) k = a := by
  unfold tget tset
  split
  · rename_i e; rw [tfind_terase_self, e]; rfl
  · rw [tfind_tinsert_self]; rfl

/-- A table that is set at one key: what any key reads. -/
theorem tget_tset [DecidableEq α] (d : α) (t : Tab α) (k j : Nat) (a : α) :
    tget d (tset d t k a) j = if j = k then a else tget d t j := by
  split
  · rename_i e; subst e; exact tget_tset_self d t _ a
  · rename_i e; exact tget_tset_ne d t a e

/-! ### The canonical form -/

theorem risingFrom_terase {b : Option Nat} {t : Tab α} (w : risingFrom b t = true) (k : Nat) : risingFrom b (terase t k) = true := by
  induction t generalizing b with
  | nil => cases b <;> rfl
  | cons e t ih =>
    obtain ⟨i, a⟩ := e
    have w' := risingFrom_tail w
    simp only [terase]
    split
    · cases b with
      | none => exact risingFrom_none (ih w')
      | some b =>
        simp only [risingFrom, Bool.and_eq_true, decide_eq_true_eq] at w
        exact risingFrom_weaken (by omega) (ih w')
    · cases b with
      | none => exact ih w'
      | some b =>
        simp only [risingFrom, Bool.and_eq_true, decide_eq_true_eq] at w ⊢
        exact ⟨w.1, ih w'⟩

theorem risingFrom_tinsert {b : Option Nat} {t : Tab α} (w : risingFrom b t = true) (k : Nat) (a : α) (h : ∀ c, b = some c → c < k) :
    risingFrom b (tinsert t k a) = true := by
  induction t generalizing b with
  | nil =>
    cases b with
    | none => rfl
    | some b => simp [tinsert, risingFrom, h b rfl]
  | cons e t ih =>
    obtain ⟨i, c⟩ := e
    have w' := risingFrom_tail w
    simp only [tinsert]
    split
    · rename_i hk
      cases b with
      | none => simp [risingFrom, hk, w']
      | some b => simp [risingFrom, h b rfl, hk, w']
    · split
      · rename_i e; subst e
        cases b with
        | none => exact w'
        | some b => simp [risingFrom, h b rfl, w']
      · have r := ih w' (fun c e => by cases e; omega)
        cases b with
        | none => exact r
        | some b =>
          simp only [risingFrom, Bool.and_eq_true, decide_eq_true_eq] at w ⊢
          exact ⟨w.1, r⟩

theorem all_terase {p : Nat × α → Bool} {t : Tab α} (w : t.all p = true) (k : Nat) : (terase t k).all p = true := by
  induction t with
  | nil => rfl
  | cons e t ih =>
    obtain ⟨i, a⟩ := e
    simp only [List.all_cons, Bool.and_eq_true] at w
    simp only [terase]
    split
    · exact ih w.2
    · simp only [List.all_cons, Bool.and_eq_true]; exact ⟨w.1, ih w.2⟩

theorem all_tinsert {p : Nat × α → Bool} {t : Tab α} (w : t.all p = true) (k : Nat) (a : α) (h : p (k, a) = true) :
    (tinsert t k a).all p = true := by
  induction t with
  | nil => simp [tinsert, h]
  | cons e t ih =>
    obtain ⟨i, b⟩ := e
    simp only [List.all_cons, Bool.and_eq_true] at w
    simp only [tinsert]
    split
    · simp [h, w]
    · split
      · simp [h, w]
      · simp only [List.all_cons, Bool.and_eq_true]; exact ⟨w.1, ih w.2⟩

theorem tableWf_tset [DecidableEq α] (d : α) {t : Tab α} (w : tableWf d t = true) (k : Nat) (a : α) :
    tableWf d (tset d t k a) = true := by
  simp only [tableWf, Bool.and_eq_true] at w ⊢
  unfold tset
  split
  · exact ⟨risingFrom_terase w.1 k, all_terase w.2 k⟩
  · rename_i e
    exact ⟨risingFrom_tinsert w.1 k a (fun _ h => by cases h), all_tinsert w.2 k a (by simp [e])⟩

theorem tableWf_nil [DecidableEq α] (d : α) : tableWf d ([] : Tab α) = true := rfl

theorem risingFrom_filter {b : Option Nat} {t : Tab α} (w : risingFrom b t = true) (p : Nat × α → Bool) :
    risingFrom b (t.filter p) = true := by
  induction t generalizing b with
  | nil => cases b <;> rfl
  | cons e t ih =>
    obtain ⟨i, a⟩ := e
    have w' := risingFrom_tail w
    rw [List.filter_cons]
    split
    · cases b with
      | none => exact ih w'
      | some b =>
        simp only [risingFrom, Bool.and_eq_true, decide_eq_true_eq] at w ⊢
        exact ⟨w.1, ih w'⟩
    · cases b with
      | none => exact risingFrom_none (ih w')
      | some b =>
        simp only [risingFrom, Bool.and_eq_true, decide_eq_true_eq] at w
        exact risingFrom_weaken (by omega) (ih w')

theorem tableWf_filter [DecidableEq α] (d : α) {t : Tab α} (w : tableWf d t = true) (p : Nat × α → Bool) :
    tableWf d (t.filter p) = true := by
  simp only [tableWf, Bool.and_eq_true] at w ⊢
  refine ⟨risingFrom_filter w.1 p, ?_⟩
  simp only [List.all_eq_true, List.mem_filter] at w ⊢
  exact fun e h => w.2 e h.1

/-! ### Memories -/

theorem memory_wf_putBytes {cells : List Host.Cell} (w : Memory.wf cells = true) (key : Nat) (l : List Byte) :
    Memory.wf (putBytes cells key l) = true := by
  induction l generalizing cells key with
  | nil => exact w
  | cons b l ih => exact ih (tableWf_tset 0 w key b) (key + 1)

/-- A byte below or above the bytes written is as it was. -/
theorem tget_putBytes_out (cells : List Host.Cell) (key : Nat) (l : List Byte) {a : Nat} (h : a < key ∨ key + l.length ≤ a) :
    tget 0 (putBytes cells key l) a = tget 0 cells a := by
  induction l generalizing cells key with
  | nil => rfl
  | cons b l ih =>
    simp only [List.length_cons] at h
    rw [putBytes, ih _ _ (by omega), tget_tset_ne _ _ _ (by omega)]

/-- A byte written reads back. -/
theorem tget_putBytes_in (cells : List Host.Cell) (key : Nat) (l : List Byte) {i : Nat} (h : i < l.length) : tget 0 (putBytes cells key l) (key + i) = l[i] := by
  induction l generalizing cells key i with
  | nil => exact absurd h (Nat.not_lt_zero _)
  | cons b l ih =>
    rw [putBytes]
    cases i with
    | zero => rw [tget_putBytes_out _ _ _ (by omega)]; exact tget_tset_self 0 cells key b
    | succ i =>
      have := ih (tset 0 cells key b) (key + 1) (i := i) (by simpa using h)
      rw [show key + (i + 1) = key + 1 + i by omega, this]
      rfl

/-! ### Sets in rising order -/

theorem mem_sinsert (l : List Nat) (k j : Nat) : j ∈ sinsert l k ↔ j = k ∨ j ∈ l := by
  induction l with
  | nil => simp [sinsert]
  | cons i l ih =>
    simp only [sinsert]
    split
    · simp
    · split
      · rename_i e; subst e; simp
      · simp only [List.mem_cons, ih]; tauto

theorem mem_serase_ne (l : List Nat) {k j : Nat} (h : j ≠ k) : j ∈ serase l k ↔ j ∈ l := by
  induction l with
  | nil => simp [serase]
  | cons i l ih =>
    simp only [serase]
    split
    · rename_i e; subst e; simp [h]
    · simp [ih]

end Sys2Proof.Machine
end

