-- ==== Sys2Proof/Laws/Calm.lean ====
section
/-! SUPPORT. The memory's operations, interrupts, the trace, counters and the ledger leave the rest of the module alone: queues,
commands in flight, upsett, time, the rim, the schedule table, power, rounds and keys. -/

set_option Elab.async false

namespace Sys2Proof.Machine

/-- What they leave alone. -/
structure Calm where
  pending : List Instr
  pins : Pins
  id : IdBlock
  ups : Ups
  que : Que
  seq : Seq
  flight : List InFlight
  nextId : Nat
  tns : Tns
  coil : Tab (BitVec 40)
  tim : Tim
  rim : Rim
  sched : Tab Sched
  pwr : Pwr
  sec : Sec
deriving DecidableEq, Repr

def State.calm (s : State) : Calm :=
  ⟨s.pending, s.pins, s.id, s.ups, s.que, s.seq, s.flight, s.nextId, s.tns, s.coil, s.tim, s.rim, s.sched, s.pwr, s.sec⟩

@[simp] theorem calm_mk (pending freeCtr pins id ups que seq flight nextId store mem plc tns coil tim rim sched pwr lnk cnt
    trc lgr sec mctp out) :
    (State.mk pending freeCtr pins id ups que seq flight nextId store mem plc tns coil tim rim sched pwr lnk cnt trc lgr sec mctp
      out).calm = ⟨pending, pins, id, ups, que, seq, flight, nextId, tns, coil, tim, rim, sched, pwr, sec⟩ := rfl

@[simp] theorem calm_eta (s : State) : (⟨s.pending, s.pins, s.id, s.ups, s.que, s.seq, s.flight, s.nextId, s.tns, s.coil, s.tim, s.rim,
    s.sched, s.pwr, s.sec⟩ : Calm) = s.calm := rfl

@[simp] theorem calm_ite (c : Prop) [Decidable c] (a b : State) : (if c then a else b).calm = if c then a.calm else b.calm := by
  split <;> rfl

theorem foldl_calm {α : Type} (f : State → α → State) (h : ∀ s a, (f s a).calm = s.calm) (l : List α) (s : State) :
    (l.foldl f s).calm = s.calm := by
  induction l generalizing s with
  | nil => rfl
  | cons a l ih => rw [List.foldl_cons, ih, h]

@[simp] theorem sendMessage_calm (v : Nat) (s : State) :
    (sendMessage v s).calm = s.calm := by
  first
  | (simp [sendMessage, -List.reduceReplicate, foldl_calm]; done)
  | (simp only [sendMessage]; (repeat' split) <;> simp [-List.reduceReplicate, foldl_calm] <;> done)
  | (simp only [sendMessage]
     repeat' (split <;> (try (rename_i heq; first
       | (replace heq := (congrArg (fun x => (Prod.snd x).calm) heq).symm; simp [-List.reduceReplicate, foldl_calm] at heq)
  )))
     all_goals (first | (simp [-List.reduceReplicate, foldl_calm]; done) | (simp [*, -List.reduceReplicate, foldl_calm]; done) | (simp_all [-List.reduceReplicate, foldl_calm]; done)))
  | (simp only [sendMessage]
     refine foldl_calm _ (fun s a => ?_) _ _
     (repeat' split) <;> simp [-List.reduceReplicate, foldl_calm])
  | (simp only [sendMessage]
     (repeat' split) <;> first
       | (simp [-List.reduceReplicate, foldl_calm]; done)
       | (refine (foldl_calm _ (fun s a => ?_) _ _).trans ?_
          all_goals ((repeat' split) <;> simp [-List.reduceReplicate, foldl_calm])))

@[simp] theorem signalVector_calm (v : Nat) (s : State) :
    (signalVector v s).calm = s.calm := by
  first
  | (simp [signalVector, -List.reduceReplicate, foldl_calm]; done)
  | (simp only [signalVector]; (repeat' split) <;> simp [-List.reduceReplicate, foldl_calm] <;> done)
  | (simp only [signalVector]
     repeat' (split <;> (try (rename_i heq; first
       | (replace heq := (congrArg (fun x => (Prod.snd x).calm) heq).symm; simp [-List.reduceReplicate, foldl_calm] at heq)
  )))
     all_goals (first | (simp [-List.reduceReplicate, foldl_calm]; done) | (simp [*, -List.reduceReplicate, foldl_calm]; done) | (simp_all [-List.reduceReplicate, foldl_calm]; done)))
  | (simp only [signalVector]
     refine foldl_calm _ (fun s a => ?_) _ _
     (repeat' split) <;> simp [-List.reduceReplicate, foldl_calm])
  | (simp only [signalVector]
     (repeat' split) <;> first
       | (simp [-List.reduceReplicate, foldl_calm]; done)
       | (refine (foldl_calm _ (fun s a => ?_) _ _).trans ?_
          all_goals ((repeat' split) <;> simp [-List.reduceReplicate, foldl_calm])))

@[simp] theorem count_calm (set inst index n : Nat) (s : State) :
    (count set inst index n s).calm = s.calm := by
  first
  | (simp [count, -List.reduceReplicate, foldl_calm]; done)
  | (simp only [count]; (repeat' split) <;> simp [-List.reduceReplicate, foldl_calm] <;> done)
  | (simp only [count]
     repeat' (split <;> (try (rename_i heq; first
       | (replace heq := (congrArg (fun x => (Prod.snd x).calm) heq).symm; simp [-List.reduceReplicate, foldl_calm] at heq)
  )))
     all_goals (first | (simp [-List.reduceReplicate, foldl_calm]; done) | (simp [*, -List.reduceReplicate, foldl_calm]; done) | (simp_all [-List.reduceReplicate, foldl_calm]; done)))
  | (simp only [count]
     refine foldl_calm _ (fun s a => ?_) _ _
     (repeat' split) <;> simp [-List.reduceReplicate, foldl_calm])
  | (simp only [count]
     (repeat' split) <;> first
       | (simp [-List.reduceReplicate, foldl_calm]; done)
       | (refine (foldl_calm _ (fun s a => ?_) _ _).trans ?_
          all_goals ((repeat' split) <;> simp [-List.reduceReplicate, foldl_calm])))

@[simp] theorem tick_calm (s : State) :
    (tick s).calm = s.calm := by
  first
  | (simp [tick, -List.reduceReplicate, foldl_calm]; done)
  | (simp only [tick]; (repeat' split) <;> simp [-List.reduceReplicate, foldl_calm] <;> done)
  | (simp only [tick]
     repeat' (split <;> (try (rename_i heq; first
       | (replace heq := (congrArg (fun x => (Prod.snd x).calm) heq).symm; simp [-List.reduceReplicate, foldl_calm] at heq)
  )))
     all_goals (first | (simp [-List.reduceReplicate, foldl_calm]; done) | (simp [*, -List.reduceReplicate, foldl_calm]; done) | (simp_all [-List.reduceReplicate, foldl_calm]; done)))
  | (simp only [tick]
     refine foldl_calm _ (fun s a => ?_) _ _
     (repeat' split) <;> simp [-List.reduceReplicate, foldl_calm])
  | (simp only [tick]
     (repeat' split) <;> first
       | (simp [-List.reduceReplicate, foldl_calm]; done)
       | (refine (foldl_calm _ (fun s a => ?_) _ _).trans ?_
          all_goals ((repeat' split) <;> simp [-List.reduceReplicate, foldl_calm])))

@[simp] theorem traffic_calm (idx n : Nat) (s : State) :
    (traffic idx n s).calm = s.calm := by
  first
  | (simp [traffic, -List.reduceReplicate, foldl_calm]; done)
  | (simp only [traffic]; (repeat' split) <;> simp [-List.reduceReplicate, foldl_calm] <;> done)
  | (simp only [traffic]
     repeat' (split <;> (try (rename_i heq; first
       | (replace heq := (congrArg (fun x => (Prod.snd x).calm) heq).symm; simp [-List.reduceReplicate, foldl_calm] at heq)
  )))
     all_goals (first | (simp [-List.reduceReplicate, foldl_calm]; done) | (simp [*, -List.reduceReplicate, foldl_calm]; done) | (simp_all [-List.reduceReplicate, foldl_calm]; done)))
  | (simp only [traffic]
     refine foldl_calm _ (fun s a => ?_) _ _
     (repeat' split) <;> simp [-List.reduceReplicate, foldl_calm])
  | (simp only [traffic]
     (repeat' split) <;> first
       | (simp [-List.reduceReplicate, foldl_calm]; done)
       | (refine (foldl_calm _ (fun s a => ?_) _ _).trans ?_
          all_goals ((repeat' split) <;> simp [-List.reduceReplicate, foldl_calm])))

@[simp] theorem append_calm (typ : Nat) (payload : List Byte) (effect : Effect) (s : State) :
    (append typ payload effect s).calm = s.calm := by
  first
  | (simp [append, -List.reduceReplicate, foldl_calm]; done)
  | (simp only [append]; (repeat' split) <;> simp [-List.reduceReplicate, foldl_calm] <;> done)
  | (simp only [append]
     repeat' (split <;> (try (rename_i heq; first
       | (replace heq := (congrArg (fun x => (Prod.snd x).calm) heq).symm; simp [-List.reduceReplicate, foldl_calm] at heq)
  )))
     all_goals (first | (simp [-List.reduceReplicate, foldl_calm]; done) | (simp [*, -List.reduceReplicate, foldl_calm]; done) | (simp_all [-List.reduceReplicate, foldl_calm]; done)))
  | (simp only [append]
     refine foldl_calm _ (fun s a => ?_) _ _
     (repeat' split) <;> simp [-List.reduceReplicate, foldl_calm])
  | (simp only [append]
     (repeat' split) <;> first
       | (simp [-List.reduceReplicate, foldl_calm]; done)
       | (refine (foldl_calm _ (fun s a => ?_) _ _).trans ?_
          all_goals ((repeat' split) <;> simp [-List.reduceReplicate, foldl_calm])))

@[simp] theorem record_calm (typ : Nat) (payload : List Byte) (s : State) :
    (record typ payload s).calm = s.calm := by
  first
  | (simp [record, -List.reduceReplicate, foldl_calm]; done)
  | (simp only [record]; (repeat' split) <;> simp [-List.reduceReplicate, foldl_calm] <;> done)
  | (simp only [record]
     repeat' (split <;> (try (rename_i heq; first
       | (replace heq := (congrArg (fun x => (Prod.snd x).calm) heq).symm; simp [-List.reduceReplicate, foldl_calm] at heq)
  )))
     all_goals (first | (simp [-List.reduceReplicate, foldl_calm]; done) | (simp [*, -List.reduceReplicate, foldl_calm]; done) | (simp_all [-List.reduceReplicate, foldl_calm]; done)))
  | (simp only [record]
     refine foldl_calm _ (fun s a => ?_) _ _
     (repeat' split) <;> simp [-List.reduceReplicate, foldl_calm])
  | (simp only [record]
     (repeat' split) <;> first
       | (simp [-List.reduceReplicate, foldl_calm]; done)
       | (refine (foldl_calm _ (fun s a => ?_) _ _).trans ?_
          all_goals ((repeat' split) <;> simp [-List.reduceReplicate, foldl_calm])))

@[simp] theorem notify_calm (sensor : Nat) (s : State) :
    (notify sensor s).calm = s.calm := by
  first
  | (simp [notify, -List.reduceReplicate, foldl_calm]; done)
  | (simp only [notify]; (repeat' split) <;> simp [-List.reduceReplicate, foldl_calm] <;> done)
  | (simp only [notify]
     repeat' (split <;> (try (rename_i heq; first
       | (replace heq := (congrArg (fun x => (Prod.snd x).calm) heq).symm; simp [-List.reduceReplicate, foldl_calm] at heq)
  )))
     all_goals (first | (simp [-List.reduceReplicate, foldl_calm]; done) | (simp [*, -List.reduceReplicate, foldl_calm]; done) | (simp_all [-List.reduceReplicate, foldl_calm]; done)))
  | (simp only [notify]
     refine foldl_calm _ (fun s a => ?_) _ _
     (repeat' split) <;> simp [-List.reduceReplicate, foldl_calm])
  | (simp only [notify]
     (repeat' split) <;> first
       | (simp [-List.reduceReplicate, foldl_calm]; done)
       | (refine (foldl_calm _ (fun s a => ?_) _ _).trans ?_
          all_goals ((repeat' split) <;> simp [-List.reduceReplicate, foldl_calm])))

@[simp] theorem raiseMem_calm (b : Nat) (s : State) :
    (raiseMem b s).calm = s.calm := by
  first
  | (simp [raiseMem, -List.reduceReplicate, foldl_calm]; done)
  | (simp only [raiseMem]; (repeat' split) <;> simp [-List.reduceReplicate, foldl_calm] <;> done)
  | (simp only [raiseMem]
     repeat' (split <;> (try (rename_i heq; first
       | (replace heq := (congrArg (fun x => (Prod.snd x).calm) heq).symm; simp [-List.reduceReplicate, foldl_calm] at heq)
  )))
     all_goals (first | (simp [-List.reduceReplicate, foldl_calm]; done) | (simp [*, -List.reduceReplicate, foldl_calm]; done) | (simp_all [-List.reduceReplicate, foldl_calm]; done)))
  | (simp only [raiseMem]
     refine foldl_calm _ (fun s a => ?_) _ _
     (repeat' split) <;> simp [-List.reduceReplicate, foldl_calm])
  | (simp only [raiseMem]
     (repeat' split) <;> first
       | (simp [-List.reduceReplicate, foldl_calm]; done)
       | (refine (foldl_calm _ (fun s a => ?_) _ _).trans ?_
          all_goals ((repeat' split) <;> simp [-List.reduceReplicate, foldl_calm])))

@[simp] theorem raiseTrc_calm (b : Nat) (s : State) :
    (raiseTrc b s).calm = s.calm := by
  first
  | (simp [raiseTrc, -List.reduceReplicate, foldl_calm]; done)
  | (simp only [raiseTrc]; (repeat' split) <;> simp [-List.reduceReplicate, foldl_calm] <;> done)
  | (simp only [raiseTrc]
     repeat' (split <;> (try (rename_i heq; first
       | (replace heq := (congrArg (fun x => (Prod.snd x).calm) heq).symm; simp [-List.reduceReplicate, foldl_calm] at heq)
  )))
     all_goals (first | (simp [-List.reduceReplicate, foldl_calm]; done) | (simp [*, -List.reduceReplicate, foldl_calm]; done) | (simp_all [-List.reduceReplicate, foldl_calm]; done)))
  | (simp only [raiseTrc]
     refine foldl_calm _ (fun s a => ?_) _ _
     (repeat' split) <;> simp [-List.reduceReplicate, foldl_calm])
  | (simp only [raiseTrc]
     (repeat' split) <;> first
       | (simp [-List.reduceReplicate, foldl_calm]; done)
       | (refine (foldl_calm _ (fun s a => ?_) _ _).trans ?_
          all_goals ((repeat' split) <;> simp [-List.reduceReplicate, foldl_calm])))

@[simp] theorem raiseLnk_calm (b : Nat) (s : State) :
    (raiseLnk b s).calm = s.calm := by
  first
  | (simp [raiseLnk, -List.reduceReplicate, foldl_calm]; done)
  | (simp only [raiseLnk]; (repeat' split) <;> simp [-List.reduceReplicate, foldl_calm] <;> done)
  | (simp only [raiseLnk]
     repeat' (split <;> (try (rename_i heq; first
       | (replace heq := (congrArg (fun x => (Prod.snd x).calm) heq).symm; simp [-List.reduceReplicate, foldl_calm] at heq)
  )))
     all_goals (first | (simp [-List.reduceReplicate, foldl_calm]; done) | (simp [*, -List.reduceReplicate, foldl_calm]; done) | (simp_all [-List.reduceReplicate, foldl_calm]; done)))
  | (simp only [raiseLnk]
     refine foldl_calm _ (fun s a => ?_) _ _
     (repeat' split) <;> simp [-List.reduceReplicate, foldl_calm])
  | (simp only [raiseLnk]
     (repeat' split) <;> first
       | (simp [-List.reduceReplicate, foldl_calm]; done)
       | (refine (foldl_calm _ (fun s a => ?_) _ _).trans ?_
          all_goals ((repeat' split) <;> simp [-List.reduceReplicate, foldl_calm])))

@[simp] theorem traceWith_calm (typ sub source : Nat) (layer : BitVec 16) (payload : List Nat) (cls : Nat) (force : Bool) (s : State) :
    (traceWith typ sub source layer payload cls force s).calm = s.calm := by
  first
  | (simp [traceWith, -List.reduceReplicate, foldl_calm]; done)
  | (simp only [traceWith]; (repeat' split) <;> simp [-List.reduceReplicate, foldl_calm] <;> done)
  | (simp only [traceWith]
     repeat' (split <;> (try (rename_i heq; first
       | (replace heq := (congrArg (fun x => (Prod.snd x).calm) heq).symm; simp [-List.reduceReplicate, foldl_calm] at heq)
  )))
     all_goals (first | (simp [-List.reduceReplicate, foldl_calm]; done) | (simp [*, -List.reduceReplicate, foldl_calm]; done) | (simp_all [-List.reduceReplicate, foldl_calm]; done)))
  | (simp only [traceWith]
     refine foldl_calm _ (fun s a => ?_) _ _
     (repeat' split) <;> simp [-List.reduceReplicate, foldl_calm])
  | (simp only [traceWith]
     (repeat' split) <;> first
       | (simp [-List.reduceReplicate, foldl_calm]; done)
       | (refine (foldl_calm _ (fun s a => ?_) _ _).trans ?_
          all_goals ((repeat' split) <;> simp [-List.reduceReplicate, foldl_calm])))

@[simp] theorem trace_calm (typ sub source : Nat) (layer : BitVec 16) (payload : List Nat) (s : State) :
    (trace typ sub source layer payload s).calm = s.calm := by
  first
  | (simp [trace, -List.reduceReplicate, foldl_calm]; done)
  | (simp only [trace]; (repeat' split) <;> simp [-List.reduceReplicate, foldl_calm] <;> done)
  | (simp only [trace]
     repeat' (split <;> (try (rename_i heq; first
       | (replace heq := (congrArg (fun x => (Prod.snd x).calm) heq).symm; simp [-List.reduceReplicate, foldl_calm] at heq)
  )))
     all_goals (first | (simp [-List.reduceReplicate, foldl_calm]; done) | (simp [*, -List.reduceReplicate, foldl_calm]; done) | (simp_all [-List.reduceReplicate, foldl_calm]; done)))
  | (simp only [trace]
     refine foldl_calm _ (fun s a => ?_) _ _
     (repeat' split) <;> simp [-List.reduceReplicate, foldl_calm])
  | (simp only [trace]
     (repeat' split) <;> first
       | (simp [-List.reduceReplicate, foldl_calm]; done)
       | (refine (foldl_calm _ (fun s a => ?_) _ _).trans ?_
          all_goals ((repeat' split) <;> simp [-List.reduceReplicate, foldl_calm])))

@[simp] theorem modStack_calm (k : Nat) (f : Stack → Stack) (s : State) :
    (modStack k f s).calm = s.calm := by
  simp [modStack, State.setStack]

@[simp] theorem setHealth_calm (k : Nat) (h : Health) (s : State) :
    (setHealth k h s).calm = s.calm := by
  first
  | (simp [setHealth, -List.reduceReplicate, foldl_calm]; done)
  | (simp only [setHealth]; (repeat' split) <;> simp [-List.reduceReplicate, foldl_calm] <;> done)
  | (simp only [setHealth]
     repeat' (split <;> (try (rename_i heq; first
       | (replace heq := (congrArg (fun x => (Prod.snd x).calm) heq).symm; simp [-List.reduceReplicate, foldl_calm] at heq)
  )))
     all_goals (first | (simp [-List.reduceReplicate, foldl_calm]; done) | (simp [*, -List.reduceReplicate, foldl_calm]; done) | (simp_all [-List.reduceReplicate, foldl_calm]; done)))
  | (simp only [setHealth]
     refine foldl_calm _ (fun s a => ?_) _ _
     (repeat' split) <;> simp [-List.reduceReplicate, foldl_calm])
  | (simp only [setHealth]
     (repeat' split) <;> first
       | (simp [-List.reduceReplicate, foldl_calm]; done)
       | (refine (foldl_calm _ (fun s a => ?_) _ _).trans ?_
          all_goals ((repeat' split) <;> simp [-List.reduceReplicate, foldl_calm])))

@[simp] theorem failDie_calm (k d : Nat) (s : State) :
    (failDie k d s).calm = s.calm := by
  first
  | (simp [failDie, -List.reduceReplicate, foldl_calm]; done)
  | (simp only [failDie]; (repeat' split) <;> simp [-List.reduceReplicate, foldl_calm] <;> done)
  | (simp only [failDie]
     repeat' (split <;> (try (rename_i heq; first
       | (replace heq := (congrArg (fun x => (Prod.snd x).calm) heq).symm; simp [-List.reduceReplicate, foldl_calm] at heq)
  )))
     all_goals (first | (simp [-List.reduceReplicate, foldl_calm]; done) | (simp [*, -List.reduceReplicate, foldl_calm]; done) | (simp_all [-List.reduceReplicate, foldl_calm]; done)))
  | (simp only [failDie]
     refine foldl_calm _ (fun s a => ?_) _ _
     (repeat' split) <;> simp [-List.reduceReplicate, foldl_calm])
  | (simp only [failDie]
     (repeat' split) <;> first
       | (simp [-List.reduceReplicate, foldl_calm]; done)
       | (refine (foldl_calm _ (fun s a => ?_) _ _).trans ?_
          all_goals ((repeat' split) <;> simp [-List.reduceReplicate, foldl_calm])))

@[simp] theorem failFull_calm (k : Nat) (s : State) : (failFull k s).calm = s.calm := by
  simp only [failFull]; split <;> simp

@[simp] theorem leavePoison_calm (id : Nat) (s : State) : (leavePoison id s).calm = s.calm := by
  simp only [leavePoison]; split <;> simp

@[simp] theorem enterPoison_calm (k : Nat) (ranges : List (Nat × Nat)) (counted : Bool) (s : State) :
    (enterPoison k ranges counted s).calm = s.calm := by
  first
  | (simp [enterPoison, -List.reduceReplicate, foldl_calm]; done)
  | (simp only [enterPoison]; (repeat' split) <;> simp [-List.reduceReplicate, foldl_calm] <;> done)
  | (simp only [enterPoison]
     repeat' (split <;> (try (rename_i heq; first
       | (replace heq := (congrArg (fun x => (Prod.snd x).calm) heq).symm; simp [-List.reduceReplicate, foldl_calm] at heq)
  )))
     all_goals (first | (simp [-List.reduceReplicate, foldl_calm]; done) | (simp [*, -List.reduceReplicate, foldl_calm]; done) | (simp_all [-List.reduceReplicate, foldl_calm]; done)))
  | (simp only [enterPoison]
     refine foldl_calm _ (fun s a => ?_) _ _
     (repeat' split) <;> simp [-List.reduceReplicate, foldl_calm])
  | (simp only [enterPoison]
     (repeat' split) <;> first
       | (simp [-List.reduceReplicate, foldl_calm]; done)
       | (refine (foldl_calm _ (fun s a => ?_) _ _).trans ?_
          all_goals ((repeat' split) <;> simp [-List.reduceReplicate, foldl_calm])))

@[simp] theorem logCe_calm (id : Nat) (name : LineName) (codewords : Nat) (scrub : Bool) (s : State) :
    (logCe id name codewords scrub s).calm = s.calm := by
  first
  | (simp [logCe, -List.reduceReplicate, foldl_calm]; done)
  | (simp only [logCe]; (repeat' split) <;> simp [-List.reduceReplicate, foldl_calm] <;> done)
  | (simp only [logCe]
     repeat' (split <;> (try (rename_i heq; first
       | (replace heq := (congrArg (fun x => (Prod.snd x).calm) heq).symm; simp [-List.reduceReplicate, foldl_calm] at heq)
  )))
     all_goals (first | (simp [-List.reduceReplicate, foldl_calm]; done) | (simp [*, -List.reduceReplicate, foldl_calm]; done) | (simp_all [-List.reduceReplicate, foldl_calm]; done)))
  | (simp only [logCe]
     refine foldl_calm _ (fun s a => ?_) _ _
     (repeat' split) <;> simp [-List.reduceReplicate, foldl_calm])
  | (simp only [logCe]
     (repeat' split) <;> first
       | (simp [-List.reduceReplicate, foldl_calm]; done)
       | (refine (foldl_calm _ (fun s a => ?_) _ _).trans ?_
          all_goals ((repeat' split) <;> simp [-List.reduceReplicate, foldl_calm])))

@[simp] theorem correct_calm (id : Nat) (name : LineName) (codewords : Nat) (bursts : List Nat) (wrong : List (Nat × Byte)) (scrub : Bool) (s : State) :
    (correct id name codewords bursts wrong scrub s).calm = s.calm := by
  first
  | (simp [correct, -List.reduceReplicate, foldl_calm]; done)
  | (simp only [correct]; (repeat' split) <;> simp [-List.reduceReplicate, foldl_calm] <;> done)
  | (simp only [correct]
     repeat' (split <;> (try (rename_i heq; first
       | (replace heq := (congrArg (fun x => (Prod.snd x).calm) heq).symm; simp [-List.reduceReplicate, foldl_calm] at heq)
  )))
     all_goals (first | (simp [-List.reduceReplicate, foldl_calm]; done) | (simp [*, -List.reduceReplicate, foldl_calm]; done) | (simp_all [-List.reduceReplicate, foldl_calm]; done)))
  | (simp only [correct]
     refine foldl_calm _ (fun s a => ?_) _ _
     (repeat' split) <;> simp [-List.reduceReplicate, foldl_calm])
  | (simp only [correct]
     (repeat' split) <;> first
       | (simp [-List.reduceReplicate, foldl_calm]; done)
       | (refine (foldl_calm _ (fun s a => ?_) _ _).trans ?_
          all_goals ((repeat' split) <;> simp [-List.reduceReplicate, foldl_calm])))

@[simp] theorem traceSram_calm (p : SramPlace) (s : State) :
    (traceSram p s).calm = s.calm := by
  first
  | (simp [traceSram, -List.reduceReplicate, foldl_calm]; done)
  | (simp only [traceSram]; (repeat' split) <;> simp [-List.reduceReplicate, foldl_calm] <;> done)
  | (simp only [traceSram]
     repeat' (split <;> (try (rename_i heq; first
       | (replace heq := (congrArg (fun x => (Prod.snd x).calm) heq).symm; simp [-List.reduceReplicate, foldl_calm] at heq)
  )))
     all_goals (first | (simp [-List.reduceReplicate, foldl_calm]; done) | (simp [*, -List.reduceReplicate, foldl_calm]; done) | (simp_all [-List.reduceReplicate, foldl_calm]; done)))
  | (simp only [traceSram]
     refine foldl_calm _ (fun s a => ?_) _ _
     (repeat' split) <;> simp [-List.reduceReplicate, foldl_calm])
  | (simp only [traceSram]
     (repeat' split) <;> first
       | (simp [-List.reduceReplicate, foldl_calm]; done)
       | (refine (foldl_calm _ (fun s a => ?_) _ _).trans ?_
          all_goals ((repeat' split) <;> simp [-List.reduceReplicate, foldl_calm])))

@[simp] theorem meetSram_calm (p : SramPlace) (s : State) :
    (meetSram p s).2.calm = s.calm := by
  first
  | (simp [meetSram, -List.reduceReplicate, foldl_calm]; done)
  | (simp only [meetSram]; (repeat' split) <;> simp [-List.reduceReplicate, foldl_calm] <;> done)
  | (simp only [meetSram]
     repeat' (split <;> (try (rename_i heq; first
       | (replace heq := (congrArg (fun x => (Prod.snd x).calm) heq).symm; simp [-List.reduceReplicate, foldl_calm] at heq)
  )))
     all_goals (first | (simp [-List.reduceReplicate, foldl_calm]; done) | (simp [*, -List.reduceReplicate, foldl_calm]; done) | (simp_all [-List.reduceReplicate, foldl_calm]; done)))
  | (simp only [meetSram]
     refine foldl_calm _ (fun s a => ?_) _ _
     (repeat' split) <;> simp [-List.reduceReplicate, foldl_calm])
  | (simp only [meetSram]
     (repeat' split) <;> first
       | (simp [-List.reduceReplicate, foldl_calm]; done)
       | (refine (foldl_calm _ (fun s a => ?_) _ _).trans ?_
          all_goals ((repeat' split) <;> simp [-List.reduceReplicate, foldl_calm])))

@[simp] theorem clearSram_calm (p : SramPlace) (s : State) :
    (clearSram p s).calm = s.calm := by
  first
  | (simp [clearSram, -List.reduceReplicate, foldl_calm]; done)
  | (simp only [clearSram]; (repeat' split) <;> simp [-List.reduceReplicate, foldl_calm] <;> done)
  | (simp only [clearSram]
     repeat' (split <;> (try (rename_i heq; first
       | (replace heq := (congrArg (fun x => (Prod.snd x).calm) heq).symm; simp [-List.reduceReplicate, foldl_calm] at heq)
  )))
     all_goals (first | (simp [-List.reduceReplicate, foldl_calm]; done) | (simp [*, -List.reduceReplicate, foldl_calm]; done) | (simp_all [-List.reduceReplicate, foldl_calm]; done)))
  | (simp only [clearSram]
     refine foldl_calm _ (fun s a => ?_) _ _
     (repeat' split) <;> simp [-List.reduceReplicate, foldl_calm])
  | (simp only [clearSram]
     (repeat' split) <;> first
       | (simp [-List.reduceReplicate, foldl_calm]; done)
       | (refine (foldl_calm _ (fun s a => ?_) _ _).trans ?_
          all_goals ((repeat' split) <;> simp [-List.reduceReplicate, foldl_calm])))

@[simp] theorem journal_calm (k n : Nat) (s : State) :
    (journal k n s).calm = s.calm := by
  first
  | (simp [journal, -List.reduceReplicate, foldl_calm]; done)
  | (simp only [journal]; (repeat' split) <;> simp [-List.reduceReplicate, foldl_calm] <;> done)
  | (simp only [journal]
     repeat' (split <;> (try (rename_i heq; first
       | (replace heq := (congrArg (fun x => (Prod.snd x).calm) heq).symm; simp [-List.reduceReplicate, foldl_calm] at heq)
  )))
     all_goals (first | (simp [-List.reduceReplicate, foldl_calm]; done) | (simp [*, -List.reduceReplicate, foldl_calm]; done) | (simp_all [-List.reduceReplicate, foldl_calm]; done)))
  | (simp only [journal]
     refine foldl_calm _ (fun s a => ?_) _ _
     (repeat' split) <;> simp [-List.reduceReplicate, foldl_calm])
  | (simp only [journal]
     (repeat' split) <;> first
       | (simp [-List.reduceReplicate, foldl_calm]; done)
       | (refine (foldl_calm _ (fun s a => ?_) _ _).trans ?_
          all_goals ((repeat' split) <;> simp [-List.reduceReplicate, foldl_calm])))

@[simp] theorem markWritten_calm (k first count : Nat) (s : State) :
    (markWritten k first count s).calm = s.calm := by
  first
  | (simp [markWritten, -List.reduceReplicate, foldl_calm]; done)
  | (simp only [markWritten]; (repeat' split) <;> simp [-List.reduceReplicate, foldl_calm] <;> done)
  | (simp only [markWritten]
     repeat' (split <;> (try (rename_i heq; first
       | (replace heq := (congrArg (fun x => (Prod.snd x).calm) heq).symm; simp [-List.reduceReplicate, foldl_calm] at heq)
  )))
     all_goals (first | (simp [-List.reduceReplicate, foldl_calm]; done) | (simp [*, -List.reduceReplicate, foldl_calm]; done) | (simp_all [-List.reduceReplicate, foldl_calm]; done)))
  | (simp only [markWritten]
     refine foldl_calm _ (fun s a => ?_) _ _
     (repeat' split) <;> simp [-List.reduceReplicate, foldl_calm])
  | (simp only [markWritten]
     (repeat' split) <;> first
       | (simp [-List.reduceReplicate, foldl_calm]; done)
       | (refine (foldl_calm _ (fun s a => ?_) _ _).trans ?_
          all_goals ((repeat' split) <;> simp [-List.reduceReplicate, foldl_calm])))

@[simp] theorem writeCheck_calm (k n : Nat) (s : State) :
    (writeCheck k n s).calm = s.calm := by
  first
  | (simp [writeCheck, -List.reduceReplicate, foldl_calm]; done)
  | (simp only [writeCheck]; (repeat' split) <;> simp [-List.reduceReplicate, foldl_calm] <;> done)
  | (simp only [writeCheck]
     repeat' (split <;> (try (rename_i heq; first
       | (replace heq := (congrArg (fun x => (Prod.snd x).calm) heq).symm; simp [-List.reduceReplicate, foldl_calm] at heq)
  )))
     all_goals (first | (simp [-List.reduceReplicate, foldl_calm]; done) | (simp [*, -List.reduceReplicate, foldl_calm]; done) | (simp_all [-List.reduceReplicate, foldl_calm]; done)))
  | (simp only [writeCheck]
     refine foldl_calm _ (fun s a => ?_) _ _
     (repeat' split) <;> simp [-List.reduceReplicate, foldl_calm])
  | (simp only [writeCheck]
     (repeat' split) <;> first
       | (simp [-List.reduceReplicate, foldl_calm]; done)
       | (refine (foldl_calm _ (fun s a => ?_) _ _).trans ?_
          all_goals ((repeat' split) <;> simp [-List.reduceReplicate, foldl_calm])))

@[simp] theorem badCheck_calm (k n : Nat) (s : State) :
    (badCheck k n s).calm = s.calm := by
  first
  | (simp [badCheck, -List.reduceReplicate, foldl_calm]; done)
  | (simp only [badCheck]; (repeat' split) <;> simp [-List.reduceReplicate, foldl_calm] <;> done)
  | (simp only [badCheck]
     repeat' (split <;> (try (rename_i heq; first
       | (replace heq := (congrArg (fun x => (Prod.snd x).calm) heq).symm; simp [-List.reduceReplicate, foldl_calm] at heq)
  )))
     all_goals (first | (simp [-List.reduceReplicate, foldl_calm]; done) | (simp [*, -List.reduceReplicate, foldl_calm]; done) | (simp_all [-List.reduceReplicate, foldl_calm]; done)))
  | (simp only [badCheck]
     refine foldl_calm _ (fun s a => ?_) _ _
     (repeat' split) <;> simp [-List.reduceReplicate, foldl_calm])
  | (simp only [badCheck]
     (repeat' split) <;> first
       | (simp [-List.reduceReplicate, foldl_calm]; done)
       | (refine (foldl_calm _ (fun s a => ?_) _ _).trans ?_
          all_goals ((repeat' split) <;> simp [-List.reduceReplicate, foldl_calm])))

@[simp] theorem wrongCheck_calm (k n : Nat) (wrong : List (Nat × Byte)) (s : State) :
    (wrongCheck k n wrong s).calm = s.calm := by
  first
  | (simp [wrongCheck, -List.reduceReplicate, foldl_calm]; done)
  | (simp only [wrongCheck]; (repeat' split) <;> simp [-List.reduceReplicate, foldl_calm] <;> done)
  | (simp only [wrongCheck]
     repeat' (split <;> (try (rename_i heq; first
       | (replace heq := (congrArg (fun x => (Prod.snd x).calm) heq).symm; simp [-List.reduceReplicate, foldl_calm] at heq)
  )))
     all_goals (first | (simp [-List.reduceReplicate, foldl_calm]; done) | (simp [*, -List.reduceReplicate, foldl_calm]; done) | (simp_all [-List.reduceReplicate, foldl_calm]; done)))
  | (simp only [wrongCheck]
     refine foldl_calm _ (fun s a => ?_) _ _
     (repeat' split) <;> simp [-List.reduceReplicate, foldl_calm])
  | (simp only [wrongCheck]
     (repeat' split) <;> first
       | (simp [-List.reduceReplicate, foldl_calm]; done)
       | (refine (foldl_calm _ (fun s a => ?_) _ _).trans ?_
          all_goals ((repeat' split) <;> simp [-List.reduceReplicate, foldl_calm])))

@[simp] theorem readCheck_calm (k n : Nat) (scrub : Bool) (s : State) :
    (readCheck k n scrub s).2.calm = s.calm := by
  first
  | (simp [readCheck, -List.reduceReplicate, foldl_calm]; done)
  | (simp only [readCheck]; (repeat' split) <;> simp [-List.reduceReplicate, foldl_calm] <;> done)
  | (simp only [readCheck]
     repeat' (split <;> (try (rename_i heq; first
       | (replace heq := (congrArg (fun x => (Prod.snd x).calm) heq).symm; simp [-List.reduceReplicate, foldl_calm] at heq)
  )))
     all_goals (first | (simp [-List.reduceReplicate, foldl_calm]; done) | (simp [*, -List.reduceReplicate, foldl_calm]; done) | (simp_all [-List.reduceReplicate, foldl_calm]; done)))
  | (simp only [readCheck]
     refine foldl_calm _ (fun s a => ?_) _ _
     (repeat' split) <;> simp [-List.reduceReplicate, foldl_calm])
  | (simp only [readCheck]
     (repeat' split) <;> first
       | (simp [-List.reduceReplicate, foldl_calm]; done)
       | (refine (foldl_calm _ (fun s a => ?_) _ _).trans ?_
          all_goals ((repeat' split) <;> simp [-List.reduceReplicate, foldl_calm])))

@[simp] theorem setCache_calm (die : Nat) (l : List CheckLine) (s : State) :
    (setCache die l s).calm = s.calm := by
  first
  | (simp [setCache, -List.reduceReplicate, foldl_calm]; done)
  | (simp only [setCache]; (repeat' split) <;> simp [-List.reduceReplicate, foldl_calm] <;> done)
  | (simp only [setCache]
     repeat' (split <;> (try (rename_i heq; first
       | (replace heq := (congrArg (fun x => (Prod.snd x).calm) heq).symm; simp [-List.reduceReplicate, foldl_calm] at heq)
  )))
     all_goals (first | (simp [-List.reduceReplicate, foldl_calm]; done) | (simp [*, -List.reduceReplicate, foldl_calm]; done) | (simp_all [-List.reduceReplicate, foldl_calm]; done)))
  | (simp only [setCache]
     refine foldl_calm _ (fun s a => ?_) _ _
     (repeat' split) <;> simp [-List.reduceReplicate, foldl_calm])
  | (simp only [setCache]
     (repeat' split) <;> first
       | (simp [-List.reduceReplicate, foldl_calm]; done)
       | (refine (foldl_calm _ (fun s a => ?_) _ _).trans ?_
          all_goals ((repeat' split) <;> simp [-List.reduceReplicate, foldl_calm])))

@[simp] theorem meetCheck_calm (id : Nat) (s : State) : (meetCheck id s).2.calm = s.calm := by
  have h := meetSram_calm (.check id) s
  simp only [meetCheck]; split <;> rename_i e <;> rw [e] at h <;> simp [← h]

@[simp] theorem writeBack_calm (e : CheckLine) (s : State) : (writeBack e s).calm = s.calm := by
  have h := meetCheck_calm e.line s
  simp only [writeBack]
  split
  · split <;> rename_i g <;> rw [g] at h <;> simp_all
  · simp

@[simp] theorem evict_calm (die : Nat) (s : State) :
    (evict die s).calm = s.calm := by
  first
  | (simp [evict, -List.reduceReplicate, foldl_calm]; done)
  | (simp only [evict]; (repeat' split) <;> simp [-List.reduceReplicate, foldl_calm] <;> done)
  | (simp only [evict]
     repeat' (split <;> (try (rename_i heq; first
       | (replace heq := (congrArg (fun x => (Prod.snd x).calm) heq).symm; simp [-List.reduceReplicate, foldl_calm] at heq)
  )))
     all_goals (first | (simp [-List.reduceReplicate, foldl_calm]; done) | (simp [*, -List.reduceReplicate, foldl_calm]; done) | (simp_all [-List.reduceReplicate, foldl_calm]; done)))
  | (simp only [evict]
     refine foldl_calm _ (fun s a => ?_) _ _
     (repeat' split) <;> simp [-List.reduceReplicate, foldl_calm])
  | (simp only [evict]
     (repeat' split) <;> first
       | (simp [-List.reduceReplicate, foldl_calm]; done)
       | (refine (foldl_calm _ (fun s a => ?_) _ _).trans ?_
          all_goals ((repeat' split) <;> simp [-List.reduceReplicate, foldl_calm])))

@[simp] theorem useCheck_calm (k n : Nat) (write : Bool) (s : State) :
    (useCheck k n write s).2.calm = s.calm := by
  first
  | (simp [useCheck, -List.reduceReplicate, foldl_calm]; done)
  | (simp only [useCheck]; (repeat' split) <;> simp [-List.reduceReplicate, foldl_calm] <;> done)
  | (simp only [useCheck]
     repeat' (split <;> (try (rename_i heq; first
       | (replace heq := (congrArg (fun x => (Prod.snd x).calm) heq).symm; simp [-List.reduceReplicate, foldl_calm] at heq)
  )))
     all_goals (first | (simp [-List.reduceReplicate, foldl_calm]; done) | (simp [*, -List.reduceReplicate, foldl_calm]; done) | (simp_all [-List.reduceReplicate, foldl_calm]; done)))
  | (simp only [useCheck]
     refine foldl_calm _ (fun s a => ?_) _ _
     (repeat' split) <;> simp [-List.reduceReplicate, foldl_calm])
  | (simp only [useCheck]
     (repeat' split) <;> first
       | (simp [-List.reduceReplicate, foldl_calm]; done)
       | (refine (foldl_calm _ (fun s a => ?_) _ _).trans ?_
          all_goals ((repeat' split) <;> simp [-List.reduceReplicate, foldl_calm])))

@[simp] theorem localise_calm (id : Nat) (name : LineName) (s : State) :
    (localise id name s).2.calm = s.calm := by
  first
  | (simp [localise, -List.reduceReplicate, foldl_calm]; done)
  | (simp only [localise]; (repeat' split) <;> simp [-List.reduceReplicate, foldl_calm] <;> done)
  | (simp only [localise]
     repeat' (split <;> (try (rename_i heq; first
       | (replace heq := (congrArg (fun x => (Prod.snd x).calm) heq).symm; simp [-List.reduceReplicate, foldl_calm] at heq)
  )))
     all_goals (first | (simp [-List.reduceReplicate, foldl_calm]; done) | (simp [*, -List.reduceReplicate, foldl_calm]; done) | (simp_all [-List.reduceReplicate, foldl_calm]; done)))
  | (simp only [localise]
     refine foldl_calm _ (fun s a => ?_) _ _
     (repeat' split) <;> simp [-List.reduceReplicate, foldl_calm])
  | (simp only [localise]
     (repeat' split) <;> first
       | (simp [-List.reduceReplicate, foldl_calm]; done)
       | (refine (foldl_calm _ (fun s a => ?_) _ _).trans ?_
          all_goals ((repeat' split) <;> simp [-List.reduceReplicate, foldl_calm])))

@[simp] theorem uncorrectableLine_calm (id : Nat) (counted : Bool) (s : State) :
    (uncorrectableLine id counted s).calm = s.calm := by
  first
  | (simp [uncorrectableLine, -List.reduceReplicate, foldl_calm]; done)
  | (simp only [uncorrectableLine]; (repeat' split) <;> simp [-List.reduceReplicate, foldl_calm] <;> done)
  | (simp only [uncorrectableLine]
     repeat' (split <;> (try (rename_i heq; first
       | (replace heq := (congrArg (fun x => (Prod.snd x).calm) heq).symm; simp [-List.reduceReplicate, foldl_calm] at heq)
  )))
     all_goals (first | (simp [-List.reduceReplicate, foldl_calm]; done) | (simp [*, -List.reduceReplicate, foldl_calm]; done) | (simp_all [-List.reduceReplicate, foldl_calm]; done)))
  | (simp only [uncorrectableLine]
     refine foldl_calm _ (fun s a => ?_) _ _
     (repeat' split) <;> simp [-List.reduceReplicate, foldl_calm])
  | (simp only [uncorrectableLine]
     (repeat' split) <;> first
       | (simp [-List.reduceReplicate, foldl_calm]; done)
       | (refine (foldl_calm _ (fun s a => ?_) _ _).trans ?_
          all_goals ((repeat' split) <;> simp [-List.reduceReplicate, foldl_calm])))

@[simp] theorem patternFound_calm (id : Nat) (name : LineName) (s : State) :
    (patternFound id name s).2.calm = s.calm := by
  first
  | (simp [patternFound, -List.reduceReplicate, foldl_calm]; done)
  | (simp only [patternFound]; (repeat' split) <;> simp [-List.reduceReplicate, foldl_calm] <;> done)
  | (simp only [patternFound]
     repeat' (split <;> (try (rename_i heq; first
       | (replace heq := (congrArg (fun x => (Prod.snd x).calm) heq).symm; simp [-List.reduceReplicate, foldl_calm] at heq)
  )))
     all_goals (first | (simp [-List.reduceReplicate, foldl_calm]; done) | (simp [*, -List.reduceReplicate, foldl_calm]; done) | (simp_all [-List.reduceReplicate, foldl_calm]; done)))
  | (simp only [patternFound]
     refine foldl_calm _ (fun s a => ?_) _ _
     (repeat' split) <;> simp [-List.reduceReplicate, foldl_calm])
  | (simp only [patternFound]
     (repeat' split) <;> first
       | (simp [-List.reduceReplicate, foldl_calm]; done)
       | (refine (foldl_calm _ (fun s a => ?_) _ _).trans ?_
          all_goals ((repeat' split) <;> simp [-List.reduceReplicate, foldl_calm])))

@[simp] theorem decodeLine_calm (id : Nat) (name : LineName) (scrub : Bool) (s : State) :
    (decodeLine id name scrub s).2.calm = s.calm := by
  first
  | (simp [decodeLine, -List.reduceReplicate, foldl_calm]; done)
  | (simp only [decodeLine]; (repeat' split) <;> simp [-List.reduceReplicate, foldl_calm] <;> done)
  | (simp only [decodeLine]
     repeat' (split <;> (try (rename_i heq; first
       | (replace heq := (congrArg (fun x => (Prod.snd x).calm) heq).symm; simp [-List.reduceReplicate, foldl_calm] at heq)
  )))
     all_goals (first | (simp [-List.reduceReplicate, foldl_calm]; done) | (simp [*, -List.reduceReplicate, foldl_calm]; done) | (simp_all [-List.reduceReplicate, foldl_calm]; done)))
  | (simp only [decodeLine]
     refine foldl_calm _ (fun s a => ?_) _ _
     (repeat' split) <;> simp [-List.reduceReplicate, foldl_calm])
  | (simp only [decodeLine]
     (repeat' split) <;> first
       | (simp [-List.reduceReplicate, foldl_calm]; done)
       | (refine (foldl_calm _ (fun s a => ?_) _ _).trans ?_
          all_goals ((repeat' split) <;> simp [-List.reduceReplicate, foldl_calm])))

@[simp] theorem readLine_calm (id : Nat) (name : LineName) (s : State) :
    (readLine id name s).2.calm = s.calm := by
  first
  | (simp [readLine, -List.reduceReplicate, foldl_calm]; done)
  | (simp only [readLine]; (repeat' split) <;> simp [-List.reduceReplicate, foldl_calm] <;> done)
  | (simp only [readLine]
     repeat' (split <;> (try (rename_i heq; first
       | (replace heq := (congrArg (fun x => (Prod.snd x).calm) heq).symm; simp [-List.reduceReplicate, foldl_calm] at heq)
  )))
     all_goals (first | (simp [-List.reduceReplicate, foldl_calm]; done) | (simp [*, -List.reduceReplicate, foldl_calm]; done) | (simp_all [-List.reduceReplicate, foldl_calm]; done)))
  | (simp only [readLine]
     refine foldl_calm _ (fun s a => ?_) _ _
     (repeat' split) <;> simp [-List.reduceReplicate, foldl_calm])
  | (simp only [readLine]
     (repeat' split) <;> first
       | (simp [-List.reduceReplicate, foldl_calm]; done)
       | (refine (foldl_calm _ (fun s a => ?_) _ _).trans ?_
          all_goals ((repeat' split) <;> simp [-List.reduceReplicate, foldl_calm])))

@[simp] theorem reportUncorr_calm (name : LineName) (id : Nat) (s : State) :
    (reportUncorr name id s).2.calm = s.calm := by
  first
  | (simp [reportUncorr, -List.reduceReplicate, foldl_calm]; done)
  | (simp only [reportUncorr]; (repeat' split) <;> simp [-List.reduceReplicate, foldl_calm] <;> done)
  | (simp only [reportUncorr]
     repeat' (split <;> (try (rename_i heq; first
       | (replace heq := (congrArg (fun x => (Prod.snd x).calm) heq).symm; simp [-List.reduceReplicate, foldl_calm] at heq)
  )))
     all_goals (first | (simp [-List.reduceReplicate, foldl_calm]; done) | (simp [*, -List.reduceReplicate, foldl_calm]; done) | (simp_all [-List.reduceReplicate, foldl_calm]; done)))
  | (simp only [reportUncorr]
     refine foldl_calm _ (fun s a => ?_) _ _
     (repeat' split) <;> simp [-List.reduceReplicate, foldl_calm])
  | (simp only [reportUncorr]
     (repeat' split) <;> first
       | (simp [-List.reduceReplicate, foldl_calm]; done)
       | (refine (foldl_calm _ (fun s a => ?_) _ _).trans ?_
          all_goals ((repeat' split) <;> simp [-List.reduceReplicate, foldl_calm])))

@[simp] theorem reportCrc_calm (name : LineName) (detected lastGood : Nat) (source : Nat) (s : State) :
    (reportCrc name detected lastGood source s).2.calm = s.calm := by
  first
  | (simp [reportCrc, -List.reduceReplicate, foldl_calm]; done)
  | (simp only [reportCrc]; (repeat' split) <;> simp [-List.reduceReplicate, foldl_calm] <;> done)
  | (simp only [reportCrc]
     repeat' (split <;> (try (rename_i heq; first
       | (replace heq := (congrArg (fun x => (Prod.snd x).calm) heq).symm; simp [-List.reduceReplicate, foldl_calm] at heq)
  )))
     all_goals (first | (simp [-List.reduceReplicate, foldl_calm]; done) | (simp [*, -List.reduceReplicate, foldl_calm]; done) | (simp_all [-List.reduceReplicate, foldl_calm]; done)))
  | (simp only [reportCrc]
     refine foldl_calm _ (fun s a => ?_) _ _
     (repeat' split) <;> simp [-List.reduceReplicate, foldl_calm])
  | (simp only [reportCrc]
     (repeat' split) <;> first
       | (simp [-List.reduceReplicate, foldl_calm]; done)
       | (refine (foldl_calm _ (fun s a => ?_) _ _).trans ?_
          all_goals ((repeat' split) <;> simp [-List.reduceReplicate, foldl_calm])))

@[simp] theorem reportSram_calm (p : SramPlace) (s : State) :
    (reportSram p s).2.calm = s.calm := by
  first
  | (simp [reportSram, -List.reduceReplicate, foldl_calm]; done)
  | (simp only [reportSram]; (repeat' split) <;> simp [-List.reduceReplicate, foldl_calm] <;> done)
  | (simp only [reportSram]
     repeat' (split <;> (try (rename_i heq; first
       | (replace heq := (congrArg (fun x => (Prod.snd x).calm) heq).symm; simp [-List.reduceReplicate, foldl_calm] at heq)
  )))
     all_goals (first | (simp [-List.reduceReplicate, foldl_calm]; done) | (simp [*, -List.reduceReplicate, foldl_calm]; done) | (simp_all [-List.reduceReplicate, foldl_calm]; done)))
  | (simp only [reportSram]
     refine foldl_calm _ (fun s a => ?_) _ _
     (repeat' split) <;> simp [-List.reduceReplicate, foldl_calm])
  | (simp only [reportSram]
     (repeat' split) <;> first
       | (simp [-List.reduceReplicate, foldl_calm]; done)
       | (refine (foldl_calm _ (fun s a => ?_) _ _).trans ?_
          all_goals ((repeat' split) <;> simp [-List.reduceReplicate, foldl_calm])))

@[simp] theorem takeLine_calm (id : Nat) (name : LineName) (die : Option Nat) (here : Nat) (s : State) :
    (takeLine id name die here s).2.calm = s.calm := by
  first
  | (simp [takeLine, -List.reduceReplicate, foldl_calm]; done)
  | (simp only [takeLine]; (repeat' split) <;> simp [-List.reduceReplicate, foldl_calm] <;> done)
  | (simp only [takeLine]
     repeat' (split <;> (try (rename_i heq; first
       | (replace heq := (congrArg (fun x => (Prod.snd x).calm) heq).symm; simp [-List.reduceReplicate, foldl_calm] at heq)
  )))
     all_goals (first | (simp [-List.reduceReplicate, foldl_calm]; done) | (simp [*, -List.reduceReplicate, foldl_calm]; done) | (simp_all [-List.reduceReplicate, foldl_calm]; done)))
  | (simp only [takeLine]
     refine foldl_calm _ (fun s a => ?_) _ _
     (repeat' split) <;> simp [-List.reduceReplicate, foldl_calm])
  | (simp only [takeLine]
     (repeat' split) <;> first
       | (simp [-List.reduceReplicate, foldl_calm]; done)
       | (refine (foldl_calm _ (fun s a => ?_) _ _).trans ?_
          all_goals ((repeat' split) <;> simp [-List.reduceReplicate, foldl_calm])))

@[simp] theorem checkForWrite_calm (id : Nat) (s : State) :
    (checkForWrite id s).2.calm = s.calm := by
  first
  | (simp [checkForWrite, -List.reduceReplicate, foldl_calm]; done)
  | (simp only [checkForWrite]; (repeat' split) <;> simp [-List.reduceReplicate, foldl_calm] <;> done)
  | (simp only [checkForWrite]
     repeat' (split <;> (try (rename_i heq; first
       | (replace heq := (congrArg (fun x => (Prod.snd x).calm) heq).symm; simp [-List.reduceReplicate, foldl_calm] at heq)
  )))
     all_goals (first | (simp [-List.reduceReplicate, foldl_calm]; done) | (simp [*, -List.reduceReplicate, foldl_calm]; done) | (simp_all [-List.reduceReplicate, foldl_calm]; done)))
  | (simp only [checkForWrite]
     refine foldl_calm _ (fun s a => ?_) _ _
     (repeat' split) <;> simp [-List.reduceReplicate, foldl_calm])
  | (simp only [checkForWrite]
     (repeat' split) <;> first
       | (simp [-List.reduceReplicate, foldl_calm]; done)
       | (refine (foldl_calm _ (fun s a => ?_) _ _).trans ?_
          all_goals ((repeat' split) <;> simp [-List.reduceReplicate, foldl_calm])))

@[simp] theorem raisePoisoned_calm (fs : List Fail) (s : State) :
    (raisePoisoned fs s).calm = s.calm := by
  first
  | (simp [raisePoisoned, -List.reduceReplicate, foldl_calm]; done)
  | (simp only [raisePoisoned]; (repeat' split) <;> simp [-List.reduceReplicate, foldl_calm] <;> done)
  | (simp only [raisePoisoned]
     repeat' (split <;> (try (rename_i heq; first
       | (replace heq := (congrArg (fun x => (Prod.snd x).calm) heq).symm; simp [-List.reduceReplicate, foldl_calm] at heq)
  )))
     all_goals (first | (simp [-List.reduceReplicate, foldl_calm]; done) | (simp [*, -List.reduceReplicate, foldl_calm]; done) | (simp_all [-List.reduceReplicate, foldl_calm]; done)))
  | (simp only [raisePoisoned]
     refine foldl_calm _ (fun s a => ?_) _ _
     (repeat' split) <;> simp [-List.reduceReplicate, foldl_calm])
  | (simp only [raisePoisoned]
     (repeat' split) <;> first
       | (simp [-List.reduceReplicate, foldl_calm]; done)
       | (refine (foldl_calm _ (fun s a => ?_) _ _).trans ?_
          all_goals ((repeat' split) <;> simp [-List.reduceReplicate, foldl_calm])))

@[simp] theorem emit_calm (e : Sent) (s : State) :
    (emit e s).calm = s.calm := by
  first
  | (simp [emit, -List.reduceReplicate, foldl_calm]; done)
  | (simp only [emit]; (repeat' split) <;> simp [-List.reduceReplicate, foldl_calm] <;> done)
  | (simp only [emit]
     repeat' (split <;> (try (rename_i heq; first
       | (replace heq := (congrArg (fun x => (Prod.snd x).calm) heq).symm; simp [-List.reduceReplicate, foldl_calm] at heq)
  )))
     all_goals (first | (simp [-List.reduceReplicate, foldl_calm]; done) | (simp [*, -List.reduceReplicate, foldl_calm]; done) | (simp_all [-List.reduceReplicate, foldl_calm]; done)))
  | (simp only [emit]
     refine foldl_calm _ (fun s a => ?_) _ _
     (repeat' split) <;> simp [-List.reduceReplicate, foldl_calm])
  | (simp only [emit]
     (repeat' split) <;> first
       | (simp [-List.reduceReplicate, foldl_calm]; done)
       | (refine (foldl_calm _ (fun s a => ?_) _ _).trans ?_
          all_goals ((repeat' split) <;> simp [-List.reduceReplicate, foldl_calm])))

@[simp] theorem hostWrite_calm (addr : Nat) (bytes : List Byte) (s : State) :
    (hostWrite addr bytes s).calm = s.calm := by
  first
  | (simp [hostWrite, -List.reduceReplicate, foldl_calm]; done)
  | (simp only [hostWrite]; (repeat' split) <;> simp [-List.reduceReplicate, foldl_calm] <;> done)
  | (simp only [hostWrite]
     repeat' (split <;> (try (rename_i heq; first
       | (replace heq := (congrArg (fun x => (Prod.snd x).calm) heq).symm; simp [-List.reduceReplicate, foldl_calm] at heq)
  )))
     all_goals (first | (simp [-List.reduceReplicate, foldl_calm]; done) | (simp [*, -List.reduceReplicate, foldl_calm]; done) | (simp_all [-List.reduceReplicate, foldl_calm]; done)))
  | (simp only [hostWrite]
     refine foldl_calm _ (fun s a => ?_) _ _
     (repeat' split) <;> simp [-List.reduceReplicate, foldl_calm])
  | (simp only [hostWrite]
     (repeat' split) <;> first
       | (simp [-List.reduceReplicate, foldl_calm]; done)
       | (refine (foldl_calm _ (fun s a => ?_) _ _).trans ?_
          all_goals ((repeat' split) <;> simp [-List.reduceReplicate, foldl_calm])))

@[simp] theorem modDesc_calm (i : Nat) (f : Desc → Desc) (s : State) : (modDesc i f s).calm = s.calm := by
  simp only [modDesc]; split <;> simp

@[simp] theorem advanceGen_calm (h : BitVec 32) (s : State) :
    (advanceGen h s).calm = s.calm := by
  first
  | (simp [advanceGen, -List.reduceReplicate, foldl_calm]; done)
  | (simp only [advanceGen]; (repeat' split) <;> simp [-List.reduceReplicate, foldl_calm] <;> done)
  | (simp only [advanceGen]
     repeat' (split <;> (try (rename_i heq; first
       | (replace heq := (congrArg (fun x => (Prod.snd x).calm) heq).symm; simp [-List.reduceReplicate, foldl_calm] at heq)
  )))
     all_goals (first | (simp [-List.reduceReplicate, foldl_calm]; done) | (simp [*, -List.reduceReplicate, foldl_calm]; done) | (simp_all [-List.reduceReplicate, foldl_calm]; done)))
  | (simp only [advanceGen]
     refine foldl_calm _ (fun s a => ?_) _ _
     (repeat' split) <;> simp [-List.reduceReplicate, foldl_calm])
  | (simp only [advanceGen]
     (repeat' split) <;> first
       | (simp [-List.reduceReplicate, foldl_calm]; done)
       | (refine (foldl_calm _ (fun s a => ?_) _ _).trans ?_
          all_goals ((repeat' split) <;> simp [-List.reduceReplicate, foldl_calm])))

@[simp] theorem storeLine_calm (id : Nat) (bytes : List Byte) (made : Nat) (s : State) :
    (storeLine id bytes made s).calm = s.calm := by
  first
  | (simp [storeLine, -List.reduceReplicate, foldl_calm]; done)
  | (simp only [storeLine]; (repeat' split) <;> simp [-List.reduceReplicate, foldl_calm] <;> done)
  | (simp only [storeLine]
     repeat' (split <;> (try (rename_i heq; first
       | (replace heq := (congrArg (fun x => (Prod.snd x).calm) heq).symm; simp [-List.reduceReplicate, foldl_calm] at heq)
  )))
     all_goals (first | (simp [-List.reduceReplicate, foldl_calm]; done) | (simp [*, -List.reduceReplicate, foldl_calm]; done) | (simp_all [-List.reduceReplicate, foldl_calm]; done)))
  | (simp only [storeLine]
     refine foldl_calm _ (fun s a => ?_) _ _
     (repeat' split) <;> simp [-List.reduceReplicate, foldl_calm])
  | (simp only [storeLine]
     (repeat' split) <;> first
       | (simp [-List.reduceReplicate, foldl_calm]; done)
       | (refine (foldl_calm _ (fun s a => ?_) _ _).trans ?_
          all_goals ((repeat' split) <;> simp [-List.reduceReplicate, foldl_calm])))

@[simp] theorem clearLine_calm (id : Nat) (s : State) :
    (clearLine id s).2.calm = s.calm := by
  first
  | (simp [clearLine, -List.reduceReplicate, foldl_calm]; done)
  | (simp only [clearLine]; (repeat' split) <;> simp [-List.reduceReplicate, foldl_calm] <;> done)
  | (simp only [clearLine]
     repeat' (split <;> (try (rename_i heq; first
       | (replace heq := (congrArg (fun x => (Prod.snd x).calm) heq).symm; simp [-List.reduceReplicate, foldl_calm] at heq)
  )))
     all_goals (first | (simp [-List.reduceReplicate, foldl_calm]; done) | (simp [*, -List.reduceReplicate, foldl_calm]; done) | (simp_all [-List.reduceReplicate, foldl_calm]; done)))
  | (simp only [clearLine]
     refine foldl_calm _ (fun s a => ?_) _ _
     (repeat' split) <;> simp [-List.reduceReplicate, foldl_calm])
  | (simp only [clearLine]
     (repeat' split) <;> first
       | (simp [-List.reduceReplicate, foldl_calm]; done)
       | (refine (foldl_calm _ (fun s a => ?_) _ _).trans ?_
          all_goals ((repeat' split) <;> simp [-List.reduceReplicate, foldl_calm])))

@[simp] theorem writeLine_calm (id : Nat) (name : LineName) (bytes : List Byte) (crcXor : BitVec 32) (last : Nat) (s : State) :
    (writeLine id name bytes crcXor last s).2.calm = s.calm := by
  first
  | (simp [writeLine, -List.reduceReplicate, foldl_calm]; done)
  | (simp only [writeLine]; (repeat' split) <;> simp [-List.reduceReplicate, foldl_calm] <;> done)
  | (simp only [writeLine]
     repeat' (split <;> (try (rename_i heq; first
       | (replace heq := (congrArg (fun x => (Prod.snd x).calm) heq).symm; simp [-List.reduceReplicate, foldl_calm] at heq)
  )))
     all_goals (first | (simp [-List.reduceReplicate, foldl_calm]; done) | (simp [*, -List.reduceReplicate, foldl_calm]; done) | (simp_all [-List.reduceReplicate, foldl_calm]; done)))
  | (simp only [writeLine]
     refine foldl_calm _ (fun s a => ?_) _ _
     (repeat' split) <;> simp [-List.reduceReplicate, foldl_calm])
  | (simp only [writeLine]
     (repeat' split) <;> first
       | (simp [-List.reduceReplicate, foldl_calm]; done)
       | (refine (foldl_calm _ (fun s a => ?_) _ _).trans ?_
          all_goals ((repeat' split) <;> simp [-List.reduceReplicate, foldl_calm])))

@[simp] theorem mergeLine_calm (id : Nat) (name : LineName) (pos : Nat) (bytes : List Byte) (s : State) :
    (mergeLine id name pos bytes s).2.calm = s.calm := by
  first
  | (simp [mergeLine, -List.reduceReplicate, foldl_calm]; done)
  | (simp only [mergeLine]; (repeat' split) <;> simp [-List.reduceReplicate, foldl_calm] <;> done)
  | (simp only [mergeLine]
     repeat' (split <;> (try (rename_i heq; first
       | (replace heq := (congrArg (fun x => (Prod.snd x).calm) heq).symm; simp [-List.reduceReplicate, foldl_calm] at heq)
  )))
     all_goals (first | (simp [-List.reduceReplicate, foldl_calm]; done) | (simp [*, -List.reduceReplicate, foldl_calm]; done) | (simp_all [-List.reduceReplicate, foldl_calm]; done)))
  | (simp only [mergeLine]
     refine foldl_calm _ (fun s a => ?_) _ _
     (repeat' split) <;> simp [-List.reduceReplicate, foldl_calm])
  | (simp only [mergeLine]
     (repeat' split) <;> first
       | (simp [-List.reduceReplicate, foldl_calm]; done)
       | (refine (foldl_calm _ (fun s a => ?_) _ _).trans ?_
          all_goals ((repeat' split) <;> simp [-List.reduceReplicate, foldl_calm])))

@[simp] theorem writePiece_calm (die : Option Nat) (h : BitVec 32) (idx : Nat) (d : Desc) (p : Nat × Nat × List Byte) (s : State) :
    (writePiece die h idx d p s).2.calm = s.calm := by
  first
  | (simp [writePiece, -List.reduceReplicate, foldl_calm]; done)
  | (simp only [writePiece]; (repeat' split) <;> simp [-List.reduceReplicate, foldl_calm] <;> done)
  | (simp only [writePiece]
     repeat' (split <;> (try (rename_i heq; first
       | (replace heq := (congrArg (fun x => (Prod.snd x).calm) heq).symm; simp [-List.reduceReplicate, foldl_calm] at heq)
  )))
     all_goals (first | (simp [-List.reduceReplicate, foldl_calm]; done) | (simp [*, -List.reduceReplicate, foldl_calm]; done) | (simp_all [-List.reduceReplicate, foldl_calm]; done)))
  | (simp only [writePiece]
     refine foldl_calm _ (fun s a => ?_) _ _
     (repeat' split) <;> simp [-List.reduceReplicate, foldl_calm])
  | (simp only [writePiece]
     (repeat' split) <;> first
       | (simp [-List.reduceReplicate, foldl_calm]; done)
       | (refine (foldl_calm _ (fun s a => ?_) _ _).trans ?_
          all_goals ((repeat' split) <;> simp [-List.reduceReplicate, foldl_calm])))

@[simp] theorem writePieces_calm (die : Option Nat) (h : BitVec 32) (idx : Nat) (d : Desc) (x0 : List (Nat × Nat × List Byte)) (s : State) :
    (writePieces die h idx d x0 s).2.calm = s.calm := by
  induction x0 generalizing die h idx d s
  all_goals first
  | (simp [writePieces, -List.reduceReplicate, foldl_calm]; done)
  | (simp [writePieces, *, -List.reduceReplicate, foldl_calm]; done)
  | (simp only [writePieces]
     repeat' (split <;> (try (rename_i heq; replace heq := (congrArg (fun x => (Prod.snd x).calm) heq).symm; simp [-List.reduceReplicate, foldl_calm] at heq)))
     all_goals (first | (simp [*, -List.reduceReplicate, foldl_calm]; done) | (simp_all [-List.reduceReplicate, foldl_calm]; done)))

@[simp] theorem writeFrom_calm (die : Option Nat) (h : BitVec 32) (off : Nat) (bytes : List Byte) (s : State) :
    (writeFrom die h off bytes s).2.calm = s.calm := by
  first
  | (simp [writeFrom, -List.reduceReplicate, foldl_calm]; done)
  | (simp only [writeFrom]; (repeat' split) <;> simp [-List.reduceReplicate, foldl_calm] <;> done)
  | (simp only [writeFrom]
     repeat' (split <;> (try (rename_i heq; first
       | (replace heq := (congrArg (fun x => (Prod.snd x).calm) heq).symm; simp [-List.reduceReplicate, foldl_calm] at heq)
  )))
     all_goals (first | (simp [-List.reduceReplicate, foldl_calm]; done) | (simp [*, -List.reduceReplicate, foldl_calm]; done) | (simp_all [-List.reduceReplicate, foldl_calm]; done)))
  | (simp only [writeFrom]
     refine foldl_calm _ (fun s a => ?_) _ _
     (repeat' split) <;> simp [-List.reduceReplicate, foldl_calm])
  | (simp only [writeFrom]
     (repeat' split) <;> first
       | (simp [-List.reduceReplicate, foldl_calm]; done)
       | (refine (foldl_calm _ (fun s a => ?_) _ _).trans ?_
          all_goals ((repeat' split) <;> simp [-List.reduceReplicate, foldl_calm])))

@[simp] theorem writeBytes_calm (h : BitVec 32) (off : Nat) (bytes : List Byte) (s : State) :
    (writeBytes h off bytes s).2.calm = s.calm := by
  first
  | (simp [writeBytes, -List.reduceReplicate, foldl_calm]; done)
  | (simp only [writeBytes]; (repeat' split) <;> simp [-List.reduceReplicate, foldl_calm] <;> done)
  | (simp only [writeBytes]
     repeat' (split <;> (try (rename_i heq; first
       | (replace heq := (congrArg (fun x => (Prod.snd x).calm) heq).symm; simp [-List.reduceReplicate, foldl_calm] at heq)
  )))
     all_goals (first | (simp [-List.reduceReplicate, foldl_calm]; done) | (simp [*, -List.reduceReplicate, foldl_calm]; done) | (simp_all [-List.reduceReplicate, foldl_calm]; done)))
  | (simp only [writeBytes]
     refine foldl_calm _ (fun s a => ?_) _ _
     (repeat' split) <;> simp [-List.reduceReplicate, foldl_calm])
  | (simp only [writeBytes]
     (repeat' split) <;> first
       | (simp [-List.reduceReplicate, foldl_calm]; done)
       | (refine (foldl_calm _ (fun s a => ?_) _ _).trans ?_
          all_goals ((repeat' split) <;> simp [-List.reduceReplicate, foldl_calm])))

@[simp] theorem writeEach_calm (h : BitVec 32) (idx : Nat) (d : Desc) (x0 : List (Nat × Nat × List Byte)) (s : State) :
    (writeEach h idx d x0 s).2.calm = s.calm := by
  induction x0 generalizing h idx d s
  all_goals first
  | (simp [writeEach, -List.reduceReplicate, foldl_calm]; done)
  | (simp [writeEach, *, -List.reduceReplicate, foldl_calm]; done)
  | (simp only [writeEach]
     repeat' (split <;> (try (rename_i heq; replace heq := (congrArg (fun x => (Prod.snd x).calm) heq).symm; simp [-List.reduceReplicate, foldl_calm] at heq)))
     all_goals (first | (simp [*, -List.reduceReplicate, foldl_calm]; done) | (simp_all [-List.reduceReplicate, foldl_calm]; done)))

@[simp] theorem writeBar4_calm (h : BitVec 32) (off : Nat) (bytes : List Byte) (s : State) :
    (writeBar4 h off bytes s).calm = s.calm := by
  first
  | (simp [writeBar4, -List.reduceReplicate, foldl_calm]; done)
  | (simp only [writeBar4]; (repeat' split) <;> simp [-List.reduceReplicate, foldl_calm] <;> done)
  | (simp only [writeBar4]
     repeat' (split <;> (try (rename_i heq; first
       | (replace heq := (congrArg (fun x => (Prod.snd x).calm) heq).symm; simp [-List.reduceReplicate, foldl_calm] at heq)
  )))
     all_goals (first | (simp [-List.reduceReplicate, foldl_calm]; done) | (simp [*, -List.reduceReplicate, foldl_calm]; done) | (simp_all [-List.reduceReplicate, foldl_calm]; done)))
  | (simp only [writeBar4]
     refine foldl_calm _ (fun s a => ?_) _ _
     (repeat' split) <;> simp [-List.reduceReplicate, foldl_calm])
  | (simp only [writeBar4]
     (repeat' split) <;> first
       | (simp [-List.reduceReplicate, foldl_calm]; done)
       | (refine (foldl_calm _ (fun s a => ?_) _ _).trans ?_
          all_goals ((repeat' split) <;> simp [-List.reduceReplicate, foldl_calm])))

/-! ### The placer's boundary -/

@[simp] theorem raisePlc_calm (b : Nat) (s : State) : (raisePlc b s).calm = s.calm := by simp [raisePlc]
@[simp] theorem forgetLines_calm (l : Location) (n : Nat) (s : State) : (forgetLines l n s).calm = s.calm := by
  have h : ∀ (s : State) (v : Nat), (if (s.stack (lineStack v)).health = Health.failed then s
      else (useCheck (lineStack v) (lineNo v) true s).2).calm = s.calm := by intro s v; split <;> simp
  simp [forgetLines, forget, foldl_calm _ h]
@[simp] theorem retire_calm (d p : Nat) (s : State) : (retire d p s).calm = s.calm := by
  simp only [retire]; split <;> simp

theorem assignSpares_calm (old : List (Option Nat)) (s : State) : (assignSpares old s).2.calm = s.calm := by
  simp only [assignSpares]
  have h : ∀ (l : List (Nat × Option Nat)) (u : State), (l.foldl (fun s e => match e.2 with
      | some k => trace tPLACEMENT 1 0xFF 0xFFFF [k] s | none => s) u).calm = u.calm :=
    fun l u => foldl_calm _ (fun s a => by cases a.2 <;> simp) l u
  split
  · rw [raisePlc_calm]; exact h _ _
  · exact h _ _

@[simp] theorem takeMigrations_calm (l : List (Nat × Desc)) (f : Bool) (n : Nat) (s : State) :
    (takeMigrations l f n s).calm = s.calm := by
  induction l generalizing f n s with
  | nil => rfl
  | cons e l ih =>
    simp only [takeMigrations]
    (repeat' split) <;> simp [ih]

@[simp] theorem startCopy_calm (s : State) : (startCopy s).calm = s.calm := by
  simp only [startCopy]; (repeat' split) <;> simp

theorem buildMigrations_calm (s : State) : (buildMigrations s).2.calm = s.calm := by
  simp only [buildMigrations]; (repeat' split) <;> simp

/-- The placer's round boundary leaves the round itself alone. -/
theorem roundBoundary_calm (s : State) : (roundBoundary s).calm = s.calm := by
  unfold roundBoundary
  extract_lets s1 marked old _ s2
  have h2 : s2.calm = s.calm := (foldl_calm _ (fun s e => retire_calm ..) _ _).trans rfl
  have h3 := assignSpares_calm old s2
  generalize assignSpares old s2 = r at h3 ⊢
  obtain ⟨moved, s3⟩ := r
  dsimp only at h3 ⊢
  have h4 := buildMigrations_calm { s3 with plc := { s3.plc with heat := [], heatN := 0 } }
  generalize buildMigrations { s3 with plc := { s3.plc with heat := [], heatN := 0 } } = r at h4 ⊢
  obtain ⟨started, s4⟩ := r
  dsimp only at h4 ⊢
  have h : s4.calm = s.calm := h4.trans (h3.trans h2)
  split
  · exact h
  · exact h

/-! ### Completion -/

/-- What a completion leaves alone: all but the queues, the commands in flight and the round's statistics. -/
def Calm.still (c : Calm) : Calm := { c with que := {}, flight := [], tns := {} }

/-- A round without the parts that a completion changes. -/
def Tns.core (t : Tns) : Tns := { t with statistics := [], late := 0, compareOk := false, compareBad := false, verify := false }

/-- What a completion leaves alone once its command has left: all but the queues and those parts of the round. -/
def Calm.rest (c : Calm) : Calm := { c with que := {}, tns := c.tns.core }

theorem rest_of_calm {s t : State} (h : t.calm = s.calm) : t.calm.rest = s.calm.rest := by rw [h]

theorem setQueue_rest (s : State) (q : Nat) (v : Queue) : (s.setQueue q v).calm.rest = s.calm.rest := rfl

theorem raiseQue_rest (q b : Nat) (s : State) : (raiseQue q b s).calm.rest = s.calm.rest := by
  unfold raiseQue; rw [signalVector_calm]; rfl

theorem disableQueue_rest (q : Nat) (s : State) : (disableQueue q s).calm.rest = s.calm.rest := rfl

theorem replyLost_rest (q : Nat) (s : State) : (replyLost q s).calm.rest = s.calm.rest := by
  unfold replyLost; rw [raiseQue_rest, disableQueue_rest]

theorem replied_rest (q : Nat) (b : List Byte) (s : State) : (replied q b s).calm.rest = s.calm.rest := by
  unfold replied; rw [signalVector_calm]; rfl

theorem writeToTail_rest (q : Nat) (h : BitVec 32) (b : List Byte) (s : State) : (writeToTail q h b s).calm.rest = s.calm.rest := by
  unfold writeToTail
  dsimp only
  have k := writeBytes_calm h ((s.queue q).cqBase.toNat + 32 * (s.queue q).cqTail) (setPhase (s.queue q).phase b) s
  split <;> rename_i e <;> rw [e] at k
  · rw [replied_rest, rest_of_calm k]
  · rw [replyLost_rest, rest_of_calm k]

/-- A write that was held changes, beside the memories, the ring that it writes a reply to alone. -/
theorem HeldWrite.make_rest (w : HeldWrite) (s : State) : (w.make s).2.calm.rest = s.calm.rest := by
  unfold HeldWrite.make
  split
  · exact writeToTail_rest ..
  · split
    · exact rest_of_calm (writeBar4_calm ..)
    · exact rest_of_calm (writeBytes_calm ..)

theorem writeHeld_rest (w : HeldWrite) (s : State) : (writeHeld w s).2.calm.rest = s.calm.rest := by
  unfold writeHeld
  dsimp only
  split
  · rfl
  · have h := HeldWrite.make_rest w { s with mem := { s.mem with journalOver := false } }
    split
    · rfl
    · exact h

theorem writeReply_rest (q tag st d r : Nat) (a b f : Bool) (s : State) :
    (writeReply q tag st d r a b f s).calm.rest = s.calm.rest := by
  unfold writeReply
  dsimp only
  split
  · exact writeHeld_rest ..
  · split
    · exact replyLost_rest ..
    · rw [replied_rest, rest_of_calm (hostWrite_calm ..)]

theorem mergeStats_rest (c : InFlight) (s : State) : (mergeStats c s).2.calm.rest = s.calm.rest := by
  unfold mergeStats; (repeat' split) <;> rfl

theorem noteCompare_rest (c : InFlight) (s : State) : (noteCompare c s).calm.rest = s.calm.rest := by
  unfold noteCompare; split <;> rfl

theorem noteVerify_rest (c : InFlight) (s : State) : (noteVerify c s).calm.rest = s.calm.rest := by
  unfold noteVerify; split <;> rfl

theorem signalToken_rest (t : Nat) (s : State) : (signalToken t s).calm.rest = s.calm.rest := by
  unfold signalToken; split <;> rfl

theorem complete_rest (c : InFlight) (s : State) (hk : s.clocked = true) : (complete c s).calm.rest = (dropInflight c.id s).calm.rest := by
  unfold complete
  rw [if_neg (by simp [hk])]
  extract_lets s1
  split
  rename_i late s2 e
  extract_lets s3 s4 s5 s6
  have h2 : s2.calm.rest = s1.calm.rest := by
    have := mergeStats_rest c s1; rw [e] at this; exact this
  have h3 : s3.calm.rest = s1.calm.rest := (noteVerify_rest ..).trans ((noteCompare_rest ..).trans h2)
  have h4 : s4.calm.rest = s1.calm.rest := by
    show (ite _ _ _ : State).calm.rest = _
    split
    · exact h3
    · exact (rest_of_calm (traceWith_calm ..)).trans h3
  have h5 : s5.calm.rest = s1.calm.rest := by
    show (ite _ _ _ : State).calm.rest = _
    split
    · exact (signalToken_rest ..).trans h4
    · exact h4
  have h6 : s6.calm.rest = s1.calm.rest := by
    show (ite _ _ _ : State).calm.rest = _
    split
    · exact (writeReply_rest ..).trans h5
    · exact h5
  split
  · exact h4
  · split
    · exact (raiseQue_rest ..).trans h6
    · exact h6

/-- A completion of a device whose clocks run takes its command out of flight, and changes queues and statistics, the memories that
replies are written to, and what the trace, the counters and the ledger note. -/
theorem finish_rest (c : InFlight) (s : State) (hk : s.clocked = true) : (finish c s).calm.rest = (dropInflight c.id s).calm.rest := by
  unfold finish
  rw [complete_rest _ _ hk]
  split <;> rfl

theorem complete_off (c : InFlight) (s : State) (hk : s.clocked = false) : complete c s = s := by
  unfold complete; rw [if_pos (by simp [hk])]

theorem finish_off (c : InFlight) (s : State) (hk : s.clocked = false) : finish c s = s := complete_off _ _ hk

/-- A completion changes queues, commands in flight and statistics, the memories that replies are written to, and what the trace,
the counters and the ledger note. -/
theorem finish_still (c : InFlight) (s : State) : (finish c s).calm.still = s.calm.still := by
  cases hk : s.clocked
  · rw [finish_off _ _ hk]
  · have h := congrArg Calm.still (finish_rest c s hk)
    exact h

theorem finish_flight (c : InFlight) (s : State) (hk : s.clocked = true) : (finish c s).flight = s.flight.filter fun x => x.id ≠ c.id :=
  congrArg Calm.flight (finish_rest c s hk)

theorem finish_core (c : InFlight) (s : State) : (finish c s).tns.core = s.tns.core := by
  cases hk : s.clocked
  · rw [finish_off _ _ hk]
  · exact congrArg Calm.tns (finish_rest c s hk)

theorem finish_clocked (c : InFlight) (s : State) : (finish c s).clocked = s.clocked := by
  unfold State.clocked; rw [show (finish c s).pins = s.pins from congrArg Calm.pins (finish_still c s)]

theorem finishAs_still (id st d : Nat) (s : State) : (finishAs id st d s).calm.still = s.calm.still := by
  unfold finishAs; split
  · exact finish_still ..
  · rfl

theorem foldl_still {α : Type} (f : State → α → State) (h : ∀ s a, (f s a).calm.still = s.calm.still) (l : List α) (s : State) :
    (l.foldl f s).calm.still = s.calm.still := by
  induction l generalizing s with
  | nil => rfl
  | cons a l ih => rw [List.foldl_cons, ih, h]

theorem finishAll_still (l : List InFlight) (st d : Nat) (s : State) : (finishAll l st d s).calm.still = s.calm.still :=
  foldl_still _ (fun _ _ => finishAs_still ..) l s

theorem finishThese_still (l : List InFlight) (st : Nat) (s : State) : (finishThese l st s).calm.still = s.calm.still :=
  foldl_still _ (fun _ _ => finishAs_still ..) l s

theorem finishAs_core (id st d : Nat) (s : State) : (finishAs id st d s).tns.core = s.tns.core := by
  unfold finishAs; split
  · exact finish_core ..
  · rfl

theorem finishAll_core (l : List InFlight) (st d : Nat) (s : State) : (finishAll l st d s).tns.core = s.tns.core := by
  unfold finishAll
  induction l generalizing s with
  | nil => rfl
  | cons a l ih => rw [List.foldl_cons, ih, finishAs_core]

theorem finishAs_clocked (id st d : Nat) (s : State) : (finishAs id st d s).clocked = s.clocked := by
  unfold State.clocked; rw [show (finishAs id st d s).pins = s.pins from congrArg Calm.pins (finishAs_still ..)]

theorem finishAs_flight (id st d : Nat) (s : State) (hk : s.clocked = true) :
    (finishAs id st d s).flight = s.flight.filter fun x => x.id ≠ id := by
  unfold finishAs; split
  · rename_i c h
    have : c.id = id := by simpa using List.find?_some h
    rw [finish_flight _ _ hk]; exact this ▸ rfl
  · rename_i h
    symm; rw [List.filter_eq_self]
    intro a ha
    have := List.find?_eq_none.1 h a ha
    simpa using this

/-- Commands that are completed together leave flight together. -/
theorem finishAll_flight (l : List InFlight) (st d : Nat) (s : State) (hk : s.clocked = true) :
    (finishAll l st d s).flight = s.flight.filter fun x => l.all fun c => x.id ≠ c.id := by
  unfold finishAll
  induction l generalizing s with
  | nil => simp
  | cons a l ih =>
    rw [List.foldl_cons, ih _ (by rw [finishAs_clocked]; exact hk), finishAs_flight _ _ _ _ hk, List.filter_filter]
    congr 1; funext x; simp [Bool.and_comm]

/-! ### Queues -/

theorem queue_of_que {s t : State} (h : s.que = t.que) (q : Nat) : s.queue q = t.queue q := by unfold State.queue; rw [h]
theorem que_of_calm {s t : State} (h : t.calm = s.calm) : t.que = s.que := congrArg Calm.que h
theorem traceWith_que (a b c : Nat) (l : BitVec 16) (p : List Nat) (x : Nat) (f : Bool) (s : State) :
    (traceWith a b c l p x f s).que = s.que := que_of_calm (traceWith_calm ..)
theorem writeBytes_que (h : BitVec 32) (off : Nat) (b : List Byte) (s : State) : (writeBytes h off b s).2.que = s.que :=
  que_of_calm (writeBytes_calm ..)
theorem signalVector_que (v : Nat) (s : State) : (signalVector v s).que = s.que := que_of_calm (signalVector_calm ..)

end Sys2Proof.Machine
end

