-- ==== Sys2Proof/Laws/Ctl.lean ====
section
/-! SUPPORT. How the registers that software sets pass through updates of the state (`State.ctl`), and through the commands'
checks and effects: the rules from which the other files of this folder show that an operation leaves them alone. -/

namespace Sys2Proof.Machine

@[simp] theorem State.ctl_mk (pending freeCtr pins id ups que seq flight nextId store mem plc tns coil tim rim sched pwr lnk cnt
    trc lgr sec mctp out) :
    (State.mk pending freeCtr pins id ups que seq flight nextId store mem plc tns coil tim rim sched pwr lnk cnt trc lgr sec mctp
      out).ctl =
      ⟨pending, id.fixed, seq.wdog, mem.ctrl, mem.scrubInterval, mem.retrainThresh, mem.failLimit, plc.ctrl, plc.migBudget, plc.resLimit, plc.retireLimit, tns.staged.ctrl, tns.staged.layerCount, tns.staged.rest, lnk.portEn, lnk.ptpDomain, lnk.ptpNext, lnk.holdoff, lnk.apertures, cnt.peekSel, pwr.upMargin, pwr.thmCtrl, trc.dumpHandle⟩ := rfl

@[simp] theorem ctl_pending (s : State) : s.pending = s.ctl.pending := rfl
@[simp] theorem IdBlock.fixed_link (b : IdBlock) (speed width : Nat) (up : Bool) :
    ({ b with speed := speed, width := width, linkUp := up } : IdBlock).fixed = b.fixed := rfl
@[simp] theorem ctl_id (s : State) : s.id.fixed = s.ctl.id := rfl
@[simp] theorem ctl_wdog (s : State) : s.seq.wdog = s.ctl.wdog := rfl
@[simp] theorem ctl_memCtrl (s : State) : s.mem.ctrl = s.ctl.memCtrl := rfl
@[simp] theorem ctl_scrubInterval (s : State) : s.mem.scrubInterval = s.ctl.scrubInterval := rfl
@[simp] theorem ctl_retrainThresh (s : State) : s.mem.retrainThresh = s.ctl.retrainThresh := rfl
@[simp] theorem ctl_failLimit (s : State) : s.mem.failLimit = s.ctl.failLimit := rfl
@[simp] theorem ctl_plcCtrl (s : State) : s.plc.ctrl = s.ctl.plcCtrl := rfl
@[simp] theorem ctl_migBudget (s : State) : s.plc.migBudget = s.ctl.migBudget := rfl
@[simp] theorem ctl_resLimit (s : State) : s.plc.resLimit = s.ctl.resLimit := rfl
@[simp] theorem ctl_retireLimit (s : State) : s.plc.retireLimit = s.ctl.retireLimit := rfl
@[simp] theorem ctl_tnsCtrl (s : State) : s.tns.staged.ctrl = s.ctl.tnsCtrl := rfl
@[simp] theorem ctl_layerCount (s : State) : s.tns.staged.layerCount = s.ctl.layerCount := rfl
@[simp] theorem ctl_tnsRest (s : State) : s.tns.staged.rest = s.ctl.tnsRest := rfl
@[simp] theorem ctl_portEn (s : State) : s.lnk.portEn = s.ctl.portEn := rfl
@[simp] theorem ctl_ptpDomain (s : State) : s.lnk.ptpDomain = s.ctl.ptpDomain := rfl
@[simp] theorem ctl_ptpNext (s : State) : s.lnk.ptpNext = s.ctl.ptpNext := rfl
@[simp] theorem ctl_holdoff (s : State) : s.lnk.holdoff = s.ctl.holdoff := rfl
@[simp] theorem ctl_apertures (s : State) : s.lnk.apertures = s.ctl.apertures := rfl
@[simp] theorem ctl_peekSel (s : State) : s.cnt.peekSel = s.ctl.peekSel := rfl
@[simp] theorem ctl_upMargin (s : State) : s.pwr.upMargin = s.ctl.upMargin := rfl
@[simp] theorem ctl_thmCtrl (s : State) : s.pwr.thmCtrl = s.ctl.thmCtrl := rfl

@[simp] theorem ctl_dumpHandle (s : State) : s.trc.dumpHandle = s.ctl.dumpHandle := rfl

@[simp] theorem ctl_ite (c : Prop) [Decidable c] (a b : State) : (if c then a else b).ctl = if c then a.ctl else b.ctl := by
  split <;> rfl

theorem foldl_ctl {α : Type} (f : State → α → State) (h : ∀ s a, (f s a).ctl = s.ctl) (l : List α) (s : State) :
    (l.foldl f s).ctl = s.ctl := by
  induction l generalizing s with
  | nil => rfl
  | cons a l ih => simp only [List.foldl_cons, ih, h]

/-- From a state whose software-set registers are `c`, the computation ends with them unchanged, and a value it answers
satisfies `P`. -/
def Keeps {α : Type} (c : Ctl) (P : α → Prop) (m : Cmd α) : Prop :=
  ∀ s, s.ctl = c → match m.run s with
    | .ok a t => t.ctl = c ∧ P a
    | .error _ t => t.ctl = c

theorem keeps_pure {α : Type} {c : Ctl} {P : α → Prop} {a : α} (h : P a) : Keeps c P (pure a) := fun _ hs => ⟨hs, h⟩

theorem keeps_throw {α : Type} {c : Ctl} {P : α → Prop} {f : Fail} : Keeps c P (throw f : Cmd α) := fun _ hs => hs

theorem keeps_bind {α β : Type} {c : Ctl} {Q : α → Prop} {P : β → Prop} {m : Cmd α} {f : α → Cmd β} (hm : Keeps c Q m)
    (hf : ∀ a, Q a → Keeps c P (f a)) : Keeps c P (m >>= f) := by
  intro s hs
  have h := hm s hs
  show match (EStateM.bind m f).run s with | .ok a t => t.ctl = c ∧ P a | .error _ t => t.ctl = c
  simp only [EStateM.run, EStateM.bind] at h ⊢
  split
  · rename_i a t heq
    split at heq
    · rename_i b u hb
      rw [hb] at h
      have := hf b h.2 u h.1
      simp only [EStateM.run, heq] at this
      exact this
    · cases heq
  · rename_i e t heq
    split at heq
    · rename_i b u hb
      rw [hb] at h
      have := hf b h.2 u h.1
      simp only [EStateM.run, heq] at this
      exact this
    · rename_i b u hb
      rw [hb] at h
      cases heq
      exact h

theorem keeps_weaken {α : Type} {c : Ctl} {P Q : α → Prop} {m : Cmd α} (h : Keeps c P m) (w : ∀ a, P a → Q a) : Keeps c Q m := by
  intro s hs
  have := h s hs
  split at this
  · exact ⟨this.1, w _ this.2⟩
  · exact this

/-- The computation only keeps the registers. -/
abbrev KeepsAll {α : Type} (m : Cmd α) : Prop := ∀ c, Keeps c (fun _ => True) m

theorem keeps_ok {α : Type} {m : Cmd α} {a : α} {s t : State} (h : KeepsAll m) (e : m.run s = .ok a t) : t.ctl = s.ctl := by
  have := h s.ctl s rfl
  rw [e] at this
  exact this.1

theorem keeps_err {α : Type} {m : Cmd α} {f : Fail} {s t : State} (h : KeepsAll m) (e : m.run s = .error f t) : t.ctl = s.ctl := by
  have := h s.ctl s rfl
  rw [e] at this
  exact this

theorem keeps_bind' {α β : Type} {c : Ctl} {P : β → Prop} {m : Cmd α} {f : α → Cmd β} (hm : Keeps c (fun _ => True) m)
    (hf : ∀ a, Keeps c P (f a)) : Keeps c P (m >>= f) := keeps_bind hm fun a _ => hf a

theorem keeps_get {c : Ctl} : Keeps c (fun s : State => s.ctl = c) (get : Cmd State) := fun _ hs => ⟨hs, hs⟩

theorem keeps_set {c : Ctl} {P : Unit → Prop} {t : State} (h : t.ctl = c) (w : P ()) : Keeps c P (set t : Cmd Unit) := by
  intro s _; exact ⟨h, w⟩

theorem keeps_upd {c : Ctl} {P : Unit → Prop} {f : State → State} (h : ∀ s, s.ctl = c → (f s).ctl = c) (w : P ()) :
    Keeps c P (upd f) := by
  intro s hs; exact ⟨h s hs, w⟩

theorem keeps_act {α : Type} {c : Ctl} {P : α → Prop} {f : State → α × State} (h : ∀ s, s.ctl = c → (f s).2.ctl = c)
    (w : ∀ a, P a) : Keeps c P (act f) := by
  intro s hs; exact ⟨h s hs, w _⟩

theorem keeps_refuse {α : Type} {c : Ctl} {P : α → Prop} {a b : Nat} : Keeps c P (refuse a b : Cmd α) := keeps_throw

theorem keeps_require {c : Ctl} {P : Unit → Prop} {ok : Bool} {a b : Nat} (w : P ()) : Keeps c P (require ok a b) := by
  unfold require; split
  · exact keeps_pure w
  · exact keeps_refuse

/-! The same where nothing is asked of the value. -/

theorem keeps_pureT {α : Type} {c : Ctl} {a : α} : Keeps c (fun _ => True) (pure a) := keeps_pure trivial

theorem keeps_getT {c : Ctl} : Keeps c (fun _ => True) (get : Cmd State) := keeps_weaken keeps_get fun _ _ => trivial

theorem keeps_setT {c : Ctl} {t : State} (h : t.ctl = c) : Keeps c (fun _ => True) (set t : Cmd Unit) := keeps_set h trivial

theorem keeps_updT {c : Ctl} {f : State → State} (h : ∀ s, s.ctl = c → (f s).ctl = c) : Keeps c (fun _ => True) (upd f) :=
  keeps_upd h trivial

theorem keeps_actT {α : Type} {c : Ctl} {f : State → α × State} (h : ∀ s, s.ctl = c → (f s).2.ctl = c) :
    Keeps c (fun _ => True) (act f) := keeps_act h fun _ => trivial

theorem keeps_requireT {c : Ctl} {ok : Bool} {a b : Nat} : Keeps c (fun _ => True) (require ok a b) := keeps_require trivial

end Sys2Proof.Machine
end

