-- ==== Sys2Proof/Laws/Ops.lean ====
section
/-! SUPPORT. The operations of Machine/Ops.lean leave the registers that software sets alone. -/

namespace Sys2Proof.Machine

@[simp] theorem Trc.accept_dumpHandle (t : Trc) (r : TrcRec) (c : Nat) (f : Bool) :
    (t.accept r c f).1.dumpHandle = t.dumpHandle := by
  have h1 : ∀ (t : Trc) a b, (t.summarise a b).dumpHandle = t.dumpHandle := by
    intro t a b; unfold Trc.summarise; (repeat' split) <;> rfl
  have h2 : ∀ (t : Trc) r, (t.store r).dumpHandle = t.dumpHandle := by
    intro t r; unfold Trc.store; (repeat' split) <;> rfl
  have h3 : ∀ (t : Trc) r b, (t.tally r b).dumpHandle = t.dumpHandle := by
    intro t r b; unfold Trc.tally; (repeat' split) <;> rfl
  have h4 : ∀ (t : Trc), t.lose.dumpHandle = t.dumpHandle := by
    intro t; unfold Trc.lose; (repeat' split) <;> rfl
  have h5 : ∀ (t : Trc), t.stop.dumpHandle = t.dumpHandle := by intro t; rfl
  unfold Trc.accept
  dsimp only
  repeat' (refine (apply_ite (fun x : Trc × Bool × Bool => x.1.dumpHandle) ..).trans ?_)
  (repeat' split) <;> simp [h1, h2, h3, h4, h5]

@[simp] theorem sendMessage_ctl (v : Nat) (s : State) :
    (sendMessage v s).ctl = s.ctl := by
  simp [sendMessage]

@[simp] theorem signalVector_ctl (v : Nat) (s : State) :
    (signalVector v s).ctl = s.ctl := by
  simp [signalVector]

@[simp] theorem raiseMem_ctl (b : Nat) (s : State) :
    (raiseMem b s).ctl = s.ctl := by
  simp [raiseMem]

@[simp] theorem raisePlc_ctl (b : Nat) (s : State) :
    (raisePlc b s).ctl = s.ctl := by
  simp [raisePlc]

@[simp] theorem raiseTns_ctl (b : Nat) (s : State) :
    (raiseTns b s).ctl = s.ctl := by
  simp [raiseTns]

@[simp] theorem raiseSeq_ctl (b : Nat) (s : State) :
    (raiseSeq b s).ctl = s.ctl := by
  simp [raiseSeq]

@[simp] theorem raiseTim_ctl (b : Nat) (s : State) :
    (raiseTim b s).ctl = s.ctl := by
  simp [raiseTim]

@[simp] theorem raiseUps_ctl (b : Nat) (s : State) :
    (raiseUps b s).ctl = s.ctl := by
  simp [raiseUps]

@[simp] theorem raisePwr_ctl (b : Nat) (s : State) :
    (raisePwr b s).ctl = s.ctl := by
  simp [raisePwr]

@[simp] theorem raiseThm_ctl (b : Nat) (s : State) :
    (raiseThm b s).ctl = s.ctl := by
  simp [raiseThm]

@[simp] theorem raiseLnk_ctl (b : Nat) (s : State) :
    (raiseLnk b s).ctl = s.ctl := by
  simp [raiseLnk]

@[simp] theorem raiseCnt_ctl (b : Nat) (s : State) :
    (raiseCnt b s).ctl = s.ctl := by
  simp [raiseCnt]

@[simp] theorem raiseTrc_ctl (b : Nat) (s : State) :
    (raiseTrc b s).ctl = s.ctl := by
  simp [raiseTrc]

@[simp] theorem raiseLgr_ctl (b : Nat) (s : State) :
    (raiseLgr b s).ctl = s.ctl := by
  simp [raiseLgr]

@[simp] theorem raiseSec_ctl (b : Nat) (s : State) :
    (raiseSec b s).ctl = s.ctl := by
  simp [raiseSec]

@[simp] theorem State.setQueue_ctl (s : State) (q : Nat) (v : Queue) :
    (State.setQueue s q v).ctl = s.ctl := by
  simp [State.setQueue]

@[simp] theorem raiseQue_ctl (q b : Nat) (s : State) :
    (raiseQue q b s).ctl = s.ctl := by
  simp [raiseQue]

@[simp] theorem disableQueue_ctl (q : Nat) (s : State) :
    (disableQueue q s).ctl = s.ctl := by
  first
  | (simp [disableQueue, -List.reduceReplicate, foldl_ctl]; done)
  | (simp only [disableQueue]; (repeat' split) <;> simp [-List.reduceReplicate, foldl_ctl] <;> done)
  | (simp only [disableQueue]
     repeat' (split <;> (try (rename_i heq; first
       | (replace heq := (congrArg (fun x => (Prod.snd x).ctl) heq).symm; simp [-List.reduceReplicate, foldl_ctl] at heq)
  )))
     all_goals (first | (simp [-List.reduceReplicate, foldl_ctl]; done) | (simp [*, -List.reduceReplicate, foldl_ctl]; done) | (simp_all [-List.reduceReplicate, foldl_ctl]; done)))
  | (simp only [disableQueue]
     refine foldl_ctl _ (fun s a => ?_) _ _
     (repeat' split) <;> simp [-List.reduceReplicate, foldl_ctl])
  | (simp only [disableQueue]
     (repeat' split) <;> first
       | (simp [-List.reduceReplicate, foldl_ctl]; done)
       | (refine (foldl_ctl _ (fun s a => ?_) _ _).trans ?_
          all_goals ((repeat' split) <;> simp [-List.reduceReplicate, foldl_ctl])))

@[simp] theorem replied_ctl (q : Nat) (bytes : List Byte) (s : State) :
    (replied q bytes s).ctl = s.ctl := by
  first
  | (simp [replied, -List.reduceReplicate, foldl_ctl]; done)
  | (simp only [replied]; (repeat' split) <;> simp [-List.reduceReplicate, foldl_ctl] <;> done)
  | (simp only [replied]
     repeat' (split <;> (try (rename_i heq; first
       | (replace heq := (congrArg (fun x => (Prod.snd x).ctl) heq).symm; simp [-List.reduceReplicate, foldl_ctl] at heq)
  )))
     all_goals (first | (simp [-List.reduceReplicate, foldl_ctl]; done) | (simp [*, -List.reduceReplicate, foldl_ctl]; done) | (simp_all [-List.reduceReplicate, foldl_ctl]; done)))
  | (simp only [replied]
     refine foldl_ctl _ (fun s a => ?_) _ _
     (repeat' split) <;> simp [-List.reduceReplicate, foldl_ctl])
  | (simp only [replied]
     (repeat' split) <;> first
       | (simp [-List.reduceReplicate, foldl_ctl]; done)
       | (refine (foldl_ctl _ (fun s a => ?_) _ _).trans ?_
          all_goals ((repeat' split) <;> simp [-List.reduceReplicate, foldl_ctl])))

@[simp] theorem replyLost_ctl (q : Nat) (s : State) :
    (replyLost q s).ctl = s.ctl := by
  first
  | (simp [replyLost, -List.reduceReplicate, foldl_ctl]; done)
  | (simp only [replyLost]; (repeat' split) <;> simp [-List.reduceReplicate, foldl_ctl] <;> done)
  | (simp only [replyLost]
     repeat' (split <;> (try (rename_i heq; first
       | (replace heq := (congrArg (fun x => (Prod.snd x).ctl) heq).symm; simp [-List.reduceReplicate, foldl_ctl] at heq)
  )))
     all_goals (first | (simp [-List.reduceReplicate, foldl_ctl]; done) | (simp [*, -List.reduceReplicate, foldl_ctl]; done) | (simp_all [-List.reduceReplicate, foldl_ctl]; done)))
  | (simp only [replyLost]
     refine foldl_ctl _ (fun s a => ?_) _ _
     (repeat' split) <;> simp [-List.reduceReplicate, foldl_ctl])
  | (simp only [replyLost]
     (repeat' split) <;> first
       | (simp [-List.reduceReplicate, foldl_ctl]; done)
       | (refine (foldl_ctl _ (fun s a => ?_) _ _).trans ?_
          all_goals ((repeat' split) <;> simp [-List.reduceReplicate, foldl_ctl])))

@[simp] theorem count_ctl (set inst index n : Nat) (s : State) :
    (count set inst index n s).ctl = s.ctl := by
  simp [count]

@[simp] theorem traceWith_ctl (typ sub source : Nat) (layer : BitVec 16) (payload : List Nat) (cls : Nat) (force : Bool) (s : State) :
    (traceWith typ sub source layer payload cls force s).ctl = s.ctl := by
  simp [traceWith]

@[simp] theorem trace_ctl (typ sub source : Nat) (layer : BitVec 16) (payload : List Nat) (s : State) :
    (trace typ sub source layer payload s).ctl = s.ctl := by
  simp [trace]

@[simp] theorem append_ctl (typ : Nat) (payload : List Byte) (effect : Effect) (s : State) :
    (append typ payload effect s).ctl = s.ctl := by
  simp [append]

@[simp] theorem record_ctl (typ : Nat) (payload : List Byte) (s : State) :
    (record typ payload s).ctl = s.ctl := by
  simp [record]

@[simp] theorem notify_ctl (sensor : Nat) (s : State) :
    (notify sensor s).ctl = s.ctl := by
  simp only [notify]; split <;> simp

@[simp] theorem State.setStack_ctl (s : State) (k : Nat) (v : Stack) :
    (State.setStack s k v).ctl = s.ctl := by
  simp [State.setStack]

@[simp] theorem modStack_ctl (k : Nat) (f : Stack → Stack) (s : State) :
    (modStack k f s).ctl = s.ctl := by
  simp [modStack]

@[simp] theorem setHealth_ctl (k : Nat) (h : Health) (s : State) :
    (setHealth k h s).ctl = s.ctl := by
  simp [setHealth]

@[simp] theorem failDie_ctl (k d : Nat) (s : State) :
    (failDie k d s).ctl = s.ctl := by
  simp [failDie]

@[simp] theorem failChannel_ctl (k c : Nat) (s : State) :
    (failChannel k c s).ctl = s.ctl := by
  simp [failChannel]

@[simp] theorem modDesc_ctl (i : Nat) (f : Desc → Desc) (s : State) :
    (modDesc i f s).ctl = s.ctl := by
  simp only [modDesc]; split <;> simp

@[simp] theorem advanceGen_ctl (h : BitVec 32) (s : State) :
    (advanceGen h s).ctl = s.ctl := by
  simp only [advanceGen]; split <;> simp

@[simp] theorem tick_ctl (s : State) :
    (tick s).ctl = s.ctl := by
  simp [tick]

end Sys2Proof.Machine
end

