-- ==== Sys2Proof/Laws/Memory.lean ====
section
/-! SUPPORT. The operations of Machine/Memory.lean leave the registers that software sets alone. -/

namespace Sys2Proof.Machine

@[simp] theorem failFull_ctl (k : Nat) (s : State) :
    (failFull k s).ctl = s.ctl := by
  first
  | (simp [failFull, -List.reduceReplicate, foldl_ctl]; done)
  | (simp only [failFull]; (repeat' split) <;> simp [-List.reduceReplicate, foldl_ctl] <;> done)
  | (simp only [failFull]
     repeat' (split <;> (try (rename_i heq; first
       | (replace heq := (congrArg (fun x => (Prod.snd x).ctl) heq).symm; simp [-List.reduceReplicate, foldl_ctl] at heq)
  )))
     all_goals (first | (simp [-List.reduceReplicate, foldl_ctl]; done) | (simp [*, -List.reduceReplicate, foldl_ctl]; done) | (simp_all [-List.reduceReplicate, foldl_ctl]; done)))
  | (simp only [failFull]
     refine foldl_ctl _ (fun s a => ?_) _ _
     (repeat' split) <;> simp [-List.reduceReplicate, foldl_ctl])
  | (simp only [failFull]
     (repeat' split) <;> first
       | (simp [-List.reduceReplicate, foldl_ctl]; done)
       | (refine (foldl_ctl _ (fun s a => ?_) _ _).trans ?_
          all_goals ((repeat' split) <;> simp [-List.reduceReplicate, foldl_ctl])))

@[simp] theorem enterPoison_ctl (k : Nat) (ranges : List (Nat × Nat)) (counted : Bool) (s : State) :
    (enterPoison k ranges counted s).ctl = s.ctl := by
  simp [enterPoison]

@[simp] theorem leavePoison_ctl (id : Nat) (s : State) :
    (leavePoison id s).ctl = s.ctl := by
  first
  | (simp [leavePoison, -List.reduceReplicate, foldl_ctl]; done)
  | (simp only [leavePoison]; (repeat' split) <;> simp [-List.reduceReplicate, foldl_ctl] <;> done)
  | (simp only [leavePoison]
     repeat' (split <;> (try (rename_i heq; first
       | (replace heq := (congrArg (fun x => (Prod.snd x).ctl) heq).symm; simp [-List.reduceReplicate, foldl_ctl] at heq)
  )))
     all_goals (first | (simp [-List.reduceReplicate, foldl_ctl]; done) | (simp [*, -List.reduceReplicate, foldl_ctl]; done) | (simp_all [-List.reduceReplicate, foldl_ctl]; done)))
  | (simp only [leavePoison]
     refine foldl_ctl _ (fun s a => ?_) _ _
     (repeat' split) <;> simp [-List.reduceReplicate, foldl_ctl])
  | (simp only [leavePoison]
     (repeat' split) <;> first
       | (simp [-List.reduceReplicate, foldl_ctl]; done)
       | (refine (foldl_ctl _ (fun s a => ?_) _ _).trans ?_
          all_goals ((repeat' split) <;> simp [-List.reduceReplicate, foldl_ctl])))

@[simp] theorem logCe_ctl (id : Nat) (name : LineName) (codewords : Nat) (scrub : Bool) (s : State) :
    (logCe id name codewords scrub s).ctl = s.ctl := by
  first
  | (simp [logCe, -List.reduceReplicate, foldl_ctl]; done)
  | (simp only [logCe]; (repeat' split) <;> simp [-List.reduceReplicate, foldl_ctl] <;> done)
  | (simp only [logCe]
     repeat' (split <;> (try (rename_i heq; first
       | (replace heq := (congrArg (fun x => (Prod.snd x).ctl) heq).symm; simp [-List.reduceReplicate, foldl_ctl] at heq)
  )))
     all_goals (first | (simp [-List.reduceReplicate, foldl_ctl]; done) | (simp [*, -List.reduceReplicate, foldl_ctl]; done) | (simp_all [-List.reduceReplicate, foldl_ctl]; done)))
  | (simp only [logCe]
     refine foldl_ctl _ (fun s a => ?_) _ _
     (repeat' split) <;> simp [-List.reduceReplicate, foldl_ctl])
  | (simp only [logCe]
     (repeat' split) <;> first
       | (simp [-List.reduceReplicate, foldl_ctl]; done)
       | (refine (foldl_ctl _ (fun s a => ?_) _ _).trans ?_
          all_goals ((repeat' split) <;> simp [-List.reduceReplicate, foldl_ctl])))

@[simp] theorem correct_ctl (id : Nat) (name : LineName) (codewords : Nat) (bursts : List Nat) (wrong : List (Nat × Byte)) (scrub : Bool) (s : State) :
    (correct id name codewords bursts wrong scrub s).ctl = s.ctl := by
  first
  | (simp [correct, -List.reduceReplicate, foldl_ctl]; done)
  | (simp only [correct]; (repeat' split) <;> simp [-List.reduceReplicate, foldl_ctl] <;> done)
  | (simp only [correct]
     repeat' (split <;> (try (rename_i heq; first
       | (replace heq := (congrArg (fun x => (Prod.snd x).ctl) heq).symm; simp [-List.reduceReplicate, foldl_ctl] at heq)
  )))
     all_goals (first | (simp [-List.reduceReplicate, foldl_ctl]; done) | (simp [*, -List.reduceReplicate, foldl_ctl]; done) | (simp_all [-List.reduceReplicate, foldl_ctl]; done)))
  | (simp only [correct]
     refine foldl_ctl _ (fun s a => ?_) _ _
     (repeat' split) <;> simp [-List.reduceReplicate, foldl_ctl])
  | (simp only [correct]
     (repeat' split) <;> first
       | (simp [-List.reduceReplicate, foldl_ctl]; done)
       | (refine (foldl_ctl _ (fun s a => ?_) _ _).trans ?_
          all_goals ((repeat' split) <;> simp [-List.reduceReplicate, foldl_ctl])))

@[simp] theorem traceSram_ctl (p : SramPlace) (s : State) :
    (traceSram p s).ctl = s.ctl := by
  first
  | (simp [traceSram, -List.reduceReplicate, foldl_ctl]; done)
  | (simp only [traceSram]; (repeat' split) <;> simp [-List.reduceReplicate, foldl_ctl] <;> done)
  | (simp only [traceSram]
     repeat' (split <;> (try (rename_i heq; first
       | (replace heq := (congrArg (fun x => (Prod.snd x).ctl) heq).symm; simp [-List.reduceReplicate, foldl_ctl] at heq)
  )))
     all_goals (first | (simp [-List.reduceReplicate, foldl_ctl]; done) | (simp [*, -List.reduceReplicate, foldl_ctl]; done) | (simp_all [-List.reduceReplicate, foldl_ctl]; done)))
  | (simp only [traceSram]
     refine foldl_ctl _ (fun s a => ?_) _ _
     (repeat' split) <;> simp [-List.reduceReplicate, foldl_ctl])
  | (simp only [traceSram]
     (repeat' split) <;> first
       | (simp [-List.reduceReplicate, foldl_ctl]; done)
       | (refine (foldl_ctl _ (fun s a => ?_) _ _).trans ?_
          all_goals ((repeat' split) <;> simp [-List.reduceReplicate, foldl_ctl])))

@[simp] theorem meetSram_ctl (p : SramPlace) (s : State) :
    (meetSram p s).2.ctl = s.ctl := by
  first
  | (simp [meetSram, -List.reduceReplicate, foldl_ctl]; done)
  | (simp only [meetSram]; (repeat' split) <;> simp [-List.reduceReplicate, foldl_ctl] <;> done)
  | (simp only [meetSram]
     repeat' (split <;> (try (rename_i heq; first
       | (replace heq := (congrArg (fun x => (Prod.snd x).ctl) heq).symm; simp [-List.reduceReplicate, foldl_ctl] at heq)
  )))
     all_goals (first | (simp [-List.reduceReplicate, foldl_ctl]; done) | (simp [*, -List.reduceReplicate, foldl_ctl]; done) | (simp_all [-List.reduceReplicate, foldl_ctl]; done)))
  | (simp only [meetSram]
     refine foldl_ctl _ (fun s a => ?_) _ _
     (repeat' split) <;> simp [-List.reduceReplicate, foldl_ctl])
  | (simp only [meetSram]
     (repeat' split) <;> first
       | (simp [-List.reduceReplicate, foldl_ctl]; done)
       | (refine (foldl_ctl _ (fun s a => ?_) _ _).trans ?_
          all_goals ((repeat' split) <;> simp [-List.reduceReplicate, foldl_ctl])))

@[simp] theorem meetHandle_ctl (use : Nat) (s : State) :
    (meetHandle use s).2.ctl = s.ctl := by
  first
  | (simp [meetHandle, -List.reduceReplicate, foldl_ctl]; done)
  | (simp only [meetHandle]; (repeat' split) <;> simp [-List.reduceReplicate, foldl_ctl] <;> done)
  | (simp only [meetHandle]
     repeat' (split <;> (try (rename_i heq; first
       | (replace heq := (congrArg (fun x => (Prod.snd x).ctl) heq).symm; simp [-List.reduceReplicate, foldl_ctl] at heq)
  )))
     all_goals (first | (simp [-List.reduceReplicate, foldl_ctl]; done) | (simp [*, -List.reduceReplicate, foldl_ctl]; done) | (simp_all [-List.reduceReplicate, foldl_ctl]; done)))
  | (simp only [meetHandle]
     refine foldl_ctl _ (fun s a => ?_) _ _
     (repeat' split) <;> simp [-List.reduceReplicate, foldl_ctl])
  | (simp only [meetHandle]
     (repeat' split) <;> first
       | (simp [-List.reduceReplicate, foldl_ctl]; done)
       | (refine (foldl_ctl _ (fun s a => ?_) _ _).trans ?_
          all_goals ((repeat' split) <;> simp [-List.reduceReplicate, foldl_ctl])))

@[simp] theorem clearSram_ctl (p : SramPlace) (s : State) :
    (clearSram p s).ctl = s.ctl := by
  first
  | (simp [clearSram, -List.reduceReplicate, foldl_ctl]; done)
  | (simp only [clearSram]; (repeat' split) <;> simp [-List.reduceReplicate, foldl_ctl] <;> done)
  | (simp only [clearSram]
     repeat' (split <;> (try (rename_i heq; first
       | (replace heq := (congrArg (fun x => (Prod.snd x).ctl) heq).symm; simp [-List.reduceReplicate, foldl_ctl] at heq)
  )))
     all_goals (first | (simp [-List.reduceReplicate, foldl_ctl]; done) | (simp [*, -List.reduceReplicate, foldl_ctl]; done) | (simp_all [-List.reduceReplicate, foldl_ctl]; done)))
  | (simp only [clearSram]
     refine foldl_ctl _ (fun s a => ?_) _ _
     (repeat' split) <;> simp [-List.reduceReplicate, foldl_ctl])
  | (simp only [clearSram]
     (repeat' split) <;> first
       | (simp [-List.reduceReplicate, foldl_ctl]; done)
       | (refine (foldl_ctl _ (fun s a => ?_) _ _).trans ?_
          all_goals ((repeat' split) <;> simp [-List.reduceReplicate, foldl_ctl])))

@[simp] theorem journal_ctl (k n : Nat) (s : State) :
    (journal k n s).ctl = s.ctl := by
  simp [journal]

@[simp] theorem markWritten_ctl (k first count : Nat) (s : State) :
    (markWritten k first count s).ctl = s.ctl := by
  first
  | (simp [markWritten, -List.reduceReplicate, foldl_ctl]; done)
  | (simp only [markWritten]; (repeat' split) <;> simp [-List.reduceReplicate, foldl_ctl] <;> done)
  | (simp only [markWritten]
     repeat' (split <;> (try (rename_i heq; first
       | (replace heq := (congrArg (fun x => (Prod.snd x).ctl) heq).symm; simp [-List.reduceReplicate, foldl_ctl] at heq)
  )))
     all_goals (first | (simp [-List.reduceReplicate, foldl_ctl]; done) | (simp [*, -List.reduceReplicate, foldl_ctl]; done) | (simp_all [-List.reduceReplicate, foldl_ctl]; done)))
  | (simp only [markWritten]
     refine foldl_ctl _ (fun s a => ?_) _ _
     (repeat' split) <;> simp [-List.reduceReplicate, foldl_ctl])
  | (simp only [markWritten]
     (repeat' split) <;> first
       | (simp [-List.reduceReplicate, foldl_ctl]; done)
       | (refine (foldl_ctl _ (fun s a => ?_) _ _).trans ?_
          all_goals ((repeat' split) <;> simp [-List.reduceReplicate, foldl_ctl])))

@[simp] theorem writeCheck_ctl (k n : Nat) (s : State) :
    (writeCheck k n s).ctl = s.ctl := by
  first
  | (simp [writeCheck, -List.reduceReplicate, foldl_ctl]; done)
  | (simp only [writeCheck]; (repeat' split) <;> simp [-List.reduceReplicate, foldl_ctl] <;> done)
  | (simp only [writeCheck]
     repeat' (split <;> (try (rename_i heq; first
       | (replace heq := (congrArg (fun x => (Prod.snd x).ctl) heq).symm; simp [-List.reduceReplicate, foldl_ctl] at heq)
  )))
     all_goals (first | (simp [-List.reduceReplicate, foldl_ctl]; done) | (simp [*, -List.reduceReplicate, foldl_ctl]; done) | (simp_all [-List.reduceReplicate, foldl_ctl]; done)))
  | (simp only [writeCheck]
     refine foldl_ctl _ (fun s a => ?_) _ _
     (repeat' split) <;> simp [-List.reduceReplicate, foldl_ctl])
  | (simp only [writeCheck]
     (repeat' split) <;> first
       | (simp [-List.reduceReplicate, foldl_ctl]; done)
       | (refine (foldl_ctl _ (fun s a => ?_) _ _).trans ?_
          all_goals ((repeat' split) <;> simp [-List.reduceReplicate, foldl_ctl])))

@[simp] theorem badCheck_ctl (k n : Nat) (s : State) :
    (badCheck k n s).ctl = s.ctl := by
  first
  | (simp [badCheck, -List.reduceReplicate, foldl_ctl]; done)
  | (simp only [badCheck]; (repeat' split) <;> simp [-List.reduceReplicate, foldl_ctl] <;> done)
  | (simp only [badCheck]
     repeat' (split <;> (try (rename_i heq; first
       | (replace heq := (congrArg (fun x => (Prod.snd x).ctl) heq).symm; simp [-List.reduceReplicate, foldl_ctl] at heq)
  )))
     all_goals (first | (simp [-List.reduceReplicate, foldl_ctl]; done) | (simp [*, -List.reduceReplicate, foldl_ctl]; done) | (simp_all [-List.reduceReplicate, foldl_ctl]; done)))
  | (simp only [badCheck]
     refine foldl_ctl _ (fun s a => ?_) _ _
     (repeat' split) <;> simp [-List.reduceReplicate, foldl_ctl])
  | (simp only [badCheck]
     (repeat' split) <;> first
       | (simp [-List.reduceReplicate, foldl_ctl]; done)
       | (refine (foldl_ctl _ (fun s a => ?_) _ _).trans ?_
          all_goals ((repeat' split) <;> simp [-List.reduceReplicate, foldl_ctl])))

@[simp] theorem wrongCheck_ctl (k n : Nat) (wrong : List (Nat × Byte)) (s : State) :
    (wrongCheck k n wrong s).ctl = s.ctl := by
  first
  | (simp [wrongCheck, -List.reduceReplicate, foldl_ctl]; done)
  | (simp only [wrongCheck]; (repeat' split) <;> simp [-List.reduceReplicate, foldl_ctl] <;> done)
  | (simp only [wrongCheck]
     repeat' (split <;> (try (rename_i heq; first
       | (replace heq := (congrArg (fun x => (Prod.snd x).ctl) heq).symm; simp [-List.reduceReplicate, foldl_ctl] at heq)
  )))
     all_goals (first | (simp [-List.reduceReplicate, foldl_ctl]; done) | (simp [*, -List.reduceReplicate, foldl_ctl]; done) | (simp_all [-List.reduceReplicate, foldl_ctl]; done)))
  | (simp only [wrongCheck]
     refine foldl_ctl _ (fun s a => ?_) _ _
     (repeat' split) <;> simp [-List.reduceReplicate, foldl_ctl])
  | (simp only [wrongCheck]
     (repeat' split) <;> first
       | (simp [-List.reduceReplicate, foldl_ctl]; done)
       | (refine (foldl_ctl _ (fun s a => ?_) _ _).trans ?_
          all_goals ((repeat' split) <;> simp [-List.reduceReplicate, foldl_ctl])))

theorem enterPoison_trace_ctl (k x n p : Nat) (r : List (Nat × Nat)) (c : Bool) (l : BitVec 16) (v : List Nat)
    (f : Tab (List (Nat × Nat × Byte))) (s : State) :
    (enterPoison k r c (trace x n p l v { s with store := { s.store with faults := f } })).ctl = s.ctl := by
  rw [enterPoison_ctl, trace_ctl]; rfl

@[simp] theorem readCheck_ctl (k n : Nat) (scrub : Bool) (s : State) :
    (readCheck k n scrub s).2.ctl = s.ctl := by
  first
  | (simp [readCheck, -List.reduceReplicate, foldl_ctl]; done)
  | (simp only [readCheck]; (repeat' split) <;> simp [-List.reduceReplicate, foldl_ctl] <;> done)
  | (simp only [readCheck]
     repeat' (split <;> (try (rename_i heq; first
       | (replace heq := (congrArg (fun x => (Prod.snd x).ctl) heq).symm; simp [-List.reduceReplicate, foldl_ctl] at heq)
  )))
     all_goals (first | (simp [-List.reduceReplicate, foldl_ctl]; done) | (simp [*, -List.reduceReplicate, foldl_ctl]; done) | (simp_all [-List.reduceReplicate, foldl_ctl]; done)))
  | (simp only [readCheck]
     refine foldl_ctl _ (fun s a => ?_) _ _
     (repeat' split) <;> simp [-List.reduceReplicate, foldl_ctl])
  | (simp only [readCheck]
     (repeat' split) <;> first
       | (simp [-List.reduceReplicate, foldl_ctl]; done)
       | (refine (foldl_ctl _ (fun s a => ?_) _ _).trans ?_
          all_goals ((repeat' split) <;> simp [-List.reduceReplicate, foldl_ctl])))

@[simp] theorem setCache_ctl (die : Nat) (l : List CheckLine) (s : State) :
    (setCache die l s).ctl = s.ctl := by
  first
  | (simp [setCache, -List.reduceReplicate, foldl_ctl]; done)
  | (simp only [setCache]; (repeat' split) <;> simp [-List.reduceReplicate, foldl_ctl] <;> done)
  | (simp only [setCache]
     repeat' (split <;> (try (rename_i heq; first
       | (replace heq := (congrArg (fun x => (Prod.snd x).ctl) heq).symm; simp [-List.reduceReplicate, foldl_ctl] at heq)
  )))
     all_goals (first | (simp [-List.reduceReplicate, foldl_ctl]; done) | (simp [*, -List.reduceReplicate, foldl_ctl]; done) | (simp_all [-List.reduceReplicate, foldl_ctl]; done)))
  | (simp only [setCache]
     refine foldl_ctl _ (fun s a => ?_) _ _
     (repeat' split) <;> simp [-List.reduceReplicate, foldl_ctl])
  | (simp only [setCache]
     (repeat' split) <;> first
       | (simp [-List.reduceReplicate, foldl_ctl]; done)
       | (refine (foldl_ctl _ (fun s a => ?_) _ _).trans ?_
          all_goals ((repeat' split) <;> simp [-List.reduceReplicate, foldl_ctl])))

@[simp] theorem meetCheck_ctl (id : Nat) (s : State) :
    (meetCheck id s).2.ctl = s.ctl := by
  first
  | (simp [meetCheck, -List.reduceReplicate, foldl_ctl]; done)
  | (simp only [meetCheck]; (repeat' split) <;> simp [-List.reduceReplicate, foldl_ctl] <;> done)
  | (simp only [meetCheck]
     repeat' (split <;> (try (rename_i heq; first
       | (replace heq := (congrArg (fun x => (Prod.snd x).ctl) heq).symm; simp [-List.reduceReplicate, foldl_ctl] at heq)
  )))
     all_goals (first | (simp [-List.reduceReplicate, foldl_ctl]; done) | (simp [*, -List.reduceReplicate, foldl_ctl]; done) | (simp_all [-List.reduceReplicate, foldl_ctl]; done)))
  | (simp only [meetCheck]
     refine foldl_ctl _ (fun s a => ?_) _ _
     (repeat' split) <;> simp [-List.reduceReplicate, foldl_ctl])
  | (simp only [meetCheck]
     (repeat' split) <;> first
       | (simp [-List.reduceReplicate, foldl_ctl]; done)
       | (refine (foldl_ctl _ (fun s a => ?_) _ _).trans ?_
          all_goals ((repeat' split) <;> simp [-List.reduceReplicate, foldl_ctl])))

@[simp] theorem writeBack_ctl (e : CheckLine) (s : State) :
    (writeBack e s).ctl = s.ctl := by
  first
  | (simp [writeBack, -List.reduceReplicate, foldl_ctl]; done)
  | (simp only [writeBack]; (repeat' split) <;> simp [-List.reduceReplicate, foldl_ctl] <;> done)
  | (simp only [writeBack]
     repeat' (split <;> (try (rename_i heq; first
       | (replace heq := (congrArg (fun x => (Prod.snd x).ctl) heq).symm; simp [-List.reduceReplicate, foldl_ctl] at heq)
  )))
     all_goals (first | (simp [-List.reduceReplicate, foldl_ctl]; done) | (simp [*, -List.reduceReplicate, foldl_ctl]; done) | (simp_all [-List.reduceReplicate, foldl_ctl]; done)))
  | (simp only [writeBack]
     refine foldl_ctl _ (fun s a => ?_) _ _
     (repeat' split) <;> simp [-List.reduceReplicate, foldl_ctl])
  | (simp only [writeBack]
     (repeat' split) <;> first
       | (simp [-List.reduceReplicate, foldl_ctl]; done)
       | (refine (foldl_ctl _ (fun s a => ?_) _ _).trans ?_
          all_goals ((repeat' split) <;> simp [-List.reduceReplicate, foldl_ctl])))

@[simp] theorem evict_ctl (die : Nat) (s : State) :
    (evict die s).ctl = s.ctl := by
  first
  | (simp [evict, -List.reduceReplicate, foldl_ctl]; done)
  | (simp only [evict]; (repeat' split) <;> simp [-List.reduceReplicate, foldl_ctl] <;> done)
  | (simp only [evict]
     repeat' (split <;> (try (rename_i heq; first
       | (replace heq := (congrArg (fun x => (Prod.snd x).ctl) heq).symm; simp [-List.reduceReplicate, foldl_ctl] at heq)
  )))
     all_goals (first | (simp [-List.reduceReplicate, foldl_ctl]; done) | (simp [*, -List.reduceReplicate, foldl_ctl]; done) | (simp_all [-List.reduceReplicate, foldl_ctl]; done)))
  | (simp only [evict]
     refine foldl_ctl _ (fun s a => ?_) _ _
     (repeat' split) <;> simp [-List.reduceReplicate, foldl_ctl])
  | (simp only [evict]
     (repeat' split) <;> first
       | (simp [-List.reduceReplicate, foldl_ctl]; done)
       | (refine (foldl_ctl _ (fun s a => ?_) _ _).trans ?_
          all_goals ((repeat' split) <;> simp [-List.reduceReplicate, foldl_ctl])))

@[simp] theorem useCheck_ctl (k n : Nat) (write : Bool) (s : State) :
    (useCheck k n write s).2.ctl = s.ctl := by
  first
  | (simp [useCheck, -List.reduceReplicate, foldl_ctl]; done)
  | (simp only [useCheck]; (repeat' split) <;> simp [-List.reduceReplicate, foldl_ctl] <;> done)
  | (simp only [useCheck]
     repeat' (split <;> (try (rename_i heq; first
       | (replace heq := (congrArg (fun x => (Prod.snd x).ctl) heq).symm; simp [-List.reduceReplicate, foldl_ctl] at heq)
  )))
     all_goals (first | (simp [-List.reduceReplicate, foldl_ctl]; done) | (simp [*, -List.reduceReplicate, foldl_ctl]; done) | (simp_all [-List.reduceReplicate, foldl_ctl]; done)))
  | (simp only [useCheck]
     refine foldl_ctl _ (fun s a => ?_) _ _
     (repeat' split) <;> simp [-List.reduceReplicate, foldl_ctl])
  | (simp only [useCheck]
     (repeat' split) <;> first
       | (simp [-List.reduceReplicate, foldl_ctl]; done)
       | (refine (foldl_ctl _ (fun s a => ?_) _ _).trans ?_
          all_goals ((repeat' split) <;> simp [-List.reduceReplicate, foldl_ctl])))

@[simp] theorem flushCaches_ctl (s : State) :
    (flushCaches s).ctl = s.ctl := by
  first
  | (simp [flushCaches, -List.reduceReplicate, foldl_ctl]; done)
  | (simp only [flushCaches]; (repeat' split) <;> simp [-List.reduceReplicate, foldl_ctl] <;> done)
  | (simp only [flushCaches]
     repeat' (split <;> (try (rename_i heq; first
       | (replace heq := (congrArg (fun x => (Prod.snd x).ctl) heq).symm; simp [-List.reduceReplicate, foldl_ctl] at heq)
  )))
     all_goals (first | (simp [-List.reduceReplicate, foldl_ctl]; done) | (simp [*, -List.reduceReplicate, foldl_ctl]; done) | (simp_all [-List.reduceReplicate, foldl_ctl]; done)))
  | (simp only [flushCaches]
     refine foldl_ctl _ (fun s a => ?_) _ _
     (repeat' split) <;> simp [-List.reduceReplicate, foldl_ctl])
  | (simp only [flushCaches]
     (repeat' split) <;> first
       | (simp [-List.reduceReplicate, foldl_ctl]; done)
       | (refine (foldl_ctl _ (fun s a => ?_) _ _).trans ?_
          all_goals ((repeat' split) <;> simp [-List.reduceReplicate, foldl_ctl])))

@[simp] theorem localise_ctl (id : Nat) (name : LineName) (s : State) :
    (localise id name s).2.ctl = s.ctl := by
  simp only [localise]; split <;> simp

@[simp] theorem uncorrectableLine_ctl (id : Nat) (counted : Bool) (s : State) :
    (uncorrectableLine id counted s).ctl = s.ctl := by
  simp [uncorrectableLine]

@[simp] theorem patternFound_ctl (id : Nat) (name : LineName) (s : State) :
    (patternFound id name s).2.ctl = s.ctl := by
  first
  | (simp [patternFound, -List.reduceReplicate, foldl_ctl]; done)
  | (simp only [patternFound]; (repeat' split) <;> simp [-List.reduceReplicate, foldl_ctl] <;> done)
  | (simp only [patternFound]
     repeat' (split <;> (try (rename_i heq; first
       | (replace heq := (congrArg (fun x => (Prod.snd x).ctl) heq).symm; simp [-List.reduceReplicate, foldl_ctl] at heq)
  )))
     all_goals (first | (simp [-List.reduceReplicate, foldl_ctl]; done) | (simp [*, -List.reduceReplicate, foldl_ctl]; done) | (simp_all [-List.reduceReplicate, foldl_ctl]; done)))
  | (simp only [patternFound]
     refine foldl_ctl _ (fun s a => ?_) _ _
     (repeat' split) <;> simp [-List.reduceReplicate, foldl_ctl])
  | (simp only [patternFound]
     (repeat' split) <;> first
       | (simp [-List.reduceReplicate, foldl_ctl]; done)
       | (refine (foldl_ctl _ (fun s a => ?_) _ _).trans ?_
          all_goals ((repeat' split) <;> simp [-List.reduceReplicate, foldl_ctl])))

@[simp] theorem decodeLine_ctl (id : Nat) (name : LineName) (scrub : Bool) (s : State) :
    (decodeLine id name scrub s).2.ctl = s.ctl := by
  simp only [decodeLine]
  repeat' (split <;> (try (rename_i heq; first
    | (replace heq := (congrArg (fun x => (Prod.snd x).ctl) heq).symm; simp at heq)
  )))
  all_goals (first | (simp; done) | (simp; done) | (simp_all; done))

@[simp] theorem readLine_ctl (id : Nat) (name : LineName) (s : State) :
    (readLine id name s).2.ctl = s.ctl := by
  simp only [readLine]
  repeat' (split <;> (try (rename_i heq; first
    | (replace heq := (congrArg (fun x => (Prod.snd x).ctl) heq).symm; simp at heq)
  )))
  all_goals (first | (simp; done) | (simp; done) | (simp_all; done))

@[simp] theorem reportUncorr_ctl (name : LineName) (id : Nat) (s : State) :
    (reportUncorr name id s).2.ctl = s.ctl := by
  simp [reportUncorr]

@[simp] theorem reportCrc_ctl (name : LineName) (detected lastGood : Nat) (source : Nat) (s : State) :
    (reportCrc name detected lastGood source s).2.ctl = s.ctl := by
  simp [reportCrc]

@[simp] theorem reportSram_ctl (p : SramPlace) (s : State) :
    (reportSram p s).2.ctl = s.ctl := by
  first
  | (simp [reportSram, -List.reduceReplicate, foldl_ctl]; done)
  | (simp only [reportSram]; (repeat' split) <;> simp [-List.reduceReplicate, foldl_ctl] <;> done)
  | (simp only [reportSram]
     repeat' (split <;> (try (rename_i heq; first
       | (replace heq := (congrArg (fun x => (Prod.snd x).ctl) heq).symm; simp [-List.reduceReplicate, foldl_ctl] at heq)
  )))
     all_goals (first | (simp [-List.reduceReplicate, foldl_ctl]; done) | (simp [*, -List.reduceReplicate, foldl_ctl]; done) | (simp_all [-List.reduceReplicate, foldl_ctl]; done)))
  | (simp only [reportSram]
     refine foldl_ctl _ (fun s a => ?_) _ _
     (repeat' split) <;> simp [-List.reduceReplicate, foldl_ctl])
  | (simp only [reportSram]
     (repeat' split) <;> first
       | (simp [-List.reduceReplicate, foldl_ctl]; done)
       | (refine (foldl_ctl _ (fun s a => ?_) _ _).trans ?_
          all_goals ((repeat' split) <;> simp [-List.reduceReplicate, foldl_ctl])))

@[simp] theorem takeLine_ctl (id : Nat) (name : LineName) (die : Option Nat) (here : Nat) (s : State) :
    (takeLine id name die here s).2.ctl = s.ctl := by
  simp only [takeLine]
  repeat' (split <;> (try (rename_i heq; first
    | (replace heq := (congrArg (fun x => (Prod.snd x).ctl) heq).symm; simp at heq)
  )))
  all_goals (first | (simp; done) | (simp; done) | (simp_all; done))

@[simp] theorem storeLine_ctl (id : Nat) (bytes : List Byte) (made : Nat) (s : State) :
    (storeLine id bytes made s).ctl = s.ctl := by
  first
  | (simp [storeLine, -List.reduceReplicate, foldl_ctl]; done)
  | (simp only [storeLine]; (repeat' split) <;> simp [-List.reduceReplicate, foldl_ctl] <;> done)
  | (simp only [storeLine]
     repeat' (split <;> (try (rename_i heq; first
       | (replace heq := (congrArg (fun x => (Prod.snd x).ctl) heq).symm; simp [-List.reduceReplicate, foldl_ctl] at heq)
  )))
     all_goals (first | (simp [-List.reduceReplicate, foldl_ctl]; done) | (simp [*, -List.reduceReplicate, foldl_ctl]; done) | (simp_all [-List.reduceReplicate, foldl_ctl]; done)))
  | (simp only [storeLine]
     refine foldl_ctl _ (fun s a => ?_) _ _
     (repeat' split) <;> simp [-List.reduceReplicate, foldl_ctl])
  | (simp only [storeLine]
     (repeat' split) <;> first
       | (simp [-List.reduceReplicate, foldl_ctl]; done)
       | (refine (foldl_ctl _ (fun s a => ?_) _ _).trans ?_
          all_goals ((repeat' split) <;> simp [-List.reduceReplicate, foldl_ctl])))

@[simp] theorem checkForWrite_ctl (id : Nat) (s : State) :
    (checkForWrite id s).2.ctl = s.ctl := by
  first
  | (simp [checkForWrite, -List.reduceReplicate, foldl_ctl]; done)
  | (simp only [checkForWrite]; (repeat' split) <;> simp [-List.reduceReplicate, foldl_ctl] <;> done)
  | (simp only [checkForWrite]
     repeat' (split <;> (try (rename_i heq; first
       | (replace heq := (congrArg (fun x => (Prod.snd x).ctl) heq).symm; simp [-List.reduceReplicate, foldl_ctl] at heq)
  )))
     all_goals (first | (simp [-List.reduceReplicate, foldl_ctl]; done) | (simp [*, -List.reduceReplicate, foldl_ctl]; done) | (simp_all [-List.reduceReplicate, foldl_ctl]; done)))
  | (simp only [checkForWrite]
     refine foldl_ctl _ (fun s a => ?_) _ _
     (repeat' split) <;> simp [-List.reduceReplicate, foldl_ctl])
  | (simp only [checkForWrite]
     (repeat' split) <;> first
       | (simp [-List.reduceReplicate, foldl_ctl]; done)
       | (refine (foldl_ctl _ (fun s a => ?_) _ _).trans ?_
          all_goals ((repeat' split) <;> simp [-List.reduceReplicate, foldl_ctl])))

@[simp] theorem writeLine_ctl (id : Nat) (name : LineName) (bytes : List Byte) (crcXor : BitVec 32) (last : Nat) (s : State) :
    (writeLine id name bytes crcXor last s).2.ctl = s.ctl := by
  first
  | (simp [writeLine, -List.reduceReplicate, foldl_ctl]; done)
  | (simp only [writeLine]; (repeat' split) <;> simp [-List.reduceReplicate, foldl_ctl] <;> done)
  | (simp only [writeLine]
     repeat' (split <;> (try (rename_i heq; first
       | (replace heq := (congrArg (fun x => (Prod.snd x).ctl) heq).symm; simp [-List.reduceReplicate, foldl_ctl] at heq)
  )))
     all_goals (first | (simp [-List.reduceReplicate, foldl_ctl]; done) | (simp [*, -List.reduceReplicate, foldl_ctl]; done) | (simp_all [-List.reduceReplicate, foldl_ctl]; done)))
  | (simp only [writeLine]
     refine foldl_ctl _ (fun s a => ?_) _ _
     (repeat' split) <;> simp [-List.reduceReplicate, foldl_ctl])
  | (simp only [writeLine]
     (repeat' split) <;> first
       | (simp [-List.reduceReplicate, foldl_ctl]; done)
       | (refine (foldl_ctl _ (fun s a => ?_) _ _).trans ?_
          all_goals ((repeat' split) <;> simp [-List.reduceReplicate, foldl_ctl])))

@[simp] theorem clearLine_ctl (id : Nat) (s : State) :
    (clearLine id s).2.ctl = s.ctl := by
  simp only [clearLine]; (repeat' split) <;> simp [-List.reduceReplicate]

@[simp] theorem mergeLine_ctl (id : Nat) (name : LineName) (pos : Nat) (bytes : List Byte) (s : State) :
    (mergeLine id name pos bytes s).2.ctl = s.ctl := by
  simp only [mergeLine]
  repeat' (split <;> (try (rename_i heq; first
    | (replace heq := (congrArg (fun x => (Prod.snd x).ctl) heq).symm; simp at heq)
  )))
  all_goals (first | (simp; done) | (simp; done) | (simp_all; done))

@[simp] theorem traffic_ctl (idx n : Nat) (s : State) :
    (traffic idx n s).ctl = s.ctl := by
  simp [traffic]

theorem readLines_keeps (h : BitVec 32) (idx : Nat) (d : Desc) (die : Option Nat) (here : Nat) (i : Nat) (x0 : Nat) :
    KeepsAll (readLines h idx d die here i x0) := by
  induction x0 generalizing h idx d die here i
  all_goals
  intro k0
  simp only [readLines]
  repeat' (first
  | (with_reducible intro _)
  | with_reducible apply keeps_pureT
  | with_reducible apply keeps_throw
  | with_reducible apply keeps_setT
  | with_reducible apply keeps_bind keeps_get
  | with_reducible apply keeps_bind'
  | (split <;> (try (rename_i heq; replace heq := (congrArg (fun x => (Prod.snd x).ctl) heq).symm; simp [*] at heq)))
  | (simp [*]))

theorem readBytes_keeps (h : BitVec 32) (off len : Nat) (die : Option Nat) (here : Nat ) :
    KeepsAll (readBytes h off len die here) := by
  intro k0
  simp only [readBytes]
  repeat' (first
    | (with_reducible intro _)
    | with_reducible apply keeps_pureT
    | with_reducible apply keeps_refuse
    | with_reducible apply readLines_keeps _ _ _ _ _ _ _ _
    | with_reducible apply keeps_bind keeps_get
    | with_reducible apply keeps_bind'
    | (split))

@[simp] theorem writePiece_ctl (die : Option Nat) (h : BitVec 32) (idx : Nat) (d : Desc) (p : Nat × Nat × List Byte) (s : State) :
    (writePiece die h idx d p s).2.ctl = s.ctl := by
  first
  | (simp [writePiece, -List.reduceReplicate, foldl_ctl]; done)
  | (simp only [writePiece]; (repeat' split) <;> simp [-List.reduceReplicate, foldl_ctl] <;> done)
  | (simp only [writePiece]
     repeat' (split <;> (try (rename_i heq; first
       | (replace heq := (congrArg (fun x => (Prod.snd x).ctl) heq).symm; simp [-List.reduceReplicate, foldl_ctl] at heq)
  )))
     all_goals (first | (simp [-List.reduceReplicate, foldl_ctl]; done) | (simp [*, -List.reduceReplicate, foldl_ctl]; done) | (simp_all [-List.reduceReplicate, foldl_ctl]; done)))
  | (simp only [writePiece]
     refine foldl_ctl _ (fun s a => ?_) _ _
     (repeat' split) <;> simp [-List.reduceReplicate, foldl_ctl])
  | (simp only [writePiece]
     (repeat' split) <;> first
       | (simp [-List.reduceReplicate, foldl_ctl]; done)
       | (refine (foldl_ctl _ (fun s a => ?_) _ _).trans ?_
          all_goals ((repeat' split) <;> simp [-List.reduceReplicate, foldl_ctl])))

@[simp] theorem writePieces_ctl (die : Option Nat) (h : BitVec 32) (idx : Nat) (d : Desc) (x0 : List (Nat × Nat × List Byte)) (s : State) :
    (writePieces die h idx d x0 s).2.ctl = s.ctl := by
  induction x0 generalizing die h idx d s
  all_goals first
  | (simp [writePieces, -List.reduceReplicate, foldl_ctl]; done)
  | (simp [writePieces, *, -List.reduceReplicate, foldl_ctl]; done)
  | (simp only [writePieces]
     repeat' (split <;> (try (rename_i heq; replace heq := (congrArg (fun x => (Prod.snd x).ctl) heq).symm; simp [-List.reduceReplicate, foldl_ctl] at heq)))
     all_goals (first | (simp [*, -List.reduceReplicate, foldl_ctl]; done) | (simp_all [-List.reduceReplicate, foldl_ctl]; done)))

@[simp] theorem writeFrom_ctl (die : Option Nat) (h : BitVec 32) (off : Nat) (bytes : List Byte) (s : State) :
    (writeFrom die h off bytes s).2.ctl = s.ctl := by
  first
  | (simp [writeFrom, -List.reduceReplicate, foldl_ctl]; done)
  | (simp only [writeFrom]; (repeat' split) <;> simp [-List.reduceReplicate, foldl_ctl] <;> done)
  | (simp only [writeFrom]
     repeat' (split <;> (try (rename_i heq; first
       | (replace heq := (congrArg (fun x => (Prod.snd x).ctl) heq).symm; simp [-List.reduceReplicate, foldl_ctl] at heq)
  )))
     all_goals (first | (simp [-List.reduceReplicate, foldl_ctl]; done) | (simp [*, -List.reduceReplicate, foldl_ctl]; done) | (simp_all [-List.reduceReplicate, foldl_ctl]; done)))
  | (simp only [writeFrom]
     refine foldl_ctl _ (fun s a => ?_) _ _
     (repeat' split) <;> simp [-List.reduceReplicate, foldl_ctl])
  | (simp only [writeFrom]
     (repeat' split) <;> first
       | (simp [-List.reduceReplicate, foldl_ctl]; done)
       | (refine (foldl_ctl _ (fun s a => ?_) _ _).trans ?_
          all_goals ((repeat' split) <;> simp [-List.reduceReplicate, foldl_ctl])))

@[simp] theorem writeBytes_ctl (h : BitVec 32) (off : Nat) (bytes : List Byte) (s : State) :
    (writeBytes h off bytes s).2.ctl = s.ctl := by
  first
  | (simp [writeBytes, -List.reduceReplicate, foldl_ctl]; done)
  | (simp only [writeBytes]; (repeat' split) <;> simp [-List.reduceReplicate, foldl_ctl] <;> done)
  | (simp only [writeBytes]
     repeat' (split <;> (try (rename_i heq; first
       | (replace heq := (congrArg (fun x => (Prod.snd x).ctl) heq).symm; simp [-List.reduceReplicate, foldl_ctl] at heq)
  )))
     all_goals (first | (simp [-List.reduceReplicate, foldl_ctl]; done) | (simp [*, -List.reduceReplicate, foldl_ctl]; done) | (simp_all [-List.reduceReplicate, foldl_ctl]; done)))
  | (simp only [writeBytes]
     refine foldl_ctl _ (fun s a => ?_) _ _
     (repeat' split) <;> simp [-List.reduceReplicate, foldl_ctl])
  | (simp only [writeBytes]
     (repeat' split) <;> first
       | (simp [-List.reduceReplicate, foldl_ctl]; done)
       | (refine (foldl_ctl _ (fun s a => ?_) _ _).trans ?_
          all_goals ((repeat' split) <;> simp [-List.reduceReplicate, foldl_ctl])))

@[simp] theorem writeOuts_ctl (die : Option Nat) (x0 : List Out) (s : State) :
    (writeOuts die x0 s).2.ctl = s.ctl := by
  induction x0 generalizing die s
  all_goals first
  | (simp [writeOuts, -List.reduceReplicate, foldl_ctl]; done)
  | (simp [writeOuts, *, -List.reduceReplicate, foldl_ctl]; done)
  | (simp only [writeOuts]
     repeat' (split <;> (try (rename_i heq; replace heq := (congrArg (fun x => (Prod.snd x).ctl) heq).symm; simp [-List.reduceReplicate, foldl_ctl] at heq)))
     all_goals (first | (simp [*, -List.reduceReplicate, foldl_ctl]; done) | (simp_all [-List.reduceReplicate, foldl_ctl]; done)))

@[simp] theorem unlessOver_ctl (f : State → State) (s : State) (h : ∀ u, (f u).ctl = u.ctl) : (unlessOver f s).ctl = s.ctl := by
  unfold unlessOver; dsimp only; split
  · rfl
  · rw [h]; rfl

@[simp] theorem raisePoisoned_ctl (fs : List Fail) (s : State) :
    (raisePoisoned fs s).ctl = s.ctl := by
  first
  | (simp [raisePoisoned, -List.reduceReplicate, foldl_ctl]; done)
  | (simp only [raisePoisoned]; (repeat' split) <;> simp [-List.reduceReplicate, foldl_ctl] <;> done)
  | (simp only [raisePoisoned]
     repeat' (split <;> (try (rename_i heq; first
       | (replace heq := (congrArg (fun x => (Prod.snd x).ctl) heq).symm; simp [-List.reduceReplicate, foldl_ctl] at heq)
  )))
     all_goals (first | (simp [-List.reduceReplicate, foldl_ctl]; done) | (simp [*, -List.reduceReplicate, foldl_ctl]; done) | (simp_all [-List.reduceReplicate, foldl_ctl]; done)))
  | (simp only [raisePoisoned]
     refine foldl_ctl _ (fun s a => ?_) _ _
     (repeat' split) <;> simp [-List.reduceReplicate, foldl_ctl])
  | (simp only [raisePoisoned]
     (repeat' split) <;> first
       | (simp [-List.reduceReplicate, foldl_ctl]; done)
       | (refine (foldl_ctl _ (fun s a => ?_) _ _).trans ?_
          all_goals ((repeat' split) <;> simp [-List.reduceReplicate, foldl_ctl])))

@[simp] theorem writeEach_ctl (h : BitVec 32) (idx : Nat) (d : Desc) (x0 : List (Nat × Nat × List Byte)) (s : State) :
    (writeEach h idx d x0 s).2.ctl = s.ctl := by
  induction x0 generalizing h idx d s
  all_goals first
  | (simp [writeEach, -List.reduceReplicate, foldl_ctl]; done)
  | (simp [writeEach, *, -List.reduceReplicate, foldl_ctl]; done)
  | (simp only [writeEach]
     repeat' (split <;> (try (rename_i heq; replace heq := (congrArg (fun x => (Prod.snd x).ctl) heq).symm; simp [-List.reduceReplicate, foldl_ctl] at heq)))
     all_goals (first | (simp [*, -List.reduceReplicate, foldl_ctl]; done) | (simp_all [-List.reduceReplicate, foldl_ctl]; done)))

@[simp] theorem writeBar4_ctl (h : BitVec 32) (off : Nat) (bytes : List Byte) (s : State) :
    (writeBar4 h off bytes s).ctl = s.ctl := by
  first
  | (simp [writeBar4, -List.reduceReplicate, foldl_ctl]; done)
  | (simp only [writeBar4]; (repeat' split) <;> simp [-List.reduceReplicate, foldl_ctl] <;> done)
  | (simp only [writeBar4]
     repeat' (split <;> (try (rename_i heq; first
       | (replace heq := (congrArg (fun x => (Prod.snd x).ctl) heq).symm; simp [-List.reduceReplicate, foldl_ctl] at heq)
  )))
     all_goals (first | (simp [-List.reduceReplicate, foldl_ctl]; done) | (simp [*, -List.reduceReplicate, foldl_ctl]; done) | (simp_all [-List.reduceReplicate, foldl_ctl]; done)))
  | (simp only [writeBar4]
     refine foldl_ctl _ (fun s a => ?_) _ _
     (repeat' split) <;> simp [-List.reduceReplicate, foldl_ctl])
  | (simp only [writeBar4]
     (repeat' split) <;> first
       | (simp [-List.reduceReplicate, foldl_ctl]; done)
       | (refine (foldl_ctl _ (fun s a => ?_) _ _).trans ?_
          all_goals ((repeat' split) <;> simp [-List.reduceReplicate, foldl_ctl])))

@[simp] theorem writeToTail_ctl (q : Nat) (h : BitVec 32) (bytes : List Byte) (s : State) :
    (writeToTail q h bytes s).ctl = s.ctl := by
  first
  | (simp [writeToTail, -List.reduceReplicate, foldl_ctl]; done)
  | (simp only [writeToTail]; (repeat' split) <;> simp [-List.reduceReplicate, foldl_ctl] <;> done)
  | (simp only [writeToTail]
     repeat' (split <;> (try (rename_i heq; first
       | (replace heq := (congrArg (fun x => (Prod.snd x).ctl) heq).symm; simp [-List.reduceReplicate, foldl_ctl] at heq)
  )))
     all_goals (first | (simp [-List.reduceReplicate, foldl_ctl]; done) | (simp [*, -List.reduceReplicate, foldl_ctl]; done) | (simp_all [-List.reduceReplicate, foldl_ctl]; done)))
  | (simp only [writeToTail]
     refine foldl_ctl _ (fun s a => ?_) _ _
     (repeat' split) <;> simp [-List.reduceReplicate, foldl_ctl])
  | (simp only [writeToTail]
     (repeat' split) <;> first
       | (simp [-List.reduceReplicate, foldl_ctl]; done)
       | (refine (foldl_ctl _ (fun s a => ?_) _ _).trans ?_
          all_goals ((repeat' split) <;> simp [-List.reduceReplicate, foldl_ctl])))

@[simp] theorem HeldWrite.make_ctl (w : HeldWrite) (s : State) :
    (HeldWrite.make w s).2.ctl = s.ctl := by
  first
  | (simp [HeldWrite.make, -List.reduceReplicate, foldl_ctl]; done)
  | (simp only [HeldWrite.make]; (repeat' split) <;> simp [-List.reduceReplicate, foldl_ctl] <;> done)
  | (simp only [HeldWrite.make]
     repeat' (split <;> (try (rename_i heq; first
       | (replace heq := (congrArg (fun x => (Prod.snd x).ctl) heq).symm; simp [-List.reduceReplicate, foldl_ctl] at heq)
  )))
     all_goals (first | (simp [-List.reduceReplicate, foldl_ctl]; done) | (simp [*, -List.reduceReplicate, foldl_ctl]; done) | (simp_all [-List.reduceReplicate, foldl_ctl]; done)))
  | (simp only [HeldWrite.make]
     refine foldl_ctl _ (fun s a => ?_) _ _
     (repeat' split) <;> simp [-List.reduceReplicate, foldl_ctl])
  | (simp only [HeldWrite.make]
     (repeat' split) <;> first
       | (simp [-List.reduceReplicate, foldl_ctl]; done)
       | (refine (foldl_ctl _ (fun s a => ?_) _ _).trans ?_
          all_goals ((repeat' split) <;> simp [-List.reduceReplicate, foldl_ctl])))

@[simp] theorem writeHeld_ctl (w : HeldWrite) (s : State) :
    (writeHeld w s).2.ctl = s.ctl := by
  first
  | (simp [writeHeld, -List.reduceReplicate, foldl_ctl]; done)
  | (simp only [writeHeld]; (repeat' split) <;> simp [-List.reduceReplicate, foldl_ctl] <;> done)
  | (simp only [writeHeld]
     repeat' (split <;> (try (rename_i heq; first
       | (replace heq := (congrArg (fun x => (Prod.snd x).ctl) heq).symm; simp [-List.reduceReplicate, foldl_ctl] at heq)
  )))
     all_goals (first | (simp [-List.reduceReplicate, foldl_ctl]; done) | (simp [*, -List.reduceReplicate, foldl_ctl]; done) | (simp_all [-List.reduceReplicate, foldl_ctl]; done)))
  | (simp only [writeHeld]
     refine foldl_ctl _ (fun s a => ?_) _ _
     (repeat' split) <;> simp [-List.reduceReplicate, foldl_ctl])
  | (simp only [writeHeld]
     (repeat' split) <;> first
       | (simp [-List.reduceReplicate, foldl_ctl]; done)
       | (refine (foldl_ctl _ (fun s a => ?_) _ _).trans ?_
          all_goals ((repeat' split) <;> simp [-List.reduceReplicate, foldl_ctl])))

@[simp] theorem releaseHeld_ctl (s : State) :
    (releaseHeld s).ctl = s.ctl := by
  first
  | (simp [releaseHeld, -List.reduceReplicate, foldl_ctl]; done)
  | (simp only [releaseHeld]; (repeat' split) <;> simp [-List.reduceReplicate, foldl_ctl] <;> done)
  | (simp only [releaseHeld]
     repeat' (split <;> (try (rename_i heq; first
       | (replace heq := (congrArg (fun x => (Prod.snd x).ctl) heq).symm; simp [-List.reduceReplicate, foldl_ctl] at heq)
  )))
     all_goals (first | (simp [-List.reduceReplicate, foldl_ctl]; done) | (simp [*, -List.reduceReplicate, foldl_ctl]; done) | (simp_all [-List.reduceReplicate, foldl_ctl]; done)))
  | (simp only [releaseHeld]
     refine foldl_ctl _ (fun s a => ?_) _ _
     (repeat' split) <;> simp [-List.reduceReplicate, foldl_ctl])
  | (simp only [releaseHeld]
     (repeat' split) <;> first
       | (simp [-List.reduceReplicate, foldl_ctl]; done)
       | (refine (foldl_ctl _ (fun s a => ?_) _ _).trans ?_
          all_goals ((repeat' split) <;> simp [-List.reduceReplicate, foldl_ctl])))

@[simp] theorem hostWrite_ctl (addr : Nat) (bytes : List Byte) (s : State) :
    (hostWrite addr bytes s).ctl = s.ctl := by
  simp [hostWrite]

end Sys2Proof.Machine
end

