-- ==== Sys2Proof/Laws/Operands.lean ====
section
/-! SUPPORT. The operations of Machine/Operands.lean leave the registers that software sets alone. -/

namespace Sys2Proof.Machine

theorem reservedZero_keeps (p : Packet) (runs : List (Nat × Nat × Nat)) :
    KeepsAll (reservedZero p runs) := by
  intro k0
  simp only [reservedZero]
  repeat' (first
    | with_reducible apply keeps_pureT
    | with_reducible apply keeps_refuse
    | (split))

theorem blockReservedZero_keeps (block : List Byte) (runs : List (Nat × Nat × Nat)) :
    KeepsAll (blockReservedZero block runs) := by
  intro k0
  simp only [blockReservedZero]
  repeat' (first
    | with_reducible apply keeps_pureT
    | with_reducible apply keeps_refuse
    | (split))

theorem requireLive_keeps (h : BitVec 32) :
    KeepsAll (requireLive h) := by
  intro k0
  simp only [requireLive]
  repeat' (first
    | (with_reducible intro _)
    | with_reducible apply keeps_requireT
    | with_reducible apply keeps_bind keeps_get)

theorem readBlock_keeps (h : BitVec 32) (off len align pos : Nat) (die : Option Nat) :
    KeepsAll (readBlock h off len align pos die) := by
  intro k0
  simp only [readBlock]
  repeat' (first
    | (with_reducible intro _)
    | with_reducible apply readBytes_keeps _ _ _ _ _ _
    | with_reducible apply requireLive_keeps _ _
    | with_reducible apply keeps_requireT
    | with_reducible apply keeps_bind keeps_get
    | with_reducible apply keeps_bind')

theorem checkRegion_keeps (r : Region) (offPos pitchPos : Nat) :
    KeepsAll (checkRegion r offPos pitchPos) := by
  intro k0
  simp only [checkRegion]
  repeat' (first
    | (with_reducible intro _)
    | with_reducible apply keeps_pureT
    | with_reducible apply keeps_requireT
    | with_reducible apply keeps_bind keeps_get
    | with_reducible apply keeps_bind'
    | (split))

theorem checkExtent_keeps (h : BitVec 32) (off len : Nat) :
    KeepsAll (checkExtent h off len) := by
  intro k0
  simp only [checkExtent]
  repeat' (first
    | (with_reducible intro _)
    | with_reducible apply keeps_requireT
    | with_reducible apply keeps_bind keeps_get)

theorem readSpan_keeps (h : BitVec 32) (idx : Nat) (d : Desc) (die : Option Nat) (last : Option (Nat × List Byte)) (i : Nat) (x0 : Nat) :
    KeepsAll (readSpan h idx d die last i x0) := by
  induction x0 generalizing h idx d die last i
  all_goals
  intro k0
  simp only [readSpan]
  repeat' (first
  | (with_reducible intro _)
  | with_reducible apply keeps_pureT
  | with_reducible apply readLines_keeps _ _ _ _ _ _ _ _
  | with_reducible apply keeps_bind'
  | (split <;> (try (rename_i heq; replace heq := (congrArg (fun x => (Prod.snd x).ctl) heq).symm; simp [*] at heq)))
  | (simp [*]))

theorem readRows_keeps (r : Region) (idx : Nat) (d : Desc) (die : Option Nat) (last : Option (Nat × List Byte)) (row : Nat) (x0 : Nat) :
    KeepsAll (readRows r idx d die last row x0) := by
  induction x0 generalizing r idx d die last row
  all_goals
  intro k0
  simp only [readRows]
  repeat' (first
  | (with_reducible intro _)
  | with_reducible apply keeps_pureT
  | (rename_i ih _; with_reducible apply ih _ _ _ _ _ _ _)
  | with_reducible apply readSpan_keeps _ _ _ _ _ _ _ _
  | with_reducible apply keeps_bind')

theorem readRegion_keeps (r : Region) (die : Option Nat) :
    KeepsAll (readRegion r die) := by
  intro k0
  simp only [readRegion]
  repeat' (first
    | (with_reducible intro _)
    | with_reducible apply keeps_pureT
    | with_reducible apply keeps_refuse
    | with_reducible apply readRows_keeps _ _ _ _ _ _ _ _
    | with_reducible apply keeps_bind keeps_get
    | with_reducible apply keeps_bind'
    | (split))

theorem readPadded_keeps (h : BitVec 32) (off len : Nat) (die : Option Nat) :
    KeepsAll (readPadded h off len die) := by
  intro k0
  simp only [readPadded]
  repeat' (first
    | (with_reducible intro _)
    | with_reducible apply keeps_pureT
    | with_reducible apply readBytes_keeps _ _ _ _ _ _
    | with_reducible apply keeps_bind keeps_get
    | with_reducible apply keeps_bind')

theorem seqDie_keeps (q : Nat) :
    KeepsAll (seqDie q) := by
  intro k0
  simp only [seqDie]
  repeat' (first
    | (with_reducible intro _)
    | with_reducible apply keeps_pureT
    | with_reducible apply keeps_bind keeps_get)

theorem Group.reader_keeps (g : Group) :
    KeepsAll (Group.reader g) := by
  intro k0
  simp only [Group.reader]
  repeat' (first
    | (with_reducible intro _)
    | with_reducible apply keeps_pureT
    | with_reducible apply keeps_pure
    | with_reducible apply keeps_throw
    | with_reducible apply keeps_refuse
    | with_reducible apply keeps_requireT
    | with_reducible apply keeps_updT
    | with_reducible apply keeps_actT
    | with_reducible apply keeps_setT
    | with_reducible apply keeps_bind keeps_get
    | with_reducible apply keeps_bind'
    | with_reducible apply keeps_getT
    | dsimp only
    | (split <;> (try (rename_i heq; replace heq := (congrArg (fun x => (Prod.snd x).ctl) heq).symm; simp [*, -List.reduceReplicate, foldl_ctl] at heq)))
    | (simp [*, -List.reduceReplicate, foldl_ctl]; done)
    | (simp_all [-List.reduceReplicate, foldl_ctl]; done))

theorem checkStakes_keeps (g : Group) :
    KeepsAll (checkStakes g) := by
  intro k0
  simp only [checkStakes]
  repeat' (first
    | (with_reducible intro _)
    | with_reducible apply keeps_refuse
    | with_reducible apply keeps_requireT
    | with_reducible apply keeps_bind keeps_get
    | (split))

theorem checkDest_keeps (p : Packet) (a len : Nat) :
    KeepsAll (checkDest p a len) := by
  intro k0
  simp only [checkDest]
  repeat' (first
    | (with_reducible intro _)
    | with_reducible apply keeps_pureT
    | with_reducible apply checkExtent_keeps _ _ _ _
    | with_reducible apply keeps_requireT
    | with_reducible apply keeps_bind'
    | (split))

theorem destLive_keeps (p : Packet) (a : Nat) :
    KeepsAll (destLive p a) := by
  intro k0
  simp only [destLive]
  repeat' (first
    | with_reducible apply keeps_pureT
    | with_reducible apply requireLive_keeps _ _
    | (split))

@[simp] theorem writeDest_ctl (d : Dest) (off : Nat) (bytes : List Byte) (s : State) :
    (writeDest d off bytes s).2.ctl = s.ctl := by
  simp only [writeDest]; split <;> simp

end Sys2Proof.Machine
end

