-- ==== Sys2Proof/Laws/Tension.lean ====
section
/-! SUPPORT. The operations of Machine/Tension.lean leave the registers that software sets alone. -/

namespace Sys2Proof.Machine

@[simp] theorem mergeStats_ctl (c : InFlight) (s : State) :
    (mergeStats c s).2.ctl = s.ctl := by
  simp only [mergeStats]; repeat' split <;> simp

@[simp] theorem countReweaves_ctl (n : Nat) (s : State) :
    (countReweaves n s).ctl = s.ctl := by
  simp [countReweaves]

theorem checkSummaryRegion_keeps  :
    KeepsAll (checkSummaryRegion ) := by
  intro k0
  simp only [checkSummaryRegion]
  repeat' (first
    | (with_reducible intro _)
    | with_reducible apply keeps_requireT
    | with_reducible apply keeps_bind keeps_get
    | with_reducible apply keeps_bind')

@[simp] theorem writeSlot_ctl (slot : Nat) (m : Summary) (s : State) :
    (writeSlot slot m s).2.ctl = s.ctl := by
  first
  | (simp [writeSlot, -List.reduceReplicate, foldl_ctl]; done)
  | (simp only [writeSlot]; (repeat' split) <;> simp [-List.reduceReplicate, foldl_ctl] <;> done)
  | (simp only [writeSlot]
     repeat' (split <;> (try (rename_i heq; first
       | (replace heq := (congrArg (fun x => (Prod.snd x).ctl) heq).symm; simp [-List.reduceReplicate, foldl_ctl] at heq)
  )))
     all_goals (first | (simp [-List.reduceReplicate, foldl_ctl]; done) | (simp [*, -List.reduceReplicate, foldl_ctl]; done) | (simp_all [-List.reduceReplicate, foldl_ctl]; done)))
  | (simp only [writeSlot]
     refine foldl_ctl _ (fun s a => ?_) _ _
     (repeat' split) <;> simp [-List.reduceReplicate, foldl_ctl])
  | (simp only [writeSlot]
     (repeat' split) <;> first
       | (simp [-List.reduceReplicate, foldl_ctl]; done)
       | (refine (foldl_ctl _ (fun s a => ?_) _ _).trans ?_
          all_goals ((repeat' split) <;> simp [-List.reduceReplicate, foldl_ctl])))

@[simp] theorem sealSummary_ctl (s : State) :
    (sealSummary s).2.ctl = s.ctl := by
  simp [sealSummary]

@[simp] theorem ladderPolicy_ctl (m : Summary) (s : State) :
    (ladderPolicy m s).ctl = s.ctl := by
  simp [ladderPolicy, foldl_ctl]

@[simp] theorem floorPolicy_ctl (m : Summary) (s : State) :
    (floorPolicy m s).ctl = s.ctl := by
  simp [floorPolicy]

@[simp] theorem latchTns_ctl (s : State) :
    (latchTns s).ctl = s.ctl := by
  rfl

end Sys2Proof.Machine
end

