-- ==== Sys2Proof/Laws/Commands.lean ====
section
/-! SUPPORT. The operations of Machine/Commands.lean leave the registers that software sets alone. -/

namespace Sys2Proof.Machine

@[simp] theorem signalToken_ctl (t : Nat) (s : State) :
    (signalToken t s).ctl = s.ctl := by
  simp [signalToken]

@[simp] theorem setInflight_ctl (id : Nat) (f : InFlight → InFlight) (s : State) :
    (setInflight id f s).ctl = s.ctl := by
  simp [setInflight]

@[simp] theorem dropInflight_ctl (id : Nat) (s : State) :
    (dropInflight id s).ctl = s.ctl := by
  simp [dropInflight]

@[simp] theorem writeReply_ctl (q tag status detail round : Nat) (rewoven late firmware : Bool) (s : State) :
    (writeReply q tag status detail round rewoven late firmware s).ctl = s.ctl := by
  simp only [writeReply]
  repeat' (split <;> (try (rename_i heq; first
    | (replace heq := (congrArg (fun x => (Prod.snd x).ctl) heq).symm; simp at heq)
  )))
  all_goals simp_all

@[simp] theorem noteCompare_ctl (c : InFlight) (s : State) :
    (noteCompare c s).ctl = s.ctl := by
  simp [noteCompare]

@[simp] theorem noteVerify_ctl (c : InFlight) (s : State) :
    (noteVerify c s).ctl = s.ctl := by
  simp [noteVerify]

@[simp] theorem complete_ctl (c : InFlight) (s : State) :
    (complete c s).ctl = s.ctl := by
  simp [complete]

@[simp] theorem finish_ctl (c : InFlight) (s : State) :
    (finish c s).ctl = s.ctl := by
  simp [finish]

@[simp] theorem finishAs_ctl (id status detail : Nat) (s : State) :
    (finishAs id status detail s).ctl = s.ctl := by
  simp only [finishAs]; split <;> simp

theorem writeAnd_keeps (die : Option Nat) (outs : List Out) (r : Res) :
    KeepsAll (writeAnd die outs r) := by
  intro k0
  simp only [writeAnd]
  repeat' (first
    | (with_reducible intro _)
    | with_reducible apply keeps_pureT
    | with_reducible apply keeps_actT
    | with_reducible apply keeps_bind'
    | (simp [*]))

@[simp] theorem resetPerCmd_ctl (n : Nat) (s : State) :
    (resetPerCmd n s).ctl = s.ctl := by
  simp [resetPerCmd]

@[simp] theorem takeHead_ctl (q op : Nat) (p : Packet) (pathS : Bool) (s : State) :
    (takeHead q op p pathS s).ctl = s.ctl := by
  simp [takeHead]

@[simp] theorem launch_ctl (c : InFlight) (s : State) :
    (launch c s).ctl = s.ctl := by
  simp [launch]

@[simp] theorem scramble_ctl (outs : List (BitVec 32 × Nat × Nat)) (s : State) :
    (scramble outs s).ctl = s.ctl := by
  simp [scramble, foldl_ctl]

@[simp] theorem drainRead_ctl (e : DrainEntry) (i : Nat) (s : State) :
    (drainRead e i s).2.ctl = s.ctl := by
  simp only [drainRead]
  repeat' (split <;> (try (rename_i heq; first
    | (replace heq := (congrArg (fun x => (Prod.snd x).ctl) heq).symm; simp at heq)
  )))
  all_goals simp_all

@[simp] theorem drainHost_ctl (d : DrainPlan) (x0 : List (DrainEntry × Nat)) (x1 : Nat) (s : State) :
    (drainHost d x0 x1 s).2.ctl = s.ctl := by
  induction x0 generalizing d x1 s
  all_goals first
  | (simp only [drainHost]
     repeat' (split <;> (try (rename_i heq; replace heq := (congrArg (fun x => (Prod.snd x).ctl) heq).symm; simp at heq)))
     all_goals (first | (simp [*]) | (simp_all)))

@[simp] theorem dropFrames_ctl (cmd : Nat) (s : State) :
    (dropFrames cmd s).ctl = s.ctl := by
  simp [dropFrames]

@[simp] theorem acting_ctl (layer : BitVec 16) (s : State) :
    (acting layer s).ctl = s.ctl := by
  simp [acting]

theorem actingFor_ctl (c : InFlight) (f : State → State) (s : State) (h : ∀ u, (f u).ctl = u.ctl) :
    (actingFor c f s).ctl = s.ctl := by
  simp [actingFor, h]

@[simp] theorem abandonDrain_ctl (c : InFlight) (s : State) :
    (abandonDrain c s).ctl = s.ctl := by
  simp only [abandonDrain]
  split
  · rw [finishAs_ctl, dropFrames_ctl]
    split
    · rw [actingFor_ctl _ _ _ fun u => by simp]; simp
    · simp
  · rfl

@[simp] theorem abandonHolding_ctl (id : Nat) (hs : List (BitVec 32)) (s : State) :
    (abandonHolding id hs s).ctl = s.ctl :=
  foldl_ctl _ (fun s a => abandonDrain_ctl a s) _ _

@[simp] theorem noteHead_ctl (q : Nat) (p : Packet) (s : State) :
    (noteHead q p s).ctl = s.ctl := by
  simp only [noteHead]; split <;> simp

theorem runPlan_ctl (c : InFlight) (pl : Plan) (s : State) (h : KeepsAll pl.run) : (runPlan c pl s).ctl = s.ctl := by
  have hf : (pl.writes.foldl (fun s h => advanceGen h s) s).ctl = s.ctl := foldl_ctl _ (fun s a => advanceGen_ctl a s) _ _
  have hr := h s.ctl (launch { c with names := pl.names, writes := pl.writes, regions := pl.outs }
    (pl.writes.foldl (fun s h => advanceGen h s) s)) (by simp [hf])
  simp only [runPlan]
  generalize EStateM.run pl.run _ = r at hr ⊢
  cases r <;> simp only [and_true] at hr <;> split <;> simp [hr]

@[simp] theorem refuseCommand_ctl (c : InFlight) (f : Fail) (s : State) :
    (refuseCommand c f s).ctl = s.ctl := by
  simp [refuseCommand]

theorem issueS_ctl (q op : Nat) (p : Packet) (plan : Cmd Plan) (s : State)
    (h : ∀ c, Keeps c (fun pl => KeepsAll pl.run) plan) : (issueS q op p plan s).ctl = s.ctl := by
  unfold issueS
  dsimp only
  split
  · simp
  refine unlessOver_ctl _ s fun u => ?_
  rw [acting_ctl]
  have h0 : (acting p.layerId (takeHead q op p true u)).ctl = u.ctl := by simp
  split
  · simp
  have hp := h u.ctl _ h0
  generalize EStateM.run plan _ = r at hp ⊢
  generalize acting p.layerId (takeHead q op p true u) = w at h0 ⊢
  cases r with
  | error e t =>
    rw [refuseCommand_ctl]
    have h1 := congrArg Ctl.tnsCtrl h0
    have h2 := congrArg Ctl.layerCount h0
    have h3 := congrArg Ctl.tnsRest h0
    simp only [State.ctl_mk]
    simp only [ctl_pending, ctl_id, ctl_wdog, ctl_memCtrl, ctl_scrubInterval, ctl_retrainThresh, ctl_failLimit, ctl_plcCtrl, ctl_migBudget,
      ctl_resLimit, ctl_retireLimit, ctl_tnsCtrl, ctl_layerCount, ctl_tnsRest, ctl_portEn, ctl_ptpDomain, ctl_ptpNext, ctl_holdoff,
      ctl_apertures, ctl_peekSel, ctl_upMargin, ctl_thmCtrl, ctl_dumpHandle, hp, h1, h2, h3]
  | ok pl t => simp only [runPlan_ctl _ _ _ hp.2, abandonHolding_ctl, hp.1]

theorem readHandle_keeps (use : Nat) :
    KeepsAll (readHandle use) := by
  intro k0
  simp only [readHandle]
  repeat' (first
    | (with_reducible intro _)
    | with_reducible apply keeps_pureT
    | with_reducible apply keeps_pure
    | with_reducible apply keeps_throw
    | with_reducible apply keeps_refuse
    | with_reducible apply keeps_requireT
    | with_reducible apply keeps_updT
    | with_reducible apply keeps_actT
    | with_reducible apply keeps_setT
    | with_reducible apply keeps_bind keeps_get
    | with_reducible apply keeps_bind'
    | with_reducible apply keeps_getT
    | dsimp only
    | (split <;> (try (rename_i heq; replace heq := (congrArg (fun x => (Prod.snd x).ctl) heq).symm; simp [*, -List.reduceReplicate, foldl_ctl] at heq)))
    | (simp [*, -List.reduceReplicate, foldl_ctl]; done)
    | (simp_all [-List.reduceReplicate, foldl_ctl]; done))

theorem startF_ctl (c : InFlight) (plan : Cmd Plan) (s : State)
    (h : ∀ c, Keeps c (fun pl => KeepsAll pl.run) plan) : (startF c plan s).ctl = s.ctl := by
  unfold startF
  rw [acting_ctl]
  have hp : Keeps s.ctl (fun pl => KeepsAll pl.run) (readHandle useQueue >>= fun _ => plan) :=
    keeps_bind' (readHandle_keeps _ _) fun _ => h _
  replace hp := hp (acting c.packet.layerId s) (by simp)
  generalize EStateM.run _ _ = r at hp ⊢
  cases r with
  | error e t => simpa using hp
  | ok pl t => simp only [runPlan_ctl _ _ _ hp.2, abandonHolding_ctl, hp.1]

theorem handOff_ctl (c : InFlight) (plan : Cmd Plan) (m : Option RailMeans) (s : State)
    (h : ∀ c, Keeps c (fun pl => KeepsAll pl.run) plan) : (handOff c plan m s).ctl = s.ctl := by
  unfold handOff
  dsimp only
  split
  · rw [unlessOver_ctl _ _ fun u => by simp]; simp
  split
  · rw [unlessOver_ctl _ _ fun u => by simp]; simp
  · rw [startF_ctl _ _ _ h]; simp

theorem issueF_ctl (q op : Nat) (p : Packet) (plan : InFlight → Cmd Plan) (s : State) (m : Option RailMeans)
    (h : ∀ f c, Keeps c (fun pl => KeepsAll pl.run) (plan f)) : (issueF q op p plan s m).ctl = s.ctl := by
  unfold issueF
  dsimp only
  split
  · simp
  split
  · simp
  split
  · simp
  split
  · simp
  · rw [handOff_ctl _ _ _ _ (h _)]; simp

end Sys2Proof.Machine
end

