-- ==== Sys2Proof/Laws/Placer.lean ====
section
/-! SUPPORT. The operations of Machine/Placer.lean leave the registers that software sets alone. -/

namespace Sys2Proof.Machine

@[simp] theorem forget_ctl (gone : Nat → Bool) (s : State) :
    (forget gone s).ctl = s.ctl := by
  first
  | (simp [forget, -List.reduceReplicate, foldl_ctl]; done)
  | (simp only [forget]; (repeat' split) <;> simp [-List.reduceReplicate, foldl_ctl] <;> done)
  | (simp only [forget]
     repeat' (split <;> (try (rename_i heq; first
       | (replace heq := (congrArg (fun x => (Prod.snd x).ctl) heq).symm; simp [-List.reduceReplicate, foldl_ctl] at heq)
  )))
     all_goals (first | (simp [-List.reduceReplicate, foldl_ctl]; done) | (simp [*, -List.reduceReplicate, foldl_ctl]; done) | (simp_all [-List.reduceReplicate, foldl_ctl]; done)))
  | (simp only [forget]
     refine foldl_ctl _ (fun s a => ?_) _ _
     (repeat' split) <;> simp [-List.reduceReplicate, foldl_ctl])
  | (simp only [forget]
     (repeat' split) <;> first
       | (simp [-List.reduceReplicate, foldl_ctl]; done)
       | (refine (foldl_ctl _ (fun s a => ?_) _ _).trans ?_
          all_goals ((repeat' split) <;> simp [-List.reduceReplicate, foldl_ctl])))

@[simp] theorem forgetLines_ctl (l : Location) (lines : Nat) (s : State) :
    (forgetLines l lines s).ctl = s.ctl := by
  simp [forgetLines]

theorem planPlace_keeps (p : Packet) :
    ∀ k0, Keeps k0 (fun pl : Plan => KeepsAll pl.run) (planPlace p) := by
  intro k0
  simp only [planPlace]
  repeat' (first
    | (with_reducible intro _)
    | with_reducible apply keeps_pure
    | with_reducible apply keeps_refuse
    | with_reducible apply keeps_requireT
    | with_reducible apply keeps_updT
    | with_reducible apply keeps_bind keeps_get
    | with_reducible apply keeps_bind'
    | (split <;> (try (rename_i heq; replace heq := (congrArg (fun x => (Prod.snd x).ctl) heq).symm; simp [*] at heq)))
    | (simp [*]))

theorem planRelease_keeps (p : Packet) :
    ∀ k0, Keeps k0 (fun pl : Plan => KeepsAll pl.run) (planRelease p) := by
  intro k0
  simp only [planRelease]
  repeat' (first
    | (with_reducible intro _)
    | with_reducible apply keeps_pure
    | with_reducible apply reservedZero_keeps _ _ _
    | with_reducible apply requireLive_keeps _ _
    | with_reducible apply keeps_updT
    | with_reducible apply keeps_bind'
    | (split <;> (try (rename_i heq; replace heq := (congrArg (fun x => (Prod.snd x).ctl) heq).symm; simp [*] at heq)))
    | (simp [*]))

@[simp] theorem releaseFree_ctl (h : BitVec 32) (s : State) :
    (releaseFree h s).ctl = s.ctl := by
  simp only [releaseFree]; repeat' split <;> simp

@[simp] theorem assignSpares_ctl (old : List (Option Nat)) (s : State) :
    (assignSpares old s).2.ctl = s.ctl := by
  simp only [assignSpares]
  have h : ∀ (l : List (Nat × Option Nat)) (u : State), (l.foldl (fun s e => match e.2 with
      | some k => trace tPLACEMENT 1 0xFF 0xFFFF [k] s | none => s) u).ctl = u.ctl :=
    fun l u => foldl_ctl _ (fun s a => by cases a.2 <;> simp) l u
  split
  · rw [raisePlc_ctl]; exact h _ _
  · exact h _ _

@[simp] theorem recordMark_ctl (die pos trigger : Nat) (s : State) :
    (recordMark die pos trigger s).ctl = s.ctl := by
  first
  | (simp [recordMark, -List.reduceReplicate, foldl_ctl]; done)
  | (simp only [recordMark]; (repeat' split) <;> simp [-List.reduceReplicate, foldl_ctl] <;> done)
  | (simp only [recordMark]
     repeat' (split <;> (try (rename_i heq; first
       | (replace heq := (congrArg (fun x => (Prod.snd x).ctl) heq).symm; simp [-List.reduceReplicate, foldl_ctl] at heq)
  )))
     all_goals (first | (simp [-List.reduceReplicate, foldl_ctl]; done) | (simp [*, -List.reduceReplicate, foldl_ctl]; done) | (simp_all [-List.reduceReplicate, foldl_ctl]; done)))
  | (simp only [recordMark]
     refine foldl_ctl _ (fun s a => ?_) _ _
     (repeat' split) <;> simp [-List.reduceReplicate, foldl_ctl])
  | (simp only [recordMark]
     (repeat' split) <;> first
       | (simp [-List.reduceReplicate, foldl_ctl]; done)
       | (refine (foldl_ctl _ (fun s a => ?_) _ _).trans ?_
          all_goals ((repeat' split) <;> simp [-List.reduceReplicate, foldl_ctl])))

@[simp] theorem retire_ctl (die pos : Nat) (s : State) :
    (retire die pos s).ctl = s.ctl := by
  simp [retire]

@[simp] theorem markRetire_ctl (die pos trigger : Nat) (s : State) :
    (markRetire die pos trigger s).ctl = s.ctl := by
  first
  | (simp [markRetire, -List.reduceReplicate, foldl_ctl]; done)
  | (simp only [markRetire]; (repeat' split) <;> simp [-List.reduceReplicate, foldl_ctl] <;> done)
  | (simp only [markRetire]
     repeat' (split <;> (try (rename_i heq; first
       | (replace heq := (congrArg (fun x => (Prod.snd x).ctl) heq).symm; simp [-List.reduceReplicate, foldl_ctl] at heq)
  )))
     all_goals (first | (simp [-List.reduceReplicate, foldl_ctl]; done) | (simp [*, -List.reduceReplicate, foldl_ctl]; done) | (simp_all [-List.reduceReplicate, foldl_ctl]; done)))
  | (simp only [markRetire]
     refine foldl_ctl _ (fun s a => ?_) _ _
     (repeat' split) <;> simp [-List.reduceReplicate, foldl_ctl])
  | (simp only [markRetire]
     (repeat' split) <;> first
       | (simp [-List.reduceReplicate, foldl_ctl]; done)
       | (refine (foldl_ctl _ (fun s a => ?_) _ _).trans ?_
          all_goals ((repeat' split) <;> simp [-List.reduceReplicate, foldl_ctl])))

@[simp] theorem noteDouble_ctl (stake : Nat) (s : State) :
    (noteDouble stake s).ctl = s.ctl := by
  first
  | (simp [noteDouble, -List.reduceReplicate, foldl_ctl]; done)
  | (simp only [noteDouble]; (repeat' split) <;> simp [-List.reduceReplicate, foldl_ctl] <;> done)
  | (simp only [noteDouble]
     repeat' (split <;> (try (rename_i heq; first
       | (replace heq := (congrArg (fun x => (Prod.snd x).ctl) heq).symm; simp [-List.reduceReplicate, foldl_ctl] at heq)
  )))
     all_goals (first | (simp [-List.reduceReplicate, foldl_ctl]; done) | (simp [*, -List.reduceReplicate, foldl_ctl]; done) | (simp_all [-List.reduceReplicate, foldl_ctl]; done)))
  | (simp only [noteDouble]
     refine foldl_ctl _ (fun s a => ?_) _ _
     (repeat' split) <;> simp [-List.reduceReplicate, foldl_ctl])
  | (simp only [noteDouble]
     (repeat' split) <;> first
       | (simp [-List.reduceReplicate, foldl_ctl]; done)
       | (refine (foldl_ctl _ (fun s a => ?_) _ _).trans ?_
          all_goals ((repeat' split) <;> simp [-List.reduceReplicate, foldl_ctl])))

@[simp] theorem readStakeSram_ctl (p : SramPlace) (s : State) :
    (readStakeSram p s).2.ctl = s.ctl := by
  first
  | (simp [readStakeSram, -List.reduceReplicate, foldl_ctl]; done)
  | (simp only [readStakeSram]; (repeat' split) <;> simp [-List.reduceReplicate, foldl_ctl] <;> done)
  | (simp only [readStakeSram]
     repeat' (split <;> (try (rename_i heq; first
       | (replace heq := (congrArg (fun x => (Prod.snd x).ctl) heq).symm; simp [-List.reduceReplicate, foldl_ctl] at heq)
  )))
     all_goals (first | (simp [-List.reduceReplicate, foldl_ctl]; done) | (simp [*, -List.reduceReplicate, foldl_ctl]; done) | (simp_all [-List.reduceReplicate, foldl_ctl]; done)))
  | (simp only [readStakeSram]
     refine foldl_ctl _ (fun s a => ?_) _ _
     (repeat' split) <;> simp [-List.reduceReplicate, foldl_ctl])
  | (simp only [readStakeSram]
     (repeat' split) <;> first
       | (simp [-List.reduceReplicate, foldl_ctl]; done)
       | (refine (foldl_ctl _ (fun s a => ?_) _ _).trans ?_
          all_goals ((repeat' split) <;> simp [-List.reduceReplicate, foldl_ctl])))

theorem readSrams_keeps  (x0 : List SramPlace) :
    KeepsAll (readSrams  x0) := by
  induction x0
  all_goals
  intro k0
  simp only [readSrams]
  repeat' (first
  | (with_reducible intro _)
  | with_reducible apply keeps_pureT
  | with_reducible apply keeps_pure
  | with_reducible apply keeps_throw
  | with_reducible apply keeps_refuse
  | (rename_i ih _; with_reducible apply ih  _)
  | (rename_i ih; with_reducible apply ih  _)
  | with_reducible apply keeps_requireT
  | with_reducible apply keeps_updT
  | with_reducible apply keeps_actT
  | with_reducible apply keeps_setT
  | with_reducible apply keeps_bind keeps_get
  | with_reducible apply keeps_bind'
  | with_reducible apply keeps_getT
  | dsimp only
  | (split <;> (try (rename_i heq; replace heq := (congrArg (fun x => (Prod.snd x).ctl) heq).symm; simp [*, -List.reduceReplicate, foldl_ctl] at heq)))
  | (simp [*, -List.reduceReplicate, foldl_ctl]; done)
  | (simp_all [-List.reduceReplicate, foldl_ctl]; done))

@[simp] theorem takeMigrations_ctl  (x0 : List (Nat × Desc)) (x1 : Bool) (x2 : Nat) (s : State) :
    (takeMigrations  x0 x1 x2 s).ctl = s.ctl := by
  induction x0 generalizing x1 x2 s
  all_goals first
  | (simp only [takeMigrations]
     repeat' (split)
     all_goals (first | (simp [*]) | (simp_all)))

@[simp] theorem startCopy_ctl (s : State) :
    (startCopy s).ctl = s.ctl := by
  simp only [startCopy]; repeat' split <;> simp

@[simp] theorem buildMigrations_ctl (s : State) :
    (buildMigrations s).2.ctl = s.ctl := by
  simp only [buildMigrations]; split <;> simp

@[simp] theorem takeMoved_ctl (d : Desc) (newLoc : Location) (line : Nat) (s : State) :
    (takeMoved d newLoc line s).2.ctl = s.ctl := by
  first
  | (simp [takeMoved, -List.reduceReplicate, foldl_ctl]; done)
  | (simp only [takeMoved]; (repeat' split) <;> simp [-List.reduceReplicate, foldl_ctl] <;> done)
  | (simp only [takeMoved]
     repeat' (split <;> (try (rename_i heq; first
       | (replace heq := (congrArg (fun x => (Prod.snd x).ctl) heq).symm; simp [-List.reduceReplicate, foldl_ctl] at heq)
  )))
     all_goals (first | (simp [-List.reduceReplicate, foldl_ctl]; done) | (simp [*, -List.reduceReplicate, foldl_ctl]; done) | (simp_all [-List.reduceReplicate, foldl_ctl]; done)))
  | (simp only [takeMoved]
     refine foldl_ctl _ (fun s a => ?_) _ _
     (repeat' split) <;> simp [-List.reduceReplicate, foldl_ctl])
  | (simp only [takeMoved]
     (repeat' split) <;> first
       | (simp [-List.reduceReplicate, foldl_ctl]; done)
       | (refine (foldl_ctl _ (fun s a => ?_) _ _).trans ?_
          all_goals ((repeat' split) <;> simp [-List.reduceReplicate, foldl_ctl])))

@[simp] theorem putMoved_ctl (d : Desc) (newLoc : Location) (line : Nat) (m : Moved) (s : State) :
    (putMoved d newLoc line m s).ctl = s.ctl := by
  first
  | (simp [putMoved, -List.reduceReplicate, foldl_ctl]; done)
  | (simp only [putMoved]; (repeat' split) <;> simp [-List.reduceReplicate, foldl_ctl] <;> done)
  | (simp only [putMoved]
     repeat' (split <;> (try (rename_i heq; first
       | (replace heq := (congrArg (fun x => (Prod.snd x).ctl) heq).symm; simp [-List.reduceReplicate, foldl_ctl] at heq)
  )))
     all_goals (first | (simp [-List.reduceReplicate, foldl_ctl]; done) | (simp [*, -List.reduceReplicate, foldl_ctl]; done) | (simp_all [-List.reduceReplicate, foldl_ctl]; done)))
  | (simp only [putMoved]
     refine foldl_ctl _ (fun s a => ?_) _ _
     (repeat' split) <;> simp [-List.reduceReplicate, foldl_ctl])
  | (simp only [putMoved]
     (repeat' split) <;> first
       | (simp [-List.reduceReplicate, foldl_ctl]; done)
       | (refine (foldl_ctl _ (fun s a => ?_) _ _).trans ?_
          all_goals ((repeat' split) <;> simp [-List.reduceReplicate, foldl_ctl])))

@[simp] theorem takeMovedLines_ctl (d : Desc) (newLoc : Location) (line : Nat) (x0 : Nat) (s : State) :
    (takeMovedLines d newLoc line x0 s).2.ctl = s.ctl := by
  induction x0 generalizing d newLoc line s
  all_goals first
  | (simp [takeMovedLines, -List.reduceReplicate, foldl_ctl]; done)
  | (simp [takeMovedLines, *, -List.reduceReplicate, foldl_ctl]; done)
  | (simp only [takeMovedLines]
     repeat' (split <;> (try (rename_i heq; replace heq := (congrArg (fun x => (Prod.snd x).ctl) heq).symm; simp [-List.reduceReplicate, foldl_ctl] at heq)))
     all_goals (first | (simp [*, -List.reduceReplicate, foldl_ctl]; done) | (simp_all [-List.reduceReplicate, foldl_ctl]; done)))

@[simp] theorem putMovedLines_ctl (d : Desc) (newLoc : Location) (line : Nat) (x0 : List Moved) (s : State) :
    (putMovedLines d newLoc line x0 s).ctl = s.ctl := by
  induction x0 generalizing d newLoc line s
  all_goals first
  | (simp [putMovedLines, -List.reduceReplicate, foldl_ctl]; done)
  | (simp [putMovedLines, *, -List.reduceReplicate, foldl_ctl]; done)
  | (simp only [putMovedLines]
     repeat' (split <;> (try (rename_i heq; replace heq := (congrArg (fun x => (Prod.snd x).ctl) heq).symm; simp [-List.reduceReplicate, foldl_ctl] at heq)))
     all_goals (first | (simp [*, -List.reduceReplicate, foldl_ctl]; done) | (simp_all [-List.reduceReplicate, foldl_ctl]; done)))

@[simp] theorem copyNext_ctl (s : State) :
    (copyNext s).ctl = s.ctl := by
  first
  | (simp [copyNext, -List.reduceReplicate, foldl_ctl]; done)
  | (simp only [copyNext]; (repeat' split) <;> simp [-List.reduceReplicate, foldl_ctl] <;> done)
  | (simp only [copyNext]
     repeat' (split <;> (try (rename_i heq; first
       | (replace heq := (congrArg (fun x => (Prod.snd x).ctl) heq).symm; simp [-List.reduceReplicate, foldl_ctl] at heq)
  )))
     all_goals (first | (simp [-List.reduceReplicate, foldl_ctl]; done) | (simp [*, -List.reduceReplicate, foldl_ctl]; done) | (simp_all [-List.reduceReplicate, foldl_ctl]; done)))
  | (simp only [copyNext]
     refine foldl_ctl _ (fun s a => ?_) _ _
     (repeat' split) <;> simp [-List.reduceReplicate, foldl_ctl])
  | (simp only [copyNext]
     (repeat' split) <;> first
       | (simp [-List.reduceReplicate, foldl_ctl]; done)
       | (refine (foldl_ctl _ (fun s a => ?_) _ _).trans ?_
          all_goals ((repeat' split) <;> simp [-List.reduceReplicate, foldl_ctl])))

@[simp] theorem migrationCopy_ctl (s : State) :
    (migrationCopy s).ctl = s.ctl := by
  simp only [migrationCopy]; repeat' split <;> simp

@[simp] theorem migrationResume_ctl (s : State) :
    (migrationResume s).ctl = s.ctl := by
  simp only [migrationResume]; repeat' split <;> simp

@[simp] theorem latchPlc_ctl (s : State) :
    (latchPlc s).ctl = s.ctl := by
  simp [latchPlc]

@[simp] theorem latchTraffic_ctl (s : State) :
    (latchTraffic s).ctl = s.ctl := by
  simp [latchTraffic]

@[simp] theorem roundBoundary_ctl (s : State) :
    (roundBoundary s).ctl = s.ctl := by
  simp [roundBoundary, foldl_ctl]

end Sys2Proof.Machine
end

