-- ==== Sys2Proof/Laws/Moves.lean ====
section
/-! SUPPORT. The operations of Machine/Moves.lean leave the registers that software sets alone. -/

namespace Sys2Proof.Machine

theorem planNop_keeps (p : Packet) :
    ∀ k0, Keeps k0 (fun pl : Plan => KeepsAll pl.run) (planNop p) := by
  intro k0
  simp only [planNop]
  repeat' (first
    | (with_reducible intro _)
    | with_reducible apply keeps_pureT
    | with_reducible apply keeps_pure
    | with_reducible apply reservedZero_keeps _ _ _
    | with_reducible apply keeps_bind')

@[simp] theorem countCrossing_ctl (src dst : Nat) (s : State) :
    (countCrossing src dst s).ctl = s.ctl := by
  first
  | (simp [countCrossing, -List.reduceReplicate, foldl_ctl]; done)
  | (simp only [countCrossing]; (repeat' split) <;> simp [-List.reduceReplicate, foldl_ctl] <;> done)
  | (simp only [countCrossing]
     repeat' (split <;> (try (rename_i heq; first
       | (replace heq := (congrArg (fun x => (Prod.snd x).ctl) heq).symm; simp [-List.reduceReplicate, foldl_ctl] at heq)
  )))
     all_goals (first | (simp [-List.reduceReplicate, foldl_ctl]; done) | (simp [*, -List.reduceReplicate, foldl_ctl]; done) | (simp_all [-List.reduceReplicate, foldl_ctl]; done)))
  | (simp only [countCrossing]
     refine foldl_ctl _ (fun s a => ?_) _ _
     (repeat' split) <;> simp [-List.reduceReplicate, foldl_ctl])
  | (simp only [countCrossing]
     (repeat' split) <;> first
       | (simp [-List.reduceReplicate, foldl_ctl]; done)
       | (refine (foldl_ctl _ (fun s a => ?_) _ _).trans ?_
          all_goals ((repeat' split) <;> simp [-List.reduceReplicate, foldl_ctl])))

@[simp] theorem copyLine_ctl (sh : BitVec 32) (si : Nat) (sd : Desc) (i : Nat) (dh : BitVec 32) (di : Nat) (dd : Desc) (j : Nat) (s : State) :
    (copyLine sh si sd i dh di dd j s).2.ctl = s.ctl := by
  simp only [copyLine]
  repeat' (split <;> (try (rename_i heq; first
    | (replace heq := (congrArg (fun x => (Prod.snd x).ctl) heq).symm; simp at heq)
  )))
  all_goals (first | (simp; done) | (simp; done) | (simp_all; done))

theorem copyLines_keeps (sh : BitVec 32) (si : Nat) (sd : Desc) (dh : BitVec 32) (di : Nat) (dd : Desc) (i j : Nat) (x0 : Nat) :
    KeepsAll (copyLines sh si sd dh di dd i j x0) := by
  induction x0 generalizing sh si sd dh di dd i j
  all_goals
  intro k0
  simp only [copyLines]
  repeat' (first
  | (with_reducible intro _)
  | with_reducible apply keeps_pureT
  | with_reducible apply keeps_throw
  | with_reducible apply keeps_setT
  | with_reducible apply keeps_bind keeps_get
  | with_reducible apply keeps_bind'
  | (split <;> (try (rename_i heq; replace heq := (congrArg (fun x => (Prod.snd x).ctl) heq).symm; simp [*] at heq)))
  | (simp [*]))

theorem planCopy_keeps (p : Packet) :
    ∀ k0, Keeps k0 (fun pl : Plan => KeepsAll pl.run) (planCopy p) := by
  intro k0
  simp only [planCopy]
  repeat' (first
    | (with_reducible intro _)
    | with_reducible apply keeps_pureT
    | with_reducible apply keeps_pure
    | with_reducible apply reservedZero_keeps _ _ _
    | with_reducible apply requireLive_keeps _ _
    | with_reducible apply checkExtent_keeps _ _ _ _
    | with_reducible apply copyLines_keeps _ _ _ _ _ _ _ _ _ _
    | with_reducible apply keeps_requireT
    | with_reducible apply keeps_bind keeps_get
    | with_reducible apply keeps_bind'
    | (split))

@[simp] theorem fillPiece_ctl (die : Option Nat) (h : BitVec 32) (idx : Nat) (d : Desc) (p : Nat × Nat × List Byte) (s : State) :
    (fillPiece die h idx d p s).2.ctl = s.ctl := by
  first
  | (simp [fillPiece, -List.reduceReplicate, foldl_ctl]; done)
  | (simp only [fillPiece]; (repeat' split) <;> simp [-List.reduceReplicate, foldl_ctl] <;> done)
  | (simp only [fillPiece]
     repeat' (split <;> (try (rename_i heq; first
       | (replace heq := (congrArg (fun x => (Prod.snd x).ctl) heq).symm; simp [-List.reduceReplicate, foldl_ctl] at heq)
  )))
     all_goals (first | (simp [-List.reduceReplicate, foldl_ctl]; done) | (simp [*, -List.reduceReplicate, foldl_ctl]; done) | (simp_all [-List.reduceReplicate, foldl_ctl]; done)))
  | (simp only [fillPiece]
     refine foldl_ctl _ (fun s a => ?_) _ _
     (repeat' split) <;> simp [-List.reduceReplicate, foldl_ctl])
  | (simp only [fillPiece]
     (repeat' split) <;> first
       | (simp [-List.reduceReplicate, foldl_ctl]; done)
       | (refine (foldl_ctl _ (fun s a => ?_) _ _).trans ?_
          all_goals ((repeat' split) <;> simp [-List.reduceReplicate, foldl_ctl])))

@[simp] theorem fillPieces_ctl (die : Option Nat) (h : BitVec 32) (idx : Nat) (d : Desc) (x0 : List (Nat × Nat × List Byte)) (s : State) :
    (fillPieces die h idx d x0 s).2.ctl = s.ctl := by
  induction x0 generalizing die h idx d s
  all_goals first
  | (simp [fillPieces, -List.reduceReplicate, foldl_ctl]; done)
  | (simp [fillPieces, *, -List.reduceReplicate, foldl_ctl]; done)
  | (simp only [fillPieces]
     repeat' (split <;> (try (rename_i heq; replace heq := (congrArg (fun x => (Prod.snd x).ctl) heq).symm; simp [-List.reduceReplicate, foldl_ctl] at heq)))
     all_goals (first | (simp [*, -List.reduceReplicate, foldl_ctl]; done) | (simp_all [-List.reduceReplicate, foldl_ctl]; done)))

theorem planFill_keeps (q : Nat) (p : Packet) :
    ∀ k0, Keeps k0 (fun pl : Plan => KeepsAll pl.run) (planFill q p) := by
  intro k0
  simp only [planFill]
  repeat' (first
    | (with_reducible intro _)
    | with_reducible apply keeps_pureT
    | with_reducible apply keeps_pure
    | with_reducible apply keeps_throw
    | with_reducible apply keeps_refuse
    | with_reducible apply reservedZero_keeps _ _ _
    | with_reducible apply requireLive_keeps _ _
    | with_reducible apply checkExtent_keeps _ _ _ _
    | with_reducible apply seqDie_keeps _ _
    | with_reducible apply keeps_requireT
    | with_reducible apply keeps_updT
    | with_reducible apply keeps_actT
    | with_reducible apply keeps_setT
    | with_reducible apply keeps_bind keeps_get
    | with_reducible apply keeps_bind'
    | with_reducible apply keeps_getT
    | dsimp only
    | (split <;> (try (rename_i heq; replace heq := (congrArg (fun x => (Prod.snd x).ctl) heq).symm; simp [*, -List.reduceReplicate, foldl_ctl] at heq)))
    | (simp [*, -List.reduceReplicate, foldl_ctl]; done)
    | (simp_all [-List.reduceReplicate, foldl_ctl]; done))

theorem planFence_keeps (p : Packet) :
    ∀ k0, Keeps k0 (fun pl : Plan => KeepsAll pl.run) (planFence p) := by
  intro k0
  simp only [planFence]
  repeat' (first
    | (with_reducible intro _)
    | with_reducible apply keeps_pureT
    | with_reducible apply keeps_pure
    | with_reducible apply reservedZero_keeps _ _ _
    | with_reducible apply keeps_bind')

theorem planWaitTime_keeps (p : Packet) :
    ∀ k0, Keeps k0 (fun pl : Plan => KeepsAll pl.run) (planWaitTime p) := by
  intro k0
  simp only [planWaitTime]
  repeat' (first
    | (with_reducible intro _)
    | with_reducible apply keeps_pureT
    | with_reducible apply keeps_pure
    | with_reducible apply keeps_throw
    | with_reducible apply keeps_refuse
    | with_reducible apply reservedZero_keeps _ _ _
    | with_reducible apply keeps_requireT
    | with_reducible apply keeps_updT
    | with_reducible apply keeps_actT
    | with_reducible apply keeps_setT
    | with_reducible apply keeps_bind keeps_get
    | with_reducible apply keeps_bind'
    | with_reducible apply keeps_getT
    | dsimp only
    | (split <;> (try (rename_i heq; replace heq := (congrArg (fun x => (Prod.snd x).ctl) heq).symm; simp [*, -List.reduceReplicate, foldl_ctl] at heq)))
    | (simp [*, -List.reduceReplicate, foldl_ctl]; done)
    | (simp_all [-List.reduceReplicate, foldl_ctl]; done))

theorem planSignal_keeps (p : Packet) :
    ∀ k0, Keeps k0 (fun pl : Plan => KeepsAll pl.run) (planSignal p) := by
  intro k0
  simp only [planSignal]
  repeat' (first
    | (with_reducible intro _)
    | with_reducible apply keeps_pure
    | with_reducible apply reservedZero_keeps _ _ _
    | with_reducible apply keeps_requireT
    | with_reducible apply keeps_updT
    | with_reducible apply keeps_bind'
    | (simp [*, foldl_ctl]))

theorem planBoundsSet_keeps (q : Nat) (p : Packet) :
    ∀ k0, Keeps k0 (fun pl : Plan => KeepsAll pl.run) (planBoundsSet q p) := by
  intro k0
  simp only [planBoundsSet]
  repeat' (first
    | (with_reducible intro _)
    | with_reducible apply keeps_pure
    | with_reducible apply keeps_requireT
    | with_reducible apply keeps_updT
    | with_reducible apply keeps_bind'
    | (simp [*]))

end Sys2Proof.Machine
end

