-- ==== Sys2Proof/Laws/Ledger.lean ====
section
/-! SUPPORT. The operations of Machine/Ledger.lean leave the registers that software sets alone. -/

namespace Sys2Proof.Machine

@[simp] theorem compact_ctl (s : State) :
    (compact s).ctl = s.ctl := by
  simp [compact]

@[simp] theorem retireBlock_ctl (s : State) :
    (retireBlock s).ctl = s.ctl := by
  first
  | (simp [retireBlock, -List.reduceReplicate, foldl_ctl]; done)
  | (simp only [retireBlock]; (repeat' split) <;> simp [-List.reduceReplicate, foldl_ctl] <;> done)
  | (simp only [retireBlock]
     repeat' (split <;> (try (rename_i heq; first
       | (replace heq := (congrArg (fun x => (Prod.snd x).ctl) heq).symm; simp [-List.reduceReplicate, foldl_ctl] at heq)
  )))
     all_goals (first | (simp [-List.reduceReplicate, foldl_ctl]; done) | (simp [*, -List.reduceReplicate, foldl_ctl]; done) | (simp_all [-List.reduceReplicate, foldl_ctl]; done)))
  | (simp only [retireBlock]
     refine foldl_ctl _ (fun s a => ?_) _ _
     (repeat' split) <;> simp [-List.reduceReplicate, foldl_ctl])
  | (simp only [retireBlock]
     (repeat' split) <;> first
       | (simp [-List.reduceReplicate, foldl_ctl]; done)
       | (refine (foldl_ctl _ (fun s a => ?_) _ _).trans ?_
          all_goals ((repeat' split) <;> simp [-List.reduceReplicate, foldl_ctl])))

@[simp] theorem programNext_ctl (failed : Bool) (s : State) :
    (programNext failed s).2.ctl = s.ctl := by
  first
  | (simp [programNext, -List.reduceReplicate, foldl_ctl]; done)
  | (simp only [programNext]; (repeat' split) <;> simp [-List.reduceReplicate, foldl_ctl] <;> done)
  | (simp only [programNext]
     repeat' (split <;> (try (rename_i heq; first
       | (replace heq := (congrArg (fun x => (Prod.snd x).ctl) heq).symm; simp [-List.reduceReplicate, foldl_ctl] at heq)
  )))
     all_goals (first | (simp [-List.reduceReplicate, foldl_ctl]; done) | (simp [*, -List.reduceReplicate, foldl_ctl]; done) | (simp_all [-List.reduceReplicate, foldl_ctl]; done)))
  | (simp only [programNext]
     refine foldl_ctl _ (fun s a => ?_) _ _
     (repeat' split) <;> simp [-List.reduceReplicate, foldl_ctl])
  | (simp only [programNext]
     (repeat' split) <;> first
       | (simp [-List.reduceReplicate, foldl_ctl]; done)
       | (refine (foldl_ctl _ (fun s a => ?_) _ _).trans ?_
          all_goals ((repeat' split) <;> simp [-List.reduceReplicate, foldl_ctl])))

@[simp] theorem roleAction_ctl (who : Option Binding) (code : Nat) (data : List Byte) (e : Effect) (s : State) :
    (roleAction who code data e s).ctl = s.ctl := by
  simp [roleAction]

@[simp] theorem withdraw_ctl (q : Nat) (byReset : Bool) (s : State) :
    (withdraw q byReset s).ctl = s.ctl := by
  simp only [withdraw]; split <;> simp

@[simp] theorem withdrawWhere_ctl (p : Binding → Bool) (byReset : Bool) (s : State) :
    (withdrawWhere p byReset s).ctl = s.ctl := by
  simp [withdrawWhere, foldl_ctl]

end Sys2Proof.Machine
end

