-- ==== Sys2Proof/Laws/Frames.lean ====
section
/-! SUPPORT. The operations of Machine/Frames.lean leave the registers that software sets alone. -/

namespace Sys2Proof.Machine

@[simp] theorem State.setConn_ctl (s : State) (c : Conn) :
    (State.setConn s c).ctl = s.ctl := by
  simp [State.setConn]

@[simp] theorem State.setPort_ctl (s : State) (p : Nat) (v : Port) :
    (State.setPort s p v).ctl = s.ctl := by
  simp [State.setPort]

@[simp] theorem emit_ctl (e : Sent) (s : State) :
    (emit e s).ctl = s.ctl := by
  simp [emit]

@[simp] theorem sendControlAs_ctl (dst seat : Nat) (what : Control) (s : State) :
    (sendControlAs dst seat what s).ctl = s.ctl := by
  first
  | (simp [sendControlAs, -List.reduceReplicate, foldl_ctl]; done)
  | (simp only [sendControlAs]; (repeat' split) <;> simp [-List.reduceReplicate, foldl_ctl] <;> done)
  | (simp only [sendControlAs]
     repeat' (split <;> (try (rename_i heq; first
       | (replace heq := (congrArg (fun x => (Prod.snd x).ctl) heq).symm; simp [-List.reduceReplicate, foldl_ctl] at heq)
  )))
     all_goals (first | (simp [-List.reduceReplicate, foldl_ctl]; done) | (simp [*, -List.reduceReplicate, foldl_ctl]; done) | (simp_all [-List.reduceReplicate, foldl_ctl]; done)))
  | (simp only [sendControlAs]
     refine foldl_ctl _ (fun s a => ?_) _ _
     (repeat' split) <;> simp [-List.reduceReplicate, foldl_ctl])
  | (simp only [sendControlAs]
     (repeat' split) <;> first
       | (simp [-List.reduceReplicate, foldl_ctl]; done)
       | (refine (foldl_ctl _ (fun s a => ?_) _ _).trans ?_
          all_goals ((repeat' split) <;> simp [-List.reduceReplicate, foldl_ctl])))

@[simp] theorem sendControl_ctl (dst : Nat) (what : Control) (s : State) :
    (sendControl dst what s).ctl = s.ctl := by
  first
  | (simp [sendControl, -List.reduceReplicate, foldl_ctl]; done)
  | (simp only [sendControl]; (repeat' split) <;> simp [-List.reduceReplicate, foldl_ctl] <;> done)
  | (simp only [sendControl]
     repeat' (split <;> (try (rename_i heq; first
       | (replace heq := (congrArg (fun x => (Prod.snd x).ctl) heq).symm; simp [-List.reduceReplicate, foldl_ctl] at heq)
  )))
     all_goals (first | (simp [-List.reduceReplicate, foldl_ctl]; done) | (simp [*, -List.reduceReplicate, foldl_ctl]; done) | (simp_all [-List.reduceReplicate, foldl_ctl]; done)))
  | (simp only [sendControl]
     refine foldl_ctl _ (fun s a => ?_) _ _
     (repeat' split) <;> simp [-List.reduceReplicate, foldl_ctl])
  | (simp only [sendControl]
     (repeat' split) <;> first
       | (simp [-List.reduceReplicate, foldl_ctl]; done)
       | (refine (foldl_ctl _ (fun s a => ?_) _ _).trans ?_
          all_goals ((repeat' split) <;> simp [-List.reduceReplicate, foldl_ctl])))

@[simp] theorem sendRim_ctl (what : Control) (s : State) :
    (sendRim what s).ctl = s.ctl := by
  first
  | (simp [sendRim, -List.reduceReplicate, foldl_ctl]; done)
  | (simp only [sendRim]; (repeat' split) <;> simp [-List.reduceReplicate, foldl_ctl] <;> done)
  | (simp only [sendRim]
     repeat' (split <;> (try (rename_i heq; first
       | (replace heq := (congrArg (fun x => (Prod.snd x).ctl) heq).symm; simp [-List.reduceReplicate, foldl_ctl] at heq)
  )))
     all_goals (first | (simp [-List.reduceReplicate, foldl_ctl]; done) | (simp [*, -List.reduceReplicate, foldl_ctl]; done) | (simp_all [-List.reduceReplicate, foldl_ctl]; done)))
  | (simp only [sendRim]
     refine foldl_ctl _ (fun s a => ?_) _ _
     (repeat' split) <;> simp [-List.reduceReplicate, foldl_ctl])
  | (simp only [sendRim]
     (repeat' split) <;> first
       | (simp [-List.reduceReplicate, foldl_ctl]; done)
       | (refine (foldl_ctl _ (fun s a => ?_) _ _).trans ?_
          all_goals ((repeat' split) <;> simp [-List.reduceReplicate, foldl_ctl])))

@[simp] theorem noteLines_ctl (id n : Nat) (s : State) :
    (noteLines id n s).ctl = s.ctl := by
  first
  | (simp [noteLines, -List.reduceReplicate, foldl_ctl]; done)
  | (simp only [noteLines]; (repeat' split) <;> simp [-List.reduceReplicate, foldl_ctl] <;> done)
  | (simp only [noteLines]
     repeat' (split <;> (try (rename_i heq; first
       | (replace heq := (congrArg (fun x => (Prod.snd x).ctl) heq).symm; simp [-List.reduceReplicate, foldl_ctl] at heq)
  )))
     all_goals (first | (simp [-List.reduceReplicate, foldl_ctl]; done) | (simp [*, -List.reduceReplicate, foldl_ctl]; done) | (simp_all [-List.reduceReplicate, foldl_ctl]; done)))
  | (simp only [noteLines]
     refine foldl_ctl _ (fun s a => ?_) _ _
     (repeat' split) <;> simp [-List.reduceReplicate, foldl_ctl])
  | (simp only [noteLines]
     (repeat' split) <;> first
       | (simp [-List.reduceReplicate, foldl_ctl]; done)
       | (refine (foldl_ctl _ (fun s a => ?_) _ _).trans ?_
          all_goals ((repeat' split) <;> simp [-List.reduceReplicate, foldl_ctl])))

@[simp] theorem sendTx_ctl (port : Nat) (mac : BitVec 48) (f : TxFrame) (s : State) :
    (sendTx port mac f s).ctl = s.ctl := by
  simp [sendTx]

@[simp] theorem sendCtl_ctl (typ port : Nat) (mac : BitVec 48) (dst seq : Nat) (s : State) :
    (sendCtl typ port mac dst seq s).ctl = s.ctl := by
  simp [sendCtl]

@[simp] theorem pumpConn_ctl (port : Nat) (mac : BitVec 48) (x0 : Nat) (s : State) :
    (pumpConn port mac x0 s).ctl = s.ctl := by
  induction x0 generalizing port mac s
  all_goals first
  | (simp only [pumpConn]
     repeat' (split)
     all_goals (first | (simp) | (simp_all)))

@[simp] theorem pump_ctl (port : Nat) (mac : BitVec 48) (s : State) :
    (pump port mac s).ctl = s.ctl := by
  simp [pump]

@[simp] theorem sendBytes_ctl (cmd port : Nat) (mac : BitVec 48) (dst xgroup transfer : Nat) (bytes : List Byte) (s : State) :
    (sendBytes cmd port mac dst xgroup transfer bytes s).ctl = s.ctl := by
  first
  | (simp [sendBytes, -List.reduceReplicate, foldl_ctl]; done)
  | (simp only [sendBytes]; (repeat' split) <;> simp [-List.reduceReplicate, foldl_ctl] <;> done)
  | (simp only [sendBytes]
     repeat' (split <;> (try (rename_i heq; first
       | (replace heq := (congrArg (fun x => (Prod.snd x).ctl) heq).symm; simp [-List.reduceReplicate, foldl_ctl] at heq)
  )))
     all_goals (first | (simp [-List.reduceReplicate, foldl_ctl]; done) | (simp [*, -List.reduceReplicate, foldl_ctl]; done) | (simp_all [-List.reduceReplicate, foldl_ctl]; done)))
  | (simp only [sendBytes]
     refine foldl_ctl _ (fun s a => ?_) _ _
     (repeat' split) <;> simp [-List.reduceReplicate, foldl_ctl])
  | (simp only [sendBytes]
     (repeat' split) <;> first
       | (simp [-List.reduceReplicate, foldl_ctl]; done)
       | (refine (foldl_ctl _ (fun s a => ?_) _ _).trans ?_
          all_goals ((repeat' split) <;> simp [-List.reduceReplicate, foldl_ctl])))

@[simp] theorem sendRegion_ctl (cmd port : Nat) (mac : BitVec 48) (dst : Nat) (handle : BitVec 32) (offset token : Nat) (bytes : List Byte) (s : State) :
    (sendRegion cmd port mac dst handle offset token bytes s).ctl = s.ctl := by
  first
  | (simp [sendRegion, -List.reduceReplicate, foldl_ctl]; done)
  | (simp only [sendRegion]; (repeat' split) <;> simp [-List.reduceReplicate, foldl_ctl] <;> done)
  | (simp only [sendRegion]
     repeat' (split <;> (try (rename_i heq; first
       | (replace heq := (congrArg (fun x => (Prod.snd x).ctl) heq).symm; simp [-List.reduceReplicate, foldl_ctl] at heq)
  )))
     all_goals (first | (simp [-List.reduceReplicate, foldl_ctl]; done) | (simp [*, -List.reduceReplicate, foldl_ctl]; done) | (simp_all [-List.reduceReplicate, foldl_ctl]; done)))
  | (simp only [sendRegion]
     refine foldl_ctl _ (fun s a => ?_) _ _
     (repeat' split) <;> simp [-List.reduceReplicate, foldl_ctl])
  | (simp only [sendRegion]
     (repeat' split) <;> first
       | (simp [-List.reduceReplicate, foldl_ctl]; done)
       | (refine (foldl_ctl _ (fun s a => ?_) _ _).trans ?_
          all_goals ((repeat' split) <;> simp [-List.reduceReplicate, foldl_ctl])))

@[simp] theorem sendMember_ctl (cmd dst xgroup : Nat) (bytes : List Byte) (s : State) :
    (sendMember cmd dst xgroup bytes s).ctl = s.ctl := by
  first
  | (simp [sendMember, -List.reduceReplicate, foldl_ctl]; done)
  | (simp only [sendMember]; (repeat' split) <;> simp [-List.reduceReplicate, foldl_ctl] <;> done)
  | (simp only [sendMember]
     repeat' (split <;> (try (rename_i heq; first
       | (replace heq := (congrArg (fun x => (Prod.snd x).ctl) heq).symm; simp [-List.reduceReplicate, foldl_ctl] at heq)
  )))
     all_goals (first | (simp [-List.reduceReplicate, foldl_ctl]; done) | (simp [*, -List.reduceReplicate, foldl_ctl]; done) | (simp_all [-List.reduceReplicate, foldl_ctl]; done)))
  | (simp only [sendMember]
     refine foldl_ctl _ (fun s a => ?_) _ _
     (repeat' split) <;> simp [-List.reduceReplicate, foldl_ctl])
  | (simp only [sendMember]
     (repeat' split) <;> first
       | (simp [-List.reduceReplicate, foldl_ctl]; done)
       | (refine (foldl_ctl _ (fun s a => ?_) _ _).trans ?_
          all_goals ((repeat' split) <;> simp [-List.reduceReplicate, foldl_ctl])))

end Sys2Proof.Machine
end

