-- ==== Sys2Proof/Laws/Exchange.lean ====
section
/-! SUPPORT. The operations of Machine/Exchange.lean leave the registers that software sets alone. -/

set_option Elab.async false

namespace Sys2Proof.Machine

@[simp] theorem rebook_ctl (s : State) :
    (rebook s).ctl = s.ctl := by
  simp [rebook]

theorem requireExchange_keeps  :
    KeepsAll (requireExchange ) := by
  intro k0
  simp only [requireExchange]
  repeat' (first
    | (with_reducible intro _)
    | with_reducible apply keeps_requireT
    | with_reducible apply keeps_bind keeps_get)

theorem checkBundle_keeps (p : Packet) :
    KeepsAll (checkBundle p) := by
  intro k0
  simp only [checkBundle]
  repeat' (first
    | (with_reducible intro _)
    | with_reducible apply keeps_requireT
    | with_reducible apply keeps_bind')

theorem planReduce_keeps (p : Packet) :
    ∀ k0, Keeps k0 (fun pl : Plan => KeepsAll pl.run) (planReduce p) := by
  intro k0
  simp only [planReduce]
  repeat' (first
    | (with_reducible intro _)
    | with_reducible apply keeps_pure
    | with_reducible apply reservedZero_keeps _ _ _
    | with_reducible apply requireLive_keeps _ _
    | with_reducible apply checkExtent_keeps _ _ _ _
    | with_reducible apply checkStakes_keeps _ _
    | with_reducible apply checkSummaryRegion_keeps _
    | with_reducible apply requireExchange_keeps _
    | with_reducible apply checkBundle_keeps _ _
    | with_reducible apply keeps_requireT
    | with_reducible apply keeps_actT
    | with_reducible apply keeps_bind keeps_get
    | with_reducible apply keeps_bind'
    | (split <;> (try (rename_i heq; replace heq := (congrArg (fun x => (Prod.snd x).ctl) heq).symm; simp [*] at heq)))
    | (simp [*]))

theorem planBroadcast_keeps (p : Packet) :
    ∀ k0, Keeps k0 (fun pl : Plan => KeepsAll pl.run) (planBroadcast p) := by
  intro k0
  simp only [planBroadcast]
  repeat' (first
    | (with_reducible intro _)
    | with_reducible apply keeps_pureT
    | with_reducible apply keeps_pure
    | with_reducible apply keeps_refuse
    | with_reducible apply reservedZero_keeps _ _ _
    | with_reducible apply requireLive_keeps _ _
    | with_reducible apply checkExtent_keeps _ _ _ _
    | with_reducible apply requireExchange_keeps _
    | with_reducible apply checkBundle_keeps _ _
    | with_reducible apply keeps_requireT
    | with_reducible apply keeps_bind keeps_get
    | with_reducible apply keeps_bind'
    | (split))

theorem planSend_keeps (p : Packet) :
    ∀ k0, Keeps k0 (fun pl : Plan => KeepsAll pl.run) (planSend p) := by
  intro k0
  simp only [planSend]
  repeat' (first
    | (with_reducible intro _)
    | with_reducible apply keeps_pureT
    | with_reducible apply keeps_pure
    | with_reducible apply reservedZero_keeps _ _ _
    | with_reducible apply requireLive_keeps _ _
    | with_reducible apply checkExtent_keeps _ _ _ _
    | with_reducible apply requireExchange_keeps _
    | with_reducible apply checkBundle_keeps _ _
    | with_reducible apply keeps_requireT
    | with_reducible apply keeps_bind keeps_get
    | with_reducible apply keeps_bind')

@[simp] theorem doneWith_ctl (c : InFlight) (f : Option Fail) (s : State) :
    (doneWith c f s).ctl = s.ctl := by
  simp [doneWith]

@[simp] theorem spoil_ctl (c : InFlight) (s : State) :
    (spoil c s).ctl = s.ctl := by
  simp [spoil]

theorem readStaging_keeps  :
    KeepsAll (readStaging ) := by
  intro k0
  simp only [readStaging]
  repeat' (first
    | (with_reducible intro _)
    | with_reducible apply keeps_pureT
    | with_reducible apply keeps_pure
    | with_reducible apply keeps_throw
    | with_reducible apply keeps_refuse
    | with_reducible apply readHandle_keeps _ _
    | with_reducible apply keeps_requireT
    | with_reducible apply keeps_updT
    | with_reducible apply keeps_actT
    | with_reducible apply keeps_setT
    | with_reducible apply keeps_bind keeps_get
    | with_reducible apply keeps_bind'
    | with_reducible apply keeps_getT
    | dsimp only
    | (split <;> (try (rename_i heq; replace heq := (congrArg (fun x => (Prod.snd x).ctl) heq).symm; simp [*, -List.reduceReplicate, foldl_ctl] at heq)))
    | (simp [*, -List.reduceReplicate, foldl_ctl]; done)
    | (simp_all [-List.reduceReplicate, foldl_ctl]; done))

theorem ownBytes_keeps (p : Packet) :
    KeepsAll (ownBytes p) :=
  fun k => keeps_bind' (readStaging_keeps k) fun _ => readBytes_keeps _ _ _ _ _ k

@[simp] theorem holdReduced_ctl (c : InFlight) (n mine : Nat) (leaves : List Leaf) (s : State) :
    (holdReduced c n mine leaves s).ctl = s.ctl := by
  simp only [holdReduced]; repeat' split <;> simp

@[simp] theorem moved_ctl (c : InFlight) (f : Option Fail) (s : State) :
    (moved c f s).ctl = s.ctl := by
  first
  | (simp [moved, -List.reduceReplicate, foldl_ctl]; done)
  | (simp only [moved]; (repeat' split) <;> simp [-List.reduceReplicate, foldl_ctl] <;> done)
  | (simp only [moved]
     repeat' (split <;> (try (rename_i heq; first
       | (replace heq := (congrArg (fun x => (Prod.snd x).ctl) heq).symm; simp [-List.reduceReplicate, foldl_ctl] at heq)
  )))
     all_goals (first | (simp [-List.reduceReplicate, foldl_ctl]; done) | (simp [*, -List.reduceReplicate, foldl_ctl]; done) | (simp_all [-List.reduceReplicate, foldl_ctl]; done)))
  | (simp only [moved]
     refine foldl_ctl _ (fun s a => ?_) _ _
     (repeat' split) <;> simp [-List.reduceReplicate, foldl_ctl])
  | (simp only [moved]
     (repeat' split) <;> first
       | (simp [-List.reduceReplicate, foldl_ctl]; done)
       | (refine (foldl_ctl _ (fun s a => ?_) _ _).trans ?_
          all_goals ((repeat' split) <;> simp [-List.reduceReplicate, foldl_ctl])))

theorem adderDie_keeps (p : Packet) :
    KeepsAll (adderDie p) := by
  intro k0
  simp only [adderDie]
  repeat' (first
    | (with_reducible intro _)
    | with_reducible apply keeps_pureT
    | with_reducible apply keeps_pure
    | with_reducible apply keeps_throw
    | with_reducible apply keeps_refuse
    | with_reducible apply Group.reader_keeps _ _
    | with_reducible apply readSrams_keeps _ _
    | with_reducible apply keeps_requireT
    | with_reducible apply keeps_updT
    | with_reducible apply keeps_actT
    | with_reducible apply keeps_setT
    | with_reducible apply keeps_bind keeps_get
    | with_reducible apply keeps_bind'
    | with_reducible apply keeps_getT
    | dsimp only
    | (split <;> (try (rename_i heq; replace heq := (congrArg (fun x => (Prod.snd x).ctl) heq).symm; simp [*, -List.reduceReplicate, foldl_ctl] at heq)))
    | (simp [*, -List.reduceReplicate, foldl_ctl]; done)
    | (simp_all [-List.reduceReplicate, foldl_ctl]; done))

theorem reduceInto_keeps (p : Packet) (n mine : Nat) (leaves : List Leaf) :
    KeepsAll (reduceInto p n mine leaves) := by
  intro k0
  simp only [reduceInto]
  repeat' (first
    | (with_reducible intro _)
    | with_reducible apply keeps_pureT
    | with_reducible apply keeps_pure
    | with_reducible apply keeps_throw
    | with_reducible apply keeps_refuse
    | with_reducible apply writeAnd_keeps _ _ _ _
    | with_reducible apply ownBytes_keeps _ _
    | with_reducible apply adderDie_keeps _ _
    | with_reducible apply keeps_requireT
    | with_reducible apply keeps_updT
    | with_reducible apply keeps_actT
    | with_reducible apply keeps_setT
    | with_reducible apply keeps_bind keeps_get
    | with_reducible apply keeps_bind'
    | with_reducible apply keeps_getT
    | dsimp only
    | (split <;> (try (rename_i heq; replace heq := (congrArg (fun x => (Prod.snd x).ctl) heq).symm; simp [*, -List.reduceReplicate, foldl_ctl] at heq)))
    | (simp [*, -List.reduceReplicate, foldl_ctl]; done)
    | (simp_all [-List.reduceReplicate, foldl_ctl]; done))

@[simp] theorem sendHalves_ctl (c : InFlight) (g : XGroup) (mine : Nat) (s : State) :
    (sendHalves c g mine s).ctl = s.ctl := by
  first
  | (simp [sendHalves, -List.reduceReplicate, foldl_ctl]; done)
  | (simp only [sendHalves]; (repeat' split) <;> simp [-List.reduceReplicate, foldl_ctl] <;> done)
  | (simp only [sendHalves]
     repeat' (split <;> (try (rename_i heq; first
       | (replace heq := (congrArg (fun x => (Prod.snd x).ctl) heq).symm; simp [-List.reduceReplicate, foldl_ctl] at heq)
  )))
     all_goals (first | (simp [-List.reduceReplicate, foldl_ctl]; done) | (simp [*, -List.reduceReplicate, foldl_ctl]; done) | (simp_all [-List.reduceReplicate, foldl_ctl]; done)))
  | (simp only [sendHalves]
     refine foldl_ctl _ (fun s a => ?_) _ _
     (repeat' split) <;> simp [-List.reduceReplicate, foldl_ctl])
  | (simp only [sendHalves]
     (repeat' split) <;> first
       | (simp [-List.reduceReplicate, foldl_ctl]; done)
       | (refine (foldl_ctl _ (fun s a => ?_) _ _).trans ?_
          all_goals ((repeat' split) <;> simp [-List.reduceReplicate, foldl_ctl])))

@[simp] theorem runReduce_ctl (c : InFlight) (leaves : List Leaf) (s : State) :
    (runReduce c leaves s).ctl = s.ctl := by
  simp only [runReduce]
  repeat' (split <;> (try (rename_i heq; first
    | replace heq := keeps_ok (reduceInto_keeps _ _ _ _) heq
    | replace heq := keeps_err (reduceInto_keeps _ _ _ _) heq)))
  all_goals (first | (simp; done) | (simp_all; done))

@[simp] theorem runBroadcast_ctl (c : InFlight) (xgroup root off len : Nat) (bytes : List Byte) (s : State) :
    (runBroadcast c xgroup root off len bytes s).ctl = s.ctl := by
  simp only [runBroadcast]
  repeat' (split <;> (try (rename_i heq; first
    | replace heq := keeps_ok (ownBytes_keeps _) heq
    | replace heq := keeps_err (ownBytes_keeps _) heq
    | replace heq := keeps_ok readStaging_keeps heq
    | replace heq := keeps_err readStaging_keeps heq)))
  all_goals (first | (simp [foldl_ctl]; done) | (simp_all [foldl_ctl]; done))

@[simp] theorem runSend_ctl (c : InFlight) (accepted : Bool) (port : Nat) (mac : BitVec 48) (s : State) :
    (runSend c accepted port mac s).ctl = s.ctl := by
  simp only [runSend]
  repeat' (split <;> (try (rename_i heq; first
    | replace heq := keeps_ok (ownBytes_keeps _) heq
    | replace heq := keeps_err (ownBytes_keeps _) heq)))
  all_goals (first | (simp; done) | (simp; done) | (simp_all; done))

@[simp] theorem failTransfer_ctl (c : InFlight) (status detail : Nat) (s : State) :
    (failTransfer c status detail s).ctl = s.ctl := by
  simp [failTransfer]

@[simp] theorem runTransfer_ctl (c : InFlight) (t : Transfer) (s : State) :
    (runTransfer c t s).ctl = s.ctl := by
  first
  | (simp [runTransfer, -List.reduceReplicate, foldl_ctl]; done)
  | (simp only [runTransfer]; (repeat' split) <;> simp [-List.reduceReplicate, foldl_ctl] <;> done)
  | (simp only [runTransfer]
     repeat' (split <;> (try (rename_i heq; first
       | (replace heq := (congrArg (fun x => (Prod.snd x).ctl) heq).symm; simp [-List.reduceReplicate, foldl_ctl] at heq)
  )))
     all_goals (first | (simp [-List.reduceReplicate, foldl_ctl]; done) | (simp [*, -List.reduceReplicate, foldl_ctl]; done) | (simp_all [-List.reduceReplicate, foldl_ctl]; done)))
  | (simp only [runTransfer]
     refine foldl_ctl _ (fun s a => ?_) _ _
     (repeat' split) <;> simp [-List.reduceReplicate, foldl_ctl])
  | (simp only [runTransfer]
     (repeat' split) <;> first
       | (simp [-List.reduceReplicate, foldl_ctl]; done)
       | (refine (foldl_ctl _ (fun s a => ?_) _ _).trans ?_
          all_goals ((repeat' split) <;> simp [-List.reduceReplicate, foldl_ctl])))

@[simp] theorem breakTransfer_ctl (c : InFlight) (t : Transfer) (s : State) :
    (breakTransfer c t s).ctl = s.ctl := by
  first
  | (simp [breakTransfer, -List.reduceReplicate, foldl_ctl]; done)
  | (simp only [breakTransfer]; (repeat' split) <;> simp [-List.reduceReplicate, foldl_ctl] <;> done)
  | (simp only [breakTransfer]
     repeat' (split <;> (try (rename_i heq; first
       | (replace heq := (congrArg (fun x => (Prod.snd x).ctl) heq).symm; simp [-List.reduceReplicate, foldl_ctl] at heq)
  )))
     all_goals (first | (simp [-List.reduceReplicate, foldl_ctl]; done) | (simp [*, -List.reduceReplicate, foldl_ctl]; done) | (simp_all [-List.reduceReplicate, foldl_ctl]; done)))
  | (simp only [breakTransfer]
     refine foldl_ctl _ (fun s a => ?_) _ _
     (repeat' split) <;> simp [-List.reduceReplicate, foldl_ctl])
  | (simp only [breakTransfer]
     (repeat' split) <;> first
       | (simp [-List.reduceReplicate, foldl_ctl]; done)
       | (refine (foldl_ctl _ (fun s a => ?_) _ _).trans ?_
          all_goals ((repeat' split) <;> simp [-List.reduceReplicate, foldl_ctl])))

@[simp] theorem transferStart_ctl (q ordinal : Nat) (t : Transfer) (s : State) :
    (transferStart q ordinal t s).ctl = s.ctl := by
  simp only [transferStart]; repeat' split <;> simp [actingFor_ctl]

@[simp] theorem fireNext_ctl (entry : Nat) (s : State) :
    (fireNext entry s).ctl = s.ctl := by
  simp [fireNext]

@[simp] theorem openWindow_ctl (entry start stop : Nat) (s : State) :
    (openWindow entry start stop s).ctl = s.ctl := by
  first
  | (simp [openWindow, -List.reduceReplicate, foldl_ctl]; done)
  | (simp only [openWindow]; (repeat' split) <;> simp [-List.reduceReplicate, foldl_ctl] <;> done)
  | (simp only [openWindow]
     repeat' (split <;> (try (rename_i heq; first
       | (replace heq := (congrArg (fun x => (Prod.snd x).ctl) heq).symm; simp [-List.reduceReplicate, foldl_ctl] at heq)
  )))
     all_goals (first | (simp [-List.reduceReplicate, foldl_ctl]; done) | (simp [*, -List.reduceReplicate, foldl_ctl]; done) | (simp_all [-List.reduceReplicate, foldl_ctl]; done)))
  | (simp only [openWindow]
     refine foldl_ctl _ (fun s a => ?_) _ _
     (repeat' split) <;> simp [-List.reduceReplicate, foldl_ctl])
  | (simp only [openWindow]
     (repeat' split) <;> first
       | (simp [-List.reduceReplicate, foldl_ctl]; done)
       | (refine (foldl_ctl _ (fun s a => ?_) _ _).trans ?_
          all_goals ((repeat' split) <;> simp [-List.reduceReplicate, foldl_ctl])))

@[simp] theorem windowInstance_ctl (entry : Nat) (s : State) :
    (windowInstance entry s).ctl = s.ctl := by
  first
  | (simp [windowInstance, -List.reduceReplicate, foldl_ctl]; done)
  | (simp only [windowInstance]; (repeat' split) <;> simp [-List.reduceReplicate, foldl_ctl] <;> done)
  | (simp only [windowInstance]
     repeat' (split <;> (try (rename_i heq; first
       | (replace heq := (congrArg (fun x => (Prod.snd x).ctl) heq).symm; simp [-List.reduceReplicate, foldl_ctl] at heq)
  )))
     all_goals (first | (simp [-List.reduceReplicate, foldl_ctl]; done) | (simp [*, -List.reduceReplicate, foldl_ctl]; done) | (simp_all [-List.reduceReplicate, foldl_ctl]; done)))
  | (simp only [windowInstance]
     refine foldl_ctl _ (fun s a => ?_) _ _
     (repeat' split) <;> simp [-List.reduceReplicate, foldl_ctl])
  | (simp only [windowInstance]
     (repeat' split) <;> first
       | (simp [-List.reduceReplicate, foldl_ctl]; done)
       | (refine (foldl_ctl _ (fun s a => ?_) _ _).trans ?_
          all_goals ((repeat' split) <;> simp [-List.reduceReplicate, foldl_ctl])))

theorem checkEntries_keeps  (x0 : List (Nat × DrainEntry)) :
    KeepsAll (checkEntries  x0) := by
  induction x0
  all_goals
  intro k0
  simp only [checkEntries]
  repeat' (first
  | (with_reducible intro _)
  | with_reducible apply keeps_pureT
  | with_reducible apply keeps_requireT
  | with_reducible apply keeps_bind'
  | (simp [*]))

theorem checkSources_keeps  (x0 : List DrainEntry) :
    KeepsAll (checkSources  x0) := by
  induction x0
  all_goals
  intro k0
  simp only [checkSources]
  repeat' (first
  | with_reducible apply keeps_pureT
  | with_reducible apply checkExtent_keeps _ _ _ _
  | with_reducible apply keeps_bind'
  | (split <;> (try (rename_i heq; replace heq := (congrArg (fun x => (Prod.snd x).ctl) heq).symm; simp [*] at heq)))
  | (simp [*]))

theorem requireSources_keeps  (x0 : List DrainEntry) :
    KeepsAll (requireSources  x0) := by
  induction x0
  all_goals
  intro k0
  simp only [requireSources]
  repeat' (first
  | (with_reducible intro _)
  | with_reducible apply keeps_pureT
  | (rename_i ih _; with_reducible apply ih  _)
  | with_reducible apply requireLive_keeps _ _
  | with_reducible apply keeps_bind')

theorem planDrain_keeps (q : Nat) (p : Packet) :
    ∀ k0, Keeps k0 (fun pl : Plan => KeepsAll pl.run) (planDrain q p) := by
  intro k0
  simp only [planDrain]
  repeat' (first
    | (with_reducible intro _)
    | with_reducible apply keeps_pureT
    | with_reducible apply keeps_pure
    | with_reducible apply reservedZero_keeps _ _ _
    | with_reducible apply blockReservedZero_keeps _ _ _
    | with_reducible apply readBlock_keeps _ _ _ _ _ _ _
    | with_reducible apply seqDie_keeps _ _
    | with_reducible apply checkEntries_keeps _ _
    | with_reducible apply checkSources_keeps _ _
    | with_reducible apply requireSources_keeps _ _
    | with_reducible apply keeps_requireT
    | with_reducible apply keeps_bind keeps_get
    | with_reducible apply keeps_bind')

@[simp] theorem drainLines_ctl  (x0 : List (DrainEntry × Nat)) (s : State) :
    (drainLines  x0 s).2.ctl = s.ctl := by
  induction x0 generalizing s
  all_goals first
  | (simp only [drainLines]
     repeat' (split <;> (try (rename_i heq; replace heq := (congrArg (fun x => (Prod.snd x).ctl) heq).symm; simp at heq)))
     all_goals (first | (simp [*]) | (simp_all)))

@[simp] theorem drainSend_ctl (c : InFlight) (port : Nat) (mac : BitVec 48) (seat : Nat) (remote : BitVec 32) (x0 : List DrainEntry) (s : State) :
    (drainSend c port mac seat remote x0 s).2.ctl = s.ctl := by
  induction x0 generalizing c port mac seat remote s
  all_goals first
  | (simp [drainSend, -List.reduceReplicate, foldl_ctl]; done)
  | (simp [drainSend, *, -List.reduceReplicate, foldl_ctl]; done)
  | (simp only [drainSend]
     repeat' (split <;> (try (rename_i heq; replace heq := (congrArg (fun x => (Prod.snd x).ctl) heq).symm; simp [-List.reduceReplicate, foldl_ctl] at heq)))
     all_goals (first | (simp [*, -List.reduceReplicate, foldl_ctl]; done) | (simp_all [-List.reduceReplicate, foldl_ctl]; done)))

@[simp] theorem drainStart_ctl (q ordinal : Nat) (path : Option (Fin 12 × BitVec 48)) (s : State) :
    (drainStart q ordinal path s).ctl = s.ctl := by
  simp only [drainStart]
  repeat' (split <;> (try (rename_i heq; first
    | (replace heq := (congrArg (fun x => (Prod.snd x).ctl) heq).symm; simp at heq)
  )))
  all_goals (first | (simp; done) | (simp; done) | (simp_all; done))

@[simp] theorem drainEnd_ctl (c : InFlight) (d : DrainPlan) (s : State) :
    (drainEnd c d s).ctl = s.ctl := by
  simp only [drainEnd]
  repeat' (split <;> (try (rename_i heq; first
    | (replace heq := (congrArg (fun x => (Prod.snd x).ctl) heq).symm; simp at heq)
  )))
  all_goals (first | (simp; done) | (simp; done) | (simp_all; done))

@[simp] theorem windowGraceExpiry_ctl (q ordinal : Nat) (absent : List Nat) (s : State) :
    (windowGraceExpiry q ordinal absent s).ctl = s.ctl := by
  simp only [windowGraceExpiry]; split <;> simp [actingFor_ctl]

end Sys2Proof.Machine
end

