-- ==== Sys2Proof/Laws/Rounds.lean ====
section
/-! SUPPORT. The operations of Machine/Rounds.lean leave the registers that software sets alone. -/

set_option Elab.async false

namespace Sys2Proof.Machine

@[simp] theorem latchPolicy_ctl (s : State) :
    (latchPolicy s).ctl = s.ctl := by
  simp only [latchPolicy]; split <;> simp

@[simp] theorem boundary_ctl (s : State) :
    (boundary s).ctl = s.ctl := by
  simp [boundary]

@[simp] theorem clearRound_ctl (s : State) :
    (clearRound s).ctl = s.ctl := by
  simp [clearRound]

@[simp] theorem commitEffect_ctl (m : Summary) (s : State) :
    (commitEffect m s).2.ctl = s.ctl := by
  unfold commitEffect
  extract_lets w s1 s2 m2
  have h2 : s2.ctl = s.ctl := by simp [s2, s1, w]
  clear_value s2 m2
  have h3 := writeSlot_ctl 1 m2 s2
  generalize writeSlot 1 m2 s2 = r at h3 ⊢
  obtain ⟨f, s3⟩ := r
  dsimp only
  have h4 : (latchTns { s3 with tns := { s3.tns with last := m2 } }).ctl = s3.ctl := by simp
  generalize latchTns { s3 with tns := { s3.tns with last := m2 } } = s4 at h4 ⊢
  have h5 : (clearRound (boundary s4)).ctl = s4.ctl := by simp
  generalize clearRound (boundary s4) = s5 at h5 ⊢
  show s5.ctl = s.ctl
  rw [h5, h4]; exact h3.trans h2

@[simp] theorem finishAll_ctl (l : List InFlight) (status detail : Nat) (s : State) :
    (finishAll l status detail s).ctl = s.ctl := by
  simp [finishAll, foldl_ctl]

@[simp] theorem clearVerify_ctl (s : State) :
    (clearVerify s).ctl = s.ctl := by
  simp [clearVerify]

@[simp] theorem writeTakeover_ctl (w : Nat) (s : State) :
    (writeTakeover w s).ctl = s.ctl := by
  simp [writeTakeover]

theorem planCommitAlone_keeps  :
    ∀ k0, Keeps k0 (fun pl : Plan => KeepsAll pl.run) (planCommitAlone ) := by
  intro k0
  simp only [planCommitAlone]
  refine keeps_bind' (checkSummaryRegion_keeps _) fun _ => keeps_bind keeps_get fun s hs => ?_
  split
  · refine keeps_pure ?_
    intro c2
    exact keeps_bind' (keeps_upd (fun s hs => by simp [*]) trivial) fun _ => keeps_pure trivial
  · refine keeps_pure ?_
    intro c2
    exact keeps_bind' (keeps_act (fun s hs => by simp [*]) fun _ => trivial) fun _ => keeps_bind keeps_get fun s hs =>
      keeps_bind' (keeps_act (fun s hs => by simp [*]) fun _ => trivial) fun _ =>
        keeps_bind' (keeps_upd (fun s hs => by simp [*]) trivial) fun _ => keeps_bind keeps_get fun _ _ => keeps_pure trivial

theorem planCommitMember_keeps (updated : Bool) :
    ∀ k0, Keeps k0 (fun pl : Plan => KeepsAll pl.run) (planCommitMember updated) := by
  intro k0
  simp only [planCommitMember]
  repeat' (first
    | (with_reducible intro _)
    | with_reducible apply keeps_pure
    | with_reducible apply keeps_refuse
    | with_reducible apply keeps_updT
    | with_reducible apply keeps_bind keeps_get
    | with_reducible apply keeps_bind'
    | (split <;> (try (rename_i heq; replace heq := (congrArg (fun x => (Prod.snd x).ctl) heq).symm; simp [*] at heq)))
    | (simp [*]))

theorem planCommit_keeps (p : Packet) :
    ∀ k0, Keeps k0 (fun pl : Plan => KeepsAll pl.run) (planCommit p) := by
  intro k0
  simp only [planCommit]
  repeat' (first
    | (with_reducible intro _)
    | with_reducible apply reservedZero_keeps _ _ _
    | with_reducible apply planCommitAlone_keeps _
    | with_reducible apply planCommitMember_keeps _ _
    | with_reducible apply keeps_bind keeps_get
    | with_reducible apply keeps_bind'
    | (split))

@[simp] theorem commitMessage_ctl (round : BitVec 32) (seats : Nat) (s : State) :
    (commitMessage round seats s).ctl = s.ctl := by
  simp [commitMessage]

@[simp] theorem rollbackEffect_ctl (s : State) :
    (rollbackEffect s).ctl = s.ctl := by
  simp [rollbackEffect]

@[simp] theorem reportRedo_ctl (kind : ReportKind) (s : State) :
    (reportRedo kind s).ctl = s.ctl := by
  first
  | (simp [reportRedo, -List.reduceReplicate, foldl_ctl]; done)
  | (simp only [reportRedo]; (repeat' split) <;> simp [-List.reduceReplicate, foldl_ctl] <;> done)
  | (simp only [reportRedo]
     repeat' (split <;> (try (rename_i heq; first
       | (replace heq := (congrArg (fun x => (Prod.snd x).ctl) heq).symm; simp [-List.reduceReplicate, foldl_ctl] at heq)
  )))
     all_goals (first | (simp [-List.reduceReplicate, foldl_ctl]; done) | (simp [*, -List.reduceReplicate, foldl_ctl]; done) | (simp_all [-List.reduceReplicate, foldl_ctl]; done)))
  | (simp only [reportRedo]
     refine foldl_ctl _ (fun s a => ?_) _ _
     (repeat' split) <;> simp [-List.reduceReplicate, foldl_ctl])
  | (simp only [reportRedo]
     (repeat' split) <;> first
       | (simp [-List.reduceReplicate, foldl_ctl]; done)
       | (refine (foldl_ctl _ (fun s a => ?_) _ _).trans ?_
          all_goals ((repeat' split) <;> simp [-List.reduceReplicate, foldl_ctl])))

theorem planRollback_keeps (p : Packet) :
    ∀ k0, Keeps k0 (fun pl : Plan => KeepsAll pl.run) (planRollback p) := by
  intro k0
  simp only [planRollback]
  repeat' (first
    | (with_reducible intro _)
    | with_reducible apply keeps_pure
    | with_reducible apply reservedZero_keeps _ _ _
    | with_reducible apply keeps_updT
    | with_reducible apply keeps_bind'
    | (simp [*]))

theorem planSave_keeps (p : Packet) (die : Option Nat) :
    ∀ k0, Keeps k0 (fun pl : Plan => KeepsAll pl.run) (planSave p die) := by
  intro k0
  simp only [planSave]
  with_reducible refine keeps_bind' (requireLive_keeps _ _) (fun _ => ?_)
  with_reducible refine keeps_bind' (requireLive_keeps _ _) (fun _ => ?_)
  with_reducible refine keeps_bind' keeps_requireT (fun _ => ?_)
  with_reducible refine keeps_bind' keeps_requireT (fun _ => ?_)
  with_reducible refine keeps_bind' (checkExtent_keeps _ _ _ _) (fun _ => ?_)
  with_reducible refine keeps_bind' (readBytes_keeps _ _ _ _ _ _) (fun _ => ?_)
  with_reducible refine keeps_bind' keeps_requireT (fun _ => ?_)
  with_reducible refine keeps_bind keeps_get (fun s hs => ?_)
  with_reducible refine keeps_bind' keeps_requireT (fun _ => ?_)
  with_reducible refine keeps_pure ?_
  intro c2
  dsimp only
  with_reducible refine keeps_bind' (keeps_updT (fun u hu => ?_)) (fun _ => ?_)
  · split <;> simp [hu]
  exact writeAnd_keeps _ _ _ _

theorem planLoad_keeps (p : Packet) :
    ∀ k0, Keeps k0 (fun pl : Plan => KeepsAll pl.run) (planLoad p) := by
  intro k0
  simp only [planLoad]
  repeat' (first
    | (with_reducible intro _)
    | with_reducible apply keeps_pureT
    | with_reducible apply keeps_pure
    | with_reducible apply requireLive_keeps _ _
    | with_reducible apply keeps_requireT
    | with_reducible apply keeps_bind keeps_get
    | with_reducible apply keeps_bind')

theorem planRecord_keeps (q : Nat) (p : Packet) :
    ∀ k0, Keeps k0 (fun pl : Plan => KeepsAll pl.run) (planRecord q p) := by
  intro k0
  simp only [planRecord]
  repeat' (first
    | (with_reducible intro _)
    | with_reducible apply reservedZero_keeps _ _ _
    | with_reducible apply seqDie_keeps _ _
    | with_reducible apply planSave_keeps _ _ _
    | with_reducible apply planLoad_keeps _ _
    | with_reducible apply keeps_bind'
    | (split))

theorem readRecord_keeps (h : BitVec 32) (off : Nat) (die : Option Nat) :
    KeepsAll (readRecord h off die) := by
  intro k0
  simp only [readRecord]
  repeat' (first
    | (with_reducible intro _)
    | with_reducible apply keeps_pureT
    | with_reducible apply readBytes_keeps _ _ _ _ _ _
    | with_reducible apply requireLive_keeps _ _
    | with_reducible apply checkExtent_keeps _ _ _ _
    | with_reducible apply keeps_requireT
    | with_reducible apply keeps_bind keeps_get
    | with_reducible apply keeps_bind')

@[simp] theorem restore_ctl (b : List Byte) (verify : Bool) (s : State) :
    (restore b verify s).2.ctl = s.ctl := by
  simp only [restore]; repeat' split <;> simp

@[simp] theorem loadEnd_ctl (c : InFlight) (s : State) :
    (loadEnd c s).ctl = s.ctl := by
  simp only [loadEnd]
  repeat' (split <;> (try (rename_i heq; first
    | (replace heq := (congrArg (fun x => (Prod.snd x).ctl) heq).symm; simp at heq)
    | replace heq := keeps_ok (readRecord_keeps _ _ _) heq
    | replace heq := keeps_err (readRecord_keeps _ _ _) heq)))
  all_goals (first | (simp; done) | (simp; done) | (simp_all; done))

end Sys2Proof.Machine
end

