-- ==== Sys2Proof/Laws/Rim.lean ====
section
/-! SUPPORT. The operations of Machine/Rim.lean leave the registers that software sets alone. -/

namespace Sys2Proof.Machine

@[simp] theorem modMember_ctl (seat : Nat) (f : Member → Member) (s : State) :
    (modMember seat f s).ctl = s.ctl := by
  simp only [modMember]; split <;> simp

@[simp] theorem sendSeats_ctl (what : Control) (s : State) :
    (sendSeats what s).ctl = s.ctl := by
  simp [sendSeats, foldl_ctl]

@[simp] theorem syncDeputy_ctl (s : State) :
    (syncDeputy s).ctl = s.ctl := by
  simp only [syncDeputy]; split <;> simp

@[simp] theorem oweInstance_ctl (i : Nat) (s : State) :
    (oweInstance i s).ctl = s.ctl := by
  simp only [oweInstance]; split <;> simp

@[simp] theorem writeEntry_ctl (i : Nat) (b : EntryBody) (s : State) :
    (writeEntry i b s).ctl = s.ctl := by
  simp [writeEntry]

@[simp] theorem renewEntry_ctl (i : Nat) (b : EntryBody) (s : State) :
    (renewEntry i b s).ctl = s.ctl := by
  simp [renewEntry]

@[simp] theorem setWindows_ctl (l : List (Fin 16 × EntryBody)) (s : State) :
    (setWindows l s).ctl = s.ctl := by
  simp [setWindows, foldl_ctl]

@[simp] theorem takeSeat_ctl (d : Decision) (detail : Nat) (s : State) :
    (takeSeat d detail s).ctl = s.ctl := by
  simp only [takeSeat]; split <;> simp

@[simp] theorem stopRound_ctl (diverged : Bool) (detail : Nat) (s : State) :
    (stopRound diverged detail s).ctl = s.ctl := by
  simp [stopRound]

@[simp] theorem followDecision_ctl (d : Decision) (detail : Nat) (s : State) :
    (followDecision d detail s).ctl = s.ctl := by
  simp only [followDecision]; repeat' split <;> simp

@[simp] theorem showDecision_ctl (d : Decision) (detail : Nat) (s : State) :
    (showDecision d detail s).ctl = s.ctl := by
  simp [showDecision]

@[simp] theorem applyDecision_ctl (d : Decision) (s : State) :
    (applyDecision d s).ctl = s.ctl := by
  simp only [applyDecision]; repeat' split <;> simp

@[simp] theorem seatStandbys_ctl  (x0 : List (Nat × Option Nat × Option Nat)) (s : State) :
    (seatStandbys  x0 s).ctl = s.ctl := by
  induction x0 generalizing s with
  | nil => rfl
  | cons e t ih =>
    obtain ⟨f, sb, y⟩ := e
    cases sb with
    | none => exact ih s
    | some sb =>
      simp only [seatStandbys]
      split
      · rw [ih]; rfl
      · exact ih s

@[simp] theorem modMembers_ctl (f : Member → Member) (s : State) :
    (modMembers f s).ctl = s.ctl := by
  simp [modMembers]

@[simp] theorem sendDecision_ctl (d : RimDecision) (s : State) :
    (sendDecision d s).ctl = s.ctl := by
  first
  | (simp [sendDecision, -List.reduceReplicate, foldl_ctl]; done)
  | (simp only [sendDecision]; (repeat' split) <;> simp [-List.reduceReplicate, foldl_ctl] <;> done)
  | (simp only [sendDecision]
     repeat' (split <;> (try (rename_i heq; first
       | (replace heq := (congrArg (fun x => (Prod.snd x).ctl) heq).symm; simp [-List.reduceReplicate, foldl_ctl] at heq)
  )))
     all_goals (first | (simp [-List.reduceReplicate, foldl_ctl]; done) | (simp [*, -List.reduceReplicate, foldl_ctl]; done) | (simp_all [-List.reduceReplicate, foldl_ctl]; done)))
  | (simp only [sendDecision]
     refine foldl_ctl _ (fun s a => ?_) _ _
     (repeat' split) <;> simp [-List.reduceReplicate, foldl_ctl])
  | (simp only [sendDecision]
     (repeat' split) <;> first
       | (simp [-List.reduceReplicate, foldl_ctl]; done)
       | (refine (foldl_ctl _ (fun s a => ?_) _ _).trans ?_
          all_goals ((repeat' split) <;> simp [-List.reduceReplicate, foldl_ctl])))

@[simp] theorem actOn_ctl (d : RimDecision) (s : State) :
    (actOn d s).ctl = s.ctl := by
  simp [actOn]

@[simp] theorem propose_ctl (d : RimDecision) (s : State) :
    (propose d s).ctl = s.ctl := by
  simp only [propose]; split <;> simp

@[simp] theorem decideDomain_ctl (failed : Bool) (s : State) :
    (decideDomain failed s).ctl = s.ctl := by
  simp [decideDomain]

@[simp] theorem failRound_ctl (s : State) :
    (failRound s).ctl = s.ctl := by
  simp only [failRound]; split <;> simp

@[simp] theorem actCommit_ctl (d : RimDecision) (s : State) :
    (actCommit d s).ctl = s.ctl := by
  simp [actCommit]

@[simp] theorem tryCommit_ctl (s : State) :
    (tryCommit s).ctl = s.ctl := by
  simp only [tryCommit]; repeat' split <;> simp

@[simp] theorem release_ctl (s : State) :
    (release s).ctl = s.ctl := by
  simp only [release]; split <;> simp

@[simp] theorem declareLost_ctl (seat : Nat) (s : State) :
    (declareLost seat s).ctl = s.ctl := by
  simp only [declareLost]; repeat' split <;> simp

@[simp] theorem withdrawReports_ctl (seat : Nat) (s : State) :
    (withdrawReports seat s).ctl = s.ctl := by
  simp [withdrawReports]

@[simp] theorem noteRedo_ctl (seat : Nat) (s : State) :
    (noteRedo seat s).ctl = s.ctl := by
  simp [noteRedo]

@[simp] theorem rimReport_ctl (r : Report) (s : State) :
    (rimReport r s).ctl = s.ctl := by
  simp only [rimReport]; (repeat' split) <;> simp [foldl_ctl]

@[simp] theorem sendHeld_ctl (c : RimCopy) (s : State) :
    (sendHeld c s).ctl = s.ctl := by
  first
  | (simp [sendHeld, -List.reduceReplicate, foldl_ctl]; done)
  | (simp only [sendHeld]; (repeat' split) <;> simp [-List.reduceReplicate, foldl_ctl] <;> done)
  | (simp only [sendHeld]
     repeat' (split <;> (try (rename_i heq; first
       | (replace heq := (congrArg (fun x => (Prod.snd x).ctl) heq).symm; simp [-List.reduceReplicate, foldl_ctl] at heq)
  )))
     all_goals (first | (simp [-List.reduceReplicate, foldl_ctl]; done) | (simp [*, -List.reduceReplicate, foldl_ctl]; done) | (simp_all [-List.reduceReplicate, foldl_ctl]; done)))
  | (simp only [sendHeld]
     refine foldl_ctl _ (fun s a => ?_) _ _
     (repeat' split) <;> simp [-List.reduceReplicate, foldl_ctl])
  | (simp only [sendHeld]
     (repeat' split) <;> first
       | (simp [-List.reduceReplicate, foldl_ctl]; done)
       | (refine (foldl_ctl _ (fun s a => ?_) _ _).trans ?_
          all_goals ((repeat' split) <;> simp [-List.reduceReplicate, foldl_ctl])))

@[simp] theorem becomeRim_ctl (s : State) :
    (becomeRim s).ctl = s.ctl := by
  unfold becomeRim
  dsimp only
  split
  · rfl
  rw [declareLost_ctl, sendSeats_ctl, sendHeld_ctl, masterPorts_ctl, raiseTim_ctl]; rfl

end Sys2Proof.Machine
end

