-- ==== Sys2Proof/Laws/Cluster.lean ====
section
/-! SUPPORT. The operations of Machine/Cluster.lean leave the registers that software sets alone. -/

namespace Sys2Proof.Machine

theorem groupsEnd_keeps (h : BitVec 32) (base : Nat) (die : Option Nat) (x0 : Nat) (x1 : Nat) :
    KeepsAll (groupsEnd h base die x0 x1) := by
  induction x0 generalizing h base die x1
  all_goals
  intro k0
  simp only [groupsEnd]
  repeat' (first
  | with_reducible apply keeps_pureT
  | with_reducible apply readBytes_keeps _ _ _ _ _ _
  | with_reducible apply checkExtent_keeps _ _ _ _
  | with_reducible apply keeps_bind'
  | (simp [*]))

@[simp] theorem formDomain_ctl (id : BitVec 32) (ms : List (Nat × Member)) (gs : List XGroup) (s : State) :
    (formDomain id ms gs s).ctl = s.ctl := by
  simp [formDomain]

theorem planForm_keeps (q : Nat) (p : Packet) :
    ∀ k0, Keeps k0 (fun pl : Plan => KeepsAll pl.run) (planForm q p) := by
  intro k0
  simp only [planForm]
  repeat' (first
    | (with_reducible intro _)
    | with_reducible apply keeps_pure
    | with_reducible apply readBytes_keeps _ _ _ _ _ _
    | with_reducible apply requireLive_keeps _ _
    | with_reducible apply checkExtent_keeps _ _ _ _
    | with_reducible apply seqDie_keeps _ _
    | with_reducible apply groupsEnd_keeps _ _ _ _ _ _
    | with_reducible apply keeps_requireT
    | with_reducible apply keeps_updT
    | with_reducible apply keeps_bind keeps_get
    | with_reducible apply keeps_bind'
    | (simp [*]))

theorem planJoin_keeps (p : Packet) :
    ∀ k0, Keeps k0 (fun pl : Plan => KeepsAll pl.run) (planJoin p) := by
  intro k0
  simp only [planJoin]
  repeat' (first
    | (with_reducible intro _)
    | with_reducible apply keeps_pure
    | with_reducible apply keeps_requireT
    | with_reducible apply keeps_updT
    | with_reducible apply keeps_bind keeps_get
    | with_reducible apply keeps_bind'
    | (simp [*]))

theorem planLeave_keeps  :
    ∀ k0, Keeps k0 (fun pl : Plan => KeepsAll pl.run) (planLeave ) := by
  intro k0
  simp only [planLeave]
  repeat' (first
    | (with_reducible intro _)
    | with_reducible apply keeps_pure
    | with_reducible apply keeps_requireT
    | with_reducible apply keeps_updT
    | with_reducible apply keeps_bind keeps_get
    | with_reducible apply keeps_bind'
    | (simp [*]))

theorem planJoinDomain_keeps (q : Nat) (p : Packet) :
    ∀ k0, Keeps k0 (fun pl : Plan => KeepsAll pl.run) (planJoinDomain q p) := by
  intro k0
  simp only [planJoinDomain]
  repeat' (first
    | (with_reducible intro _)
    | with_reducible apply keeps_refuse
    | with_reducible apply reservedZero_keeps _ _ _
    | with_reducible apply planForm_keeps _ _ _
    | with_reducible apply planJoin_keeps _ _
    | with_reducible apply planLeave_keeps _
    | with_reducible apply keeps_requireT
    | with_reducible apply keeps_bind keeps_get
    | with_reducible apply keeps_bind'
    | (split))

@[simp] theorem acceptJoin_ctl (dev : BitVec 64) (dom : BitVec 32) (locked : Bool) (ports : List PortReport) (mac : BitVec 48) (s : State) :
    (acceptJoin dev dom locked ports mac s).ctl = s.ctl := by
  first
  | (simp [acceptJoin, -List.reduceReplicate, foldl_ctl]; done)
  | (simp only [acceptJoin]; (repeat' split) <;> simp [-List.reduceReplicate, foldl_ctl] <;> done)
  | (simp only [acceptJoin]
     repeat' (split <;> (try (rename_i heq; first
       | (replace heq := (congrArg (fun x => (Prod.snd x).ctl) heq).symm; simp [-List.reduceReplicate, foldl_ctl] at heq)
  )))
     all_goals (first | (simp [-List.reduceReplicate, foldl_ctl]; done) | (simp [*, -List.reduceReplicate, foldl_ctl]; done) | (simp_all [-List.reduceReplicate, foldl_ctl]; done)))
  | (simp only [acceptJoin]
     refine foldl_ctl _ (fun s a => ?_) _ _
     (repeat' split) <;> simp [-List.reduceReplicate, foldl_ctl])
  | (simp only [acceptJoin]
     (repeat' split) <;> first
       | (simp [-List.reduceReplicate, foldl_ctl]; done)
       | (refine (foldl_ctl _ (fun s a => ?_) _ _).trans ?_
          all_goals ((repeat' split) <;> simp [-List.reduceReplicate, foldl_ctl])))

@[simp] theorem joined_ctl (seat : Nat) (round : BitVec 32) (standby : Bool) (set : Nat) (groups : List XGroup) (windows : List (Fin 16 × EntryBody)) (ptp : List PtpState) (macs : List (Nat × BitVec 48)) (s : State) :
    (joined seat round standby set groups windows ptp macs s).ctl = s.ctl := by
  first
  | (simp [joined, -List.reduceReplicate, foldl_ctl]; done)
  | (simp only [joined]; (repeat' split) <;> simp [-List.reduceReplicate, foldl_ctl] <;> done)
  | (simp only [joined]
     repeat' (split <;> (try (rename_i heq; first
       | (replace heq := (congrArg (fun x => (Prod.snd x).ctl) heq).symm; simp [-List.reduceReplicate, foldl_ctl] at heq)
  )))
     all_goals (first | (simp [-List.reduceReplicate, foldl_ctl]; done) | (simp [*, -List.reduceReplicate, foldl_ctl]; done) | (simp_all [-List.reduceReplicate, foldl_ctl]; done)))
  | (simp only [joined]
     refine foldl_ctl _ (fun s a => ?_) _ _
     (repeat' split) <;> simp [-List.reduceReplicate, foldl_ctl])
  | (simp only [joined]
     (repeat' split) <;> first
       | (simp [-List.reduceReplicate, foldl_ctl]; done)
       | (refine (foldl_ctl _ (fun s a => ?_) _ _).trans ?_
          all_goals ((repeat' split) <;> simp [-List.reduceReplicate, foldl_ctl])))

@[simp] theorem seatLost_ctl (seat : Nat) (s : State) :
    (seatLost seat s).ctl = s.ctl := by
  simp [seatLost]

theorem requireRim_keeps  :
    KeepsAll (requireRim ) := by
  intro k0
  simp only [requireRim]
  repeat' (first
    | (with_reducible intro _)
    | with_reducible apply keeps_requireT
    | with_reducible apply keeps_bind keeps_get
    | with_reducible apply keeps_bind')

theorem planAssign_keeps (p : Packet) :
    ∀ k0, Keeps k0 (fun pl : Plan => KeepsAll pl.run) (planAssign p) := by
  intro k0
  simp only [planAssign]
  repeat' (first
    | (with_reducible intro _)
    | with_reducible apply keeps_pure
    | with_reducible apply keeps_refuse
    | with_reducible apply reservedZero_keeps _ _ _
    | with_reducible apply requireRim_keeps _
    | with_reducible apply keeps_requireT
    | with_reducible apply keeps_updT
    | with_reducible apply keeps_bind keeps_get
    | with_reducible apply keeps_bind'
    | (split <;> (try (rename_i heq; replace heq := (congrArg (fun x => (Prod.snd x).ctl) heq).symm; simp [*] at heq)))
    | (simp [*]))

@[simp] theorem bookWindows_ctl (l : List Booking) (s : State) :
    (bookWindows l s).ctl = s.ctl := by
  simp [bookWindows, foldl_ctl]

@[simp] theorem heartbeatPeriod_ctl (w : List Booking) (s : State) :
    (heartbeatPeriod w s).ctl = s.ctl := by
  simp [heartbeatPeriod, foldl_ctl]

@[simp] theorem heartbeat_ctl (h : Heartbeat) (s : State) :
    (heartbeat h s).ctl = s.ctl := by
  simp [heartbeat]

@[simp] theorem modWindows_ctl (f : Nat → EntryBody → EntryBody) (s : State) :
    (modWindows f s).ctl = s.ctl := by
  simp [modWindows]

@[simp] theorem stretch_ctl (s : State) :
    (stretch s).ctl = s.ctl := by
  simp [stretch]

@[simp] theorem lengthen_ctl (seat : Nat) (s : State) :
    (lengthen seat s).ctl = s.ctl := by
  simp [lengthen]

@[simp] theorem heartbeatAnswer_ctl (a : Answer) (s : State) :
    (heartbeatAnswer a s).ctl = s.ctl := by
  simp only [heartbeatAnswer]; split <;> simp

@[simp] theorem heartbeatMissed_ctl (seat : Nat) (s : State) :
    (heartbeatMissed seat s).ctl = s.ctl := by
  simp only [heartbeatMissed]; split <;> simp

end Sys2Proof.Machine
end

