-- ==== Sys2Proof/Laws/Power.lean ====
section
/-! SUPPORT. The operations of Machine/Power.lean leave the registers that software sets alone. -/

namespace Sys2Proof.Machine

@[simp] theorem setStep_ctl (k : Nat) (cause : BitVec 4) (s : State) :
    (setStep k cause s).ctl = s.ctl := by
  simp [setStep]

@[simp] theorem thermalRecord_ctl (sensor : Nat) (reading : Int) (kind : Nat) (s : State) :
    (thermalRecord sensor reading kind s).ctl = s.ctl := by
  simp [thermalRecord]

@[simp] theorem stepDown_ctl (power junction stack : Bool) (s : State) :
    (stepDown power junction stack s).ctl = s.ctl := by
  simp [stepDown]

@[simp] theorem countLife_ctl (s : State) :
    (countLife s).ctl = s.ctl := by
  simp [countLife]

@[simp] theorem takeReadings_ctl (r : PowerReading) (s : State) :
    (takeReadings r s).ctl = s.ctl := by
  simp [takeReadings]

@[simp] theorem evaluate_ctl (r : PowerReading) (s : State) :
    (evaluate r s).ctl = s.ctl := by
  simp [evaluate]

@[simp] theorem countStack_ctl (k retries reports : Nat) (s : State) :
    (countStack k retries reports s).ctl = s.ctl := by
  simp [countStack]

@[simp] theorem sensorFault_ctl (i : Nat) (s : State) :
    (sensorFault i s).ctl = s.ctl := by
  simp [sensorFault]

@[simp] theorem setCap_ctl (w : Nat) (s : State) :
    (setCap w s).ctl = s.ctl := by
  simp [setCap]

theorem planPowerCap_keeps (p : Packet) (c : InFlight) :
    ∀ k0, Keeps k0 (fun pl : Plan => KeepsAll pl.run) (planPowerCap p c) := by
  intro k0
  simp only [planPowerCap]
  repeat' (first
    | (with_reducible intro _)
    | with_reducible apply keeps_pure
    | with_reducible apply reservedZero_keeps _ _ _
    | with_reducible apply keeps_requireT
    | with_reducible apply keeps_updT
    | with_reducible apply keeps_bind keeps_get
    | with_reducible apply keeps_bind'
    | (simp [*]))

end Sys2Proof.Machine
end

