-- ==== Sys2Proof/Laws/Resets.lean ====
section
/-! SUPPORT. The operations of Machine/Resets.lean leave the registers that software sets alone. -/

namespace Sys2Proof.Machine

@[simp] theorem dropBindings_ctl (s : State) :
    (dropBindings s).2.ctl = s.ctl := by
  simp [dropBindings]

@[simp] theorem signalEnded_ctl (ended : Bool) (s : State) :
    (signalEnded ended s).ctl = s.ctl := by
  simp [signalEnded]

@[simp] theorem freeReleasing_ctl (s : State) :
    (freeReleasing s).ctl = s.ctl := by
  simp only [freeReleasing]; (repeat' split) <;> simp [foldl_ctl]

@[simp] theorem lifetimeRecord_ctl (s : State) :
    (lifetimeRecord s).ctl = s.ctl := by
  simp [lifetimeRecord]

@[simp] theorem cutWindows_ctl (s : State) :
    (cutWindows s).ctl = s.ctl := by
  unfold cutWindows
  rw [releaseHeld_ctl]
  refine foldl_ctl _ (fun s k => ?_) _ _
  split <;> simp

@[simp] theorem functionReset_ctl (s : State) :
    (functionReset s).ctl = s.ctl := by
  simp [functionReset]

@[simp] theorem enumerate_ctl (s : State) :
    (enumerate s).ctl = s.ctl := by
  first
  | (simp [enumerate, -List.reduceReplicate, foldl_ctl]; done)
  | (simp only [enumerate]; (repeat' split) <;> simp [-List.reduceReplicate, foldl_ctl] <;> done)
  | (simp only [enumerate]
     repeat' (split <;> (try (rename_i heq; first
       | (replace heq := (congrArg (fun x => (Prod.snd x).ctl) heq).symm; simp [-List.reduceReplicate, foldl_ctl] at heq)
  )))
     all_goals (first | (simp [-List.reduceReplicate, foldl_ctl]; done) | (simp [*, -List.reduceReplicate, foldl_ctl]; done) | (simp_all [-List.reduceReplicate, foldl_ctl]; done)))
  | (simp only [enumerate]
     refine foldl_ctl _ (fun s a => ?_) _ _
     (repeat' split) <;> simp [-List.reduceReplicate, foldl_ctl])
  | (simp only [enumerate]
     (repeat' split) <;> first
       | (simp [-List.reduceReplicate, foldl_ctl]; done)
       | (refine (foldl_ctl _ (fun s a => ?_) _ _).trans ?_
          all_goals ((repeat' split) <;> simp [-List.reduceReplicate, foldl_ctl])))

end Sys2Proof.Machine
end

