-- ==== Sys2Proof/Laws/Upsett.lean ====
section
/-! SUPPORT. The operations of Machine/Upsett.lean leave the registers that software sets alone. -/

namespace Sys2Proof.Machine

@[simp] theorem failStage_ctl (stage code : Nat) (s : State) :
    (failStage stage code s).ctl = s.ctl := by
  simp [failStage]

@[simp] theorem enterStage_ctl (n : Nat) (s : State) :
    (enterStage n s).ctl = s.ctl := by
  simp [enterStage]

@[simp] theorem stageDone_ctl (s : State) :
    (stageDone s).ctl = s.ctl := by
  simp [stageDone]

@[simp] theorem boot_ctl (slot fallback : Bool) (s : State) :
    (boot slot fallback s).ctl = s.ctl := by
  simp [boot]

@[simp] theorem trainPcie_ctl (s : State) :
    (trainPcie s).ctl = s.ctl := by
  unfold trainPcie
  split
  · rfl
  dsimp only
  rw [enumerate_ctl, tick_ctl, tick_ctl]; rfl

@[simp] theorem upsettU1_ctl (s : State) :
    (upsettU1 s).ctl = s.ctl := by
  simp [upsettU1]

@[simp] theorem loadSettings_ctl (s : State) :
    (loadSettings s).ctl = s.ctl := by
  simp [loadSettings]

@[simp] theorem replayLedger_ctl (s : State) :
    (replayLedger s).ctl = s.ctl := by
  simp only [replayLedger]; (repeat' split) <;> simp

@[simp] theorem upsettU2_ctl (s : State) :
    (upsettU2 s).ctl = s.ctl := by
  simp [upsettU2]

@[simp] theorem recordBridges_ctl (d0 d1 : DieResult) (weave : List (Fin 16)) (s : State) :
    (recordBridges d0 d1 weave s).ctl = s.ctl := by
  simp [recordBridges, foldl_ctl]

@[simp] theorem retireFailed_ctl (die pos : Nat) (s : State) :
    (retireFailed die pos s).ctl = s.ctl := by
  simp [retireFailed]

@[simp] theorem upsettU3_ctl (d0 d1 : DieResult) (s : State) :
    (upsettU3 d0 d1 s).ctl = s.ctl := by
  simp [upsettU3, foldl_ctl]

@[simp] theorem loadHealth_ctl (k : Nat) (s : State) :
    (loadHealth k s).ctl = s.ctl := by
  simp [loadHealth]

@[simp] theorem failChannels_ctl (k : Nat) (cs : List Nat) (s : State) :
    (failChannels k cs s).ctl = s.ctl := by
  simp [failChannels, foldl_ctl]

@[simp] theorem recordScan_ctl (k : Nat) (temp : Int) (l : List (Fin 16 × Margin × Margin)) (s : State) :
    (recordScan k temp l s).ctl = s.ctl := by
  simp [recordScan, foldl_ctl]

@[simp] theorem trainStack_ctl (k : Nat) (r : StackResult) (s : State) :
    (trainStack k r s).ctl = s.ctl := by
  simp only [trainStack]; (repeat' split) <;> simp

@[simp] theorem upsettU4_ctl (pair : Nat) (lo hi : StackResult) (s : State) :
    (upsettU4 pair lo hi s).ctl = s.ctl := by
  simp [upsettU4]

@[simp] theorem startPorts_ctl (s : State) :
    (startPorts s).ctl = s.ctl := by
  simp [startPorts, foldl_ctl]

@[simp] theorem upsettU5_ctl (s : State) :
    (upsettU5 s).ctl = s.ctl := by
  simp [upsettU5]

@[simp] theorem noteExit_ctl (s : State) :
    (noteExit s).ctl = s.ctl := by
  simp [noteExit]

@[simp] theorem upsettU6_ctl (s : State) :
    (upsettU6 s).ctl = s.ctl := by
  simp [upsettU6]

@[simp] theorem reducedService_ctl (s : State) :
    (reducedService s).ctl = s.ctl := by
  simp [reducedService]

@[simp] theorem stageLimit_ctl (s : State) :
    (stageLimit s).ctl = s.ctl := by
  simp [stageLimit]

end Sys2Proof.Machine
end

