-- ==== Sys2Proof/Laws/Patrol.lean ====
section
/-! SUPPORT. The operations of Machine/Patrol.lean leave the registers that software sets alone. -/

namespace Sys2Proof.Machine

@[simp] theorem reportFound_ctl (id : Nat) (s : State) :
    (reportFound id s).ctl = s.ctl := by
  simp [reportFound]

@[simp] theorem scrubRead_ctl (k n : Nat) (s : State) :
    (scrubRead k n s).ctl = s.ctl := by
  simp only [scrubRead]
  repeat' (split <;> (try (rename_i heq; first
    | (replace heq := (congrArg (fun x => (Prod.snd x).ctl) heq).symm; simp at heq)
  )))
  all_goals simp_all

@[simp] theorem scrub_ctl (k : Nat) (s : State) :
    (scrub k s).ctl = s.ctl := by
  simp [scrub]

@[simp] theorem dieLocalisation_ctl (k n : Nat) (s : State) :
    (dieLocalisation k n s).ctl = s.ctl := by
  simp only [dieLocalisation]
  repeat' (split <;> (try (rename_i heq; first
    | (replace heq := (congrArg (fun x => (Prod.snd x).ctl) heq).symm; simp at heq)
  )))
  all_goals simp_all

@[simp] theorem bookWindow_ctl (k c : Nat) (s : State) :
    (bookWindow k c s).ctl = s.ctl := by
  simp only [bookWindow]; repeat' split <;> simp

@[simp] theorem advanceScans_ctl (s : State) :
    (advanceScans s).ctl = s.ctl := by
  simp only [advanceScans]
  refine foldl_ctl _ (fun s a => ?_) _ _
  (repeat' split) <;> simp

@[simp] theorem startWindow_ctl (k c : Nat) (s : State) :
    (startWindow k c s).ctl = s.ctl := by
  simp [startWindow]

@[simp] theorem retrainEvaluation_ctl (k c : Nat) (s : State) :
    (retrainEvaluation k c s).ctl = s.ctl := by
  simp [retrainEvaluation]

@[simp] theorem scanChannel_ctl (k c : Nat) (lo hi : Margin) (ppr : Bool) (time : Nat) (s : State) :
    (scanChannel k c lo hi ppr time s).ctl = s.ctl := by
  simp only [scanChannel]; (repeat' split) <;> simp

@[simp] theorem channelReturn_ctl (k : Nat) (repair : Option Repair) (lo hi : Margin) (s : State) :
    (channelReturn k repair lo hi s).ctl = s.ctl := by
  simp only [channelReturn]; repeat' split <;> simp

@[simp] theorem channelLimit_ctl (k : Nat) (s : State) :
    (channelLimit k s).ctl = s.ctl := by
  simp only [channelLimit]; split <;> simp

@[simp] theorem writeBurst_ctl (c id : Nat) (s : State) :
    (writeBurst c id s).ctl = s.ctl := by
  first
  | (simp [writeBurst, -List.reduceReplicate, foldl_ctl]; done)
  | (simp only [writeBurst]; (repeat' split) <;> simp [-List.reduceReplicate, foldl_ctl] <;> done)
  | (simp only [writeBurst]
     repeat' (split <;> (try (rename_i heq; first
       | (replace heq := (congrArg (fun x => (Prod.snd x).ctl) heq).symm; simp [-List.reduceReplicate, foldl_ctl] at heq)
  )))
     all_goals (first | (simp [-List.reduceReplicate, foldl_ctl]; done) | (simp [*, -List.reduceReplicate, foldl_ctl]; done) | (simp_all [-List.reduceReplicate, foldl_ctl]; done)))
  | (simp only [writeBurst]
     refine foldl_ctl _ (fun s a => ?_) _ _
     (repeat' split) <;> simp [-List.reduceReplicate, foldl_ctl])
  | (simp only [writeBurst]
     (repeat' split) <;> first
       | (simp [-List.reduceReplicate, foldl_ctl]; done)
       | (refine (foldl_ctl _ (fun s a => ?_) _ _).trans ?_
          all_goals ((repeat' split) <;> simp [-List.reduceReplicate, foldl_ctl])))

@[simp] theorem rebuildLine_ctl (c k n : Nat) (s : State) :
    (rebuildLine c k n s).ctl = s.ctl := by
  first
  | (simp [rebuildLine, -List.reduceReplicate, foldl_ctl]; done)
  | (simp only [rebuildLine]; (repeat' split) <;> simp [-List.reduceReplicate, foldl_ctl] <;> done)
  | (simp only [rebuildLine]
     repeat' (split <;> (try (rename_i heq; first
       | (replace heq := (congrArg (fun x => (Prod.snd x).ctl) heq).symm; simp [-List.reduceReplicate, foldl_ctl] at heq)
  )))
     all_goals (first | (simp [-List.reduceReplicate, foldl_ctl]; done) | (simp [*, -List.reduceReplicate, foldl_ctl]; done) | (simp_all [-List.reduceReplicate, foldl_ctl]; done)))
  | (simp only [rebuildLine]
     refine foldl_ctl _ (fun s a => ?_) _ _
     (repeat' split) <;> simp [-List.reduceReplicate, foldl_ctl])
  | (simp only [rebuildLine]
     (repeat' split) <;> first
       | (simp [-List.reduceReplicate, foldl_ctl]; done)
       | (refine (foldl_ctl _ (fun s a => ?_) _ _).trans ?_
          all_goals ((repeat' split) <;> simp [-List.reduceReplicate, foldl_ctl])))

@[simp] theorem rebuild_ctl (k : Nat) (s : State) :
    (rebuild k s).ctl = s.ctl := by
  simp only [rebuild]; (repeat' split) <;> simp [foldl_ctl]

theorem planMarginScan_keeps (p : Packet) (c : InFlight) :
    ∀ k0, Keeps k0 (fun pl : Plan => KeepsAll pl.run) (planMarginScan p c) := by
  intro k0
  simp only [planMarginScan]
  repeat' (first
    | (with_reducible intro _)
    | with_reducible apply keeps_pure
    | with_reducible apply keeps_refuse
    | with_reducible apply reservedZero_keeps _ _ _
    | with_reducible apply requireLive_keeps _ _
    | with_reducible apply checkExtent_keeps _ _ _ _
    | with_reducible apply keeps_requireT
    | with_reducible apply keeps_updT
    | with_reducible apply keeps_bind keeps_get
    | with_reducible apply keeps_bind'
    | (split <;> (try (rename_i heq; replace heq := (congrArg (fun x => (Prod.snd x).ctl) heq).symm; simp [*] at heq)))
    | (simp [*]))

@[simp] theorem startScan_ctl (id : Nat) (l : List (Nat × Nat)) (h : BitVec 32) (off : Nat) (s : State) :
    (startScan id l h off s).ctl = s.ctl := by
  simp only [startScan]; split <;> simp

end Sys2Proof.Machine
end

