-- ==== Sys2Proof/Laws/Telemetry.lean ====
section
/-! SUPPORT. The operations of Machine/Telemetry.lean leave the registers that software sets alone. -/

set_option Elab.async false

namespace Sys2Proof.Machine

theorem writeReport_keeps (d : Dest) (bytes : List Byte) (r : Res) :
    KeepsAll (writeReport d bytes r) := by
  intro k0
  simp only [writeReport]
  repeat' (first
    | (with_reducible intro _)
    | with_reducible apply keeps_pureT
    | with_reducible apply keeps_actT
    | with_reducible apply keeps_bind'
    | (simp [*]))

@[simp] theorem select_ctl (ws : List Word) (s : State) :
    (select ws s).ctl = s.ctl := by
  simp [select]

@[simp] theorem applySelection_ctl (s : State) :
    (applySelection s).ctl = s.ctl := by
  first
  | (simp [applySelection, -List.reduceReplicate, foldl_ctl]; done)
  | (simp only [applySelection]; (repeat' split) <;> simp [-List.reduceReplicate, foldl_ctl] <;> done)
  | (simp only [applySelection]
     repeat' (split <;> (try (rename_i heq; first
       | (replace heq := (congrArg (fun x => (Prod.snd x).ctl) heq).symm; simp [-List.reduceReplicate, foldl_ctl] at heq)
  )))
     all_goals (first | (simp [-List.reduceReplicate, foldl_ctl]; done) | (simp [*, -List.reduceReplicate, foldl_ctl]; done) | (simp_all [-List.reduceReplicate, foldl_ctl]; done)))
  | (simp only [applySelection]
     refine foldl_ctl _ (fun s a => ?_) _ _
     (repeat' split) <;> simp [-List.reduceReplicate, foldl_ctl])
  | (simp only [applySelection]
     (repeat' split) <;> first
       | (simp [-List.reduceReplicate, foldl_ctl]; done)
       | (refine (foldl_ctl _ (fun s a => ?_) _ _).trans ?_
          all_goals ((repeat' split) <;> simp [-List.reduceReplicate, foldl_ctl])))

theorem planCounterCfg_keeps (p : Packet) :
    ∀ k0, Keeps k0 (fun pl : Plan => KeepsAll pl.run) (planCounterCfg p) := by
  intro k0
  simp only [planCounterCfg]
  repeat' (first
    | (with_reducible intro _)
    | with_reducible apply keeps_pure
    | with_reducible apply keeps_refuse
    | with_reducible apply reservedZero_keeps _ _ _
    | with_reducible apply readBlock_keeps _ _ _ _ _ _ _
    | with_reducible apply keeps_requireT
    | with_reducible apply keeps_updT
    | with_reducible apply keeps_bind'
    | (split <;> (try (rename_i heq; replace heq := (congrArg (fun x => (Prod.snd x).ctl) heq).symm; simp [*] at heq)))
    | (simp [*]))

@[simp] theorem takeSample_ctl (m : RailMeans) (s : State) :
    (takeSample m s).ctl = s.ctl := by
  simp [takeSample]

theorem planTelemetry_keeps (p : Packet) (m : RailMeans) :
    ∀ k0, Keeps k0 (fun pl : Plan => KeepsAll pl.run) (planTelemetry p m) := by
  intro k0
  simp only [planTelemetry]
  repeat' (first
    | (with_reducible intro _)
    | with_reducible apply keeps_pure
    | with_reducible apply reservedZero_keeps _ _ _
    | with_reducible apply checkDest_keeps _ _ _ _
    | with_reducible apply destLive_keeps _ _ _
    | with_reducible apply writeReport_keeps _ _ _ _
    | with_reducible apply keeps_bind keeps_get
    | with_reducible apply keeps_bind')

@[simp] theorem configureSampler_ctl (enable : Bool) (log2 : Nat) (d : Dest) (s : State) :
    (configureSampler enable log2 d s).ctl = s.ctl := by
  simp [configureSampler]

theorem planSamplerCfg_keeps (p : Packet) :
    ∀ k0, Keeps k0 (fun pl : Plan => KeepsAll pl.run) (planSamplerCfg p) := by
  intro k0
  simp only [planSamplerCfg]
  repeat' (first
    | (with_reducible intro _)
    | with_reducible apply keeps_pure
    | with_reducible apply reservedZero_keeps _ _ _
    | with_reducible apply checkDest_keeps _ _ _ _
    | with_reducible apply destLive_keeps _ _ _
    | with_reducible apply keeps_requireT
    | with_reducible apply keeps_updT
    | with_reducible apply keeps_bind'
    | (split <;> (try (rename_i heq; replace heq := (congrArg (fun x => (Prod.snd x).ctl) heq).symm; simp [*] at heq)))
    | (simp [*]))

@[simp] theorem spillRecords_ctl (s : State) : (spillRecords s).ctl = s.ctl := by
  simp only [spillRecords]
  (repeat' split) <;> simp

@[simp] theorem armTrace_ctl (p : Packet) (s : State) :
    (armTrace p s).ctl = s.ctl := by
  simp [armTrace]

theorem planTraceArm_keeps (p : Packet) :
    ∀ k0, Keeps k0 (fun pl : Plan => KeepsAll pl.run) (planTraceArm p) := by
  intro k0
  simp only [planTraceArm]
  repeat' (first
    | (with_reducible intro _)
    | with_reducible apply keeps_pure
    | with_reducible apply reservedZero_keeps _ _ _
    | with_reducible apply requireLive_keeps _ _
    | with_reducible apply checkExtent_keeps _ _ _ _
    | with_reducible apply keeps_requireT
    | with_reducible apply keeps_updT
    | with_reducible apply keeps_bind keeps_get
    | with_reducible apply keeps_bind'
    | (split <;> (try (rename_i heq; replace heq := (congrArg (fun x => (Prod.snd x).ctl) heq).symm; simp [*] at heq)))
    | (simp [*]))

theorem planTraceRead_keeps (p : Packet) :
    ∀ k0, Keeps k0 (fun pl : Plan => KeepsAll pl.run) (planTraceRead p) := by
  intro k0
  simp only [planTraceRead]
  repeat' (first
    | (with_reducible intro _)
    | with_reducible apply keeps_pure
    | with_reducible apply reservedZero_keeps _ _ _
    | with_reducible apply checkDest_keeps _ _ _ _
    | with_reducible apply destLive_keeps _ _ _
    | with_reducible apply writeReport_keeps _ _ _ _
    | with_reducible apply readHandle_keeps _ _
    | with_reducible apply keeps_requireT
    | with_reducible apply keeps_bind keeps_get
    | with_reducible apply keeps_bind'
    | dsimp only
    | split)

@[simp] theorem summaryInterval_ctl (s : State) :
    (summaryInterval s).ctl = s.ctl := by
  simp [summaryInterval]

@[simp] theorem holdForDump_ctl (s : State) :
    (holdForDump s).ctl = s.ctl := by
  first
  | (simp [holdForDump, -List.reduceReplicate, foldl_ctl]; done)
  | (simp only [holdForDump]; (repeat' split) <;> simp [-List.reduceReplicate, foldl_ctl] <;> done)
  | (simp only [holdForDump]
     repeat' (split <;> (try (rename_i heq; first
       | (replace heq := (congrArg (fun x => (Prod.snd x).ctl) heq).symm; simp [-List.reduceReplicate, foldl_ctl] at heq)
  )))
     all_goals (first | (simp [-List.reduceReplicate, foldl_ctl]; done) | (simp [*, -List.reduceReplicate, foldl_ctl]; done) | (simp_all [-List.reduceReplicate, foldl_ctl]; done)))
  | (simp only [holdForDump]
     refine foldl_ctl _ (fun s a => ?_) _ _
     (repeat' split) <;> simp [-List.reduceReplicate, foldl_ctl])
  | (simp only [holdForDump]
     (repeat' split) <;> first
       | (simp [-List.reduceReplicate, foldl_ctl]; done)
       | (refine (foldl_ctl _ (fun s a => ?_) _ _).trans ?_
          all_goals ((repeat' split) <;> simp [-List.reduceReplicate, foldl_ctl])))

@[simp] theorem freeze_ctl (s : State) :
    (freeze s).ctl = s.ctl := by
  have h (t : Trc) : t.stop.dumpHandle = t.dumpHandle := rfl
  unfold freeze
  dsimp only
  (repeat' split) <;> simp [h]

@[simp] theorem seqWatchdog_ctl (n : Nat) (s : State) :
    (seqWatchdog n s).ctl = s.ctl := by
  simp [seqWatchdog]

@[simp] theorem dumpWrite_ctl (stake : Option (Fin 2 × Fin 100)) (s : State) :
    (dumpWrite stake s).ctl = s.ctl := by
  simp only [dumpWrite]
  repeat' (split <;> (try (rename_i heq; first
    | (replace heq := (congrArg (fun x => (Prod.snd x).ctl) heq).symm; simp at heq)
  )))
  all_goals (first | (simp; done) | (simp; done) | (simp_all; done))

theorem planDumpRead_keeps (p : Packet) :
    ∀ k0, Keeps k0 (fun pl : Plan => KeepsAll pl.run) (planDumpRead p) := by
  intro k0
  simp only [planDumpRead]
  repeat' (first
    | (with_reducible intro _)
    | with_reducible apply keeps_pureT
    | with_reducible apply keeps_pure
    | with_reducible apply readBytes_keeps _ _ _ _ _ _
    | with_reducible apply reservedZero_keeps _ _ _
    | with_reducible apply requireLive_keeps _ _
    | with_reducible apply checkDest_keeps _ _ _ _
    | with_reducible apply destLive_keeps _ _ _
    | with_reducible apply copyLines_keeps _ _ _ _ _ _ _ _ _ _
    | with_reducible apply writeReport_keeps _ _ _ _
    | with_reducible apply keeps_requireT
    | with_reducible apply keeps_bind keeps_get
    | with_reducible apply keeps_bind'
    | (split))

theorem planLedgerRead_keeps (p : Packet) :
    ∀ k0, Keeps k0 (fun pl : Plan => KeepsAll pl.run) (planLedgerRead p) := by
  intro k0
  simp only [planLedgerRead]
  repeat' (first
    | (with_reducible intro _)
    | with_reducible apply keeps_pure
    | with_reducible apply reservedZero_keeps _ _ _
    | with_reducible apply checkDest_keeps _ _ _ _
    | with_reducible apply destLive_keeps _ _ _
    | with_reducible apply writeReport_keeps _ _ _ _
    | with_reducible apply keeps_updT
    | with_reducible apply keeps_bind keeps_get
    | with_reducible apply keeps_bind'
    | (simp [*]))

@[simp] theorem errorTotals_ctl (s : State) :
    (errorTotals s).ctl = s.ctl := by
  simp [errorTotals]

@[simp] theorem ledgerHourly_ctl (s : State) :
    (ledgerHourly s).ctl = s.ctl := by
  simp [ledgerHourly]

theorem planHealth_keeps (p : Packet) :
    ∀ k0, Keeps k0 (fun pl : Plan => KeepsAll pl.run) (planHealth p) := by
  intro k0
  simp only [planHealth]
  repeat' (first
    | (with_reducible intro _)
    | with_reducible apply keeps_pure
    | with_reducible apply reservedZero_keeps _ _ _
    | with_reducible apply checkDest_keeps _ _ _ _
    | with_reducible apply destLive_keeps _ _ _
    | with_reducible apply writeReport_keeps _ _ _ _
    | with_reducible apply keeps_bind keeps_get
    | with_reducible apply keeps_bind')

end Sys2Proof.Machine
end

