-- ==== Sys2Proof/Laws/Links.lean ====
section
/-! SUPPORT. The operations of Machine/Links.lean leave the registers that software sets alone. -/

namespace Sys2Proof.Machine

@[simp] theorem takeAck_ctl (port : Nat) (mac : BitVec 48) (ack : Nat) (s : State) :
    (takeAck port mac ack s).ctl = s.ctl := by
  first
  | (simp [takeAck, -List.reduceReplicate, foldl_ctl]; done)
  | (simp only [takeAck]; (repeat' split) <;> simp [-List.reduceReplicate, foldl_ctl] <;> done)
  | (simp only [takeAck]
     repeat' (split <;> (try (rename_i heq; first
       | (replace heq := (congrArg (fun x => (Prod.snd x).ctl) heq).symm; simp [-List.reduceReplicate, foldl_ctl] at heq)
  )))
     all_goals (first | (simp [-List.reduceReplicate, foldl_ctl]; done) | (simp [*, -List.reduceReplicate, foldl_ctl]; done) | (simp_all [-List.reduceReplicate, foldl_ctl]; done)))
  | (simp only [takeAck]
     refine foldl_ctl _ (fun s a => ?_) _ _
     (repeat' split) <;> simp [-List.reduceReplicate, foldl_ctl])
  | (simp only [takeAck]
     (repeat' split) <;> first
       | (simp [-List.reduceReplicate, foldl_ctl]; done)
       | (refine (foldl_ctl _ (fun s a => ?_) _ _).trans ?_
          all_goals ((repeat' split) <;> simp [-List.reduceReplicate, foldl_ctl])))

@[simp] theorem resendFrom_ctl (port : Nat) (mac : BitVec 48) (seq : Nat) (s : State) :
    (resendFrom port mac seq s).ctl = s.ctl := by
  simp [resendFrom, foldl_ctl]

@[simp] theorem moveSlave_ctl (p : Nat) (s : State) :
    (moveSlave p s).ctl = s.ctl := by
  simp only [moveSlave]; (repeat' split) <;> simp

@[simp] theorem reroute_ctl (p q : Nat) (c : Conn) (s : State) :
    (reroute p q c s).ctl = s.ctl := by
  simp [reroute]

@[simp] theorem loseFrames_ctl (p : Nat) (c : Conn) (s : State) :
    (loseFrames p c s).ctl = s.ctl := by
  simp only [loseFrames]
  refine foldl_ctl _ (fun s a => ?_) _ _
  (repeat' split) <;> simp

@[simp] theorem moveTraffic_ctl (p : Nat) (s : State) :
    (moveTraffic p s).ctl = s.ctl := by
  simp only [moveTraffic]
  refine foldl_ctl _ (fun s a => ?_) _ _
  (repeat' split) <;> simp

@[simp] theorem portLost_ctl (p : Nat) (st : PortState) (s : State) :
    (portLost p st s).ctl = s.ctl := by
  simp [portLost]

@[simp] theorem degradePort_ctl (p : Nat) (s : State) :
    (degradePort p s).ctl = s.ctl := by
  simp [degradePort]

@[simp] theorem linkTraining_ctl (p : Nat) (lanes : BitVec 8) (present : Bool) (s : State) :
    (linkTraining p lanes present s).ctl = s.ctl := by
  simp [linkTraining]

@[simp] theorem linkPortDown_ctl (p : Nat) (lanes : BitVec 8) (s : State) :
    (linkPortDown p lanes s).ctl = s.ctl := by
  simp [linkPortDown]

@[simp] theorem hearFrame_ctl (p : Nat) (f : Frame) (s : State) :
    (hearFrame p f s).2.ctl = s.ctl := by
  simp only [hearFrame]; repeat' split <;> simp

@[simp] theorem takeStrands_ctl (f : Frame) (s : State) :
    (takeStrands f s).ctl = s.ctl := by
  simp only [takeStrands]; repeat' split <;> simp

@[simp] theorem dataFrame_ctl (p : Nat) (f : Frame) (s : State) :
    (dataFrame p f s).ctl = s.ctl := by
  simp only [dataFrame]
  repeat' (split <;> (try (rename_i heq; first
    | (replace heq := (congrArg (fun x => (Prod.snd x).ctl) heq).symm; simp at heq)
  )))
  all_goals (first | (simp; done) | (simp; done) | (simp_all; done))

@[simp] theorem ackTimer_ctl (p : Nat) (mac : BitVec 48) (s : State) :
    (ackTimer p mac s).ctl = s.ctl := by
  simp [ackTimer]

@[simp] theorem portFails_ctl (p : Nat) (mac : BitVec 48) (s : State) :
    (portFails p mac s).ctl = s.ctl := by
  simp [portFails]

@[simp] theorem resend_ctl (p : Nat) (mac : BitVec 48) (seq : Nat) (s : State) :
    (resend p mac seq s).ctl = s.ctl := by
  first
  | (simp [resend, -List.reduceReplicate, foldl_ctl]; done)
  | (simp only [resend]; (repeat' split) <;> simp [-List.reduceReplicate, foldl_ctl] <;> done)
  | (simp only [resend]
     repeat' (split <;> (try (rename_i heq; first
       | (replace heq := (congrArg (fun x => (Prod.snd x).ctl) heq).symm; simp [-List.reduceReplicate, foldl_ctl] at heq)
  )))
     all_goals (first | (simp [-List.reduceReplicate, foldl_ctl]; done) | (simp [*, -List.reduceReplicate, foldl_ctl]; done) | (simp_all [-List.reduceReplicate, foldl_ctl]; done)))
  | (simp only [resend]
     refine foldl_ctl _ (fun s a => ?_) _ _
     (repeat' split) <;> simp [-List.reduceReplicate, foldl_ctl])
  | (simp only [resend]
     (repeat' split) <;> first
       | (simp [-List.reduceReplicate, foldl_ctl]; done)
       | (refine (foldl_ctl _ (fun s a => ?_) _ _).trans ?_
          all_goals ((repeat' split) <;> simp [-List.reduceReplicate, foldl_ctl])))

@[simp] theorem nakFrame_ctl (p : Nat) (f : Frame) (s : State) :
    (nakFrame p f s).ctl = s.ctl := by
  first
  | (simp [nakFrame, -List.reduceReplicate, foldl_ctl]; done)
  | (simp only [nakFrame]; (repeat' split) <;> simp [-List.reduceReplicate, foldl_ctl] <;> done)
  | (simp only [nakFrame]
     repeat' (split <;> (try (rename_i heq; first
       | (replace heq := (congrArg (fun x => (Prod.snd x).ctl) heq).symm; simp [-List.reduceReplicate, foldl_ctl] at heq)
  )))
     all_goals (first | (simp [-List.reduceReplicate, foldl_ctl]; done) | (simp [*, -List.reduceReplicate, foldl_ctl]; done) | (simp_all [-List.reduceReplicate, foldl_ctl]; done)))
  | (simp only [nakFrame]
     refine foldl_ctl _ (fun s a => ?_) _ _
     (repeat' split) <;> simp [-List.reduceReplicate, foldl_ctl])
  | (simp only [nakFrame]
     (repeat' split) <;> first
       | (simp [-List.reduceReplicate, foldl_ctl]; done)
       | (refine (foldl_ctl _ (fun s a => ?_) _ _).trans ?_
          all_goals ((repeat' split) <;> simp [-List.reduceReplicate, foldl_ctl])))

@[simp] theorem resendTimer_ctl (p : Nat) (mac : BitVec 48) (s : State) :
    (resendTimer p mac s).ctl = s.ctl := by
  first
  | (simp [resendTimer, -List.reduceReplicate, foldl_ctl]; done)
  | (simp only [resendTimer]; (repeat' split) <;> simp [-List.reduceReplicate, foldl_ctl] <;> done)
  | (simp only [resendTimer]
     repeat' (split <;> (try (rename_i heq; first
       | (replace heq := (congrArg (fun x => (Prod.snd x).ctl) heq).symm; simp [-List.reduceReplicate, foldl_ctl] at heq)
  )))
     all_goals (first | (simp [-List.reduceReplicate, foldl_ctl]; done) | (simp [*, -List.reduceReplicate, foldl_ctl]; done) | (simp_all [-List.reduceReplicate, foldl_ctl]; done)))
  | (simp only [resendTimer]
     refine foldl_ctl _ (fun s a => ?_) _ _
     (repeat' split) <;> simp [-List.reduceReplicate, foldl_ctl])
  | (simp only [resendTimer]
     (repeat' split) <;> first
       | (simp [-List.reduceReplicate, foldl_ctl]; done)
       | (refine (foldl_ctl _ (fun s a => ?_) _ _).trans ?_
          all_goals ((repeat' split) <;> simp [-List.reduceReplicate, foldl_ctl])))

end Sys2Proof.Machine
end

