-- ==== Sys2Proof/Laws/Recovery.lean ====
section
/-! SUPPORT. The operations of Machine/Recovery.lean leave the registers that software sets alone. -/

namespace Sys2Proof.Machine

@[simp] theorem setRecovery_ctl (state error : Nat) (s : State) :
    (setRecovery state error s).ctl = s.ctl := by
  simp [setRecovery]

@[simp] theorem fillWindow_ctl (b : List Byte) (s : State) :
    (fillWindow b s).ctl = s.ctl := by
  simp [fillWindow]

@[simp] theorem writeWindow_ctl (o : Nat) (w : Word) (s : State) :
    (writeWindow o w s).ctl = s.ctl := by
  simp [writeWindow]

@[simp] theorem recoverBlock_ctl (chunk : Nat) (s : State) :
    (recoverBlock chunk s).ctl = s.ctl := by
  simp [recoverBlock]

@[simp] theorem reseal_ctl (seq : Nat) (s : State) :
    (reseal seq s).ctl = s.ctl := by
  simp [reseal]

@[simp] theorem recoverReseal_ctl (s : State) :
    (recoverReseal s).ctl = s.ctl := by
  simp only [recoverReseal]; repeat' split <;> simp

end Sys2Proof.Machine
end

