-- ==== Sys2Proof/Laws/Writes.lean ====
section
/-! SUPPORT. The operations of Machine/Writes.lean leave the registers that software sets alone. -/

namespace Sys2Proof.Machine

@[simp] theorem configure_ctl (q : Nat) (w : Queue) (s : State) :
    (configure q w s).2.ctl = s.ctl := by
  simp only [configure]; repeat' split <;> simp

@[simp] theorem writeQueCtrl_ctl (q : Nat) (w : Word) (s : State) :
    (writeQueCtrl q w s).ctl = s.ctl := by
  simp only [writeQueCtrl]
  repeat' (split <;> (try (rename_i heq; first
    | (replace heq := (congrArg (fun x => (Prod.snd x).ctl) heq).symm; simp at heq)
  )))
  all_goals (first | (simp; done) | (simp; done) | (simp_all; done))

@[simp] theorem writeQueue_ctl (q o : Nat) (w : Word) (s : State) :
    (writeQueue q o w s).ctl = s.ctl := by
  simp only [writeQueue]; split <;> simp

@[simp] theorem writeTokenSet_ctl (w : Word) (s : State) :
    (writeTokenSet w s).ctl = s.ctl := by
  simp [writeTokenSet]

@[simp] theorem writeTokenClear_ctl (w : Word) (s : State) :
    (writeTokenClear w s).ctl = s.ctl := by
  simp [writeTokenClear]

@[simp] theorem writeQue_ctl (o : Nat) (w : Word) (s : State) :
    (writeQue o w s).ctl = s.ctl := by
  simp [writeQue]

@[simp] theorem writeDescSel_ctl (w : Word) (s : State) :
    (writeDescSel w s).ctl = s.ctl := by
  simp [writeDescSel]

@[simp] theorem writePlcStatus_ctl (w : Word) (s : State) :
    (writePlcStatus w s).ctl = s.ctl := by
  first
  | (simp [writePlcStatus, -List.reduceReplicate, foldl_ctl]; done)
  | (simp only [writePlcStatus]; (repeat' split) <;> simp [-List.reduceReplicate, foldl_ctl] <;> done)
  | (simp only [writePlcStatus]
     repeat' (split <;> (try (rename_i heq; first
       | (replace heq := (congrArg (fun x => (Prod.snd x).ctl) heq).symm; simp [-List.reduceReplicate, foldl_ctl] at heq)
  )))
     all_goals (first | (simp [-List.reduceReplicate, foldl_ctl]; done) | (simp [*, -List.reduceReplicate, foldl_ctl]; done) | (simp_all [-List.reduceReplicate, foldl_ctl]; done)))
  | (simp only [writePlcStatus]
     refine foldl_ctl _ (fun s a => ?_) _ _
     (repeat' split) <;> simp [-List.reduceReplicate, foldl_ctl])
  | (simp only [writePlcStatus]
     (repeat' split) <;> first
       | (simp [-List.reduceReplicate, foldl_ctl]; done)
       | (refine (foldl_ctl _ (fun s a => ?_) _ _).trans ?_
          all_goals ((repeat' split) <;> simp [-List.reduceReplicate, foldl_ctl])))

@[simp] theorem clearCeLog_ctl (w : Word) (s : State) :
    (clearCeLog w s).ctl = s.ctl := by
  simp [clearCeLog]

@[simp] theorem writeMsix_ctl (i : Nat) (w : Word) (s : State) :
    (writeMsix i w s).ctl = s.ctl := by
  simp [writeMsix]

@[simp] theorem writePolicy_ctl (f : Policy → Policy) (s : State) :
    (writePolicy f s).ctl = s.ctl := by
  simp [writePolicy]

@[simp] theorem writeTim_ctl (o : Nat) (w : Word) (s : State) :
    (writeTim o w s).ctl = s.ctl := by
  simp only [writeTim]; split <;> simp

@[simp] theorem writeLgr_ctl (o : Nat) (w : Word) (s : State) :
    (writeLgr o w s).ctl = s.ctl := by
  simp [writeLgr]

@[simp] theorem readEffect_ctl (off : Nat) (m : Nat → Bool) (s : State) :
    (readEffect off m s).ctl = s.ctl := by
  first
  | (simp [readEffect, -List.reduceReplicate, foldl_ctl]; done)
  | (simp only [readEffect]; (repeat' split) <;> simp [-List.reduceReplicate, foldl_ctl] <;> done)
  | (simp only [readEffect]
     repeat' (split <;> (try (rename_i heq; first
       | (replace heq := (congrArg (fun x => (Prod.snd x).ctl) heq).symm; simp [-List.reduceReplicate, foldl_ctl] at heq)
  )))
     all_goals (first | (simp [-List.reduceReplicate, foldl_ctl]; done) | (simp [*, -List.reduceReplicate, foldl_ctl]; done) | (simp_all [-List.reduceReplicate, foldl_ctl]; done)))
  | (simp only [readEffect]
     refine foldl_ctl _ (fun s a => ?_) _ _
     (repeat' split) <;> simp [-List.reduceReplicate, foldl_ctl])
  | (simp only [readEffect]
     (repeat' split) <;> first
       | (simp [-List.reduceReplicate, foldl_ctl]; done)
       | (refine (foldl_ctl _ (fun s a => ?_) _ _).trans ?_
          all_goals ((repeat' split) <;> simp [-List.reduceReplicate, foldl_ctl])))

@[simp] theorem readWord_ctl (lo hi off : Nat) (s : State) :
    (readWord lo hi off s).2.ctl = s.ctl := by
  first
  | (simp [readWord, -List.reduceReplicate, foldl_ctl]; done)
  | (simp only [readWord]; (repeat' split) <;> simp [-List.reduceReplicate, foldl_ctl] <;> done)
  | (simp only [readWord]
     repeat' (split <;> (try (rename_i heq; first
       | (replace heq := (congrArg (fun x => (Prod.snd x).ctl) heq).symm; simp [-List.reduceReplicate, foldl_ctl] at heq)
  )))
     all_goals (first | (simp [-List.reduceReplicate, foldl_ctl]; done) | (simp [*, -List.reduceReplicate, foldl_ctl]; done) | (simp_all [-List.reduceReplicate, foldl_ctl]; done)))
  | (simp only [readWord]
     refine foldl_ctl _ (fun s a => ?_) _ _
     (repeat' split) <;> simp [-List.reduceReplicate, foldl_ctl])
  | (simp only [readWord]
     (repeat' split) <;> first
       | (simp [-List.reduceReplicate, foldl_ctl]; done)
       | (refine (foldl_ctl _ (fun s a => ?_) _ _).trans ?_
          all_goals ((repeat' split) <;> simp [-List.reduceReplicate, foldl_ctl])))

@[simp] theorem readWords_ctl (lo hi : Nat) (x0 : Nat) (x1 : Nat) (s : State) :
    (readWords lo hi x0 x1 s).2.ctl = s.ctl := by
  induction x0 generalizing lo hi x1 s
  all_goals first
  | (simp [readWords, -List.reduceReplicate, foldl_ctl]; done)
  | (simp [readWords, *, -List.reduceReplicate, foldl_ctl]; done)
  | (simp only [readWords]
     repeat' (split <;> (try (rename_i heq; replace heq := (congrArg (fun x => (Prod.snd x).ctl) heq).symm; simp [-List.reduceReplicate, foldl_ctl] at heq)))
     all_goals (first | (simp [*, -List.reduceReplicate, foldl_ctl]; done) | (simp_all [-List.reduceReplicate, foldl_ctl]; done)))

@[simp] theorem readBar0_ctl (off len : Nat) (s : State) :
    (readBar0 off len s).ctl = s.ctl := by
  first
  | (simp [readBar0, -List.reduceReplicate, foldl_ctl]; done)
  | (simp only [readBar0]; (repeat' split) <;> simp [-List.reduceReplicate, foldl_ctl] <;> done)
  | (simp only [readBar0]
     repeat' (split <;> (try (rename_i heq; first
       | (replace heq := (congrArg (fun x => (Prod.snd x).ctl) heq).symm; simp [-List.reduceReplicate, foldl_ctl] at heq)
  )))
     all_goals (first | (simp [-List.reduceReplicate, foldl_ctl]; done) | (simp [*, -List.reduceReplicate, foldl_ctl]; done) | (simp_all [-List.reduceReplicate, foldl_ctl]; done)))
  | (simp only [readBar0]
     refine foldl_ctl _ (fun s a => ?_) _ _
     (repeat' split) <;> simp [-List.reduceReplicate, foldl_ctl])
  | (simp only [readBar0]
     (repeat' split) <;> first
       | (simp [-List.reduceReplicate, foldl_ctl]; done)
       | (refine (foldl_ctl _ (fun s a => ?_) _ _).trans ?_
          all_goals ((repeat' split) <;> simp [-List.reduceReplicate, foldl_ctl])))

end Sys2Proof.Machine
end

