-- ==== Sys2Proof/Laws/Roles.lean ====
section
/-! SUPPORT. The operations of Machine/Roles.lean leave the registers that software sets alone. -/

set_option Elab.async false

namespace Sys2Proof.Machine

@[simp] theorem changeKey_ctl (slot : Nat) (k : Option PubKey) (s : State) :
    (changeKey slot k s).ctl = s.ctl := by
  simp [changeKey]

@[simp] theorem releaseKeys_ctl (s : State) :
    (releaseKeys s).ctl = s.ctl := by
  simp [releaseKeys, foldl_ctl]

@[simp] theorem eraseSlot_ctl (slot : Bool) (s : State) :
    (eraseSlot slot s).ctl = s.ctl := by
  first
  | (simp [eraseSlot, -List.reduceReplicate, foldl_ctl]; done)
  | (simp only [eraseSlot]; (repeat' split) <;> simp [-List.reduceReplicate, foldl_ctl] <;> done)
  | (simp only [eraseSlot]
     repeat' (split <;> (try (rename_i heq; first
       | (replace heq := (congrArg (fun x => (Prod.snd x).ctl) heq).symm; simp [-List.reduceReplicate, foldl_ctl] at heq)
  )))
     all_goals (first | (simp [-List.reduceReplicate, foldl_ctl]; done) | (simp [*, -List.reduceReplicate, foldl_ctl]; done) | (simp_all [-List.reduceReplicate, foldl_ctl]; done)))
  | (simp only [eraseSlot]
     refine foldl_ctl _ (fun s a => ?_) _ _
     (repeat' split) <;> simp [-List.reduceReplicate, foldl_ctl])
  | (simp only [eraseSlot]
     (repeat' split) <;> first
       | (simp [-List.reduceReplicate, foldl_ctl]; done)
       | (refine (foldl_ctl _ (fun s a => ?_) _ _).trans ?_
          all_goals ((repeat' split) <;> simp [-List.reduceReplicate, foldl_ctl])))

@[simp] theorem applySecurity_ctl (q : Nat) (a : Action) (s : State) :
    (applySecurity q a s).ctl = s.ctl := by
  simp only [applySecurity]; split <;> simp

@[simp] theorem State.settled_ctl (s : State) :
    (State.settled s).ctl = s.ctl := by
  simp only [State.settled]
  refine foldl_ctl _ (fun s a => ?_) _ _
  (repeat' split) <;> simp

theorem checkKeyBlock_keeps (b : List Byte) (role : Nat) (t : State) :
    KeepsAll (checkKeyBlock b role t) := by
  intro k0
  simp only [checkKeyBlock]
  with_reducible refine keeps_bind' keeps_requireT (fun _ => ?_)
  with_reducible refine keeps_bind' keeps_requireT (fun _ => ?_)
  with_reducible refine keeps_bind' keeps_requireT (fun _ => ?_)
  with_reducible exact keeps_pureT

theorem actAs_keeps (who : Option Binding) (code : Nat) (f : InFlight) (p : Packet) (a : Action) :
    KeepsAll (actAs who code f p a).run := by
  intro k0
  exact keeps_bind' (keeps_updT fun s hs => by simp [hs]) fun _ => keeps_pureT

theorem planRoleSession_keeps (p : Packet) (c : InFlight) :
    ∀ k0, Keeps k0 (fun pl : Plan => KeepsAll pl.run) (planRoleSession p c) := by
  intro k0
  simp only [planRoleSession]
  repeat' (first
    | (with_reducible intro _)
    | with_reducible apply keeps_pureT
    | with_reducible apply keeps_pure
    | with_reducible apply keeps_refuse
    | with_reducible apply actAs_keeps _ _ _ _ _ _
    | with_reducible apply reservedZero_keeps _ _ _
    | with_reducible apply blockReservedZero_keeps _ _ _
    | with_reducible apply readBlock_keeps _ _ _ _ _ _ _
    | with_reducible apply checkKeyBlock_keeps _ _ _ _
    | with_reducible apply keeps_requireT
    | with_reducible apply keeps_bind keeps_get
    | with_reducible apply keeps_bind'
    | (split))

theorem planFwStage_keeps (p : Packet) (c : InFlight) :
    ∀ k0, Keeps k0 (fun pl : Plan => KeepsAll pl.run) (planFwStage p c) := by
  intro k0
  simp only [planFwStage]
  repeat' (first
    | (with_reducible intro _)
    | with_reducible apply keeps_pure
    | with_reducible apply keeps_refuse
    | with_reducible apply actAs_keeps _ _ _ _ _ _
    | with_reducible apply readBytes_keeps _ _ _ _ _ _
    | with_reducible apply reservedZero_keeps _ _ _
    | with_reducible apply requireLive_keeps _ _
    | with_reducible apply checkExtent_keeps _ _ _ _
    | with_reducible apply keeps_requireT
    | with_reducible apply keeps_bind keeps_get
    | with_reducible apply keeps_bind'
    | (split))

theorem planScheduleSet_keeps (p : Packet) (c : InFlight) :
    ∀ k0, Keeps k0 (fun pl : Plan => KeepsAll pl.run) (planScheduleSet p c) := by
  intro k0
  simp only [planScheduleSet]
  repeat' (first
    | (with_reducible intro _)
    | with_reducible apply keeps_pure
    | with_reducible apply keeps_refuse
    | with_reducible apply reservedZero_keeps _ _ _
    | with_reducible apply keeps_requireT
    | with_reducible apply keeps_updT
    | with_reducible apply keeps_bind keeps_get
    | with_reducible apply keeps_bind'
    | (split <;> (try (rename_i heq; replace heq := (congrArg (fun x => (Prod.snd x).ctl) heq).symm; simp [*] at heq)))
    | (simp [*]))

theorem planMakerDiag_keeps (p : Packet) (c : InFlight) :
    ∀ k0, Keeps k0 (fun pl : Plan => KeepsAll pl.run) (planMakerDiag p c) := by
  intro k0
  simp only [planMakerDiag]
  repeat' (first
    | (with_reducible intro _)
    | with_reducible apply keeps_pure
    | with_reducible apply actAs_keeps _ _ _ _ _ _
    | with_reducible apply reservedZero_keeps _ _ _
    | with_reducible apply checkDest_keeps _ _ _ _
    | with_reducible apply destLive_keeps _ _ _
    | with_reducible apply keeps_requireT
    | with_reducible apply keeps_bind keeps_get
    | with_reducible apply keeps_bind'
    | (split))

@[simp] theorem clearTraces_ctl (s : State) :
    (clearTraces s).ctl = s.ctl := by
  first
  | (simp [clearTraces, -List.reduceReplicate, foldl_ctl]; done)
  | (simp only [clearTraces]; (repeat' split) <;> simp [-List.reduceReplicate, foldl_ctl] <;> done)
  | (simp only [clearTraces]
     repeat' (split <;> (try (rename_i heq; first
       | (replace heq := (congrArg (fun x => (Prod.snd x).ctl) heq).symm; simp [-List.reduceReplicate, foldl_ctl] at heq)
  )))
     all_goals (first | (simp [-List.reduceReplicate, foldl_ctl]; done) | (simp [*, -List.reduceReplicate, foldl_ctl]; done) | (simp_all [-List.reduceReplicate, foldl_ctl]; done)))
  | (simp only [clearTraces]
     refine foldl_ctl _ (fun s a => ?_) _ _
     (repeat' split) <;> simp [-List.reduceReplicate, foldl_ctl])
  | (simp only [clearTraces]
     (repeat' split) <;> first
       | (simp [-List.reduceReplicate, foldl_ctl]; done)
       | (refine (foldl_ctl _ (fun s a => ?_) _ _).trans ?_
          all_goals ((repeat' split) <;> simp [-List.reduceReplicate, foldl_ctl])))

@[simp] theorem diagnose_ctl (f arg : Nat) (d : Option Dest) (s : State) :
    (diagnose f arg d s).2.ctl = s.ctl := by
  simp only [diagnose]; split <;> simp

@[simp] theorem completeAction_ctl (id : Nat) (f : Option Fail) (detail : Nat) (s : State) :
    (completeAction id f detail s).ctl = s.ctl := by
  simp only [completeAction]; repeat' split <;> simp

@[simp] theorem applyAction_ctl (id : Nat) (a : Action) (s : State) :
    (applyAction id a s).ctl = s.ctl := by
  simp only [applyAction]; split <;> simp

@[simp] theorem finishStaging_ctl (id : Nat) (slot : Bool) (img : List Byte) (s : State) :
    (finishStaging id slot img s).ctl = s.ctl := by
  first
  | (simp [finishStaging, -List.reduceReplicate, foldl_ctl]; done)
  | (simp only [finishStaging]; (repeat' split) <;> simp [-List.reduceReplicate, foldl_ctl] <;> done)
  | (simp only [finishStaging]
     repeat' (split <;> (try (rename_i heq; first
       | (replace heq := (congrArg (fun x => (Prod.snd x).ctl) heq).symm; simp [-List.reduceReplicate, foldl_ctl] at heq)
  )))
     all_goals (first | (simp [-List.reduceReplicate, foldl_ctl]; done) | (simp [*, -List.reduceReplicate, foldl_ctl]; done) | (simp_all [-List.reduceReplicate, foldl_ctl]; done)))
  | (simp only [finishStaging]
     refine foldl_ctl _ (fun s a => ?_) _ _
     (repeat' split) <;> simp [-List.reduceReplicate, foldl_ctl])
  | (simp only [finishStaging]
     (repeat' split) <;> first
       | (simp [-List.reduceReplicate, foldl_ctl]; done)
       | (refine (foldl_ctl _ (fun s a => ?_) _ _).trans ?_
          all_goals ((repeat' split) <;> simp [-List.reduceReplicate, foldl_ctl])))

end Sys2Proof.Machine
end

