-- ==== Sys2Proof/Laws/Complete.lean ====
section
/-! SUPPORT. The operations of Machine/Complete.lean leave the registers that software sets alone. -/

namespace Sys2Proof.Machine

@[simp] theorem completeDone_ctl (c : InFlight) (s : State) :
    (completeDone c s).ctl = s.ctl := by
  simp [completeDone]

@[simp] theorem completeInFlight_ctl (c : InFlight) (s : State) :
    (completeInFlight c s).ctl = s.ctl := by
  simp only [completeInFlight]; split <;> simp

@[simp] theorem commandComplete_ctl (q n : Nat) (s : State) :
    (commandComplete q n s).ctl = s.ctl := by
  simp only [commandComplete]; split <;> simp [actingFor_ctl]

@[simp] theorem opcodeUnknown_ctl (q : Nat) (op : BitVec 8) (p : Packet) (s : State) :
    (opcodeUnknown q op p s).ctl = s.ctl := by
  simp [opcodeUnknown]

@[simp] theorem packetUnreadable_ctl (q : Nat) (why : PacketLoss) (s : State) :
    (packetUnreadable q why s).ctl = s.ctl := by
  simp only [packetUnreadable]
  split
  · rfl
  split
  · rfl
  rename_i f t h
  have h2 : t.ctl = s.ctl := by
    simp only [packetLoss] at h
    split at h
    · split at h
      · cases h
      · rename_i e
        cases h
        exact keeps_err (readBytes_keeps _ _ _ _ _) e
    · split at h
      · cases h
      · cases h; rfl
  simp [h2]

@[simp] theorem holdoffEnd_ctl (v : Nat) (s : State) :
    (holdoffEnd v s).ctl = s.ctl := by
  simp [holdoffEnd]

end Sys2Proof.Machine
end

