-- ==== Sys2Proof/Laws/Window.lean ====
section
/-! SUPPORT. The operations of Machine/Window.lean leave the registers that software sets alone. -/

namespace Sys2Proof.Machine

theorem readEach_ctl (h : BitVec 32) (i : Nat) (n : Nat) (s : State) : (readEach h i n s).2.2.ctl = s.ctl := by
  induction n generalizing i s with
  | zero => rfl
  | succ n ih =>
    simp only [readEach, ih]
    split <;> rename_i heq
    · exact keeps_ok (readBytes_keeps _ _ _ _ _) heq
    · exact keeps_err (readBytes_keeps _ _ _ _ _) heq

@[simp] theorem reportAer_ctl (s : State) :
    (reportAer s).ctl = s.ctl := by
  first
  | (simp [reportAer, -List.reduceReplicate, foldl_ctl]; done)
  | (simp only [reportAer]; (repeat' split) <;> simp [-List.reduceReplicate, foldl_ctl] <;> done)
  | (simp only [reportAer]
     repeat' (split <;> (try (rename_i heq; first
       | (replace heq := (congrArg (fun x => (Prod.snd x).ctl) heq).symm; simp [-List.reduceReplicate, foldl_ctl] at heq)
  )))
     all_goals (first | (simp [-List.reduceReplicate, foldl_ctl]; done) | (simp [*, -List.reduceReplicate, foldl_ctl]; done) | (simp_all [-List.reduceReplicate, foldl_ctl]; done)))
  | (simp only [reportAer]
     refine foldl_ctl _ (fun s a => ?_) _ _
     (repeat' split) <;> simp [-List.reduceReplicate, foldl_ctl])
  | (simp only [reportAer]
     (repeat' split) <;> first
       | (simp [-List.reduceReplicate, foldl_ctl]; done)
       | (refine (foldl_ctl _ (fun s a => ?_) _ _).trans ?_
          all_goals ((repeat' split) <;> simp [-List.reduceReplicate, foldl_ctl])))

@[simp] theorem bar4Read_ctl (off len : Nat) (s : State) :
    (bar4Read off len s).ctl = s.ctl := by
  unfold bar4Read
  dsimp only
  split
  · rfl
  split
  · simp
  split
  · exact readEach_ctl _ _ _ _
  · rw [raisePoisoned_ctl]; exact readEach_ctl _ _ _ _

@[simp] theorem bar4Write_ctl (off : Nat) (data : List Byte) (s : State) :
    (bar4Write off data s).ctl = s.ctl := by
  simp only [bar4Write]
  repeat' (split <;> (try (rename_i heq; first
    | (replace heq := (congrArg (fun x => (Prod.snd x).ctl) heq).symm; simp at heq)
  )))
  all_goals (first | (simp; done) | (simp; done) | (simp_all; done))

end Sys2Proof.Machine
end

