-- ==== Sys2Proof/Laws/Trust.lean ====
section
/-! SUPPORT. The operations of Machine/Trust.lean leave the registers that software sets alone. -/

namespace Sys2Proof.Machine

@[simp] theorem respond_ctl (m : Medium) (code : Nat) (data : List Byte) (s : State) :
    (respond m code data s).ctl = s.ctl := by
  simp [respond]

@[simp] theorem respondError_ctl (m : Medium) (why : Nat) (s : State) :
    (respondError m why s).ctl = s.ctl := by
  simp [respondError]

@[simp] theorem modSession_ctl (id : BitVec 32) (f : Session → Session) (s : State) :
    (modSession id f s).ctl = s.ctl := by
  simp [modSession]

@[simp] theorem closeSession_ctl (id : BitVec 32) (s : State) :
    (closeSession id s).ctl = s.ctl := by
  simp [closeSession]

@[simp] theorem setEid_ctl (m : Medium) (eid : BitVec 8) (s : State) :
    (setEid m eid s).ctl = s.ctl := by
  simp only [setEid]; repeat' split <;> simp

@[simp] theorem pldm_ctl (m : Medium) (code : Nat) (data : List Nat) (s : State) :
    (pldm m code data s).ctl = s.ctl := by
  simp [pldm]

end Sys2Proof.Machine
end

