-- ==== Sys2Proof/Laws/Quantise.lean ====
section
/-! SUPPORT. The operations of Machine/Quantise.lean leave the registers that software sets alone. -/

namespace Sys2Proof.Machine

theorem Operand.read_keeps (o : Operand) (rows k : Nat) (die : Option Nat) :
    KeepsAll (Operand.read o rows k die) := by
  intro k0
  simp only [Operand.read]
  repeat' (first
    | (with_reducible intro _)
    | with_reducible apply keeps_pureT
    | with_reducible apply readRegion_keeps _ _ _
    | with_reducible apply keeps_bind')

theorem checkTables_keeps (layer : Nat) (a b : Operand) (m n k : Nat) (ta tb : Nat) (x y : Table) :
    KeepsAll (checkTables layer a b m n k ta tb x y) := by
  intro k0
  simp only [checkTables]
  repeat' (first
    | (with_reducible intro _)
    | with_reducible apply keeps_pureT
    | with_reducible apply keeps_refuse
    | with_reducible apply keeps_requireT
    | with_reducible apply keeps_bind keeps_get
    | with_reducible apply keeps_bind'
    | (split))

theorem readExps_keeps (t : Table) (j n : Nat) (die : Option Nat) (r : Nat) (x0 : Nat) :
    KeepsAll (readExps t j n die r x0) := by
  induction x0 generalizing t j n die r
  all_goals
  intro k0
  simp only [readExps]
  repeat' (first
  | (with_reducible intro _)
  | with_reducible apply keeps_pureT
  | (rename_i ih _; with_reducible apply ih _ _ _ _ _ _)
  | with_reducible apply readPadded_keeps _ _ _ _ _
  | with_reducible apply keeps_bind')

theorem Table.read_keeps (t : Table) (rows k : Nat) (die : Option Nat) :
    KeepsAll (Table.read t rows k die) := by
  intro k0
  simp only [Table.read]
  repeat' (first
    | (with_reducible intro _)
    | with_reducible apply keeps_pureT
    | with_reducible apply readPadded_keeps _ _ _ _ _
    | with_reducible apply readExps_keeps _ _ _ _ _ _ _
    | with_reducible apply keeps_bind keeps_get
    | with_reducible apply keeps_bind')

theorem checkScale_keeps (p : Packet) (a : ScaleArgs) :
    KeepsAll (checkScale p a) := by
  intro k0
  simp only [checkScale]
  repeat' (first
    | (with_reducible intro _)
    | with_reducible apply requireLive_keeps _ _
    | with_reducible apply checkRegion_keeps _ _ _ _
    | with_reducible apply keeps_requireT
    | with_reducible apply keeps_bind keeps_get
    | with_reducible apply keeps_bind')

theorem planScalePass_keeps (p : Packet) :
    ∀ k0, Keeps k0 (fun pl : Plan => KeepsAll pl.run) (planScalePass p) := by
  intro k0
  simp only [planScalePass]
  repeat' (first
    | (with_reducible intro _)
    | with_reducible apply keeps_pureT
    | with_reducible apply keeps_pure
    | with_reducible apply writeAnd_keeps _ _ _
    | with_reducible apply Operand.read_keeps _ _ _ _ _
    | with_reducible apply checkScale_keeps _ _ _
    | with_reducible apply keeps_bind keeps_get
    | with_reducible apply keeps_bind'
    | (split))

end Sys2Proof.Machine
end

