-- ==== Sys2Proof/Laws/Delivery.lean ====
section
/-! SUPPORT. The operations of Machine/Delivery.lean leave the registers that software sets alone. -/

namespace Sys2Proof.Machine

theorem fetchLines_keeps (h : BitVec 32) (idx : Nat) (d : Desc) (die : Nat) (x0 : List Nat) (x1 : Fetched) :
    KeepsAll (fetchLines h idx d die x0 x1) := by
  induction x0 generalizing h idx d die x1
  all_goals
  intro k0
  simp only [fetchLines]
  repeat' (first
  | (with_reducible intro _)
  | with_reducible apply keeps_pureT
  | with_reducible apply keeps_pure
  | with_reducible apply keeps_throw
  | with_reducible apply keeps_refuse
  | (rename_i ih _; with_reducible apply ih _ _ _ _ _ _)
  | (rename_i ih; with_reducible apply ih _ _ _ _ _ _)
  | with_reducible apply keeps_requireT
  | with_reducible apply keeps_updT
  | with_reducible apply keeps_actT
  | with_reducible apply keeps_setT
  | with_reducible apply keeps_bind keeps_get
  | with_reducible apply keeps_bind'
  | with_reducible apply keeps_getT
  | dsimp only
  | (split <;> (try (rename_i heq; replace heq := (congrArg (fun x => (Prod.snd x).ctl) heq).symm; simp [*, -List.reduceReplicate, foldl_ctl] at heq)))
  | (simp [*, -List.reduceReplicate, foldl_ctl]; done)
  | (simp_all [-List.reduceReplicate, foldl_ctl]; done))

theorem Operand.fetch_keeps (o : Operand) (rows k die : Nat) (ps : List Piece) (t : Fetched) :
    KeepsAll (Operand.fetch o rows k die ps t) := by
  intro k0
  simp only [Operand.fetch]
  repeat' (first
    | (with_reducible intro _)
    | with_reducible apply keeps_pureT
    | with_reducible apply keeps_pure
    | with_reducible apply keeps_throw
    | with_reducible apply keeps_refuse
    | with_reducible apply fetchLines_keeps _ _ _ _ _ _ _
    | with_reducible apply keeps_requireT
    | with_reducible apply keeps_updT
    | with_reducible apply keeps_actT
    | with_reducible apply keeps_setT
    | with_reducible apply keeps_bind keeps_get
    | with_reducible apply keeps_bind'
    | with_reducible apply keeps_getT
    | dsimp only
    | (split <;> (try (rename_i heq; replace heq := (congrArg (fun x => (Prod.snd x).ctl) heq).symm; simp [*, -List.reduceReplicate, foldl_ctl] at heq)))
    | (simp [*, -List.reduceReplicate, foldl_ctl]; done)
    | (simp_all [-List.reduceReplicate, foldl_ctl]; done))

@[simp] theorem countMulticast_ctl (die id : Nat) (m : Multicast) (s : State) :
    (countMulticast die id m s).ctl = s.ctl := by
  first
  | (simp [countMulticast, -List.reduceReplicate, foldl_ctl]; done)
  | (simp only [countMulticast]; (repeat' split) <;> simp [-List.reduceReplicate, foldl_ctl] <;> done)
  | (simp only [countMulticast]
     repeat' (split <;> (try (rename_i heq; first
       | (replace heq := (congrArg (fun x => (Prod.snd x).ctl) heq).symm; simp [-List.reduceReplicate, foldl_ctl] at heq)
  )))
     all_goals (first | (simp [-List.reduceReplicate, foldl_ctl]; done) | (simp [*, -List.reduceReplicate, foldl_ctl]; done) | (simp_all [-List.reduceReplicate, foldl_ctl]; done)))
  | (simp only [countMulticast]
     refine foldl_ctl _ (fun s a => ?_) _ _
     (repeat' split) <;> simp [-List.reduceReplicate, foldl_ctl])
  | (simp only [countMulticast]
     (repeat' split) <;> first
       | (simp [-List.reduceReplicate, foldl_ctl]; done)
       | (refine (foldl_ctl _ (fun s a => ?_) _ _).trans ?_
          all_goals ((repeat' split) <;> simp [-List.reduceReplicate, foldl_ctl])))

theorem deliverLine_keeps (h : BitVec 32) (idx : Nat) (d : Desc) (die i : Nat) (stakes seen : List Nat) :
    KeepsAll (deliverLine h idx d die i stakes seen) := by
  intro k0
  simp only [deliverLine]
  repeat' (first
    | (with_reducible intro _)
    | with_reducible apply keeps_pureT
    | with_reducible apply keeps_pure
    | with_reducible apply keeps_throw
    | with_reducible apply keeps_refuse
    | with_reducible apply keeps_requireT
    | with_reducible apply keeps_updT
    | with_reducible apply keeps_actT
    | with_reducible apply keeps_setT
    | with_reducible apply keeps_bind keeps_get
    | with_reducible apply keeps_bind'
    | with_reducible apply keeps_getT
    | dsimp only
    | (split <;> (try (rename_i heq; replace heq := (congrArg (fun x => (Prod.snd x).ctl) heq).symm; simp [*, -List.reduceReplicate, foldl_ctl] at heq)))
    | (simp [*, -List.reduceReplicate, foldl_ctl]; done)
    | (simp_all [-List.reduceReplicate, foldl_ctl]; done))

theorem deliverLines_keeps (h : BitVec 32) (idx : Nat) (d : Desc) (die : Nat) (takes : List (Nat × List Nat)) (x0 : List Nat) (x1 : List Nat) :
    KeepsAll (deliverLines h idx d die takes x0 x1) := by
  induction x0 generalizing h idx d die takes x1
  all_goals
  intro k0
  simp only [deliverLines]
  repeat' (first
  | (with_reducible intro _)
  | with_reducible apply keeps_pureT
  | with_reducible apply keeps_pure
  | with_reducible apply keeps_throw
  | with_reducible apply keeps_refuse
  | (rename_i ih _; with_reducible apply ih _ _ _ _ _ _ _)
  | (rename_i ih; with_reducible apply ih _ _ _ _ _ _ _)
  | with_reducible apply deliverLine_keeps _ _ _ _ _ _ _ _
  | with_reducible apply keeps_requireT
  | with_reducible apply keeps_updT
  | with_reducible apply keeps_actT
  | with_reducible apply keeps_setT
  | with_reducible apply keeps_bind keeps_get
  | with_reducible apply keeps_bind'
  | with_reducible apply keeps_getT
  | dsimp only
  | (split <;> (try (rename_i heq; replace heq := (congrArg (fun x => (Prod.snd x).ctl) heq).symm; simp [*, -List.reduceReplicate, foldl_ctl] at heq)))
  | (simp [*, -List.reduceReplicate, foldl_ctl]; done)
  | (simp_all [-List.reduceReplicate, foldl_ctl]; done))

theorem Operand.deliver_keeps (o : Operand) (die : Nat) (takes : List (Nat × List Nat)) (seen : List Nat) :
    KeepsAll (Operand.deliver o die takes seen) := by
  intro k0
  simp only [Operand.deliver]
  repeat' (first
    | (with_reducible intro _)
    | with_reducible apply keeps_pureT
    | with_reducible apply keeps_pure
    | with_reducible apply keeps_throw
    | with_reducible apply keeps_refuse
    | with_reducible apply deliverLines_keeps _ _ _ _ _ _ _ _
    | with_reducible apply keeps_requireT
    | with_reducible apply keeps_updT
    | with_reducible apply keeps_actT
    | with_reducible apply keeps_setT
    | with_reducible apply keeps_bind keeps_get
    | with_reducible apply keeps_bind'
    | with_reducible apply keeps_getT
    | dsimp only
    | (split <;> (try (rename_i heq; replace heq := (congrArg (fun x => (Prod.snd x).ctl) heq).symm; simp [*, -List.reduceReplicate, foldl_ctl] at heq)))
    | (simp [*, -List.reduceReplicate, foldl_ctl]; done)
    | (simp_all [-List.reduceReplicate, foldl_ctl]; done))

theorem deliverSteps_keeps (a b : Operand) (m n k : Nat) (x0 : List (List Pass × Nat)) (x1 : List Nat) :
    KeepsAll (deliverSteps a b m n k x0 x1) := by
  induction x0 generalizing a b m n k x1
  all_goals
  intro k0
  simp only [deliverSteps]
  repeat' (first
  | (with_reducible intro _)
  | with_reducible apply keeps_pureT
  | with_reducible apply keeps_pure
  | with_reducible apply keeps_throw
  | with_reducible apply keeps_refuse
  | (rename_i ih _; with_reducible apply ih _ _ _ _ _ _ _)
  | (rename_i ih; with_reducible apply ih _ _ _ _ _ _ _)
  | with_reducible apply Operand.deliver_keeps _ _ _ _ _
  | with_reducible apply keeps_requireT
  | with_reducible apply keeps_updT
  | with_reducible apply keeps_actT
  | with_reducible apply keeps_setT
  | with_reducible apply keeps_bind keeps_get
  | with_reducible apply keeps_bind'
  | with_reducible apply keeps_getT
  | dsimp only
  | (split <;> (try (rename_i heq; replace heq := (congrArg (fun x => (Prod.snd x).ctl) heq).symm; simp [*, -List.reduceReplicate, foldl_ctl] at heq)))
  | (simp [*, -List.reduceReplicate, foldl_ctl]; done)
  | (simp_all [-List.reduceReplicate, foldl_ctl]; done))

end Sys2Proof.Machine
end

