-- ==== Sys2Proof/Laws/Matrix.lean ====
section
/-! SUPPORT. The operations of Machine/Matrix.lean leave the registers that software sets alone. -/

set_option Elab.async false

namespace Sys2Proof.Machine

theorem resolveDim_keeps (q : Nat) (h : BitVec 32) (off : Nat) (indirect : Bool) (w : Nat) (die : Option Nat) :
    KeepsAll (resolveDim q h off indirect w die) := by
  intro k0
  simp only [resolveDim]
  repeat' (first
    | (with_reducible intro _)
    | with_reducible apply keeps_pureT
    | with_reducible apply keeps_refuse
    | with_reducible apply readBytes_keeps _ _ _ _ _ _
    | with_reducible apply keeps_requireT
    | with_reducible apply keeps_bind keeps_get
    | with_reducible apply keeps_bind'
    | (split))

theorem requireAllLive_keeps  (x0 : List (BitVec 32)) :
    KeepsAll (requireAllLive  x0) := by
  induction x0
  all_goals
  intro k0
  simp only [requireAllLive]
  repeat' (first
  | (with_reducible intro _)
  | with_reducible apply keeps_pureT
  | (rename_i ih _; with_reducible apply ih  _)
  | with_reducible apply requireLive_keeps _ _
  | with_reducible apply keeps_bind')

theorem matrixRung_keeps (kind ra rb layer : Nat) :
    KeepsAll (matrixRung kind ra rb layer) := by
  intro k0
  simp only [matrixRung]
  repeat' (first
    | (with_reducible intro _)
    | with_reducible apply keeps_pureT
    | with_reducible apply keeps_requireT
    | with_reducible apply keeps_bind keeps_get
    | with_reducible apply keeps_bind'
    | (split))

theorem checkMatrix_keeps (q : Nat) (acc : Bool) (p : Packet) :
    KeepsAll (checkMatrix q acc p) := by
  intro k0
  unfold checkMatrix
  repeat' (first
    | (with_reducible intro _)
    | with_reducible apply keeps_pureT
    | with_reducible apply reservedZero_keeps _ _ _
    | with_reducible apply blockReservedZero_keeps _ _ _
    | with_reducible apply readBlock_keeps _ _ _ _ _ _ _
    | with_reducible apply checkRegion_keeps _ _ _ _
    | with_reducible apply readPadded_keeps _ _ _ _ _
    | with_reducible apply seqDie_keeps _ _
    | with_reducible apply checkStakes_keeps _ _
    | with_reducible apply checkTables_keeps _ _ _ _ _ _ _ _ _ _ _
    | with_reducible apply resolveDim_keeps _ _ _ _ _ _ _
    | with_reducible apply requireAllLive_keeps _ _
    | with_reducible apply matrixRung_keeps _ _ _ _ _
    | with_reducible apply keeps_requireT
    | with_reducible apply keeps_updT
    | with_reducible apply keeps_bind keeps_get
    | with_reducible apply keeps_bind'
    | extract_lets
    | (split <;> (try (rename_i heq; replace heq := (congrArg (fun x => (Prod.snd x).ctl) heq).symm; simp [*] at heq)))
    | (simp [*]))

theorem Job.fetchShare_keeps (j : Job) (oa ob : Operand) (die : Nat) (t : Fetched) :
    KeepsAll (Job.fetchShare j oa ob die t) := by
  intro k0
  simp only [Job.fetchShare]
  repeat' (first
    | (with_reducible intro _)
    | with_reducible apply keeps_pureT
    | with_reducible apply keeps_pure
    | with_reducible apply keeps_throw
    | with_reducible apply keeps_refuse
    | with_reducible apply Operand.fetch_keeps _ _ _ _ _ _ _
    | with_reducible apply keeps_requireT
    | with_reducible apply keeps_updT
    | with_reducible apply keeps_actT
    | with_reducible apply keeps_setT
    | with_reducible apply keeps_bind keeps_get
    | with_reducible apply keeps_bind'
    | with_reducible apply keeps_getT
    | dsimp only
    | (split <;> (try (rename_i heq; replace heq := (congrArg (fun x => (Prod.snd x).ctl) heq).symm; simp [*, -List.reduceReplicate, foldl_ctl] at heq)))
    | (simp [*, -List.reduceReplicate, foldl_ctl]; done)
    | (simp_all [-List.reduceReplicate, foldl_ctl]; done))

theorem fetchJob_keeps (j : Job) (oa ob : Operand) :
    KeepsAll (fetchJob j oa ob) := by
  intro k0
  simp only [fetchJob]
  repeat' (first
    | (with_reducible intro _)
    | with_reducible apply keeps_pureT
    | with_reducible apply keeps_pure
    | with_reducible apply keeps_throw
    | with_reducible apply keeps_refuse
    | with_reducible apply Job.fetchShare_keeps _ _ _ _ _ _
    | with_reducible apply keeps_requireT
    | with_reducible apply keeps_updT
    | with_reducible apply keeps_actT
    | with_reducible apply keeps_setT
    | with_reducible apply keeps_bind keeps_get
    | with_reducible apply keeps_bind'
    | with_reducible apply keeps_getT
    | dsimp only
    | (split <;> (try (rename_i heq; replace heq := (congrArg (fun x => (Prod.snd x).ctl) heq).symm; simp [*, -List.reduceReplicate, foldl_ctl] at heq)))
    | (simp [*, -List.reduceReplicate, foldl_ctl]; done)
    | (simp_all [-List.reduceReplicate, foldl_ctl]; done))

theorem fetchTables_keeps (j : Job) :
    KeepsAll (fetchTables j) := by
  intro k0
  simp only [fetchTables]
  repeat' (first
    | (with_reducible intro _)
    | with_reducible apply keeps_pureT
    | with_reducible apply keeps_pure
    | with_reducible apply keeps_throw
    | with_reducible apply keeps_refuse
    | with_reducible apply Operand.read_keeps _ _ _ _ _
    | with_reducible apply Table.read_keeps _ _ _ _ _
    | with_reducible apply VecArgs.read_keeps _ _ _ _ _ _ _
    | with_reducible apply keeps_requireT
    | with_reducible apply keeps_updT
    | with_reducible apply keeps_actT
    | with_reducible apply keeps_setT
    | with_reducible apply keeps_bind keeps_get
    | with_reducible apply keeps_bind'
    | with_reducible apply keeps_getT
    | dsimp only
    | (split <;> (try (rename_i heq; replace heq := (congrArg (fun x => (Prod.snd x).ctl) heq).symm; simp [*, -List.reduceReplicate, foldl_ctl] at heq)))
    | (simp [*, -List.reduceReplicate, foldl_ctl]; done)
    | (simp_all [-List.reduceReplicate, foldl_ctl]; done))

theorem lateTable_keeps (j : Job) (o : Operand) (n : Nat) :
    KeepsAll (lateTable j o n) := by
  intro k0
  simp only [lateTable]
  repeat' (first
    | (with_reducible intro _)
    | with_reducible apply keeps_pureT
    | with_reducible apply keeps_pure
    | with_reducible apply keeps_throw
    | with_reducible apply keeps_refuse
    | with_reducible apply readPadded_keeps _ _ _ _ _
    | with_reducible apply Operand.read_keeps _ _ _ _ _
    | with_reducible apply Table.read_keeps _ _ _ _ _
    | with_reducible apply VecArgs.read_keeps _ _ _ _ _ _ _
    | with_reducible apply keeps_requireT
    | with_reducible apply keeps_updT
    | with_reducible apply keeps_actT
    | with_reducible apply keeps_setT
    | with_reducible apply keeps_bind keeps_get
    | with_reducible apply keeps_bind'
    | with_reducible apply keeps_getT
    | dsimp only
    | (split <;> (try (rename_i heq; replace heq := (congrArg (fun x => (Prod.snd x).ctl) heq).symm; simp [*, -List.reduceReplicate, foldl_ctl] at heq)))
    | (simp [*, -List.reduceReplicate, foldl_ctl]; done)
    | (simp_all [-List.reduceReplicate, foldl_ctl]; done))

@[simp] theorem noteReweaves_ctl (j : Job) (l : List Reweave) (s : State) :
    (noteReweaves j l s).ctl = s.ctl := by
  simp [noteReweaves, foldl_ctl]

@[simp] theorem writeTiles_ctl (j : Job) (x0 : List (Nat × List (Nat × Nat × List Nat))) (s : State) :
    (writeTiles j x0 s).2.ctl = s.ctl := by
  induction x0 generalizing j s
  all_goals first
  | (simp [writeTiles, -List.reduceReplicate, foldl_ctl]; done)
  | (simp [writeTiles, *, -List.reduceReplicate, foldl_ctl]; done)
  | (simp only [writeTiles]
     repeat' (split <;> (try (rename_i heq; replace heq := (congrArg (fun x => (Prod.snd x).ctl) heq).symm; simp [-List.reduceReplicate, foldl_ctl] at heq)))
     all_goals (first | (simp [*, -List.reduceReplicate, foldl_ctl]; done) | (simp_all [-List.reduceReplicate, foldl_ctl]; done)))

theorem runRungs_keeps (j : Job) (oa ob : Operand) :
    KeepsAll (runRungs j oa ob) := by
  intro k0
  simp only [runRungs]
  repeat' (first
    | (with_reducible intro _)
    | with_reducible apply keeps_pureT
    | with_reducible apply keeps_pure
    | with_reducible apply keeps_throw
    | with_reducible apply keeps_refuse
    | with_reducible apply lateTable_keeps _ _ _ _
    | with_reducible apply keeps_requireT
    | with_reducible apply keeps_updT
    | with_reducible apply keeps_actT
    | with_reducible apply keeps_setT
    | with_reducible apply keeps_bind keeps_get
    | with_reducible apply keeps_bind'
    | with_reducible apply keeps_getT
    | dsimp only
    | (split <;> (try (rename_i heq; replace heq := (congrArg (fun x => (Prod.snd x).ctl) heq).symm; simp [*, -List.reduceReplicate, foldl_ctl] at heq)))
    | (simp [*, -List.reduceReplicate, foldl_ctl]; done)
    | (simp_all [-List.reduceReplicate, foldl_ctl]; done))

theorem deliverRun_keeps (j : Job) (oa ob : Operand) (r : Run) :
    KeepsAll (deliverRun j oa ob r) := by
  intro k0
  simp only [deliverRun]
  repeat' (first
    | (with_reducible intro _)
    | with_reducible apply keeps_pureT
    | with_reducible apply keeps_pure
    | with_reducible apply keeps_throw
    | with_reducible apply keeps_refuse
    | with_reducible apply deliverSteps_keeps _ _ _ _ _ _ _ _
    | with_reducible apply keeps_requireT
    | with_reducible apply keeps_updT
    | with_reducible apply keeps_actT
    | with_reducible apply keeps_setT
    | with_reducible apply keeps_bind keeps_get
    | with_reducible apply keeps_bind'
    | with_reducible apply keeps_getT
    | dsimp only
    | (split <;> (try (rename_i heq; replace heq := (congrArg (fun x => (Prod.snd x).ctl) heq).symm; simp [*, -List.reduceReplicate, foldl_ctl] at heq)))
    | (simp [*, -List.reduceReplicate, foldl_ctl]; done)
    | (simp_all [-List.reduceReplicate, foldl_ctl]; done))

theorem runMatrix_keeps (j : Job) (oa ob : Operand) :
    KeepsAll (runMatrix j oa ob) := by
  intro k0
  simp only [runMatrix]
  repeat' (first
    | (with_reducible intro _)
    | with_reducible apply keeps_pureT
    | with_reducible apply keeps_pure
    | with_reducible apply keeps_throw
    | with_reducible apply keeps_refuse
    | with_reducible apply readSrams_keeps _ _
    | with_reducible apply fetchJob_keeps _ _ _ _
    | with_reducible apply fetchTables_keeps _ _
    | with_reducible apply runRungs_keeps _ _ _ _
    | with_reducible apply deliverRun_keeps _ _ _ _ _
    | with_reducible apply keeps_requireT
    | with_reducible apply keeps_updT
    | with_reducible apply keeps_actT
    | with_reducible apply keeps_setT
    | with_reducible apply keeps_bind keeps_get
    | with_reducible apply keeps_bind'
    | with_reducible apply keeps_getT
    | dsimp only
    | (split <;> (try (rename_i heq; replace heq := (congrArg (fun x => (Prod.snd x).ctl) heq).symm; simp [*, -List.reduceReplicate, foldl_ctl] at heq)))
    | (simp [*, -List.reduceReplicate, foldl_ctl]; done)
    | (simp_all [-List.reduceReplicate, foldl_ctl]; done))

theorem planMatrix_keeps (q : Nat) (acc : Bool) (p : Packet) :
    ∀ k0, Keeps k0 (fun pl : Plan => KeepsAll pl.run) (planMatrix q acc p) := by
  intro k0
  simp only [planMatrix]
  repeat' (first
    | (with_reducible intro _)
    | with_reducible apply keeps_pure
    | with_reducible apply checkMatrix_keeps _ _ _ _
    | with_reducible apply runMatrix_keeps _ _ _ _
    | with_reducible apply keeps_bind'
    | with_reducible apply keeps_getT)

end Sys2Proof.Machine
end

