-- ==== Sys2Proof/Laws/Vector.lean ====
section
/-! SUPPORT. The operations of Machine/Vector.lean leave the registers that software sets alone. -/

namespace Sys2Proof.Machine

theorem readVec_keeps (q op : Nat) (p : Packet) :
    KeepsAll (readVec q op p) := by
  intro k0
  simp only [readVec]
  repeat' (first
    | (with_reducible intro _)
    | with_reducible apply keeps_pureT
    | with_reducible apply reservedZero_keeps _ _ _
    | with_reducible apply blockReservedZero_keeps _ _ _
    | with_reducible apply readBlock_keeps _ _ _ _ _ _ _
    | with_reducible apply seqDie_keeps _ _
    | with_reducible apply keeps_bind keeps_get
    | with_reducible apply keeps_bind')

theorem requireLives_keeps (a : VecArgs) (x0 : List Nat) :
    KeepsAll (requireLives a x0) := by
  induction x0 generalizing a
  all_goals
  intro k0
  simp only [requireLives]
  repeat' (first
  | (with_reducible intro _)
  | with_reducible apply keeps_pureT
  | (rename_i ih _; with_reducible apply ih _ _)
  | with_reducible apply requireLive_keeps _ _
  | with_reducible apply keeps_bind')

theorem checkRound_keeps (a : VecArgs) :
    KeepsAll (checkRound a) := by
  intro k0
  simp only [checkRound]
  repeat' (first
    | with_reducible apply keeps_requireT)

theorem checkGroup_keeps (w : Nat) :
    KeepsAll (checkGroup w) := by
  intro k0
  simp only [checkGroup]
  repeat' (first
    | (with_reducible intro _)
    | with_reducible apply keeps_pureT
    | with_reducible apply checkStakes_keeps _ _
    | with_reducible apply keeps_requireT
    | with_reducible apply keeps_bind')

theorem checkShapes_keeps (a : VecArgs) (x0 : List (Nat × Nat × Nat × Nat)) :
    KeepsAll (checkShapes a x0) := by
  induction x0 generalizing a
  all_goals
  intro k0
  simp only [checkShapes]
  repeat' (first
  | (with_reducible intro _)
  | with_reducible apply keeps_pureT
  | (rename_i ih _; with_reducible apply ih _ _)
  | with_reducible apply checkRegion_keeps _ _ _ _
  | with_reducible apply keeps_bind')

theorem VecArgs.read_keeps (a : VecArgs) (i rows cols fmt : Nat) (g : Group) :
    KeepsAll (VecArgs.read a i rows cols fmt g) := by
  intro k0
  simp only [VecArgs.read]
  repeat' (first
    | (with_reducible intro _)
    | with_reducible apply keeps_pureT
    | with_reducible apply keeps_pure
    | with_reducible apply keeps_throw
    | with_reducible apply keeps_refuse
    | with_reducible apply readRegion_keeps _ _ _
    | with_reducible apply keeps_requireT
    | with_reducible apply keeps_updT
    | with_reducible apply keeps_actT
    | with_reducible apply keeps_setT
    | with_reducible apply keeps_bind keeps_get
    | with_reducible apply keeps_bind'
    | with_reducible apply keeps_getT
    | dsimp only
    | (split <;> (try (rename_i heq; replace heq := (congrArg (fun x => (Prod.snd x).ctl) heq).symm; simp [*, -List.reduceReplicate, foldl_ctl] at heq)))
    | (simp [*, -List.reduceReplicate, foldl_ctl]; done)
    | (simp_all [-List.reduceReplicate, foldl_ctl]; done))

theorem VecArgs.readShared_keeps (a : VecArgs) (i rows cols fmt : Nat) (g : Group) :
    KeepsAll (VecArgs.readShared a i rows cols fmt g) := by
  intro k0
  simp only [VecArgs.readShared]
  repeat' (first
    | (with_reducible intro _)
    | with_reducible apply keeps_pureT
    | with_reducible apply keeps_pure
    | with_reducible apply keeps_throw
    | with_reducible apply keeps_refuse
    | with_reducible apply readRegion_keeps _ _ _
    | with_reducible apply Group.reader_keeps _ _
    | with_reducible apply writeBy_keeps _ _
    | with_reducible apply VecArgs.readShared_keeps _ _ _ _ _ _ _
    | with_reducible apply keeps_requireT
    | with_reducible apply keeps_updT
    | with_reducible apply keeps_actT
    | with_reducible apply keeps_setT
    | with_reducible apply keeps_bind keeps_get
    | with_reducible apply keeps_bind'
    | with_reducible apply keeps_getT
    | dsimp only
    | (split <;> (try (rename_i heq; replace heq := (congrArg (fun x => (Prod.snd x).ctl) heq).symm; simp [*, -List.reduceReplicate, foldl_ctl] at heq)))
    | (simp [*, -List.reduceReplicate, foldl_ctl]; done)
    | (simp_all [-List.reduceReplicate, foldl_ctl]; done))

theorem writeBy_keeps  (x0 : List (Option Nat × List Out)) :
    KeepsAll (writeBy  x0) := by
  induction x0
  all_goals
  intro k0
  simp only [writeBy]
  repeat' (first
  | (with_reducible intro _)
  | with_reducible apply keeps_pureT
  | with_reducible apply keeps_pure
  | with_reducible apply keeps_throw
  | with_reducible apply keeps_refuse
  | (rename_i ih _; with_reducible apply ih  _)
  | (rename_i ih; with_reducible apply ih  _)
  | with_reducible apply keeps_requireT
  | with_reducible apply keeps_updT
  | with_reducible apply keeps_actT
  | with_reducible apply keeps_setT
  | with_reducible apply keeps_bind keeps_get
  | with_reducible apply keeps_bind'
  | with_reducible apply keeps_getT
  | dsimp only
  | (split <;> (try (rename_i heq; replace heq := (congrArg (fun x => (Prod.snd x).ctl) heq).symm; simp [*, -List.reduceReplicate, foldl_ctl] at heq)))
  | (simp [*, -List.reduceReplicate, foldl_ctl]; done)
  | (simp_all [-List.reduceReplicate, foldl_ctl]; done))

theorem planVectorOp_keeps (q : Nat) (p : Packet) :
    ∀ k0, Keeps k0 (fun pl : Plan => KeepsAll pl.run) (planVectorOp q p) := by
  intro k0
  simp only [planVectorOp]
  repeat' (first
    | (with_reducible intro _)
    | with_reducible apply keeps_pureT
    | with_reducible apply keeps_pure
    | with_reducible apply keeps_throw
    | with_reducible apply keeps_refuse
    | with_reducible apply writeAnd_keeps _ _ _ _
    | with_reducible apply readSrams_keeps _ _
    | with_reducible apply Operand.read_keeps _ _ _ _ _
    | with_reducible apply Table.read_keeps _ _ _ _ _
    | with_reducible apply Group.reader_keeps _ _
    | with_reducible apply writeBy_keeps _ _
    | with_reducible apply VecArgs.readShared_keeps _ _ _ _ _ _ _
    | with_reducible apply readVec_keeps _ _ _ _
    | with_reducible apply requireLives_keeps _ _ _
    | with_reducible apply checkRound_keeps _ _
    | with_reducible apply checkGroup_keeps _ _
    | with_reducible apply checkShapes_keeps _ _ _
    | with_reducible apply VecArgs.read_keeps _ _ _ _ _ _ _
    | with_reducible apply keeps_requireT
    | with_reducible apply keeps_updT
    | with_reducible apply keeps_actT
    | with_reducible apply keeps_setT
    | with_reducible apply keeps_bind keeps_get
    | with_reducible apply keeps_bind'
    | with_reducible apply keeps_getT
    | dsimp only
    | (split <;> (try (rename_i heq; replace heq := (congrArg (fun x => (Prod.snd x).ctl) heq).symm; simp [*, -List.reduceReplicate, foldl_ctl] at heq)))
    | (simp [*, -List.reduceReplicate, foldl_ctl]; done)
    | (simp_all [-List.reduceReplicate, foldl_ctl]; done))

theorem planNorm_keeps (q : Nat) (p : Packet) :
    ∀ k0, Keeps k0 (fun pl : Plan => KeepsAll pl.run) (planNorm q p) := by
  intro k0
  simp only [planNorm]
  repeat' (first
    | (with_reducible intro _)
    | with_reducible apply keeps_pureT
    | with_reducible apply keeps_pure
    | with_reducible apply keeps_throw
    | with_reducible apply keeps_refuse
    | with_reducible apply writeAnd_keeps _ _ _ _
    | with_reducible apply readSrams_keeps _ _
    | with_reducible apply Operand.read_keeps _ _ _ _ _
    | with_reducible apply Table.read_keeps _ _ _ _ _
    | with_reducible apply Group.reader_keeps _ _
    | with_reducible apply writeBy_keeps _ _
    | with_reducible apply VecArgs.readShared_keeps _ _ _ _ _ _ _
    | with_reducible apply readVec_keeps _ _ _ _
    | with_reducible apply requireLives_keeps _ _ _
    | with_reducible apply checkRound_keeps _ _
    | with_reducible apply checkGroup_keeps _ _
    | with_reducible apply checkShapes_keeps _ _ _
    | with_reducible apply VecArgs.read_keeps _ _ _ _ _ _ _
    | with_reducible apply keeps_requireT
    | with_reducible apply keeps_updT
    | with_reducible apply keeps_actT
    | with_reducible apply keeps_setT
    | with_reducible apply keeps_bind keeps_get
    | with_reducible apply keeps_bind'
    | with_reducible apply keeps_getT
    | dsimp only
    | (split <;> (try (rename_i heq; replace heq := (congrArg (fun x => (Prod.snd x).ctl) heq).symm; simp [*, -List.reduceReplicate, foldl_ctl] at heq)))
    | (simp [*, -List.reduceReplicate, foldl_ctl]; done)
    | (simp_all [-List.reduceReplicate, foldl_ctl]; done))

theorem planSoftmax_keeps (q : Nat) (p : Packet) :
    ∀ k0, Keeps k0 (fun pl : Plan => KeepsAll pl.run) (planSoftmax q p) := by
  intro k0
  simp only [planSoftmax]
  repeat' (first
    | (with_reducible intro _)
    | with_reducible apply keeps_pureT
    | with_reducible apply keeps_pure
    | with_reducible apply keeps_throw
    | with_reducible apply keeps_refuse
    | with_reducible apply writeAnd_keeps _ _ _ _
    | with_reducible apply readSrams_keeps _ _
    | with_reducible apply Operand.read_keeps _ _ _ _ _
    | with_reducible apply Table.read_keeps _ _ _ _ _
    | with_reducible apply Group.reader_keeps _ _
    | with_reducible apply writeBy_keeps _ _
    | with_reducible apply VecArgs.readShared_keeps _ _ _ _ _ _ _
    | with_reducible apply readVec_keeps _ _ _ _
    | with_reducible apply requireLives_keeps _ _ _
    | with_reducible apply checkRound_keeps _ _
    | with_reducible apply checkGroup_keeps _ _
    | with_reducible apply checkShapes_keeps _ _ _
    | with_reducible apply VecArgs.read_keeps _ _ _ _ _ _ _
    | with_reducible apply keeps_requireT
    | with_reducible apply keeps_updT
    | with_reducible apply keeps_actT
    | with_reducible apply keeps_setT
    | with_reducible apply keeps_bind keeps_get
    | with_reducible apply keeps_bind'
    | with_reducible apply keeps_getT
    | dsimp only
    | (split <;> (try (rename_i heq; replace heq := (congrArg (fun x => (Prod.snd x).ctl) heq).symm; simp [*, -List.reduceReplicate, foldl_ctl] at heq)))
    | (simp [*, -List.reduceReplicate, foldl_ctl]; done)
    | (simp_all [-List.reduceReplicate, foldl_ctl]; done))

theorem planLoss_keeps (q : Nat) (p : Packet) :
    ∀ k0, Keeps k0 (fun pl : Plan => KeepsAll pl.run) (planLoss q p) := by
  intro k0
  simp only [planLoss]
  repeat' (first
    | (with_reducible intro _)
    | with_reducible apply keeps_pureT
    | with_reducible apply keeps_pure
    | with_reducible apply keeps_throw
    | with_reducible apply keeps_refuse
    | with_reducible apply writeAnd_keeps _ _ _ _
    | with_reducible apply readSrams_keeps _ _
    | with_reducible apply Operand.read_keeps _ _ _ _ _
    | with_reducible apply Table.read_keeps _ _ _ _ _
    | with_reducible apply Group.reader_keeps _ _
    | with_reducible apply writeBy_keeps _ _
    | with_reducible apply VecArgs.readShared_keeps _ _ _ _ _ _ _
    | with_reducible apply readVec_keeps _ _ _ _
    | with_reducible apply requireLives_keeps _ _ _
    | with_reducible apply checkRound_keeps _ _
    | with_reducible apply checkGroup_keeps _ _
    | with_reducible apply checkShapes_keeps _ _ _
    | with_reducible apply VecArgs.read_keeps _ _ _ _ _ _ _
    | with_reducible apply keeps_requireT
    | with_reducible apply keeps_updT
    | with_reducible apply keeps_actT
    | with_reducible apply keeps_setT
    | with_reducible apply keeps_bind keeps_get
    | with_reducible apply keeps_bind'
    | with_reducible apply keeps_getT
    | dsimp only
    | (split <;> (try (rename_i heq; replace heq := (congrArg (fun x => (Prod.snd x).ctl) heq).symm; simp [*, -List.reduceReplicate, foldl_ctl] at heq)))
    | (simp [*, -List.reduceReplicate, foldl_ctl]; done)
    | (simp_all [-List.reduceReplicate, foldl_ctl]; done))

theorem planQuantStore_keeps (q : Nat) (p : Packet) :
    ∀ k0, Keeps k0 (fun pl : Plan => KeepsAll pl.run) (planQuantStore q p) := by
  intro k0
  simp only [planQuantStore]
  repeat' (first
    | (with_reducible intro _)
    | with_reducible apply keeps_pureT
    | with_reducible apply keeps_pure
    | with_reducible apply keeps_throw
    | with_reducible apply keeps_refuse
    | with_reducible apply writeAnd_keeps _ _ _ _
    | with_reducible apply readSrams_keeps _ _
    | with_reducible apply Operand.read_keeps _ _ _ _ _
    | with_reducible apply Table.read_keeps _ _ _ _ _
    | with_reducible apply Group.reader_keeps _ _
    | with_reducible apply writeBy_keeps _ _
    | with_reducible apply VecArgs.readShared_keeps _ _ _ _ _ _ _
    | with_reducible apply readVec_keeps _ _ _ _
    | with_reducible apply requireLives_keeps _ _ _
    | with_reducible apply checkRound_keeps _ _
    | with_reducible apply checkGroup_keeps _ _
    | with_reducible apply checkShapes_keeps _ _ _
    | with_reducible apply VecArgs.read_keeps _ _ _ _ _ _ _
    | with_reducible apply keeps_requireT
    | with_reducible apply keeps_updT
    | with_reducible apply keeps_actT
    | with_reducible apply keeps_setT
    | with_reducible apply keeps_bind keeps_get
    | with_reducible apply keeps_bind'
    | with_reducible apply keeps_getT
    | dsimp only
    | (split <;> (try (rename_i heq; replace heq := (congrArg (fun x => (Prod.snd x).ctl) heq).symm; simp [*, -List.reduceReplicate, foldl_ctl] at heq)))
    | (simp [*, -List.reduceReplicate, foldl_ctl]; done)
    | (simp_all [-List.reduceReplicate, foldl_ctl]; done))

end Sys2Proof.Machine
end

