-- ==== Sys2Proof/Laws/Update.lean ====
section
/-! SUPPORT. The operations of Machine/Update.lean leave the registers that software sets alone. -/

namespace Sys2Proof.Machine

theorem requireHandles_keeps  (x0 : List (BitVec 32)) :
    KeepsAll (requireHandles  x0) := by
  induction x0
  all_goals
  intro k0
  simp only [requireHandles]
  repeat' (first
  | (with_reducible intro _)
  | with_reducible apply keeps_pureT
  | (rename_i ih _; with_reducible apply ih  _)
  | with_reducible apply requireLive_keeps _ _
  | with_reducible apply keeps_bind')

theorem requireFinite_keeps  (x0 : List (Nat × Num)) :
    KeepsAll (requireFinite  x0) := by
  induction x0
  all_goals
  intro k0
  simp only [requireFinite]
  repeat' (first
  | (with_reducible intro _)
  | with_reducible apply keeps_pureT
  | (rename_i ih _; with_reducible apply ih  _)
  | with_reducible apply keeps_requireT
  | with_reducible apply keeps_bind')

theorem requireSizes_keeps  (x0 : List (BitVec 32 × Nat)) :
    KeepsAll (requireSizes  x0) := by
  induction x0
  all_goals
  intro k0
  simp only [requireSizes]
  repeat' (first
  | (with_reducible intro _)
  | with_reducible apply keeps_pureT
  | with_reducible apply keeps_requireT
  | with_reducible apply keeps_bind keeps_get
  | with_reducible apply keeps_bind'
  | (simp [*]))

theorem checkUpdate_keeps (a : UpdArgs) :
    KeepsAll (checkUpdate a) := by
  intro k0
  simp only [checkUpdate]
  repeat' (first
    | (with_reducible intro _)
    | with_reducible apply keeps_pureT
    | with_reducible apply requireLive_keeps _ _
    | with_reducible apply checkStakes_keeps _ _
    | with_reducible apply requireHandles_keeps _ _
    | with_reducible apply requireFinite_keeps _ _
    | with_reducible apply requireSizes_keeps _ _
    | with_reducible apply keeps_requireT
    | with_reducible apply keeps_bind'
    | (split))

theorem readTensor_keeps (h : BitVec 32) (off fmt n : Nat) (die : Option Nat) :
    KeepsAll (readTensor h off fmt n die) := by
  intro k0
  simp only [readTensor]
  repeat' (first
    | (with_reducible intro _)
    | with_reducible apply keeps_pureT
    | with_reducible apply readBytes_keeps _ _ _ _ _ _
    | with_reducible apply keeps_bind')

theorem UpdArgs.readPair_keeps (a : UpdArgs) (i d : Nat) (die : Option Nat) :
    KeepsAll (UpdArgs.readPair a i d die) := by
  intro k0
  simp only [UpdArgs.readPair]
  repeat' (first
    | with_reducible apply readTensor_keeps _ _ _ _ _ _)

theorem runUpdate_keeps (a : UpdArgs) :
    KeepsAll (runUpdate a) := by
  intro k0
  simp only [runUpdate]
  repeat' (first
    | (with_reducible intro _)
    | with_reducible apply keeps_pureT
    | with_reducible apply keeps_pure
    | with_reducible apply keeps_throw
    | with_reducible apply keeps_refuse
    | with_reducible apply writeAnd_keeps _ _ _ _
    | with_reducible apply readSrams_keeps _ _
    | with_reducible apply Group.reader_keeps _ _
    | with_reducible apply readTensor_keeps _ _ _ _ _ _
    | with_reducible apply UpdArgs.readPair_keeps _ _ _ _ _
    | with_reducible apply keeps_requireT
    | with_reducible apply keeps_updT
    | with_reducible apply keeps_actT
    | with_reducible apply keeps_setT
    | with_reducible apply keeps_bind keeps_get
    | with_reducible apply keeps_bind'
    | with_reducible apply keeps_getT
    | dsimp only
    | (split <;> (try (rename_i heq; replace heq := (congrArg (fun x => (Prod.snd x).ctl) heq).symm; simp [*, -List.reduceReplicate, foldl_ctl] at heq)))
    | (simp [*, -List.reduceReplicate, foldl_ctl]; done)
    | (simp_all [-List.reduceReplicate, foldl_ctl]; done))

theorem planUpdate_keeps (q : Nat) (p : Packet) :
    ∀ k0, Keeps k0 (fun pl : Plan => KeepsAll pl.run) (planUpdate q p) := by
  intro k0
  simp only [planUpdate]
  repeat' (first
    | (with_reducible intro _)
    | with_reducible apply keeps_pure
    | with_reducible apply reservedZero_keeps _ _ _
    | with_reducible apply blockReservedZero_keeps _ _ _
    | with_reducible apply readBlock_keeps _ _ _ _ _ _ _
    | with_reducible apply seqDie_keeps _ _
    | with_reducible apply checkUpdate_keeps _ _
    | with_reducible apply runUpdate_keeps _ _
    | with_reducible apply keeps_bind keeps_get
    | with_reducible apply keeps_bind')

end Sys2Proof.Machine
end

