-- ==== Sys2Proof/Laws/Firmware.lean ====
section
/-! SUPPORT. The operations of Machine/Firmware.lean leave the registers that software sets alone. -/

namespace Sys2Proof.Machine

theorem firmwarePlan_keeps (c : InFlight) (m : Option RailMeans) :
    ∀ k0, Keeps k0 (fun pl : Plan => KeepsAll pl.run) (firmwarePlan c m) := by
  intro k0
  simp only [firmwarePlan]
  repeat' (first
    | (with_reducible intro _)
    | with_reducible apply keeps_pureT
    | with_reducible apply keeps_pure
    | with_reducible apply keeps_throw
    | with_reducible apply keeps_refuse
    | with_reducible apply planPowerCap_keeps _ _ _
    | with_reducible apply planMarginScan_keeps _ _ _
    | with_reducible apply planCounterCfg_keeps _ _
    | with_reducible apply planTelemetry_keeps _ _ _
    | with_reducible apply planSamplerCfg_keeps _ _
    | with_reducible apply planTraceArm_keeps _ _
    | with_reducible apply planTraceRead_keeps _ _
    | with_reducible apply planDumpRead_keeps _ _
    | with_reducible apply planLedgerRead_keeps _ _
    | with_reducible apply planHealth_keeps _ _
    | with_reducible apply planRoleSession_keeps _ _ _
    | with_reducible apply planFwStage_keeps _ _ _
    | with_reducible apply planScheduleSet_keeps _ _ _
    | with_reducible apply planMakerDiag_keeps _ _ _
    | with_reducible apply keeps_requireT
    | with_reducible apply keeps_updT
    | with_reducible apply keeps_actT
    | with_reducible apply keeps_setT
    | with_reducible apply keeps_bind keeps_get
    | with_reducible apply keeps_bind'
    | with_reducible apply keeps_getT
    | dsimp only
    | (split <;> (try (rename_i heq; replace heq := (congrArg (fun x => (Prod.snd x).ctl) heq).symm; simp [*, -List.reduceReplicate, foldl_ctl] at heq)))
    | (simp [*, -List.reduceReplicate, foldl_ctl]; done)
    | (simp_all [-List.reduceReplicate, foldl_ctl]; done))

@[simp] theorem starting_ctl (n : Option Nat) (s : State) :
    (starting n s).ctl = s.ctl := by
  rfl

@[simp] theorem startQueuedAs_ctl (c : InFlight) (m : Option RailMeans) (s : State) :
    (startQueuedAs c m s).ctl = s.ctl := by
  unfold startQueuedAs
  refine unlessOver_ctl _ s fun u => ?_
  rw [starting_ctl, startF_ctl _ _ _ (firmwarePlan_keeps _ _)]
  simp

@[simp] theorem startQueued_ctl (s : State) :
    (startQueued s).ctl = s.ctl := by
  first
  | (simp [startQueued, -List.reduceReplicate, foldl_ctl]; done)
  | (simp only [startQueued]; (repeat' split) <;> simp [-List.reduceReplicate, foldl_ctl] <;> done)
  | (simp only [startQueued]
     repeat' (split <;> (try (rename_i heq; first
       | (replace heq := (congrArg (fun x => (Prod.snd x).ctl) heq).symm; simp [-List.reduceReplicate, foldl_ctl] at heq)
       | replace heq := keeps_ok (firmwarePlan_keeps _ _) heq
       | replace heq := keeps_err (firmwarePlan_keeps _ _) heq)))
     all_goals (first | (simp [-List.reduceReplicate, foldl_ctl]; done) | (simp [*, -List.reduceReplicate, foldl_ctl]; done) | (simp_all [-List.reduceReplicate, foldl_ctl]; done)))
  | (simp only [startQueued]
     refine foldl_ctl _ (fun s a => ?_) _ _
     (repeat' split) <;> simp [-List.reduceReplicate, foldl_ctl])
  | (simp only [startQueued]
     (repeat' split) <;> first
       | (simp [-List.reduceReplicate, foldl_ctl]; done)
       | (refine (foldl_ctl _ (fun s a => ?_) _ _).trans ?_
          all_goals ((repeat' split) <;> simp [-List.reduceReplicate, foldl_ctl])))

end Sys2Proof.Machine
end

