-- ==== Sys2Proof/Laws/Exec.lean ====
section
/-! SUPPORT. Commands other than writes, resets and scheduled settings leave the registers that software sets alone. -/

set_option Elab.async false

namespace Sys2Proof.Machine

theorem execNop_ctl (q : Fin 64) (p : Packet) (s : State) (u : State)
    (h : execNop q p s = .next u) : u.ctl = s.ctl := by
  cases h; exact issueS_ctl _ _ _ _ _ (planNop_keeps _)

theorem execMatmul_ctl (q : Fin 64) (p : Packet) (s : State) (u : State)
    (h : execMatmul q p s = .next u) : u.ctl = s.ctl := by
  cases h; exact issueS_ctl _ _ _ _ _ (planMatrix_keeps _ _ _)

theorem execMatmulAcc_ctl (q : Fin 64) (p : Packet) (s : State) (u : State)
    (h : execMatmulAcc q p s = .next u) : u.ctl = s.ctl := by
  cases h; exact issueS_ctl _ _ _ _ _ (planMatrix_keeps _ _ _)

theorem execScalePass_ctl (q : Fin 64) (p : Packet) (s : State) (u : State)
    (h : execScalePass q p s = .next u) : u.ctl = s.ctl := by
  cases h; exact issueS_ctl _ _ _ _ _ (planScalePass_keeps _)

theorem execQuantStore_ctl (q : Fin 64) (p : Packet) (s : State) (u : State)
    (h : execQuantStore q p s = .next u) : u.ctl = s.ctl := by
  cases h; exact issueS_ctl _ _ _ _ _ (planQuantStore_keeps _ _)

theorem execVectorOp_ctl (q : Fin 64) (p : Packet) (s : State) (u : State)
    (h : execVectorOp q p s = .next u) : u.ctl = s.ctl := by
  cases h; exact issueS_ctl _ _ _ _ _ (planVectorOp_keeps _ _)

theorem execNorm_ctl (q : Fin 64) (p : Packet) (s : State) (u : State)
    (h : execNorm q p s = .next u) : u.ctl = s.ctl := by
  cases h; exact issueS_ctl _ _ _ _ _ (planNorm_keeps _ _)

theorem execSoftmax_ctl (q : Fin 64) (p : Packet) (s : State) (u : State)
    (h : execSoftmax q p s = .next u) : u.ctl = s.ctl := by
  cases h; exact issueS_ctl _ _ _ _ _ (planSoftmax_keeps _ _)

theorem execLoss_ctl (q : Fin 64) (p : Packet) (s : State) (u : State)
    (h : execLoss q p s = .next u) : u.ctl = s.ctl := by
  cases h; exact issueS_ctl _ _ _ _ _ (planLoss_keeps _ _)

theorem execCopy_ctl (q : Fin 64) (p : Packet) (s : State) (u : State)
    (h : execCopy q p s = .next u) : u.ctl = s.ctl := by
  cases h; exact issueS_ctl _ _ _ _ _ (planCopy_keeps _)

theorem execFill_ctl (q : Fin 64) (p : Packet) (s : State) (u : State)
    (h : execFill q p s = .next u) : u.ctl = s.ctl := by
  cases h; exact issueS_ctl _ _ _ _ _ (planFill_keeps _ _)

theorem execPlace_ctl (q : Fin 64) (p : Packet) (s : State) (u : State)
    (h : execPlace q p s = .next u) : u.ctl = s.ctl := by
  cases h; exact issueS_ctl _ _ _ _ _ (planPlace_keeps _)

theorem execRelease_ctl (q : Fin 64) (p : Packet) (s : State) (u : State)
    (h : execRelease q p s = .next u) : u.ctl = s.ctl := by
  cases h; exact issueS_ctl _ _ _ _ _ (planRelease_keeps _)

theorem execBoundsSet_ctl (q : Fin 64) (p : Packet) (s : State) (u : State)
    (h : execBoundsSet q p s = .next u) : u.ctl = s.ctl := by
  cases h; exact issueS_ctl _ _ _ _ _ (planBoundsSet_keeps _ _)

theorem execFence_ctl (q : Fin 64) (p : Packet) (s : State) (u : State)
    (h : execFence q p s = .next u) : u.ctl = s.ctl := by
  cases h; exact issueS_ctl _ _ _ _ _ (planFence_keeps _)

theorem execWaitTime_ctl (q : Fin 64) (p : Packet) (s : State) (u : State)
    (h : execWaitTime q p s = .next u) : u.ctl = s.ctl := by
  cases h; exact issueS_ctl _ _ _ _ _ (planWaitTime_keeps _)

theorem execSignal_ctl (q : Fin 64) (p : Packet) (s : State) (u : State)
    (h : execSignal q p s = .next u) : u.ctl = s.ctl := by
  cases h; exact issueS_ctl _ _ _ _ _ (planSignal_keeps _)

theorem execBundleSend_ctl (q : Fin 64) (p : Packet) (s : State) (u : State)
    (h : execBundleSend q p s = .next u) : u.ctl = s.ctl := by
  cases h; exact issueS_ctl _ _ _ _ _ (planSend_keeps _)

theorem execBundleReduce_ctl (q : Fin 64) (p : Packet) (s : State) (u : State)
    (h : execBundleReduce q p s = .next u) : u.ctl = s.ctl := by
  cases h; exact issueS_ctl _ _ _ _ _ (planReduce_keeps _)

theorem execBundleBroadcast_ctl (q : Fin 64) (p : Packet) (s : State) (u : State)
    (h : execBundleBroadcast q p s = .next u) : u.ctl = s.ctl := by
  cases h; exact issueS_ctl _ _ _ _ _ (planBroadcast_keeps _)

theorem execUpdate_ctl (q : Fin 64) (p : Packet) (s : State) (u : State)
    (h : execUpdate q p s = .next u) : u.ctl = s.ctl := by
  cases h; exact issueS_ctl _ _ _ _ _ (planUpdate_keeps _ _)

theorem execCommit_ctl (q : Fin 64) (p : Packet) (s : State) (u : State)
    (h : execCommit q p s = .next u) : u.ctl = s.ctl := by
  cases h; exact issueS_ctl _ _ _ _ _ (planCommit_keeps _)

theorem execCkptDrain_ctl (q : Fin 64) (p : Packet) (s : State) (u : State)
    (h : execCkptDrain q p s = .next u) : u.ctl = s.ctl := by
  cases h; exact issueS_ctl _ _ _ _ _ (planDrain_keeps _ _)

theorem execRollback_ctl (q : Fin 64) (p : Packet) (s : State) (u : State)
    (h : execRollback q p s = .next u) : u.ctl = s.ctl := by
  cases h; exact issueS_ctl _ _ _ _ _ (planRollback_keeps _)

theorem execRoundRecord_ctl (q : Fin 64) (p : Packet) (s : State) (u : State)
    (h : execRoundRecord q p s = .next u) : u.ctl = s.ctl := by
  cases h; exact issueS_ctl _ _ _ _ _ (planRecord_keeps _ _)

theorem execJoinDomain_ctl (q : Fin 64) (p : Packet) (s : State) (u : State)
    (h : execJoinDomain q p s = .next u) : u.ctl = s.ctl := by
  cases h; exact issueS_ctl _ _ _ _ _ (planJoinDomain_keeps _ _)

theorem execAssignSpare_ctl (q : Fin 64) (p : Packet) (s : State) (u : State)
    (h : execAssignSpare q p s = .next u) : u.ctl = s.ctl := by
  cases h; exact issueS_ctl _ _ _ _ _ (planAssign_keeps _)

theorem execGetHealth_ctl (q : Fin 64) (p : Packet) (s : State) (u : State)
    (h : execGetHealth q p s = .next u) : u.ctl = s.ctl := by
  cases h; exact issueF_ctl _ _ _ _ _ _ fun f => planHealth_keeps _

theorem execGetTelemetry_ctl (q : Fin 64) (p : Packet) (m : RailMeans) (s : State) (u : State)
    (h : execGetTelemetry q p m s = .next u) : u.ctl = s.ctl := by
  cases h; exact issueF_ctl _ _ _ _ _ _ fun f => planTelemetry_keeps _ _

theorem execSetPowerCap_ctl (q : Fin 64) (p : Packet) (s : State) (u : State)
    (h : execSetPowerCap q p s = .next u) : u.ctl = s.ctl := by
  cases h; exact issueF_ctl _ _ _ _ _ _ fun f => planPowerCap_keeps _ f

theorem execLedgerRead_ctl (q : Fin 64) (p : Packet) (s : State) (u : State)
    (h : execLedgerRead q p s = .next u) : u.ctl = s.ctl := by
  cases h; exact issueF_ctl _ _ _ _ _ _ fun f => planLedgerRead_keeps _

theorem execMarginScan_ctl (q : Fin 64) (p : Packet) (s : State) (u : State)
    (h : execMarginScan q p s = .next u) : u.ctl = s.ctl := by
  cases h; exact issueF_ctl _ _ _ _ _ _ fun f => planMarginScan_keeps _ f

theorem execCounterCfg_ctl (q : Fin 64) (p : Packet) (s : State) (u : State)
    (h : execCounterCfg q p s = .next u) : u.ctl = s.ctl := by
  cases h; exact issueF_ctl _ _ _ _ _ _ fun f => planCounterCfg_keeps _

theorem execSamplerCfg_ctl (q : Fin 64) (p : Packet) (s : State) (u : State)
    (h : execSamplerCfg q p s = .next u) : u.ctl = s.ctl := by
  cases h; exact issueF_ctl _ _ _ _ _ _ fun f => planSamplerCfg_keeps _

theorem execTraceArm_ctl (q : Fin 64) (p : Packet) (s : State) (u : State)
    (h : execTraceArm q p s = .next u) : u.ctl = s.ctl := by
  cases h; exact issueF_ctl _ _ _ _ _ _ fun f => planTraceArm_keeps _

theorem execTraceRead_ctl (q : Fin 64) (p : Packet) (s : State) (u : State)
    (h : execTraceRead q p s = .next u) : u.ctl = s.ctl := by
  cases h; exact issueF_ctl _ _ _ _ _ _ fun f => planTraceRead_keeps _

theorem execRoleSession_ctl (q : Fin 64) (p : Packet) (s : State) (u : State)
    (h : execRoleSession q p s = .next u) : u.ctl = s.ctl := by
  cases h; exact issueF_ctl _ _ _ _ _ _ fun f => planRoleSession_keeps _ f

theorem execFwStage_ctl (q : Fin 64) (p : Packet) (s : State) (u : State)
    (h : execFwStage q p s = .next u) : u.ctl = s.ctl := by
  cases h; exact issueF_ctl _ _ _ _ _ _ fun f => planFwStage_keeps _ f

theorem execScheduleSet_ctl (q : Fin 64) (p : Packet) (s : State) (u : State)
    (h : execScheduleSet q p s = .next u) : u.ctl = s.ctl := by
  cases h; exact issueF_ctl _ _ _ _ _ _ fun f => planScheduleSet_keeps _ f

theorem execDumpRead_ctl (q : Fin 64) (p : Packet) (s : State) (u : State)
    (h : execDumpRead q p s = .next u) : u.ctl = s.ctl := by
  cases h; exact issueF_ctl _ _ _ _ _ _ fun f => planDumpRead_keeps _

theorem execMakerDiag_ctl (q : Fin 64) (p : Packet) (s : State) (u : State)
    (h : execMakerDiag q p s = .next u) : u.ctl = s.ctl := by
  cases h; exact issueF_ctl _ _ _ _ _ _ fun f => planMakerDiag_keeps _ f

theorem execCommandComplete_ctl (q : Fin 64) (ordinal : Nat) (s : State) (u : State)
    (h : execCommandComplete q ordinal s = .next u) : u.ctl = s.ctl := by
  simp only [execCommandComplete, afterNegotiation, Host.Outcome.next.injEq] at h
  subst h
  first
  | (simp; done)
  | ((repeat' split) <;> simp <;> done)
  | (repeat' (split <;> (try (rename_i heq; replace heq := (congrArg (fun x => (Prod.snd x).ctl) heq).symm; simp at heq)))
     all_goals (first | (simp; done) | (simp [*]; done)))

theorem execMsixHoldoffEnd_ctl (v : Fin 66) (s : State) (u : State)
    (h : execMsixHoldoffEnd v s = .next u) : u.ctl = s.ctl := by
  simp only [execMsixHoldoffEnd, afterNegotiation, Host.Outcome.next.injEq] at h
  subst h
  first
  | (simp; done)
  | ((repeat' split) <;> simp <;> done)
  | (repeat' (split <;> (try (rename_i heq; replace heq := (congrArg (fun x => (Prod.snd x).ctl) heq).symm; simp at heq)))
     all_goals (first | (simp; done) | (simp [*]; done)))

theorem execSqDoorbell_ctl (q : Fin 64) (v : Word) (s : State) (u : State)
    (h : execSqDoorbell q v s = .next u) : u.ctl = s.ctl := by
  simp only [execSqDoorbell, afterNegotiation, Host.Outcome.next.injEq] at h
  subst h
  first
  | (simp; done)
  | ((repeat' split) <;> simp <;> done)
  | (repeat' (split <;> (try (rename_i heq; replace heq := (congrArg (fun x => (Prod.snd x).ctl) heq).symm; simp at heq)))
     all_goals (first | (simp; done) | (simp [*]; done)))

theorem execCqDoorbell_ctl (q : Fin 64) (v : Word) (s : State) (u : State)
    (h : execCqDoorbell q v s = .next u) : u.ctl = s.ctl := by
  simp only [execCqDoorbell, afterNegotiation, Host.Outcome.next.injEq] at h
  subst h
  first
  | (simp; done)
  | ((repeat' split) <;> simp <;> done)
  | (repeat' (split <;> (try (rename_i heq; replace heq := (congrArg (fun x => (Prod.snd x).ctl) heq).symm; simp at heq)))
     all_goals (first | (simp; done) | (simp [*]; done)))

theorem execBar4Read_ctl (off len : Nat) (s : State) (u : State)
    (h : execBar4Read off len s = .next u) : u.ctl = s.ctl := by
  simp only [execBar4Read, afterNegotiation, Host.Outcome.next.injEq] at h
  subst h
  first
  | (simp; done)
  | ((repeat' split) <;> simp <;> done)
  | (repeat' (split <;> (try (rename_i heq; replace heq := (congrArg (fun x => (Prod.snd x).ctl) heq).symm; simp at heq)))
     all_goals (first | (simp; done) | (simp [*]; done)))

theorem execBar4Write_ctl (off : Nat) (data : List Byte) (s : State) (u : State)
    (h : execBar4Write off data s = .next u) : u.ctl = s.ctl := by
  simp only [execBar4Write, afterNegotiation, Host.Outcome.next.injEq] at h
  subst h
  first
  | (simp; done)
  | ((repeat' split) <;> simp <;> done)
  | (repeat' (split <;> (try (rename_i heq; replace heq := (congrArg (fun x => (Prod.snd x).ctl) heq).symm; simp at heq)))
     all_goals (first | (simp; done) | (simp [*]; done)))

theorem execFunctionLevelReset_ctl (s : State) (u : State)
    (h : execFunctionLevelReset s = .next u) : u.ctl = s.ctl := by
  simp only [execFunctionLevelReset, afterNegotiation, Host.Outcome.next.injEq] at h
  subst h
  first
  | (simp; done)
  | ((repeat' split) <;> simp <;> done)
  | (repeat' (split <;> (try (rename_i heq; replace heq := (congrArg (fun x => (Prod.snd x).ctl) heq).symm; simp at heq)))
     all_goals (first | (simp; done) | (simp [*]; done)))

theorem execFunctionLevelResetDone_ctl (s : State) (u : State)
    (h : execFunctionLevelResetDone s = .next u) : u.ctl = s.ctl := by
  simp only [execFunctionLevelResetDone, afterNegotiation, Host.Outcome.next.injEq] at h
  subst h
  first
  | (simp; done)
  | ((repeat' split) <;> simp <;> done)
  | (repeat' (split <;> (try (rename_i heq; replace heq := (congrArg (fun x => (Prod.snd x).ctl) heq).symm; simp at heq)))
     all_goals (first | (simp; done) | (simp [*]; done)))

theorem execBrakeAssert_ctl (s : State) (u : State)
    (h : execBrakeAssert s = .next u) : u.ctl = s.ctl := by
  simp only [execBrakeAssert, afterNegotiation, Host.Outcome.next.injEq] at h
  subst h
  first
  | (simp; done)
  | ((repeat' split) <;> simp <;> done)
  | (repeat' (split <;> (try (rename_i heq; replace heq := (congrArg (fun x => (Prod.snd x).ctl) heq).symm; simp at heq)))
     all_goals (first | (simp; done) | (simp [*]; done)))

theorem execBrakeRelease_ctl (s : State) (u : State)
    (h : execBrakeRelease s = .next u) : u.ctl = s.ctl := by
  simp only [execBrakeRelease, afterNegotiation, Host.Outcome.next.injEq] at h
  subst h
  first
  | (simp; done)
  | ((repeat' split) <;> simp <;> done)
  | (repeat' (split <;> (try (rename_i heq; replace heq := (congrArg (fun x => (Prod.snd x).ctl) heq).symm; simp at heq)))
     all_goals (first | (simp; done) | (simp [*]; done)))

theorem execThermTrip_ctl (sensor : Fin 112) (reading : Int) (s : State) (u : State)
    (h : execThermTrip sensor reading s = .next u) : u.ctl = s.ctl := by
  simp only [execThermTrip, afterNegotiation, Host.Outcome.next.injEq] at h
  subst h
  first
  | (simp; done)
  | ((repeat' split) <;> simp <;> done)
  | (repeat' (split <;> (try (rename_i heq; replace heq := (congrArg (fun x => (Prod.snd x).ctl) heq).symm; simp at heq)))
     all_goals (first | (simp; done) | (simp [*]; done)))

theorem execSensorFault_ctl (sensor : Fin 112) (s : State) (u : State)
    (h : execSensorFault sensor s = .next u) : u.ctl = s.ctl := by
  simp only [execSensorFault, afterNegotiation, Host.Outcome.next.injEq] at h
  subst h
  first
  | (simp; done)
  | ((repeat' split) <;> simp <;> done)
  | (repeat' (split <;> (try (rename_i heq; replace heq := (congrArg (fun x => (Prod.snd x).ctl) heq).symm; simp at heq)))
     all_goals (first | (simp; done) | (simp [*]; done)))

theorem execPpsIn_ctl (s : State) (u : State)
    (h : execPpsIn s = .next u) : u.ctl = s.ctl := by
  simp only [execPpsIn, afterNegotiation, Host.Outcome.next.injEq] at h
  subst h
  first
  | (simp; done)
  | ((repeat' split) <;> simp <;> done)
  | (repeat' (split <;> (try (rename_i heq; replace heq := (congrArg (fun x => (Prod.snd x).ctl) heq).symm; simp at heq)))
     all_goals (first | (simp; done) | (simp [*]; done)))

theorem execPpsOut_ctl (s : State) (u : State)
    (h : execPpsOut s = .next u) : u.ctl = s.ctl := by
  simp only [execPpsOut, afterNegotiation, Host.Outcome.next.injEq] at h
  subst h
  first
  | (simp; done)
  | ((repeat' split) <;> simp <;> done)
  | (repeat' (split <;> (try (rename_i heq; replace heq := (congrArg (fun x => (Prod.snd x).ctl) heq).symm; simp at heq)))
     all_goals (first | (simp; done) | (simp [*]; done)))

theorem execPowerEvaluation_ctl (r : PowerReading) (s : State) (u : State)
    (h : execPowerEvaluation r s = .next u) : u.ctl = s.ctl := by
  simp only [execPowerEvaluation, afterNegotiation, Host.Outcome.next.injEq] at h
  subst h
  first
  | (simp; done)
  | ((repeat' split) <;> simp <;> done)
  | (repeat' (split <;> (try (rename_i heq; replace heq := (congrArg (fun x => (Prod.snd x).ctl) heq).symm; simp at heq)))
     all_goals (first | (simp; done) | (simp [*]; done)))

theorem execStackTemperatureRead_ctl (r : StackReadings) (s : State) (u : State)
    (h : execStackTemperatureRead r s = .next u) : u.ctl = s.ctl := by
  simp only [execStackTemperatureRead, Host.Outcome.next.injEq] at h
  subst h
  split
  · exact (foldl_ctl _ (fun s k => countStack_ctl _ _ _ s) _ _).trans rfl
  · rfl

theorem execScrubSlot_ctl (stack : Fin 12) (s : State) (u : State)
    (h : execScrubSlot stack s = .next u) : u.ctl = s.ctl := by
  simp only [execScrubSlot, afterNegotiation, Host.Outcome.next.injEq] at h
  subst h
  first
  | (simp; done)
  | ((repeat' split) <;> simp <;> done)
  | (repeat' (split <;> (try (rename_i heq; replace heq := (congrArg (fun x => (Prod.snd x).ctl) heq).symm; simp at heq)))
     all_goals (first | (simp; done) | (simp [*]; done)))

theorem execDieLocalisation_ctl (stack : Fin 12) (line : Nat) (s : State) (u : State)
    (h : execDieLocalisation stack line s = .next u) : u.ctl = s.ctl := by
  simp only [execDieLocalisation, afterNegotiation, Host.Outcome.next.injEq] at h
  subst h
  first
  | (simp; done)
  | ((repeat' split) <;> simp <;> done)
  | (repeat' (split <;> (try (rename_i heq; replace heq := (congrArg (fun x => (Prod.snd x).ctl) heq).symm; simp at heq)))
     all_goals (first | (simp; done) | (simp [*]; done)))

theorem execStackInterfaceLoss_ctl (stack : Fin 12) (s : State) (u : State)
    (h : execStackInterfaceLoss stack s = .next u) : u.ctl = s.ctl := by
  simp only [execStackInterfaceLoss, afterNegotiation, Host.Outcome.next.injEq] at h
  subst h
  first
  | (simp; done)
  | ((repeat' split) <;> simp <;> done)
  | (repeat' (split <;> (try (rename_i heq; replace heq := (congrArg (fun x => (Prod.snd x).ctl) heq).symm; simp at heq)))
     all_goals (first | (simp; done) | (simp [*]; done)))

theorem execRetrainEvaluation_ctl (stack : Fin 12) (channel : Fin 16) (s : State) (u : State)
    (h : execRetrainEvaluation stack channel s = .next u) : u.ctl = s.ctl := by
  simp only [execRetrainEvaluation, afterNegotiation, Host.Outcome.next.injEq] at h
  subst h
  first
  | (simp; done)
  | ((repeat' split) <;> simp <;> done)
  | (repeat' (split <;> (try (rename_i heq; replace heq := (congrArg (fun x => (Prod.snd x).ctl) heq).symm; simp at heq)))
     all_goals (first | (simp; done) | (simp [*]; done)))

theorem execRetrainWindow_ctl (stack : Fin 12) (channel : Fin 16) (s : State) (u : State)
    (h : execRetrainWindow stack channel s = .next u) : u.ctl = s.ctl := by
  simp only [execRetrainWindow, afterNegotiation, Host.Outcome.next.injEq] at h
  subst h
  first
  | (simp; done)
  | ((repeat' split) <;> simp <;> done)
  | (repeat' (split <;> (try (rename_i heq; replace heq := (congrArg (fun x => (Prod.snd x).ctl) heq).symm; simp at heq)))
     all_goals (first | (simp; done) | (simp [*]; done)))

theorem execChannelReturn_ctl (stack : Fin 12) (repair : Option Repair) (lo hi : Margin) (s : State) (u : State)
    (h : execChannelReturn stack repair lo hi s = .next u) : u.ctl = s.ctl := by
  simp only [execChannelReturn, afterNegotiation, Host.Outcome.next.injEq] at h
  subst h
  first
  | (simp; done)
  | ((repeat' split) <;> simp <;> done)
  | (repeat' (split <;> (try (rename_i heq; replace heq := (congrArg (fun x => (Prod.snd x).ctl) heq).symm; simp at heq)))
     all_goals (first | (simp; done) | (simp [*]; done)))

theorem execChannelOfflineLimit_ctl (stack : Fin 12) (s : State) (u : State)
    (h : execChannelOfflineLimit stack s = .next u) : u.ctl = s.ctl := by
  simp only [execChannelOfflineLimit, afterNegotiation, Host.Outcome.next.injEq] at h
  subst h
  first
  | (simp; done)
  | ((repeat' split) <;> simp <;> done)
  | (repeat' (split <;> (try (rename_i heq; replace heq := (congrArg (fun x => (Prod.snd x).ctl) heq).symm; simp at heq)))
     all_goals (first | (simp; done) | (simp [*]; done)))

theorem execRebuildComplete_ctl (stack : Fin 12) (s : State) (u : State)
    (h : execRebuildComplete stack s = .next u) : u.ctl = s.ctl := by
  simp only [execRebuildComplete, afterNegotiation, Host.Outcome.next.injEq] at h
  subst h
  first
  | (simp; done)
  | ((repeat' split) <;> simp <;> done)
  | (repeat' (split <;> (try (rename_i heq; replace heq := (congrArg (fun x => (Prod.snd x).ctl) heq).symm; simp at heq)))
     all_goals (first | (simp; done) | (simp [*]; done)))

theorem execMigrationCopy_ctl (s : State) (u : State)
    (h : execMigrationCopy s = .next u) : u.ctl = s.ctl := by
  simp only [execMigrationCopy, afterNegotiation, Host.Outcome.next.injEq] at h
  subst h
  first
  | (simp; done)
  | ((repeat' split) <;> simp <;> done)
  | (repeat' (split <;> (try (rename_i heq; replace heq := (congrArg (fun x => (Prod.snd x).ctl) heq).symm; simp at heq)))
     all_goals (first | (simp; done) | (simp [*]; done)))

theorem execMigrationResume_ctl (s : State) (u : State)
    (h : execMigrationResume s = .next u) : u.ctl = s.ctl := by
  simp only [execMigrationResume, afterNegotiation, Host.Outcome.next.injEq] at h
  subst h
  first
  | (simp; done)
  | ((repeat' split) <;> simp <;> done)
  | (repeat' (split <;> (try (rename_i heq; replace heq := (congrArg (fun x => (Prod.snd x).ctl) heq).symm; simp at heq)))
     all_goals (first | (simp; done) | (simp [*]; done)))

theorem execReleaseFree_ctl (handle : BitVec 32) (s : State) (u : State)
    (h : execReleaseFree handle s = .next u) : u.ctl = s.ctl := by
  simp only [execReleaseFree, afterNegotiation, Host.Outcome.next.injEq] at h
  subst h
  first
  | (simp; done)
  | ((repeat' split) <;> simp <;> done)
  | (repeat' (split <;> (try (rename_i heq; replace heq := (congrArg (fun x => (Prod.snd x).ctl) heq).symm; simp at heq)))
     all_goals (first | (simp; done) | (simp [*]; done)))

theorem execSeqWatchdog_ctl (n : Fin 4) (s : State) (u : State)
    (h : execSeqWatchdog n s = .next u) : u.ctl = s.ctl := by
  simp only [execSeqWatchdog, afterNegotiation, Host.Outcome.next.injEq] at h
  subst h
  first
  | (simp; done)
  | ((repeat' split) <;> simp <;> done)
  | (repeat' (split <;> (try (rename_i heq; replace heq := (congrArg (fun x => (Prod.snd x).ctl) heq).symm; simp at heq)))
     all_goals (first | (simp; done) | (simp [*]; done)))

theorem execDumpWrite_ctl (stake : Option (Fin 2 × Fin 100)) (s : State) (u : State)
    (h : execDumpWrite stake s = .next u) : u.ctl = s.ctl := by
  simp only [execDumpWrite, afterNegotiation, Host.Outcome.next.injEq] at h
  subst h
  first
  | (simp; done)
  | ((repeat' split) <;> simp <;> done)
  | (repeat' (split <;> (try (rename_i heq; replace heq := (congrArg (fun x => (Prod.snd x).ctl) heq).symm; simp at heq)))
     all_goals (first | (simp; done) | (simp [*]; done)))

theorem execTransferStart_ctl (q : Fin 64) (ordinal : Nat) (t : Transfer) (s : State) (u : State)
    (h : execTransferStart q ordinal t s = .next u) : u.ctl = s.ctl := by
  simp only [execTransferStart, afterNegotiation, Host.Outcome.next.injEq] at h
  subst h
  first
  | (simp; done)
  | ((repeat' split) <;> simp <;> done)
  | (repeat' (split <;> (try (rename_i heq; replace heq := (congrArg (fun x => (Prod.snd x).ctl) heq).symm; simp at heq)))
     all_goals (first | (simp; done) | (simp [*]; done)))

theorem execWindowGraceExpiry_ctl (q : Fin 64) (ordinal : Nat) (absent : List Nat) (s : State) (u : State)
    (h : execWindowGraceExpiry q ordinal absent s = .next u) : u.ctl = s.ctl := by
  simp only [execWindowGraceExpiry, afterNegotiation, Host.Outcome.next.injEq] at h
  subst h
  first
  | (simp; done)
  | ((repeat' split) <;> simp <;> done)
  | (repeat' (split <;> (try (rename_i heq; replace heq := (congrArg (fun x => (Prod.snd x).ctl) heq).symm; simp at heq)))
     all_goals (first | (simp; done) | (simp [*]; done)))

theorem execDrainStart_ctl (q : Fin 64) (ordinal : Nat) (path : Option (Fin 12 × BitVec 48)) (s : State) (u : State)
    (h : execDrainStart q ordinal path s = .next u) : u.ctl = s.ctl := by
  simp only [execDrainStart, afterNegotiation, Host.Outcome.next.injEq] at h
  subst h
  first
  | (simp; done)
  | ((repeat' split) <;> simp <;> done)
  | (repeat' (split <;> (try (rename_i heq; replace heq := (congrArg (fun x => (Prod.snd x).ctl) heq).symm; simp at heq)))
     all_goals (first | (simp; done) | (simp [*]; done)))

theorem execCommitEffect_ctl (round : BitVec 32) (seats : Nat) (s : State) (u : State)
    (h : execCommitEffect round seats s = .next u) : u.ctl = s.ctl := by
  simp only [execCommitEffect, afterNegotiation, Host.Outcome.next.injEq] at h
  subst h
  first
  | (simp; done)
  | ((repeat' split) <;> simp <;> done)
  | (repeat' (split <;> (try (rename_i heq; replace heq := (congrArg (fun x => (Prod.snd x).ctl) heq).symm; simp at heq)))
     all_goals (first | (simp; done) | (simp [*]; done)))

theorem execReport_ctl (r : Report) (s : State) (u : State)
    (h : execReport r s = .next u) : u.ctl = s.ctl := by
  simp only [execReport, afterNegotiation, Host.Outcome.next.injEq] at h
  subst h
  first
  | (simp; done)
  | ((repeat' split) <;> simp <;> done)
  | (repeat' (split <;> (try (rename_i heq; replace heq := (congrArg (fun x => (Prod.snd x).ctl) heq).symm; simp at heq)))
     all_goals (first | (simp; done) | (simp [*]; done)))

theorem execDecision_ctl (d : Decision) (s : State) (u : State)
    (h : execDecision d s = .next u) : u.ctl = s.ctl := by
  simp only [execDecision, afterNegotiation, Host.Outcome.next.injEq] at h
  subst h
  first
  | (simp; done)
  | ((repeat' split) <;> simp <;> done)
  | (repeat' (split <;> (try (rename_i heq; replace heq := (congrArg (fun x => (Prod.snd x).ctl) heq).symm; simp at heq)))
     all_goals (first | (simp; done) | (simp [*]; done)))

theorem execDeputyAcknowledge_ctl (s : State) (u : State)
    (h : execDeputyAcknowledge s = .next u) : u.ctl = s.ctl := by
  simp only [execDeputyAcknowledge, afterNegotiation, Host.Outcome.next.injEq] at h
  subst h
  first
  | (simp; done)
  | ((repeat' split) <;> simp <;> done)
  | (repeat' (split <;> (try (rename_i heq; replace heq := (congrArg (fun x => (Prod.snd x).ctl) heq).symm; simp at heq)))
     all_goals (first | (simp; done) | (simp [*]; done)))

theorem execJoinAccept_ctl (a : JoinAccept) (s : State) (u : State)
    (h : execJoinAccept a s = .next u) : u.ctl = s.ctl := by
  simp only [execJoinAccept, afterNegotiation, Host.Outcome.next.injEq] at h
  subst h
  first
  | (simp; done)
  | ((repeat' split) <;> simp <;> done)
  | (repeat' (split <;> (try (rename_i heq; replace heq := (congrArg (fun x => (Prod.snd x).ctl) heq).symm; simp at heq)))
     all_goals (first | (simp; done) | (simp [*]; done)))

theorem execJoinTimeout_ctl (s : State) (u : State)
    (h : execJoinTimeout s = .next u) : u.ctl = s.ctl := by
  simp only [execJoinTimeout, afterNegotiation, Host.Outcome.next.injEq] at h
  subst h
  first
  | (simp; done)
  | ((repeat' split) <;> simp <;> done)
  | (repeat' (split <;> (try (rename_i heq; replace heq := (congrArg (fun x => (Prod.snd x).ctl) heq).symm; simp at heq)))
     all_goals (first | (simp; done) | (simp [*]; done)))

theorem execTakeoverLimit_ctl (s : State) (u : State)
    (h : execTakeoverLimit s = .next u) : u.ctl = s.ctl := by
  simp only [execTakeoverLimit, afterNegotiation, Host.Outcome.next.injEq] at h
  subst h
  first
  | (simp; done)
  | ((repeat' split) <;> simp <;> done)
  | (repeat' (split <;> (try (rename_i heq; replace heq := (congrArg (fun x => (Prod.snd x).ctl) heq).symm; simp at heq)))
     all_goals (first | (simp; done) | (simp [*]; done)))

theorem execHeartbeatPeriod_ctl (w : List Booking) (s : State) (u : State)
    (h : execHeartbeatPeriod w s = .next u) : u.ctl = s.ctl := by
  simp only [execHeartbeatPeriod, afterNegotiation, Host.Outcome.next.injEq] at h
  subst h
  first
  | (simp; done)
  | ((repeat' split) <;> simp <;> done)
  | (repeat' (split <;> (try (rename_i heq; replace heq := (congrArg (fun x => (Prod.snd x).ctl) heq).symm; simp at heq)))
     all_goals (first | (simp; done) | (simp [*]; done)))

theorem execHeartbeat_ctl (h : Heartbeat) (s : State) (u : State)
    (h : execHeartbeat h s = .next u) : u.ctl = s.ctl := by
  simp only [execHeartbeat, afterNegotiation, Host.Outcome.next.injEq] at h
  subst h
  first
  | (simp; done)
  | ((repeat' split) <;> simp <;> done)
  | (repeat' (split <;> (try (rename_i heq; replace heq := (congrArg (fun x => (Prod.snd x).ctl) heq).symm; simp at heq)))
     all_goals (first | (simp; done) | (simp [*]; done)))

theorem execHeartbeatAnswer_ctl (a : Answer) (s : State) (u : State)
    (h : execHeartbeatAnswer a s = .next u) : u.ctl = s.ctl := by
  simp only [execHeartbeatAnswer, afterNegotiation, Host.Outcome.next.injEq] at h
  subst h
  first
  | (simp; done)
  | ((repeat' split) <;> simp <;> done)
  | (repeat' (split <;> (try (rename_i heq; replace heq := (congrArg (fun x => (Prod.snd x).ctl) heq).symm; simp at heq)))
     all_goals (first | (simp; done) | (simp [*]; done)))

theorem execHeartbeatMissed_ctl (seat : Nat) (s : State) (u : State)
    (h : execHeartbeatMissed seat s = .next u) : u.ctl = s.ctl := by
  simp only [execHeartbeatMissed, afterNegotiation, Host.Outcome.next.injEq] at h
  subst h
  first
  | (simp; done)
  | ((repeat' split) <;> simp <;> done)
  | (repeat' (split <;> (try (rename_i heq; replace heq := (congrArg (fun x => (Prod.snd x).ctl) heq).symm; simp at heq)))
     all_goals (first | (simp; done) | (simp [*]; done)))

theorem execRimHeartbeatMissed_ctl (missed : Nat) (s : State) (u : State)
    (h : execRimHeartbeatMissed missed s = .next u) : u.ctl = s.ctl := by
  simp only [execRimHeartbeatMissed, afterNegotiation, Host.Outcome.next.injEq] at h
  subst h
  first
  | (simp; done)
  | ((repeat' split) <;> simp <;> done)
  | (repeat' (split <;> (try (rename_i heq; replace heq := (congrArg (fun x => (Prod.snd x).ctl) heq).symm; simp at heq)))
     all_goals (first | (simp; done) | (simp [*]; done)))

theorem execSync_ctl (port : Fin 12) (domain seqId : Nat) (s : State) (u : State)
    (h : execSync port domain seqId s = .next u) : u.ctl = s.ctl := by
  simp only [execSync, afterNegotiation, Host.Outcome.next.injEq] at h
  subst h
  first
  | (simp; done)
  | ((repeat' split) <;> simp <;> done)
  | (repeat' (split <;> (try (rename_i heq; replace heq := (congrArg (fun x => (Prod.snd x).ctl) heq).symm; simp at heq)))
     all_goals (first | (simp; done) | (simp [*]; done)))

theorem execDelayReq_ctl (port : Fin 12) (id : PtpId) (s : State) (u : State)
    (h : execDelayReq port id s = .next u) : u.ctl = s.ctl := by
  simp only [execDelayReq, afterNegotiation, Host.Outcome.next.injEq] at h
  subst h
  first
  | (simp; done)
  | ((repeat' split) <;> simp <;> done)
  | (repeat' (split <;> (try (rename_i heq; replace heq := (congrArg (fun x => (Prod.snd x).ctl) heq).symm; simp at heq)))
     all_goals (first | (simp; done) | (simp [*]; done)))

theorem execDelayResp_ctl (port : Fin 12) (id : PtpId) (t4 : Nat) (s : State) (u : State)
    (h : execDelayResp port id t4 s = .next u) : u.ctl = s.ctl := by
  simp only [execDelayResp, afterNegotiation, Host.Outcome.next.injEq] at h
  subst h
  first
  | (simp; done)
  | ((repeat' split) <;> simp <;> done)
  | (repeat' (split <;> (try (rename_i heq; replace heq := (congrArg (fun x => (Prod.snd x).ctl) heq).symm; simp at heq)))
     all_goals (first | (simp; done) | (simp [*]; done)))

theorem execAnnounce_ctl (port : Fin 12) (domain : Nat) (s : State) (u : State)
    (h : execAnnounce port domain s = .next u) : u.ctl = s.ctl := by
  simp only [execAnnounce, afterNegotiation, Host.Outcome.next.injEq] at h
  subst h
  first
  | (simp; done)
  | ((repeat' split) <;> simp <;> done)
  | (repeat' (split <;> (try (rename_i heq; replace heq := (congrArg (fun x => (Prod.snd x).ctl) heq).symm; simp at heq)))
     all_goals (first | (simp; done) | (simp [*]; done)))

theorem execHoldover_ctl (s : State) (u : State)
    (h : execHoldover s = .next u) : u.ctl = s.ctl := by
  simp only [execHoldover, afterNegotiation, Host.Outcome.next.injEq] at h
  subst h
  first
  | (simp; done)
  | ((repeat' split) <;> simp <;> done)
  | (repeat' (split <;> (try (rename_i heq; replace heq := (congrArg (fun x => (Prod.snd x).ctl) heq).symm; simp at heq)))
     all_goals (first | (simp; done) | (simp [*]; done)))

theorem execTimeLost_ctl (s : State) (u : State)
    (h : execTimeLost s = .next u) : u.ctl = s.ctl := by
  simp only [execTimeLost, afterNegotiation, Host.Outcome.next.injEq] at h
  subst h
  first
  | (simp; done)
  | ((repeat' split) <;> simp <;> done)
  | (repeat' (split <;> (try (rename_i heq; replace heq := (congrArg (fun x => (Prod.snd x).ctl) heq).symm; simp at heq)))
     all_goals (first | (simp; done) | (simp [*]; done)))

theorem execSampleInstance_ctl (entry : Fin 64) (m : RailMeans) (s : State) (u : State)
    (h : execSampleInstance entry m s = .next u) : u.ctl = s.ctl := by
  simp only [execSampleInstance, afterNegotiation, Host.Outcome.next.injEq] at h
  subst h
  first
  | (simp; done)
  | ((repeat' split) <;> simp <;> done)
  | (repeat' (split <;> (try (rename_i heq; replace heq := (congrArg (fun x => (Prod.snd x).ctl) heq).symm; simp at heq)))
     all_goals (first | (simp; done) | (simp [*]; done)))

theorem execWindowInstance_ctl (entry : Fin 64) (s : State) (u : State)
    (h : execWindowInstance entry s = .next u) : u.ctl = s.ctl := by
  simp only [execWindowInstance, afterNegotiation, Host.Outcome.next.injEq] at h
  subst h
  first
  | (simp; done)
  | ((repeat' split) <;> simp <;> done)
  | (repeat' (split <;> (try (rename_i heq; replace heq := (congrArg (fun x => (Prod.snd x).ctl) heq).symm; simp at heq)))
     all_goals (first | (simp; done) | (simp [*]; done)))

theorem execPowerCapInstance_ctl (entry : Fin 64) (s : State) (u : State)
    (h : execPowerCapInstance entry s = .next u) : u.ctl = s.ctl := by
  simp only [execPowerCapInstance, afterNegotiation, Host.Outcome.next.injEq] at h
  subst h
  first
  | (simp; done)
  | ((repeat' split) <;> simp <;> done)
  | (repeat' (split <;> (try (rename_i heq; replace heq := (congrArg (fun x => (Prod.snd x).ctl) heq).symm; simp at heq)))
     all_goals (first | (simp; done) | (simp [*]; done)))

theorem execSignalInstance_ctl (entry : Fin 64) (s : State) (u : State)
    (h : execSignalInstance entry s = .next u) : u.ctl = s.ctl := by
  simp only [execSignalInstance, afterNegotiation, Host.Outcome.next.injEq] at h
  subst h
  first
  | (simp; done)
  | ((repeat' split) <;> simp <;> done)
  | (repeat' (split <;> (try (rename_i heq; replace heq := (congrArg (fun x => (Prod.snd x).ctl) heq).symm; simp at heq)))
     all_goals (first | (simp; done) | (simp [*]; done)))

theorem execMarginInstance_ctl (entry : Fin 64) (s : State) (u : State)
    (h : execMarginInstance entry s = .next u) : u.ctl = s.ctl := by
  simp only [execMarginInstance, afterNegotiation, Host.Outcome.next.injEq] at h
  subst h
  first
  | (simp; done)
  | ((repeat' split) <;> simp <;> done)
  | (repeat' (split <;> (try (rename_i heq; replace heq := (congrArg (fun x => (Prod.snd x).ctl) heq).symm; simp at heq)))
     all_goals (first | (simp; done) | (simp [*]; done)))

theorem execDataFrame_ctl (port : Fin 12) (f : Frame) (s : State) (u : State)
    (h : execDataFrame port f s = .next u) : u.ctl = s.ctl := by
  simp only [execDataFrame, afterNegotiation, Host.Outcome.next.injEq] at h
  subst h
  first
  | (simp; done)
  | ((repeat' split) <;> simp <;> done)
  | (repeat' (split <;> (try (rename_i heq; replace heq := (congrArg (fun x => (Prod.snd x).ctl) heq).symm; simp at heq)))
     all_goals (first | (simp; done) | (simp [*]; done)))

theorem execAckFrame_ctl (port : Fin 12) (f : Frame) (s : State) (u : State)
    (h : execAckFrame port f s = .next u) : u.ctl = s.ctl := by
  simp only [execAckFrame, afterNegotiation, Host.Outcome.next.injEq] at h
  subst h
  first
  | (simp; done)
  | ((repeat' split) <;> simp <;> done)
  | (repeat' (split <;> (try (rename_i heq; replace heq := (congrArg (fun x => (Prod.snd x).ctl) heq).symm; simp at heq)))
     all_goals (first | (simp; done) | (simp [*]; done)))

theorem execNakFrame_ctl (port : Fin 12) (f : Frame) (s : State) (u : State)
    (h : execNakFrame port f s = .next u) : u.ctl = s.ctl := by
  simp only [execNakFrame, afterNegotiation, Host.Outcome.next.injEq] at h
  subst h
  first
  | (simp; done)
  | ((repeat' split) <;> simp <;> done)
  | (repeat' (split <;> (try (rename_i heq; replace heq := (congrArg (fun x => (Prod.snd x).ctl) heq).symm; simp at heq)))
     all_goals (first | (simp; done) | (simp [*]; done)))

theorem execAckTimer_ctl (port : Fin 12) (mac : BitVec 48) (s : State) (u : State)
    (h : execAckTimer port mac s = .next u) : u.ctl = s.ctl := by
  simp only [execAckTimer, afterNegotiation, Host.Outcome.next.injEq] at h
  subst h
  first
  | (simp; done)
  | ((repeat' split) <;> simp <;> done)
  | (repeat' (split <;> (try (rename_i heq; replace heq := (congrArg (fun x => (Prod.snd x).ctl) heq).symm; simp at heq)))
     all_goals (first | (simp; done) | (simp [*]; done)))

theorem execResendTimer_ctl (port : Fin 12) (mac : BitVec 48) (s : State) (u : State)
    (h : execResendTimer port mac s = .next u) : u.ctl = s.ctl := by
  simp only [execResendTimer, afterNegotiation, Host.Outcome.next.injEq] at h
  subst h
  first
  | (simp; done)
  | ((repeat' split) <;> simp <;> done)
  | (repeat' (split <;> (try (rename_i heq; replace heq := (congrArg (fun x => (Prod.snd x).ctl) heq).symm; simp at heq)))
     all_goals (first | (simp; done) | (simp [*]; done)))

theorem execLinkTraining_ctl (port : Fin 12) (lanes : BitVec 8) (present : Bool) (s : State) (u : State)
    (h : execLinkTraining port lanes present s = .next u) : u.ctl = s.ctl := by
  simp only [execLinkTraining, afterNegotiation, Host.Outcome.next.injEq] at h
  subst h
  first
  | (simp; done)
  | ((repeat' split) <;> simp <;> done)
  | (repeat' (split <;> (try (rename_i heq; replace heq := (congrArg (fun x => (Prod.snd x).ctl) heq).symm; simp at heq)))
     all_goals (first | (simp; done) | (simp [*]; done)))

theorem execUpsettU1_ctl (s : State) (u : State)
    (h : execUpsettU1 s = .next u) : u.ctl = s.ctl := by
  simp only [execUpsettU1, afterNegotiation, Host.Outcome.next.injEq] at h
  subst h
  first
  | (simp; done)
  | ((repeat' split) <;> simp <;> done)
  | (repeat' (split <;> (try (rename_i heq; replace heq := (congrArg (fun x => (Prod.snd x).ctl) heq).symm; simp at heq)))
     all_goals (first | (simp; done) | (simp [*]; done)))

theorem execUpsettU2_ctl (s : State) (u : State)
    (h : execUpsettU2 s = .next u) : u.ctl = s.ctl := by
  simp only [execUpsettU2, afterNegotiation, Host.Outcome.next.injEq] at h
  subst h
  first
  | (simp; done)
  | ((repeat' split) <;> simp <;> done)
  | (repeat' (split <;> (try (rename_i heq; replace heq := (congrArg (fun x => (Prod.snd x).ctl) heq).symm; simp at heq)))
     all_goals (first | (simp; done) | (simp [*]; done)))

theorem execUpsettU3_ctl (d0 d1 : DieResult) (s : State) (u : State)
    (h : execUpsettU3 d0 d1 s = .next u) : u.ctl = s.ctl := by
  simp only [execUpsettU3, afterNegotiation, Host.Outcome.next.injEq] at h
  subst h
  first
  | (simp; done)
  | ((repeat' split) <;> simp <;> done)
  | (repeat' (split <;> (try (rename_i heq; replace heq := (congrArg (fun x => (Prod.snd x).ctl) heq).symm; simp at heq)))
     all_goals (first | (simp; done) | (simp [*]; done)))

theorem execUpsettU4_ctl (pair : Fin 6) (lo hi : StackResult) (s : State) (u : State)
    (h : execUpsettU4 pair lo hi s = .next u) : u.ctl = s.ctl := by
  simp only [execUpsettU4, afterNegotiation, Host.Outcome.next.injEq] at h
  subst h
  first
  | (simp; done)
  | ((repeat' split) <;> simp <;> done)
  | (repeat' (split <;> (try (rename_i heq; replace heq := (congrArg (fun x => (Prod.snd x).ctl) heq).symm; simp at heq)))
     all_goals (first | (simp; done) | (simp [*]; done)))

theorem execUpsettU5_ctl (s : State) (u : State)
    (h : execUpsettU5 s = .next u) : u.ctl = s.ctl := by
  simp only [execUpsettU5, afterNegotiation, Host.Outcome.next.injEq] at h
  subst h
  first
  | (simp; done)
  | ((repeat' split) <;> simp <;> done)
  | (repeat' (split <;> (try (rename_i heq; replace heq := (congrArg (fun x => (Prod.snd x).ctl) heq).symm; simp at heq)))
     all_goals (first | (simp; done) | (simp [*]; done)))

theorem execUpsettU6_ctl (s : State) (u : State)
    (h : execUpsettU6 s = .next u) : u.ctl = s.ctl := by
  simp only [execUpsettU6, afterNegotiation, Host.Outcome.next.injEq] at h
  subst h
  first
  | (simp; done)
  | ((repeat' split) <;> simp <;> done)
  | (repeat' (split <;> (try (rename_i heq; replace heq := (congrArg (fun x => (Prod.snd x).ctl) heq).symm; simp at heq)))
     all_goals (first | (simp; done) | (simp [*]; done)))

theorem execStageLimit_ctl (s : State) (u : State)
    (h : execStageLimit s = .next u) : u.ctl = s.ctl := by
  simp only [execStageLimit, afterNegotiation, Host.Outcome.next.injEq] at h
  subst h
  first
  | (simp; done)
  | ((repeat' split) <;> simp <;> done)
  | (repeat' (split <;> (try (rename_i heq; replace heq := (congrArg (fun x => (Prod.snd x).ctl) heq).symm; simp at heq)))
     all_goals (first | (simp; done) | (simp [*]; done)))

theorem execReducedService_ctl (s : State) (u : State)
    (h : execReducedService s = .next u) : u.ctl = s.ctl := by
  simp only [execReducedService, afterNegotiation, Host.Outcome.next.injEq] at h
  subst h
  first
  | (simp; done)
  | ((repeat' split) <;> simp <;> done)
  | (repeat' (split <;> (try (rename_i heq; replace heq := (congrArg (fun x => (Prod.snd x).ctl) heq).symm; simp at heq)))
     all_goals (first | (simp; done) | (simp [*]; done)))

theorem execTraceSummaryInterval_ctl (s : State) (u : State)
    (h : execTraceSummaryInterval s = .next u) : u.ctl = s.ctl := by
  simp only [execTraceSummaryInterval, afterNegotiation, Host.Outcome.next.injEq] at h
  subst h
  first
  | (simp; done)
  | ((repeat' split) <;> simp <;> done)
  | (repeat' (split <;> (try (rename_i heq; replace heq := (congrArg (fun x => (Prod.snd x).ctl) heq).symm; simp at heq)))
     all_goals (first | (simp; done) | (simp [*]; done)))

theorem execLedgerHourly_ctl (s : State) (u : State)
    (h : execLedgerHourly s = .next u) : u.ctl = s.ctl := by
  simp only [execLedgerHourly, afterNegotiation, Host.Outcome.next.injEq] at h
  subst h
  first
  | (simp; done)
  | ((repeat' split) <;> simp <;> done)
  | (repeat' (split <;> (try (rename_i heq; replace heq := (congrArg (fun x => (Prod.snd x).ctl) heq).symm; simp at heq)))
     all_goals (first | (simp; done) | (simp [*]; done)))

theorem execLedgerCompaction_ctl (s : State) (u : State)
    (h : execLedgerCompaction s = .next u) : u.ctl = s.ctl := by
  simp only [execLedgerCompaction, afterNegotiation, Host.Outcome.next.injEq] at h
  subst h
  first
  | (simp; done)
  | ((repeat' split) <;> simp <;> done)
  | (repeat' (split <;> (try (rename_i heq; replace heq := (congrArg (fun x => (Prod.snd x).ctl) heq).symm; simp at heq)))
     all_goals (first | (simp; done) | (simp [*]; done)))

theorem execGetVersion_ctl (m : Medium) (s : State) (u : State)
    (h : execGetVersion m s = .next u) : u.ctl = s.ctl := by
  simp only [execGetVersion, afterNegotiation, Host.Outcome.next.injEq] at h
  subst h
  first
  | (simp; done)
  | ((repeat' split) <;> simp <;> done)
  | (repeat' (split <;> (try (rename_i heq; replace heq := (congrArg (fun x => (Prod.snd x).ctl) heq).symm; simp at heq)))
     all_goals (first | (simp; done) | (simp [*]; done)))

theorem execGetCapabilities_ctl (m : Medium) (s : State) (u : State)
    (h : execGetCapabilities m s = .next u) : u.ctl = s.ctl := by
  simp only [execGetCapabilities, afterNegotiation, Host.Outcome.next.injEq] at h
  subst h
  first
  | (simp; done)
  | ((repeat' split) <;> simp <;> done)
  | (repeat' (split <;> (try (rename_i heq; replace heq := (congrArg (fun x => (Prod.snd x).ctl) heq).symm; simp at heq)))
     all_goals (first | (simp; done) | (simp [*]; done)))

theorem execNegotiateAlgorithms_ctl (m : Medium) (a : SpdmAlgorithms) (s : State) (u : State)
    (h : execNegotiateAlgorithms m a s = .next u) : u.ctl = s.ctl := by
  simp only [execNegotiateAlgorithms, afterNegotiation, Host.Outcome.next.injEq] at h
  subst h
  first
  | (simp; done)
  | ((repeat' split) <;> simp <;> done)
  | (repeat' (split <;> (try (rename_i heq; replace heq := (congrArg (fun x => (Prod.snd x).ctl) heq).symm; simp at heq)))
     all_goals (first | (simp; done) | (simp [*]; done)))

theorem execGetDigests_ctl (m : Medium) (s : State) (u : State)
    (h : execGetDigests m s = .next u) : u.ctl = s.ctl := by
  simp only [execGetDigests, afterNegotiation, Host.Outcome.next.injEq] at h
  subst h
  first
  | (simp; done)
  | ((repeat' split) <;> simp <;> done)
  | (repeat' (split <;> (try (rename_i heq; replace heq := (congrArg (fun x => (Prod.snd x).ctl) heq).symm; simp at heq)))
     all_goals (first | (simp; done) | (simp [*]; done)))

theorem execGetCertificate_ctl (m : Medium) (slot : Fin 8) (s : State) (u : State)
    (h : execGetCertificate m slot s = .next u) : u.ctl = s.ctl := by
  simp only [execGetCertificate, afterNegotiation, Host.Outcome.next.injEq] at h
  subst h
  first
  | (simp; done)
  | ((repeat' split) <;> simp <;> done)
  | (repeat' (split <;> (try (rename_i heq; replace heq := (congrArg (fun x => (Prod.snd x).ctl) heq).symm; simp at heq)))
     all_goals (first | (simp; done) | (simp [*]; done)))

theorem execChallenge_ctl (m : Medium) (slot : Fin 8) (s : State) (u : State)
    (h : execChallenge m slot s = .next u) : u.ctl = s.ctl := by
  simp only [execChallenge, afterNegotiation, Host.Outcome.next.injEq] at h
  subst h
  first
  | (simp; done)
  | ((repeat' split) <;> simp <;> done)
  | (repeat' (split <;> (try (rename_i heq; replace heq := (congrArg (fun x => (Prod.snd x).ctl) heq).symm; simp at heq)))
     all_goals (first | (simp; done) | (simp [*]; done)))

theorem execGetMeasurements_ctl (m : Medium) (index : BitVec 8) (s : State) (u : State)
    (h : execGetMeasurements m index s = .next u) : u.ctl = s.ctl := by
  simp only [execGetMeasurements, afterNegotiation, Host.Outcome.next.injEq] at h
  subst h
  first
  | (simp; done)
  | ((repeat' split) <;> simp <;> done)
  | (repeat' (split <;> (try (rename_i heq; replace heq := (congrArg (fun x => (Prod.snd x).ctl) heq).symm; simp at heq)))
     all_goals (first | (simp; done) | (simp [*]; done)))

theorem execKeyExchange_ctl (m : Medium) (id : BitVec 32) (r : Requester) (s : State) (u : State)
    (h : execKeyExchange m id r s = .next u) : u.ctl = s.ctl := by
  simp only [execKeyExchange, afterNegotiation, Host.Outcome.next.injEq] at h
  subst h
  first
  | (simp; done)
  | ((repeat' split) <;> simp <;> done)
  | (repeat' (split <;> (try (rename_i heq; replace heq := (congrArg (fun x => (Prod.snd x).ctl) heq).symm; simp at heq)))
     all_goals (first | (simp; done) | (simp [*]; done)))

theorem execFinish_ctl (id : BitVec 32) (verified : Bool) (s : State) (u : State)
    (h : execFinish id verified s = .next u) : u.ctl = s.ctl := by
  simp only [execFinish, afterNegotiation, Host.Outcome.next.injEq] at h
  subst h
  first
  | (simp; done)
  | ((repeat' split) <;> simp <;> done)
  | (repeat' (split <;> (try (rename_i heq; replace heq := (congrArg (fun x => (Prod.snd x).ctl) heq).symm; simp at heq)))
     all_goals (first | (simp; done) | (simp [*]; done)))

theorem execSpdmHeartbeat_ctl (id : BitVec 32) (s : State) (u : State)
    (h : execSpdmHeartbeat id s = .next u) : u.ctl = s.ctl := by
  simp only [execSpdmHeartbeat, afterNegotiation, Host.Outcome.next.injEq] at h
  subst h
  first
  | (simp; done)
  | ((repeat' split) <;> simp <;> done)
  | (repeat' (split <;> (try (rename_i heq; replace heq := (congrArg (fun x => (Prod.snd x).ctl) heq).symm; simp at heq)))
     all_goals (first | (simp; done) | (simp [*]; done)))

theorem execSpdmHeartbeatMissed_ctl (id : BitVec 32) (s : State) (u : State)
    (h : execSpdmHeartbeatMissed id s = .next u) : u.ctl = s.ctl := by
  simp only [execSpdmHeartbeatMissed, afterNegotiation, Host.Outcome.next.injEq] at h
  subst h
  first
  | (simp; done)
  | ((repeat' split) <;> simp <;> done)
  | (repeat' (split <;> (try (rename_i heq; replace heq := (congrArg (fun x => (Prod.snd x).ctl) heq).symm; simp at heq)))
     all_goals (first | (simp; done) | (simp [*]; done)))

theorem execKeyUpdate_ctl (id : BitVec 32) (s : State) (u : State)
    (h : execKeyUpdate id s = .next u) : u.ctl = s.ctl := by
  simp only [execKeyUpdate, afterNegotiation, Host.Outcome.next.injEq] at h
  subst h
  first
  | (simp; done)
  | ((repeat' split) <;> simp <;> done)
  | (repeat' (split <;> (try (rename_i heq; replace heq := (congrArg (fun x => (Prod.snd x).ctl) heq).symm; simp at heq)))
     all_goals (first | (simp; done) | (simp [*]; done)))

theorem execEndSession_ctl (id : BitVec 32) (s : State) (u : State)
    (h : execEndSession id s = .next u) : u.ctl = s.ctl := by
  simp only [execEndSession, afterNegotiation, Host.Outcome.next.injEq] at h
  subst h
  first
  | (simp; done)
  | ((repeat' split) <;> simp <;> done)
  | (repeat' (split <;> (try (rename_i heq; replace heq := (congrArg (fun x => (Prod.snd x).ctl) heq).symm; simp at heq)))
     all_goals (first | (simp; done) | (simp [*]; done)))

theorem execMctpControl_ctl (c : MctpControl) (s : State) (u : State)
    (h : execMctpControl c s = .next u) : u.ctl = s.ctl := by
  simp only [execMctpControl, afterNegotiation, Host.Outcome.next.injEq] at h
  subst h
  first
  | (simp; done)
  | ((repeat' split) <;> simp <;> done)
  | (repeat' (split <;> (try (rename_i heq; replace heq := (congrArg (fun x => (Prod.snd x).ctl) heq).symm; simp at heq)))
     all_goals (first | (simp; done) | (simp [*]; done)))

theorem execGetPdrRepositoryInfo_ctl (m : Medium) (s : State) (u : State)
    (h : execGetPdrRepositoryInfo m s = .next u) : u.ctl = s.ctl := by
  simp only [execGetPdrRepositoryInfo, afterNegotiation, Host.Outcome.next.injEq] at h
  subst h
  first
  | (simp; done)
  | ((repeat' split) <;> simp <;> done)
  | (repeat' (split <;> (try (rename_i heq; replace heq := (congrArg (fun x => (Prod.snd x).ctl) heq).symm; simp at heq)))
     all_goals (first | (simp; done) | (simp [*]; done)))

theorem execGetPdr_ctl (m : Medium) (record : Nat) (s : State) (u : State)
    (h : execGetPdr m record s = .next u) : u.ctl = s.ctl := by
  simp only [execGetPdr, afterNegotiation, Host.Outcome.next.injEq] at h
  subst h
  first
  | (simp; done)
  | ((repeat' split) <;> simp <;> done)
  | (repeat' (split <;> (try (rename_i heq; replace heq := (congrArg (fun x => (Prod.snd x).ctl) heq).symm; simp at heq)))
     all_goals (first | (simp; done) | (simp [*]; done)))

theorem execGetSensorReading_ctl (m : Medium) (sensor : Nat) (s : State) (u : State)
    (h : execGetSensorReading m sensor s = .next u) : u.ctl = s.ctl := by
  simp only [execGetSensorReading, afterNegotiation, Host.Outcome.next.injEq] at h
  subst h
  first
  | (simp; done)
  | ((repeat' split) <;> simp <;> done)
  | (repeat' (split <;> (try (rename_i heq; replace heq := (congrArg (fun x => (Prod.snd x).ctl) heq).symm; simp at heq)))
     all_goals (first | (simp; done) | (simp [*]; done)))

theorem execGetStateSensorReadings_ctl (m : Medium) (sensor : Nat) (s : State) (u : State)
    (h : execGetStateSensorReadings m sensor s = .next u) : u.ctl = s.ctl := by
  simp only [execGetStateSensorReadings, afterNegotiation, Host.Outcome.next.injEq] at h
  subst h
  first
  | (simp; done)
  | ((repeat' split) <;> simp <;> done)
  | (repeat' (split <;> (try (rename_i heq; replace heq := (congrArg (fun x => (Prod.snd x).ctl) heq).symm; simp at heq)))
     all_goals (first | (simp; done) | (simp [*]; done)))

theorem execSetEventReceiver_ctl (m : Medium) (eid : BitVec 8) (s : State) (u : State)
    (h : execSetEventReceiver m eid s = .next u) : u.ctl = s.ctl := by
  simp only [execSetEventReceiver, afterNegotiation, Host.Outcome.next.injEq] at h
  subst h
  first
  | (simp; done)
  | ((repeat' split) <;> simp <;> done)
  | (repeat' (split <;> (try (rename_i heq; replace heq := (congrArg (fun x => (Prod.snd x).ctl) heq).symm; simp at heq)))
     all_goals (first | (simp; done) | (simp [*]; done)))

theorem execOpcodeUnknown_ctl (q : Fin 64) (opcode : BitVec 8) (p : Packet) (s : State) (u : State)
    (h : execOpcodeUnknown q opcode p s = .next u) : u.ctl = s.ctl := by
  simp only [execOpcodeUnknown, afterNegotiation, Host.Outcome.next.injEq] at h
  subst h
  first
  | (simp; done)
  | ((repeat' split) <;> simp <;> done)
  | (repeat' (split <;> (try (rename_i heq; replace heq := (congrArg (fun x => (Prod.snd x).ctl) heq).symm; simp at heq)))
     all_goals (first | (simp; done) | (simp [*]; done)))

theorem execPacketUnreadable_ctl (q : Fin 64) (why : PacketLoss) (s : State) (u : State)
    (h : execPacketUnreadable q why s = .next u) : u.ctl = s.ctl := by
  simp only [execPacketUnreadable, afterNegotiation, Host.Outcome.next.injEq] at h
  subst h
  first
  | (simp; done)
  | ((repeat' split) <;> simp <;> done)
  | (repeat' (split <;> (try (rename_i heq; replace heq := (congrArg (fun x => (Prod.snd x).ctl) heq).symm; simp at heq)))
     all_goals (first | (simp; done) | (simp [*]; done)))

theorem execSessionTransportFailure_ctl (id : BitVec 32) (s : State) (u : State)
    (h : execSessionTransportFailure id s = .next u) : u.ctl = s.ctl := by
  simp only [execSessionTransportFailure, afterNegotiation, Host.Outcome.next.injEq] at h
  subst h
  first
  | (simp; done)
  | ((repeat' split) <;> simp <;> done)
  | (repeat' (split <;> (try (rename_i heq; replace heq := (congrArg (fun x => (Prod.snd x).ctl) heq).symm; simp at heq)))
     all_goals (first | (simp; done) | (simp [*]; done)))

theorem execLinkPortDown_ctl (port : Fin 12) (lanes : BitVec 8) (s : State) (u : State)
    (h : execLinkPortDown port lanes s = .next u) : u.ctl = s.ctl := by
  simp only [execLinkPortDown, afterNegotiation, Host.Outcome.next.injEq] at h
  subst h
  first
  | (simp; done)
  | ((repeat' split) <;> simp <;> done)
  | (repeat' (split <;> (try (rename_i heq; replace heq := (congrArg (fun x => (Prod.snd x).ctl) heq).symm; simp at heq)))
     all_goals (first | (simp; done) | (simp [*]; done)))

theorem execLeaveNotice_ctl (seat : Nat) (s : State) (u : State)
    (h : execLeaveNotice seat s = .next u) : u.ctl = s.ctl := by
  simp only [execLeaveNotice, afterNegotiation, Host.Outcome.next.injEq] at h
  subst h
  first
  | (simp; done)
  | ((repeat' split) <;> simp <;> done)
  | (repeat' (split <;> (try (rename_i heq; replace heq := (congrArg (fun x => (Prod.snd x).ctl) heq).symm; simp at heq)))
     all_goals (first | (simp; done) | (simp [*]; done)))

theorem execLostNotice_ctl (seat : Nat) (s : State) (u : State)
    (h : execLostNotice seat s = .next u) : u.ctl = s.ctl := by
  simp only [execLostNotice, afterNegotiation, Host.Outcome.next.injEq] at h
  subst h
  first
  | (simp; done)
  | ((repeat' split) <;> simp <;> done)
  | (repeat' (split <;> (try (rename_i heq; replace heq := (congrArg (fun x => (Prod.snd x).ctl) heq).symm; simp at heq)))
     all_goals (first | (simp; done) | (simp [*]; done)))

theorem execCkptDoneReport_ctl (seat : Nat) (round : BitVec 32) (s : State) (u : State)
    (h : execCkptDoneReport seat round s = .next u) : u.ctl = s.ctl := by
  simp only [execCkptDoneReport, afterNegotiation, Host.Outcome.next.injEq] at h
  subst h
  first
  | (simp; done)
  | ((repeat' split) <;> simp <;> done)
  | (repeat' (split <;> (try (rename_i heq; replace heq := (congrArg (fun x => (Prod.snd x).ctl) heq).symm; simp at heq)))
     all_goals (first | (simp; done) | (simp [*]; done)))

theorem execFollowUp_ctl (port : Fin 12) (id : PtpId) (origin : Nat) (s : State) (u : State)
    (h : execFollowUp port id origin s = .next u) : u.ctl = s.ctl := by
  simp only [execFollowUp, afterNegotiation, Host.Outcome.next.injEq] at h
  subst h
  first
  | (simp; done)
  | ((repeat' split) <;> simp <;> done)
  | (repeat' (split <;> (try (rename_i heq; replace heq := (congrArg (fun x => (Prod.snd x).ctl) heq).symm; simp at heq)))
     all_goals (first | (simp; done) | (simp [*]; done)))

theorem execDelayReqInterval_ctl (port : Fin 12) (s : State) (u : State)
    (h : execDelayReqInterval port s = .next u) : u.ctl = s.ctl := by
  simp only [execDelayReqInterval, afterNegotiation, Host.Outcome.next.injEq] at h
  subst h
  first
  | (simp; done)
  | ((repeat' split) <;> simp <;> done)
  | (repeat' (split <;> (try (rename_i heq; replace heq := (congrArg (fun x => (Prod.snd x).ctl) heq).symm; simp at heq)))
     all_goals (first | (simp; done) | (simp [*]; done)))

theorem execAnnounceInterval_ctl (port : Fin 12) (s : State) (u : State)
    (h : execAnnounceInterval port s = .next u) : u.ctl = s.ctl := by
  simp only [execAnnounceInterval, afterNegotiation, Host.Outcome.next.injEq] at h
  subst h
  first
  | (simp; done)
  | ((repeat' split) <;> simp <;> done)
  | (repeat' (split <;> (try (rename_i heq; replace heq := (congrArg (fun x => (Prod.snd x).ctl) heq).symm; simp at heq)))
     all_goals (first | (simp; done) | (simp [*]; done)))

end Sys2Proof.Machine
end

