-- ==== Sys2Proof/Laws/State.lean ====
section
/-! SUPPORT. What each named update of the state leaves in each field. -/

namespace Sys2Proof.Machine

/-! ### setQueue -/

@[simp] theorem setQueue_pending (s : State) (q : Nat) (v : Queue) : (s.setQueue q v).pending = s.pending := rfl
@[simp] theorem setQueue_freeCtr (s : State) (q : Nat) (v : Queue) : (s.setQueue q v).freeCtr = s.freeCtr := rfl
@[simp] theorem setQueue_pins (s : State) (q : Nat) (v : Queue) : (s.setQueue q v).pins = s.pins := rfl
@[simp] theorem setQueue_id (s : State) (q : Nat) (v : Queue) : (s.setQueue q v).id = s.id := rfl
@[simp] theorem setQueue_ups (s : State) (q : Nat) (v : Queue) : (s.setQueue q v).ups = s.ups := rfl
@[simp] theorem setQueue_que (s : State) (q : Nat) (v : Queue) :
    (s.setQueue q v).que = { s.que with queues := tset {} s.que.queues q v } := rfl
@[simp] theorem setQueue_seq (s : State) (q : Nat) (v : Queue) : (s.setQueue q v).seq = s.seq := rfl
@[simp] theorem setQueue_flight (s : State) (q : Nat) (v : Queue) : (s.setQueue q v).flight = s.flight := rfl
@[simp] theorem setQueue_nextId (s : State) (q : Nat) (v : Queue) : (s.setQueue q v).nextId = s.nextId := rfl
@[simp] theorem setQueue_store (s : State) (q : Nat) (v : Queue) : (s.setQueue q v).store = s.store := rfl
@[simp] theorem setQueue_mem (s : State) (q : Nat) (v : Queue) : (s.setQueue q v).mem = s.mem := rfl
@[simp] theorem setQueue_plc (s : State) (q : Nat) (v : Queue) : (s.setQueue q v).plc = s.plc := rfl
@[simp] theorem setQueue_tns (s : State) (q : Nat) (v : Queue) : (s.setQueue q v).tns = s.tns := rfl
@[simp] theorem setQueue_coil (s : State) (q : Nat) (v : Queue) : (s.setQueue q v).coil = s.coil := rfl
@[simp] theorem setQueue_tim (s : State) (q : Nat) (v : Queue) : (s.setQueue q v).tim = s.tim := rfl
@[simp] theorem setQueue_rim (s : State) (q : Nat) (v : Queue) : (s.setQueue q v).rim = s.rim := rfl
@[simp] theorem setQueue_sched (s : State) (q : Nat) (v : Queue) : (s.setQueue q v).sched = s.sched := rfl
@[simp] theorem setQueue_pwr (s : State) (q : Nat) (v : Queue) : (s.setQueue q v).pwr = s.pwr := rfl
@[simp] theorem setQueue_lnk (s : State) (q : Nat) (v : Queue) : (s.setQueue q v).lnk = s.lnk := rfl
@[simp] theorem setQueue_cnt (s : State) (q : Nat) (v : Queue) : (s.setQueue q v).cnt = s.cnt := rfl
@[simp] theorem setQueue_trc (s : State) (q : Nat) (v : Queue) : (s.setQueue q v).trc = s.trc := rfl
@[simp] theorem setQueue_lgr (s : State) (q : Nat) (v : Queue) : (s.setQueue q v).lgr = s.lgr := rfl
@[simp] theorem setQueue_sec (s : State) (q : Nat) (v : Queue) : (s.setQueue q v).sec = s.sec := rfl
@[simp] theorem setQueue_mctp (s : State) (q : Nat) (v : Queue) : (s.setQueue q v).mctp = s.mctp := rfl
@[simp] theorem setQueue_out (s : State) (q : Nat) (v : Queue) : (s.setQueue q v).out = s.out := rfl

/-! ### setStack -/

@[simp] theorem setStack_pending (s : State) (k : Nat) (v : Stack) : (s.setStack k v).pending = s.pending := rfl
@[simp] theorem setStack_freeCtr (s : State) (k : Nat) (v : Stack) : (s.setStack k v).freeCtr = s.freeCtr := rfl
@[simp] theorem setStack_pins (s : State) (k : Nat) (v : Stack) : (s.setStack k v).pins = s.pins := rfl
@[simp] theorem setStack_id (s : State) (k : Nat) (v : Stack) : (s.setStack k v).id = s.id := rfl
@[simp] theorem setStack_ups (s : State) (k : Nat) (v : Stack) : (s.setStack k v).ups = s.ups := rfl
@[simp] theorem setStack_que (s : State) (k : Nat) (v : Stack) : (s.setStack k v).que = s.que := rfl
@[simp] theorem setStack_seq (s : State) (k : Nat) (v : Stack) : (s.setStack k v).seq = s.seq := rfl
@[simp] theorem setStack_flight (s : State) (k : Nat) (v : Stack) : (s.setStack k v).flight = s.flight := rfl
@[simp] theorem setStack_nextId (s : State) (k : Nat) (v : Stack) : (s.setStack k v).nextId = s.nextId := rfl
@[simp] theorem setStack_store (s : State) (k : Nat) (v : Stack) : (s.setStack k v).store = s.store := rfl
@[simp] theorem setStack_mem (s : State) (k : Nat) (v : Stack) :
    (s.setStack k v).mem = { s.mem with stackTab := tset {} s.mem.stackTab k v } := rfl
@[simp] theorem setStack_plc (s : State) (k : Nat) (v : Stack) : (s.setStack k v).plc = s.plc := rfl
@[simp] theorem setStack_tns (s : State) (k : Nat) (v : Stack) : (s.setStack k v).tns = s.tns := rfl
@[simp] theorem setStack_coil (s : State) (k : Nat) (v : Stack) : (s.setStack k v).coil = s.coil := rfl
@[simp] theorem setStack_tim (s : State) (k : Nat) (v : Stack) : (s.setStack k v).tim = s.tim := rfl
@[simp] theorem setStack_rim (s : State) (k : Nat) (v : Stack) : (s.setStack k v).rim = s.rim := rfl
@[simp] theorem setStack_sched (s : State) (k : Nat) (v : Stack) : (s.setStack k v).sched = s.sched := rfl
@[simp] theorem setStack_pwr (s : State) (k : Nat) (v : Stack) : (s.setStack k v).pwr = s.pwr := rfl
@[simp] theorem setStack_lnk (s : State) (k : Nat) (v : Stack) : (s.setStack k v).lnk = s.lnk := rfl
@[simp] theorem setStack_cnt (s : State) (k : Nat) (v : Stack) : (s.setStack k v).cnt = s.cnt := rfl
@[simp] theorem setStack_trc (s : State) (k : Nat) (v : Stack) : (s.setStack k v).trc = s.trc := rfl
@[simp] theorem setStack_lgr (s : State) (k : Nat) (v : Stack) : (s.setStack k v).lgr = s.lgr := rfl
@[simp] theorem setStack_sec (s : State) (k : Nat) (v : Stack) : (s.setStack k v).sec = s.sec := rfl
@[simp] theorem setStack_mctp (s : State) (k : Nat) (v : Stack) : (s.setStack k v).mctp = s.mctp := rfl
@[simp] theorem setStack_out (s : State) (k : Nat) (v : Stack) : (s.setStack k v).out = s.out := rfl

/-! ### setPort -/

@[simp] theorem setPort_pending (s : State) (p : Nat) (v : Port) : (s.setPort p v).pending = s.pending := rfl
@[simp] theorem setPort_freeCtr (s : State) (p : Nat) (v : Port) : (s.setPort p v).freeCtr = s.freeCtr := rfl
@[simp] theorem setPort_pins (s : State) (p : Nat) (v : Port) : (s.setPort p v).pins = s.pins := rfl
@[simp] theorem setPort_id (s : State) (p : Nat) (v : Port) : (s.setPort p v).id = s.id := rfl
@[simp] theorem setPort_ups (s : State) (p : Nat) (v : Port) : (s.setPort p v).ups = s.ups := rfl
@[simp] theorem setPort_que (s : State) (p : Nat) (v : Port) : (s.setPort p v).que = s.que := rfl
@[simp] theorem setPort_seq (s : State) (p : Nat) (v : Port) : (s.setPort p v).seq = s.seq := rfl
@[simp] theorem setPort_flight (s : State) (p : Nat) (v : Port) : (s.setPort p v).flight = s.flight := rfl
@[simp] theorem setPort_nextId (s : State) (p : Nat) (v : Port) : (s.setPort p v).nextId = s.nextId := rfl
@[simp] theorem setPort_store (s : State) (p : Nat) (v : Port) : (s.setPort p v).store = s.store := rfl
@[simp] theorem setPort_mem (s : State) (p : Nat) (v : Port) : (s.setPort p v).mem = s.mem := rfl
@[simp] theorem setPort_plc (s : State) (p : Nat) (v : Port) : (s.setPort p v).plc = s.plc := rfl
@[simp] theorem setPort_tns (s : State) (p : Nat) (v : Port) : (s.setPort p v).tns = s.tns := rfl
@[simp] theorem setPort_coil (s : State) (p : Nat) (v : Port) : (s.setPort p v).coil = s.coil := rfl
@[simp] theorem setPort_tim (s : State) (p : Nat) (v : Port) : (s.setPort p v).tim = s.tim := rfl
@[simp] theorem setPort_rim (s : State) (p : Nat) (v : Port) : (s.setPort p v).rim = s.rim := rfl
@[simp] theorem setPort_sched (s : State) (p : Nat) (v : Port) : (s.setPort p v).sched = s.sched := rfl
@[simp] theorem setPort_pwr (s : State) (p : Nat) (v : Port) : (s.setPort p v).pwr = s.pwr := rfl
@[simp] theorem setPort_lnk (s : State) (p : Nat) (v : Port) :
    (s.setPort p v).lnk = { s.lnk with ports := tset {} s.lnk.ports p v } := rfl
@[simp] theorem setPort_cnt (s : State) (p : Nat) (v : Port) : (s.setPort p v).cnt = s.cnt := rfl
@[simp] theorem setPort_trc (s : State) (p : Nat) (v : Port) : (s.setPort p v).trc = s.trc := rfl
@[simp] theorem setPort_lgr (s : State) (p : Nat) (v : Port) : (s.setPort p v).lgr = s.lgr := rfl
@[simp] theorem setPort_sec (s : State) (p : Nat) (v : Port) : (s.setPort p v).sec = s.sec := rfl
@[simp] theorem setPort_mctp (s : State) (p : Nat) (v : Port) : (s.setPort p v).mctp = s.mctp := rfl
@[simp] theorem setPort_out (s : State) (p : Nat) (v : Port) : (s.setPort p v).out = s.out := rfl

/-! ### tick -/

@[simp] theorem tick_pending (s : State) : (tick s).pending = s.pending := rfl
@[simp] theorem tick_freeCtr (s : State) :
    (tick s).freeCtr = s.freeCtr + 1 := rfl
@[simp] theorem tick_pins (s : State) : (tick s).pins = s.pins := rfl
@[simp] theorem tick_id (s : State) : (tick s).id = s.id := rfl
@[simp] theorem tick_ups (s : State) : (tick s).ups = s.ups := rfl
@[simp] theorem tick_que (s : State) : (tick s).que = s.que := rfl
@[simp] theorem tick_seq (s : State) : (tick s).seq = s.seq := rfl
@[simp] theorem tick_flight (s : State) : (tick s).flight = s.flight := rfl
@[simp] theorem tick_nextId (s : State) : (tick s).nextId = s.nextId := rfl
@[simp] theorem tick_store (s : State) : (tick s).store = s.store := rfl
@[simp] theorem tick_mem (s : State) : (tick s).mem = s.mem := rfl
@[simp] theorem tick_plc (s : State) : (tick s).plc = s.plc := rfl
@[simp] theorem tick_tns (s : State) : (tick s).tns = s.tns := rfl
@[simp] theorem tick_coil (s : State) : (tick s).coil = s.coil := rfl
@[simp] theorem tick_tim (s : State) : (tick s).tim = s.tim := rfl
@[simp] theorem tick_rim (s : State) : (tick s).rim = s.rim := rfl
@[simp] theorem tick_sched (s : State) : (tick s).sched = s.sched := rfl
@[simp] theorem tick_pwr (s : State) : (tick s).pwr = s.pwr := rfl
@[simp] theorem tick_lnk (s : State) : (tick s).lnk = s.lnk := rfl
@[simp] theorem tick_cnt (s : State) : (tick s).cnt = s.cnt := rfl
@[simp] theorem tick_trc (s : State) : (tick s).trc = s.trc := rfl
@[simp] theorem tick_lgr (s : State) : (tick s).lgr = s.lgr := rfl
@[simp] theorem tick_sec (s : State) : (tick s).sec = s.sec := rfl
@[simp] theorem tick_mctp (s : State) : (tick s).mctp = s.mctp := rfl
@[simp] theorem tick_out (s : State) : (tick s).out = s.out := rfl

/-! ### count -/

@[simp] theorem count_pending (s : State) (a b c n : Nat) : (count a b c n s).pending = s.pending := rfl
@[simp] theorem count_freeCtr (s : State) (a b c n : Nat) : (count a b c n s).freeCtr = s.freeCtr := rfl
@[simp] theorem count_pins (s : State) (a b c n : Nat) : (count a b c n s).pins = s.pins := rfl
@[simp] theorem count_id (s : State) (a b c n : Nat) : (count a b c n s).id = s.id := rfl
@[simp] theorem count_ups (s : State) (a b c n : Nat) : (count a b c n s).ups = s.ups := rfl
@[simp] theorem count_que (s : State) (a b c n : Nat) : (count a b c n s).que = s.que := rfl
@[simp] theorem count_seq (s : State) (a b c n : Nat) : (count a b c n s).seq = s.seq := rfl
@[simp] theorem count_flight (s : State) (a b c n : Nat) : (count a b c n s).flight = s.flight := rfl
@[simp] theorem count_nextId (s : State) (a b c n : Nat) : (count a b c n s).nextId = s.nextId := rfl
@[simp] theorem count_store (s : State) (a b c n : Nat) : (count a b c n s).store = s.store := rfl
@[simp] theorem count_mem (s : State) (a b c n : Nat) : (count a b c n s).mem = s.mem := rfl
@[simp] theorem count_plc (s : State) (a b c n : Nat) : (count a b c n s).plc = s.plc := rfl
@[simp] theorem count_tns (s : State) (a b c n : Nat) : (count a b c n s).tns = s.tns := rfl
@[simp] theorem count_coil (s : State) (a b c n : Nat) : (count a b c n s).coil = s.coil := rfl
@[simp] theorem count_tim (s : State) (a b c n : Nat) : (count a b c n s).tim = s.tim := rfl
@[simp] theorem count_rim (s : State) (a b c n : Nat) : (count a b c n s).rim = s.rim := rfl
@[simp] theorem count_sched (s : State) (a b c n : Nat) : (count a b c n s).sched = s.sched := rfl
@[simp] theorem count_pwr (s : State) (a b c n : Nat) : (count a b c n s).pwr = s.pwr := rfl
@[simp] theorem count_lnk (s : State) (a b c n : Nat) : (count a b c n s).lnk = s.lnk := rfl
@[simp] theorem count_cnt (s : State) (a b c n : Nat) :
    (count a b c n s).cnt = { s.cnt with counters := tmod 0 s.cnt.counters (counterKey a b c) fun x => (x + n) % (2 ^ 48 * counterUnit a c) } := rfl
@[simp] theorem count_trc (s : State) (a b c n : Nat) : (count a b c n s).trc = s.trc := rfl
@[simp] theorem count_lgr (s : State) (a b c n : Nat) : (count a b c n s).lgr = s.lgr := rfl
@[simp] theorem count_sec (s : State) (a b c n : Nat) : (count a b c n s).sec = s.sec := rfl
@[simp] theorem count_mctp (s : State) (a b c n : Nat) : (count a b c n s).mctp = s.mctp := rfl
@[simp] theorem count_out (s : State) (a b c n : Nat) : (count a b c n s).out = s.out := rfl

/-! ### append -/

@[simp] theorem append_pending (s : State) (t : Nat) (p : List Byte) (e : Effect) : (append t p e s).pending = s.pending := rfl
@[simp] theorem append_freeCtr (s : State) (t : Nat) (p : List Byte) (e : Effect) : (append t p e s).freeCtr = s.freeCtr := rfl
@[simp] theorem append_pins (s : State) (t : Nat) (p : List Byte) (e : Effect) : (append t p e s).pins = s.pins := rfl
@[simp] theorem append_id (s : State) (t : Nat) (p : List Byte) (e : Effect) : (append t p e s).id = s.id := rfl
@[simp] theorem append_ups (s : State) (t : Nat) (p : List Byte) (e : Effect) : (append t p e s).ups = s.ups := rfl
@[simp] theorem append_que (s : State) (t : Nat) (p : List Byte) (e : Effect) : (append t p e s).que = s.que := rfl
@[simp] theorem append_seq (s : State) (t : Nat) (p : List Byte) (e : Effect) : (append t p e s).seq = s.seq := rfl
@[simp] theorem append_flight (s : State) (t : Nat) (p : List Byte) (e : Effect) : (append t p e s).flight = s.flight := rfl
@[simp] theorem append_nextId (s : State) (t : Nat) (p : List Byte) (e : Effect) : (append t p e s).nextId = s.nextId := rfl
@[simp] theorem append_store (s : State) (t : Nat) (p : List Byte) (e : Effect) : (append t p e s).store = s.store := rfl
@[simp] theorem append_mem (s : State) (t : Nat) (p : List Byte) (e : Effect) : (append t p e s).mem = s.mem := rfl
@[simp] theorem append_plc (s : State) (t : Nat) (p : List Byte) (e : Effect) : (append t p e s).plc = s.plc := rfl
@[simp] theorem append_tns (s : State) (t : Nat) (p : List Byte) (e : Effect) : (append t p e s).tns = s.tns := rfl
@[simp] theorem append_coil (s : State) (t : Nat) (p : List Byte) (e : Effect) : (append t p e s).coil = s.coil := rfl
@[simp] theorem append_tim (s : State) (t : Nat) (p : List Byte) (e : Effect) : (append t p e s).tim = s.tim := rfl
@[simp] theorem append_rim (s : State) (t : Nat) (p : List Byte) (e : Effect) : (append t p e s).rim = s.rim := rfl
@[simp] theorem append_sched (s : State) (t : Nat) (p : List Byte) (e : Effect) : (append t p e s).sched = s.sched := rfl
@[simp] theorem append_pwr (s : State) (t : Nat) (p : List Byte) (e : Effect) : (append t p e s).pwr = s.pwr := rfl
@[simp] theorem append_lnk (s : State) (t : Nat) (p : List Byte) (e : Effect) : (append t p e s).lnk = s.lnk := rfl
@[simp] theorem append_cnt (s : State) (t : Nat) (p : List Byte) (e : Effect) : (append t p e s).cnt = s.cnt := rfl
@[simp] theorem append_trc (s : State) (t : Nat) (p : List Byte) (e : Effect) : (append t p e s).trc = s.trc := rfl
@[simp] theorem append_sec (s : State) (t : Nat) (p : List Byte) (e : Effect) : (append t p e s).sec = s.sec := rfl
@[simp] theorem append_mctp (s : State) (t : Nat) (p : List Byte) (e : Effect) : (append t p e s).mctp = s.mctp := rfl
@[simp] theorem append_out (s : State) (t : Nat) (p : List Byte) (e : Effect) : (append t p e s).out = s.out := rfl

/-! ### hostWrite -/

@[simp] theorem hostWrite_pending (s : State) (a : Nat) (b : List Byte) : (hostWrite a b s).pending = s.pending := rfl
@[simp] theorem hostWrite_freeCtr (s : State) (a : Nat) (b : List Byte) : (hostWrite a b s).freeCtr = s.freeCtr := rfl
@[simp] theorem hostWrite_pins (s : State) (a : Nat) (b : List Byte) : (hostWrite a b s).pins = s.pins := rfl
@[simp] theorem hostWrite_id (s : State) (a : Nat) (b : List Byte) : (hostWrite a b s).id = s.id := rfl
@[simp] theorem hostWrite_ups (s : State) (a : Nat) (b : List Byte) : (hostWrite a b s).ups = s.ups := rfl
@[simp] theorem hostWrite_que (s : State) (a : Nat) (b : List Byte) : (hostWrite a b s).que = s.que := rfl
@[simp] theorem hostWrite_seq (s : State) (a : Nat) (b : List Byte) : (hostWrite a b s).seq = s.seq := rfl
@[simp] theorem hostWrite_flight (s : State) (a : Nat) (b : List Byte) : (hostWrite a b s).flight = s.flight := rfl
@[simp] theorem hostWrite_nextId (s : State) (a : Nat) (b : List Byte) : (hostWrite a b s).nextId = s.nextId := rfl
@[simp] theorem hostWrite_store (s : State) (a : Nat) (b : List Byte) : (hostWrite a b s).store = s.store := rfl
@[simp] theorem hostWrite_mem (s : State) (a : Nat) (b : List Byte) : (hostWrite a b s).mem = s.mem := rfl
@[simp] theorem hostWrite_plc (s : State) (a : Nat) (b : List Byte) : (hostWrite a b s).plc = s.plc := rfl
@[simp] theorem hostWrite_tns (s : State) (a : Nat) (b : List Byte) : (hostWrite a b s).tns = s.tns := rfl
@[simp] theorem hostWrite_coil (s : State) (a : Nat) (b : List Byte) : (hostWrite a b s).coil = s.coil := rfl
@[simp] theorem hostWrite_tim (s : State) (a : Nat) (b : List Byte) : (hostWrite a b s).tim = s.tim := rfl
@[simp] theorem hostWrite_rim (s : State) (a : Nat) (b : List Byte) : (hostWrite a b s).rim = s.rim := rfl
@[simp] theorem hostWrite_sched (s : State) (a : Nat) (b : List Byte) : (hostWrite a b s).sched = s.sched := rfl
@[simp] theorem hostWrite_pwr (s : State) (a : Nat) (b : List Byte) : (hostWrite a b s).pwr = s.pwr := rfl
@[simp] theorem hostWrite_lnk (s : State) (a : Nat) (b : List Byte) : (hostWrite a b s).lnk = s.lnk := rfl
@[simp] theorem hostWrite_cnt (s : State) (a : Nat) (b : List Byte) : (hostWrite a b s).cnt = s.cnt := rfl
@[simp] theorem hostWrite_trc (s : State) (a : Nat) (b : List Byte) : (hostWrite a b s).trc = s.trc := rfl
@[simp] theorem hostWrite_lgr (s : State) (a : Nat) (b : List Byte) : (hostWrite a b s).lgr = s.lgr := rfl
@[simp] theorem hostWrite_sec (s : State) (a : Nat) (b : List Byte) : (hostWrite a b s).sec = s.sec := rfl
@[simp] theorem hostWrite_mctp (s : State) (a : Nat) (b : List Byte) : (hostWrite a b s).mctp = s.mctp := rfl
@[simp] theorem hostWrite_out (s : State) (a : Nat) (b : List Byte) :
    (hostWrite a b s).out = { s.out with memory := putBytes s.out.memory a b } := rfl

/-! ### emit -/

@[simp] theorem emit_pending (s : State) (e : Sent) : (emit e s).pending = s.pending := rfl
@[simp] theorem emit_freeCtr (s : State) (e : Sent) : (emit e s).freeCtr = s.freeCtr := rfl
@[simp] theorem emit_pins (s : State) (e : Sent) : (emit e s).pins = s.pins := rfl
@[simp] theorem emit_id (s : State) (e : Sent) : (emit e s).id = s.id := rfl
@[simp] theorem emit_ups (s : State) (e : Sent) : (emit e s).ups = s.ups := rfl
@[simp] theorem emit_que (s : State) (e : Sent) : (emit e s).que = s.que := rfl
@[simp] theorem emit_seq (s : State) (e : Sent) : (emit e s).seq = s.seq := rfl
@[simp] theorem emit_flight (s : State) (e : Sent) : (emit e s).flight = s.flight := rfl
@[simp] theorem emit_nextId (s : State) (e : Sent) : (emit e s).nextId = s.nextId := rfl
@[simp] theorem emit_store (s : State) (e : Sent) : (emit e s).store = s.store := rfl
@[simp] theorem emit_mem (s : State) (e : Sent) : (emit e s).mem = s.mem := rfl
@[simp] theorem emit_plc (s : State) (e : Sent) : (emit e s).plc = s.plc := rfl
@[simp] theorem emit_tns (s : State) (e : Sent) : (emit e s).tns = s.tns := rfl
@[simp] theorem emit_coil (s : State) (e : Sent) : (emit e s).coil = s.coil := rfl
@[simp] theorem emit_tim (s : State) (e : Sent) : (emit e s).tim = s.tim := rfl
@[simp] theorem emit_rim (s : State) (e : Sent) : (emit e s).rim = s.rim := rfl
@[simp] theorem emit_sched (s : State) (e : Sent) : (emit e s).sched = s.sched := rfl
@[simp] theorem emit_pwr (s : State) (e : Sent) : (emit e s).pwr = s.pwr := rfl
@[simp] theorem emit_lnk (s : State) (e : Sent) : (emit e s).lnk = s.lnk := rfl
@[simp] theorem emit_cnt (s : State) (e : Sent) : (emit e s).cnt = s.cnt := rfl
@[simp] theorem emit_trc (s : State) (e : Sent) : (emit e s).trc = s.trc := rfl
@[simp] theorem emit_lgr (s : State) (e : Sent) : (emit e s).lgr = s.lgr := rfl
@[simp] theorem emit_sec (s : State) (e : Sent) : (emit e s).sec = s.sec := rfl
@[simp] theorem emit_mctp (s : State) (e : Sent) : (emit e s).mctp = s.mctp := rfl
@[simp] theorem emit_out (s : State) (e : Sent) :
    (emit e s).out = { s.out with sent := s.out.sent ++ [e] } := rfl

/-! ### launch -/

@[simp] theorem launch_pending (s : State) (c : InFlight) : (launch c s).pending = s.pending := rfl
@[simp] theorem launch_freeCtr (s : State) (c : InFlight) : (launch c s).freeCtr = s.freeCtr := rfl
@[simp] theorem launch_pins (s : State) (c : InFlight) : (launch c s).pins = s.pins := rfl
@[simp] theorem launch_id (s : State) (c : InFlight) : (launch c s).id = s.id := rfl
@[simp] theorem launch_ups (s : State) (c : InFlight) : (launch c s).ups = s.ups := rfl
@[simp] theorem launch_que (s : State) (c : InFlight) : (launch c s).que = s.que := rfl
@[simp] theorem launch_seq (s : State) (c : InFlight) : (launch c s).seq = s.seq := rfl
@[simp] theorem launch_flight (s : State) (c : InFlight) :
    (launch c s).flight = s.flight ++ [c] := rfl
@[simp] theorem launch_nextId (s : State) (c : InFlight) :
    (launch c s).nextId = s.nextId + 1 := rfl
@[simp] theorem launch_store (s : State) (c : InFlight) : (launch c s).store = s.store := rfl
@[simp] theorem launch_mem (s : State) (c : InFlight) : (launch c s).mem = s.mem := rfl
@[simp] theorem launch_plc (s : State) (c : InFlight) : (launch c s).plc = s.plc := rfl
@[simp] theorem launch_tns (s : State) (c : InFlight) : (launch c s).tns = s.tns := rfl
@[simp] theorem launch_coil (s : State) (c : InFlight) : (launch c s).coil = s.coil := rfl
@[simp] theorem launch_tim (s : State) (c : InFlight) : (launch c s).tim = s.tim := rfl
@[simp] theorem launch_rim (s : State) (c : InFlight) : (launch c s).rim = s.rim := rfl
@[simp] theorem launch_sched (s : State) (c : InFlight) : (launch c s).sched = s.sched := rfl
@[simp] theorem launch_pwr (s : State) (c : InFlight) : (launch c s).pwr = s.pwr := rfl
@[simp] theorem launch_lnk (s : State) (c : InFlight) : (launch c s).lnk = s.lnk := rfl
@[simp] theorem launch_cnt (s : State) (c : InFlight) : (launch c s).cnt = s.cnt := rfl
@[simp] theorem launch_trc (s : State) (c : InFlight) : (launch c s).trc = s.trc := rfl
@[simp] theorem launch_lgr (s : State) (c : InFlight) : (launch c s).lgr = s.lgr := rfl
@[simp] theorem launch_sec (s : State) (c : InFlight) : (launch c s).sec = s.sec := rfl
@[simp] theorem launch_mctp (s : State) (c : InFlight) : (launch c s).mctp = s.mctp := rfl
@[simp] theorem launch_out (s : State) (c : InFlight) : (launch c s).out = s.out := rfl

/-! ### setInflight -/

@[simp] theorem setInflight_pending (s : State) (i : Nat) (f : InFlight → InFlight) : (setInflight i f s).pending = s.pending := rfl
@[simp] theorem setInflight_freeCtr (s : State) (i : Nat) (f : InFlight → InFlight) : (setInflight i f s).freeCtr = s.freeCtr := rfl
@[simp] theorem setInflight_pins (s : State) (i : Nat) (f : InFlight → InFlight) : (setInflight i f s).pins = s.pins := rfl
@[simp] theorem setInflight_id (s : State) (i : Nat) (f : InFlight → InFlight) : (setInflight i f s).id = s.id := rfl
@[simp] theorem setInflight_ups (s : State) (i : Nat) (f : InFlight → InFlight) : (setInflight i f s).ups = s.ups := rfl
@[simp] theorem setInflight_que (s : State) (i : Nat) (f : InFlight → InFlight) : (setInflight i f s).que = s.que := rfl
@[simp] theorem setInflight_seq (s : State) (i : Nat) (f : InFlight → InFlight) : (setInflight i f s).seq = s.seq := rfl
@[simp] theorem setInflight_flight (s : State) (i : Nat) (f : InFlight → InFlight) :
    (setInflight i f s).flight = s.flight.map fun c => if c.id = i then f c else c := rfl
@[simp] theorem setInflight_nextId (s : State) (i : Nat) (f : InFlight → InFlight) : (setInflight i f s).nextId = s.nextId := rfl
@[simp] theorem setInflight_store (s : State) (i : Nat) (f : InFlight → InFlight) : (setInflight i f s).store = s.store := rfl
@[simp] theorem setInflight_mem (s : State) (i : Nat) (f : InFlight → InFlight) : (setInflight i f s).mem = s.mem := rfl
@[simp] theorem setInflight_plc (s : State) (i : Nat) (f : InFlight → InFlight) : (setInflight i f s).plc = s.plc := rfl
@[simp] theorem setInflight_tns (s : State) (i : Nat) (f : InFlight → InFlight) : (setInflight i f s).tns = s.tns := rfl
@[simp] theorem setInflight_coil (s : State) (i : Nat) (f : InFlight → InFlight) : (setInflight i f s).coil = s.coil := rfl
@[simp] theorem setInflight_tim (s : State) (i : Nat) (f : InFlight → InFlight) : (setInflight i f s).tim = s.tim := rfl
@[simp] theorem setInflight_rim (s : State) (i : Nat) (f : InFlight → InFlight) : (setInflight i f s).rim = s.rim := rfl
@[simp] theorem setInflight_sched (s : State) (i : Nat) (f : InFlight → InFlight) : (setInflight i f s).sched = s.sched := rfl
@[simp] theorem setInflight_pwr (s : State) (i : Nat) (f : InFlight → InFlight) : (setInflight i f s).pwr = s.pwr := rfl
@[simp] theorem setInflight_lnk (s : State) (i : Nat) (f : InFlight → InFlight) : (setInflight i f s).lnk = s.lnk := rfl
@[simp] theorem setInflight_cnt (s : State) (i : Nat) (f : InFlight → InFlight) : (setInflight i f s).cnt = s.cnt := rfl
@[simp] theorem setInflight_trc (s : State) (i : Nat) (f : InFlight → InFlight) : (setInflight i f s).trc = s.trc := rfl
@[simp] theorem setInflight_lgr (s : State) (i : Nat) (f : InFlight → InFlight) : (setInflight i f s).lgr = s.lgr := rfl
@[simp] theorem setInflight_sec (s : State) (i : Nat) (f : InFlight → InFlight) : (setInflight i f s).sec = s.sec := rfl
@[simp] theorem setInflight_mctp (s : State) (i : Nat) (f : InFlight → InFlight) : (setInflight i f s).mctp = s.mctp := rfl
@[simp] theorem setInflight_out (s : State) (i : Nat) (f : InFlight → InFlight) : (setInflight i f s).out = s.out := rfl

/-! ### dropInflight -/

@[simp] theorem dropInflight_pending (s : State) (i : Nat) : (dropInflight i s).pending = s.pending := rfl
@[simp] theorem dropInflight_freeCtr (s : State) (i : Nat) : (dropInflight i s).freeCtr = s.freeCtr := rfl
@[simp] theorem dropInflight_pins (s : State) (i : Nat) : (dropInflight i s).pins = s.pins := rfl
@[simp] theorem dropInflight_id (s : State) (i : Nat) : (dropInflight i s).id = s.id := rfl
@[simp] theorem dropInflight_ups (s : State) (i : Nat) : (dropInflight i s).ups = s.ups := rfl
@[simp] theorem dropInflight_que (s : State) (i : Nat) : (dropInflight i s).que = s.que := rfl
@[simp] theorem dropInflight_seq (s : State) (i : Nat) : (dropInflight i s).seq = s.seq := rfl
@[simp] theorem dropInflight_flight (s : State) (i : Nat) :
    (dropInflight i s).flight = s.flight.filter fun c => c.id ≠ i := rfl
@[simp] theorem dropInflight_nextId (s : State) (i : Nat) : (dropInflight i s).nextId = s.nextId := rfl
@[simp] theorem dropInflight_store (s : State) (i : Nat) : (dropInflight i s).store = s.store := rfl
@[simp] theorem dropInflight_mem (s : State) (i : Nat) : (dropInflight i s).mem = s.mem := rfl
@[simp] theorem dropInflight_plc (s : State) (i : Nat) : (dropInflight i s).plc = s.plc := rfl
@[simp] theorem dropInflight_tns (s : State) (i : Nat) : (dropInflight i s).tns = s.tns := rfl
@[simp] theorem dropInflight_coil (s : State) (i : Nat) : (dropInflight i s).coil = s.coil := rfl
@[simp] theorem dropInflight_tim (s : State) (i : Nat) : (dropInflight i s).tim = s.tim := rfl
@[simp] theorem dropInflight_rim (s : State) (i : Nat) : (dropInflight i s).rim = s.rim := rfl
@[simp] theorem dropInflight_sched (s : State) (i : Nat) : (dropInflight i s).sched = s.sched := rfl
@[simp] theorem dropInflight_pwr (s : State) (i : Nat) : (dropInflight i s).pwr = s.pwr := rfl
@[simp] theorem dropInflight_lnk (s : State) (i : Nat) : (dropInflight i s).lnk = s.lnk := rfl
@[simp] theorem dropInflight_cnt (s : State) (i : Nat) : (dropInflight i s).cnt = s.cnt := rfl
@[simp] theorem dropInflight_trc (s : State) (i : Nat) : (dropInflight i s).trc = s.trc := rfl
@[simp] theorem dropInflight_lgr (s : State) (i : Nat) : (dropInflight i s).lgr = s.lgr := rfl
@[simp] theorem dropInflight_sec (s : State) (i : Nat) : (dropInflight i s).sec = s.sec := rfl
@[simp] theorem dropInflight_mctp (s : State) (i : Nat) : (dropInflight i s).mctp = s.mctp := rfl
@[simp] theorem dropInflight_out (s : State) (i : Nat) : (dropInflight i s).out = s.out := rfl

/-! ### traffic -/

@[simp] theorem traffic_pending (s : State) (i n : Nat) : (traffic i n s).pending = s.pending := rfl
@[simp] theorem traffic_freeCtr (s : State) (i n : Nat) : (traffic i n s).freeCtr = s.freeCtr := rfl
@[simp] theorem traffic_pins (s : State) (i n : Nat) : (traffic i n s).pins = s.pins := rfl
@[simp] theorem traffic_id (s : State) (i n : Nat) : (traffic i n s).id = s.id := rfl
@[simp] theorem traffic_ups (s : State) (i n : Nat) : (traffic i n s).ups = s.ups := rfl
@[simp] theorem traffic_que (s : State) (i n : Nat) : (traffic i n s).que = s.que := rfl
@[simp] theorem traffic_seq (s : State) (i n : Nat) : (traffic i n s).seq = s.seq := rfl
@[simp] theorem traffic_flight (s : State) (i n : Nat) : (traffic i n s).flight = s.flight := rfl
@[simp] theorem traffic_nextId (s : State) (i n : Nat) : (traffic i n s).nextId = s.nextId := rfl
@[simp] theorem traffic_store (s : State) (i n : Nat) : (traffic i n s).store = s.store := rfl
@[simp] theorem traffic_mem (s : State) (i n : Nat) : (traffic i n s).mem = s.mem := rfl
@[simp] theorem traffic_plc (s : State) (i n : Nat) :
    (traffic i n s).plc = { s.plc with running := tmod 0 s.plc.running i (· + n) } := rfl
@[simp] theorem traffic_tns (s : State) (i n : Nat) : (traffic i n s).tns = s.tns := rfl
@[simp] theorem traffic_coil (s : State) (i n : Nat) : (traffic i n s).coil = s.coil := rfl
@[simp] theorem traffic_tim (s : State) (i n : Nat) : (traffic i n s).tim = s.tim := rfl
@[simp] theorem traffic_rim (s : State) (i n : Nat) : (traffic i n s).rim = s.rim := rfl
@[simp] theorem traffic_sched (s : State) (i n : Nat) : (traffic i n s).sched = s.sched := rfl
@[simp] theorem traffic_pwr (s : State) (i n : Nat) : (traffic i n s).pwr = s.pwr := rfl
@[simp] theorem traffic_lnk (s : State) (i n : Nat) : (traffic i n s).lnk = s.lnk := rfl
@[simp] theorem traffic_cnt (s : State) (i n : Nat) : (traffic i n s).cnt = s.cnt := rfl
@[simp] theorem traffic_trc (s : State) (i n : Nat) : (traffic i n s).trc = s.trc := rfl
@[simp] theorem traffic_lgr (s : State) (i n : Nat) : (traffic i n s).lgr = s.lgr := rfl
@[simp] theorem traffic_sec (s : State) (i n : Nat) : (traffic i n s).sec = s.sec := rfl
@[simp] theorem traffic_mctp (s : State) (i n : Nat) : (traffic i n s).mctp = s.mctp := rfl
@[simp] theorem traffic_out (s : State) (i n : Nat) : (traffic i n s).out = s.out := rfl

/-! ### setCap -/

@[simp] theorem setCap_pending (s : State) (w : Nat) : (setCap w s).pending = s.pending := rfl
@[simp] theorem setCap_freeCtr (s : State) (w : Nat) : (setCap w s).freeCtr = s.freeCtr := rfl
@[simp] theorem setCap_pins (s : State) (w : Nat) : (setCap w s).pins = s.pins := rfl
@[simp] theorem setCap_id (s : State) (w : Nat) : (setCap w s).id = s.id := rfl
@[simp] theorem setCap_ups (s : State) (w : Nat) : (setCap w s).ups = s.ups := rfl
@[simp] theorem setCap_que (s : State) (w : Nat) : (setCap w s).que = s.que := rfl
@[simp] theorem setCap_seq (s : State) (w : Nat) : (setCap w s).seq = s.seq := rfl
@[simp] theorem setCap_flight (s : State) (w : Nat) : (setCap w s).flight = s.flight := rfl
@[simp] theorem setCap_nextId (s : State) (w : Nat) : (setCap w s).nextId = s.nextId := rfl
@[simp] theorem setCap_store (s : State) (w : Nat) : (setCap w s).store = s.store := rfl
@[simp] theorem setCap_mem (s : State) (w : Nat) : (setCap w s).mem = s.mem := rfl
@[simp] theorem setCap_plc (s : State) (w : Nat) : (setCap w s).plc = s.plc := rfl
@[simp] theorem setCap_tns (s : State) (w : Nat) : (setCap w s).tns = s.tns := rfl
@[simp] theorem setCap_coil (s : State) (w : Nat) : (setCap w s).coil = s.coil := rfl
@[simp] theorem setCap_tim (s : State) (w : Nat) : (setCap w s).tim = s.tim := rfl
@[simp] theorem setCap_rim (s : State) (w : Nat) : (setCap w s).rim = s.rim := rfl
@[simp] theorem setCap_sched (s : State) (w : Nat) : (setCap w s).sched = s.sched := rfl
@[simp] theorem setCap_pwr (s : State) (w : Nat) :
    (setCap w s).pwr = { s.pwr with cap := w } := rfl
@[simp] theorem setCap_lnk (s : State) (w : Nat) : (setCap w s).lnk = s.lnk := rfl
@[simp] theorem setCap_cnt (s : State) (w : Nat) : (setCap w s).cnt = s.cnt := rfl
@[simp] theorem setCap_trc (s : State) (w : Nat) : (setCap w s).trc = s.trc := rfl
@[simp] theorem setCap_lgr (s : State) (w : Nat) : (setCap w s).lgr = s.lgr := rfl
@[simp] theorem setCap_sec (s : State) (w : Nat) : (setCap w s).sec = s.sec := rfl
@[simp] theorem setCap_mctp (s : State) (w : Nat) : (setCap w s).mctp = s.mctp := rfl
@[simp] theorem setCap_out (s : State) (w : Nat) : (setCap w s).out = s.out := rfl

/-! ### Reading one back -/

theorem queue_setQueue_ne (s : State) {q r : Nat} (v : Queue) (h : r ≠ q) : (s.setQueue q v).queue r = s.queue r :=
  tget_tset_ne _ _ _ h

theorem queue_setQueue (s : State) (q : Nat) (v : Queue) : (s.setQueue q v).queue q = v :=
  tget_tset_self _ _ _ _

theorem stack_setStack_ne (s : State) {k j : Nat} (v : Stack) (h : j ≠ k) : (s.setStack k v).stack j = s.stack j :=
  tget_tset_ne _ _ _ h

theorem stack_setStack (s : State) (k : Nat) (v : Stack) : (s.setStack k v).stack k = v :=
  tget_tset_self _ _ _ _

theorem port_setPort_ne (s : State) {p r : Nat} (v : Port) (h : r ≠ p) : (s.setPort p v).port r = s.port r :=
  tget_tset_ne _ _ _ h

theorem port_setPort (s : State) (p : Nat) (v : Port) : (s.setPort p v).port p = v :=
  tget_tset_self _ _ _ _

end Sys2Proof.Machine
end

