-- ==== Sys2Proof/Laws/Packets.lean ====
section
/-! SUPPORT. How a packet's command issues: what leaving the ring changes, and what a command that succeeds leaves behind. -/

namespace Sys2Proof.Machine

/-- The trace changes TRC_, the messages and the pending bits alone. -/
theorem trace_parts (a b c : Nat) (l : BitVec 16) (p : List Nat) (k : Nat) (f : Bool) (s : State) :
    ∃ trc lnk out, traceWith a b c l p k f s = { s with trc := trc, lnk := lnk, out := out } := by
  have hm : ∀ s : State, ∃ lnk out, sendMessage 64 s = { s with lnk := lnk, out := out } := by
    intro s; unfold sendMessage; split <;> exact ⟨_, _, rfl⟩
  have hs : ∀ s : State, ∃ lnk out, signalVector 64 s = { s with lnk := lnk, out := out } := by
    intro s; unfold signalVector; split
    · exact ⟨_, _, rfl⟩
    · obtain ⟨l, o, e⟩ := hm s; rw [e]; exact ⟨_, _, rfl⟩
  have hr : ∀ b (s : State), ∃ trc lnk out, raiseTrc b s = { s with trc := trc, lnk := lnk, out := out } := by
    intro b s; unfold raiseTrc; obtain ⟨l, o, e⟩ := hs { s with trc := { s.trc with status := s.trc.status.raise b } }
    rw [e]; exact ⟨_, _, _, rfl⟩
  unfold traceWith
  dsimp only
  generalize Trc.accept _ _ _ _ = r
  obtain ⟨t, tr, st⟩ := r
  dsimp only
  cases tr <;> cases st <;> simp only [if_true, if_false, Bool.false_eq_true]
  · exact ⟨_, _, _, rfl⟩
  · obtain ⟨x, y, z, e⟩ := hr 1 { s with trc := t }; rw [e]; exact ⟨_, _, _, rfl⟩
  · obtain ⟨x, y, z, e⟩ := hr 0 { s with trc := t }; rw [e]; exact ⟨_, _, _, rfl⟩
  · obtain ⟨x, y, z, e⟩ := hr 0 { s with trc := t }; rw [e]
    obtain ⟨x', y', z', e'⟩ := hr 1 { s with trc := x, lnk := y, out := z }; 
    exact ⟨x', y', z', e'⟩

/-- What a command that leaves its ring changes before it runs. -/
theorem takeHead_parts (q op : Nat) (p : Packet) (b : Bool) (s : State) :
    ∃ seqs cnt trc lnk out, takeHead q op p b s =
      { s.setQueue q { s.queue q with sqHead := ((s.queue q).sqHead + 1) % (s.queue q).sqSize, issued := (s.queue q).issued + 1 } with
        seq := { s.seq with seqs := seqs }, cnt := cnt, trc := trc, lnk := lnk, out := out } := by
  unfold takeHead
  dsimp only
  cases b
  · obtain ⟨x, y, z, e⟩ := trace_parts tISSUE 0 (s.queue q).seqr p.layerId [p.tag.toNat, op, q, (s.queue q).seqr] 0 false _
    unfold trace
    simp only [Bool.false_eq_true, if_false]
    rw [e]
    exact ⟨_, _, _, _, _, rfl⟩
  · unfold trace
    simp only [if_true]
    unfold resetPerCmd
    dsimp only
    obtain ⟨x, y, z, e⟩ := trace_parts tISSUE 0 (s.queue q).seqr p.layerId [p.tag.toNat, op, q, (s.queue q).seqr] 0 false _
    rw [e]
    exact ⟨_, _, _, _, _, rfl⟩

/-- Taking the head of a ring moves the head on and leaves what the checks read. -/
theorem takeHead_facts (q op : Nat) (p : Packet) (b : Bool) (s : State) :
    (takeHead q op p b s).queue q = { s.queue q with sqHead := ((s.queue q).sqHead + 1) % (s.queue q).sqSize, issued := (s.queue q).issued + 1 } ∧
    (takeHead q op p b s).ups = s.ups ∧ (takeHead q op p b s).seq.frozen = s.seq.frozen ∧
    (takeHead q op p b s).flight = s.flight ∧ (takeHead q op p b s).nextId = s.nextId ∧ (takeHead q op p b s).plc = s.plc ∧
    (takeHead q op p b s).que.bounds = s.que.bounds := by
  obtain ⟨a, b, c, d, e, h⟩ := takeHead_parts q op p b s
  rw [h]
  refine ⟨?_, rfl, rfl, rfl, rfl, rfl, rfl⟩
  exact queue_setQueue s q _

/-- The checks answer the same once the packet has left its ring. -/
theorem chk_takeHead (q op : Nat) (i : OpInfo) (p : Packet) (b : Bool) (s : State) :
    sequencerChecks q op i p (takeHead q op p b s) = sequencerChecks q op i p s := by
  obtain ⟨h1, h2, h3, -⟩ := takeHead_facts q op p b s
  unfold sequencerChecks State.admits
  rw [h1, h2, h3]
  rfl

/-- An operation whose writes nothing holds takes place. -/
theorem unlessOver_of (f : State → State) (s t : State) (h : f s.unheld = t) (k : t.mem.journalOver = false) : unlessOver f s = t := by
  unfold unlessOver
  rw [show f { s with mem := { s.mem with journalOver := false } } = t from h]
  simp [k]

/-- An operation whose writes a full journal lets through takes place. -/
theorem unlessOver_lets {f : State → State} {s : State} (h : s.lets f) : unlessOver f s = f s := by
  obtain ⟨h, k⟩ := h
  have e : s.unheld = s := by unfold State.unheld; rw [← h]
  exact unlessOver_of f s _ (congrArg f e) k

/-- A planned command whose effect ends with `r` in state `v` is issued with that. -/
theorem runPlan_ok {c : InFlight} {pl : Plan} {s v : State} {r : Res} (h : pl.run.run (running c pl s) = .ok r v) :
    runPlan c pl s = issued c pl r v := by
  unfold running at h
  unfold runPlan issued
  simp only [h]
  rfl

/-- A sequencer-path command that succeeds is issued with its result. -/
theorem issueS_ok {q : Fin 64} {op : Nat} {p : Packet} {plan : Cmd Plan} {s : State} {pl : Plan} {r : Res} {v : State}
    (h : SucceedsS q op p plan s pl r v) : issueS q op p plan s = acting 0xFFFF (issued (fresh q op p false s) pl r v) := by
  obtain ⟨h1, h2, h3, ⟨u, h4, h5⟩, h6⟩ := h
  have h3' : sequencerChecks q op ((opInfo op).getD ⟨false, 1, false⟩) p (acting p.layerId (takeHead q op p true s.unheld)) = none :=
    (chk_takeHead q op _ p true s.unheld).trans h3
  unfold issueS
  simp only [h1, h2, h3, Bool.not_true, Bool.and_false, Bool.or_false, Bool.false_eq_true, if_false]
  refine unlessOver_of _ s _ ?_ h6
  rw [h3']
  simp only [h4]
  exact congrArg (acting 0xFFFF) (runPlan_ok h5)

/-- A firmware-path command that succeeds is issued with its result. -/
theorem issueF_ok {q : Fin 64} {op : Nat} {p : Packet} {plan : InFlight → Cmd Plan} {s : State} {pl : Plan} {r : Res} {v : State}
    {m : Option RailMeans} (h : SucceedsF q op p plan s pl r v) :
    issueF q op p plan s m = acting 0xFFFF (issued (fresh q op p true s) pl r v) := by
  obtain ⟨h1, h2, h3, h0, h4, h5, ⟨u, h6, h7⟩, h8⟩ := h
  have e : { fresh q op p false s with firmware := true } = fresh q op p true s := rfl
  have d : (takeHead q op p false s).mgmtDepth = s.mgmtDepth := by
    unfold State.mgmtDepth; rw [(takeHead_facts q op p false s).2.2.2.1]
  have w : (fresh q op p true s).id = s.nextId := rfl
  have w' : (fresh q op p false s).id = s.nextId := rfl
  unfold issueF
  simp only [h1, Bool.not_true, Bool.false_eq_true, if_false, chk_takeHead, h2, d, if_neg (Nat.not_le.mpr h3), e]
  have k : startF (fresh q op p true s) (plan (fresh q op p true s)) (handedOff (takeHead q op p false s)).unheld =
      acting 0xFFFF (issued (fresh q op p true s) pl r v) := by
    unfold startF
    change acting 0xFFFF (match (readHandle useQueue >>= fun _ => plan (fresh q op p true s)).run (acting p.layerId _) with | .ok _ _ => _ | .error _ _ => _) = _
    rw [h6]
    exact congrArg (acting 0xFFFF) (runPlan_ok h7)
  have b : ((handedOff (takeHead q op p false s)).mayStart (fresh q op p true s) &&
      !stalled s.nextId (plan (fresh q op p true s)) (handedOff (takeHead q op p false s))) = true := by rw [h4, h5]; rfl
  unfold handOff
  unfold State.unheld handedOff at k
  unfold handedOff at b
  dsimp only at k b ⊢
  rw [w, b, k]
  have j : (acting 0xFFFF (issued (fresh q op p true s) pl r v)).mem.journalOver = false := h8
  simp only [Bool.not_true, Bool.false_eq_true, if_false, j, w', h0]

end Sys2Proof.Machine
end

