-- ==== Sys2Proof/Laws/PerInstr.lean ====
section
/-! SUPPORT. One lemma per command: a well-formed command that carries a packet carries the 48 bytes that follow the packet's fixed
fields (Table 9.1). -/

namespace Sys2Proof.Laws.Wf

/-- The packet of a well-formed command is 64 bytes long: 16 of fixed fields and 48 of parameters. -/
def Statement (i : Instr) : Prop := i.wf = true → ∀ q op p, i.packet = some (q, op, p) → p.params.length = 48

theorem of_packet {i : Instr} {q : Fin 64} {op : Nat} {p : Packet} (h : i.packet = some (q, op, p)) (w : i.wf = true → p.wf = true) :
    Statement i := by
  intro k r o n e
  cases h.symm.trans e
  exact beq_iff_eq.1 (w k)

theorem of_none {i : Instr} (h : i.packet = none) : Statement i := by
  intro _ q op p e
  cases h.symm.trans e

theorem nop q p : Statement (.nop q p) := of_packet rfl id

theorem matmul q p : Statement (.matmul q p) := of_packet rfl id

theorem matmulAcc q p : Statement (.matmulAcc q p) := of_packet rfl id

theorem scalePass q p : Statement (.scalePass q p) := of_packet rfl id

theorem quantStore q p : Statement (.quantStore q p) := of_packet rfl id

theorem vectorOp q p : Statement (.vectorOp q p) := of_packet rfl id

theorem norm q p : Statement (.norm q p) := of_packet rfl id

theorem softmax q p : Statement (.softmax q p) := of_packet rfl id

theorem loss q p : Statement (.loss q p) := of_packet rfl id

theorem copy q p : Statement (.copy q p) := of_packet rfl id

theorem fill q p : Statement (.fill q p) := of_packet rfl id

theorem place q p : Statement (.place q p) := of_packet rfl id

theorem release q p : Statement (.release q p) := of_packet rfl id

theorem boundsSet q p : Statement (.boundsSet q p) := of_packet rfl id

theorem fence q p : Statement (.fence q p) := of_packet rfl id

theorem waitTime q p : Statement (.waitTime q p) := of_packet rfl id

theorem signal q p : Statement (.signal q p) := of_packet rfl id

theorem bundleSend q p : Statement (.bundleSend q p) := of_packet rfl id

theorem bundleReduce q p : Statement (.bundleReduce q p) := of_packet rfl id

theorem bundleBroadcast q p : Statement (.bundleBroadcast q p) := of_packet rfl id

theorem update q p : Statement (.update q p) := of_packet rfl id

theorem commit q p : Statement (.commit q p) := of_packet rfl id

theorem ckptDrain q p : Statement (.ckptDrain q p) := of_packet rfl id

theorem rollback q p : Statement (.rollback q p) := of_packet rfl id

theorem roundRecord q p : Statement (.roundRecord q p) := of_packet rfl id

theorem joinDomain q p : Statement (.joinDomain q p) := of_packet rfl id

theorem assignSpare q p : Statement (.assignSpare q p) := of_packet rfl id

theorem getHealth q p : Statement (.getHealth q p) := of_packet rfl id

theorem getTelemetry q p m : Statement (.getTelemetry q p m) := of_packet rfl (fun h => ((Bool.and_eq_true ..).mp h).1)

theorem setPowerCap q p : Statement (.setPowerCap q p) := of_packet rfl id

theorem ledgerRead q p : Statement (.ledgerRead q p) := of_packet rfl id

theorem marginScan q p : Statement (.marginScan q p) := of_packet rfl id

theorem counterCfg q p : Statement (.counterCfg q p) := of_packet rfl id

theorem samplerCfg q p : Statement (.samplerCfg q p) := of_packet rfl id

theorem traceArm q p : Statement (.traceArm q p) := of_packet rfl id

theorem traceRead q p : Statement (.traceRead q p) := of_packet rfl id

theorem roleSession q p : Statement (.roleSession q p) := of_packet rfl id

theorem fwStage q p : Statement (.fwStage q p) := of_packet rfl id

theorem scheduleSet q p : Statement (.scheduleSet q p) := of_packet rfl id

theorem dumpRead q p : Statement (.dumpRead q p) := of_packet rfl id

theorem makerDiag q p : Statement (.makerDiag q p) := of_packet rfl id

theorem commandComplete q ordinal : Statement (.commandComplete q ordinal) := of_none rfl

theorem msixHoldoffEnd v : Statement (.msixHoldoffEnd v) := of_none rfl

theorem sqDoorbell q v : Statement (.sqDoorbell q v) := of_none rfl

theorem cqDoorbell q v : Statement (.cqDoorbell q v) := of_none rfl

theorem queCtrlWrite q v : Statement (.queCtrlWrite q v) := of_none rfl

theorem queTokenSet v : Statement (.queTokenSet v) := of_none rfl

theorem queTokenClear v : Statement (.queTokenClear v) := of_none rfl

theorem queMgmtRead r : Statement (.queMgmtRead r) := of_none rfl

theorem plcDescSelWrite v : Statement (.plcDescSelWrite v) := of_none rfl

theorem cntPeekSelWrite v : Statement (.cntPeekSelWrite v) := of_none rfl

theorem cntSmpLossRead r : Statement (.cntSmpLossRead r) := of_none rfl

theorem memCeLogCtrlRead r : Statement (.memCeLogCtrlRead r) := of_none rfl

theorem ceLogClear v : Statement (.ceLogClear v) := of_none rfl

theorem timNowLoRead r : Statement (.timNowLoRead r) := of_none rfl

theorem trcTriggerTimeLoRead r : Statement (.trcTriggerTimeLoRead r) := of_none rfl

theorem trcDumpTimeLoRead r : Statement (.trcDumpTimeLoRead r) := of_none rfl

theorem statusW1cWrite r v : Statement (.statusW1cWrite r v) := of_none rfl

theorem upsCfgWrite v : Statement (.upsCfgWrite v) := of_none rfl

theorem secCtrlWrite v : Statement (.secCtrlWrite v) := of_none rfl

theorem lnkCtrlWrite v : Statement (.lnkCtrlWrite v) := of_none rfl

theorem coldReset v : Statement (.coldReset v) := of_none rfl

theorem warmReset v : Statement (.warmReset v) := of_none rfl

theorem warmResetQuiesced : Statement (.warmResetQuiesced) := of_none rfl

theorem recoveryProgram v : Statement (.recoveryProgram v) := of_none rfl

theorem recoveryLedgerRead v : Statement (.recoveryLedgerRead v) := of_none rfl

theorem recoveryReseal v : Statement (.recoveryReseal v) := of_none rfl

theorem registerWrite off size enables v : Statement (.registerWrite off size enables v) := of_none rfl

theorem bar4Read off len : Statement (.bar4Read off len) := of_none rfl

theorem bar4Write off data : Statement (.bar4Write off data) := of_none rfl

theorem powerOn strapA strapB vin : Statement (.powerOn strapA strapB vin) := of_none rfl

theorem hostRstN : Statement (.hostRstN) := of_none rfl

theorem functionLevelReset : Statement (.functionLevelReset) := of_none rfl

theorem functionLevelResetDone : Statement (.functionLevelResetDone) := of_none rfl

theorem protectiveShutdown vin : Statement (.protectiveShutdown vin) := of_none rfl

theorem brakeAssert : Statement (.brakeAssert) := of_none rfl

theorem brakeRelease : Statement (.brakeRelease) := of_none rfl

theorem thermTrip sensor reading : Statement (.thermTrip sensor reading) := of_none rfl

theorem sensorFault sensor : Statement (.sensorFault sensor) := of_none rfl

theorem ppsIn : Statement (.ppsIn) := of_none rfl

theorem ppsOut : Statement (.ppsOut) := of_none rfl

theorem powerEvaluation r : Statement (.powerEvaluation r) := of_none rfl

theorem stackTemperatureRead r : Statement (.stackTemperatureRead r) := of_none rfl

theorem scrubSlot stack : Statement (.scrubSlot stack) := of_none rfl

theorem dieLocalisation stack line : Statement (.dieLocalisation stack line) := of_none rfl

theorem stackInterfaceLoss stack : Statement (.stackInterfaceLoss stack) := of_none rfl

theorem retrainEvaluation stack channel : Statement (.retrainEvaluation stack channel) := of_none rfl

theorem retrainWindow stack channel : Statement (.retrainWindow stack channel) := of_none rfl

theorem channelReturn stack repair lo hi : Statement (.channelReturn stack repair lo hi) := of_none rfl

theorem channelOfflineLimit stack : Statement (.channelOfflineLimit stack) := of_none rfl

theorem rebuildComplete stack : Statement (.rebuildComplete stack) := of_none rfl

theorem migrationCopy : Statement (.migrationCopy) := of_none rfl

theorem migrationResume : Statement (.migrationResume) := of_none rfl

theorem releaseFree handle : Statement (.releaseFree handle) := of_none rfl

theorem seqWatchdog n : Statement (.seqWatchdog n) := of_none rfl

theorem dumpWrite stake : Statement (.dumpWrite stake) := of_none rfl

theorem transferStart q ordinal t : Statement (.transferStart q ordinal t) := of_none rfl

theorem windowGraceExpiry q ordinal absent : Statement (.windowGraceExpiry q ordinal absent) := of_none rfl

theorem drainStart q ordinal path : Statement (.drainStart q ordinal path) := of_none rfl

theorem commitEffect round seats : Statement (.commitEffect round seats) := of_none rfl

theorem report r : Statement (.report r) := of_none rfl

theorem decision d : Statement (.decision d) := of_none rfl

theorem deputyAcknowledge : Statement (.deputyAcknowledge) := of_none rfl

theorem joinAccept a : Statement (.joinAccept a) := of_none rfl

theorem joinTimeout : Statement (.joinTimeout) := of_none rfl

theorem takeoverLimit : Statement (.takeoverLimit) := of_none rfl

theorem heartbeatPeriod w : Statement (.heartbeatPeriod w) := of_none rfl

theorem heartbeat h : Statement (.heartbeat h) := of_none rfl

theorem heartbeatAnswer a : Statement (.heartbeatAnswer a) := of_none rfl

theorem heartbeatMissed seat : Statement (.heartbeatMissed seat) := of_none rfl

theorem rimHeartbeatMissed missed : Statement (.rimHeartbeatMissed missed) := of_none rfl

theorem sync port domain seqId : Statement (.sync port domain seqId) := of_none rfl

theorem delayReq port id : Statement (.delayReq port id) := of_none rfl

theorem delayResp port id t4 : Statement (.delayResp port id t4) := of_none rfl

theorem announce port domain : Statement (.announce port domain) := of_none rfl

theorem syncInterval port : Statement (.syncInterval port) := of_none rfl

theorem holdover : Statement (.holdover) := of_none rfl

theorem timeLost : Statement (.timeLost) := of_none rfl

theorem sampleInstance entry m : Statement (.sampleInstance entry m) := of_none rfl

theorem windowInstance entry : Statement (.windowInstance entry) := of_none rfl

theorem scrubInstance entry : Statement (.scrubInstance entry) := of_none rfl

theorem powerCapInstance entry : Statement (.powerCapInstance entry) := of_none rfl

theorem signalInstance entry : Statement (.signalInstance entry) := of_none rfl

theorem marginInstance entry : Statement (.marginInstance entry) := of_none rfl

theorem dataFrame port f : Statement (.dataFrame port f) := of_none rfl

theorem ackFrame port f : Statement (.ackFrame port f) := of_none rfl

theorem nakFrame port f : Statement (.nakFrame port f) := of_none rfl

theorem ackTimer port mac : Statement (.ackTimer port mac) := of_none rfl

theorem resendTimer port mac : Statement (.resendTimer port mac) := of_none rfl

theorem linkTraining port lanes present : Statement (.linkTraining port lanes present) := of_none rfl

theorem upsettU1 : Statement (.upsettU1) := of_none rfl

theorem upsettU2 : Statement (.upsettU2) := of_none rfl

theorem upsettU3 d0 d1 : Statement (.upsettU3 d0 d1) := of_none rfl

theorem upsettU4 pair lo hi : Statement (.upsettU4 pair lo hi) := of_none rfl

theorem upsettU5 : Statement (.upsettU5) := of_none rfl

theorem upsettU6 : Statement (.upsettU6) := of_none rfl

theorem stageLimit : Statement (.stageLimit) := of_none rfl

theorem reducedService : Statement (.reducedService) := of_none rfl

theorem traceSummaryInterval : Statement (.traceSummaryInterval) := of_none rfl

theorem ledgerHourly : Statement (.ledgerHourly) := of_none rfl

theorem ledgerCompaction : Statement (.ledgerCompaction) := of_none rfl

theorem getVersion m : Statement (.getVersion m) := of_none rfl

theorem getCapabilities m : Statement (.getCapabilities m) := of_none rfl

theorem negotiateAlgorithms m a : Statement (.negotiateAlgorithms m a) := of_none rfl

theorem getDigests m : Statement (.getDigests m) := of_none rfl

theorem getCertificate m slot : Statement (.getCertificate m slot) := of_none rfl

theorem challenge m slot : Statement (.challenge m slot) := of_none rfl

theorem getMeasurements m index : Statement (.getMeasurements m index) := of_none rfl

theorem keyExchange m id r : Statement (.keyExchange m id r) := of_none rfl

theorem finish id verified : Statement (.finish id verified) := of_none rfl

theorem spdmHeartbeat id : Statement (.spdmHeartbeat id) := of_none rfl

theorem spdmHeartbeatMissed id : Statement (.spdmHeartbeatMissed id) := of_none rfl

theorem keyUpdate id : Statement (.keyUpdate id) := of_none rfl

theorem endSession id : Statement (.endSession id) := of_none rfl

theorem mctpControl c : Statement (.mctpControl c) := of_none rfl

theorem getPdrRepositoryInfo m : Statement (.getPdrRepositoryInfo m) := of_none rfl

theorem getPdr m record : Statement (.getPdr m record) := of_none rfl

theorem getSensorReading m sensor : Statement (.getSensorReading m sensor) := of_none rfl

theorem getStateSensorReadings m sensor : Statement (.getStateSensorReadings m sensor) := of_none rfl

theorem setEventReceiver m eid : Statement (.setEventReceiver m eid) := of_none rfl

theorem opcodeUnknown q opcode p : Statement (.opcodeUnknown q opcode p) := of_packet rfl (fun h => ((Bool.and_eq_true ..).mp h).1)

theorem packetUnreadable q why : Statement (.packetUnreadable q why) := of_none rfl

theorem recordProgrammed : Statement (.recordProgrammed) := of_none rfl

theorem sessionTransportFailure id : Statement (.sessionTransportFailure id) := of_none rfl

theorem linkPortDown port lanes : Statement (.linkPortDown port lanes) := of_none rfl

theorem leaveNotice seat : Statement (.leaveNotice seat) := of_none rfl

theorem lostNotice seat : Statement (.lostNotice seat) := of_none rfl

theorem ckptDoneReport seat round : Statement (.ckptDoneReport seat round) := of_none rfl

theorem followUp port id origin : Statement (.followUp port id origin) := of_none rfl

theorem delayReqInterval port : Statement (.delayReqInterval port) := of_none rfl

theorem announceInterval port : Statement (.announceInterval port) := of_none rfl

end Sys2Proof.Laws.Wf
end

