-- ==== Sys2Proof/Laws/Settle.lean ====
section
/-! SUPPORT. Writes, resets and the events that change the registers that software sets: each keeps the device's identity, and
a value that a register's table lets latch in each of them. -/

namespace Sys2Proof.Machine

/-- What every operation keeps of the registers that software sets. -/
structure Stays (s t : State) : Prop where
  pending : t.ctl.pending = s.ctl.pending
  id : t.ctl.id = s.ctl.id
  ok : s.ctl.ok → t.ctl.ok

theorem Stays.of_ctl {s t : State} (h : t.ctl = s.ctl) : Stays s t := ⟨by rw [h], by rw [h], fun k => by rw [h]; exact k⟩

theorem Stays.refl (s : State) : Stays s s := .of_ctl rfl

theorem Stays.trans {s t u : State} (h : Stays s t) (k : Stays t u) : Stays s u := ⟨k.pending.trans h.pending, k.id.trans h.id, fun x => k.ok (h.ok x)⟩

theorem Stays.ite {c : Prop} [Decidable c] {s a b : State} (h : Stays s a) (k : Stays s b) : Stays s (if c then a else b) := by
  split <;> assumption

/-! ### Fields of a word that a latch has assembled -/

theorem bits_lt (n hi lo : Nat) : bits n hi lo < 2 ^ (hi + 1 - lo) := Nat.mod_lt _ (Nat.two_pow_pos _)

theorem atLeastOne_pos (n : Nat) : 1 ≤ atLeastOne n := Nat.le_max_left ..

theorem toNat_lt (w : Word) : w.toNat < 2 ^ 32 := w.isLt

/-! ### Resets -/

/-- The registers' values after a reset. -/
def Ctl.fresh (l : List Instr) (i : IdBlock) (c : TnsCfg) (p : Plc) (d : BitVec 32) : Ctl :=
  ⟨l, i, ({} : Seq).wdog, ({} : Mem).ctrl, ({} : Mem).scrubInterval, ({} : Mem).retrainThresh, ({} : Mem).failLimit, p.ctrl,
   p.migBudget, p.resLimit, p.retireLimit, c.ctrl, c.layerCount, c.rest, ({} : Lnk).portEn, ({} : Lnk).ptpDomain,
   ({} : Lnk).ptpNext, ({} : Lnk).holdoff, ({} : Lnk).apertures, ({} : Cnt).peekSel, ({} : Pwr).upMargin, ({} : Pwr).thmCtrl, d⟩

theorem coldReset_ctl (last : Nat) (lost : Bool) (s : State) : (coldReset last lost s).ctl = .fresh s.ctl.pending s.ctl.id {} {} 0 := by
  unfold coldReset
  rw [signalEnded_ctl]
  exact congrArg (fun x : Ctl => Ctl.fresh x.pending x.id {} {} 0) (dropBindings_ctl s)

theorem Ctl.fresh_ok (l : List Instr) (i : IdBlock) : (Ctl.fresh l i {} {} 0).ok := by
  constructor
  case ptpNext => intro d h; cases h
  all_goals (dsimp only [Ctl.fresh]; decide)

theorem stays_coldReset (last : Nat) (lost : Bool) (s : State) : Stays s (coldReset last lost s) := by
  constructor
  · rw [coldReset_ctl]; rfl
  · rw [coldReset_ctl]; rfl
  · intro _; rw [coldReset_ctl]; exact Ctl.fresh_ok ..

/-- A warm reset keeps the placer's registers and the staged configuration. -/
theorem warmReset_ctl (last : Nat) (s : State) : ∃ c p h, (warmReset last s).ctl = .fresh s.ctl.pending s.ctl.id c p h ∧
    c.ctrl = s.ctl.tnsCtrl ∧ c.layerCount = s.ctl.layerCount ∧ p.ctrl = s.ctl.plcCtrl ∧ p.migBudget = s.ctl.migBudget ∧
    p.resLimit = s.ctl.resLimit ∧ p.retireLimit = s.ctl.retireLimit := by
  have hd := dropBindings_ctl s
  unfold warmReset
  generalize dropBindings s = r at hd ⊢
  obtain ⟨ended, d⟩ := r
  dsimp only at hd ⊢
  have h : (flushCaches (freeReleasing (d.flight.foldl (fun s c => scramble c.regions s) d))).ctl = s.ctl := by
    rw [flushCaches_ctl, freeReleasing_ctl, foldl_ctl _ (fun s c => by simp), hd]
  generalize flushCaches (freeReleasing (d.flight.foldl (fun s c => scramble c.regions s) d)) = e at h ⊢
  refine ⟨e.tns.staged, e.plc.afterWarm, e.trc.dumpHandle, ?_, ?_, ?_, ?_, ?_, ?_, ?_⟩
  · rw [signalEnded_ctl]
    exact congrArg (fun x : Ctl => Ctl.fresh x.pending x.id e.tns.staged e.plc.afterWarm e.trc.dumpHandle) h
  · exact congrArg Ctl.tnsCtrl h
  · exact congrArg Ctl.layerCount h
  · exact congrArg Ctl.plcCtrl h
  · exact congrArg Ctl.migBudget h
  · exact congrArg Ctl.resLimit h
  · exact congrArg Ctl.retireLimit h

theorem stays_warmReset (last : Nat) (s : State) : Stays s (warmReset last s) := by
  obtain ⟨c, p, d, h, h1, h2, h3, h4, h5, h6⟩ := warmReset_ctl last s
  constructor
  · rw [h]; rfl
  · rw [h]; rfl
  · intro k
    rw [h]
    have f := Ctl.fresh_ok s.ctl.pending s.ctl.id
    have k1 := k.plcCtrl; have k2 := k.plcReserved; have k3 := k.migBudget; have k4 := k.resLimit; have k5 := k.retireLimit
    have k6 := k.shadowRate; have k7 := k.layerCount
    rw [← h3] at k1 k2; rw [← h4] at k3; rw [← h5] at k4; rw [← h6] at k5; rw [← h1] at k6; rw [← h2] at k7
    exact { f with plcCtrl := k1, plcReserved := k2, migBudget := k3, resLimit := k4, retireLimit := k5, shadowRate := k6, layerCount := k7 }

theorem stays_requestWarm (host : Bool) (s : State) : Stays s (requestWarm host s) := by
  unfold requestWarm; split
  · exact stays_coldReset ..
  · exact .of_ctl (by simp)

/-! ### Writes -/

theorem stays_installerWrite (off v : Nat) (e : Effect) (f : State → State) (s : State) (h : Stays s (f s)) :
    Stays s (installerWrite off v e f s) := by
  unfold installerWrite; split
  · exact .of_ctl (by simp)
  · exact h.trans (.of_ctl (by simp))

theorem stays_upsReset (warm : Bool) (v : Word) (s : State) : Stays s (upsReset warm v s) :=
  .ite (.of_ctl (by simp)) (.ite (stays_installerWrite _ _ _ _ _ (.refl s)) (.refl s))

theorem stays_recoverImage (chunk : Nat) (last : Bool) (s : State) : Stays s (recoverImage chunk last s) := by
  unfold recoverImage
  refine .ite (.refl s) (.ite (.of_ctl (by simp)) (.ite (.of_ctl (by simp)) (.ite (.trans (.of_ctl (by simp)) (stays_coldReset ..)) (.of_ctl (by simp)))))

theorem stays_recoveryGo (w : Word) (s : State) : Stays s (recoveryGo w s) := by
  unfold recoveryGo
  dsimp only
  repeat' split
  · exact .refl s
  · exact stays_recoverImage ..
  · exact .of_ctl (by simp)
  · exact .of_ctl (by simp)
  · exact .refl s

theorem writeSeq_stays (o : Nat) (w : Word) (s : State) : Stays s (writeSeq o w s) := by
  unfold writeSeq; split
  · refine ⟨rfl, rfl, fun h => ?_⟩
    refine { h with wdog := ?_ }
    show 100 ≤ Max.max 100 (w.toNat % 2 ^ 24) ∧ Max.max 100 (w.toNat % 2 ^ 24) < 2 ^ 24
    omega
  · exact .of_ctl (by simp)
  · exact .refl s

theorem latchShadow_ok (w : Word) : 4 ≤ bits (latchShadow w).toNat 11 8 ∧ bits (latchShadow w).toNat 11 8 ≤ 12 := by
  unfold latchShadow bits
  simp only [BitVec.toNat_ofNat]
  omega

theorem latchLayers_ok (w : Word) : 1 ≤ bits (latchLayers w).toNat 12 0 ∧ bits (latchLayers w).toNat 12 0 ≤ 4096 := by
  unfold latchLayers bits
  simp only [BitVec.toNat_ofNat]
  omega

theorem latchPlcCtrl_ok (w : Word) : (1 ≤ bits (latchPlcCtrl w).toNat 11 8 ∧ 1 ≤ bits (latchPlcCtrl w).toNat 23 16) ∧
    (bits (latchPlcCtrl w).toNat 7 3 = 0 ∧ bits (latchPlcCtrl w).toNat 15 12 = 0 ∧ bits (latchPlcCtrl w).toNat 31 24 = 0) := by
  unfold latchPlcCtrl
  have hx : 1 ≤ atLeastOne (bits w.toNat 11 8) ∧ atLeastOne (bits w.toNat 11 8) ≤ 15 := by unfold atLeastOne bits; omega
  have hy : 1 ≤ atLeastOne (bits w.toNat 23 16) ∧ atLeastOne (bits w.toNat 23 16) ≤ 255 := by unfold atLeastOne bits; omega
  have hz : w.toNat % 8 < 8 := Nat.mod_lt _ (by decide)
  generalize atLeastOne (bits w.toNat 11 8) = x at *
  generalize atLeastOne (bits w.toNat 23 16) = y at *
  generalize w.toNat % 8 = z at *
  unfold bits
  have e : (z + 256 * x + 65536 * y) % 2 ^ 32 = z + 256 * x + 65536 * y := Nat.mod_eq_of_lt (by omega)
  rw [BitVec.toNat_ofNat, e]
  refine ⟨⟨?_, ?_⟩, ?_, ?_, ?_⟩ <;> omega

theorem clampThm_ok (w : Word) : (85 ≤ bits (clampThm w).toNat 7 0 ∧ bits (clampThm w).toNat 7 0 ≤ 105) ∧
    (85 ≤ bits (clampThm w).toNat 15 8 ∧ bits (clampThm w).toNat 15 8 ≤ 100) ∧ (clampThm w).toNat < 2 ^ 16 := by
  unfold clampThm bits
  simp only [BitVec.toNat_ofNat]
  omega

theorem TnsCfg.write_ok (c : TnsCfg) (o : Nat) (w : Word)
    (h : (4 ≤ bits c.ctrl.toNat 11 8 ∧ bits c.ctrl.toNat 11 8 ≤ 12) ∧
      (1 ≤ bits c.layerCount.toNat 12 0 ∧ bits c.layerCount.toNat 12 0 ≤ 4096)) :
    (4 ≤ bits (c.write o w).ctrl.toNat 11 8 ∧ bits (c.write o w).ctrl.toNat 11 8 ≤ 12) ∧
      (1 ≤ bits (c.write o w).layerCount.toNat 12 0 ∧ bits (c.write o w).layerCount.toNat 12 0 ≤ 4096) := by
  unfold TnsCfg.write
  split
  · exact h
  · split
    · exact ⟨latchShadow_ok w, h.2⟩
    · exact h
    · exact h
    · exact ⟨h.1, latchLayers_ok _⟩
    · exact h
    · exact h
    · exact h
    · exact h

theorem stays_writeTns (o : Nat) (w : Word) (s : State) : Stays s (writeTns o w s) := by
  unfold writeTns
  refine .ite (.of_ctl (by simp)) ⟨rfl, rfl, fun h => ?_⟩
  obtain ⟨k1, k2⟩ := TnsCfg.write_ok s.tns.staged o w ⟨h.shadowRate, h.layerCount⟩
  exact { h with shadowRate := k1, layerCount := k2 }

theorem stays_writePlc (o : Nat) (w : Word) (s : State) : Stays s (writePlc o w s) := by
  unfold writePlc
  dsimp only
  split
  · exact ⟨rfl, rfl, fun h => { h with plcCtrl := (latchPlcCtrl_ok w).1, plcReserved := (latchPlcCtrl_ok w).2 }⟩
  · exact .of_ctl (by simp)
  · refine ⟨rfl, rfl, fun h => ?_⟩
    refine { h with migBudget := ?_ }
    show 1 ≤ (BitVec.ofNat 32 (atLeastOne (w.toNat % 65536))).toNat ∧ (BitVec.ofNat 32 (atLeastOne (w.toNat % 65536))).toNat < 2 ^ 16
    unfold atLeastOne
    simp only [BitVec.toNat_ofNat]
    omega
  · refine ⟨rfl, rfl, fun h => ?_⟩
    refine { h with resLimit := ?_ }
    show bits (BitVec.ofNat 32 (Min.min 2048 (w.toNat % 4096) + 65536 * bits w.toNat 31 16)).toNat 11 0 ≤ 2048 ∧
      bits (BitVec.ofNat 32 (Min.min 2048 (w.toNat % 4096) + 65536 * bits w.toNat 31 16)).toNat 15 12 = 0
    unfold bits
    simp only [BitVec.toNat_ofNat]
    omega
  · refine ⟨rfl, rfl, fun h => ?_⟩
    refine { h with retireLimit := ?_ }
    show 1 ≤ (BitVec.ofNat 32 (atLeastOne (w.toNat % 256))).toNat ∧ (BitVec.ofNat 32 (atLeastOne (w.toNat % 256))).toNat < 2 ^ 8
    unfold atLeastOne
    simp only [BitVec.toNat_ofNat]
    omega
  · exact .of_ctl (by simp)
  · exact .refl s

theorem stays_writeMem (o : Nat) (w : Word) (s : State) : Stays s (writeMem o w s) := by
  unfold writeMem
  dsimp only
  split
  · refine ⟨rfl, rfl, fun h => { h with memCtrl := ?_ }⟩
    show (w &&& 7).toNat < 2 ^ 3
    rw [BitVec.toNat_and]
    exact Nat.lt_succ_of_le Nat.and_le_right
  · exact .of_ctl (by simp)
  · refine ⟨rfl, rfl, fun h => { h with scrubInterval := ?_ }⟩
    show 500 ≤ Max.max 500 (w.toNat % 2 ^ 24) ∧ Max.max 500 (w.toNat % 2 ^ 24) < 2 ^ 24
    omega
  · refine ⟨rfl, rfl, fun h => { h with retrainThresh := ?_ }⟩
    show 1 ≤ Max.max 1 (w.toNat % 65536) ∧ Max.max 1 (w.toNat % 65536) < 2 ^ 16
    omega
  · refine ⟨rfl, rfl, fun h => { h with failLimit := ?_ }⟩
    show 1 ≤ Max.max 1 (w.toNat % 65536) ∧ Max.max 1 (w.toNat % 65536) < 2 ^ 16
    omega
  · exact .of_ctl (by simp)
  · exact .refl s

theorem stays_writeLnkCtrl (w : Word) (s : State) : Stays s (writeLnkCtrl w s) := by
  unfold writeLnkCtrl
  dsimp only
  refine .trans ?_ (.of_ctl (foldl_ctl _ (fun s p => ?_) _ _))
  · refine ⟨rfl, rfl, fun h => ?_⟩
    refine { h with ptpNext := fun d e => ?_ }
    cases e
    exact Nat.min_le_left ..
  · split
    · simp
    · split <;> simp

theorem stays_writeLnk (o : Nat) (w : Word) (s : State) : Stays s (writeLnk o w s) := by
  unfold writeLnk
  refine .ite ⟨rfl, rfl, fun h => { h with }⟩ (.ite (.of_ctl (by simp)) ?_)
  split
  · exact stays_writeLnkCtrl w s
  · exact .of_ctl (by simp)
  · exact ⟨rfl, rfl, fun h => { h with holdoff := Nat.mod_lt _ (by decide) }⟩
  · exact .refl s

theorem stays_writePwr (o : Nat) (w : Word) (s : State) : Stays s (writePwr o w s) := by
  unfold writePwr; split
  · refine stays_installerWrite _ _ _ _ _ ⟨rfl, rfl, fun h => ?_⟩
    refine { h with upMargin := ?_ }
    show 1 ≤ Max.max 1 (w.toNat % 256) ∧ Max.max 1 (w.toNat % 256) < 2 ^ 8
    omega
  · exact .of_ctl (by simp)
  · refine stays_installerWrite _ _ _ _ _ ⟨rfl, rfl, fun h => ?_⟩
    exact { h with thmLimit := (clampThm_ok _).1, thmHbmLimit := (clampThm_ok _).2.1, thmReserved := (clampThm_ok _).2.2 }
  · exact .of_ctl (by simp)
  · exact .refl s

theorem stays_writeCnt (o : Nat) (w : Word) (s : State) : Stays s (writeCnt o w s) := by
  unfold writeCnt; split
  · exact .of_ctl (by simp)
  · exact .of_ctl (by simp)
  · exact ⟨rfl, rfl, fun h => { h with }⟩
  · exact .refl s

theorem stays_writeUps (o : Nat) (w : Word) (s : State) : Stays s (writeUps o w s) := by
  unfold writeUps; split
  · exact .of_ctl (by simp)
  · exact stays_installerWrite _ _ _ _ _ (.of_ctl (by simp))
  · exact stays_installerWrite _ _ _ _ _ (.of_ctl (by simp))
  · exact stays_installerWrite _ _ _ _ _ (.of_ctl (by simp))
  · exact stays_upsReset ..
  · exact .refl s

theorem stays_writeSec (o : Nat) (w : Word) (s : State) : Stays s (writeSec o w s) := by
  unfold writeSec
  refine .ite (.of_ctl (by simp)) ?_
  split
  · exact stays_installerWrite _ _ _ _ _ (.of_ctl (by simp))
  · exact .of_ctl (by simp)
  · exact stays_recoveryGo w s
  · exact .refl s

theorem stays_writeTrc (o : Nat) (w : Word) (s : State) : Stays s (writeTrc o w s) := by
  unfold writeTrc; split
  · exact .of_ctl (by simp)
  · exact ⟨rfl, rfl, fun h => { h with }⟩
  · exact .refl s

theorem stays_rawWrite (off : Nat) (w : Word) (s : State) : Stays s (rawWrite off w s) := by
  unfold rawWrite
  refine .ite (.refl s) <| .ite (.of_ctl (by simp)) <| .ite (writeSeq_stays ..) <| .ite (stays_writeTns ..) <|
    .ite (stays_writePlc ..) <| .ite (stays_writeMem ..) <| .ite (stays_writeLnk ..) <| .ite (.of_ctl (by simp)) <|
    .ite (stays_writePwr ..) <| .ite (stays_writeCnt ..) <| .ite (stays_writeTrc ..) <| .ite (.of_ctl (by simp)) <|
    .ite (stays_writeSec ..) <| .ite (stays_writeUps ..) (.refl s)

theorem stays_writeWord (off : Nat) (w : Word) (s : State) : Stays s (writeWord off w s) := .ite (stays_rawWrite ..) (.refl s)

/-! ### Events -/

theorem stays_latchPtpDomain (s : State) : Stays s (latchPtpDomain s) := by
  unfold latchPtpDomain; split
  · refine ⟨rfl, rfl, fun h => ?_⟩
    exact { h with ptpDomain := Nat.min_le_left .., ptpNext := fun d e => by cases e }
  · exact .refl s

theorem stays_applyEffect (e : Effect) (s : State) : Stays s (applyEffect e s) := by
  unfold applyEffect; split
  · exact .refl s
  · exact .of_ctl (by simp)
  · exact .of_ctl (by simp)
  · exact .of_ctl (by simp)
  · exact .of_ctl (by simp)
  · exact .of_ctl (by simp)
  · exact .of_ctl (by simp)
  · dsimp only
    exact .ite (.of_ctl (by simp)) (.of_ctl (by simp))
  · exact .ite (.refl s) (.ite (stays_requestWarm ..) (stays_coldReset ..))

theorem stays_recordProgrammed (failed : Bool) (s : State) : Stays s (recordProgrammed failed s) := by
  have h : (programNext failed s).2.ctl = s.ctl := by simp
  unfold recordProgrammed
  split
  · rename_i e t k
    rw [k] at h
    exact Stays.trans (.of_ctl h) (stays_applyEffect e t)
  · rename_i t k
    rw [k] at h
    exact .of_ctl h

theorem stays_unlessOver (f : State → State) (s : State) (h : ∀ u, Stays u (f u)) : Stays s (unlessOver f s) := by
  unfold unlessOver; dsimp only; split
  · exact .refl s
  · exact Stays.trans (t := { s with mem := { s.mem with journalOver := false } }) (.of_ctl rfl) (h _)

/-- An outcome that is no next state, or a next state that keeps what every operation keeps. -/
def Settles (s : State) (o : Host.Outcome State Fault Refusal) : Prop := ∀ t, o = .next t → Stays s t

theorem Settles.next {s t : State} (h : Stays s t) : Settles s (.next t) := by
  intro u e; cases e; exact h

theorem Settles.of_ctl {s : State} {o : Host.Outcome State Fault Refusal} (h : ∀ t, o = .next t → t.ctl = s.ctl) : Settles s o :=
  fun t e => .of_ctl (h t e)

end Sys2Proof.Machine
end

