-- ==== Sys2Proof/Laws/Steps.lean ====
section
/-! SUPPORT. The commands that write registers, reset the device or end a period: each keeps the fixed part of the device's
identity and leaves in each register that software sets a value that its table lets latch. -/

namespace Sys2Proof.Machine

theorem settles_coldReset (v : Word) (s : State) : Settles s (execColdReset v s) := .next (stays_upsReset ..)

theorem settles_warmReset (v : Word) (s : State) : Settles s (execWarmReset v s) := .next (stays_upsReset ..)

theorem settles_warmResetQuiesced (s : State) : Settles s (execWarmResetQuiesced s) := by
  refine .next ?_
  split
  · exact .ite (.trans (.of_ctl (by simp)) (stays_warmReset ..)) (.refl s)
  · exact .refl s

theorem settles_recoveryProgram (v : Word) (s : State) : Settles s (execRecoveryProgram v s) :=
  .next (.ite (stays_recoveryGo ..) (.refl s))

theorem settles_recoveryLedgerRead (v : Word) (s : State) : Settles s (execRecoveryLedgerRead v s) :=
  .next (.ite (stays_recoveryGo ..) (.refl s))

theorem settles_recoveryReseal (v : Word) (s : State) : Settles s (execRecoveryReseal v s) :=
  .next (.ite (stays_recoveryGo ..) (.refl s))

theorem settles_registerWrite (off size : Nat) (enables : Bool) (v : BitVec 64) (s : State) :
    Settles s (execRegisterWrite off size enables v s) :=
  .next (.ite (.refl s) (.ite (stays_writeWord ..) (.ite (.trans (stays_writeWord ..) (stays_writeWord ..)) (.of_ctl (by simp)))))

theorem settles_powerOn (a b : Bool) (vin : Nat) (s : State) : Settles s (execPowerOn a b vin s) :=
  .next (.ite (.trans (.of_ctl (by simp)) (stays_coldReset ..)) (.refl s))

theorem settles_hostRstN (s : State) : Settles s (execHostRstN s) :=
  .next (.ite (.refl s) (.ite (stays_requestWarm ..) (stays_coldReset ..)))

theorem settles_protectiveShutdown (vin : Nat) (s : State) : Settles s (execProtectiveShutdown vin s) :=
  .next (.ite (.trans (stays_coldReset 0 true s) (.of_ctl (by simp))) (.ite (.of_ctl (by simp)) (.refl s)))

theorem settles_scrubInstance (entry : Fin 64) (s : State) : Settles s (execScrubInstance entry s) := by
  refine .next ?_
  split
  · refine .ite (Stays.trans ?_ (.of_ctl (fireNext_ctl _ _))) (.refl s)
    refine ⟨rfl, rfl, fun h => ?_⟩
    refine { h with scrubInterval := ?_ }
    simp only [State.ctl_mk]
    omega
  · exact .refl s

theorem settles_syncInterval (port : Fin 12) (s : State) : Settles s (execSyncInterval port s) :=
  .next (.ite (.refl s) (.ite (.trans (stays_latchPtpDomain s) (.of_ctl (by simp)))
    (.trans (stays_latchPtpDomain s) (.of_ctl (by simp)))))

theorem settles_recordProgrammed (s : State) : Settles s (execRecordProgrammed s) :=
  .next (stays_unlessOver _ _ fun u => stays_recordProgrammed u.programFails u)

end Sys2Proof.Machine
end

