-- ==== Sys2Proof/Laws/Store.lean ====
section
/-! SUPPORT. The stores' bytes: which operations touch them, what reads back, and that each keeps the memory's canonical form. -/

namespace Sys2Proof.Machine

@[simp] theorem State.bytes_mk (pending freeCtr pins id ups que seq flight nextId store mem plc tns coil tim rim sched pwr lnk cnt
    trc lgr sec mctp out) :
    (State.mk pending freeCtr pins id ups que seq flight nextId store mem plc tns coil tim rim sched pwr lnk cnt trc lgr sec mctp
      out).bytes = (store.cells, out.memory) := rfl

@[simp] theorem bytes_cells (s : State) : s.store.cells = s.bytes.1 := rfl
@[simp] theorem bytes_memory (s : State) : s.out.memory = s.bytes.2 := rfl

@[simp] theorem bytes_ite (c : Prop) [Decidable c] (a b : State) : (if c then a else b).bytes = if c then a.bytes else b.bytes := by
  split <;> rfl

/-! ### Operations that leave them alone -/

theorem foldl_bytes {α : Type} (f : State → α → State) (h : ∀ s a, (f s a).bytes = s.bytes) (l : List α) (s : State) :
    (l.foldl f s).bytes = s.bytes := by
  induction l generalizing s with
  | nil => rfl
  | cons a l ih => rw [List.foldl_cons, ih, h]

@[simp] theorem sendMessage_bytes (v : Nat) (s : State) :
    (sendMessage v s).bytes = s.bytes := by
  first
  | (simp [sendMessage, -List.reduceReplicate, foldl_bytes]; done)
  | (simp only [sendMessage]; (repeat' split) <;> simp [-List.reduceReplicate, foldl_bytes] <;> done)
  | (simp only [sendMessage]
     repeat' (split <;> (try (rename_i heq; first
       | (replace heq := (congrArg (fun x => (Prod.snd x).bytes) heq).symm; simp [-List.reduceReplicate, foldl_bytes] at heq)
  )))
     all_goals (first | (simp [-List.reduceReplicate, foldl_bytes]; done) | (simp [*, -List.reduceReplicate, foldl_bytes]; done) | (simp_all [-List.reduceReplicate, foldl_bytes]; done)))
  | (simp only [sendMessage]
     refine foldl_bytes _ (fun s a => ?_) _ _
     (repeat' split) <;> simp [-List.reduceReplicate, foldl_bytes])
  | (simp only [sendMessage]
     (repeat' split) <;> first
       | (simp [-List.reduceReplicate, foldl_bytes]; done)
       | (refine (foldl_bytes _ (fun s a => ?_) _ _).trans ?_
          all_goals ((repeat' split) <;> simp [-List.reduceReplicate, foldl_bytes])))

@[simp] theorem signalVector_bytes (v : Nat) (s : State) :
    (signalVector v s).bytes = s.bytes := by
  first
  | (simp [signalVector, -List.reduceReplicate, foldl_bytes]; done)
  | (simp only [signalVector]; (repeat' split) <;> simp [-List.reduceReplicate, foldl_bytes] <;> done)
  | (simp only [signalVector]
     repeat' (split <;> (try (rename_i heq; first
       | (replace heq := (congrArg (fun x => (Prod.snd x).bytes) heq).symm; simp [-List.reduceReplicate, foldl_bytes] at heq)
  )))
     all_goals (first | (simp [-List.reduceReplicate, foldl_bytes]; done) | (simp [*, -List.reduceReplicate, foldl_bytes]; done) | (simp_all [-List.reduceReplicate, foldl_bytes]; done)))
  | (simp only [signalVector]
     refine foldl_bytes _ (fun s a => ?_) _ _
     (repeat' split) <;> simp [-List.reduceReplicate, foldl_bytes])
  | (simp only [signalVector]
     (repeat' split) <;> first
       | (simp [-List.reduceReplicate, foldl_bytes]; done)
       | (refine (foldl_bytes _ (fun s a => ?_) _ _).trans ?_
          all_goals ((repeat' split) <;> simp [-List.reduceReplicate, foldl_bytes])))

@[simp] theorem count_bytes (set inst index n : Nat) (s : State) :
    (count set inst index n s).bytes = s.bytes := by
  first
  | (simp [count, -List.reduceReplicate, foldl_bytes]; done)
  | (simp only [count]; (repeat' split) <;> simp [-List.reduceReplicate, foldl_bytes] <;> done)
  | (simp only [count]
     repeat' (split <;> (try (rename_i heq; first
       | (replace heq := (congrArg (fun x => (Prod.snd x).bytes) heq).symm; simp [-List.reduceReplicate, foldl_bytes] at heq)
  )))
     all_goals (first | (simp [-List.reduceReplicate, foldl_bytes]; done) | (simp [*, -List.reduceReplicate, foldl_bytes]; done) | (simp_all [-List.reduceReplicate, foldl_bytes]; done)))
  | (simp only [count]
     refine foldl_bytes _ (fun s a => ?_) _ _
     (repeat' split) <;> simp [-List.reduceReplicate, foldl_bytes])
  | (simp only [count]
     (repeat' split) <;> first
       | (simp [-List.reduceReplicate, foldl_bytes]; done)
       | (refine (foldl_bytes _ (fun s a => ?_) _ _).trans ?_
          all_goals ((repeat' split) <;> simp [-List.reduceReplicate, foldl_bytes])))

@[simp] theorem tick_bytes (s : State) :
    (tick s).bytes = s.bytes := by
  first
  | (simp [tick, -List.reduceReplicate, foldl_bytes]; done)
  | (simp only [tick]; (repeat' split) <;> simp [-List.reduceReplicate, foldl_bytes] <;> done)
  | (simp only [tick]
     repeat' (split <;> (try (rename_i heq; first
       | (replace heq := (congrArg (fun x => (Prod.snd x).bytes) heq).symm; simp [-List.reduceReplicate, foldl_bytes] at heq)
  )))
     all_goals (first | (simp [-List.reduceReplicate, foldl_bytes]; done) | (simp [*, -List.reduceReplicate, foldl_bytes]; done) | (simp_all [-List.reduceReplicate, foldl_bytes]; done)))
  | (simp only [tick]
     refine foldl_bytes _ (fun s a => ?_) _ _
     (repeat' split) <;> simp [-List.reduceReplicate, foldl_bytes])
  | (simp only [tick]
     (repeat' split) <;> first
       | (simp [-List.reduceReplicate, foldl_bytes]; done)
       | (refine (foldl_bytes _ (fun s a => ?_) _ _).trans ?_
          all_goals ((repeat' split) <;> simp [-List.reduceReplicate, foldl_bytes])))

@[simp] theorem traffic_bytes (idx n : Nat) (s : State) :
    (traffic idx n s).bytes = s.bytes := by
  first
  | (simp [traffic, -List.reduceReplicate, foldl_bytes]; done)
  | (simp only [traffic]; (repeat' split) <;> simp [-List.reduceReplicate, foldl_bytes] <;> done)
  | (simp only [traffic]
     repeat' (split <;> (try (rename_i heq; first
       | (replace heq := (congrArg (fun x => (Prod.snd x).bytes) heq).symm; simp [-List.reduceReplicate, foldl_bytes] at heq)
  )))
     all_goals (first | (simp [-List.reduceReplicate, foldl_bytes]; done) | (simp [*, -List.reduceReplicate, foldl_bytes]; done) | (simp_all [-List.reduceReplicate, foldl_bytes]; done)))
  | (simp only [traffic]
     refine foldl_bytes _ (fun s a => ?_) _ _
     (repeat' split) <;> simp [-List.reduceReplicate, foldl_bytes])
  | (simp only [traffic]
     (repeat' split) <;> first
       | (simp [-List.reduceReplicate, foldl_bytes]; done)
       | (refine (foldl_bytes _ (fun s a => ?_) _ _).trans ?_
          all_goals ((repeat' split) <;> simp [-List.reduceReplicate, foldl_bytes])))

@[simp] theorem append_bytes (typ : Nat) (payload : List Byte) (effect : Effect) (s : State) :
    (append typ payload effect s).bytes = s.bytes := by
  first
  | (simp [append, -List.reduceReplicate, foldl_bytes]; done)
  | (simp only [append]; (repeat' split) <;> simp [-List.reduceReplicate, foldl_bytes] <;> done)
  | (simp only [append]
     repeat' (split <;> (try (rename_i heq; first
       | (replace heq := (congrArg (fun x => (Prod.snd x).bytes) heq).symm; simp [-List.reduceReplicate, foldl_bytes] at heq)
  )))
     all_goals (first | (simp [-List.reduceReplicate, foldl_bytes]; done) | (simp [*, -List.reduceReplicate, foldl_bytes]; done) | (simp_all [-List.reduceReplicate, foldl_bytes]; done)))
  | (simp only [append]
     refine foldl_bytes _ (fun s a => ?_) _ _
     (repeat' split) <;> simp [-List.reduceReplicate, foldl_bytes])
  | (simp only [append]
     (repeat' split) <;> first
       | (simp [-List.reduceReplicate, foldl_bytes]; done)
       | (refine (foldl_bytes _ (fun s a => ?_) _ _).trans ?_
          all_goals ((repeat' split) <;> simp [-List.reduceReplicate, foldl_bytes])))

@[simp] theorem record_bytes (typ : Nat) (payload : List Byte) (s : State) :
    (record typ payload s).bytes = s.bytes := by
  first
  | (simp [record, -List.reduceReplicate, foldl_bytes]; done)
  | (simp only [record]; (repeat' split) <;> simp [-List.reduceReplicate, foldl_bytes] <;> done)
  | (simp only [record]
     repeat' (split <;> (try (rename_i heq; first
       | (replace heq := (congrArg (fun x => (Prod.snd x).bytes) heq).symm; simp [-List.reduceReplicate, foldl_bytes] at heq)
  )))
     all_goals (first | (simp [-List.reduceReplicate, foldl_bytes]; done) | (simp [*, -List.reduceReplicate, foldl_bytes]; done) | (simp_all [-List.reduceReplicate, foldl_bytes]; done)))
  | (simp only [record]
     refine foldl_bytes _ (fun s a => ?_) _ _
     (repeat' split) <;> simp [-List.reduceReplicate, foldl_bytes])
  | (simp only [record]
     (repeat' split) <;> first
       | (simp [-List.reduceReplicate, foldl_bytes]; done)
       | (refine (foldl_bytes _ (fun s a => ?_) _ _).trans ?_
          all_goals ((repeat' split) <;> simp [-List.reduceReplicate, foldl_bytes])))

@[simp] theorem notify_bytes (sensor : Nat) (s : State) :
    (notify sensor s).bytes = s.bytes := by
  first
  | (simp [notify, -List.reduceReplicate, foldl_bytes]; done)
  | (simp only [notify]; (repeat' split) <;> simp [-List.reduceReplicate, foldl_bytes] <;> done)
  | (simp only [notify]
     repeat' (split <;> (try (rename_i heq; first
       | (replace heq := (congrArg (fun x => (Prod.snd x).bytes) heq).symm; simp [-List.reduceReplicate, foldl_bytes] at heq)
  )))
     all_goals (first | (simp [-List.reduceReplicate, foldl_bytes]; done) | (simp [*, -List.reduceReplicate, foldl_bytes]; done) | (simp_all [-List.reduceReplicate, foldl_bytes]; done)))
  | (simp only [notify]
     refine foldl_bytes _ (fun s a => ?_) _ _
     (repeat' split) <;> simp [-List.reduceReplicate, foldl_bytes])
  | (simp only [notify]
     (repeat' split) <;> first
       | (simp [-List.reduceReplicate, foldl_bytes]; done)
       | (refine (foldl_bytes _ (fun s a => ?_) _ _).trans ?_
          all_goals ((repeat' split) <;> simp [-List.reduceReplicate, foldl_bytes])))

@[simp] theorem raiseMem_bytes (b : Nat) (s : State) :
    (raiseMem b s).bytes = s.bytes := by
  first
  | (simp [raiseMem, -List.reduceReplicate, foldl_bytes]; done)
  | (simp only [raiseMem]; (repeat' split) <;> simp [-List.reduceReplicate, foldl_bytes] <;> done)
  | (simp only [raiseMem]
     repeat' (split <;> (try (rename_i heq; first
       | (replace heq := (congrArg (fun x => (Prod.snd x).bytes) heq).symm; simp [-List.reduceReplicate, foldl_bytes] at heq)
  )))
     all_goals (first | (simp [-List.reduceReplicate, foldl_bytes]; done) | (simp [*, -List.reduceReplicate, foldl_bytes]; done) | (simp_all [-List.reduceReplicate, foldl_bytes]; done)))
  | (simp only [raiseMem]
     refine foldl_bytes _ (fun s a => ?_) _ _
     (repeat' split) <;> simp [-List.reduceReplicate, foldl_bytes])
  | (simp only [raiseMem]
     (repeat' split) <;> first
       | (simp [-List.reduceReplicate, foldl_bytes]; done)
       | (refine (foldl_bytes _ (fun s a => ?_) _ _).trans ?_
          all_goals ((repeat' split) <;> simp [-List.reduceReplicate, foldl_bytes])))

@[simp] theorem raiseTrc_bytes (b : Nat) (s : State) :
    (raiseTrc b s).bytes = s.bytes := by
  first
  | (simp [raiseTrc, -List.reduceReplicate, foldl_bytes]; done)
  | (simp only [raiseTrc]; (repeat' split) <;> simp [-List.reduceReplicate, foldl_bytes] <;> done)
  | (simp only [raiseTrc]
     repeat' (split <;> (try (rename_i heq; first
       | (replace heq := (congrArg (fun x => (Prod.snd x).bytes) heq).symm; simp [-List.reduceReplicate, foldl_bytes] at heq)
  )))
     all_goals (first | (simp [-List.reduceReplicate, foldl_bytes]; done) | (simp [*, -List.reduceReplicate, foldl_bytes]; done) | (simp_all [-List.reduceReplicate, foldl_bytes]; done)))
  | (simp only [raiseTrc]
     refine foldl_bytes _ (fun s a => ?_) _ _
     (repeat' split) <;> simp [-List.reduceReplicate, foldl_bytes])
  | (simp only [raiseTrc]
     (repeat' split) <;> first
       | (simp [-List.reduceReplicate, foldl_bytes]; done)
       | (refine (foldl_bytes _ (fun s a => ?_) _ _).trans ?_
          all_goals ((repeat' split) <;> simp [-List.reduceReplicate, foldl_bytes])))

@[simp] theorem raiseLnk_bytes (b : Nat) (s : State) :
    (raiseLnk b s).bytes = s.bytes := by
  first
  | (simp [raiseLnk, -List.reduceReplicate, foldl_bytes]; done)
  | (simp only [raiseLnk]; (repeat' split) <;> simp [-List.reduceReplicate, foldl_bytes] <;> done)
  | (simp only [raiseLnk]
     repeat' (split <;> (try (rename_i heq; first
       | (replace heq := (congrArg (fun x => (Prod.snd x).bytes) heq).symm; simp [-List.reduceReplicate, foldl_bytes] at heq)
  )))
     all_goals (first | (simp [-List.reduceReplicate, foldl_bytes]; done) | (simp [*, -List.reduceReplicate, foldl_bytes]; done) | (simp_all [-List.reduceReplicate, foldl_bytes]; done)))
  | (simp only [raiseLnk]
     refine foldl_bytes _ (fun s a => ?_) _ _
     (repeat' split) <;> simp [-List.reduceReplicate, foldl_bytes])
  | (simp only [raiseLnk]
     (repeat' split) <;> first
       | (simp [-List.reduceReplicate, foldl_bytes]; done)
       | (refine (foldl_bytes _ (fun s a => ?_) _ _).trans ?_
          all_goals ((repeat' split) <;> simp [-List.reduceReplicate, foldl_bytes])))

@[simp] theorem traceWith_bytes (typ sub source : Nat) (layer : BitVec 16) (payload : List Nat) (cls : Nat) (force : Bool) (s : State) :
    (traceWith typ sub source layer payload cls force s).bytes = s.bytes := by
  first
  | (simp [traceWith, -List.reduceReplicate, foldl_bytes]; done)
  | (simp only [traceWith]; (repeat' split) <;> simp [-List.reduceReplicate, foldl_bytes] <;> done)
  | (simp only [traceWith]
     repeat' (split <;> (try (rename_i heq; first
       | (replace heq := (congrArg (fun x => (Prod.snd x).bytes) heq).symm; simp [-List.reduceReplicate, foldl_bytes] at heq)
  )))
     all_goals (first | (simp [-List.reduceReplicate, foldl_bytes]; done) | (simp [*, -List.reduceReplicate, foldl_bytes]; done) | (simp_all [-List.reduceReplicate, foldl_bytes]; done)))
  | (simp only [traceWith]
     refine foldl_bytes _ (fun s a => ?_) _ _
     (repeat' split) <;> simp [-List.reduceReplicate, foldl_bytes])
  | (simp only [traceWith]
     (repeat' split) <;> first
       | (simp [-List.reduceReplicate, foldl_bytes]; done)
       | (refine (foldl_bytes _ (fun s a => ?_) _ _).trans ?_
          all_goals ((repeat' split) <;> simp [-List.reduceReplicate, foldl_bytes])))

@[simp] theorem trace_bytes (typ sub source : Nat) (layer : BitVec 16) (payload : List Nat) (s : State) :
    (trace typ sub source layer payload s).bytes = s.bytes := by
  first
  | (simp [trace, -List.reduceReplicate, foldl_bytes]; done)
  | (simp only [trace]; (repeat' split) <;> simp [-List.reduceReplicate, foldl_bytes] <;> done)
  | (simp only [trace]
     repeat' (split <;> (try (rename_i heq; first
       | (replace heq := (congrArg (fun x => (Prod.snd x).bytes) heq).symm; simp [-List.reduceReplicate, foldl_bytes] at heq)
  )))
     all_goals (first | (simp [-List.reduceReplicate, foldl_bytes]; done) | (simp [*, -List.reduceReplicate, foldl_bytes]; done) | (simp_all [-List.reduceReplicate, foldl_bytes]; done)))
  | (simp only [trace]
     refine foldl_bytes _ (fun s a => ?_) _ _
     (repeat' split) <;> simp [-List.reduceReplicate, foldl_bytes])
  | (simp only [trace]
     (repeat' split) <;> first
       | (simp [-List.reduceReplicate, foldl_bytes]; done)
       | (refine (foldl_bytes _ (fun s a => ?_) _ _).trans ?_
          all_goals ((repeat' split) <;> simp [-List.reduceReplicate, foldl_bytes])))

@[simp] theorem modStack_bytes (k : Nat) (f : Stack → Stack) (s : State) :
    (modStack k f s).bytes = s.bytes := by
  simp [modStack, State.setStack]

@[simp] theorem setHealth_bytes (k : Nat) (h : Health) (s : State) :
    (setHealth k h s).bytes = s.bytes := by
  first
  | (simp [setHealth, -List.reduceReplicate, foldl_bytes]; done)
  | (simp only [setHealth]; (repeat' split) <;> simp [-List.reduceReplicate, foldl_bytes] <;> done)
  | (simp only [setHealth]
     repeat' (split <;> (try (rename_i heq; first
       | (replace heq := (congrArg (fun x => (Prod.snd x).bytes) heq).symm; simp [-List.reduceReplicate, foldl_bytes] at heq)
  )))
     all_goals (first | (simp [-List.reduceReplicate, foldl_bytes]; done) | (simp [*, -List.reduceReplicate, foldl_bytes]; done) | (simp_all [-List.reduceReplicate, foldl_bytes]; done)))
  | (simp only [setHealth]
     refine foldl_bytes _ (fun s a => ?_) _ _
     (repeat' split) <;> simp [-List.reduceReplicate, foldl_bytes])
  | (simp only [setHealth]
     (repeat' split) <;> first
       | (simp [-List.reduceReplicate, foldl_bytes]; done)
       | (refine (foldl_bytes _ (fun s a => ?_) _ _).trans ?_
          all_goals ((repeat' split) <;> simp [-List.reduceReplicate, foldl_bytes])))

@[simp] theorem failDie_bytes (k d : Nat) (s : State) :
    (failDie k d s).bytes = s.bytes := by
  first
  | (simp [failDie, -List.reduceReplicate, foldl_bytes]; done)
  | (simp only [failDie]; (repeat' split) <;> simp [-List.reduceReplicate, foldl_bytes] <;> done)
  | (simp only [failDie]
     repeat' (split <;> (try (rename_i heq; first
       | (replace heq := (congrArg (fun x => (Prod.snd x).bytes) heq).symm; simp [-List.reduceReplicate, foldl_bytes] at heq)
  )))
     all_goals (first | (simp [-List.reduceReplicate, foldl_bytes]; done) | (simp [*, -List.reduceReplicate, foldl_bytes]; done) | (simp_all [-List.reduceReplicate, foldl_bytes]; done)))
  | (simp only [failDie]
     refine foldl_bytes _ (fun s a => ?_) _ _
     (repeat' split) <;> simp [-List.reduceReplicate, foldl_bytes])
  | (simp only [failDie]
     (repeat' split) <;> first
       | (simp [-List.reduceReplicate, foldl_bytes]; done)
       | (refine (foldl_bytes _ (fun s a => ?_) _ _).trans ?_
          all_goals ((repeat' split) <;> simp [-List.reduceReplicate, foldl_bytes])))

@[simp] theorem failFull_bytes (k : Nat) (s : State) : (failFull k s).bytes = s.bytes := by
  simp only [failFull]; split <;> simp

@[simp] theorem leavePoison_bytes (id : Nat) (s : State) : (leavePoison id s).bytes = s.bytes := by
  simp only [leavePoison]; split <;> simp

@[simp] theorem enterPoison_bytes (k : Nat) (ranges : List (Nat × Nat)) (counted : Bool) (s : State) :
    (enterPoison k ranges counted s).bytes = s.bytes := by
  first
  | (simp [enterPoison, -List.reduceReplicate, foldl_bytes]; done)
  | (simp only [enterPoison]; (repeat' split) <;> simp [-List.reduceReplicate, foldl_bytes] <;> done)
  | (simp only [enterPoison]
     repeat' (split <;> (try (rename_i heq; first
       | (replace heq := (congrArg (fun x => (Prod.snd x).bytes) heq).symm; simp [-List.reduceReplicate, foldl_bytes] at heq)
  )))
     all_goals (first | (simp [-List.reduceReplicate, foldl_bytes]; done) | (simp [*, -List.reduceReplicate, foldl_bytes]; done) | (simp_all [-List.reduceReplicate, foldl_bytes]; done)))
  | (simp only [enterPoison]
     refine foldl_bytes _ (fun s a => ?_) _ _
     (repeat' split) <;> simp [-List.reduceReplicate, foldl_bytes])
  | (simp only [enterPoison]
     (repeat' split) <;> first
       | (simp [-List.reduceReplicate, foldl_bytes]; done)
       | (refine (foldl_bytes _ (fun s a => ?_) _ _).trans ?_
          all_goals ((repeat' split) <;> simp [-List.reduceReplicate, foldl_bytes])))

@[simp] theorem logCe_bytes (id : Nat) (name : LineName) (codewords : Nat) (scrub : Bool) (s : State) :
    (logCe id name codewords scrub s).bytes = s.bytes := by
  first
  | (simp [logCe, -List.reduceReplicate, foldl_bytes]; done)
  | (simp only [logCe]; (repeat' split) <;> simp [-List.reduceReplicate, foldl_bytes] <;> done)
  | (simp only [logCe]
     repeat' (split <;> (try (rename_i heq; first
       | (replace heq := (congrArg (fun x => (Prod.snd x).bytes) heq).symm; simp [-List.reduceReplicate, foldl_bytes] at heq)
  )))
     all_goals (first | (simp [-List.reduceReplicate, foldl_bytes]; done) | (simp [*, -List.reduceReplicate, foldl_bytes]; done) | (simp_all [-List.reduceReplicate, foldl_bytes]; done)))
  | (simp only [logCe]
     refine foldl_bytes _ (fun s a => ?_) _ _
     (repeat' split) <;> simp [-List.reduceReplicate, foldl_bytes])
  | (simp only [logCe]
     (repeat' split) <;> first
       | (simp [-List.reduceReplicate, foldl_bytes]; done)
       | (refine (foldl_bytes _ (fun s a => ?_) _ _).trans ?_
          all_goals ((repeat' split) <;> simp [-List.reduceReplicate, foldl_bytes])))

@[simp] theorem correct_bytes (id : Nat) (name : LineName) (codewords : Nat) (bursts : List Nat) (wrong : List (Nat × Byte)) (scrub : Bool) (s : State) :
    (correct id name codewords bursts wrong scrub s).bytes = s.bytes := by
  first
  | (simp [correct, -List.reduceReplicate, foldl_bytes]; done)
  | (simp only [correct]; (repeat' split) <;> simp [-List.reduceReplicate, foldl_bytes] <;> done)
  | (simp only [correct]
     repeat' (split <;> (try (rename_i heq; first
       | (replace heq := (congrArg (fun x => (Prod.snd x).bytes) heq).symm; simp [-List.reduceReplicate, foldl_bytes] at heq)
  )))
     all_goals (first | (simp [-List.reduceReplicate, foldl_bytes]; done) | (simp [*, -List.reduceReplicate, foldl_bytes]; done) | (simp_all [-List.reduceReplicate, foldl_bytes]; done)))
  | (simp only [correct]
     refine foldl_bytes _ (fun s a => ?_) _ _
     (repeat' split) <;> simp [-List.reduceReplicate, foldl_bytes])
  | (simp only [correct]
     (repeat' split) <;> first
       | (simp [-List.reduceReplicate, foldl_bytes]; done)
       | (refine (foldl_bytes _ (fun s a => ?_) _ _).trans ?_
          all_goals ((repeat' split) <;> simp [-List.reduceReplicate, foldl_bytes])))

@[simp] theorem traceSram_bytes (p : SramPlace) (s : State) :
    (traceSram p s).bytes = s.bytes := by
  first
  | (simp [traceSram, -List.reduceReplicate, foldl_bytes]; done)
  | (simp only [traceSram]; (repeat' split) <;> simp [-List.reduceReplicate, foldl_bytes] <;> done)
  | (simp only [traceSram]
     repeat' (split <;> (try (rename_i heq; first
       | (replace heq := (congrArg (fun x => (Prod.snd x).bytes) heq).symm; simp [-List.reduceReplicate, foldl_bytes] at heq)
  )))
     all_goals (first | (simp [-List.reduceReplicate, foldl_bytes]; done) | (simp [*, -List.reduceReplicate, foldl_bytes]; done) | (simp_all [-List.reduceReplicate, foldl_bytes]; done)))
  | (simp only [traceSram]
     refine foldl_bytes _ (fun s a => ?_) _ _
     (repeat' split) <;> simp [-List.reduceReplicate, foldl_bytes])
  | (simp only [traceSram]
     (repeat' split) <;> first
       | (simp [-List.reduceReplicate, foldl_bytes]; done)
       | (refine (foldl_bytes _ (fun s a => ?_) _ _).trans ?_
          all_goals ((repeat' split) <;> simp [-List.reduceReplicate, foldl_bytes])))

@[simp] theorem meetSram_bytes (p : SramPlace) (s : State) :
    (meetSram p s).2.bytes = s.bytes := by
  first
  | (simp [meetSram, -List.reduceReplicate, foldl_bytes]; done)
  | (simp only [meetSram]; (repeat' split) <;> simp [-List.reduceReplicate, foldl_bytes] <;> done)
  | (simp only [meetSram]
     repeat' (split <;> (try (rename_i heq; first
       | (replace heq := (congrArg (fun x => (Prod.snd x).bytes) heq).symm; simp [-List.reduceReplicate, foldl_bytes] at heq)
  )))
     all_goals (first | (simp [-List.reduceReplicate, foldl_bytes]; done) | (simp [*, -List.reduceReplicate, foldl_bytes]; done) | (simp_all [-List.reduceReplicate, foldl_bytes]; done)))
  | (simp only [meetSram]
     refine foldl_bytes _ (fun s a => ?_) _ _
     (repeat' split) <;> simp [-List.reduceReplicate, foldl_bytes])
  | (simp only [meetSram]
     (repeat' split) <;> first
       | (simp [-List.reduceReplicate, foldl_bytes]; done)
       | (refine (foldl_bytes _ (fun s a => ?_) _ _).trans ?_
          all_goals ((repeat' split) <;> simp [-List.reduceReplicate, foldl_bytes])))

@[simp] theorem clearSram_bytes (p : SramPlace) (s : State) :
    (clearSram p s).bytes = s.bytes := by
  first
  | (simp [clearSram, -List.reduceReplicate, foldl_bytes]; done)
  | (simp only [clearSram]; (repeat' split) <;> simp [-List.reduceReplicate, foldl_bytes] <;> done)
  | (simp only [clearSram]
     repeat' (split <;> (try (rename_i heq; first
       | (replace heq := (congrArg (fun x => (Prod.snd x).bytes) heq).symm; simp [-List.reduceReplicate, foldl_bytes] at heq)
  )))
     all_goals (first | (simp [-List.reduceReplicate, foldl_bytes]; done) | (simp [*, -List.reduceReplicate, foldl_bytes]; done) | (simp_all [-List.reduceReplicate, foldl_bytes]; done)))
  | (simp only [clearSram]
     refine foldl_bytes _ (fun s a => ?_) _ _
     (repeat' split) <;> simp [-List.reduceReplicate, foldl_bytes])
  | (simp only [clearSram]
     (repeat' split) <;> first
       | (simp [-List.reduceReplicate, foldl_bytes]; done)
       | (refine (foldl_bytes _ (fun s a => ?_) _ _).trans ?_
          all_goals ((repeat' split) <;> simp [-List.reduceReplicate, foldl_bytes])))

@[simp] theorem journal_bytes (k n : Nat) (s : State) :
    (journal k n s).bytes = s.bytes := by
  first
  | (simp [journal, -List.reduceReplicate, foldl_bytes]; done)
  | (simp only [journal]; (repeat' split) <;> simp [-List.reduceReplicate, foldl_bytes] <;> done)
  | (simp only [journal]
     repeat' (split <;> (try (rename_i heq; first
       | (replace heq := (congrArg (fun x => (Prod.snd x).bytes) heq).symm; simp [-List.reduceReplicate, foldl_bytes] at heq)
  )))
     all_goals (first | (simp [-List.reduceReplicate, foldl_bytes]; done) | (simp [*, -List.reduceReplicate, foldl_bytes]; done) | (simp_all [-List.reduceReplicate, foldl_bytes]; done)))
  | (simp only [journal]
     refine foldl_bytes _ (fun s a => ?_) _ _
     (repeat' split) <;> simp [-List.reduceReplicate, foldl_bytes])
  | (simp only [journal]
     (repeat' split) <;> first
       | (simp [-List.reduceReplicate, foldl_bytes]; done)
       | (refine (foldl_bytes _ (fun s a => ?_) _ _).trans ?_
          all_goals ((repeat' split) <;> simp [-List.reduceReplicate, foldl_bytes])))

@[simp] theorem markWritten_bytes (k first count : Nat) (s : State) :
    (markWritten k first count s).bytes = s.bytes := by
  first
  | (simp [markWritten, -List.reduceReplicate, foldl_bytes]; done)
  | (simp only [markWritten]; (repeat' split) <;> simp [-List.reduceReplicate, foldl_bytes] <;> done)
  | (simp only [markWritten]
     repeat' (split <;> (try (rename_i heq; first
       | (replace heq := (congrArg (fun x => (Prod.snd x).bytes) heq).symm; simp [-List.reduceReplicate, foldl_bytes] at heq)
  )))
     all_goals (first | (simp [-List.reduceReplicate, foldl_bytes]; done) | (simp [*, -List.reduceReplicate, foldl_bytes]; done) | (simp_all [-List.reduceReplicate, foldl_bytes]; done)))
  | (simp only [markWritten]
     refine foldl_bytes _ (fun s a => ?_) _ _
     (repeat' split) <;> simp [-List.reduceReplicate, foldl_bytes])
  | (simp only [markWritten]
     (repeat' split) <;> first
       | (simp [-List.reduceReplicate, foldl_bytes]; done)
       | (refine (foldl_bytes _ (fun s a => ?_) _ _).trans ?_
          all_goals ((repeat' split) <;> simp [-List.reduceReplicate, foldl_bytes])))

@[simp] theorem writeCheck_bytes (k n : Nat) (s : State) :
    (writeCheck k n s).bytes = s.bytes := by
  first
  | (simp [writeCheck, -List.reduceReplicate, foldl_bytes]; done)
  | (simp only [writeCheck]; (repeat' split) <;> simp [-List.reduceReplicate, foldl_bytes] <;> done)
  | (simp only [writeCheck]
     repeat' (split <;> (try (rename_i heq; first
       | (replace heq := (congrArg (fun x => (Prod.snd x).bytes) heq).symm; simp [-List.reduceReplicate, foldl_bytes] at heq)
  )))
     all_goals (first | (simp [-List.reduceReplicate, foldl_bytes]; done) | (simp [*, -List.reduceReplicate, foldl_bytes]; done) | (simp_all [-List.reduceReplicate, foldl_bytes]; done)))
  | (simp only [writeCheck]
     refine foldl_bytes _ (fun s a => ?_) _ _
     (repeat' split) <;> simp [-List.reduceReplicate, foldl_bytes])
  | (simp only [writeCheck]
     (repeat' split) <;> first
       | (simp [-List.reduceReplicate, foldl_bytes]; done)
       | (refine (foldl_bytes _ (fun s a => ?_) _ _).trans ?_
          all_goals ((repeat' split) <;> simp [-List.reduceReplicate, foldl_bytes])))

@[simp] theorem badCheck_bytes (k n : Nat) (s : State) :
    (badCheck k n s).bytes = s.bytes := by
  first
  | (simp [badCheck, -List.reduceReplicate, foldl_bytes]; done)
  | (simp only [badCheck]; (repeat' split) <;> simp [-List.reduceReplicate, foldl_bytes] <;> done)
  | (simp only [badCheck]
     repeat' (split <;> (try (rename_i heq; first
       | (replace heq := (congrArg (fun x => (Prod.snd x).bytes) heq).symm; simp [-List.reduceReplicate, foldl_bytes] at heq)
  )))
     all_goals (first | (simp [-List.reduceReplicate, foldl_bytes]; done) | (simp [*, -List.reduceReplicate, foldl_bytes]; done) | (simp_all [-List.reduceReplicate, foldl_bytes]; done)))
  | (simp only [badCheck]
     refine foldl_bytes _ (fun s a => ?_) _ _
     (repeat' split) <;> simp [-List.reduceReplicate, foldl_bytes])
  | (simp only [badCheck]
     (repeat' split) <;> first
       | (simp [-List.reduceReplicate, foldl_bytes]; done)
       | (refine (foldl_bytes _ (fun s a => ?_) _ _).trans ?_
          all_goals ((repeat' split) <;> simp [-List.reduceReplicate, foldl_bytes])))

@[simp] theorem wrongCheck_bytes (k n : Nat) (wrong : List (Nat × Byte)) (s : State) :
    (wrongCheck k n wrong s).bytes = s.bytes := by
  first
  | (simp [wrongCheck, -List.reduceReplicate, foldl_bytes]; done)
  | (simp only [wrongCheck]; (repeat' split) <;> simp [-List.reduceReplicate, foldl_bytes] <;> done)
  | (simp only [wrongCheck]
     repeat' (split <;> (try (rename_i heq; first
       | (replace heq := (congrArg (fun x => (Prod.snd x).bytes) heq).symm; simp [-List.reduceReplicate, foldl_bytes] at heq)
  )))
     all_goals (first | (simp [-List.reduceReplicate, foldl_bytes]; done) | (simp [*, -List.reduceReplicate, foldl_bytes]; done) | (simp_all [-List.reduceReplicate, foldl_bytes]; done)))
  | (simp only [wrongCheck]
     refine foldl_bytes _ (fun s a => ?_) _ _
     (repeat' split) <;> simp [-List.reduceReplicate, foldl_bytes])
  | (simp only [wrongCheck]
     (repeat' split) <;> first
       | (simp [-List.reduceReplicate, foldl_bytes]; done)
       | (refine (foldl_bytes _ (fun s a => ?_) _ _).trans ?_
          all_goals ((repeat' split) <;> simp [-List.reduceReplicate, foldl_bytes])))

@[simp] theorem readCheck_bytes (k n : Nat) (scrub : Bool) (s : State) :
    (readCheck k n scrub s).2.bytes = s.bytes := by
  first
  | (simp [readCheck, -List.reduceReplicate, foldl_bytes]; done)
  | (simp only [readCheck]; (repeat' split) <;> simp [-List.reduceReplicate, foldl_bytes] <;> done)
  | (simp only [readCheck]
     repeat' (split <;> (try (rename_i heq; first
       | (replace heq := (congrArg (fun x => (Prod.snd x).bytes) heq).symm; simp [-List.reduceReplicate, foldl_bytes] at heq)
  )))
     all_goals (first | (simp [-List.reduceReplicate, foldl_bytes]; done) | (simp [*, -List.reduceReplicate, foldl_bytes]; done) | (simp_all [-List.reduceReplicate, foldl_bytes]; done)))
  | (simp only [readCheck]
     refine foldl_bytes _ (fun s a => ?_) _ _
     (repeat' split) <;> simp [-List.reduceReplicate, foldl_bytes])
  | (simp only [readCheck]
     (repeat' split) <;> first
       | (simp [-List.reduceReplicate, foldl_bytes]; done)
       | (refine (foldl_bytes _ (fun s a => ?_) _ _).trans ?_
          all_goals ((repeat' split) <;> simp [-List.reduceReplicate, foldl_bytes])))

@[simp] theorem setCache_bytes (die : Nat) (l : List CheckLine) (s : State) :
    (setCache die l s).bytes = s.bytes := by
  first
  | (simp [setCache, -List.reduceReplicate, foldl_bytes]; done)
  | (simp only [setCache]; (repeat' split) <;> simp [-List.reduceReplicate, foldl_bytes] <;> done)
  | (simp only [setCache]
     repeat' (split <;> (try (rename_i heq; first
       | (replace heq := (congrArg (fun x => (Prod.snd x).bytes) heq).symm; simp [-List.reduceReplicate, foldl_bytes] at heq)
  )))
     all_goals (first | (simp [-List.reduceReplicate, foldl_bytes]; done) | (simp [*, -List.reduceReplicate, foldl_bytes]; done) | (simp_all [-List.reduceReplicate, foldl_bytes]; done)))
  | (simp only [setCache]
     refine foldl_bytes _ (fun s a => ?_) _ _
     (repeat' split) <;> simp [-List.reduceReplicate, foldl_bytes])
  | (simp only [setCache]
     (repeat' split) <;> first
       | (simp [-List.reduceReplicate, foldl_bytes]; done)
       | (refine (foldl_bytes _ (fun s a => ?_) _ _).trans ?_
          all_goals ((repeat' split) <;> simp [-List.reduceReplicate, foldl_bytes])))

@[simp] theorem meetCheck_bytes (id : Nat) (s : State) : (meetCheck id s).2.bytes = s.bytes := by
  have h := meetSram_bytes (.check id) s
  simp only [meetCheck]; split <;> rename_i e <;> rw [e] at h <;> simp [← h]

@[simp] theorem writeBack_bytes (e : CheckLine) (s : State) : (writeBack e s).bytes = s.bytes := by
  have h := meetCheck_bytes e.line s
  simp only [writeBack]
  split
  · split <;> rename_i g <;> rw [g] at h <;> simp_all
  · simp

@[simp] theorem evict_bytes (die : Nat) (s : State) :
    (evict die s).bytes = s.bytes := by
  first
  | (simp [evict, -List.reduceReplicate, foldl_bytes]; done)
  | (simp only [evict]; (repeat' split) <;> simp [-List.reduceReplicate, foldl_bytes] <;> done)
  | (simp only [evict]
     repeat' (split <;> (try (rename_i heq; first
       | (replace heq := (congrArg (fun x => (Prod.snd x).bytes) heq).symm; simp [-List.reduceReplicate, foldl_bytes] at heq)
  )))
     all_goals (first | (simp [-List.reduceReplicate, foldl_bytes]; done) | (simp [*, -List.reduceReplicate, foldl_bytes]; done) | (simp_all [-List.reduceReplicate, foldl_bytes]; done)))
  | (simp only [evict]
     refine foldl_bytes _ (fun s a => ?_) _ _
     (repeat' split) <;> simp [-List.reduceReplicate, foldl_bytes])
  | (simp only [evict]
     (repeat' split) <;> first
       | (simp [-List.reduceReplicate, foldl_bytes]; done)
       | (refine (foldl_bytes _ (fun s a => ?_) _ _).trans ?_
          all_goals ((repeat' split) <;> simp [-List.reduceReplicate, foldl_bytes])))

@[simp] theorem useCheck_bytes (k n : Nat) (write : Bool) (s : State) :
    (useCheck k n write s).2.bytes = s.bytes := by
  first
  | (simp [useCheck, -List.reduceReplicate, foldl_bytes]; done)
  | (simp only [useCheck]; (repeat' split) <;> simp [-List.reduceReplicate, foldl_bytes] <;> done)
  | (simp only [useCheck]
     repeat' (split <;> (try (rename_i heq; first
       | (replace heq := (congrArg (fun x => (Prod.snd x).bytes) heq).symm; simp [-List.reduceReplicate, foldl_bytes] at heq)
  )))
     all_goals (first | (simp [-List.reduceReplicate, foldl_bytes]; done) | (simp [*, -List.reduceReplicate, foldl_bytes]; done) | (simp_all [-List.reduceReplicate, foldl_bytes]; done)))
  | (simp only [useCheck]
     refine foldl_bytes _ (fun s a => ?_) _ _
     (repeat' split) <;> simp [-List.reduceReplicate, foldl_bytes])
  | (simp only [useCheck]
     (repeat' split) <;> first
       | (simp [-List.reduceReplicate, foldl_bytes]; done)
       | (refine (foldl_bytes _ (fun s a => ?_) _ _).trans ?_
          all_goals ((repeat' split) <;> simp [-List.reduceReplicate, foldl_bytes])))

@[simp] theorem localise_bytes (id : Nat) (name : LineName) (s : State) :
    (localise id name s).2.bytes = s.bytes := by
  first
  | (simp [localise, -List.reduceReplicate, foldl_bytes]; done)
  | (simp only [localise]; (repeat' split) <;> simp [-List.reduceReplicate, foldl_bytes] <;> done)
  | (simp only [localise]
     repeat' (split <;> (try (rename_i heq; first
       | (replace heq := (congrArg (fun x => (Prod.snd x).bytes) heq).symm; simp [-List.reduceReplicate, foldl_bytes] at heq)
  )))
     all_goals (first | (simp [-List.reduceReplicate, foldl_bytes]; done) | (simp [*, -List.reduceReplicate, foldl_bytes]; done) | (simp_all [-List.reduceReplicate, foldl_bytes]; done)))
  | (simp only [localise]
     refine foldl_bytes _ (fun s a => ?_) _ _
     (repeat' split) <;> simp [-List.reduceReplicate, foldl_bytes])
  | (simp only [localise]
     (repeat' split) <;> first
       | (simp [-List.reduceReplicate, foldl_bytes]; done)
       | (refine (foldl_bytes _ (fun s a => ?_) _ _).trans ?_
          all_goals ((repeat' split) <;> simp [-List.reduceReplicate, foldl_bytes])))

@[simp] theorem uncorrectableLine_bytes (id : Nat) (counted : Bool) (s : State) :
    (uncorrectableLine id counted s).bytes = s.bytes := by
  first
  | (simp [uncorrectableLine, -List.reduceReplicate, foldl_bytes]; done)
  | (simp only [uncorrectableLine]; (repeat' split) <;> simp [-List.reduceReplicate, foldl_bytes] <;> done)
  | (simp only [uncorrectableLine]
     repeat' (split <;> (try (rename_i heq; first
       | (replace heq := (congrArg (fun x => (Prod.snd x).bytes) heq).symm; simp [-List.reduceReplicate, foldl_bytes] at heq)
  )))
     all_goals (first | (simp [-List.reduceReplicate, foldl_bytes]; done) | (simp [*, -List.reduceReplicate, foldl_bytes]; done) | (simp_all [-List.reduceReplicate, foldl_bytes]; done)))
  | (simp only [uncorrectableLine]
     refine foldl_bytes _ (fun s a => ?_) _ _
     (repeat' split) <;> simp [-List.reduceReplicate, foldl_bytes])
  | (simp only [uncorrectableLine]
     (repeat' split) <;> first
       | (simp [-List.reduceReplicate, foldl_bytes]; done)
       | (refine (foldl_bytes _ (fun s a => ?_) _ _).trans ?_
          all_goals ((repeat' split) <;> simp [-List.reduceReplicate, foldl_bytes])))

@[simp] theorem patternFound_bytes (id : Nat) (name : LineName) (s : State) :
    (patternFound id name s).2.bytes = s.bytes := by
  first
  | (simp [patternFound, -List.reduceReplicate, foldl_bytes]; done)
  | (simp only [patternFound]; (repeat' split) <;> simp [-List.reduceReplicate, foldl_bytes] <;> done)
  | (simp only [patternFound]
     repeat' (split <;> (try (rename_i heq; first
       | (replace heq := (congrArg (fun x => (Prod.snd x).bytes) heq).symm; simp [-List.reduceReplicate, foldl_bytes] at heq)
  )))
     all_goals (first | (simp [-List.reduceReplicate, foldl_bytes]; done) | (simp [*, -List.reduceReplicate, foldl_bytes]; done) | (simp_all [-List.reduceReplicate, foldl_bytes]; done)))
  | (simp only [patternFound]
     refine foldl_bytes _ (fun s a => ?_) _ _
     (repeat' split) <;> simp [-List.reduceReplicate, foldl_bytes])
  | (simp only [patternFound]
     (repeat' split) <;> first
       | (simp [-List.reduceReplicate, foldl_bytes]; done)
       | (refine (foldl_bytes _ (fun s a => ?_) _ _).trans ?_
          all_goals ((repeat' split) <;> simp [-List.reduceReplicate, foldl_bytes])))

@[simp] theorem decodeLine_bytes (id : Nat) (name : LineName) (scrub : Bool) (s : State) :
    (decodeLine id name scrub s).2.bytes = s.bytes := by
  first
  | (simp [decodeLine, -List.reduceReplicate, foldl_bytes]; done)
  | (simp only [decodeLine]; (repeat' split) <;> simp [-List.reduceReplicate, foldl_bytes] <;> done)
  | (simp only [decodeLine]
     repeat' (split <;> (try (rename_i heq; first
       | (replace heq := (congrArg (fun x => (Prod.snd x).bytes) heq).symm; simp [-List.reduceReplicate, foldl_bytes] at heq)
  )))
     all_goals (first | (simp [-List.reduceReplicate, foldl_bytes]; done) | (simp [*, -List.reduceReplicate, foldl_bytes]; done) | (simp_all [-List.reduceReplicate, foldl_bytes]; done)))
  | (simp only [decodeLine]
     refine foldl_bytes _ (fun s a => ?_) _ _
     (repeat' split) <;> simp [-List.reduceReplicate, foldl_bytes])
  | (simp only [decodeLine]
     (repeat' split) <;> first
       | (simp [-List.reduceReplicate, foldl_bytes]; done)
       | (refine (foldl_bytes _ (fun s a => ?_) _ _).trans ?_
          all_goals ((repeat' split) <;> simp [-List.reduceReplicate, foldl_bytes])))

@[simp] theorem readLine_bytes (id : Nat) (name : LineName) (s : State) :
    (readLine id name s).2.bytes = s.bytes := by
  first
  | (simp [readLine, -List.reduceReplicate, foldl_bytes]; done)
  | (simp only [readLine]; (repeat' split) <;> simp [-List.reduceReplicate, foldl_bytes] <;> done)
  | (simp only [readLine]
     repeat' (split <;> (try (rename_i heq; first
       | (replace heq := (congrArg (fun x => (Prod.snd x).bytes) heq).symm; simp [-List.reduceReplicate, foldl_bytes] at heq)
  )))
     all_goals (first | (simp [-List.reduceReplicate, foldl_bytes]; done) | (simp [*, -List.reduceReplicate, foldl_bytes]; done) | (simp_all [-List.reduceReplicate, foldl_bytes]; done)))
  | (simp only [readLine]
     refine foldl_bytes _ (fun s a => ?_) _ _
     (repeat' split) <;> simp [-List.reduceReplicate, foldl_bytes])
  | (simp only [readLine]
     (repeat' split) <;> first
       | (simp [-List.reduceReplicate, foldl_bytes]; done)
       | (refine (foldl_bytes _ (fun s a => ?_) _ _).trans ?_
          all_goals ((repeat' split) <;> simp [-List.reduceReplicate, foldl_bytes])))

@[simp] theorem reportUncorr_bytes (name : LineName) (id : Nat) (s : State) :
    (reportUncorr name id s).2.bytes = s.bytes := by
  first
  | (simp [reportUncorr, -List.reduceReplicate, foldl_bytes]; done)
  | (simp only [reportUncorr]; (repeat' split) <;> simp [-List.reduceReplicate, foldl_bytes] <;> done)
  | (simp only [reportUncorr]
     repeat' (split <;> (try (rename_i heq; first
       | (replace heq := (congrArg (fun x => (Prod.snd x).bytes) heq).symm; simp [-List.reduceReplicate, foldl_bytes] at heq)
  )))
     all_goals (first | (simp [-List.reduceReplicate, foldl_bytes]; done) | (simp [*, -List.reduceReplicate, foldl_bytes]; done) | (simp_all [-List.reduceReplicate, foldl_bytes]; done)))
  | (simp only [reportUncorr]
     refine foldl_bytes _ (fun s a => ?_) _ _
     (repeat' split) <;> simp [-List.reduceReplicate, foldl_bytes])
  | (simp only [reportUncorr]
     (repeat' split) <;> first
       | (simp [-List.reduceReplicate, foldl_bytes]; done)
       | (refine (foldl_bytes _ (fun s a => ?_) _ _).trans ?_
          all_goals ((repeat' split) <;> simp [-List.reduceReplicate, foldl_bytes])))

@[simp] theorem reportCrc_bytes (name : LineName) (detected lastGood : Nat) (source : Nat) (s : State) :
    (reportCrc name detected lastGood source s).2.bytes = s.bytes := by
  first
  | (simp [reportCrc, -List.reduceReplicate, foldl_bytes]; done)
  | (simp only [reportCrc]; (repeat' split) <;> simp [-List.reduceReplicate, foldl_bytes] <;> done)
  | (simp only [reportCrc]
     repeat' (split <;> (try (rename_i heq; first
       | (replace heq := (congrArg (fun x => (Prod.snd x).bytes) heq).symm; simp [-List.reduceReplicate, foldl_bytes] at heq)
  )))
     all_goals (first | (simp [-List.reduceReplicate, foldl_bytes]; done) | (simp [*, -List.reduceReplicate, foldl_bytes]; done) | (simp_all [-List.reduceReplicate, foldl_bytes]; done)))
  | (simp only [reportCrc]
     refine foldl_bytes _ (fun s a => ?_) _ _
     (repeat' split) <;> simp [-List.reduceReplicate, foldl_bytes])
  | (simp only [reportCrc]
     (repeat' split) <;> first
       | (simp [-List.reduceReplicate, foldl_bytes]; done)
       | (refine (foldl_bytes _ (fun s a => ?_) _ _).trans ?_
          all_goals ((repeat' split) <;> simp [-List.reduceReplicate, foldl_bytes])))

@[simp] theorem reportSram_bytes (p : SramPlace) (s : State) :
    (reportSram p s).2.bytes = s.bytes := by
  first
  | (simp [reportSram, -List.reduceReplicate, foldl_bytes]; done)
  | (simp only [reportSram]; (repeat' split) <;> simp [-List.reduceReplicate, foldl_bytes] <;> done)
  | (simp only [reportSram]
     repeat' (split <;> (try (rename_i heq; first
       | (replace heq := (congrArg (fun x => (Prod.snd x).bytes) heq).symm; simp [-List.reduceReplicate, foldl_bytes] at heq)
  )))
     all_goals (first | (simp [-List.reduceReplicate, foldl_bytes]; done) | (simp [*, -List.reduceReplicate, foldl_bytes]; done) | (simp_all [-List.reduceReplicate, foldl_bytes]; done)))
  | (simp only [reportSram]
     refine foldl_bytes _ (fun s a => ?_) _ _
     (repeat' split) <;> simp [-List.reduceReplicate, foldl_bytes])
  | (simp only [reportSram]
     (repeat' split) <;> first
       | (simp [-List.reduceReplicate, foldl_bytes]; done)
       | (refine (foldl_bytes _ (fun s a => ?_) _ _).trans ?_
          all_goals ((repeat' split) <;> simp [-List.reduceReplicate, foldl_bytes])))

@[simp] theorem takeLine_bytes (id : Nat) (name : LineName) (die : Option Nat) (here : Nat) (s : State) :
    (takeLine id name die here s).2.bytes = s.bytes := by
  first
  | (simp [takeLine, -List.reduceReplicate, foldl_bytes]; done)
  | (simp only [takeLine]; (repeat' split) <;> simp [-List.reduceReplicate, foldl_bytes] <;> done)
  | (simp only [takeLine]
     repeat' (split <;> (try (rename_i heq; first
       | (replace heq := (congrArg (fun x => (Prod.snd x).bytes) heq).symm; simp [-List.reduceReplicate, foldl_bytes] at heq)
  )))
     all_goals (first | (simp [-List.reduceReplicate, foldl_bytes]; done) | (simp [*, -List.reduceReplicate, foldl_bytes]; done) | (simp_all [-List.reduceReplicate, foldl_bytes]; done)))
  | (simp only [takeLine]
     refine foldl_bytes _ (fun s a => ?_) _ _
     (repeat' split) <;> simp [-List.reduceReplicate, foldl_bytes])
  | (simp only [takeLine]
     (repeat' split) <;> first
       | (simp [-List.reduceReplicate, foldl_bytes]; done)
       | (refine (foldl_bytes _ (fun s a => ?_) _ _).trans ?_
          all_goals ((repeat' split) <;> simp [-List.reduceReplicate, foldl_bytes])))

@[simp] theorem checkForWrite_bytes (id : Nat) (s : State) :
    (checkForWrite id s).2.bytes = s.bytes := by
  first
  | (simp [checkForWrite, -List.reduceReplicate, foldl_bytes]; done)
  | (simp only [checkForWrite]; (repeat' split) <;> simp [-List.reduceReplicate, foldl_bytes] <;> done)
  | (simp only [checkForWrite]
     repeat' (split <;> (try (rename_i heq; first
       | (replace heq := (congrArg (fun x => (Prod.snd x).bytes) heq).symm; simp [-List.reduceReplicate, foldl_bytes] at heq)
  )))
     all_goals (first | (simp [-List.reduceReplicate, foldl_bytes]; done) | (simp [*, -List.reduceReplicate, foldl_bytes]; done) | (simp_all [-List.reduceReplicate, foldl_bytes]; done)))
  | (simp only [checkForWrite]
     refine foldl_bytes _ (fun s a => ?_) _ _
     (repeat' split) <;> simp [-List.reduceReplicate, foldl_bytes])
  | (simp only [checkForWrite]
     (repeat' split) <;> first
       | (simp [-List.reduceReplicate, foldl_bytes]; done)
       | (refine (foldl_bytes _ (fun s a => ?_) _ _).trans ?_
          all_goals ((repeat' split) <;> simp [-List.reduceReplicate, foldl_bytes])))

@[simp] theorem raisePoisoned_bytes (fs : List Fail) (s : State) :
    (raisePoisoned fs s).bytes = s.bytes := by
  first
  | (simp [raisePoisoned, -List.reduceReplicate, foldl_bytes]; done)
  | (simp only [raisePoisoned]; (repeat' split) <;> simp [-List.reduceReplicate, foldl_bytes] <;> done)
  | (simp only [raisePoisoned]
     repeat' (split <;> (try (rename_i heq; first
       | (replace heq := (congrArg (fun x => (Prod.snd x).bytes) heq).symm; simp [-List.reduceReplicate, foldl_bytes] at heq)
  )))
     all_goals (first | (simp [-List.reduceReplicate, foldl_bytes]; done) | (simp [*, -List.reduceReplicate, foldl_bytes]; done) | (simp_all [-List.reduceReplicate, foldl_bytes]; done)))
  | (simp only [raisePoisoned]
     refine foldl_bytes _ (fun s a => ?_) _ _
     (repeat' split) <;> simp [-List.reduceReplicate, foldl_bytes])
  | (simp only [raisePoisoned]
     (repeat' split) <;> first
       | (simp [-List.reduceReplicate, foldl_bytes]; done)
       | (refine (foldl_bytes _ (fun s a => ?_) _ _).trans ?_
          all_goals ((repeat' split) <;> simp [-List.reduceReplicate, foldl_bytes])))

/-! ### Operations that write them -/

@[simp] theorem storeLine_bytes (id : Nat) (b : List Byte) (m : Nat) (s : State) :
    (storeLine id b m s).bytes = (putBytes s.bytes.1 (id * 512) b, s.bytes.2) := by
  simp only [storeLine]; split <;> simp

@[simp] theorem hostWrite_bytes (a : Nat) (b : List Byte) (s : State) :
    (hostWrite a b s).bytes = (s.bytes.1, putBytes s.bytes.2 a b) := by
  simp [hostWrite]

theorem clearLine_bytes (id : Nat) (s : State) :
    (clearLine id s).2.bytes = s.bytes ∨
      (clearLine id s).2.bytes = (putBytes s.bytes.1 (id * 512) (List.replicate 512 0), s.bytes.2) := by
  have h : (if isHbm id then (useCheck (lineStack id) (validLineOf (lineNo id)) (s.valid id) s).2 else s).bytes = s.bytes := by
    split <;> simp
  simp only [clearLine]
  generalize List.replicate 512 (0 : Byte) = z
  split
  · exact .inl rfl
  · revert h
    generalize (if isHbm id = true then (useCheck (lineStack id) (validLineOf (lineNo id)) (s.valid id) s).2 else s) = u
    intro h
    split
    · exact .inl h
    · right
      split <;> simp_all

theorem reset_canonical : State.reset.canonical = true := rfl

theorem canonical_of_bytes {s t : State} (h : t.bytes = s.bytes) (w : s.canonical = true) : t.canonical = true := by
  unfold State.canonical at *; rw [h]; exact w

theorem storeLine_canonical (id : Nat) (b : List Byte) (m : Nat) {s : State} (w : s.canonical = true) :
    (storeLine id b m s).canonical = true := by
  simp only [State.canonical, Bool.and_eq_true] at w ⊢
  rw [storeLine_bytes]
  exact ⟨memory_wf_putBytes w.1 _ _, w.2⟩

theorem hostWrite_canonical (a : Nat) (b : List Byte) {s : State} (w : s.canonical = true) : (hostWrite a b s).canonical = true := by
  simp only [State.canonical, Bool.and_eq_true] at w ⊢
  rw [hostWrite_bytes]
  exact ⟨w.1, memory_wf_putBytes w.2 _ _⟩

theorem clearLine_canonical (id : Nat) {s : State} (w : s.canonical = true) : (clearLine id s).2.canonical = true := by
  simp only [State.canonical, Bool.and_eq_true] at w ⊢
  rcases clearLine_bytes id s with h | h
  · rw [h]; exact w
  · generalize List.replicate 512 (0 : Byte) = z at h
    rw [h]; exact ⟨memory_wf_putBytes w.1 _ _, w.2⟩

theorem checkForWrite_canonical (id : Nat) {s : State} (w : s.canonical = true) : (checkForWrite id s).2.canonical = true :=
  canonical_of_bytes (checkForWrite_bytes id s) w

theorem writeLine_canonical (id : Nat) (n : LineName) (b : List Byte) (x : BitVec 32) (m : Nat) {s : State} (w : s.canonical = true) :
    (writeLine id n b x m s).2.canonical = true := by
  have h := checkForWrite_canonical id w
  simp only [writeLine]
  split
  · split
    · exact w
    split
    · exact canonical_of_bytes (by simp) w
    split <;> rename_i e <;> rw [e] at h
    · exact storeLine_canonical _ _ _ h
    · exact h
  · split
    · exact canonical_of_bytes (by simp) (storeLine_canonical id b m w)
    · exact storeLine_canonical _ _ _ w

theorem mergeLine_canonical (id : Nat) (n : LineName) (pos : Nat) (b : List Byte) {s : State} (w : s.canonical = true) :
    (mergeLine id n pos b s).2.canonical = true := by
  have h : (readLine id n s).2.canonical = true := canonical_of_bytes (readLine_bytes id n s) w
  simp only [mergeLine]
  split <;> rename_i e <;> rw [e] at h
  · split
    · exact canonical_of_bytes (by simp) h
    · rename_i old _ _ _ _
      have h' := checkForWrite_canonical id h
      split
      · split <;> rename_i e <;> dsimp only at h' <;> rw [e] at h'
        · exact canonical_of_bytes (by simp) (storeLine_canonical id (splice old pos b) 3 h')
        · exact h'
      · exact canonical_of_bytes (by simp) (storeLine_canonical id (splice old pos b) 3 h)
  · exact canonical_of_bytes (by simp) h
  · exact h
  · exact canonical_of_bytes (by simp) h

theorem writePiece_canonical (die : Option Nat) (h : BitVec 32) (i : Nat) (d : Desc) (p : Nat × Nat × List Byte) {s : State}
    (w : s.canonical = true) : (writePiece die h i d p s).2.canonical = true := by
  have w' : (traffic i 1 s).canonical = true := canonical_of_bytes (by simp) w
  simp only [writePiece]
  split
  · exact writeLine_canonical _ _ _ _ _ w'
  · exact mergeLine_canonical _ _ _ _ w'

theorem writePieces_canonical (die : Option Nat) (h : BitVec 32) (i : Nat) (d : Desc) (l : List (Nat × Nat × List Byte)) {s : State}
    (w : s.canonical = true) : (writePieces die h i d l s).2.canonical = true := by
  induction l generalizing s with
  | nil => exact w
  | cons p l ih => exact ih (writePiece_canonical die h i d p w)

/-- Writing a handle's bytes keeps the canonical form. -/
theorem writeFrom_canonical (die : Option Nat) (h : BitVec 32) (off : Nat) (b : List Byte) {s : State} (w : s.canonical = true) :
    (writeFrom die h off b s).2.canonical = true := by
  simp only [writeFrom]
  split
  · exact w
  · exact writePieces_canonical _ _ _ _ _ w

theorem writeBytes_canonical (h : BitVec 32) (off : Nat) (b : List Byte) {s : State} (w : s.canonical = true) :
    (writeBytes h off b s).2.canonical = true := writeFrom_canonical none h off b w

theorem writeEach_canonical (h : BitVec 32) (i : Nat) (d : Desc) (l : List (Nat × Nat × List Byte)) {s : State}
    (w : s.canonical = true) : (writeEach h i d l s).2.canonical = true := by
  induction l generalizing s with
  | nil => exact w
  | cons p l ih => exact ih (writePiece_canonical none h i d p w)

theorem replied_canonical (q : Nat) (b : List Byte) {s : State} (w : s.canonical = true) : (replied q b s).canonical = true :=
  canonical_of_bytes (signalVector_bytes ..) w

theorem replyLost_canonical (q : Nat) {s : State} (w : s.canonical = true) : (replyLost q s).canonical = true :=
  canonical_of_bytes (signalVector_bytes ..) w

theorem writeToTail_canonical (q : Nat) (h : BitVec 32) (b : List Byte) {s : State} (w : s.canonical = true) :
    (writeToTail q h b s).canonical = true := by
  have k := writeBytes_canonical h ((s.queue q).cqBase.toNat + 32 * (s.queue q).cqTail) (setPhase (s.queue q).phase b) w
  simp only [writeToTail]
  split <;> rename_i e <;> rw [e] at k
  · exact replied_canonical _ _ k
  · exact replyLost_canonical _ k

/-- A write that may be held keeps the canonical form, whether it is made or held. -/
theorem writeHeld_canonical (x : HeldWrite) {s : State} (w : s.canonical = true) : (writeHeld x s).2.canonical = true := by
  have h : (x.make { s with mem := { s.mem with journalOver := false } }).2.canonical = true := by
    have w' : ({ s with mem := { s.mem with journalOver := false } } : State).canonical = true := w
    simp only [HeldWrite.make]
    split
    · exact writeToTail_canonical _ _ _ w'
    · split
      · simp only [writeBar4]
        split
        · exact w'
        · exact canonical_of_bytes (raisePoisoned_bytes ..) (writeEach_canonical _ _ _ _ w')
      · exact writeBytes_canonical _ _ _ w'
  simp only [writeHeld]
  split
  · exact w
  · split
    · exact w
    · exact h

/-- Lines that are forgotten leave the canonical form. -/
theorem forgetLines_canonical (l : Location) (n : Nat) {s : State} (w : s.canonical = true) : (forgetLines l n s).canonical = true := by
  have h : ∀ (s : State) (v : Nat), (if (s.stack (lineStack v)).health = Health.failed then s
      else (useCheck (lineStack v) (lineNo v) true s).2).bytes = s.bytes := by intro s v; split <;> simp
  have k := canonical_of_bytes (foldl_bytes _ h (s.pagesOf fun id => l.covers n id) s) w
  simp only [State.canonical, Bool.and_eq_true] at k ⊢
  exact ⟨tableWf_filter 0 k.1 _, k.2⟩

/-! ### Read after write -/

theorem payload_eq {s : State} {id : Nat} {b : List Byte} (l : b.length = 512)
    (h : ∀ (i : Nat) (k : i < b.length), tget 0 s.bytes.1 (id * 512 + i) = b[i]) : s.payload id = b := by
  apply List.ext_getElem
  · simp [State.payload, l]
  · intro i _ h2
    have := h i h2
    simpa [State.payload] using this

/-- A line that is stored reads back. -/
theorem storeLine_payload (id : Nat) {b : List Byte} (m : Nat) (s : State) (l : b.length = 512) : (storeLine id b m s).payload id = b :=
  payload_eq l fun i k => by rw [storeLine_bytes]; exact tget_putBytes_in _ _ _ k

theorem payload_congr {s t : State} {id : Nat}
    (h : ∀ i, i < 512 → tget 0 t.bytes.1 (id * 512 + i) = tget 0 s.bytes.1 (id * 512 + i)) : t.payload id = s.payload id := by
  simp only [State.payload]
  exact List.map_congr_left fun i k => h i (List.mem_range.1 k)

/-- No other line changes. -/
theorem storeLine_payload_ne {id j : Nat} (h : j ≠ id) {b : List Byte} (m : Nat) (s : State) (l : b.length = 512) :
    (storeLine id b m s).payload j = s.payload j :=
  payload_congr fun i k => by
    rw [storeLine_bytes]
    exact tget_putBytes_out _ _ _ (by rcases Nat.lt_or_gt_of_ne h with g | g <;> omega)

end Sys2Proof.Machine
end

