-- ==== Sys2Proof/Tests/Slice0.lean ====
section
/-! SUPPORT. Tests: ill-formed commands that `wf` refuses, words and steps worked out by hand from the spec, and for each obligation's
hypotheses a state and operands that meet them. -/

set_option Elab.async false

namespace Sys2Proof.Tests
open Sys2Proof Sys2Proof.Machine

/-! ### Helpers -/

/-- `n` bytes from byte `at_` on with the named fields (byte, length, value), little-endian; the rest is 0. -/
def fields (at_ n : Nat) (l : List (Nat × Nat × Nat)) : List Byte :=
  (List.range n).map fun i =>
    match l.find? fun f => f.1 ≤ i + at_ && i + at_ < f.1 + f.2.1 with
    | some f => BitVec.ofNat 8 (f.2.2 / 256 ^ (i + at_ - f.1))
    | none => 0

/-- A packet whose bytes 16 to 63 hold the named fields. -/
def pkt (l : List (Nat × Nat × Nat)) : Packet :=
  { flags := 0, layerId := 0xFFFF, operatorId := 0, tag := 7, waitToken := 0, signalToken := 0, params := fields 16 48 l }

/-- A live handle in a hoop store. -/
def hoopDesc (h : BitVec 32) (hoop base size : Nat) : Desc :=
  { handle := h, state := .live, cls := 0, residentOk := true, pin := false, rank := 0, format := 0, size, dims := [], affCount := 0,
    affinity := [], writeGen := 0, epoch := 0, traffic := 0, location := .hoop hoop base }

/-- A stack that bring-up has trained. -/
def trainedStack : Stack := { trained := true }

/-- In full service; queue 0 enabled under a maker's binding with one packet at its head; handles 0 to 5 of 8 lines each and
handle 6 of 16 MiB in hoop stores; one layer; the stacks trained. -/
def rig : State :=
  { State.reset with
    ups := { stage := 6, service := 2, dieReady := 3 },
    que := { queues := [(0, { enable := true, sqTail := 1, binding := some { session := 1, role := .maker, holder := .maker, key := ⟨1, 1⟩ } })] },
    mem := { stackTab := (List.range 12).map fun k => (k, trainedStack) },
    tns := { staged := { layerCount := 1 }, active := { layerCount := 1 } },
    plc := { map := (List.range 6).map (fun i => (i, hoopDesc (BitVec.ofNat 32 i) 0 (8 * i) 4096)) ++ [(6, hoopDesc 6 1 0 16777216)] } }

/-- `rig` with bytes written at the start of handle 1. -/
def rigWith (n : Nat) (l : List (Nat × Nat × Nat)) : State := (writeBytes 1 0 (fields 0 n l) rig).2

/-- `rig` as a member of a domain at seat 1, in one exchange group with seat 0. -/
def memberRig : State :=
  { rig with tim := { role := .rib, domain := .member, seat := 1, groups := [{ xgroup := 1, ranks := [0, 1] }] } }

/-- The hypothesis `SucceedsS`, as something to evaluate. -/
def runsS (op : Nat) (p : Packet) (plan : Cmd Plan) (s : State) : Bool :=
  gate 0 op p s && !stalled s.nextId plan s && (sequencerChecks 0 op ((opInfo op).getD ⟨false, 1, false⟩) p s).isNone &&
    match plan.run (acting p.layerId (takeHead 0 op p true s.unheld)) with
    | .ok pl u =>
      (match pl.run.run (running (fresh 0 op p false s) pl (abandonHolding s.nextId pl.writes u)) with
       | .ok r v => !(issued (fresh 0 op p false s) pl r v).mem.journalOver
       | .error _ _ => false)
    | .error _ _ => false

theorem runsS_spec {op : Nat} {p : Packet} {plan : Cmd Plan} {s : State} (h : runsS op p plan s = true) :
    ∃ pl r v, SucceedsS 0 op p plan s pl r v := by
  simp only [runsS, Bool.and_eq_true, Bool.not_eq_true', Option.isNone_iff_eq_none] at h
  obtain ⟨⟨⟨h1, h2⟩, h3⟩, h4⟩ := h
  split at h4
  · rename_i pl u e
    split at h4
    · rename_i r v e2
      exact ⟨pl, r, v, h1, h2, h3, ⟨u, e, e2⟩, by simpa using h4⟩
    · cases h4
  · cases h4

/-- The hypothesis `SucceedsF`, the same way. -/
def runsF (op : Nat) (p : Packet) (plan : InFlight → Cmd Plan) (s : State) : Bool :=
  let c := fresh 0 op p true s
  let u := handedOff (takeHead 0 op p false s)
  gate 0 op p s && (sequencerChecks 0 op ((opInfo op).getD ⟨true, 1, true⟩) p s).isNone && decide (s.mgmtDepth < 256) &&
    !drainStalls s.nextId (plan c) (takeHead 0 op p false s) && u.mayStart c && !stalled s.nextId (plan c) u &&
    match (readHandle useQueue >>= fun _ => plan c).run (acting p.layerId u.unheld) with
    | .ok pl u =>
      (match pl.run.run (running c pl (abandonHolding s.nextId pl.writes u)) with
       | .ok r v => !(issued c pl r v).mem.journalOver
       | .error _ _ => false)
    | .error _ _ => false

theorem runsF_spec {op : Nat} {p : Packet} {plan : InFlight → Cmd Plan} {s : State} (h : runsF op p plan s = true) :
    ∃ pl r v, SucceedsF 0 op p plan s pl r v := by
  simp only [runsF, Bool.and_eq_true, Bool.not_eq_true', Option.isNone_iff_eq_none, decide_eq_true_eq] at h
  obtain ⟨⟨⟨⟨⟨⟨h1, h2⟩, h3⟩, h7⟩, h4⟩, h5⟩, h6⟩ := h
  split at h6
  · rename_i pl u e
    split at h6
    · rename_i r v e2
      exact ⟨pl, r, v, h1, h2, h3, h7, h4, h5, ⟨u, e, e2⟩, by simpa using h6⟩
    · cases h6
  · cases h6


/-! ### `wf` refuses ill-formed commands -/

/-- A packet of 47 parameter bytes. -/
def bad : Packet := { pkt [] with params := List.replicate 47 0 }

theorem test_wf_packets :
    ([.nop 0 bad, .matmul 0 bad, .matmulAcc 0 bad, .scalePass 0 bad, .quantStore 0 bad, .vectorOp 0 bad, .norm 0 bad,
      .softmax 0 bad, .loss 0 bad, .copy 0 bad, .fill 0 bad, .place 0 bad, .release 0 bad, .boundsSet 0 bad, .fence 0 bad,
      .waitTime 0 bad, .signal 0 bad, .bundleSend 0 bad, .bundleReduce 0 bad, .bundleBroadcast 0 bad, .update 0 bad,
      .commit 0 bad, .ckptDrain 0 bad, .rollback 0 bad, .roundRecord 0 bad, .joinDomain 0 bad, .assignSpare 0 bad,
      .getHealth 0 bad, .setPowerCap 0 bad, .ledgerRead 0 bad, .marginScan 0 bad, .counterCfg 0 bad, .samplerCfg 0 bad,
      .traceArm 0 bad, .traceRead 0 bad, .roleSession 0 bad, .fwStage 0 bad, .scheduleSet 0 bad, .dumpRead 0 bad,
      .makerDiag 0 bad] :
      List Instr).all (fun c => !c.wf) = true := by decide +kernel
theorem test_wf_packet_good : (Instr.nop 0 (pkt [])).wf = true ∧ (Instr.opcodeUnknown 0 0x05 (pkt [])).wf = true := by decide +kernel
theorem test_wf_opcode : (Instr.opcodeUnknown 0 0x05 bad).wf = false ∧ (Instr.opcodeUnknown 0 0x01 (pkt [])).wf = false := by decide +kernel

/-- Rail means with one rail too few, and the bad packet beside good ones. -/
def shortRails : RailMeans := { rails := List.replicate 15 0, input := 0 }
theorem test_wf_rails : (Instr.getTelemetry 0 (pkt []) shortRails).wf = false ∧
    (Instr.getTelemetry 0 bad { rails := List.replicate 16 0, input := 0 }).wf = false ∧ (Instr.sampleInstance 0 shortRails).wf = false := by
  decide +kernel
theorem test_wf_power : (Instr.powerEvaluation { samples := List.replicate 9 0, vin := 0, junction := List.replicate 112 0 }).wf = false ∧
    (Instr.powerEvaluation { samples := List.replicate 10 0, vin := 0, junction := List.replicate 111 0 }).wf = false ∧
    (Instr.stackTemperatureRead ⟨(List.replicate 11 0), (List.replicate 12 0), (List.replicate 12 0)⟩).wf = false ∧
    (Instr.stackTemperatureRead ⟨(List.replicate 12 0), (List.replicate 11 0), (List.replicate 12 0)⟩).wf = false ∧
    (Instr.stackTemperatureRead ⟨(List.replicate 12 0), (List.replicate 12 0), (List.replicate 11 0)⟩).wf = false := by decide +kernel
theorem test_wf_registers : (Instr.registerWrite (2 ^ 24) 4 true 0).wf = false ∧ (Instr.bar4Read (2 ^ 36) 1).wf = false ∧
    (Instr.bar4Write (2 ^ 36) [0]).wf = false ∧ (Instr.dieLocalisation 0 46875000).wf = false ∧
    ([.queMgmtRead ⟨0, 0⟩, .queMgmtRead ⟨0, 65⟩, .cntSmpLossRead ⟨0, 65⟩, .memCeLogCtrlRead ⟨2 ^ 24, 1⟩, .timNowLoRead ⟨0, 0⟩, .trcTriggerTimeLoRead ⟨0, 0⟩,
      .trcDumpTimeLoRead ⟨0, 65⟩] : List Instr).all (fun c => !c.wf) = true ∧ (Instr.queMgmtRead ⟨0, 64⟩).wf = true := by decide +kernel

/-- A frame with a header of `h` bytes and a payload of `n`. -/
def frameOf (h n : Nat) : Frame :=
  { dstMac := 0, srcMac := 0, etherType := 0x88B5, length := 0, vlan := false, fcsOk := true, header := List.replicate h 0, payload := List.replicate n 0, dest := none }
theorem test_wf_frames : (Instr.dataFrame 0 (frameOf 31 512)).wf = false ∧ (Instr.ackFrame 0 (frameOf 32 511)).wf = false ∧
    (Instr.nakFrame 0 (frameOf 32 8704)).wf = false ∧ (Instr.dataFrame 0 (frameOf 32 8192)).wf = true := by decide +kernel
theorem test_wf_transfers : (Instr.transferStart 0 0 (.reduce [{ rank := 0, bytes := [], slot := some [] }])).wf = false ∧
    (Instr.transferStart 0 0 (.broadcast 1 0 0 1 [])).wf = false ∧ (Instr.transferStart 0 0 .peerLost).wf = true := by decide +kernel
theorem test_wf_keys : (Instr.keyExchange .pcie 0 (.key ⟨2 ^ 528, 0⟩)).wf = false ∧ (Instr.keyExchange .pcie 0 (.maker ⟨0, 2 ^ 528⟩)).wf = false ∧
    (Instr.keyExchange .pcie 0 .anonymous).wf = true := by decide +kernel
theorem test_wf_seats : (Instr.leaveNotice 4096).wf = false ∧ (Instr.lostNotice 4096).wf = false ∧ (Instr.ckptDoneReport 4096 0).wf = false ∧
    (Instr.heartbeatMissed 4096).wf = false ∧ (Instr.report { seat := 4096, kind := .missed, round := 0, diverged := false, replayFailed := false, absent := [] }).wf = false ∧
    (Instr.heartbeatAnswer { seat := 4096, round := 0, domain := 0, frozen := false, short := false, storm := false, portsOut := 0 }).wf = false := by
  decide +kernel
theorem test_wf_joins : (Instr.joinAccept (.asMember 4096 0 false 0 [] [] (List.replicate 12 0) [])).wf = false ∧
    (Instr.joinAccept (.asMember 0 0 false 0 [] [] (List.replicate 11 0) [])).wf = false ∧
    (Instr.joinAccept (.asRim 0 0 true (List.replicate 11 { inService := true, delay := none, serves := false }) 0)).wf = false := by decide +kernel
theorem test_wf_ptp : (Instr.sync 0 0 65536).wf = false ∧ (Instr.delayReq 0 ⟨0, 65536⟩).wf = false ∧ (Instr.delayResp 0 ⟨0, 65536⟩ 0).wf = false ∧
    (Instr.followUp 0 ⟨0, 65536⟩ 0).wf = false ∧ (Instr.announce 0 256).wf = false ∧ (Instr.sync 0 256 0).wf = false ∧
    (Instr.delayReq 0 ⟨256, 0⟩).wf = false ∧ (Instr.delayResp 0 ⟨256, 0⟩ 0).wf = false ∧ (Instr.followUp 0 ⟨256, 0⟩ 0).wf = false := by decide +kernel

/-! ### The packet commands succeed somewhere -/

/-- A product of two 1 by 1 INT8 matrices, 3 and 5, into INT32. -/
def matPkt : Packet :=
  pkt [(16, 4, 1), (26, 2, 0x100), (28, 8, 2 ^ 32 + 2 ^ 40), (36, 3, 1), (39, 3, 1), (42, 3, 1), (45, 1, 19), (46, 1, 0x22), (47, 1, 4)]
def matRig : State :=
  (writeBytes 2 0 [3, 5] (rigWith 128 [(0, 4, 2), (11, 1, 2), (12, 4, 1), (32, 4, 2), (36, 6, 1), (43, 1, 2), (44, 4, 1), (64, 4, 3), (76, 4, 4)])).2

theorem test_matmul_runs : runsS 0x01 matPkt (planMatrix 0 false matPkt) matRig = true := by decide +kernel
theorem test_matmul_acc_runs : runsS 0x02 matPkt (planMatrix 0 true matPkt) matRig = true := by decide +kernel

def scalePkt : Packet := pkt [(16, 4, 2), (20, 4, 3), (36, 3, 1), (39, 3, 1), (43, 1, 0xA), (44, 4, 0x7F800000)]
theorem test_scale_pass_runs : runsS 0x03 scalePkt (planScalePass scalePkt) rig = true := by decide +kernel

/-- A vector command on one element, with the formats of byte 29; the block names X and Y in handle 2, Z and OUT in handle 3. -/
def vecPkt (formats : Nat) : Packet := pkt [(16, 4, 1), (26, 2, 0x100), (29, 1, formats), (32, 3, 1), (35, 3, 1)]
def vecRig : State :=
  rigWith 64 [(0, 4, 2), (12, 4, 4), (16, 4, 2), (20, 6, 64), (28, 4, 4), (32, 4, 3), (44, 4, 4), (48, 4, 3), (52, 6, 64), (60, 4, 4)]
theorem test_vector_op_runs : runsS 0x08 (vecPkt 0xAA) (planVectorOp 0 (vecPkt 0xAA)) vecRig = true := by decide +kernel
theorem test_norm_runs : runsS 0x09 (vecPkt 0xAA) (planNorm 0 (vecPkt 0xAA)) vecRig = true := by decide +kernel
theorem test_softmax_runs : runsS 0x0A (vecPkt 0xAA) (planSoftmax 0 (vecPkt 0xAA)) vecRig = true := by decide +kernel
theorem test_loss_runs : runsS 0x0B (vecPkt 0xCA) (planLoss 0 (vecPkt 0xCA)) vecRig = true := by decide +kernel
theorem test_quant_store_runs : runsS 0x04 (vecPkt 0x2A) (planQuantStore 0 (vecPkt 0x2A)) vecRig = true := by decide +kernel

theorem test_nop_runs : runsS 0x00 (pkt []) (planNop (pkt [])) rig = true := by decide +kernel
def copyPkt : Packet := pkt [(16, 4, 2), (26, 4, 3), (36, 6, 1024)]
theorem test_copy_runs : runsS 0x10 copyPkt (planCopy copyPkt) rig = true := by decide +kernel
def fillPkt : Packet := pkt [(16, 4, 2), (20, 6, 508), (26, 6, 520), (32, 8, 0x04030201), (40, 1, 4)]
theorem test_fill_runs : runsS 0x11 fillPkt (planFill 0 fillPkt) rig = true := by decide +kernel
def placePkt : Packet := pkt [(16, 8, 512), (25, 1, 1), (26, 1, 0xA), (28, 3, 256)]
theorem test_place_runs : runsS 0x12 placePkt (planPlace placePkt) rig = true := by decide +kernel
theorem test_release_runs : runsS 0x13 (pkt [(16, 4, 2)]) (planRelease (pkt [(16, 4, 2)])) rig = true := by decide +kernel
theorem test_bounds_set_runs : runsS 0x14 (pkt [(17, 1, 8), (16, 1, 56)]) (planBoundsSet 0 (pkt [(17, 1, 8), (16, 1, 56)])) rig = true := by
  decide +kernel
theorem test_fence_runs : runsS 0x20 (pkt [(16, 1, 1)]) (planFence (pkt [(16, 1, 1)])) rig = true := by decide +kernel
theorem test_wait_time_runs : runsS 0x21 (pkt [(16, 8, 5)]) (planWaitTime (pkt [(16, 8, 5)])) rig = true := by decide +kernel
theorem test_signal_runs : runsS 0x22 (pkt [(16, 2, 1), (48, 1, 16)]) (planSignal (pkt [(16, 2, 1), (48, 1, 16)])) rig = true := by
  decide +kernel

/-- A bundle of 16 MiB of handle 6. -/
def bundlePkt : Packet := pkt [(16, 4, 6), (26, 6, 16777216), (34, 2, 1)]
def reducePkt : Packet := pkt [(16, 4, 6), (26, 6, 16777216), (32, 1, 0xAA), (34, 2, 1), (44, 2, 0x100)]
theorem test_bundle_send_runs : runsS 0x40 bundlePkt (planSend bundlePkt) memberRig = true := by decide +kernel
theorem test_bundle_reduce_runs : runsS 0x41 reducePkt (planReduce reducePkt) memberRig = true := by decide +kernel
theorem test_bundle_broadcast_runs : runsS 0x42 bundlePkt (planBroadcast bundlePkt) memberRig = true := by decide +kernel
def updatePkt : Packet := pkt [(16, 4, 1), (26, 2, 0x100), (30, 1, 0xCA)]
theorem test_update_runs : runsS 0x48 updatePkt (planUpdate 0 updatePkt)
    (rigWith 128 [(28, 3, 1), (31, 3, 1), (48, 4, 2), (52, 4, 3), (64, 4, 4), (68, 4, 5), (104, 4, 0)]) = true := by decide +kernel
theorem test_commit_runs : runsS 0x49 (pkt []) (planCommit (pkt [])) rig = true := by decide +kernel
theorem test_ckpt_drain_runs : runsS 0x4A (pkt [(16, 4, 1)]) (planDrain 0 (pkt [(16, 4, 1)]))
    (rigWith 512 [(1, 1, 1), (32, 4, 2), (42, 6, 512), (48, 8, 4096)]) = true := by decide +kernel
theorem test_rollback_runs : runsS 0x4B (pkt []) (planRollback (pkt [])) rig = true := by decide +kernel
def savePkt : Packet := pkt [(20, 4, 2), (32, 4, 3)]
theorem test_round_record_runs : runsS 0x4C savePkt (planRecord 0 savePkt) rig = true := by decide +kernel
theorem test_join_domain_runs : runsS 0x50 (pkt [(16, 1, 1), (20, 4, 9)]) (planJoinDomain 0 (pkt [(16, 1, 1), (20, 4, 9)]))
    { rig with tim := { role := .rib } } = true := by decide +kernel
theorem test_assign_spare_runs : runsS 0x51 (pkt []) (planAssign (pkt [])) { rig with tim := { role := .rib, domain := .standby } } = true := by
  decide +kernel

/-- A command whose destination is at 64 KiB of host memory. -/
def hostPkt : Packet := pkt [(16, 8, 65536), (38, 6, 0)]
def noRails : RailMeans := { rails := List.replicate 16 0, input := 0 }
theorem test_get_health_runs : runsF 0x80 hostPkt (fun _ => planHealth hostPkt) rig = true := by decide +kernel
theorem test_get_telemetry_runs : runsF 0x81 hostPkt (fun _ => planTelemetry hostPkt noRails) rig = true := by decide +kernel
theorem test_set_power_cap_runs : runsF 0x82 (pkt [(16, 2, 700)]) (planPowerCap (pkt [(16, 2, 700)])) rig = true := by decide +kernel
theorem test_ledger_read_runs : runsF 0x84 hostPkt (fun _ => planLedgerRead hostPkt) rig = true := by decide +kernel
def scanPkt : Packet := pkt [(16, 2, 0x800), (18, 2, 0x8000), (20, 4, 2)]
theorem test_margin_scan_runs : runsF 0x86 scanPkt (planMarginScan scanPkt) rig = true := by decide +kernel
theorem test_counter_cfg_runs : runsF 0x88 (pkt [(16, 4, 1), (26, 1, 112)]) (fun _ => planCounterCfg (pkt [(16, 4, 1), (26, 1, 112)])) rig = true := by
  decide +kernel
def samplerPkt : Packet := pkt [(16, 1, 1), (17, 1, 16), (18, 8, 65536)]
theorem test_sampler_cfg_runs : runsF 0x89 samplerPkt (fun _ => planSamplerCfg samplerPkt) rig = true := by decide +kernel
def armPkt : Packet := pkt [(23, 1, 8), (40, 4, 1000000)]
theorem test_trace_arm_runs : runsF 0x8A armPkt (fun _ => planTraceArm armPkt) rig = true := by decide +kernel
def traceReadPkt : Packet := pkt [(16, 8, 65536), (32, 6, 16384)]
theorem test_trace_read_runs : runsF 0x8B traceReadPkt (fun _ => planTraceRead traceReadPkt) rig = true := by decide +kernel
theorem test_role_session_runs : runsF 0x90 (pkt [(16, 1, 1)]) (planRoleSession (pkt [(16, 1, 1)])) rig = true := by decide +kernel
theorem test_fw_stage_runs : runsF 0x92 (pkt [(16, 1, 2)]) (planFwStage (pkt [(16, 1, 2)])) rig = true := by decide +kernel
def schedulePkt : Packet := pkt [(16, 1, 47), (24, 1, 5), (28, 4, 1), (32, 8, 1000)]
theorem test_schedule_set_runs : runsF 0x94 schedulePkt (planScheduleSet schedulePkt) rig = true := by decide +kernel
theorem test_dump_read_runs : runsF 0xC0 hostPkt (fun _ => planDumpRead hostPkt) { rig with trc := { dumpValid := true, dumpHandle := 6 } } = true := by
  decide +kernel
theorem test_maker_diag_runs : runsF 0xC8 (pkt [(16, 1, 2), (17, 3, 99 * 256)]) (planMakerDiag (pkt [(16, 1, 2), (17, 3, 99 * 256)])) rig = true := by
  decide +kernel

/-! ### States that meet the hypotheses of the obligations, clause by clause -/

/-- A packet of NOP that needs nothing. -/
def nopPkt : Packet := pkt []

/-- A command in flight on queue 0. -/
def flying (wait : Wait) : InFlight := { fresh 0 0x00 nopPkt false rig with wait }
/-- `rig` with it, as number 0 of its queue. -/
def flyRig (wait : Wait) : State := { rig with flight := [flying wait], nextId := 1 }

theorem test_hyp_StepRunsFrontCommand : ({ State.reset with pending := [.brakeRelease, .brakeAssert] } : State).pending =
    .brakeRelease :: [.brakeAssert] := by decide +kernel
theorem test_hyp_IdleMovesRimTime : State.reset.pending = [] ∧ ({ State.reset with pins := { power := .off } } : State).pins.power = .off ∧
    ({ State.reset with pins := { power := .tripped } } : State).pins.power = .tripped ∧
    (State.reset.pins.power = .on ∧ State.reset.flight = [] ∧ State.reset.plc.current = none ∧ State.reset.mctp.events = [] ∧ State.reset.ups.stage ≠ 5) ∧
    (let s := { State.reset with tim := { slew := 1, time := .slewing, now := 9999 } }
     0 < s.tim.slew ∧ s.tim.time = .slewing ∧ ((s.tim.now : Int) + s.tim.slew) % 10000 = 0) ∧
    (let s := { State.reset with tim := { slew := -1, time := .locked, now := 1 } }
     s.tim.slew < 0 ∧ s.tim.time = .locked ∧ ((s.tim.now : Int) + s.tim.slew) % 10000 = 0) := by decide +kernel
theorem test_hyp_SettingsStayLegal : State.reset.ctl.ok ∧ ∃ t, step State.reset = .next t := by
  refine ⟨?_, _, rfl⟩
  constructor
  case ptpNext => intro d h; cases h
  all_goals decide
theorem test_hyp_IdentityAndQueueKept : ∃ t, exec .brakeAssert State.reset = .next t := ⟨_, rfl⟩
theorem test_hyp_OnlyWritesChangeSettings : setsRegisters .brakeAssert = false ∧ ∃ t, exec .brakeAssert State.reset = .next t :=
  ⟨rfl, _, rfl⟩
theorem test_hyp_MemoriesStayCanonical : rig.canonical = true ∧ ∃ t, step rig = .next t := ⟨by decide +kernel, _, rfl⟩
/-- A die whose first spare group has lost two home positions. -/
def shortRig : State := { rig with plc := { rig.plc with retired := [0, 1] } }
theorem test_hyp_StatusBitsCountTheirSets : 7 < 8 ∧ (0 ≠ 7 ∧ 0 < 8) ∧ bit 0x80 7 = true ∧ bit 0x7F 7 = false ∧
    rig.responds (statusOffset (.que 63)) = true ∧
    (shortRig.responds (statusOffset .plc) = true ∧ (4 : Word).getLsbD 2 = true ∧ shortRig.anyUnmapped = true) := by decide +kernel
theorem test_hyp_Bar0WritesByShape : rig.powered = true ∧ 0x00FFFFFC < 2 ^ 24 ∧ 0x00FFFFFC % 4 = 0 ∧ 0x00FFFFF8 % 8 = 0 ∧
    ¬((4 = 4 ∧ 2 % 4 = 0 ∧ true = true) ∨ (4 = 8 ∧ 2 % 8 = 0 ∧ true = true)) ∧ State.reset.responds 0x00300000 = false := by
  decide +kernel
theorem test_hyp_SettingsLatchInRange : [0x00021000, 0x0030000C, 0x00300014, 0x00400010].all rig.responds = true := by decide +kernel
theorem test_hyp_SelectWritesSnapshot : [0x00011004, 0x00200100, 0x00700020, 0x00300018, 0x00400000].all rig.responds = true ∧
    BitVec.ofNat 12 (0xFFF : Word).toNat = rig.lnk.portEn ∧ (rig.lnk.portEn.getLsbD 11 = true ∧ bit (0x7FF : Word).toNat 11 = false) ∧
    (let s := { rig with lnk := { portEn := 0xFFE } }
     s.responds 0x00400000 = true ∧ s.lnk.portEn.getLsbD 0 = false ∧ bit (1 : Word).toNat 0 = true ∧ s.lnk.portEn.getLsbD 11 = bit (0x800 : Word).toNat 11) := by
  decide +kernel
theorem test_hyp_InstallerRegisterWrites : (State.reset.installerBinding = none ∧ State.reset.powered = true) ∧ rig.installerBinding.isSome = true ∧
    [0x00A0000C, 0x00900004, 0x00600004, 0x00601000, 0x00A00010, 0x00A00014].all rig.responds = true ∧
    ({ rig with que := {} } : State).installerBinding = none ∧
    [0x00A0000C, 0x00900004, 0x00600004, 0x00601000, 0x00A00010, 0x00A00014, 0x00A00018].all ({ rig with que := {} } : State).responds = true ∧
    rig.clocked = true ∧ resetKind 0xA55A0001 = some false ∧ resetKind 0xA55A0002 = some true := by decide +kernel
theorem test_hyp_ReadsHaveTheirSideEffect : [0x00011008, 0x0070000C, 0x00300018, 0x00500010, 0x00780008, 0x00780028].all rig.responds = true := by
  decide +kernel
theorem test_hyp_DoorbellsSetTheirIndex_rings : State.reset.queuesOk ∧ ∃ t, step State.reset = .next t := by
  refine ⟨⟨fun q => ?_, by decide⟩, _, rfl⟩
  rw [show State.reset.queue q = {} from rfl]
  unfold Queue.inRings
  decide
theorem test_hyp_DoorbellsSetTheirIndex : rig.responds 0x00010000 = true ∧ rig.que.flr = false ∧
    ((15 : Word).toNat < 65536 ∧ (15 : Word).toNat < (rig.queue 0).sqSize ∧ (15 : Word).toNat < (rig.queue 0).cqSize) ∧
    (rig.queue 0).sqSize ≤ (16 : Word).toNat ∧ (rig.queue 0).cqSize ≤ (16 : Word).toNat ∧ 65536 ≤ (65536 : Word).toNat := by decide +kernel
theorem test_hyp_QueueControlWrite : rig.responds (0x00010000 + 64 * 63) = true ∧
    (rig.queue 0).sameConfig { rig.queue 0 with loc := false } = true ∧ (rig.queue 0).sameConfig { rig.queue 0 with loc := true } = false ∧
    (rig.queue 0).enable = true ∧ (flyRig .done).idleQueue 0 = false ∧ (rig.queue 1).enable = false ∧ rig.idleQueue 1 = true ∧
    (rig.queue 1).sameConfig { rig.queue 1 with sqLog2 := 16 } = false := by decide +kernel
theorem test_hyp_TokenZeroIsNone : rig.responds 0x00011000 = true ∧ (0x8000 : Word).toNat % 2 ^ 15 = 0 ∧ (0xFFFF : Word).toNat % 2 ^ 15 ≠ 0 := by
  decide +kernel

theorem test_hyp_ComputeCommandsIssue : ∃ pl r v, SucceedsS 0 0x01 matPkt (planMatrix 0 false matPkt) matRig pl r v := runsS_spec test_matmul_runs
theorem test_hyp_MoveCommandsIssue : ∃ pl r v, SucceedsS 0 0x10 copyPkt (planCopy copyPkt) rig pl r v := runsS_spec test_copy_runs
theorem test_hyp_ClusterCommandsIssue : ∃ pl r v, SucceedsS 0 0x41 reducePkt (planReduce reducePkt) memberRig pl r v :=
  runsS_spec test_bundle_reduce_runs
theorem test_hyp_FirmwareCommandsRun : ∃ pl r v, SucceedsF 0 0x86 scanPkt (planMarginScan scanPkt) rig pl r v :=
  runsF_spec test_margin_scan_runs
/-- SCHEDULE_SET into the lowest empty entry, of a cap, and to clear one. -/
def anyEntryPkt : Packet := pkt [(16, 1, 255), (24, 1, 5), (28, 4, 1)]
def capEntryPkt : Packet := pkt [(16, 1, 16), (24, 1, 4), (28, 4, 700)]
def clearPkt : Packet := pkt [(16, 1, 16), (17, 1, 1)]
theorem test_schedule_set_runs_too : runsF 0x94 anyEntryPkt (planScheduleSet anyEntryPkt) rig = true ∧
    runsF 0x94 capEntryPkt (planScheduleSet capEntryPkt) rig = true ∧ runsF 0x94 clearPkt (planScheduleSet clearPkt) rig = true := by
  decide +kernel
theorem test_hyp_FirmwareCommandsRun_schedule : (∃ pl r v, SucceedsF 0 0x94 anyEntryPkt (planScheduleSet anyEntryPkt) rig pl r v) ∧
    (∃ pl r v, SucceedsF 0 0x94 capEntryPkt (planScheduleSet capEntryPkt) rig pl r v) ∧
    (∃ pl r v, SucceedsF 0 0x94 clearPkt (planScheduleSet clearPkt) rig pl r v) ∧
    (anyEntryPkt.num 16 1 = 255 ∧ bit (anyEntryPkt.num 17 1) 0 = false ∧ (packetEntry anyEntryPkt).kind ≠ 4) ∧
    (capEntryPkt.num 16 1 ≠ 255 ∧ bit (capEntryPkt.num 17 1) 0 = false ∧ (packetEntry capEntryPkt).kind = 4) ∧ bit (clearPkt.num 17 1) 0 = true :=
  ⟨runsF_spec test_schedule_set_runs_too.1, runsF_spec test_schedule_set_runs_too.2.1, runsF_spec test_schedule_set_runs_too.2.2, by decide +kernel⟩
/-- A command that waits for its record, and a session of the maker, whose key may bind while no installer is enrolled. -/
def actionRig : State :=
  { flyRig .record with sec := { sessions := [{ id := 9, medium := .pcie, requester := .maker ⟨1, 1⟩, finished := true, lastBeat := 0, epochKeys := 0 }] } }
theorem test_hyp_FirmwareCommandsRun_actions : actionRig.flight.find? (fun e => e.id = (flying .record).id) = some (flying .record) ∧
    actionRig.seq.frozen = false ∧
    (let b : Binding := { session := 9, role := .maker, holder := .maker, key := ⟨1, 1⟩ }
     ((actionRig.session b.session).bind actionRig.bindable).isSome = true ∧ ((rig.session b.session).bind rig.bindable).isSome = false) ∧
    (16 ≤ 16 ∧ actionRig.sec.keyIn 16 = none ∧ (some (⟨1, 1⟩ : PubKey)) ≠ none) ∧
    ({ actionRig.sec with operators := [(3, ⟨1, 1⟩)] } : Sec).keyIn 3 ≠ none ∧ imageFault actionRig.sec (flashImage []) ≠ none := by decide +kernel

/-- The stop of a firmware command that a ROLE refuses: an operator asks for a margin scan. -/
def operatorRig : State :=
  { rig with que := { queues := [(0, { enable := true, sqTail := 1, binding := some { session := 1, role := .operator, holder := .slot 0, key := ⟨1, 1⟩ } })] } }
theorem test_hyp_FirstFailingCheckRefuses :
    ((Instr.nop 0 nopPkt).packet = some (0, 0x00, nopPkt) ∧ (Instr.nop 0 nopPkt).wf = true ∧ gate 0 0x00 nopPkt State.reset = false ∧
      (State.reset.queue 0).enable = false) ∧
    (gate 0 0x00 { nopPkt with waitToken := 0x8001 } rig = false ∧ rig.clocked = true ∧ (rig.queue 0).enable = true ∧
      (rig.queue 0).loc = false ∧ (rig.queue 0).sqHead ≠ (rig.queue 0).sqTail) ∧
    ((Instr.opcodeUnknown 0 0x05 nopPkt).packet = some (0, 0x05, nopPkt) ∧ (Instr.opcodeUnknown 0 0x05 nopPkt).wf = true ∧
      gate 0 0x05 nopPkt rig = true ∧ opInfo 0x05 = none) ∧
    ((Instr.marginScan 0 scanPkt).packet = some (0, 0x86, scanPkt) ∧ (Instr.marginScan 0 scanPkt).wf = true ∧
      gate 0 0x86 scanPkt operatorRig = true ∧ opInfo 0x86 = some ⟨true, 2, true⟩ ∧
      sequencerChecks 0 0x86 ⟨true, 2, true⟩ scanPkt operatorRig = some { status := 0x0601, detail := 2 }) := by decide +kernel
theorem test_hyp_ChecksComeInOrder : ((operatorRig.queue 0).role < 2 ∧ 0x86 ≠ 0x90) ∧
    (2 ≤ (rig.queue 0).role ∧ 0 < (rig.queue 0).role ∧ State.reset.admits 0x86 = false ∧ rig.admits 0x86 = true) ∧
    (({ rig with seq := { frozen := true } } : State).seq.frozen = true ∧ runsFrozen 0x86 = false) ∧ (rig.seq.frozen = false ∧ runsFrozen 0x80 = true) := by
  decide +kernel
theorem test_hyp_UnreadPacketsAreNotExecuted : (canIssue rig 0 = true ∧ selects rig 0 = true) ∧ PacketLoss.poisonedCompletion ≠ .ringLine ∧
    (rig.queue 0).loc = false ∧ opInfo (0xFF : BitVec 8).toNat = none ∧ gate 0 0xFF nopPkt rig = true ∧
    (let s := rig.setQueue 0 { rig.queue 0 with loc := true, sqHandle := 0x77 }
     canIssue s 0 = true ∧ selects s 0 = true ∧ (s.queue 0).loc = true ∧
       (match (readBytes 0x77 0 64 (some 0)).run s with | .error _ _ => true | .ok _ _ => false) = true) := by decide +kernel
theorem test_hyp_SynchronisationCommands :
    ([0x00, 0x14, 0x20, 0x21, 0x22].all fun op => gate 0 op nopPkt rig &&
      (sequencerChecks 0 op ((opInfo op).getD ⟨false, 1, false⟩) nopPkt rig).isNone) = true ∧
    firstReserved nopPkt.params 16 [(16, 63, 0xFF)] = none ∧
    (firstReserved (pkt [(48, 1, 16)]).params 16 [(49, 63, 0xFF)] = none ∧ 1 ≤ (pkt [(48, 1, 16)]).num 48 1 ∧ (pkt [(48, 1, 16)]).num 48 1 ≤ 16) ∧
    (let p := pkt [(16, 1, 56), (17, 1, 8)]
     firstReserved p.params 16 [(18, 19, 0xFF), (52, 63, 0xFF)] = none ∧ p.num 17 1 ≠ 0 ∧ p.num 17 1 ≤ 8 ∧ p.num 16 1 + p.num 17 1 ≤ 64) := by
  decide +kernel
theorem test_hyp_CommandsComplete : (flyRig .done).clocked = true ∧ (flyRig .done).mem.journalOver = false ∧
    (flyRig .done).inflightAt 0 0 = some (flying .done) ∧
    (flyRig .done).seq.frozen = false ∧ (flyRig .done).sending (flying .done).id = false ∧
    ((flyRig (.commit false)).inflightAt 0 0 = some (flying (.commit false)) ∧ (flying (.commit false)).wait = .commit false) ∧
    (let f := { flying (.fence false) with id := 1, ordinal := 1 }
     let s := { rig with flight := [flying .done, f] }
     s.inflightAt 0 1 = some f ∧ ∃ e ∈ s.flight, e.id < f.id ∧ (false = true ∨ e.queue = f.queue)) ∧
    (∀ e ∈ (flyRig (.fence true)).flight, e.id < (flying (.fence true)).id → true = false ∧ e.queue ≠ (flying (.fence true)).queue) ∧
    ((flyRig (.untilTime 1)).tim.now < 1 ∧ 0 ≤ (flyRig (.untilTime 0)).tim.now) ∧
    (({ flyRig .done with seq := { frozen := true } } : State).seq.frozen = true ∧ runsFrozen (flying .done).opcode = false) := by
  decide +kernel
theorem test_hyp_CompletionSignalsOnSuccessOnly : rig.clocked = true ∧ (flying .done).orphan = false ∧
    (statusClass (flying .done).status.toNat = 0 ∧ ({ nopPkt with flags := 2 } : Packet).signalAfter = true ∧ nopPkt.signalAfter = false) ∧
    statusClass (0x0101 : BitVec 16).toNat ≠ 0 ∧ (({ rig with que := { queues := [(0, { stopOnError := true })] } } : State).queue 0).stopOnError = true := by
  decide +kernel
/-- A completion ring in device memory. -/
def localRig : State := rig.setQueue 0 { rig.queue 0 with loc := true, cqHandle := 2 }
theorem test_hyp_RepliesFillTheirRing_local : localRig.clocked = true ∧ (flying .done).orphan = false ∧ (localRig.queue 0).loc = true ∧
    localRig.mem.heldWrites = [] ∧ ({ flying .done with status := 0x0101 } : InFlight).status ≠ 0 ∧ (flying .done).queue = 0 ∧
    ({ nopPkt with flags := 4 } : Packet).replyAlways = true := by decide +kernel
theorem test_hyp_RepliesFillTheirRing : rig.clocked = true ∧ (flying .done).orphan = false ∧ (rig.queue 0).loc = false ∧
    ((0x0101 : BitVec 16) ≠ 0 ∧ rig.hostFails 0 32 = false ∧ ({ rig with out := { failing := [(0, 0)] } } : State).hostFails 0 32 = true) ∧
    ((flying .done).status = 0 ∧ (flying .done).packet.replyAlways = false ∧ ∀ i, opInfo (flying .done).opcode = some i → i.reply = false) := by
  refine ⟨by decide +kernel, by decide +kernel, by decide +kernel, by decide +kernel, by decide +kernel, by decide +kernel, ?_⟩
  intro i h; cases h; rfl

theorem test_hyp_SupplyAndHostResetsAreCold : (({ State.reset with pins := { power := .off } } : State).pins.power = .off ∧ 4000 ≤ 4000 ∧ 5200 ≤ 5200) ∧
    (rig.clocked = true ∧ rig.ups.cfgNow.getLsbD 5 = false) ∧ (State.reset.ups.stage ≠ 6) ∧ (rig.powered = true ∧ 3799 < 3800 ∧ 5400 < 5401) ∧
    ({ State.reset with pins := { power := .off, thermTrip := true } } : State).powered = false := by
  decide +kernel
theorem test_hyp_WarmResetKeepsContents :
    (let s := { rig with ups := { rig.ups with cfgNow := 0x30 } }
     s.clocked = true ∧ s.ups.cfgNow.getLsbD 5 = true ∧ s.ups.stage = 6) ∧
    (let s := { rig with ups := { rig.ups with quiesce := some (0, 3) } }
     s.clocked = true ∧ s.ups.quiesce = some (0, 3) ∧ s.flight = [] ∧ s.mem.heldWrites = [] ∧ s.mem.caches = [] ∧
       (∀ k, k < 12 → (s.stack k).offline = none ∧ (s.stack k).rebuilding = none ∧ (s.stack k).journal = []) ∧
       ∀ e ∈ s.plc.map, e.2.state ≠ .releasing) ∧
    (let s := { flyRig (.fence false) with ups := { rig.ups with quiesce := some (0, 3) } }
     s.clocked = true ∧ s.ups.quiesce = some (0, 3) ∧ s.mem.heldWrites = [] ∧ s.flight ≠ [] ∧
       (∀ k, k < 12 → (s.stack k).offline = none ∧ (s.stack k).rebuilding = none ∧ (s.stack k).journal = []) ∧
       (∀ e ∈ s.plc.map, e.2.state ≠ .releasing) ∧ ∀ e ∈ s.store.sram, ∀ l, e.place ≠ .check l) := by
  refine ⟨by decide +kernel, by decide +kernel, by decide +kernel, by decide +kernel, by decide +kernel, by decide +kernel, by decide +kernel,
    by decide +kernel, ?_⟩
  intro e h; cases h
theorem test_hyp_FunctionLevelReset : rig.powered = true ∧
    (({ rig with que := { rig.que with flr := true } } : State).que.flr = true ∧ ∀ c ∈ rig.flight, c.orphan = false) ∧
    ∃ c ∈ ({ rig with flight := [{ flying .done with orphan := true }] } : State).flight, c.orphan = true := by decide +kernel

/-- One reading of the power unit: ten equal samples in W and 112 equal junction readings in °C. -/
def reading (watts : Nat) (celsius : Int) : PowerReading :=
  { samples := List.replicate 10 watts, vin := 4800, junction := List.replicate 112 celsius }
theorem test_hyp_PowerEvaluationSteps : rig.powered = true ∧ rig.tim.now % 100000 = 0 ∧ rig.pwr.lastEval ≠ rig.tim.now + 1 ∧ rig.capsFired = true ∧
    rig.capNow * 10 < (reading 1501 20).samples.sum ∧ (countLife (takeReadings (reading 1000 100) rig)).junctionHot = true ∧ rig.pwr.step < 12 ∧
    12 ≤ ({ rig with pwr := { step := 12 } } : State).pwr.step ∧
    (let s := { rig with tim := { now := 2000000 },
                         pwr := { step := 1, lastStepAt := some 1000000, history := List.replicate 9 ⟨true, false, true⟩ } }
     let v := countLife (takeReadings (reading 1420 20) s)
     let last := s.pwr.history.drop (s.pwr.history.length - 9)
     ¬(s.capNow * 10 < (reading 1420 20).samples.sum) ∧ ¬(v.junctionHot = true ∨ v.stackHot = true) ∧ s.kMin < s.pwr.step ∧
       (∀ k ∈ s.pwr.lastStepAt, k + 1000000 ≤ s.tim.now) ∧ last.length = 9 ∧ s.pwr.history.length ≤ 10 ∧
       (∀ e ∈ last, e.within = true ∧ e.thermal = false ∧ e.cool = true) ∧
       (reading 1420 20).samples.sum + v.pwr.upNow * 10 ≤ s.capNow * 10 ∧ v.cool = true) ∧
    rig.pwr.step ≤ rig.kMin := by decide +kernel
theorem test_hyp_BrakeTripAndSensors : rig.powered = true ∧ rig.pwr.brake = false ∧ rig.clocked = true ∧ rig.mem.journalOver = false ∧ (110 : Int) ≤ 110 ∧
    (111 : Fin 112).val ∉ rig.pwr.invalid ∧ ({ rig with tim := { now := 1000000 } } : State).mem.lastTempRead + 1000000 ≤ 1000000 := by
  decide +kernel
/-- `rig` with one schedule entry of a kind, due now. -/
def dueRig (entry : Nat) (kind : Nat) : State :=
  { rig with sched := [(entry, { body := { kind, arg0 := 700, start := 0, period := 10000, count := 0, arg1 := 0 }, next := 0 })] }
theorem test_hyp_ScheduledInstancesTakeEffect : (dueRig 63 4).clocked = true ∧ (tfind (dueRig 63 4).sched 63).isSome = true ∧
    ((dueRig 63 4).firing 63 4).isSome = true ∧ ((dueRig 0 3).firing 0 3).isSome = true ∧ ((dueRig 20 5).firing 20 5).isSome = true ∧
    ((dueRig 16 1).firing 16 1).isSome = true ∧ ((dueRig 48 6).firing 48 6).isSome = true ∧ ((dueRig 15 2).firing 15 2).isSome = true ∧ 15 < 16 ∧
    (let s := { dueRig 16 1 with cnt := { enable := true } }
     s.mem.journalOver = false ∧
       (fireNext 16 (applySelection (if s.cnt.enable then takeSample noRails s else s))).mem.journalOver = false) ∧
    (let s := { dueRig 3 4 with sched := (dueRig 3 4).sched ++ (dueRig 7 4).sched }
     ∃ d u, s.nextDue 7 = some d ∧ s.nextDue 3 = some u ∧ (u.1 < d.1 ∨ (u.1 = d.1 ∧ 3 < 7))) ∧
    (tfind (dueRig 0 3).tim.owed 0 = none ∧ 10000 ≠ 0 ∧ (dueRig 0 3).tim.now < 0 + (0 + 1) * 10000) ∧
    (tfind ({ rig with tim := { owed := [(2, { kind := 4, arg0 := 0, start := 0, period := 0, count := 0, arg1 := 0 })] } } : State).tim.owed 2).isSome = true := by
  refine ⟨?_, ?_, ?_, ?_, ?_, ?_, ?_, ?_, ?_, ?_, ⟨_, _, rfl, rfl, .inr ⟨rfl, ?_⟩⟩, ?_, ?_⟩ <;> decide +kernel
/-- A rib whose port 11 is the PTP slave port in eight-lane service. -/
def ribRig (t : Tim) : State := { rig with tim := { t with role := .rib }, lnk := { ports := [(11, { state := .eight, lanes := 0xFF, ptp := 2, heard := true, delay := some 100 })] } }
theorem test_hyp_RimTimeFollows : (ribRig {}).follower = true ∧ (ribRig {}).hearsMaster 11 (ribRig {}).lnk.ptpDomain = true ∧
    (((ribRig {}).port 11).delay = some 100 ∧ ((ribRig {}).port 11).heard = true ∧ ((ribRig {}).port 11).syncSeq = 0 ∧ ((ribRig {}).port 11).early = none) ∧
    (let s := (ribRig {}).setPort 11 { (ribRig {}).port 11 with early := some (7, 0) }
     s.hearsMaster 11 s.lnk.ptpDomain = true ∧ (s.port 11).early = some (7, 0) ∧ (s.port 11).delay = some 100) ∧
    ((-1000 : Int).natAbs ≤ 1000 ∧ 1000 < (1001 : Int).natAbs ∧ (ribRig {}).maySteps = true ∧ (ribRig { time := .locked }).maySteps = false) ∧
    (let s := ribRig { time := .locked, now := 8000000 }
     s.tim.time = .locked ∧ s.tim.lastSync + 8000000 ≤ s.tim.now) ∧
    (let s := ribRig { time := .holdover, now := 10000000000 }
     s.tim.time = .holdover ∧ s.tim.holdAt + 10000000000 ≤ s.tim.now) := by decide +kernel
theorem test_hyp_PulsesMarkSeconds :
    (let s := { rig with tim := { role := .rim, now := 1400000000 } }
     s.powered = true ∧ s.tim.role = .rim ∧ 5 ≤ s.ups.stage ∧ s.tim.now + 500000000 < 2 ^ 64 ∧ s.tim.time ≠ .lost ∧
       s.tim.ppsOut ≠ some (s.tim.now / 1000000000 * 1000000000)) ∧
    ({ rig with tim := { time := .lost } } : State).tim.time = .lost := by decide +kernel
/-- Port 3 in service, a PTP port of a state. -/
def ptpRig (ptp : PtpState) : State := { rig with tim := { now := 250000000 }, lnk := { ports := [(3, { state := .low, lanes := 0x0F, ptp })] } }
theorem test_hyp_PtpMessages : (ptpRig 1).hears 3 (ptpRig 1).lnk.ptpDomain = true ∧ ((ptpRig 1).port 3).ptp = 1 ∧
    (let s := { ptpRig 2 with tim := { (ptpRig 2).tim with role := .rib } }
     s.hears 3 0 = true ∧ s.follower = true ∧ (s.port 3).ptp = 2 ∧ (s.port 3).reqSeq = 0 ∧ (s.port 3).pair = none ∧
       (({ s.port 3 with pair := some (5, 9) } : Port).pair = some (5, 9) ∧ (s.setPort 3 { s.port 3 with pair := some (5, 9) }).follower = true ∧
         (s.setPort 3 { s.port 3 with pair := some (5, 9) }).hears 3 0 = true) ∧ (s.port 3).lastReq + 3906250 ≤ s.tim.now) ∧ 1 ≠ 0 ∧
    ((ptpRig 1).port 3).lastSync + 3906250 ≤ (ptpRig 1).tim.now ∧ ((ptpRig 0).port 3).ptp ≠ 1 ∧
    ((ptpRig 1).port 3).lastAnn + 250000000 ≤ (ptpRig 1).tim.now := by decide +kernel

/-- A member with a summary held for its round, and rounds without a storm behind it. -/
def commitRig (m : Summary) (t : Tns) : State := { memberRig with tns := { t with held := some m, staged := memberRig.tns.staged, active := memberRig.tns.active } }
def stormFreeRig : State :=
  let s := commitRig {} { floor := 1 }
  { s with tns := { s.tns with active := { s.tns.active with decay := 1 } } }
theorem test_hyp_CommitEffectAdvancesTheRound : memberRig.clocked = true ∧ memberRig.tim.domain = .member ∧ 0 = memberRig.tns.round ∧
    (memberRig.mem.journalOver = false ∧ (commitMessage 0 2 memberRig).mem.journalOver = false) ∧
    (commitRig {} { heldDiverged := true }).tns.heldDiverged = true ∧ (commitRig { storm := true } {}).tns.held = some { storm := true } ∧
    ((commitMessage 0 2 (commitRig { storm := true } {})).mem.journalOver = false ∧ (commitMessage 0 2 stormFreeRig).mem.journalOver = false) ∧
    (0 < bits stormFreeRig.tns.active.decay.toNat 15 0 ∧ bits stormFreeRig.tns.active.decay.toNat 15 0 ≤ min (stormFreeRig.tns.stormFree + 1) 65535 ∧
      0 < stormFreeRig.tns.floor) ∧ bits memberRig.tns.active.decay.toNat 15 0 = 0 ∧ memberRig.updates = [] ∧
    (flyRig (.commit true)).updates = [flying (.commit true)] ∧ 1 ≠ memberRig.tns.round := by
  decide +kernel
theorem test_hyp_DecisionsReachMembers : memberRig.clocked = true ∧ memberRig.tim.domain = .member ∧
    memberRig.tim.decided ≠ some (BitVec.ofNat 64 (decisionDetail 4 none none 0)) ∧
    memberRig.tim.decided ≠ some (BitVec.ofNat 64 (decisionDetail 2 (some 1) none 0)) ∧ some 1 = some memberRig.tim.seat ∧
    none ≠ some memberRig.tim.seat ∧
    ({ memberRig with tim := { memberRig.tim with decided := some (BitVec.ofNat 64 (decisionDetail 2 none none 0)) } } : State).tim.decided =
      some (BitVec.ofNat 64 (decisionDetail 2 none none 0)) ∧
    (let d : Decision := { code := 2, round := 0, lost := none, peer := none, isSource := false, diverged := true, takeSeat := none }
     let s := { flyRig (.commit true) with tim := memberRig.tim, tns := { heldDiverged := true } }
     d.refused = false ∧ ({ d with refused := true } : Decision).refused = true ∧ (d.code = 2 ∨ d.code = 3) ∧ d.takeSeat = none ∧ s.commits = [flying (.commit true)] ∧ s.tns.heldDiverged = true) := by decide +kernel

/-- The rim of a domain of two: itself at seat 0 and a member at seat 1. -/
def rimRig (m : Member) : State :=
  { rig with tim := { role := .rim, domain := .member, domainId := 9, now := 10000000000 },
             rim := { seats := [(0, { deviceId := 1, replicaSet := 0, standby := false, deputyRank := 0, joined := true }), (1, m)] } }
/-- A state with port 11 in service. -/
def linked (s : State) : State := { s with lnk := { s.lnk with ports := [(11, { state := .eight, lanes := 0xFF })] } }
def seatOne : Member := { deviceId := 2, replicaSet := 0, standby := false, deputyRank := 0, joined := true }
theorem test_hyp_JoinsAreAccepted :
    (let m := { seatOne with joined := false }
     let s := rimRig m
     s.isRim = true ∧ s.tim.domain = .member ∧ s.rim.seats.find? (fun e => e.2.deviceId == 2 && !e.2.joined && !e.2.lost) = some (1, m) ∧
       s.member 1 = some m ∧ 9 = s.tim.domainId ∧ 2 ∉ s.rim.retired ∧ (∀ c ∈ s.flight, c.wait ≠ .poolAdd 2) ∧ 8 ≠ s.tim.domainId) ∧
    (let m := { seatOne with joined := false }
     let s := linked (rimRig m)
     s.isRim = true ∧ s.tim.domain = .member ∧ s.rim.seats.find? (fun e => e.2.deviceId == 2 && !e.2.joined && !e.2.lost) = some (1, m) ∧
       s.member 1 = some m ∧ s.linked = true) ∧
    (∀ e ∈ (rimRig seatOne).rim.seats, e.2.deviceId = 2 → e.2.joined = true ∨ e.2.lost = true) ∧
    (let s := { flyRig (.join 5) with tim := { role := .rib, domain := .joining, now := 6 } }
     s.clocked = true ∧ s.tim.domain = .joining ∧
       (s.flight.filter fun e => match e.wait with | .join _ => true | _ => false) = [flying (.join 5)] ∧ 5 < s.tim.now) ∧
    ∀ c ∈ rig.flight, c.wait ≠ .join 0 := by decide +kernel
/-- The same with a deputy at seat 2. -/
def deputyRig : State :=
  let s := rimRig seatOne
  { s with rim := { s.rim with seats := s.rim.seats ++ [(2, { seatOne with deviceId := 3, deputyRank := 1 })] } }
theorem test_hyp_LostSeatsAreRefused_told : (linked (rimRig seatOne)).isRim = true ∧ (linked (rimRig seatOne)).member 1 = some seatOne ∧
    (linked (rimRig seatOne)).linked = true ∧ (linked (rimRig seatOne)).deputySeat = none ∧ (linked (rimRig seatOne)).rim.unacked = none ∧
    (linked (rimRig seatOne)).rim.decision = none ∧ 1 ≠ (linked (rimRig seatOne)).tim.seat ∧ (linked deputyRig).linked = true ∧
    (linked deputyRig).deputySeat = some 2 ∧ (linked deputyRig).member 1 = some seatOne := by decide +kernel
theorem test_hyp_LostSeatsAreRefused : (rimRig seatOne).isRim = true ∧ (rimRig seatOne).member 1 = some seatOne ∧ seatOne.lost = false ∧
    (let m := { seatOne with misses := 2, awaiting := true }
     (rimRig m).member 1 = some m ∧ m.joined = true ∧ 3 ≤ m.misses + (if m.awaiting then 1 else 0) ∧
       (rimRig m).mem.journalOver = false ∧ (heartbeatMissed 1 (rimRig m)).mem.journalOver = false) ∧
    seatOne.misses + (if seatOne.awaiting then 1 else 0) < 3 ∧ (seatLost 1 (rimRig seatOne)).mem.journalOver = false ∧
    ({ seatOne with standby := true } : Member).standby = true ∧ seatOne.standby = false ∧
    (deputyRig.member 1 = some seatOne ∧ deputyRig.deputySeat = some 2 ∧ deputyRig.rim.unacked = none ∧ deputyRig.rim.decision = none ∧
      ({ deputyRig with rim := { deputyRig.rim with unacked := some { code := 0, round := 0, pairs := [] } } } : State).rim.unacked ≠ none) ∧
    ((rimRig seatOne).deputySeat = none ∧ (rimRig seatOne).tim.seat ∉ sinsert (rimRig seatOne).rim.losses 1) := by decide +kernel
def answerOne : Answer := { seat := 1, round := 0, domain := 2, frozen := false, short := false, storm := false, portsOut := 0 }
theorem test_hyp_HeartbeatsAreAnswered_told : ((linked (rimRig seatOne)).linked = true ∧ (linked (rimRig seatOne)).isRim = true ∧
      1 ∈ (linked (rimRig seatOne)).others ∧
      (linked (rimRig seatOne)).rim.lastHbSent + (linked (rimRig seatOne)).tim.policy.hbPeriod * 1000 ≤ (linked (rimRig seatOne)).tim.now) ∧
    ((linked memberRig).powered = true ∧ (linked memberRig).tim.domain = .member ∧ (linked memberRig).tim.role ≠ .rim ∧
      (linked memberRig).linked = true) ∧
    (let m := { seatOne with lost := true }
     (rimRig m).isRim = true ∧ (rimRig m).member answerOne.seat = some m ∧ m.lost = true ∧ (rimRig m).mem.journalOver = false) := by decide +kernel
theorem test_hyp_HeartbeatsAreAnswered : (rimRig seatOne).isRim = true ∧
    (rimRig seatOne).rim.lastHbSent + (rimRig seatOne).tim.policy.hbPeriod * 1000 ≤ (rimRig seatOne).tim.now ∧
    ((rimRig seatOne).others = [1] ∧ (rimRig seatOne).others.Nodup) ∧
    (memberRig.powered = true ∧ memberRig.tim.domain = .member ∧ memberRig.tim.role ≠ .rim) ∧
    (rimRig seatOne).member answerOne.seat = some seatOne ∧ seatOne.lost = false ∧ answerOne.portsOut = seatOne.portsOut ∧
    (answerOne.storm = false ∧ answerOne.frozen = false ∧ answerOne.short = false ∧ (rimRig seatOne).mem.journalOver = false) ∧
    (({ answerOne with storm := true } : Answer).storm = true ∧ answerOne.round = (rimRig seatOne).tns.round ∧
      ({ answerOne with storm := true, round := 1 } : Answer).round ≠ (rimRig seatOne).tns.round) ∧
    (({ answerOne with frozen := true } : Answer).frozen = true ∧
      (heartbeatAnswer { answerOne with frozen := true } (rimRig seatOne)).mem.journalOver = false) := by decide +kernel
def updatedOne : Report := { seat := 1, kind := .updated, round := 0, diverged := false, replayFailed := false, absent := [] }
def reportedRim : Member := { deviceId := 1, replicaSet := 0, standby := false, deputyRank := 0, joined := true, exchanged := true, updated := true }
/-- The rim has reported; seat 1 still has to, and has a deputy's rank. -/
def waitingRim (rank : Nat) : State :=
  let s := rimRig { seatOne with deputyRank := rank }
  { s with rim := { s.rim with seats := tinsert s.rim.seats 0 reportedRim } }
theorem test_hyp_ReportsAreCounted_told :
    let s := linked (waitingRim 0)
    let u : State := { s with rim := { s.rim with seats := tinsert s.rim.seats 1 { seatOne with exchanged := true, updated := true } } }
    s.isRim = true ∧ s.member 1 = some seatOne ∧ s.mem.journalOver = false ∧ u.canCommit = true ∧ u.deputySeat = none ∧
      s.tim.domain = .member ∧ s.rim.late = [] ∧ s.linked = true ∧ 1 ∈ u.others := by decide +kernel
theorem test_hyp_ReportsAreCounted : (rimRig seatOne).isRim = true ∧ (rimRig seatOne).member 1 = some seatOne ∧ seatOne.lost = false ∧
    updatedOne.round = (rimRig seatOne).tns.round ∧ (rimRig seatOne).mem.journalOver = false ∧
    (let u := fun (s : State) (m : Member) => ({ s with rim := { s.rim with seats := tinsert s.rim.seats 1 { m with exchanged := true, updated := true } } } : State)
     (u (rimRig seatOne) seatOne).canCommit = false ∧
       ((u (waitingRim 1) { seatOne with deputyRank := 1 }).canCommit = true ∧ (u (waitingRim 1) { seatOne with deputyRank := 1 }).deputySeat ≠ none) ∧
       ((u (waitingRim 0) seatOne).canCommit = true ∧ (u (waitingRim 0) seatOne).deputySeat = none ∧ (waitingRim 0).tim.domain = .member ∧
         (waitingRim 0).rim.late = [] ∧ (syncDeputy (rimReport updatedOne (waitingRim 0))).mem.journalOver = false)) ∧
    (({ rimRig seatOne with rim := { stretched := some 4 } } : State).rim.stretched = some 4 ∧ 4 < 5) := by decide +kernel
theorem test_hyp_DeputyAndTakeover :
    (let d : RimDecision := { code := 1, round := 0, pairs := [] }
     let s := rimRig seatOne
     let u := { s with rim := { s.rim with unacked := some d } }
     let v := { s with rim := { s.rim with decision := some d } }
     s.isRim = true ∧ s.rim.unacked = none ∧ s.mem.journalOver = false ∧
       (u.isRim = true ∧ u.rim.unacked = some d ∧ d.code ≠ 0 ∧ u.tim.seat ∉ d.pairs.map (·.1) ∧ (syncDeputy (release u)).mem.journalOver = false) ∧
       (v.rim.decision = some d ∧ v.rim.decidedAt + v.tim.policy.takeover * 1000000 < v.tim.now ∧
         ({ v with rim := { v.rim with decidedAt := v.tim.now } } : State).tim.now ≤ v.tim.now + v.tim.policy.takeover * 1000000)) ∧
    (let c : RimCopy := { seats := [], groups := [], losses := [], decision := none, rimSeat := 0 }
     let s := { memberRig with tim := { memberRig.tim with deputy := true, now := 3000000, copy := some c } }
     s.powered = true ∧ (s.tim.domain = .member ∧ DomainState.standby ≠ .halted) ∧ s.tim.deputy = true ∧ c.unacked = none ∧ 3 ≤ 3 ∧ 2 < 3 ∧ s.tim.lastHb + 3 * s.tim.policy.hbPeriod * 1000 ≤ s.tim.now ∧
       s.mem.journalOver = false ∧ (syncDeputy (becomeRim s)).mem.journalOver = false ∧ s.tim.copy = some c ∧ c.decision = none ∧
       tfind (copyTable c) c.rimSeat = none) ∧
    (let c : RimCopy := { seats := [{ seat := 0, deviceId := 1, replicaSet := 0, standby := false, deputyRank := 0, joined := true, lost := false,
                                      exchanged := false, updated := false, diverged := false, badReplay := false, badRound := false,
                                      redone := false, portsOut := 0, ckpts := [], mac := none }],
                          groups := [], losses := [], decision := none, rimSeat := 0 }
     let s := { memberRig with tim := { memberRig.tim with domain := .standby, deputy := true, now := 3000000, copy := some c } }
     s.tim.domain = .standby ∧ (syncDeputy (becomeRim s)).mem.journalOver = false ∧
       ∃ m, tfind (copyTable c) c.rimSeat = some m ∧ m.standby = false ∧ m.lost = false) ∧
    (let s := linked (rimRig seatOne)
     s.linked = true ∧ 1 ∈ s.others) := by
  refine ⟨by decide +kernel, by decide +kernel, ⟨by decide +kernel, by decide +kernel, _, rfl, rfl, rfl⟩, by decide +kernel⟩

/-- `rig` with handles 2 and 7 in apertures 0 and 1; handle 7 lies across stacks 0 to 5, of which 0 is FAILED. -/
def windowRig : State :=
  { rig with
    lnk := { apertures := [(0, { handle := 2 }), (1, { handle := 7 })] },
    mem := { stackTab := (0, { trainedStack with health := .failed }) :: (List.range 11).map fun k => (k + 1, trainedStack) },
    plc := { map := rig.plc.map ++ [(7, { hoopDesc 7 0 0 4096 with location := .across [0, 1, 2, 3, 4, 5] 0 0 })] } }
theorem test_hyp_MemoryWindowAccesses : windowRig.clocked = true ∧
    (inAperture (2 ^ 30 - 1) 1 = true ∧ windowRig.accepts (2 ^ 30 - 1) 1 = false ∧ windowRig.accepts (2 ^ 31) 1 = false) ∧
    (inAperture 3584 512 = true ∧ windowRig.accepts 3584 512 = true ∧ (windowRig.aperture 3584).2 % 512 = 0 ∧
      windowRig.desc 2 = some (2, hoopDesc 2 0 16 4096) ∧
      (let id := windowRig.lineOf 2 (hoopDesc 2 0 16 4096) 7
       isHbm id = false ∧ (∀ e ∈ windowRig.store.sram, e.place ≠ .hoop id) ∧ tget 0 windowRig.store.crcXor id = 0)) ∧
    (inAperture (2 ^ 30) 512 = true ∧ windowRig.accepts (2 ^ 30) 512 = true ∧ (windowRig.desc 7).map (·.1) = some 7 ∧
      (let id := windowRig.lineOf 7 { hoopDesc 7 0 0 4096 with location := .across [0, 1, 2, 3, 4, 5] 0 0 } 0
       isHbm id = true ∧ (windowRig.stack (lineStack id)).health = .failed) ∧
      (let id := windowRig.lineOf 7 { hoopDesc 7 0 0 4096 with location := .across [0, 1, 2, 3, 4, 5] 0 0 } 1
       (windowRig.aperture (2 ^ 30 + 512)).2 / 512 = 1 ∧ isHbm id = true ∧ (windowRig.stack (lineStack id)).health ≠ .failed ∧
         (windowRig.stack (lineStack id)).poisoned (lineNo id) = false ∧ windowRig.store.faults = [] ∧ windowRig.store.sram = [])) ∧
    (windowRig.mem.journalOver = false ∧ (bar4Read 3584 512 windowRig).mem.journalOver = false) ∧
    (windowRig.mem.heldWrites = [] ∧ windowRig.journaled + 3 < 1048576) ∧ ∀ c ∈ windowRig.flight, c.opcode ≠ 0x4A := by
  decide +kernel
/-- A write held back by a full retrain journal. -/
def heldWrite : HeldWrite := { handle := 2, offset := 0, bytes := [1], bar4 := true }
theorem test_hyp_MemoryWindowAccesses_held :
    let s := { windowRig with mem := { windowRig.mem with heldWrites := [heldWrite] } }
    s.clocked = true ∧ s.accepts 3584 512 = true ∧ s.mem.heldWrites ≠ [] ∧ s.journaled + 3 < 1048576 := by decide +kernel
theorem test_hyp_MovesWriteTheirLines :
    ((∃ pl r v, SucceedsS 0 0x11 fillPkt (planFill 0 fillPkt) rig pl r v) ∧ rig.desc (fillPkt.handle 16) = some (2, hoopDesc 2 0 16 4096) ∧
      0 < fillPkt.num 26 6 ∧ rig.lineOf 2 (hoopDesc 2 0 16 4096) 0 ≠ rig.lineOf 2 (hoopDesc 2 0 16 4096) 2) ∧
    ((∃ pl r v, SucceedsS 0 0x10 copyPkt (planCopy copyPkt) rig pl r v) ∧ rig.desc (copyPkt.handle 26) = some (3, hoopDesc 3 0 24 4096) ∧
      0 < copyPkt.num 36 6 ∧ rig.desc (copyPkt.handle 16) = some (2, hoopDesc 2 0 16 4096) ∧
      rig.store.faults = [] ∧ rig.store.crcXor = [] ∧ rig.store.sram = []) ∧
    ∀ c ∈ rig.flight, c.opcode ≠ 0x4A :=
  ⟨⟨runsS_spec test_fill_runs, by decide +kernel⟩, ⟨runsS_spec test_copy_runs, by decide +kernel⟩, by decide +kernel⟩

/-- Line 0 of stack 0 written, with two wrong symbols of die 0 in one code word. -/
def faultRig : State :=
  { rig with tim := { now := 1000000000 }, store := { valid := [0], faults := [(0, [(0, 0, 1), (0, 1, 1)])] },
             mem := { stackTab := (0, { trainedStack with burstCe := [(15, 65)] }) :: (List.range 11).map fun k => (k + 1, trainedStack) } }
theorem test_hyp_MemoryIsPatrolled : faultRig.clocked = true ∧ 4 ≤ faultRig.ups.stage ∧
    (faultRig.mem.ctrl.getLsbD 1 = true ∧ (faultRig.stack 0).trained = true ∧ (faultRig.stack 0).health ≠ .failed ∧ faultRig.scrubSlot 0 = true ∧
      (faultRig.stack 0).lastScrub ≠ some faultRig.tim.now ∧ faultRig.scrubSlot 11 = false) ∧
    (let s := { faultRig with store := { valid := [0], faults := [(0, [(0, 15, 1), (31, 15, 1)])] } }
     (s.mem.journalOver = false ∧ (scrub 0 s).mem.journalOver = false ∧ s.mem.ctrl.getLsbD 1 = true ∧ (s.stack 0).trained = true ∧
       s.scrubSlot 0 = true ∧ (s.stack 0).lastScrub ≠ some s.tim.now) ∧
     (s.stack 0).scrubLine < dataLines ∧ (s.stack 0).health = .healthy ∧ s.mem.ctrl.getLsbD 0 = false ∧
       (∀ f ∈ s.faultsOf (hbmLine 0 (s.stack 0).scrubLine), symbolBurst f.1 f.2.1 = 15) ∧
       wrongWords (s.faultsOf (hbmLine 0 (s.stack 0).scrubLine)) ≠ []) ∧
    (0 < dataLines ∧ (faultRig.stack 0).health = .healthy ∧ (faultRig.stack 0).poisoned 0 = false ∧
      decodePlain (hbmLine 0 0) (faultRig.faultsOf (hbmLine 0 0)) = .uncorrectable) ∧
    faultRig.mem.heldWrites = [] ∧
    (tget 0 (faultRig.stack 0).evaluated 15 + 1000000000 ≤ faultRig.tim.now ∧ faultRig.mem.ctrl.getLsbD 2 = true ∧
      (faultRig.stack 0).health ≠ .degraded ∧
      Max.max 1 faultRig.mem.retrainThresh < tget 0 (faultRig.stack 0).burstCe 15 ∧
      tget 0 (faultRig.stack 0).burstCe 14 ≤ Max.max 1 faultRig.mem.retrainThresh) ∧
    ({ faultRig with tim := { now := 999999999 } } : State).tim.now < tget 0 (faultRig.stack 0).evaluated 15 + 1000000000 := by decide +kernel

/-- `rig` with stack 3 as given. -/
def stackRig (v : Stack) : State := { rig with mem := { stackTab := tinsert rig.mem.stackTab 3 v } }
theorem test_hyp_RetrainWindowsRun :
    (let s := stackRig { trainedStack with booked := [15] }
     s.clocked = true ∧ (s.stack 3).booked.contains 15 = true ∧ s.noneOffline = true ∧ (s.stack 3).health = .healthy ∧ (s.stack 3).trained = true) ∧
    (let s := stackRig { trainedStack with booked := [15], offline := some 2, health := .retraining }
     (s.stack 3).booked.contains 15 = true ∧ s.noneOffline = false ∧ s.flight = []) ∧
    (let s := stackRig { trainedStack with offline := some 15, health := .retraining }
     (s.stack 3).offline = some 15 ∧ (s.stack 3).health = .retraining ∧ s.tim.now ≤ (s.stack 3).offlineAt + 50000000 ∧ s.flight = [] ∧
       s.mem.heldWrites = [] ∧ (s.stack 3).offlineAt + 50000000 ≤ ({ s with tim := { now := 50000000 } } : State).tim.now) ∧
    (let s := stackRig { trainedStack with rebuilding := some 15, health := .retraining }
     (s.stack 3).rebuilding = some 15 ∧ (s.stack 3).health = .retraining ∧ (s.stack 3).offline = none) := by decide +kernel

/-- `rig` with stack 0 DEGRADED, migration enabled and handle 7, of one line, on that stack; position 3 of die 1 marked. -/
def boundaryRig : State :=
  { rig with
    mem := { stackTab := (0, { trainedStack with health := .degraded }) :: (List.range 11).map fun k => (k + 1, trainedStack) },
    plc := { rig.plc with map := rig.plc.map ++ [(7, { hoopDesc 7 0 0 512 with location := .across [0] 0 0 })], ctrl := 0x00010103,
                          marked := [(1, 3)], retired := [24] } }
theorem test_hyp_HandlesMoveAndGo_place : (∃ pl r v, SucceedsS 0 0x12 placePkt (planPlace placePkt) rig pl r v) ∧
    (rig.plc.map.map (·.1)).Pairwise (· < ·) ∧ bit (placePkt.num 27 1) 0 = false ∧ placePkt.num 43 1 = 0 :=
  ⟨runsS_spec test_place_runs, by decide +kernel⟩
theorem test_hyp_HandlesMoveAndGo_boundary : boundaryRig.powered = true ∧
    (boundaryRig.plc.spares.map (·.1)).Pairwise (· < ·) ∧ boundaryRig.plc.ctrl.getLsbD 0 = true ∧ boundaryRig.plc.current = none ∧
    boundaryRig.plc.taken = [] ∧
    (let t := roundBoundary boundaryRig
     t.retired 0 24 = true ∧ t.retired 1 24 = false ∧ t.retired 1 3 = true ∧ (∀ j, j < 3 → t.retired 1 (0 + j) = false) ∧
       (∀ k, k < 24 → t.retired 1 (25 + k) = false) ∧ t.plc.current.isSome = true) ∧
    (let s := { boundaryRig with plc := { boundaryRig.plc with ctrl := 0x00010100 } }
     s.powered = true ∧ s.plc.ctrl.getLsbD 0 = false ∧ s.plc.ctrl.getLsbD 1 = false ∧ ∀ k, k < 24 → (roundBoundary s).retired 1 (25 + k) = false) := by
  decide +kernel
theorem test_hyp_HandlesMoveAndGo_held : rig.powered = true ∧ rig.mem.journalOver = false ∧
    (∃ w ∈ ({ rig with mem := { rig.mem with heldWrites := [heldWrite] } } : State).mem.heldWrites, w.handle = 2) ∧
    (let c := { flying (.released 2) with names := [2] }
     let s := { rig with flight := [c] }
     s.mem.journalOver = false ∧ (releaseFree 2 s).mem.journalOver = false) := by decide +kernel
theorem test_hyp_HandlesMoveAndGo :
    (let c := { flying (.released 2) with names := [2] }
     let s := { rig with flight := [c] }
     s.powered = true ∧ s.flight.find? (fun e => e.wait == .released 2) = some c ∧ (∀ e ∈ s.flight, e.id < c.id → 2 ∉ e.named) ∧
       s.mem.heldWrites = [] ∧
       s.plc.current.map (·.index) ≠ some ((2 : BitVec 32).toNat % 65536) ∧ (∀ e ∈ s.plc.taken, e.1 ≠ (2 : BitVec 32).toNat % 65536) ∧ s.clocked = true) ∧
    (let c := { flying (.released 2) with id := 1, names := [2] }
     let s := { rig with flight := [{ flying .done with names := [2] }, c] }
     s.flight.find? (fun e => e.wait == .released 2) = some c ∧ ∃ e ∈ s.flight, e.id < c.id ∧ 2 ∈ e.named) ∧
    (let m : Migration := { index := 2, newLoc := .across [0, 1] 0 0, pointer := 0, stopped := true }
     let s := { rig with plc := { rig.plc with current := some m } }
     s.plc.current = some m ∧ tfind s.plc.map m.index = some (hoopDesc 2 0 16 4096) ∧ m.stopped = true ∧ 4 ≤ s.ups.stage ∧
       s.locationReady (hoopDesc 2 0 16 4096).location = true ∧ s.locationReady m.newLoc = true ∧ s.mem.journalOver = false) := by decide +kernel
/-- A copy of handle 2's eight lines, its last one next. -/
def copying : Migration := { index := 2, newLoc := .hoop 2 0, pointer := 7, stopped := false }
theorem test_hyp_HandlesMoveAndGo_copy :
    let s := { rig with plc := { rig.plc with current := some copying } }
    s.plc.current = some copying ∧ tfind s.plc.map copying.index = some (hoopDesc 2 0 16 4096) ∧ copying.stopped = false ∧ s.plc.taken = [] ∧
      s.mem.journalOver = false ∧ (migrationCopy s).mem.journalOver = false := by decide +kernel

/-- `rig` with one command in flight. -/
def waiting (c : InFlight) (s : State) : State := { s with flight := [c], nextId := 1 }
/-- An exchange command in flight whose packet names window 1 and 512 bytes of handle 2. -/
def exchanging (op : Nat) (inst : Option (Nat × Nat)) : InFlight :=
  { fresh 0 op (pkt [(16, 4, 2), (26, 6, 512), (40, 4, 1)]) false rig with wait := .exchange inst }
def drainPlan : DrainPlan := { member := none, remote := 0, crcDest := 0, window := 0, entries := [{ handle := 2, offset := 0, length := 512, dst := 0 }] }
/-- `rig` with the dump going to handle 6. -/
def dumpRig : State := { rig with trc := { dumpHandle := 6, dumpWriting := true } }

theorem test_hyp_WaitsEnd :
    (let s := { rig with lnk := { held := [65], msix := [(65 * 4 + 3, 0)], pci := { msixEnable := true } } }
     rig.clocked = true ∧ s.lnk.pci.msixEnable = true ∧ rig.lnk.pci.msixEnable = false ∧ 65 ∈ s.lnk.held ∧ tget 0 s.lnk.holdEnd 65 ≤ rig.tim.now ∧ tget 1 s.lnk.msix (65 * 4 + 3) &&& 1 ≠ 1 ∧
       tget 1 ({ rig with lnk := { held := [65] } } : State).lnk.msix (65 * 4 + 3) &&& 1 = 1 ∧ 65 ∉ rig.lnk.held) ∧
    (let s := waiting { flying .done with seqr := 3 } { rig with tim := { now := 10000000 } }
     s.flight.any (fun e => e.seqr == 3 && decide (e.progress + 1000 * s.seq.wdog ≤ s.tim.now)) = true ∧
       s.seq.status.bits.getLsbD 3 = false ∧ s.seq.frozen = false ∧ runsFrozen 0x00 = false) ∧
    (dumpRig.trc.dumpWriting = true ∧ dumpRig.dumpFits = true ∧ dumpRig.mem.journalOver = false ∧
      ({ rig with trc := { dumpHandle := 2, dumpWriting := true } } : State).dumpFits = false) ∧
    (let c := exchanging 0x40 (some (0, 1))
     let s := waiting c { rig with tim := { now := 10000002 } }
     s.clocked = true ∧ s.inflightAt 0 0 = some c ∧ c.opcode ≠ 0x4A ∧ s.windowGone (c.packet.num 40 4) (some (0, 1)) = true ∧
       s.mem.journalOver = false ∧ (windowGraceExpiry 0 0 [1] s).mem.journalOver = false) ∧
    (let c := { flying (.drain false false drainPlan none) with names := [2] }
     (waiting c rig).inflightAt 0 0 = some c ∧ drainPlan.member = none ∧ (waiting c rig).seq.frozen = false ∧
       ∀ e ∈ (waiting c rig).flight, e.id < c.id → ∀ w ∈ e.writes, w ∉ c.names) ∧
    (let d := { drainPlan with member := some 1, window := 1 }
     let s := waiting { flying (.drain false false d (some (0, 1))) with names := [2] } { rig with tim := { now := 10000001 } }
     d.member = some 1 ∧ s.windowOpen d.window (some (0, 1)) = true ∧ (drainLines d.lines s).1.isOk = true) := by decide +kernel
/-- The exchange command of `exchanging`, in its window. -/
def exchangeRig : State := waiting (exchanging 0x40 (some (0, 1))) { rig with tim := { now := 10000001 } }
theorem test_hyp_WaitsEnd_transfer :
    (let c := exchanging 0x40 (some (0, 1))
     exchangeRig.inflightAt 0 0 = some c ∧ c.wait = .exchange (some (0, 1)) ∧ exchangeRig.seq.frozen = false ∧ c.opcode = 0x40 ∧
       exchangeRig.windowOpen (c.packet.num 40 4) (some (0, 1)) = true ∧
       (match (ownBytes c.packet).run exchangeRig with | .ok b u => (b.length == 512 && u.powered) | .error _ _ => false) = true) ∧
    (exchangeRig.mem.journalOver = false ∧ (transferStart 0 0 (.send true 11 9) exchangeRig).mem.journalOver = false ∧
      (transferStart 0 0 .peerLost exchangeRig).mem.journalOver = false) := by decide +kernel

/-- A reduction and a broadcast of one line of handle 2, in window 1, on a member of group 1 at rank 1. -/
def groupCmd (op : Nat) (l : List (Nat × Nat × Nat)) : InFlight :=
  { fresh 0 op (pkt ([(16, 4, 2), (26, 6, 512), (34, 2, 1), (40, 4, 1)] ++ l)) false rig with wait := .exchange (some (0, 1)) }
def groupRig (c : InFlight) : State := waiting c { memberRig with tim := { memberRig.tim with now := 10000001 } }
def reduceCmd : InFlight := groupCmd 0x41 [(32, 1, 0xAA), (44, 2, 0x100)]
theorem test_hyp_WaitsEnd_reduce : (groupRig reduceCmd).inflightAt 0 0 = some reduceCmd ∧ reduceCmd.opcode = 0x41 ∧
    (groupRig reduceCmd).clocked = true ∧ (groupRig reduceCmd).seq.frozen = false ∧
    (groupRig reduceCmd).windowOpen (reduceCmd.packet.num 40 4) (some (0, 1)) = true ∧
    ((groupRig reduceCmd).group (reduceCmd.packet.num 34 2)).isSome = true ∧
    (match (ownBytes reduceCmd.packet).run (acting reduceCmd.packet.layerId (groupRig reduceCmd)) with
     | .ok b u => (match (adderDie reduceCmd.packet).run u with
       | .ok _ _ => (orderLeaves 2 1 b [{ rank := 0, bytes := List.replicate 512 0, slot := none }]).isSome
       | .error _ _ => false)
     | .error _ _ => false) = true ∧
    (groupRig reduceCmd).mem.journalOver = false ∧
    (transferStart 0 0 (.reduce [{ rank := 0, bytes := List.replicate 512 0, slot := none }]) (groupRig reduceCmd)).mem.journalOver = false := by
  decide +kernel
def broadcastCmd (root : Nat) : InFlight := groupCmd 0x42 [(36, 2, root)]
theorem test_hyp_WaitsEnd_broadcast : (∀ root, root < 2 → (groupRig (broadcastCmd root)).inflightAt 0 0 = some (broadcastCmd root) ∧
      (broadcastCmd root).opcode = 0x42 ∧ ((groupRig (broadcastCmd root)).group 1).isSome = true ∧ (groupRig (broadcastCmd root)).mem.journalOver = false ∧
      (transferStart 0 0 (.broadcast 1 root 0 512 (List.replicate 512 0)) (groupRig (broadcastCmd root))).mem.journalOver = false) ∧
    ([0, 1].getD 1 0 = memberRig.tim.seat ∧ [0, 1].getD 0 0 ≠ memberRig.tim.seat) ∧
    (match readStaging.run (acting (broadcastCmd 0).packet.layerId (groupRig (broadcastCmd 0))) with | .ok _ _ => true | .error _ _ => false) = true ∧
    ¬(2 = (broadcastCmd 0).packet.num 34 2) := by decide +kernel
/-- A command whose frame to port 11 is not acknowledged. -/
def underWayRig : State :=
  { waiting { flying .done with opcode := 0x40 } memberRig with
    lnk := { conns := [{ port := 11, mac := 9, unacked := [{ cmd := 0, seq := 0, dstSeat := 0, xgroup := 0, transfer := 0, offset := 0, payload := [] }] }] } }
theorem test_hyp_WaitsEnd_lost : underWayRig.inflightAt 0 0 = some { flying .done with opcode := 0x40 } ∧ underWayRig.sending 0 = true ∧
    underWayRig.seq.frozen = false ∧ underWayRig.mem.journalOver = false ∧ (transferStart 0 0 .peerLost underWayRig).mem.journalOver = false := by
  decide +kernel
/-- A drain to another member, with no port and with one in service. -/
def memberDrain : DrainPlan := { drainPlan with member := some 1, window := 1 }
def drainRig : State := waiting { flying (.drain false false memberDrain (some (0, 1))) with names := [2] } { rig with tim := { now := 10000001 } }
theorem test_hyp_WaitsEnd_drain : (∀ s ∈ [drainRig, linked drainRig],
      s.clocked = true ∧ s.inflightAt 0 0 = some { flying (.drain false false memberDrain (some (0, 1))) with names := [2] } ∧
      s.seq.frozen = false ∧ s.windowOpen memberDrain.window (some (0, 1)) = true ∧ s.mem.journalOver = false ∧
      (drainStart 0 0 (some (11, 9)) s).mem.journalOver = false ∧
      (drainSend (flying .done) 11 9 1 memberDrain.remote memberDrain.entries (acting nopPkt.layerId s)).1 = none) ∧
    (linked drainRig).linked = true := by decide +kernel

theorem pumpConn_mem (port : Nat) (mac : BitVec 48) (n : Nat) (s : State) : (pumpConn port mac n s).mem = s.mem := by
  induction n generalizing s with
  | zero => rfl
  | succ n ih =>
    simp only [pumpConn]
    split
    · split
      · exact (ih _).trans rfl
      · rfl
    · rfl
theorem sendMember_mem (cmd dst x : Nat) (b : List Byte) (s : State) : (sendMember cmd dst x b s).mem = s.mem := by
  simp only [sendMember]
  split
  · exact (pumpConn_mem _ _ _ _).trans rfl
  · rfl
theorem sendMembers_mem (cmd x : Nat) (b : List Byte) (l : List Nat) (s : State) :
    (l.foldl (fun s seat => sendMember cmd seat x b s) s).mem = s.mem := by
  induction l generalizing s with
  | nil => rfl
  | cons a t ih => exact (ih _).trans (sendMember_mem _ _ _ _ _)
theorem root_mem (c : InFlight) (x root off len : Nat) (bytes b : List Byte) (g : XGroup) (s u : State)
    (hg : s.group (c.packet.num 34 2) = some g) (hd : broadcastDiffers c.packet x root off len = none)
    (hr : g.ranks.getD root 0 = s.tim.seat) (ho : (ownBytes c.packet).run s = .ok b u) :
    (runBroadcast c x root off len bytes s).mem = u.mem := by
  simp only [runBroadcast, hg, hd]
  rw [if_pos hr]
  simp only [ho]
  exact sendMembers_mem _ _ _ _ _
/-- The root of a broadcast, with a port in service to the other member. -/
def rootRig : State := linked (groupRig (broadcastCmd 1))
theorem test_hyp_WaitsEnd_root : rootRig.linked = true ∧ 0 < 512 ∧ rootRig.inflightAt 0 0 = some (broadcastCmd 1) ∧ rootRig.mem.journalOver = false ∧
    (transferStart 0 0 (.broadcast 1 1 0 512 []) rootRig).mem.journalOver = false := by
  refine ⟨by decide +kernel, by decide, by decide +kernel, by decide +kernel, ?_⟩
  have h : (match (ownBytes (broadcastCmd 1).packet).run (acting (broadcastCmd 1).packet.layerId rootRig) with
      | .ok _ u => !u.mem.journalOver | .error _ _ => false) = true := by decide +kernel
  have e : transferStart 0 0 (.broadcast 1 1 0 512 []) rootRig =
      actingFor (broadcastCmd 1) (runBroadcast (broadcastCmd 1) 1 1 0 512 []) rootRig := by
    simp only [transferStart, show rootRig.inflightAt 0 0 = some (broadcastCmd 1) from rfl]
    rw [if_neg (by decide +kernel)]
    simp only [show (broadcastCmd 1).wait = .exchange (some (0, 1)) from rfl]
    rw [if_pos (by decide +kernel)]
    rfl
  split at h
  · rename_i b u ho
    rw [e, actingFor, acting]
    show (runBroadcast _ _ _ _ _ _ (acting (broadcastCmd 1).packet.layerId rootRig)).mem.journalOver = false
    rw [root_mem (broadcastCmd 1) 1 1 0 512 [] b { xgroup := 1, ranks := [0, 1] } _ u (by decide +kernel) (by decide +kernel) (by decide +kernel) ho]
    simpa using h
  · cases h

theorem signalVector_mem (v : Nat) (s : State) : (signalVector v s).mem = s.mem := by
  simp only [signalVector, sendMessage]
  repeat' split
  all_goals rfl
/-- Whole lines written to a hoop store do not fail, whatever they hold, and change no stack. -/
theorem whole_lines_succeed (h : BitVec 32) (i base : Nat) (d : Desc) (hd : d.location = .hoop 1 base) (l : List (Nat × Nat × List Byte)) :
    ∀ s : State, s.plc.current = none → (∀ p ∈ l, p.2.2.length = 512) →
      (writePieces none h i d l s).1 = none ∧ (writePieces none h i d l s).2.mem = s.mem := by
  induction l with
  | nil => intros; exact ⟨rfl, rfl⟩
  | cons p t ih =>
    intro s hs hl
    have hp := hl p (by simp)
    have ht : s.lineOf i d p.1 = hoopLine 1 (base + p.1) := by simp [State.lineOf, hs, hd, Location.line]
    have hb : isHbm (hoopLine 1 (base + p.1)) = false := by
      simp [hoopLine, isHbm, linesPerStack, hoopLines]
      omega
    let m := madeAt none (hoopLine 1 (base + p.1))
    have e : writePiece none h i d p s = (none, storeLine (hoopLine 1 (base + p.1)) p.2.2 m (traffic i 1 s)) := by
      simp only [writePiece, hp, if_true, ht, writeLine, hb]
      rfl
    simp only [writePieces, e, Option.none_or]
    have := ih (storeLine (hoopLine 1 (base + p.1)) p.2.2 m (traffic i 1 s)) (by simp [storeLine, hb, count, traffic, hs])
      fun q hq => hl q (List.mem_cons_of_mem _ hq)
    exact ⟨this.1, this.2.trans (by simp [storeLine, hb, count, traffic])⟩

theorem slice_length (l : List Byte) (a n : Nat) : (slice l a n).length = n := by
  simp [slice]
theorem pieces_whole (n : Nat) : ∀ (k off : Nat) (b : List Byte), b.length = 512 * k → off % 512 = 0 → ∀ p ∈ pieces off b n, p.2.2.length = 512 := by
  induction n with
  | zero => intro k off b _ _ p hp; simp [pieces] at hp
  | succ n ih =>
    intro k off b hb ho p hp
    simp only [pieces] at hp
    split at hp
    · simp at hp
    · rename_i he
      have hk : k ≠ 0 := by
        rintro rfl
        exact he (by simp [List.length_eq_zero_iff.mp hb])
      rcases List.mem_cons.mp hp with rfl | hp
      · simp [ho, hb]
        omega
      · exact ih (k - 1) _ _ (by simp [ho, hb]; omega) (by simp [ho]) p hp
theorem flatMap_length_const {α : Type} (f : α → List Byte) (n : Nat) (hf : ∀ x, (f x).length = n) (l : List α) :
    (l.flatMap f).length = l.length * n := by
  induction l with
  | nil => simp
  | cons a t ih => simp [List.flatMap_cons, hf, ih, Nat.add_mul]; omega
theorem dump_length (s : State) : s.dump.length = dumpBytes := by
  simp only [State.dump, List.length_append, slice_length, State.dumpSequencers, State.dumpQueues]
  rw [flatMap_length_const _ (512 + 16384), flatMap_length_const _ 64, flatMap_length_const _ 64, flatMap_length_const _ 16]
  · simp [dumpBytes]
  all_goals (intro x; simp [slice_length])
theorem test_hyp_WaitsEnd_dump : (writeBytes dumpRig.trc.dumpHandle 0 dumpRig.dump (tick dumpRig)).1 = none ∧
    dumpRig.mem.journalOver = false ∧ (dumpWrite none dumpRig).mem.journalOver = false := by
  have hd : ∃ d, (tick dumpRig).desc dumpRig.trc.dumpHandle = some (6, d) ∧ d.location = .hoop 1 0 := ⟨_, rfl, rfl⟩
  obtain ⟨d, hd, hl⟩ := hd
  have h : (writeBytes dumpRig.trc.dumpHandle 0 dumpRig.dump (tick dumpRig)).1 = none ∧
      (writeBytes dumpRig.trc.dumpHandle 0 dumpRig.dump (tick dumpRig)).2.mem = (tick dumpRig).mem := by
    simp only [writeBytes, writeFrom, hd]
    exact whole_lines_succeed _ _ 0 d hl _ _ (by decide +kernel) (pieces_whole _ 2301 0 _ (by rw [dump_length]; rfl) (by rfl))
  have hf : dumpRig.dumpFits = true ∧ dumpRig.clocked = true ∧ dumpRig.trc.dumpWriting = true ∧ dumpRig.mem.journalOver = false := by
    decide +kernel
  refine ⟨h.1, hf.2.2.2, ?_⟩
  simp only [dumpWrite, hf.1, hf.2.1, hf.2.2.1, Bool.not_true, Bool.or_self, Bool.false_eq_true, if_false]
  split
  · rename_i u e
    rw [e] at h
    simp only [raiseTrc, signalVector_mem]
    exact congrArg Mem.journalOver h.2
  · rename_i f u e
    rw [e] at h
    cases h.1

/-- A member with ports 0 (training) and 11 (in service). -/
def portRig : State := { memberRig with lnk := { ports := [(0, { state := .training }), (11, { state := .eight, lanes := 0xFF })] } }
theorem test_hyp_PortsTrainAndFail : portRig.powered = true ∧ (5 ≤ portRig.ups.stage ∧ (portRig.port 0).state = .training ∧
      lanesState 0xFF ≠ .down ∧ lanesState 0x77 = .down ∧ lanesState 0x0F = .low ∧ lanesState 0xF0 = .high) ∧
    ((portRig.port 11).state.inService = true ∧ lanesState 0x7F ≠ (portRig.port 11).state ∧ lanesState 0x7F ≠ .eight) ∧
    ((portRig.port 0).state.inService = false ∧ lanesState 0xFF = (portRig.port 11).state ∧ (portRig.port 11).state ≠ .training) := by decide +kernel

/-- A frame of `n` lines to seat 1 of domain 0 and to port 11, with its header check. -/
def frame (typ n seq : Nat) : Frame :=
  let h := fields 0 30 [(0, 1, 16 * typ + 1), (1, 1, n), (4, 2, 1), (12, 4, seq)]
  { dstMac := portRig.portMac 11, srcMac := 9, etherType := 0x88B5, length := 50 + 512 * n, vlan := false, fcsOk := true,
    header := h ++ leBytes 2 ((crc32c h).toNat % 65536), payload := List.replicate (512 * n) 0, dest := none }
def txFrame : TxFrame := { cmd := 0, seq := 5, dstSeat := 0, xgroup := 1, transfer := 1, offset := 0, payload := [] }
/-- `portRig` with one connection on port 11. -/
def connRig (c : Conn) : State := { portRig with lnk := { portRig.lnk with conns := [c] }, tim := { portRig.tim with now := 20000 } }
theorem test_hyp_FramesAreAcknowledged :
    (portRig.powered = true ∧ 5 ≤ portRig.ups.stage ∧ (portRig.port 11).state.inService = true ∧ portRig.mem.journalOver = false) ∧
    (¬(8243 ≤ 8242) ∧ ({ frame 0 1 0 with fcsOk := false } : Frame).fcsOk = false ∧ ({ frame 0 1 0 with dstMac := 8 } : Frame).dstMac ≠ portRig.portMac 11) ∧
    (let f := frame 0 16 0
     (f.length ≤ 8242 ∧ f.vlan = false ∧ f.fcsOk = true ∧ f.dstMac = portRig.portMac 11 ∧ f.etherType = 0x88B5) ∧ frameOk portRig fDATA f = true ∧
       field f.header 1 1 = 16 ∧ f.payload.length = 512 * 16 ∧ hdrSeq f = (portRig.conn 11 f.srcMac).expected ∧ f.dest = none ∧
       (dataFrame 11 f portRig).mem.journalOver = false) ∧
    (let d : RxDest := { handle := 2, base := 512, length := 3584, rxToken := 0 }
     let f := { frame 0 1 0 with dest := some d }
     frameOk portRig fDATA f = true ∧ hdrSeq f = (portRig.conn 11 f.srcMac).expected ∧ portRig.live d.handle = true ∧
       d.base + d.length ≤ portRig.handleSize d.handle ∧ field f.header 24 6 + f.payload.length ≤ d.length ∧
       (dataFrame 11 f portRig).mem.journalOver = false) ∧
    (let f := frame 0 1 1
     frameOk portRig fDATA f = true ∧ field f.header 1 1 = 1 ∧ f.payload.length = 512 ∧ seqLe (hdrSeq f) (portRig.conn 11 f.srcMac).expected = false) ∧
    (let f := frame 0 1 (2 ^ 32 - 1)
     frameOk portRig fDATA f = true ∧ seqLe (hdrSeq f) (portRig.conn 11 f.srcMac).expected = true ∧ hdrSeq f ≠ (portRig.conn 11 f.srcMac).expected) ∧
    (frameOk portRig fACK (frame 1 0 0) = true ∧ (portRig.conn 11 (frame 1 0 0).srcMac).waiting = [] ∧ frameOk portRig fNAK (frame 2 0 0) = true ∧
      (portRig.conn 11 (frame 2 0 0).srcMac).resends < 8) ∧
    (let s := connRig { port := 11, mac := 9, sinceAck := 16, firstAt := 20000 }
     let t := connRig { port := 11, mac := 9, sinceAck := 1, firstAt := 18000 }
     (s.conn 11 9).sinceAck ≠ 0 ∧ 16 ≤ (s.conn 11 9).sinceAck ∧ (t.conn 11 9).sinceAck ≠ 0 ∧ (t.conn 11 9).firstAt + 2000 ≤ t.tim.now ∧
       (s.conn 11 8).sinceAck = 0 ∧ (s.conn 11 9).unacked = []) ∧
    (let s := connRig { port := 11, mac := 9, unacked := [txFrame], resends := 7 }
     (s.conn 11 9).unacked.head? = some txFrame ∧ (s.conn 11 9).lastAckAt + 20000 ≤ s.tim.now ∧ (s.conn 11 9).resends < 8) := by decide +kernel

/-- An image of 256 body bytes whose root key is the base point of P-521, signed with the private key 1 and the nonce 1; SVN 0. -/
def bootImage : List Byte :=
  leBytes 4 0x5357464F ++ leBytes 4 1 ++ List.replicate 8 0 ++ leBytes 4 256 ++ List.replicate 44 0 ++
    beBytes 64 0x7c87954fc01f291b9cbf1d4e260d36715896069b5c43c721132e804f87add73dec1617c46ebf45d0a3da7c610e15a67a440d0df02ec0387682f74b65c6ad7f60 ++
    beBytes 66 pGx ++ beBytes 66 0xc6a38bd20f0cbd5eea75103563e459eebfb7adfc92c4bb29f00887f4678dc58c58f78fd621c555287434340a73d5f880cfa5872fddb412c793c6e495a00095b2de ++
    List.replicate 252 0 ++ leBytes 4 0x52454B59 ++ beBytes 66 pGx ++ beBytes 66 pGy ++ List.replicate 120 0
def bootSec : Sec := { rootHashes := [(0, beBytes 64 0x127eaee055a0b8954411a6e0e65d800266a878725bf8e1dc4b00ab88d4ba3ac8a460c873f545ad51e2628bdc065286890eb0ec78070cb810f9d675bac0149241)], imageA := bootImage }
theorem test_boot_image_verifies : imageFault bootSec (flashImage bootSec.imageA) = none := by decide +kernel

/-- The module at stage `n` of bring-up, its work done or not. -/
def stageRig (n : Nat) (done : Bool) : State := { State.reset with ups := { stage := n, done } }
def goodDie : DieResult := { bistOk := true, bistFailed := [], weaveFailed := [], handleFailed := [] }
def deadDie : DieResult := { goodDie with bistOk := false }
theorem test_hyp_BringUpRunsInOrder :
    ((stageRig 0 true).mayEnter 1 = true ∧ imageFault (stageRig 0 true).sec (flashImage (stageRig 0 true).sec.imageA) ≠ none ∧
      imageFault (stageRig 0 true).sec (flashImage (stageRig 0 true).sec.imageB) ≠ none) ∧
    ((stageRig 1 true).mayEnter 2 = true ∧ (stageRig 1 true).lgr.load ≠ none) ∧
    ((stageRig 2 true).mayEnter 3 = true ∧ dieOk goodDie (goodDie.weaveFailed ++ deadDie.weaveFailed) = true ∧
      dieOk deadDie (deadDie.weaveFailed ++ deadDie.weaveFailed) = false) ∧
    ((stageRig 3 true).mayEnter 4 = true ∧ (stageRig 3 true).ups.pairs = []) ∧
    (let s := { stageRig 4 false with ups := { stage := 4, done := false, pairs := [0, 1, 2, 3, 4] } }
     s.clocked = true ∧ s.failed = false ∧ s.ups.stage = 4 ∧ s.ups.pairs.length = 5) ∧
    (stageRig 4 true).mayEnter 5 = true ∧
    (let s := { State.reset with ups := { stage := 5, dieReady := 3 } }
     s.clocked = true ∧ s.failed = false ∧ s.ups.quiesce = none ∧ s.ups.stage = 5 ∧ s.u5Exit = true ∧ s.whole = true ∧
       ({ s with ups := { stage := 5, dieReady := 1 } } : State).whole = false) ∧
    (let s := { rig with ups := { stage := 4, dieReady := 1 } }
     s.clocked = true ∧ s.ups.quiesce = none ∧ s.ups.service = 0 ∧ s.ups.stage < 6 ∧ s.ups.cfgNow.getLsbD 4 = true ∧ 4 ≤ s.ups.stage ∧
       s.dieServes 0 = true) ∧
    (let s := { stageRig 1 false with tim := { now := 300000001 } }
     s.clocked = true ∧ s.failed = false ∧ s.ups.stage < 5 ∧ s.ups.enteredAt + stageLimitMs s.ups.stage * 1000000 < (s.tim.now : Int) ∧
       (stageRig 1 false).tim.now ≤ (stageRig 1 false).ups.enteredAt + stageLimitMs (stageRig 1 false).ups.stage * 1000000) ∧
    (let s := { stageRig 5 false with tim := { now := 2 ^ 40 }, lnk := { ports := [(0, { state := .training })] } }
     s.clocked = true ∧ s.failed = false ∧ s.ups.stage < 6 ∧ s.ups.enteredAt + stageLimitMs s.ups.stage * 1000000 < (s.tim.now : Int) ∧
       s.ups.exited = false ∧ s.u5Exit = false) := by decide +kernel

/-- The ledger holds a record whose CHAIN does not follow. -/
def tornRig : State := { stageRig 1 true with lgr := { journal := [{ typ := 1, isLocal := false, seq := 1, time := 0, chain := [], payload := [] }] } }
theorem test_hyp_BringUpRunsInOrder_ledger : tornRig.mayEnter 2 = true ∧ tornRig.lgr.load = none := by decide +kernel
theorem test_hyp_BringUpRunsInOrder_image : ({ stageRig 0 true with sec := bootSec } : State).mayEnter 1 = true ∧
    ({ stageRig 0 true with sec := bootSec } : State).sec.image ({ stageRig 0 true with sec := bootSec } : State).sec.next = bootSec.imageA ∧
    imageFault ({ stageRig 0 true with sec := bootSec } : State).sec (flashImage bootSec.imageA) = none :=
  ⟨by decide +kernel, rfl, test_boot_image_verifies⟩

/-- Slot A's image does not verify and slot B's does. -/
def fallbackRig : State := { stageRig 0 true with sec := { bootSec with imageA := [], imageB := bootImage } }
theorem test_hyp_BringUpRunsInOrder_fallback : fallbackRig.mayEnter 1 = true ∧ fallbackRig.sec.next = false ∧
    imageFault fallbackRig.sec (flashImage (fallbackRig.sec.image fallbackRig.sec.next)) ≠ none ∧
    imageFault fallbackRig.sec (flashImage (fallbackRig.sec.image (!fallbackRig.sec.next))) = none :=
  ⟨by decide +kernel, rfl, by decide +kernel, test_boot_image_verifies⟩

def append : Append := { typ := 1, payload := [1, 2], effect := .nothing }
def ledgerRig (st : LgrState) : State := { rig with tim := { now := 3600000000000 }, lgr := { state := st, appends := [append] }, trc := { running := true } }
/-- `ledgerRig` with every block of the journal retired. -/
def fullRig : State := { ledgerRig .inOrder with lgr := { state := .inOrder, appends := [append], bad := (List.range 96).map (· + 32) } }
theorem test_hyp_LedgerIsChained :
    (let s := ledgerRig .inOrder
     s.powered = true ∧ s.lgr.appends = append :: [] ∧ s.lgr.state ≠ .notLoaded ∧ s.lgr.state ≠ .held ∧ s.journalFits (s.nextRecord append) = true ∧
       (s.mem.journalOver = false ∧ (recordProgrammed false s).mem.journalOver = false) ∧
       s.ups.service ≠ 0 ∧ s.lgr.hourAt + 3600000000000 ≤ s.tim.now) ∧
    (fullRig.powered = true ∧ fullRig.lgr.appends = append :: [] ∧ fullRig.lgr.state ≠ .held ∧
      fullRig.journalFits (fullRig.nextRecord append) = false ∧ fullRig.mem.journalOver = false ∧ (recordProgrammed false fullRig).mem.journalOver = false) ∧
    (rig.lgr.appends = [] ∧ rig.mem.journalOver = false ∧ rig.tim.now < rig.lgr.hourAt + 3600000000000) ∧
    ((ledgerRig .held).powered = true ∧ 2 ≤ (ledgerRig .held).ups.stage ∧ (ledgerRig .held).compactionDue = true) ∧
    (let s := ledgerRig .inOrder
     s.trc.running = true ∧ s.trc.summary = [] ∧ s.mem.journalOver = false ∧ (summaryInterval s).mem.journalOver = false ∧
       (let e := s.newSummary s.trc.summaryUs
        let t := { s with trc := { s.trc with summary := [e] } }
        t.trc.summary.getLast? = some e ∧ e.start ≤ (t.newSummary t.trc.summaryUs).start ∧ (summaryInterval t).mem.journalOver = false)) := by
  decide +kernel
theorem test_hyp_LedgerIsChained_failed : (ledgerRig .inOrder).mem.journalOver = false ∧
    (recordProgrammed true (ledgerRig .inOrder)).mem.journalOver = false ∧ ∃ b, (ledgerRig .inOrder).headBlock = some b := by
  have h : (ledgerRig .inOrder).lgr.ring.length = 96 := by decide +kernel
  refine ⟨by decide +kernel, ?_, ?_⟩
  · show (recordProgrammed true (ledgerRig .inOrder)).mem.journalOver = (ledgerRig .inOrder).mem.journalOver
    simp only [recordProgrammed, programNext, show (ledgerRig .inOrder).lgr.appends = [append] from rfl]
    rw [if_neg (by decide +kernel)]
    simp only [if_true, retireBlock, raiseLgr]
    split <;> simp only [signalVector_mem]
  · simp only [State.headBlock]
    rw [List.getElem?_eq_getElem (by rw [h]; exact Nat.mod_lt _ (by decide))]
    exact ⟨_, rfl⟩
theorem test_hyp_LedgerIsChained_either :
    (recordProgrammed (ledgerRig .inOrder).programFails (ledgerRig .inOrder)).mem.journalOver = false := by
  cases (ledgerRig .inOrder).programFails
  · exact test_hyp_LedgerIsChained.1.2.2.2.2.2.1.2
  · exact test_hyp_LedgerIsChained_failed.2.1

def session (finished : Bool) : Session := { id := 7, medium := .pcie, requester := .anonymous, finished, lastBeat := 1, epochKeys := 0 }
def spdmRig (l : List Session) : State := { rig with sec := { negotiated := [.pcie], sessions := l } }
def allAlgorithms : SpdmAlgorithms := { ecdsaP521 := true, sha512 := true, secp521r1 := true, aes256gcm := true }
theorem test_hyp_SessionsAreServed_algorithms : (allAlgorithms.ecdsaP521 = true ∧ allAlgorithms.sha512 = true ∧ allAlgorithms.secp521r1 = true ∧
    allAlgorithms.aes256gcm = true) ∧ ({ allAlgorithms with sha512 := false } : SpdmAlgorithms).sha512 = false := by decide
theorem test_hyp_SessionsAreServed_open : State.reset.sec.sessions.length ≤ 8 ∧ (∃ t, step State.reset = .next t) ∧
    (spdmRig (List.replicate 8 (session true))).sec.sessions.length ≤ 8 := ⟨by decide, ⟨_, rfl⟩, by decide⟩
theorem test_hyp_SessionsAreServed : rig.answers = true ∧ Medium.pcie ∉ rig.sec.negotiated ∧ Medium.pcie ∈ (spdmRig []).sec.negotiated ∧
    (1 ≤ (1 : BitVec 8).toNat ∧ (1 : BitVec 8).toNat ≤ 6 ∧ 1 ≤ (6 : BitVec 8).toNat ∧ (6 : BitVec 8).toNat ≤ 6) ∧
    ((spdmRig (List.replicate 7 (session true))).sec.sessions.length < 8 ∧ (spdmRig (List.replicate 7 (session true))).session 8 = none ∧
      8 ≤ (spdmRig (List.replicate 8 (session true))).sec.sessions.length) ∧
    ((spdmRig [session false]).session 7 = some (session false) ∧ (session false).finished = false) ∧
    ((spdmRig [session true]).session 7 = some (session true) ∧ (session true).finished = true ∧
      (session true).lastBeat + 60000000000 ≤ ({ spdmRig [session true] with tim := { now := 60000000001 } } : State).tim.now ∧
      (spdmRig [session true]).tim.now < (session true).lastBeat + 60000000000) := by decide +kernel
theorem test_hyp_ManagementIsAnswered : rig.answers = true ∧ ({ rig with mctp := { rig.mctp with events := [3, 4] } } : State).mctp.events = 3 :: [4] ∧ ((1 : BitVec 8) ≠ 0 ∧ (254 : BitVec 8) ≠ 255) ∧
    (1 ≤ 20 ∧ 20 ≤ 20) ∧ 20 < 21 ∧ 7 ≤ 7 ∧ (1 ≤ 12 ∧ 12 ≤ 12) ∧ 12 < 13 := by decide +kernel

/-- The recovery window serves failure `n`. -/
def recoveryRig (n : Nat) : State := { State.reset with ups := { stage := 2, done := false, failStage := 2, failCode := 2 }, sec := { recovery := { serves := n } } }
theorem test_hyp_RecoveryWindowServes : (recoveryRig 2).responds 0x00900020 = true ∧ (0 : Word).getLsbD 0 = false ∧
    (let v : Word := 0x17F01
     v.getLsbD 0 = true ∧ v.toNat / 2 % 4 = 0 ∧ (recoveryRig 1).sec.recovery.serves ≠ 0 ∧ v.toNat / 2 ^ 8 % 512 ≤ 383 ∧ v.getLsbD 3 = false) ∧
    (let v : Word := 0x18001
     v.getLsbD 0 = true ∧ v.toNat / 2 % 4 = 0 ∧ 383 < v.toNat / 2 ^ 8 % 512 ∧ (recoveryRig 0).sec.recovery.serves = 0) ∧
    (let v : Word := 0x7F03
     v.getLsbD 0 = true ∧ v.toNat / 2 % 4 = 1 ∧ (recoveryRig 2).sec.recovery.serves = 2 ∧ v.toNat / 2 ^ 8 % 512 ≤ 127) ∧
    (let v : Word := 5
     v.getLsbD 0 = true ∧ v.toNat / 2 % 4 = 2 ∧ (recoveryRig 2).sec.recovery.serves = 2) ∧
    (reseal 5 (recoveryRig 2)).lgr.load ≠ none := by decide +kernel
/-- The record that a reseal keeps does not follow: the ledger that it leaves does not load. -/
theorem test_hyp_RecoveryWindowServes_torn :
    (reseal 5 { recoveryRig 2 with lgr := tornRig.lgr }).lgr.load = none ∧ ({ recoveryRig 2 with lgr := tornRig.lgr } : State).sec.recovery.serves = 2 := by
  decide +kernel
/-- Whether the flash fails is a parameter too; its two cases are the clauses' own. -/
theorem test_hyp_RecoveryWindowServes_flash (n k : Nat) : Config.programFails n k = true ∨ Config.programFails n k = false := by
  cases Config.programFails n k <;> simp
/-- What the token verifies to is a parameter of the model; each of its three cases is a clause, and no two of them meet. -/
theorem test_hyp_RecoveryWindowServes_token :
    (let t := Config.resealToken (recoveryRig 2).windowBytes
     t = none ∨ (∃ id seq, t = some (id, seq) ∧ id ≠ (recoveryRig 2).id.deviceId.toNat) ∨ ∃ seq, t = some ((recoveryRig 2).id.deviceId.toNat, seq)) := by
  generalize Config.resealToken (recoveryRig 2).windowBytes = t
  rcases t with _ | ⟨id, seq⟩
  · exact .inl rfl
  · by_cases h : id = (recoveryRig 2).id.deviceId.toNat
    · exact .inr (.inr ⟨seq, by rw [h]⟩)
    · exact .inr (.inl ⟨id, seq, rfl, h⟩)

/-- A vector command with BF16 results. -/
def vecArgs (subop : Nat) : VecArgs :=
  { pb := 1, op := 8, subop, inFmt := 0xA, outFmt := 0xA, ctrl := 0, rows := 1, cols := 2, s0 := 0, s1 := 0, refs := [],
    key := { seed := 0, op := 0, layer := 0, round := 0 }, rs := false }
theorem test_hyp_VectorValues : (formatKind 0xA = some (.flt fltBf16) ∧ fltBf16.hasInf = true) ∧
    (decodeFlt fltBf16 (convert 0xA .rne (.fin 257 0)).code).isFin = true ∧
    ((3 : Int) ≠ 0 ∧ (decodeFlt fltBf16 (divFlt fltBf16 .rne (.fin 1 0) (.fin 3 0))).isFin = true) ∧
    ((vecArgs 4).subop = 4 ∧ (decodeFlt fltBf16 (vectorElem (vecArgs 0) .rne (.fin 1 0) (.fin 1 0) (.fin 0 0) [])).isFin = true) ∧
    ([Num.fin 1 0, .fin 2 0][1]? = some (.fin 2 0) ∧ (vecArgs 1).subop = 1 ∧ (vecArgs 0).subop ≠ 1) ∧
    ((∀ u ∈ [Num.inf true, .inf true], u = .inf true) ∧ ∃ u ∈ [Num.inf true, .fin 0 0], u ≠ .inf true) ∧
    ((-2 : Int) < -1 ∧ ((vecArgs 0).cols : Int) ≤ 2 ∧ (0 : Int) ≤ 1 ∧ (1 : Int) < (vecArgs 0).cols) ∧
    ((∀ y ∈ [[0xFFFFFFFF]], decodeInt 32 (y.getD 0 0) = -1) ∧ [[(0 : Nat), 0]].length = [[0xFFFFFFFF]].length) ∧
    (borderRung 0x5 = true ∧ ∃ y ∈ [((.nan : Machine.Num), Rnd.rne)], y.1.isFin = false) ∧
    (∀ y ∈ [(Num.fin 3 0, Rnd.rne)], y.1.isFin = true) := by decide +kernel
/-- A quotient and a square root of a vector command are free within a bound, so what decides whether they are finite is a case of their own. -/
theorem test_hyp_VectorValues_cases (c : Nat) : (decodeFlt fltBf16 c).isFin = true ∨ (decodeFlt fltBf16 c).isFin = false := by
  cases (decodeFlt fltBf16 c).isFin <;> simp
theorem test_hyp_VectorValues_max : ((Num.fin 0 0).isZero = true ∧ (Num.fin 0 9).isZero = true) ∧ (Num.inf true).lt (.fin 1 (-149)) = true := by
  decide +kernel

theorem slice_append (b r : List Byte) (a n : Nat) (h : a + n ≤ b.length) : slice (b ++ r) a n = slice b a n := by
  have e : ((b ++ r).drop a).take n = (b.drop a).take n := by
    rw [List.drop_append_of_le_length (by omega), List.take_append_of_le_length (by simp; omega)]
  simp only [slice, e]
/-- What follows an image's body changes nothing. -/
theorem imageFault_append (c : Sec) (b r : List Byte) (h : 768 ≤ b.length) (hl : 512 + field b 16 4 = b.length) :
    imageFault c (b ++ r) = imageFault c b := by
  have f : ∀ a n, a + n ≤ 768 → field (b ++ r) a n = field b a n := fun a n k => by simp only [field]; rw [slice_append _ _ _ _ (by omega)]
  have g : ∀ a n, a + n ≤ 768 → slice (b ++ r) a n = slice b a n := fun a n k => slice_append _ _ _ _ (by omega)
  have d : slice ((b ++ r).drop 512) 0 (field b 16 4) = slice (b.drop 512) 0 (field b 16 4) := by
    rw [List.drop_append_of_le_length (by omega), slice_append _ _ _ _ (by simp; omega)]
  have n : ((b ++ r).length < 512 + field b 16 4) = (b.length < 512 + field b 16 4) := by simp; omega
  simp only [imageFault, f 0 4 (by omega), f 4 4 (by omega), f 8 4 (by omega), f 16 4 (by omega), f 20 1 (by omega), g 128 66 (by omega),
    g 194 66 (by omega), g 0 128 (by omega), g 64 64 (by omega), d, n]
theorem imageFault_sec (c d : Sec) (i : List Byte) (h : c.revoked = d.revoked) (k : c.rootHashes = d.rootHashes) (l : c.fusedSvn = d.fusedSvn) :
    imageFault c i = imageFault d i := by simp only [imageFault, h, k, l]
/-- The last chunk of an image whose earlier chunks hold `bootImage`. -/
def lastChunkRig : State := { recoveryRig 1 with sec := { bootSec with recovery := { serves := 1 } } }
theorem test_hyp_RecoveryWindowServes_last :
    (let v : Word := 0x17F09
     v.getLsbD 0 = true ∧ v.toNat / 2 % 4 = 0 ∧ lastChunkRig.sec.recovery.serves ≠ 0 ∧ v.toNat / 2 ^ 8 % 512 = 383 ∧ v.getLsbD 3 = true) ∧
    lastChunkRig.responds 0x00900020 = true ∧
    imageFault lastChunkRig.sec (flashImage (programChunk lastChunkRig.sec.imageA 383 lastChunkRig.windowBytes)) = none := by
  refine ⟨by decide +kernel, by decide +kernel, ?_⟩
  have h : bootImage.length = 768 := by decide +kernel
  have e : ∃ r, flashImage (programChunk lastChunkRig.sec.imageA 383 lastChunkRig.windowBytes) = bootImage ++ r := by
    simp only [flashImage, programChunk, splice, show lastChunkRig.sec.imageA = bootImage from rfl, if_neg (show ¬(383 = 0) by decide),
      List.take_append, h, List.append_assoc, List.take_of_length_le (show bootImage.length ≤ 65536 * 383 by omega)]
    exact ⟨_, rfl⟩
  obtain ⟨r, e⟩ := e
  have f : flashImage bootImage = bootImage := by
    simp only [flashImage, h]
    rw [show Min.min 25165824 (512 + field bootImage 16 4) - 768 = 0 by decide +kernel]
    exact List.append_nil _
  rw [e, imageFault_append _ _ _ (by omega) (by decide +kernel), ← f]
  exact (imageFault_sec _ bootSec _ rfl rfl rfl).trans test_boot_image_verifies
theorem test_hyp_RecoveryWindowServes_bad :
    imageFault (recoveryRig 1).sec (flashImage (programChunk (recoveryRig 1).sec.imageA 0 (recoveryRig 1).windowBytes)) ≠ none := by
  decide +kernel
theorem test_hyp_SignalledTokenHolds : rig.responds 0x00011000 = true ∧ 0x8001 % 2 ^ 15 ≠ (0xFFFF : Word).toNat % 2 ^ 15 ∧ 2 ^ 15 - 1 < 2 ^ 15 := by
  decide +kernel
/-- A tile of 2 by 2 outputs at the end of a chunk of 1,024 rows. -/
def tile : Tile := { stake := 3, base := 2, cr0 := 0, r0 := 1022, rows := 2, c0 := 0, cols := 2, p := 0 }
def job : Job :=
  { m := 1024, n := 2, k := 1, tm := 1024, tn := 256, order := 0, base := 0, gm := 1, gn := 1, group := groupOf 0x100, layer := 0, op := 0, round := 0,
    kind := 0, rung := 5, rungs := [5, 7, 8], outFmt := 0xA, rmode := 0, acc := .wide, beta := none, ta := none, tb := none, tprod := none,
    cfg := {}, ctrl := 0, force := false, stats := true, c := parseOperand [] 0 }
theorem test_hyp_ArrayAndUpdateValues_wide :
    (List.zipWith (fun u v => blockSum false u.1 v.1 u.2 v.2) [([Num.fin 3 0], 127)] [([Num.fin 5 0], 127)]).foldl (fun t b => t.add b.sum)
      (w40 ({ code := 0 } : Chain).code.toNat) = .fin (15 * 2 ^ 157) (-157) ∧
    (w40 (promote .wide 0 { code := 0 } [([Num.fin 3 0], 127)] [([Num.fin 5 0], 127)]).code.toNat).isFin = true := by decide +kernel
theorem test_hyp_ArrayAndUpdateValues_tile : (tile.cr0 ≤ tile.r0 ∧ tile.r0 + tile.rows ≤ tile.cr0 + 1024 ∧ tile.cols ≤ 256) ∧
    (tile.r0 ≤ 1023 ∧ 1023 < tile.r0 + tile.rows ∧ tile.c0 ≤ 1 ∧ 1 < tile.c0 + tile.cols) ∧ tile.key 1023 1 = tile.key 1023 1 ∧ job.beta = none ∧
    (({ job with beta := some (.fin 1 0), acc := .raw } : Job).beta = some (.fin 1 0) ∧ ({ job with beta := some (.fin 1 0), acc := .raw } : Job).acc = .raw) ∧
    ((7 : Nat) ∉ [5] ∧ job.rungs = [5] ++ 7 :: 8 :: [] ∧ (8 : Nat) ∉ [5, 7] ∧ job.rungs = [5, 7] ++ [8] ∧ job.rungs = [] ++ 5 :: [7] ++ 8 :: [] ∧
      (∀ y ∈ [7], borderRung y = true) ∧ borderRung 8 = false ∧ ({ job with rungs := [5, 7] } : Job).rungs = [] ++ 5 :: [7]) := by decide +kernel
theorem test_hyp_ArrayAndUpdateValues_free : ∀ m n, tile.r0 ≤ m ∧ m < tile.r0 + tile.rows ∧ tile.c0 ≤ n ∧ n < tile.c0 + tile.cols → 0 ≠ tile.key m n := by
  intro m n _
  simp only [Tile.key, tile]
  omega
theorem test_hyp_ArrayAndUpdateValues_block : (List.replicate 32 (Num.fin 1 0)).length = 32 ∧
    (∀ y ∈ List.replicate 32 (Num.fin 1 0), y.isFin = true) ∧ (∃ y ∈ Num.nan :: List.replicate 31 (Num.fin 1 0), y.isFin = false) ∧
    (List.replicate 32 (Num.fin 1 0))[31]? = some (.fin 1 0) := by decide +kernel
def updArgs (rule : Nat) : UpdArgs :=
  { parseUpdate (pkt []) [] 0 with rule }
theorem test_hyp_ArrayAndUpdateValues_update : (updArgs 0).rule = 0 ∧ (updArgs 1).rule = 1 ∧ (updArgs 2).rule = 2 ∧
    (let x := (Num.fin 3 0).add (.fin (-128) (ulpExp fltBf16 (.fin 3 0) - 8))
     x.isFin = true ∧ x.abs.le (maxBf16 false) = true) := by decide +kernel
theorem test_hyp_ArrayAndUpdateValues : (-2147483648 : Int) = decodeInt 32 ((0x80000000 : BitVec 32).toNat % 2 ^ 32) := by decide +kernel

/-! ### Values worked out outside of the model -/

/-- CRC-32C's check value, of the digits 1 to 9. -/
theorem test_crc32c : crc32c [0x31, 0x32, 0x33, 0x34, 0x35, 0x36, 0x37, 0x38, 0x39] = 0xE3069283 := by decide +kernel
/-- FIPS 180-4's example, the message abc. -/
theorem test_sha512 : (sha512 [0x61, 0x62, 0x63]).take 8 = [0xdd, 0xaf, 0x35, 0xa1, 0x93, 0x61, 0x7a, 0xba] := by decide +kernel
/-- P-521's order is the order of its base point, and is prime to 12345. -/
theorem test_order : invMod pOrder 12345 * 12345 % pOrder = 1 ∧ (pointMul (pGx, pGy, 1) pOrder 521).2.2 = 0 := by decide +kernel

/-- Table 2.10: a block with the maximum 11.0 has the scale 0x80; its elements as FP4 codes, and 13.5, which saturates. The elements
2.6, −0.2 and −3.1 are their BF16 neighbours. -/
theorem test_table_2_10 : expCode (decode 0xA 0x4130) - emaxOf 5 = 0x80 ∧
    ([0x4130, 0x4026, 0x3F40, 0x3F00, 0xBE4D, 0xC046, 0x4158].map fun c => (prepElem 5 0x80 false (decode 0xA c)).code) =
      [0x7, 0x3, 0x1, 0x0, 0x0, 0xB, 0x7] ∧
    (prepElem 5 0x80 false (decode 0xA 0x4130)).sat = false ∧ (prepElem 5 0x80 false (decode 0xA 0x4158)).sat = true := by decide +kernel

/-- "A layer that climbs to FP8": the window of rounds 1,200 to 1,215 leaves CUR, the one of 1,216 to 1,231 moves it. -/
theorem test_ladder_climbs :
    let cfg : LayerCfg := { fwd := 0x00020A85, policy := 0x00040010 }
    (policyStep cfg cfg.fwd true 1216 {} { tiles := 393216, rw := 5100, shad := 6150, dis := 410 }).cur = 0 ∧
      (policyStep cfg cfg.fwd true 1232 {} { tiles := 393216, rw := 7000, shad := 6150, dis := 410 }).cur = 1 := by decide +kernel

/-- "A trigger into a full buffer": POST 4 of 261,632 records is 130,816. -/
theorem test_post_share : ({ post := 4 } : Trc).postShare = 130816 := by decide +kernel

/-- The state that a command leaves. -/
def after (i : Instr) (s : State) : State := match exec i s with | .next t => t | _ => s
/-- 3 times 5, stored as INT32 at the start of handle 3; the ACC form adds to what is there. -/
theorem test_matmul_value : ((after (.matmul 0 matPkt) matRig).payload (hoopLine 0 24)).take 4 = [15, 0, 0, 0] := by decide +kernel
/-- A pattern of four bytes filled from byte 508 on, over a line's end. -/
theorem test_fill_value :
    (let t := after (.fill 0 (pkt [(16, 4, 2), (20, 6, 508), (26, 6, 8), (32, 8, 0x04030201), (40, 1, 4)])) rig
     [507, 508, 511, 512, 515, 516].map fun b => tget 0 t.store.cells (hoopLine 0 16 * 512 + b)) = [0, 1, 4, 1, 4, 0] := by decide +kernel
/-- Reset values that the spec's tables give, once their block responds; before, a register reads 0 (R279). -/
theorem test_reset_registers : rig.word 0x00021000 = 10000 ∧ rig.word 0x00600000 = 0x05DC05DC ∧
    ({ rig with tns := {} } : State).word 0x00100000 = 0x60F ∧ State.reset.word 0x00021000 = 0 := by decide +kernel

end Sys2Proof.Tests
end

section
/-! SUPPORT. The registers that software sets, over any command and over a step: a command either leaves them alone or is one of
those that `setsRegisters` names, and each of these leaves a value that the register's table lets latch. -/

namespace Sys2Proof.Machine

theorem ctl_of_next {s t u : State} (h : t.ctl = s.ctl) (e : (.next t : Host.Outcome State Fault Refusal) = .next u) :
    u.ctl = s.ctl := by
  cases e
  exact h

/-- A command that `setsRegisters` does not name leaves the registers of `Ctl` as they are. -/
theorem exec_ctl {c : Instr} {s t : State} (hc : setsRegisters c = false) (h : exec c s = .next t) : t.ctl = s.ctl := by
  cases c with
  | queMgmtRead | cntSmpLossRead | memCeLogCtrlRead | timNowLoRead | trcTriggerTimeLoRead | trcDumpTimeLoRead =>
    exact ctl_of_next (readBar0_ctl ..) h
  | nop => exact execNop_ctl (h := h)
  | matmul => exact execMatmul_ctl (h := h)
  | matmulAcc => exact execMatmulAcc_ctl (h := h)
  | scalePass => exact execScalePass_ctl (h := h)
  | quantStore => exact execQuantStore_ctl (h := h)
  | vectorOp => exact execVectorOp_ctl (h := h)
  | norm => exact execNorm_ctl (h := h)
  | softmax => exact execSoftmax_ctl (h := h)
  | loss => exact execLoss_ctl (h := h)
  | copy => exact execCopy_ctl (h := h)
  | fill => exact execFill_ctl (h := h)
  | place => exact execPlace_ctl (h := h)
  | release => exact execRelease_ctl (h := h)
  | boundsSet => exact execBoundsSet_ctl (h := h)
  | fence => exact execFence_ctl (h := h)
  | waitTime => exact execWaitTime_ctl (h := h)
  | signal => exact execSignal_ctl (h := h)
  | bundleSend => exact execBundleSend_ctl (h := h)
  | bundleReduce => exact execBundleReduce_ctl (h := h)
  | bundleBroadcast => exact execBundleBroadcast_ctl (h := h)
  | update => exact execUpdate_ctl (h := h)
  | commit => exact execCommit_ctl (h := h)
  | ckptDrain => exact execCkptDrain_ctl (h := h)
  | rollback => exact execRollback_ctl (h := h)
  | roundRecord => exact execRoundRecord_ctl (h := h)
  | joinDomain => exact execJoinDomain_ctl (h := h)
  | assignSpare => exact execAssignSpare_ctl (h := h)
  | getHealth => exact execGetHealth_ctl (h := h)
  | getTelemetry => exact execGetTelemetry_ctl (h := h)
  | setPowerCap => exact execSetPowerCap_ctl (h := h)
  | ledgerRead => exact execLedgerRead_ctl (h := h)
  | marginScan => exact execMarginScan_ctl (h := h)
  | counterCfg => exact execCounterCfg_ctl (h := h)
  | samplerCfg => exact execSamplerCfg_ctl (h := h)
  | traceArm => exact execTraceArm_ctl (h := h)
  | traceRead => exact execTraceRead_ctl (h := h)
  | roleSession => exact execRoleSession_ctl (h := h)
  | fwStage => exact execFwStage_ctl (h := h)
  | scheduleSet => exact execScheduleSet_ctl (h := h)
  | dumpRead => exact execDumpRead_ctl (h := h)
  | makerDiag => exact execMakerDiag_ctl (h := h)
  | commandComplete => exact execCommandComplete_ctl (h := h)
  | msixHoldoffEnd => exact execMsixHoldoffEnd_ctl (h := h)
  | sqDoorbell => exact execSqDoorbell_ctl (h := h)
  | cqDoorbell => exact execCqDoorbell_ctl (h := h)
  | bar4Read => exact execBar4Read_ctl (h := h)
  | bar4Write => exact execBar4Write_ctl (h := h)
  | functionLevelReset => exact execFunctionLevelReset_ctl (h := h)
  | functionLevelResetDone => exact execFunctionLevelResetDone_ctl (h := h)
  | brakeAssert => exact execBrakeAssert_ctl (h := h)
  | brakeRelease => exact execBrakeRelease_ctl (h := h)
  | thermTrip => exact execThermTrip_ctl (h := h)
  | sensorFault => exact execSensorFault_ctl (h := h)
  | ppsIn => exact execPpsIn_ctl (h := h)
  | ppsOut => exact execPpsOut_ctl (h := h)
  | powerEvaluation => exact execPowerEvaluation_ctl (h := h)
  | stackTemperatureRead => exact execStackTemperatureRead_ctl (h := h)
  | scrubSlot => exact execScrubSlot_ctl (h := h)
  | dieLocalisation => exact execDieLocalisation_ctl (h := h)
  | stackInterfaceLoss => exact execStackInterfaceLoss_ctl (h := h)
  | retrainEvaluation => exact execRetrainEvaluation_ctl (h := h)
  | retrainWindow => exact execRetrainWindow_ctl (h := h)
  | channelReturn => exact execChannelReturn_ctl (h := h)
  | channelOfflineLimit => exact execChannelOfflineLimit_ctl (h := h)
  | rebuildComplete => exact execRebuildComplete_ctl (h := h)
  | migrationCopy => exact execMigrationCopy_ctl (h := h)
  | migrationResume => exact execMigrationResume_ctl (h := h)
  | releaseFree => exact execReleaseFree_ctl (h := h)
  | seqWatchdog => exact execSeqWatchdog_ctl (h := h)
  | dumpWrite => exact execDumpWrite_ctl (h := h)
  | transferStart => exact execTransferStart_ctl (h := h)
  | windowGraceExpiry => exact execWindowGraceExpiry_ctl (h := h)
  | drainStart => exact execDrainStart_ctl (h := h)
  | commitEffect => exact execCommitEffect_ctl (h := h)
  | report => exact execReport_ctl (h := h)
  | decision => exact execDecision_ctl (h := h)
  | deputyAcknowledge => exact execDeputyAcknowledge_ctl (h := h)
  | joinAccept => exact execJoinAccept_ctl (h := h)
  | joinTimeout => exact execJoinTimeout_ctl (h := h)
  | takeoverLimit => exact execTakeoverLimit_ctl (h := h)
  | heartbeatPeriod => exact execHeartbeatPeriod_ctl (h := h)
  | heartbeat a => exact execHeartbeat_ctl a s t h
  | heartbeatAnswer => exact execHeartbeatAnswer_ctl (h := h)
  | heartbeatMissed => exact execHeartbeatMissed_ctl (h := h)
  | rimHeartbeatMissed => exact execRimHeartbeatMissed_ctl (h := h)
  | sync => exact execSync_ctl (h := h)
  | delayReq => exact execDelayReq_ctl (h := h)
  | delayResp => exact execDelayResp_ctl (h := h)
  | announce => exact execAnnounce_ctl (h := h)
  | holdover => exact execHoldover_ctl (h := h)
  | timeLost => exact execTimeLost_ctl (h := h)
  | sampleInstance => exact execSampleInstance_ctl (h := h)
  | windowInstance => exact execWindowInstance_ctl (h := h)
  | powerCapInstance => exact execPowerCapInstance_ctl (h := h)
  | signalInstance => exact execSignalInstance_ctl (h := h)
  | marginInstance => exact execMarginInstance_ctl (h := h)
  | dataFrame => exact execDataFrame_ctl (h := h)
  | ackFrame => exact execAckFrame_ctl (h := h)
  | nakFrame => exact execNakFrame_ctl (h := h)
  | ackTimer => exact execAckTimer_ctl (h := h)
  | resendTimer => exact execResendTimer_ctl (h := h)
  | linkTraining => exact execLinkTraining_ctl (h := h)
  | upsettU1 => exact execUpsettU1_ctl (h := h)
  | upsettU2 => exact execUpsettU2_ctl (h := h)
  | upsettU3 => exact execUpsettU3_ctl (h := h)
  | upsettU4 => exact execUpsettU4_ctl (h := h)
  | upsettU5 => exact execUpsettU5_ctl (h := h)
  | upsettU6 => exact execUpsettU6_ctl (h := h)
  | stageLimit => exact execStageLimit_ctl (h := h)
  | reducedService => exact execReducedService_ctl (h := h)
  | traceSummaryInterval => exact execTraceSummaryInterval_ctl (h := h)
  | ledgerHourly => exact execLedgerHourly_ctl (h := h)
  | ledgerCompaction => exact execLedgerCompaction_ctl (h := h)
  | getVersion => exact execGetVersion_ctl (h := h)
  | getCapabilities => exact execGetCapabilities_ctl (h := h)
  | negotiateAlgorithms => exact execNegotiateAlgorithms_ctl (h := h)
  | getDigests => exact execGetDigests_ctl (h := h)
  | getCertificate => exact execGetCertificate_ctl (h := h)
  | challenge => exact execChallenge_ctl (h := h)
  | getMeasurements => exact execGetMeasurements_ctl (h := h)
  | keyExchange => exact execKeyExchange_ctl (h := h)
  | finish => exact execFinish_ctl (h := h)
  | spdmHeartbeat => exact execSpdmHeartbeat_ctl (h := h)
  | spdmHeartbeatMissed => exact execSpdmHeartbeatMissed_ctl (h := h)
  | keyUpdate => exact execKeyUpdate_ctl (h := h)
  | endSession => exact execEndSession_ctl (h := h)
  | mctpControl => exact execMctpControl_ctl (h := h)
  | getPdrRepositoryInfo => exact execGetPdrRepositoryInfo_ctl (h := h)
  | getPdr => exact execGetPdr_ctl (h := h)
  | getSensorReading => exact execGetSensorReading_ctl (h := h)
  | getStateSensorReadings => exact execGetStateSensorReadings_ctl (h := h)
  | setEventReceiver => exact execSetEventReceiver_ctl (h := h)
  | opcodeUnknown => exact execOpcodeUnknown_ctl (h := h)
  | packetUnreadable => exact execPacketUnreadable_ctl (h := h)
  | sessionTransportFailure => exact execSessionTransportFailure_ctl (h := h)
  | linkPortDown => exact execLinkPortDown_ctl (h := h)
  | leaveNotice => exact execLeaveNotice_ctl (h := h)
  | lostNotice => exact execLostNotice_ctl (h := h)
  | ckptDoneReport => exact execCkptDoneReport_ctl (h := h)
  | followUp => exact execFollowUp_ctl (h := h)
  | delayReqInterval => exact execDelayReqInterval_ctl (h := h)
  | announceInterval => exact execAnnounceInterval_ctl (h := h)
  | _ => exact Bool.noConfusion hc

/-- Every command keeps the legality of the registers of `Ctl`, the fixed identity and the queue behind it. -/
theorem exec_settles (c : Instr) (s : State) : Settles s (exec c s) := by
  cases hc : setsRegisters c with
  | false => exact .of_ctl fun _ => exec_ctl hc
  | true =>
    cases c with
    | queCtrlWrite | queTokenSet | queTokenClear | plcDescSelWrite | cntPeekSelWrite | ceLogClear | statusW1cWrite | upsCfgWrite
    | secCtrlWrite | lnkCtrlWrite =>
      exact .next (stays_writeWord ..)
    | coldReset v => exact settles_coldReset v s
    | warmReset v => exact settles_warmReset v s
    | warmResetQuiesced => exact settles_warmResetQuiesced s
    | recoveryProgram v => exact settles_recoveryProgram v s
    | recoveryLedgerRead v => exact settles_recoveryLedgerRead v s
    | recoveryReseal v => exact settles_recoveryReseal v s
    | registerWrite off size enables v => exact settles_registerWrite off size enables v s
    | powerOn strapA strapB vin => exact settles_powerOn strapA strapB vin s
    | hostRstN => exact settles_hostRstN s
    | protectiveShutdown vin => exact settles_protectiveShutdown vin s
    | syncInterval port => exact settles_syncInterval port s
    | scrubInstance entry => exact settles_scrubInstance entry s
    | recordProgrammed => exact settles_recordProgrammed s
    | _ => exact Bool.noConfusion hc

/-- Taking a command off the queue touches no register. -/
theorem ctl_ok_dequeue {s : State} (rest : List Instr) (h : s.ctl.ok) : ({ s with pending := rest } : State).ctl.ok :=
  { h with }

theorem step_of_idle {s : State} (h : s.pending = []) : step s = .next (idle s) := by
  unfold step
  rw [h]

theorem step_of_front {c : Instr} {rest : List Instr} {s : State} (h : s.pending = c :: rest) :
    step s = exec c { s with pending := rest } := by
  unfold step
  rw [h]

theorem step_ctl_ok {s t : State} (h : s.ctl.ok) (e : step s = .next t) : t.ctl.ok := by
  cases hp : s.pending with
  | nil =>
    rw [step_of_idle hp] at e
    rw [ctl_of_next (idle_ctl s) e]
    exact h
  | cons c rest =>
    rw [step_of_front hp] at e
    exact (exec_settles c _ t e).ok (ctl_ok_dequeue rest h)

/-- The registers of the reset state are the fresh ones. -/
theorem reset_ctl : State.reset.ctl = .fresh [] ({} : IdBlock).fixed {} {} 0 := rfl

/-- Settles O5: a reset's values are legal whatever queue and identity it keeps (`Ctl.fresh_ok`), and State.reset holds them. -/
theorem resetSettingsLegal : Obligations.ResetSettingsLegal := by
  unfold Obligations.ResetSettingsLegal
  rw [reset_ctl]
  exact Ctl.fresh_ok ..

/-- Settles O4: an idle step changes none of the registers, a command either changes none (`exec_ctl`) or writes, resets or
takes over values that its tables let latch (`exec_settles`). -/
theorem settingsStayLegal : Obligations.SettingsStayLegal := fun _ _ => step_ctl_ok

end Sys2Proof.Machine
end

section
/-! SUPPORT. The exact values of Machine/Numbers.lean as rational numbers: arithmetic, comparison, and the maximum and minimum. -/

namespace Sys2Proof.Machine

/-- The rational number that a finite value is. -/
def Num.toRat : Num → ℚ
  | .fin m e => m * 2 ^ e
  | _ => 0

@[simp] theorem Num.isFin_fin (m e : Int) : (Num.fin m e).isFin = true := rfl
@[simp] theorem Num.toRat_fin (m e : Int) : (Num.fin m e).toRat = m * 2 ^ e := rfl

theorem Num.exists_fin {x : Num} (h : x.isFin = true) : ∃ m e, x = .fin m e := by
  cases x with
  | fin m e => exact ⟨m, e, rfl⟩
  | nan | inf => exact absurd h Bool.false_ne_true

theorem two_zpow_pos (e : ℤ) : (0 : ℚ) < 2 ^ e := zpow_pos two_pos e

theorem two_zpow_add (a b : ℤ) : (2 : ℚ) ^ (a + b) = 2 ^ a * 2 ^ b := zpow_add₀ two_ne_zero a b

/-- Shifting an exponent up to `e` leaves the rest of it as a power of a natural number. -/
theorem two_pow_toNat_mul {k e : ℤ} (h : k ≤ e) : (2 : ℚ) ^ (e - k).toNat * 2 ^ k = 2 ^ e := by
  rw [← zpow_natCast, Int.toNat_of_nonneg (by omega), ← two_zpow_add, sub_add_cancel]

/-! ### Arithmetic -/

theorem Num.toRat_add {x y : Num} (hx : x.isFin = true) (hy : y.isFin = true) :
    (x.add y).isFin = true ∧ (x.add y).toRat = x.toRat + y.toRat := by
  obtain ⟨m, e, rfl⟩ := exists_fin hx
  obtain ⟨n, d, rfl⟩ := exists_fin hy
  refine ⟨rfl, ?_⟩
  simp only [Num.add, toRat_fin]
  push_cast
  rw [add_mul, mul_assoc, mul_assoc, two_pow_toNat_mul (min_le_left e d), two_pow_toNat_mul (min_le_right e d)]

theorem Num.toRat_neg {x : Num} (hx : x.isFin = true) : x.neg.isFin = true ∧ x.neg.toRat = -x.toRat := by
  obtain ⟨m, e, rfl⟩ := exists_fin hx
  exact ⟨rfl, by simp [Num.neg]⟩

theorem Num.toRat_sub {x y : Num} (hx : x.isFin = true) (hy : y.isFin = true) :
    (x.sub y).isFin = true ∧ (x.sub y).toRat = x.toRat - y.toRat := by
  obtain ⟨fin_neg, rat_neg⟩ := toRat_neg hy
  obtain ⟨fin_add, rat_add⟩ := toRat_add hx fin_neg
  exact ⟨fin_add, by rw [Num.sub, rat_add, rat_neg, sub_eq_add_neg]⟩

theorem Num.toRat_mul {x y : Num} (hx : x.isFin = true) (hy : y.isFin = true) :
    (x.mul y).isFin = true ∧ (x.mul y).toRat = x.toRat * y.toRat := by
  obtain ⟨m, e, rfl⟩ := exists_fin hx
  obtain ⟨n, d, rfl⟩ := exists_fin hy
  refine ⟨rfl, ?_⟩
  simp only [Num.mul, toRat_fin, two_zpow_add]
  push_cast
  ring

theorem Num.toRat_scale {x : Num} (hx : x.isFin = true) (k : Int) :
    (x.scale k).isFin = true ∧ (x.scale k).toRat = x.toRat * 2 ^ k := by
  obtain ⟨m, e, rfl⟩ := exists_fin hx
  exact ⟨rfl, by simp only [Num.scale, toRat_fin, two_zpow_add, mul_assoc]⟩

theorem Num.toRat_abs {x : Num} (hx : x.isFin = true) : x.abs.isFin = true ∧ x.abs.toRat = |x.toRat| := by
  obtain ⟨m, e, rfl⟩ := exists_fin hx
  refine ⟨rfl, ?_⟩
  simp only [Num.abs, toRat_fin, abs_mul, abs_of_pos (two_zpow_pos e)]
  push_cast
  rfl

/-! ### Comparison -/

theorem Num.isNeg_iff {x : Num} (hx : x.isFin = true) : x.isNeg = true ↔ x.toRat < 0 := by
  obtain ⟨m, e, rfl⟩ := exists_fin hx
  simp only [Num.isNeg, toRat_fin, decide_eq_true_eq, ← not_le, mul_nonneg_iff_of_pos_right (two_zpow_pos e), Int.cast_nonneg_iff]

theorem Num.isZero_iff {x : Num} (hx : x.isFin = true) : x.isZero = true ↔ x.toRat = 0 := by
  obtain ⟨m, e, rfl⟩ := exists_fin hx
  simp [Num.isZero, (two_zpow_pos e).ne']

theorem Num.lt_iff {x y : Num} (hx : x.isFin = true) (hy : y.isFin = true) : x.lt y = true ↔ x.toRat < y.toRat := by
  obtain ⟨fin_sub, rat_sub⟩ := toRat_sub hx hy
  have lt_eq : x.lt y = (x.sub y).isNeg := by
    obtain ⟨m, e, rfl⟩ := exists_fin hx
    obtain ⟨n, d, rfl⟩ := exists_fin hy
    rfl
  rw [lt_eq, isNeg_iff fin_sub, rat_sub, sub_neg]

theorem Num.le_iff {x y : Num} (hx : x.isFin = true) (hy : y.isFin = true) : x.le y = true ↔ x.toRat ≤ y.toRat := by
  obtain ⟨fin_sub, rat_sub⟩ := toRat_sub hx hy
  have lt := lt_iff hx hy
  have zero := isZero_iff fin_sub
  rw [rat_sub, sub_eq_zero] at zero
  simp only [Num.le, hx, hy, Bool.true_and, Bool.or_eq_true, Bool.and_eq_true, lt, zero, beq_iff_eq, le_iff_lt_or_eq]
  refine ⟨?_, Or.inl⟩
  rintro (h | ⟨rfl, -⟩)
  · exact h
  · exact .inr rfl

theorem Num.lt_asymm {x y : Num} (h : x.lt y = true) : y.lt x = false := by
  cases x with
  | nan => exact absurd h Bool.false_ne_true
  | inf a =>
    cases y with
    | nan => rfl
    | inf b => decide +revert
    | fin n d => simpa [Num.lt] using h
  | fin m e =>
    cases y with
    | nan => rfl
    | inf b => simpa [Num.lt] using h
    | fin n d =>
      rw [lt_iff rfl rfl] at h
      rw [Bool.eq_false_iff, ne_eq, lt_iff rfl rfl]
      exact not_lt_of_gt h

/-- Values other than NaN are totally ordered. -/
theorem Num.le_of_not_lt {x y : Num} (hx : x ≠ .nan) (hy : y ≠ .nan) (h : y.lt x = false) : x.le y = true := by
  cases x with
  | nan => exact absurd rfl hx
  | inf a =>
    cases y with
    | nan => exact absurd rfl hy
    | inf b => decide +revert
    | fin n d =>
      have : a = true := by simpa [Num.lt] using h
      subst this
      rfl
  | fin m e =>
    cases y with
    | nan => exact absurd rfl hy
    | inf b =>
      have : b = false := h
      subst this
      rfl
    | fin n d =>
      rw [Bool.eq_false_iff, ne_eq, lt_iff rfl rfl, not_lt] at h
      exact (le_iff rfl rfl).2 h

/-! ### The maximum and the minimum (R41) -/

@[simp] theorem Num.max_nan_left (y : Num) : Num.nan.max y = y := rfl
@[simp] theorem Num.min_nan_left (y : Num) : Num.nan.min y = y := rfl
@[simp] theorem Num.max_nan_right (x : Num) : x.max .nan = x := by cases x <;> rfl
@[simp] theorem Num.min_nan_right (x : Num) : x.min .nan = x := by cases x <;> rfl

theorem Num.max_of_ne_nan {x y : Num} (hx : x ≠ .nan) (hy : y ≠ .nan) : x.max y = if x.lt y then y else x := by
  unfold Num.max
  split
  · exact absurd rfl hx
  · exact absurd rfl hy
  · rfl

theorem Num.min_of_ne_nan {x y : Num} (hx : x ≠ .nan) (hy : y ≠ .nan) : x.min y = if y.lt x then y else x := by
  unfold Num.min
  split
  · exact absurd rfl hx
  · exact absurd rfl hy
  · rfl

theorem Num.ne_nan_of_lt {x y : Num} (h : x.lt y = true) : x ≠ .nan ∧ y ≠ .nan := by
  constructor
  · rintro rfl
    exact Bool.false_ne_true h
  · rintro rfl
    cases x <;> exact Bool.false_ne_true h

theorem Num.max_min_of_lt {x y : Num} (h : x.lt y = true) : x.max y = y ∧ x.min y = x := by
  obtain ⟨hx, hy⟩ := ne_nan_of_lt h
  simp [max_of_ne_nan hx hy, min_of_ne_nan hx hy, h, lt_asymm h]

theorem Num.max_min_of_gt {x y : Num} (h : y.lt x = true) : x.max y = x ∧ x.min y = y := by
  obtain ⟨hy, hx⟩ := ne_nan_of_lt h
  simp [max_of_ne_nan hx hy, min_of_ne_nan hx hy, h, lt_asymm h]

theorem Num.max_min_of_tie {x y : Num} (hx : x ≠ .nan) (hy : y ≠ .nan) (h : x.lt y = false) (g : y.lt x = false) :
    x.max y = x ∧ x.min y = x := by
  simp [max_of_ne_nan hx hy, min_of_ne_nan hx hy, h, g]

theorem Num.isFin_of_isZero {x : Num} (h : x.isZero = true) : x.isFin = true := by
  cases x with
  | fin => rfl
  | nan | inf => exact absurd h Bool.false_ne_true

theorem Num.max_eq_or (x y : Num) : x.max y = x ∨ x.max y = y := by
  by_cases hx : x = .nan
  · exact .inr (by rw [hx, max_nan_left])
  by_cases hy : y = .nan
  · exact .inl (by rw [hy, max_nan_right])
  rw [max_of_ne_nan hx hy]
  exact (ite_eq_or_eq _ _ _).symm

theorem Num.min_eq_or (x y : Num) : x.min y = x ∨ x.min y = y := by
  by_cases hx : x = .nan
  · exact .inr (by rw [hx, min_nan_left])
  by_cases hy : y = .nan
  · exact .inl (by rw [hy, min_nan_right])
  rw [min_of_ne_nan hx hy]
  exact (ite_eq_or_eq _ _ _).symm

theorem toF32_of_isZero {x : Num} (h : x.isZero = true) : toF32 x = 0 := by
  obtain ⟨m, e, rfl⟩ := Num.exists_fin (Num.isFin_of_isZero h)
  have : m = 0 := by simpa [Num.isZero] using h
  subst this
  rfl

theorem Num.toRat_max {x y : Num} (hx : x.isFin = true) (hy : y.isFin = true) :
    (x.max y).isFin = true ∧ (x.max y).toRat = Max.max x.toRat y.toRat := by
  have lt := lt_iff hx hy
  cases h : x.lt y with
  | true =>
    rw [(max_min_of_lt h).1, max_eq_right (lt.1 h).le]
    exact ⟨hy, rfl⟩
  | false =>
    have ge : y.toRat ≤ x.toRat := not_lt.1 fun k => Bool.false_ne_true (h.symm.trans (lt.2 k))
    have eq : x.max y = x := by
      obtain ⟨m, e, rfl⟩ := exists_fin hx
      obtain ⟨n, d, rfl⟩ := exists_fin hy
      rw [max_of_ne_nan (by simp) (by simp), h]
      rfl
    rw [eq, max_eq_left ge]
    exact ⟨hx, rfl⟩

end Sys2Proof.Machine
end

section
/-! SUPPORT. Rounding to nearest: what a conversion into a format with infinities gives, where it is finite, is the multiple of
the last place that is nearest to the exact value (R39, R40). -/

namespace Sys2Proof.Machine

/-! ### The position of a quotient's first bit -/

theorem two_pow_log2_le {n : Nat} (h : 0 < n) : (2 : ℚ) ^ (n.log2 : ℤ) ≤ n := by
  rw [zpow_natCast]
  exact_mod_cast Nat.log2_self_le h.ne'

theorem lt_two_pow_log2_succ (n : Nat) : (n : ℚ) < 2 ^ ((n.log2 : ℤ) + 1) := by
  have h : n < 2 ^ (n.log2 + 1) := Nat.lt_log2_self
  exact_mod_cast h

/-- The quotient's first bit is at the difference of the two first bits, or one below. -/
theorem quot_between {n d : Nat} (hn : 0 < n) (hd : 0 < d) :
    (2 : ℚ) ^ ((n.log2 : ℤ) - d.log2 - 1) ≤ n / d ∧ (n : ℚ) / d < 2 ^ ((n.log2 : ℤ) - d.log2 + 1) := by
  have hd' : (0 : ℚ) < d := Nat.cast_pos.2 hd
  rw [le_div_iff₀ hd', div_lt_iff₀ hd']
  constructor
  · calc (2 : ℚ) ^ ((n.log2 : ℤ) - d.log2 - 1) * d
        ≤ 2 ^ ((n.log2 : ℤ) - d.log2 - 1) * 2 ^ ((d.log2 : ℤ) + 1) :=
          mul_le_mul_of_nonneg_left (lt_two_pow_log2_succ d).le (two_zpow_pos _).le
      _ = 2 ^ (n.log2 : ℤ) := by rw [← two_zpow_add]; congr 1; ring
      _ ≤ n := two_pow_log2_le hn
  · calc (n : ℚ) < 2 ^ ((n.log2 : ℤ) + 1) := lt_two_pow_log2_succ n
      _ = 2 ^ ((n.log2 : ℤ) - d.log2 + 1) * 2 ^ (d.log2 : ℤ) := by rw [← two_zpow_add]; congr 1; ring
      _ ≤ 2 ^ ((n.log2 : ℤ) - d.log2 + 1) * d :=
          mul_le_mul_of_nonneg_left (two_pow_log2_le hd) (two_zpow_pos _).le

/-- `floorLog2Quot` compares the quotient with 2^(log2 n - log2 d). -/
theorem floorLog2Quot_eq {n d : Nat} (hd : 0 < d) :
    floorLog2Quot n d = if (n : ℚ) / d < 2 ^ ((n.log2 : ℤ) - d.log2) then (n.log2 : ℤ) - d.log2 - 1 else (n.log2 : ℤ) - d.log2 := by
  have hd' : (0 : ℚ) < d := Nat.cast_pos.2 hd
  unfold floorLog2Quot
  generalize (n.log2 : ℤ) - d.log2 = l
  simp only [div_lt_iff₀ hd']
  by_cases hl : 0 ≤ l
  · have key : n < d * 2 ^ l.toNat ↔ (n : ℚ) < 2 ^ l * d := by
      rw [← Nat.cast_lt (α := ℚ), Nat.cast_mul, Nat.cast_pow, Nat.cast_ofNat, ← zpow_natCast, Int.toNat_of_nonneg hl, mul_comm]
    simp only [ge_iff_le, hl, if_true, key]
  · have key : n * 2 ^ (-l).toNat < d ↔ (n : ℚ) < 2 ^ l * d := by
      rw [← Nat.cast_lt (α := ℚ), Nat.cast_mul, Nat.cast_pow, Nat.cast_ofNat, ← zpow_natCast, Int.toNat_of_nonneg (by omega), zpow_neg,
        ← div_eq_mul_inv, div_lt_iff₀ (two_zpow_pos l), mul_comm]
    simp only [ge_iff_le, hl, if_false, key]

theorem floorLog2Quot_spec {n d : Nat} (hn : 0 < n) (hd : 0 < d) :
    (2 : ℚ) ^ floorLog2Quot n d ≤ n / d ∧ (n : ℚ) / d < 2 ^ (floorLog2Quot n d + 1) := by
  obtain ⟨low, high⟩ := quot_between hn hd
  rw [floorLog2Quot_eq hd]
  split
  case isTrue below => exact ⟨low, by rwa [sub_add_cancel]⟩
  case isFalse above => exact ⟨not_lt.1 above, high⟩

/-! ### The last place -/

theorem lastPlace_ge (p : Nat) (emin : Int) (n d : Nat) (e : Int) : emin - (p - 1 : Nat) ≤ lastPlace p emin n d e := by
  simp only [lastPlace]
  omega

/-- A magnitude has at most `p` bits above its last place. -/
theorem lt_lastPlace {p n d : Nat} (hp : 0 < p) (emin e : Int) (hn : 0 < n) (hd : 0 < d) :
    (n : ℚ) / d * 2 ^ e < 2 ^ p * 2 ^ lastPlace p emin n d e := by
  have above : floorLog2Quot n d + 1 + e ≤ p + lastPlace p emin n d e := by
    simp only [lastPlace]
    omega
  calc (n : ℚ) / d * 2 ^ e < 2 ^ (floorLog2Quot n d + 1) * 2 ^ e :=
        mul_lt_mul_of_pos_right (floorLog2Quot_spec hn hd).2 (two_zpow_pos e)
    _ = 2 ^ (floorLog2Quot n d + 1 + e) := (two_zpow_add ..).symm
    _ ≤ 2 ^ (p + lastPlace p emin n d e) := zpow_le_zpow_right₀ one_le_two above
    _ = 2 ^ p * 2 ^ lastPlace p emin n d e := by rw [two_zpow_add, zpow_natCast]

/-- It has exactly `p` bits unless its last place is the one of the subnormals. -/
theorem lastPlace_eq_or_le {p n d : Nat} (emin e : Int) (hn : 0 < n) (hd : 0 < d) :
    lastPlace p emin n d e = emin - (p - 1 : Nat) ∨ (2 : ℚ) ^ (p - 1) * 2 ^ lastPlace p emin n d e ≤ n / d * 2 ^ e := by
  by_cases normal : emin < floorLog2Quot n d + e
  · right
    have eq : ((p - 1 : Nat) : ℤ) + lastPlace p emin n d e = floorLog2Quot n d + e := by
      simp only [lastPlace]
      omega
    rw [← zpow_natCast, ← two_zpow_add, eq, two_zpow_add]
    exact mul_le_mul_of_nonneg_right (floorLog2Quot_spec hn hd).1 (two_zpow_pos e).le
  · left
    simp only [lastPlace]
    omega

/-! ### Rounding -/

/-- A quotient of naturals rounded to the nearest integer, ties to even (Table 2.8). -/
def roundQuot (n d : Nat) : Nat :=
  if 2 * (n % d) > d || (2 * (n % d) == d && n / d % 2 == 1) then n / d + 1 else n / d

theorem two_mul_abs_roundQuot_sub_le (n : Nat) {d : Nat} (hd : 0 < d) : 2 * |(roundQuot n d : ℚ) - n / d| ≤ 1 := by
  have hd' : (0 : ℚ) < d := Nat.cast_pos.2 hd
  have parts : (n : ℚ) / d = (n / d : ℕ) + (n % d : ℕ) / d := by
    rw [div_eq_iff hd'.ne', add_mul, div_mul_cancel₀ _ hd'.ne']
    exact_mod_cast (Nat.div_add_mod' n d).symm
  have below : n % d < d := Nat.mod_lt _ hd
  have frac_nonneg : (0 : ℚ) ≤ (n % d : ℕ) / d := by positivity
  have frac_lt : ((n % d : ℕ) : ℚ) / d < 1 := (div_lt_one hd').2 (Nat.cast_lt.2 below)
  rw [parts]
  unfold roundQuot
  split
  case isTrue up =>
    have half : d ≤ 2 * (n % d) := by
      simp only [gt_iff_lt, Bool.or_eq_true, Bool.and_eq_true, decide_eq_true_eq, beq_iff_eq] at up
      omega
    have half' : (1 : ℚ) / 2 ≤ (n % d : ℕ) / d := by
      rw [div_le_div_iff₀ two_pos hd']
      exact_mod_cast (by omega : 1 * d ≤ n % d * 2)
    rw [Nat.cast_add_one, add_sub_add_left_eq_sub, abs_of_pos (by linarith)]
    linarith
  case isFalse down =>
    have half : 2 * (n % d) ≤ d := by
      simp only [gt_iff_lt, Bool.or_eq_true, decide_eq_true_eq, not_or] at down
      omega
    have half' : ((n % d : ℕ) : ℚ) / d ≤ 1 / 2 := by
      rw [div_le_div_iff₀ hd' two_pos]
      exact_mod_cast (by omega : n % d * 2 ≤ 1 * d)
    rw [sub_add_cancel_left, abs_neg, abs_of_nonneg frac_nonneg]
    linarith

/-- The count of units of 2^q that `roundUnits` finds is `roundQuot` of a quotient equal to n/d × 2^(e - q). -/
theorem roundUnits_rne (n : Nat) {d : Nat} (e q : Int) (hd : 0 < d) :
    ∃ n' d' : Nat, 0 < d' ∧ roundUnits .rne n d e q = roundQuot n' d' ∧ (n' : ℚ) / d' * 2 ^ q = n / d * 2 ^ e := by
  by_cases h : q ≤ e
  · refine ⟨n * 2 ^ (e - q).toNat, d, hd, ?_, ?_⟩
    · simp [roundUnits, roundQuot, h]
    · push_cast
      rw [← two_pow_toNat_mul h]
      ring
  · refine ⟨n, d * 2 ^ (q - e).toNat, by positivity, ?_, ?_⟩
    · simp [roundUnits, roundQuot, h]
    · push_cast
      rw [← two_pow_toNat_mul (not_le.1 h).le]
      field_simp

theorem two_mul_abs_roundUnits_sub_le (n : Nat) {d : Nat} (e q : Int) (hd : 0 < d) :
    2 * |(roundUnits .rne n d e q : ℚ) * 2 ^ q - n / d * 2 ^ e| ≤ 2 ^ q := by
  obtain ⟨n', d', hd', eq, same⟩ := roundUnits_rne n e q hd
  rw [eq, ← same, ← sub_mul, abs_mul, abs_of_pos (two_zpow_pos q), ← mul_assoc]
  exact mul_le_of_le_one_left (two_zpow_pos q).le (two_mul_abs_roundQuot_sub_le n' hd')

/-- A count of units that is nearest to a magnitude keeps the integral bounds that the magnitude has. -/
theorem le_of_near {r k : Nat} {x u : ℚ} (hu : 0 < u) (near : 2 * |r * u - x| ≤ u) (h : k * u ≤ x) : k ≤ r := by
  by_contra below
  have step : ((r + 1 : ℕ) : ℚ) * u ≤ k * u := mul_le_mul_of_nonneg_right (Nat.cast_le.2 (not_le.1 below)) hu.le
  have dist := neg_le_abs (r * u - x)
  push_cast at step
  linarith

theorem ge_of_near {r k : Nat} {x u : ℚ} (hu : 0 < u) (near : 2 * |r * u - x| ≤ u) (h : x ≤ k * u) : r ≤ k := by
  by_contra above
  have step : ((k + 1 : ℕ) : ℚ) * u ≤ r * u := mul_le_mul_of_nonneg_right (Nat.cast_le.2 (not_le.1 above)) hu.le
  have dist := le_abs_self (r * u - x)
  push_cast at step
  linarith

/-! ### Codes -/

/-- The code of a sign, an exponent field and a fraction field. -/
def Flt.assemble (f : Flt) (neg : Bool) (e fr : Nat) : Nat :=
  (if neg then 2 ^ (f.ebits + f.fbits) else 0) + e * 2 ^ f.fbits + fr

section
variable {f : Flt} (neg : Bool) {e fr : Nat} (hb : 0 < f.ebits) (he : e < 2 ^ f.ebits) (hfr : fr < 2 ^ f.fbits)
include hfr

theorem Flt.assemble_fraction : f.assemble neg e fr % 2 ^ f.fbits = fr := by
  have dvd : 2 ^ f.fbits ∣ (if neg then 2 ^ (f.ebits + f.fbits) else 0) + e * 2 ^ f.fbits := by
    refine Nat.dvd_add ?_ (Nat.dvd_mul_left ..)
    split
    · exact pow_dvd_pow 2 (Nat.le_add_left ..)
    · exact dvd_zero _
  obtain ⟨c, eq⟩ := dvd
  rw [assemble, eq, Nat.mul_add_mod, Nat.mod_eq_of_lt hfr]

theorem Flt.assemble_shift : f.assemble neg e fr / 2 ^ f.fbits = (if neg then 2 ^ f.ebits else 0) + e := by
  have eq : f.assemble neg e fr = 2 ^ f.fbits * ((if neg then 2 ^ f.ebits else 0) + e) + fr := by
    unfold assemble
    split <;> ring
  rw [eq, Nat.mul_add_div (by positivity), Nat.div_eq_of_lt hfr, Nat.add_zero]

include he

include hb in
theorem Flt.assemble_exponent : bits (f.assemble neg e fr) (f.ebits + f.fbits - 1) f.fbits = e := by
  have width : f.ebits + f.fbits - 1 + 1 - f.fbits = f.ebits := by omega
  rw [bits, assemble_shift neg hfr, width]
  split
  · rw [Nat.add_mod_left, Nat.mod_eq_of_lt he]
  · rw [Nat.zero_add, Nat.mod_eq_of_lt he]

theorem Flt.assemble_sign : bit (f.assemble neg e fr) (f.ebits + f.fbits) = neg := by
  have shift : f.assemble neg e fr / 2 ^ (f.ebits + f.fbits) = if neg then 1 else 0 := by
    rw [Nat.add_comm, Nat.pow_add, ← Nat.div_div_eq_div_mul, assemble_shift neg hfr]
    split
    · rw [Nat.add_div_left _ (by positivity), Nat.div_eq_of_lt he]
    · rw [Nat.zero_add, Nat.div_eq_of_lt he]
  rw [bit, shift]
  cases neg <;> rfl

end

section
variable {f : Flt} (hb : 0 < f.ebits) (hi : f.hasInf = true)
include hb hi

/-- The value of a code of a format with infinities, by its fields (R29). -/
theorem decodeFlt_assemble (neg : Bool) {e fr : Nat} (he : e < 2 ^ f.ebits) (hfr : fr < 2 ^ f.fbits) :
    decodeFlt f (f.assemble neg e fr) =
      if e = 2 ^ f.ebits - 1 then (if fr = 0 then .inf neg else .nan)
      else if e = 0 then .fin (signed neg fr) (f.emin - f.fbits)
      else .fin (signed neg (2 ^ f.fbits + fr)) (e - f.bias - f.fbits) := by
  simp only [decodeFlt, Flt.assemble_exponent neg hb he hfr, Flt.assemble_fraction neg hfr, Flt.assemble_sign neg he hfr, hi, beq_iff_eq,
    Bool.true_and, Bool.not_true, Bool.false_and, Bool.false_eq_true, if_false]

theorem decodeFlt_inf (neg : Bool) :
    decodeFlt f ((if neg then 2 ^ (f.ebits + f.fbits) else 0) + (2 ^ f.ebits - 1) * 2 ^ f.fbits) = .inf neg := by
  have pos : 0 < 2 ^ f.ebits := by positivity
  have := decodeFlt_assemble hb hi neg (e := 2 ^ f.ebits - 1) (fr := 0) (by omega) (by positivity)
  simpa [Flt.assemble] using this

theorem decodeFlt_zero : decodeFlt f 0 = .fin 0 (f.emin - f.fbits) := by
  have two_le : 2 ^ 1 ≤ 2 ^ f.ebits := Nat.pow_le_pow_right two_pos hb
  have := decodeFlt_assemble hb hi false (e := 0) (fr := 0) (by omega) (by positivity)
  rw [if_neg (by omega), if_pos rfl] at this
  simpa [Flt.assemble, signed] using this

/-- A magnitude below the smallest normal packs into a code with its value. -/
theorem decodeFlt_packFlt_subnormal (neg : Bool) {k : Nat} (q : Int) (hk : k < 2 ^ f.fbits) :
    (decodeFlt f (packFlt f neg k q)).isFin = true ∧
      (decodeFlt f (packFlt f neg k q)).toRat = signed neg k * 2 ^ (f.emin - f.fbits) := by
  have two_le : 2 ^ 1 ≤ 2 ^ f.ebits := Nat.pow_le_pow_right two_pos hb
  by_cases zero : k = 0
  · subst zero
    have code : packFlt f neg 0 q = 0 := rfl
    rw [code, decodeFlt_zero hb hi]
    exact ⟨rfl, by cases neg <;> simp [signed]⟩
  · have code : packFlt f neg k q = f.assemble neg 0 k := by simp [packFlt, Flt.assemble, zero, hk]
    rw [code, decodeFlt_assemble hb hi neg (by omega) hk, if_neg (by omega), if_pos rfl]
    exact ⟨rfl, rfl⟩

/-- A significand of full length packs into a code with its value, or into an infinity. -/
theorem decodeFlt_packFlt_normal (neg : Bool) {k : Nat} {q : Int} (hq : f.emin - f.fbits ≤ q) (low : 2 ^ f.fbits ≤ k)
    (high : k < 2 ^ (f.fbits + 1)) (fin : (decodeFlt f (packFlt f neg k q)).isFin = true) :
    (decodeFlt f (packFlt f neg k q)).toRat = signed neg k * 2 ^ q := by
  have nonzero : k ≠ 0 := (Nat.two_pow_pos f.fbits |>.trans_le low).ne'
  have code : packFlt f neg k q =
      if 2 ^ f.ebits - 1 ≤ (q + f.fbits + f.bias).toNat then
        (if neg then 2 ^ (f.ebits + f.fbits) else 0) + (2 ^ f.ebits - 1) * 2 ^ f.fbits
      else f.assemble neg (q + f.fbits + f.bias).toNat (k - 2 ^ f.fbits) := by
    simp [packFlt, Flt.assemble, hi, nonzero, not_lt.2 low, not_le.2 high]
  rw [code] at fin ⊢
  split at fin
  case isTrue inf =>
    rw [decodeFlt_inf hb hi] at fin
    exact absurd fin Bool.false_ne_true
  case isFalse inRange =>
    rw [Flt.emin] at hq
    rw [if_neg inRange, decodeFlt_assemble hb hi neg (by omega) (by omega), if_neg (by omega), if_neg (by omega), Num.toRat_fin,
      Int.toNat_of_nonneg (by omega), Nat.add_sub_cancel' low]
    congr 2
    omega

theorem decodeFlt_packFlt (neg : Bool) {k : Nat} {q : Int} (hq : f.emin - f.fbits ≤ q) (high : k ≤ 2 ^ (f.fbits + 1))
    (low : q = f.emin - f.fbits ∨ 2 ^ f.fbits ≤ k) (fin : (decodeFlt f (packFlt f neg k q)).isFin = true) :
    (decodeFlt f (packFlt f neg k q)).toRat = signed neg k * 2 ^ q := by
  by_cases short : k < 2 ^ f.fbits
  · obtain rfl := low.resolve_right (not_le.2 short)
    exact (decodeFlt_packFlt_subnormal hb hi neg _ short).2
  obtain high | rfl := high.lt_or_eq
  · exact decodeFlt_packFlt_normal hb hi neg hq (not_lt.1 short) high fin
  · have carry : packFlt f neg (2 ^ (f.fbits + 1)) q = packFlt f neg (2 ^ f.fbits) (q + 1) := by
      have halve : 2 ^ (f.fbits + 1) / 2 = 2 ^ f.fbits := by rw [pow_succ, Nat.mul_div_cancel _ two_pos]
      have shorter : ¬2 ^ (f.fbits + 1) ≤ 2 ^ f.fbits := not_le.2 (Nat.pow_lt_pow_succ one_lt_two)
      simp [packFlt, halve, short, shorter]
    rw [carry] at fin ⊢
    rw [decodeFlt_packFlt_normal hb hi neg (by omega) le_rfl (Nat.pow_lt_pow_succ one_lt_two) fin, two_zpow_add]
    cases neg <;> simp [signed, pow_succ] <;> ring

/-- A quotient that converts to a finite value converts to one within half a unit of its last place. -/
theorem two_mul_abs_convQuot_sub_le (neg : Bool) (n : Nat) {d : Nat} (e : Int) (hd : 0 < d)
    (fin : (decodeFlt f (convQuot f .rne neg n d e).code).isFin = true) :
    2 * |(decodeFlt f (convQuot f .rne neg n d e).code).toRat - signed neg n / d * 2 ^ e| ≤
      2 ^ lastPlace (f.fbits + 1) f.emin n d e := by
  obtain rfl | hn := n.eq_zero_or_pos
  · have code : convQuot f .rne neg 0 d e = { code := 0 } := rfl
    rw [code, decodeFlt_zero hb hi]
    have zero : signed neg 0 = 0 := by cases neg <;> rfl
    simpa [zero] using (two_zpow_pos _).le
  have code : (convQuot f .rne neg n d e).code =
      if (Num.fin d (f.maxUnit + f.fbits + 1)).le (.fin n e) then
        (if neg then 2 ^ (f.ebits + f.fbits) else 0) + (2 ^ f.ebits - 1) * 2 ^ f.fbits
      else packFlt f neg (roundUnits .rne n d e (lastPlace (f.fbits + 1) f.emin n d e)) (lastPlace (f.fbits + 1) f.emin n d e) := by
    simp [convQuot, hn.ne', hi, apply_ite Conv.code]
  rw [code] at fin ⊢
  split at fin
  case isTrue inf =>
    rw [decodeFlt_inf hb hi] at fin
    exact absurd fin Bool.false_ne_true
  case isFalse inRange =>
    rw [if_neg inRange]
    have low := lastPlace_eq_or_le (p := f.fbits + 1) f.emin e hn hd
    have high := lt_lastPlace (p := f.fbits + 1) (Nat.succ_pos _) f.emin e hn hd
    have place := lastPlace_ge (f.fbits + 1) f.emin n d e
    rw [Nat.add_sub_cancel] at low place
    generalize lastPlace (f.fbits + 1) f.emin n d e = q at *
    have near := two_mul_abs_roundUnits_sub_le n e q hd
    rw [decodeFlt_packFlt hb hi neg place (ge_of_near (two_zpow_pos q) near (by exact_mod_cast high.le))
      (low.imp_right fun h => le_of_near (two_zpow_pos q) near (by exact_mod_cast h)) fin]
    convert near using 2
    cases neg
    · simp [signed]
    · rw [← abs_neg]
      simp [signed]
      ring_nf

end

/-! ### What a conversion is nearest to -/

/-- `Flt.nearest` of a code with a finite value, in rational numbers. -/
theorem Flt.nearest_iff {f : Flt} {code : Nat} (neg : Bool) (n : Nat) {d : Nat} (e : Int) (hd : 0 < d)
    (fin : (decodeFlt f code).isFin = true) :
    f.nearest code neg n d e ↔
      2 * |(decodeFlt f code).toRat - signed neg n / d * 2 ^ e| ≤ 2 ^ lastPlace (f.fbits + 1) f.emin n d e := by
  have hd' : (0 : ℚ) < d := Nat.cast_pos.2 hd
  obtain ⟨fin_mul, rat_mul⟩ := Num.toRat_mul fin (Num.isFin_fin d 0)
  obtain ⟨fin_sub, rat_sub⟩ := Num.toRat_sub fin_mul (Num.isFin_fin (signed neg n) e)
  obtain ⟨fin_abs, rat_abs⟩ := Num.toRat_abs fin_sub
  obtain ⟨fin_scale, rat_scale⟩ := Num.toRat_scale fin_abs 1
  have dist : |(decodeFlt f code).toRat * d - signed neg n * 2 ^ e| =
      |(decodeFlt f code).toRat - signed neg n / d * 2 ^ e| * d := by
    rw [← abs_of_pos hd', ← abs_mul, abs_of_pos hd', sub_mul, mul_right_comm _ _ (d : ℚ), div_mul_cancel₀ _ hd'.ne']
  rw [Flt.nearest, Num.le_iff fin_scale rfl, rat_scale, rat_abs, rat_sub, rat_mul]
  simp only [Num.toRat_fin, Int.cast_natCast, zpow_zero, mul_one, zpow_one, dist]
  rw [mul_right_comm, mul_comm _ (d : ℚ), mul_comm _ (2 : ℚ), mul_le_mul_iff_of_pos_left hd']

theorem convQuot_nearest {f : Flt} (hb : 0 < f.ebits) (hi : f.hasInf = true) (neg : Bool) (n : Nat) {d : Nat} (e : Int) (hd : 0 < d)
    (fin : (decodeFlt f (convQuot f .rne neg n d e).code).isFin = true) :
    f.nearest (convQuot f .rne neg n d e).code neg n d e :=
  (Flt.nearest_iff neg n e hd fin).2 (two_mul_abs_convQuot_sub_le hb hi neg n e hd fin)

/-- Each float format of Table 2.1 has an exponent field. -/
theorem ebits_pos_of_formatKind {fmt : Nat} {f : Flt} (h : formatKind fmt = some (.flt f)) : 0 < f.ebits := by
  unfold formatKind at h
  split at h <;> cases h <;> decide

theorem convert_flt {fmt : Nat} {f : Flt} (h : formatKind fmt = some (.flt f)) (r : Rnd) (x : Num) :
    convert fmt r x = convFlt f r x := by
  simp only [convert, h]

theorem divFlt_fin (f : Flt) (r : Rnd) (m e d : Int) {n : Int} (hn : n ≠ 0) :
    divFlt f r (.fin m e) (.fin n d) =
      (convQuot f r (decide (m < 0) != decide (n < 0)) m.natAbs n.natAbs (e - d)).code := by
  simp [divFlt, quotient, hn]

end Sys2Proof.Machine
end

section
/-! SUPPORT. The values of vector commands: the integer square root, the pairwise tree, results with a bound, a block's largest
magnitude and scale, and the rows of NORM, SOFTMAX and LOSS. -/

namespace Sys2Proof.Machine

/-! ### The integer square root -/

/-- `isqrtFrom` settles the `k` low bits of a root whose other bits are known. -/
theorem isqrtFrom_spec (n : Nat) : ∀ (k acc : Nat), acc * acc ≤ n → n < (acc + 2 ^ k) * (acc + 2 ^ k) →
    isqrtFrom k n acc * isqrtFrom k n acc ≤ n ∧ n < (isqrtFrom k n acc + 1) * (isqrtFrom k n acc + 1)
  | 0, _, low, high => ⟨low, high⟩
  | k + 1, acc, low, high => by
    have split_pow : acc + 2 ^ (k + 1) = acc + 2 ^ k + 2 ^ k := by ring
    rw [split_pow] at high
    rw [isqrtFrom]
    split
    case isTrue set => exact isqrtFrom_spec n k _ set high
    case isFalse clear => exact isqrtFrom_spec n k _ low (not_le.1 clear)

theorem isqrt_spec (n : Nat) : isqrt n * isqrt n ≤ n ∧ n < (isqrt n + 1) * (isqrt n + 1) := by
  refine isqrtFrom_spec n _ 0 (Nat.zero_le n) ?_
  rw [Nat.zero_add, ← pow_add]
  exact Nat.lt_log2_self.trans_le (Nat.pow_le_pow_right two_pos (by omega))

/-! ### The pairwise tree -/

theorem clog2_three : clog2 3 = 2 := by decide +kernel
theorem clog2_four : clog2 4 = 2 := by decide +kernel

theorem tree_two (op : Num → Num → Num) (z a b : Num) : tree op z [a, b] = op a b := rfl
theorem tree_three (op : Num → Num → Num) (z a b c : Num) : tree op z [a, b, c] = op (op a b) c := by
  simp [tree, clog2_three, treeLevels, pairUp]
theorem tree_four (op : Num → Num → Num) (z a b c d : Num) : tree op z [a, b, c, d] = op (op a b) (op c d) := by
  simp [tree, clog2_four, treeLevels, pairUp]

/-! ### Results with a bound (Table 2.11) -/

theorem bounded_boundedBy (op : Nat) (l : List Nat) (ulps : Nat) (ref : Num) : boundedBy ulps (bounded op l ulps ref) ref := by
  cases ref with
  | nan | inf => exact .inr (.inr ⟨rfl, by decide +revert⟩)
  | fin m e =>
    simp only [bounded]
    split
    case isTrue beyond => exact .inr (.inr ⟨rfl, by simpa using beyond⟩)
    case isFalse inRange =>
      split
      case isTrue within => exact .inl within
      case isFalse => exact .inr (.inl ⟨rfl, by simpa using inRange⟩)

/-- A bounded result of a float format is the free candidate, within one ulp, or the default. -/
theorem boundedIn_flt {fmt : Nat} {f : Flt} (hf : formatKind fmt = some (.flt f)) (rs : Bool) (op : Nat) (l : List Nat) (ref : Num)
    (dflt : Nat) :
    withinUlps f 1 (decodeFlt f (boundedIn rs fmt op l ref dflt)) ref = true ∨ boundedIn rs fmt op l ref dflt = dflt := by
  unfold boundedIn
  simp only [hf]
  split
  case isTrue => exact .inr rfl
  case isFalse =>
    split
    case isTrue take =>
      simp only [Bool.and_eq_true] at take
      exact .inl take.2
    case isFalse => exact .inr rfl

/-! ### The largest magnitude of a block and its scale (R36) -/

theorem Num.floorLog2_spec {x : Num} (hx : x.isFin = true) (h : 0 < x.toRat) :
    (2 : ℚ) ^ x.floorLog2 ≤ x.toRat ∧ x.toRat < 2 ^ (x.floorLog2 + 1) := by
  obtain ⟨m, e, rfl⟩ := exists_fin hx
  rw [toRat_fin] at h ⊢
  have pos : 0 < m := Int.cast_pos.1 ((mul_pos_iff_of_pos_right (two_zpow_pos e)).1 h)
  lift m to ℕ using pos.le
  have hm : 0 < m := by omega
  have l : (2 : ℚ) ^ (m.log2 : ℤ) ≤ m := two_pow_log2_le hm
  have u := lt_two_pow_log2_succ m
  simp only [floorLog2, Int.natAbs_natCast, Int.cast_natCast]
  rw [add_right_comm, two_zpow_add, two_zpow_add _ e]
  exact ⟨mul_le_mul_of_nonneg_right l (two_zpow_pos e).le, mul_lt_mul_of_pos_right u (two_zpow_pos e)⟩

/-- The scale of a block, clamped to 0 to 254. -/
theorem scaleOf_floorLog2 (emax : Int) {top : Num} (fin : top.isFin = true) (nonneg : 0 ≤ top.toRat) :
    scaleOf emax top (if top.isZero then 0 else Min.min 254 (top.floorLog2 - emax + 127).toNat) := by
  refine ⟨by split <;> omega, fun zero => if_pos zero, fun nonzero => ?_⟩
  have pos : 0 < top.toRat := nonneg.lt_of_ne fun h => Bool.false_ne_true (nonzero.symm.trans ((Num.isZero_iff fin).2 h.symm))
  obtain ⟨low, high⟩ := Num.floorLog2_spec fin pos
  rw [if_neg (by simp [nonzero])]
  constructor
  · intro above
    rw [Num.le_iff rfl fin, Num.toRat_fin, Int.cast_one, one_mul]
    exact (zpow_le_zpow_right₀ one_le_two (by omega)).trans low
  · intro below
    rw [Num.lt_iff fin rfl, Num.toRat_fin, Int.cast_one, one_mul]
    exact high.trans_le (zpow_le_zpow_right₀ one_le_two (by omega))

/-- The largest magnitude of a list, and at least `acc`. -/
def topFrom (acc : Num) (l : List Num) : Num := l.foldl (fun a y => a.max y.abs) acc

theorem topFrom_spec : ∀ (l : List Num) {acc : Num}, (∀ y ∈ l, y.isFin = true) → acc.isFin = true →
    (topFrom acc l).isFin = true ∧ acc.toRat ≤ (topFrom acc l).toRat ∧ (∀ y ∈ l, y.abs.toRat ≤ (topFrom acc l).toRat) ∧
      (topFrom acc l = acc ∨ ∃ y ∈ l, topFrom acc l = y.abs)
  | [], acc, _, hacc => ⟨hacc, le_rfl, by simp, .inl rfl⟩
  | x :: l, acc, hl, hacc => by
    obtain ⟨fin_abs, -⟩ := Num.toRat_abs (hl x List.mem_cons_self)
    obtain ⟨fin_max, rat_max⟩ := Num.toRat_max hacc fin_abs
    obtain ⟨fin, ge, all, is⟩ := topFrom_spec l (fun y hy => hl y (List.mem_cons_of_mem x hy)) fin_max
    have cons : topFrom acc (x :: l) = topFrom (acc.max x.abs) l := rfl
    rw [rat_max] at ge
    rw [cons]
    refine ⟨fin, (le_max_left ..).trans ge, List.forall_mem_cons.2 ⟨(le_max_right ..).trans ge, all⟩, ?_⟩
    obtain eq | ⟨y, hy, eq⟩ := is
    · rw [eq]
      exact (Num.max_eq_or acc x.abs).imp_right fun h => ⟨x, List.mem_cons_self, h⟩
    · exact .inr ⟨y, List.mem_cons_of_mem x hy, eq⟩

theorem largest_topFrom {l : List Num} (hl : ∀ y ∈ l, y.isFin = true) :
    largest l (topFrom (.fin 0 0) l) ∧ (topFrom (.fin 0 0) l).isFin = true ∧ 0 ≤ (topFrom (.fin 0 0) l).toRat := by
  obtain ⟨fin, ge, all, is⟩ := topFrom_spec l hl (Num.isFin_fin 0 0)
  refine ⟨⟨fun y hy => (Num.le_iff (Num.toRat_abs (hl y hy)).1 fin).2 (all y hy), ?_⟩, fin, by simpa using ge⟩
  exact is.imp_left fun h => by rw [h]; rfl

/-! ### Blocks of QUANT_STORE (R209) -/

theorem quantBlock_of_nonfinite {fmt : Nat} {ys : List (Num × Rnd)} (hf : borderRung fmt = true) (h : ∃ y ∈ ys, y.1.isFin = false) :
    quantBlock fmt ys = (255, ys.map fun _ => 0) := by
  have any : ys.any (fun y => !y.1.isFin) = true := by simpa using h
  simp only [quantBlock, hf, any, Bool.and_self, if_true]

theorem quantBlock_of_finite (fmt : Nat) {ys : List (Num × Rnd)} (h : ∀ y ∈ ys, y.1.isFin = true) :
    let top := topFrom (.fin 0 0) (ys.map (·.1))
    let e : Nat := if top.isZero then 0 else Min.min 254 (top.floorLog2 - emaxOf fmt + 127).toNat
    quantBlock fmt ys = (e, ys.map fun y => (convert fmt y.2 (y.1.scale (127 - e))).code) := by
  have any : ys.any (fun y => !y.1.isFin) = false := by simpa using h
  have top : ys.foldl (fun (a : Num) y => if y.1.isFin then a.max y.1.abs else a) (.fin 0 0) = topFrom (.fin 0 0) (ys.map (·.1)) := by
    rw [topFrom, List.foldl_map]
    exact List.foldl_ext _ _ _ fun a y hy => if_pos (h y hy)
  simp only [quantBlock, any, Bool.and_false, Bool.false_eq_true, if_false, top]

/-! ### LOSS -/

theorem lossRow_target {a : VecArgs} (h : a.subop = 0) (xs ys : List Num) (target : Int) (codes : List Nat) :
    lossRow a xs ys target codes =
      if target = -1 then none
      else if target < 0 ∨ a.cols ≤ target then some .nan
      else some (bounded 0xB0 (a.inFmt :: target.toNat :: codes) 4 ((logSumExp xs).sub (xs.getD target.toNat .nan))) := by
  simp [lossRow, h]

/-- Rows whose targets are all −1 give no loss and add nothing to the total. -/
theorem lossCodes_of_no_target {a : VecArgs} {xs ys : List (List Nat)} (h : a.subop = 0) (hy : ∀ y ∈ ys, decodeInt 32 (y.getD 0 0) = -1)
    (len : xs.length = ys.length) : (lossCodes a xs ys).2 = 0 ∧ ∀ c ∈ (lossCodes a xs ys).1, c = 0 := by
  have rows (rnd : Rnd) : (xs.mapIdx fun r row =>
      (lossRow a (row.map (decode a.inFmt)) ((ys.getD r []).map (decode a.inFmt)) (decodeInt 32 ((ys.getD r []).getD 0 0))
        (row ++ ys.getD r [])).map fun v => (convFlt fltFp32 rnd v).code) = xs.map fun _ => none := by
    refine List.ext_getElem (by simp) fun r hr _ => ?_
    have hr' : r < ys.length := by simpa [len] using hr
    have target : decodeInt 32 ((ys.getD r []).getD 0 0) = -1 := hy _ (by simp [List.getD_eq_getElem?_getD, hr'])
    simp only [List.getElem_mapIdx, target, lossRow_target h, if_true, Option.map_none, List.getElem_map]
  simp only [lossCodes, rows]
  constructor
  · have none : (xs.map fun _ => (Option.none : Option Nat)).filterMap (fun r => r.map f32) = [] := by simp
    rw [none]
    rfl
  · simp

/-! ### The clauses of O58 -/

/-- The reference of EXP, LOG and RSQRT, the sub-operations 6 to 8 (Table 9.11). -/
def functionRef (sub : Nat) (x : Num) : Num :=
  match sub with
  | 6 => expRef x
  | 7 => logRef x
  | _ => rsqrtRef x

/-- The code of a quotient or a square root is the free candidate, within one ulp, or the exact value rounded. -/
theorem vectorElem_bounded {a : VecArgs} {f : Flt} (hf : formatKind a.outFmt = some (.flt f)) (r : Rnd) (x y z : Num) (l : List Nat) :
    let code := vectorElem a r x y z l
    (a.subop = 4 → withinUlps f 1 (decodeFlt f code) (quotNum x y) = true ∨ code = divFlt f r x y) ∧
    (a.subop = 5 → withinUlps f 1 (decodeFlt f code) (sqrtRef x) = true ∨ code = (convFlt f r (sqrtNum 80 x)).code) := by
  have div : divInto a.outFmt r x y = divFlt f r x y := by simp only [divInto, hf]
  constructor <;> intro sub
  · have code : vectorElem a r x y z l = boundedIn a.rs a.outFmt 4 l (quotNum x y) (divFlt f r x y) := by
      simp only [vectorElem, sub, div]
    rw [code]
    exact boundedIn_flt hf ..
  · have code : vectorElem a r x y z l = boundedIn a.rs a.outFmt 5 l (sqrtRef x) (convFlt f r (sqrtNum 80 x)).code := by
      simp only [vectorElem, sub, convert_flt hf]
    rw [code]
    exact boundedIn_flt hf ..

/-- The code of EXP, LOG and RSQRT is a bounded value's, converted once. -/
theorem vectorElem_function {a : VecArgs} (sub : a.subop = 6 ∨ a.subop = 7 ∨ a.subop = 8) (r : Rnd) (x y z : Num) (l : List Nat) :
    vectorElem a r x y z l = (convert a.outFmt r (bounded a.subop l 2 (functionRef a.subop x))).code := by
  obtain h | h | h := sub <;> simp only [vectorElem, functionRef, h]

theorem vectorElem_values (a : VecArgs) (r : Rnd) (x y z : Num) (l : List Nat) (sub : Nat) (h : a.subop = sub) :
    let code := vectorElem a r x y z l
    let once (v : Num) := code = (convert a.outFmt r v).code
    (sub = 0 → once (x.add y)) ∧ (sub = 1 → once (x.sub y)) ∧ (sub = 2 → once (x.mul y)) ∧ (sub = 3 → once ((x.mul y).add z)) ∧
    (sub = 11 → once x) ∧ (sub = 12 → once ((x.mul (f32 a.s0)).add (f32 a.s1))) ∧
    (∀ f, formatKind a.outFmt = some (.flt f) → (decodeFlt f code).isFin = true →
      (sub = 4 → withinUlps f 1 (decodeFlt f code) (quotNum x y) = true ∨ code = divFlt f r x y) ∧
      (sub = 5 → withinUlps f 1 (decodeFlt f code) (sqrtRef x) = true ∨ code = (convFlt f r (sqrtNum 80 x)).code)) ∧
    ∃ v, (sub = 6 → once v ∧ boundedBy 2 v (expRef x)) ∧ (sub = 7 → once v ∧ boundedBy 2 v (logRef x)) ∧
      (sub = 8 → once v ∧ boundedBy 2 v (rsqrtRef x)) := by
  subst h
  intro code once
  have bound := bounded_boundedBy a.subop l 2 (functionRef a.subop x)
  refine ⟨?_, ?_, ?_, ?_, ?_, ?_, fun f hf _ => vectorElem_bounded hf r x y z l, bounded a.subop l 2 (functionRef a.subop x),
    fun k => ⟨vectorElem_function (.inl k) .., ?_⟩, fun k => ⟨vectorElem_function (.inr (.inl k)) .., ?_⟩,
    fun k => ⟨vectorElem_function (.inr (.inr k)) .., ?_⟩⟩
  case refine_7 | refine_8 | refine_9 =>
    rw [k] at bound ⊢
    exact bound
  all_goals
    intro k
    simp only [once, code, vectorElem, k]

theorem conversion_nearest (f : Flt) (m n e d : Int) (fmt : Nat) (hf : formatKind fmt = some (.flt f)) (hi : f.hasInf = true) :
    let whole := (convert fmt .rne (.fin m e)).code
    let part := divFlt f .rne (.fin m e) (.fin n d)
    ((decodeFlt f whole).isFin = true → f.nearest whole (decide (m < 0)) m.natAbs 1 e) ∧
    (n ≠ 0 → (decodeFlt f part).isFin = true →
      f.nearest part (decide (m < 0) != decide (n < 0)) m.natAbs n.natAbs (e - d)) := by
  have hb := ebits_pos_of_formatKind hf
  rw [convert_flt hf]
  refine ⟨convQuot_nearest hb hi _ _ _ one_pos, fun hn => ?_⟩
  rw [divFlt_fin f _ m e d hn]
  exact convQuot_nearest hb hi _ _ _ (Int.natAbs_pos.2 hn)

theorem normRow_bounded (a : VecArgs) (xs gs bs : List Num) (codes : List Nat) (i : Nat) (x : Num) (hx : xs[i]? = some x) :
    let mean (l : List Num) := quotNum (sumW l) (.fin a.cols 0)
    let root (l : List Num) := rsqrtRef ((mean (l.map fun d => d.mul d)).add (f32 a.s0))
    let g := gs.getD i (.fin 1 0)
    ∃ v, (normRow a xs gs bs codes)[i]? = some v ∧
      (a.subop ≠ 1 → boundedBy 4 v (cut (((x.sub (.fin 0 0)).mul (root (xs.map fun y => y.sub (.fin 0 0)))).mul g))) ∧
      (a.subop = 1 → boundedBy 4 v ((cut (((x.sub (mean xs)).mul (root (xs.map fun y => y.sub (mean xs)))).mul g)).add
        (bs.getD i (.fin 0 0)))) := by
  intro mean root g
  by_cases layer : a.subop = 1
  · refine ⟨bounded 0x91 (a.inFmt :: a.s0 :: i :: codes) 4 _, ?_, fun rms => absurd layer rms, fun _ => bounded_boundedBy ..⟩
    simp only [normRow, layer, if_true, List.getElem?_mapIdx, List.getElem?_map, hx, Option.map_some, mean, root, g]
  · refine ⟨bounded (0x90 + a.subop) (a.inFmt :: a.s0 :: i :: codes) 4 _, ?_, fun _ => bounded_boundedBy .., fun k => absurd k layer⟩
    simp only [normRow, layer, if_false, List.getElem?_mapIdx, List.getElem?_map, hx, Option.map_some, mean, root, g]

theorem softmaxRow_bounded (a : VecArgs) (ts : List Num) (codes : List Nat) (i : Nat) (t : Num) (ht : ts[i]? = some t) :
    ∃ v, (softmaxRow a ts codes)[i]? = some v ∧
      ((∀ u ∈ ts, u = .inf true) → v = .fin 0 0) ∧
      ((∃ u ∈ ts, u ≠ .inf true) → let part (u : Num) := expRef (u.sub (maxW ts))
        boundedBy 4 v (quotNum (part t) (sumW (ts.map fun u => w40 (toW40 (part u)))))) := by
  by_cases all : ∀ u ∈ ts, u = .inf true
  · refine ⟨.fin 0 0, ?_, fun _ => rfl, fun ⟨u, hu, ne⟩ => absurd (all u hu) ne⟩
    have zeros : (ts.all fun t => t == .inf true) = true := by simpa using all
    simp only [softmaxRow, zeros, if_true, List.getElem?_map, ht, Option.map_some]
  · have some_term : (ts.all fun t => t == .inf true) = false := by simpa using all
    refine ⟨bounded 0xA0 (a.inFmt :: a.s0 :: i :: codes) 4 _, ?_, fun k => absurd k all, fun _ => bounded_boundedBy ..⟩
    simp only [softmaxRow, some_term, Bool.false_eq_true, if_false, List.getElem?_mapIdx, List.getElem?_map, ht, Option.map_some,
      List.map_map, Function.comp_def]

theorem lossRow_bounded (a : VecArgs) (xs ys : List Num) (target : Int) (codes : List Nat) :
    (a.subop = 0 → lossRow a xs ys (-1) codes = none ∧
      (target < -1 ∨ a.cols ≤ target → lossRow a xs ys target codes = some .nan) ∧
      (0 ≤ target → target < a.cols → ∃ v, lossRow a xs ys target codes = some v ∧
        boundedBy 4 v ((logSumExp xs).sub (xs.getD target.toNat .nan)))) ∧
    (a.subop ≠ 0 → ∃ v, lossRow a xs ys target codes = some v ∧ boundedBy 4 v
      ((sumW ((List.zipWith (fun x y => x.sub y) xs ys).map fun d => w40 (toW40 (d.mul d)))).scale (-1))) := by
  constructor
  · intro h
    simp only [lossRow_target h, if_true, true_and]
    refine ⟨fun out => ?_, fun low high => ⟨_, ?_, bounded_boundedBy 0xB0 (a.inFmt :: target.toNat :: codes) 4 _⟩⟩
    · rw [if_neg (by omega), if_pos (by omega)]
    · rw [if_neg (by omega), if_neg (by omega)]
  · intro h
    exact ⟨_, if_neg h, bounded_boundedBy ..⟩

theorem quantBlock_values (fmt : Nat) (ys : List (Num × Rnd)) :
    let e := (quantBlock fmt ys).1
    (borderRung fmt = true → (∃ y ∈ ys, y.1.isFin = false) → quantBlock fmt ys = (255, ys.map fun _ => 0)) ∧
    ((∀ y ∈ ys, y.1.isFin = true) → (∃ top, largest (ys.map (·.1)) top ∧ scaleOf (emaxOf fmt) top e) ∧
      (quantBlock fmt ys).2 = ys.map fun y => (convert fmt y.2 (y.1.scale (127 - e))).code) := by
  refine ⟨quantBlock_of_nonfinite, fun fin => ?_⟩
  obtain ⟨is_largest, top_fin, top_nonneg⟩ := largest_topFrom (l := ys.map (·.1)) (by simpa using fin)
  rw [quantBlock_of_finite fmt fin]
  exact ⟨⟨_, is_largest, scaleOf_floorLog2 _ top_fin top_nonneg⟩, rfl⟩

theorem max_min_values (x y : Num) :
    (x = .nan → x.max y = y ∧ x.min y = y) ∧ (y = .nan → x.max y = x ∧ x.min y = x) ∧
    (x = .nan → y = .nan → toF32 (x.max y) = 0x7FC00000 ∧ toF32 (x.min y) = 0x7FC00000) ∧
    (x.isZero = true → y.isZero = true → toF32 (x.max y) = 0 ∧ toF32 (x.min y) = 0) ∧
    (x.lt y = true → x.max y = y ∧ x.min y = x) ∧ (y.lt x = true → x.max y = x ∧ x.min y = y) ∧
    (x.lt y = false → y.lt x = false → x ≠ .nan → y ≠ .nan → x.max y = x ∧ x.min y = x ∧ x.le y = true ∧ y.le x = true) := by
  refine ⟨?_, ?_, ?_, fun hx hy => ⟨?_, ?_⟩, Num.max_min_of_lt, Num.max_min_of_gt, fun h g hx hy => ?_⟩
  · rintro rfl
    exact ⟨rfl, rfl⟩
  · rintro rfl
    exact ⟨Num.max_nan_right x, Num.min_nan_right x⟩
  · rintro rfl rfl
    exact ⟨rfl, rfl⟩
  · obtain eq | eq := Num.max_eq_or x y
    · rw [eq, toF32_of_isZero hx]
    · rw [eq, toF32_of_isZero hy]
  · obtain eq | eq := Num.min_eq_or x y
    · rw [eq, toF32_of_isZero hx]
    · rw [eq, toF32_of_isZero hy]
  · obtain ⟨max_eq, min_eq⟩ := Num.max_min_of_tie hx hy h g
    exact ⟨max_eq, min_eq, Num.le_of_not_lt hx hy g, Num.le_of_not_lt hy hx h⟩

/-- Settles O58: one lemma per clause. Rounding rests on `two_mul_abs_convQuot_sub_le`, the free values on `bounded_boundedBy` and
`boundedIn_flt`, and a block's scale on `topFrom_spec`. -/
theorem vectorValues : Obligations.VectorValues := by
  unfold Obligations.VectorValues
  exact ⟨vectorElem_values, conversion_nearest, isqrt_spec, fun a b c d => ⟨tree_two .., tree_three .., tree_four ..⟩, normRow_bounded,
    softmaxRow_bounded, lossRow_bounded, fun a xs ys => lossCodes_of_no_target, quantBlock_values, max_min_values⟩

end Sys2Proof.Machine
end

section
/-! SUPPORT. Rounding in any mode lands on a neighbour; what a conversion into two's complement decodes to (R29, R40). -/

namespace Sys2Proof.Machine

/-! ### Rounding in any mode (Table 2.8) -/

/-- The count of units is the floor of a quotient equal to n/d × 2^(e - q), or in any mode the next integer where it is not whole. -/
theorem roundUnits_floor_or_ceil (r : Rnd) (n : Nat) {d : Nat} (e q : Int) (hd : 0 < d) :
    ∃ n' d' : Nat, 0 < d' ∧ (n' : ℚ) / d' * 2 ^ q = n / d * 2 ^ e ∧
      (roundUnits r n d e q = n' / d' ∨ 0 < n' % d' ∧ roundUnits r n d e q = n' / d' + 1) := by
  refine ⟨if e ≥ q then n * 2 ^ (e - q).toNat else n, if e ≥ q then d else d * 2 ^ (q - e).toNat, ?_, ?_, ?_⟩
  · split <;> positivity
  · split
    case isTrue h =>
      push_cast
      rw [← two_pow_toNat_mul h]
      ring
    case isFalse h =>
      push_cast
      rw [← two_pow_toNat_mul (not_le.1 h).le]
      field_simp
  · unfold roundUnits
    generalize (if e ≥ q then n * 2 ^ (e - q).toNat else n) = n'
    have pos : 0 < (if e ≥ q then d else d * 2 ^ (q - e).toNat) := by split <;> positivity
    generalize (if e ≥ q then d else d * 2 ^ (q - e).toNat) = d' at pos
    cases r with
    | rtz => exact .inl rfl
    | rne =>
      simp only [gt_iff_lt, Bool.or_eq_true, Bool.and_eq_true, decide_eq_true_eq, beq_iff_eq]
      split
      · exact .inr ⟨by omega, rfl⟩
      · exact .inl rfl
    | sr draw =>
      dsimp only
      split
      case isTrue up =>
        refine .inr ⟨Nat.pos_of_ne_zero fun zero => ?_, rfl⟩
        rw [zero, Nat.zero_mul, Nat.zero_div] at up
        exact Nat.not_lt_zero _ up
      case isFalse => exact .inl rfl

/-- Every mode rounds to one of the two neighbours, and an exact value to itself. -/
theorem abs_roundUnits_sub_lt (r : Rnd) (n : Nat) {d : Nat} (e q : Int) (hd : 0 < d) :
    |(roundUnits r n d e q : ℚ) * 2 ^ q - n / d * 2 ^ e| < 2 ^ q := by
  obtain ⟨n', d', hd', same, neighbour⟩ := roundUnits_floor_or_ceil r n e q hd
  have hd'' : (0 : ℚ) < d' := Nat.cast_pos.2 hd'
  have parts : (n' : ℚ) / d' = (n' / d' : ℕ) + (n' % d' : ℕ) / d' := by
    rw [div_eq_iff hd''.ne', add_mul, div_mul_cancel₀ _ hd''.ne']
    exact_mod_cast (Nat.div_add_mod' n' d').symm
  have frac_lt : ((n' % d' : ℕ) : ℚ) / d' < 1 := (div_lt_one hd'').2 (Nat.cast_lt.2 (Nat.mod_lt _ hd'))
  rw [← same, ← sub_mul, abs_mul, abs_of_pos (two_zpow_pos q)]
  refine mul_lt_of_lt_one_left (two_zpow_pos q) (abs_lt.2 ?_)
  rw [parts]
  obtain eq | ⟨rest, eq⟩ := neighbour
  · have frac_nonneg : (0 : ℚ) ≤ (n' % d' : ℕ) / d' := by positivity
    rw [eq]
    constructor <;> linarith
  · have frac_pos : (0 : ℚ) < (n' % d' : ℕ) / d' := div_pos (Nat.cast_pos.2 rest) hd''
    rw [eq]
    push_cast
    constructor <;> linarith

/-! ### Two's complement codes (R29) -/

theorem decodeInt_eq_bmod {b : Nat} (hb : 0 < b) (c : Nat) : decodeInt b c = (c : Int).bmod (2 ^ b) := by
  obtain ⟨k, rfl⟩ := Nat.exists_eq_succ_of_ne_zero hb.ne'
  have top : bit c k = decide (2 ^ k ≤ c % 2 ^ (k + 1)) := by
    have quot : c / 2 ^ k % 2 = c % 2 ^ (k + 1) / 2 ^ k := by rw [pow_succ, Nat.mod_mul_right_div_self]
    have below : c % 2 ^ (k + 1) < 2 ^ k * 2 := by rw [← pow_succ]; exact Nat.mod_lt _ (by positivity)
    rw [bit, quot, Bool.eq_iff_iff, beq_iff_eq, decide_eq_true_eq, ← Nat.one_le_div_iff (by positivity)]
    have := Nat.div_lt_of_lt_mul below
    omega
  have half : (((2 ^ (k + 1) : Nat) : Int) + 1) / 2 = ((2 ^ k : Nat) : Int) := by push_cast; omega
  simp only [decodeInt, Nat.succ_eq_add_one, Nat.add_sub_cancel, top, decide_eq_true_eq, Int.bmod_def, half]
  simp only [← Int.natCast_emod, Nat.cast_lt]
  by_cases set : 2 ^ k ≤ c % 2 ^ (k + 1)
  · rw [if_pos set, if_neg (not_lt.2 set)]
    push_cast
    rfl
  · rw [if_neg set, if_pos (not_le.1 set)]

/-- The bits above a two's complement code do not count. -/
theorem decodeInt_mod {b : Nat} (hb : 0 < b) (c : Nat) : decodeInt b (c % 2 ^ b) = decodeInt b c := by
  rw [decodeInt_eq_bmod hb, decodeInt_eq_bmod hb, Int.natCast_emod, Nat.cast_pow, Nat.cast_two]
  exact Int.emod_bmod ..

theorem decodeInt_toNat_emod {b : Nat} {z : Int} (hb : 0 < b) (low : -2 ^ (b - 1) ≤ z) (high : z < 2 ^ (b - 1)) :
    decodeInt b (z % 2 ^ b).toNat = z := by
  obtain ⟨k, rfl⟩ := Nat.exists_eq_succ_of_ne_zero hb.ne'
  rw [decodeInt_eq_bmod hb, Int.toNat_of_nonneg (Int.emod_nonneg _ (by positivity))]
  simp only [Nat.succ_eq_add_one, Nat.add_sub_cancel] at low high ⊢
  have wide : (2 : Int) ^ (k + 1) = ((2 ^ (k + 1) : Nat) : Int) := by push_cast; rfl
  rw [wide, Int.emod_bmod]
  exact Int.bmod_eq_of_le (by push_cast; omega) (by push_cast; omega)

theorem decodeInt_of_lt {b c : Nat} (hb : 0 < b) (h : c < 2 ^ (b - 1)) : decodeInt b c = c := by
  have low : (-2 ^ (b - 1) : Int) ≤ c := (neg_nonpos.2 (by positivity)).trans (Int.natCast_nonneg c)
  have high : (c : Int) < 2 ^ (b - 1) := by exact_mod_cast h
  have short : (c : Int) < 2 ^ b := high.trans_le (pow_le_pow_right₀ one_le_two (Nat.sub_le ..))
  have := decodeInt_toNat_emod hb low high
  rwa [Int.emod_eq_of_lt (Int.natCast_nonneg c) short, Int.toNat_natCast] at this

theorem decodeInt_lowest {b : Nat} (hb : 0 < b) : decodeInt b (2 ^ (b - 1)) = -2 ^ (b - 1) := by
  have wide : (2 : Int) ^ b = 2 ^ (b - 1) + 2 ^ (b - 1) := by rw [← two_mul, ← pow_succ', Nat.sub_add_cancel hb]
  have pos : (0 : Int) < 2 ^ (b - 1) := by positivity
  have := decodeInt_toNat_emod hb le_rfl (neg_lt_self pos |>.trans_le le_rfl)
  rw [Int.emod_eq_add_self_emod, Int.emod_eq_of_lt (by omega) (by omega), wide, neg_add_cancel_left] at this
  exact_mod_cast this

/-! ### Conversion into two's complement (R40) -/

theorem signed_natAbs (m : Int) : signed (decide (m < 0)) m.natAbs = m := by
  by_cases neg : m < 0
  · simp only [signed, neg, decide_true, if_true]
    omega
  · simp only [signed, neg, decide_false, Bool.false_eq_true, if_false]
    omega

/-- The largest magnitude of a two's complement format with a sign. -/
def intLimit (b : Nat) (neg : Bool) : Nat := if neg then 2 ^ (b - 1) else 2 ^ (b - 1) - 1

theorem intLimit_false (b : Nat) : (intLimit b false : ℚ) = 2 ^ (b - 1) - 1 := by
  simp [intLimit, Nat.cast_sub Nat.one_le_two_pow]

theorem intLimit_true (b : Nat) : (intLimit b true : ℚ) = 2 ^ (b - 1) := by
  simp [intLimit]

theorem convInt_fin (b : Nat) (r : Rnd) (m e : Int) :
    convInt b r (.fin m e) =
      if (intLimit b (decide (m < 0)) : ℚ) < m.natAbs * 2 ^ e then { code := intLimit b (decide (m < 0)), sat := true }
      else { code := (signed (decide (m < 0)) (roundUnits r m.natAbs 1 e 0) % (2 : Int) ^ b).toNat } := by
  have limit : (Num.fin (intLimit b (decide (m < 0)) * 1 : Nat) 0).lt (.fin m.natAbs e) = true ↔
      (intLimit b (decide (m < 0)) : ℚ) < m.natAbs * 2 ^ e := by
    rw [Num.lt_iff rfl rfl]
    simp
  simp only [← limit]
  simp only [convInt, convIntQuot, intLimit]
  by_cases neg : m < 0 <;> simp only [neg, decide_true, decide_false, if_true, if_false, Bool.false_eq_true]

section
variable {b : Nat} (hb : 0 < b) (r : Rnd) {x : Num} (hx : x.isFin = true)
include hb hx

theorem convInt_above (h : 2 ^ (b - 1) - 1 < x.toRat) :
    decodeInt b (convInt b r x).code = 2 ^ (b - 1) - 1 ∧ (convInt b r x).sat = true := by
  obtain ⟨m, e, rfl⟩ := Num.exists_fin hx
  have one_le : (1 : ℚ) ≤ 2 ^ (b - 1) := one_le_pow₀ one_le_two
  have sign : decide (m < 0) = false := by
    rw [decide_eq_false_iff_not]
    intro neg
    have := (Num.isNeg_iff hx).1 (decide_eq_true neg)
    linarith
  lift m to ℕ using not_lt.1 (of_decide_eq_false sign)
  rw [convInt_fin, sign, if_pos (by simpa [intLimit_false] using h)]
  refine ⟨?_, rfl⟩
  rw [decodeInt_of_lt hb (by simp [intLimit])]
  simp [intLimit]

theorem convInt_below (h : x.toRat < -2 ^ (b - 1)) :
    decodeInt b (convInt b r x).code = -2 ^ (b - 1) ∧ (convInt b r x).sat = true := by
  obtain ⟨m, e, rfl⟩ := Num.exists_fin hx
  have pos : (0 : ℚ) < 2 ^ (b - 1) := by positivity
  have neg : m < 0 := of_decide_eq_true ((Num.isNeg_iff hx).2 (by linarith))
  have magnitude : (m.natAbs : ℚ) = -m := by rw [Nat.cast_natAbs, abs_of_neg neg]; push_cast; rfl
  have beyond : (intLimit b true : ℚ) < m.natAbs * 2 ^ e := by
    rw [intLimit_true, magnitude, neg_mul]
    rw [Num.toRat_fin] at h
    linarith
  rw [convInt_fin, decide_eq_true neg, if_pos beyond]
  exact ⟨decodeInt_lowest hb, rfl⟩

theorem convInt_within (low : -2 ^ (b - 1) ≤ x.toRat) (high : x.toRat ≤ 2 ^ (b - 1) - 1) :
    |(decodeInt b (convInt b r x).code : ℚ) - x.toRat| < 1 ∧ (convInt b r x).sat = false := by
  obtain ⟨m, e, rfl⟩ := Num.exists_fin hx
  have near := abs_roundUnits_sub_lt r m.natAbs e 0 one_pos
  have value : (Num.fin m e).toRat = signed (decide (m < 0)) m.natAbs * 2 ^ e := by rw [signed_natAbs, Num.toRat_fin]
  simp only [Nat.cast_one, div_one, zpow_zero, mul_one] at near
  rw [value] at low high ⊢
  rw [convInt_fin]
  generalize decide (m < 0) = neg at *
  generalize roundUnits r m.natAbs 1 e 0 = k at *
  have dist : |(signed neg k : ℚ) - signed neg m.natAbs * 2 ^ e| < 1 := by
    cases neg with
    | false => simpa [signed] using near
    | true =>
      rw [← abs_neg]
      simpa [signed, add_comm, sub_eq_add_neg] using near
  have inRange : m.natAbs * 2 ^ e ≤ (intLimit b neg : ℚ) := by
    cases neg with
    | false => rw [intLimit_false]; simpa [signed] using high
    | true =>
      rw [intLimit_true]
      simp only [signed, if_true, Int.cast_neg, Int.cast_natCast, neg_mul] at low
      linarith
  obtain ⟨above, below⟩ := abs_lt.1 dist
  have z_low : (-2 ^ (b - 1) : Int) ≤ signed neg k := by
    have : ((-2 ^ (b - 1) - 1 : Int) : ℚ) < signed neg k := by push_cast; linarith
    have := Int.cast_lt.1 this
    omega
  have z_high : signed neg k < 2 ^ (b - 1) := by
    have : (signed neg k : ℚ) < (2 ^ (b - 1) : Int) := by push_cast; linarith
    exact Int.cast_lt.1 this
  rw [if_neg (not_lt.2 inRange), decodeInt_toNat_emod hb z_low z_high]
  exact ⟨dist, rfl⟩

end

/-- A value up to the lowest code's magnitude converts to one within a unit, also where the upper limit clamps it. -/
theorem abs_convInt_sub_le {b : Nat} (hb : 0 < b) (r : Rnd) {x : Num} (hx : x.isFin = true) (h : |x.toRat| ≤ 2 ^ (b - 1)) :
    |(decodeInt b (convInt b r x).code : ℚ) - x.toRat| ≤ 1 := by
  obtain ⟨low, high⟩ := abs_le.1 h
  obtain within | above := le_or_gt x.toRat (2 ^ (b - 1) - 1)
  · exact (convInt_within hb r hx low within).1.le
  · rw [(convInt_above hb r hx above).1, abs_le]
    push_cast
    constructor <;> linarith

end Sys2Proof.Machine
end

section
/-! SUPPORT. The unit in the last place as a function of the value, and the values that a format with infinities holds exactly. -/

namespace Sys2Proof.Machine

/-! ### The unit in the last place (Table 2.11) -/

theorem ulpExp_of_ne_zero (f : Flt) {m : Int} (h : m ≠ 0) (e : Int) :
    ulpExp f (.fin m e) = lastPlace (f.fbits + 1) f.emin m.natAbs 1 e := by
  simp [ulpExp, h]

theorem Num.abs_toRat_fin (m e : Int) : |(Num.fin m e).toRat| = m.natAbs * 2 ^ e := by
  rw [toRat_fin, abs_mul, abs_of_pos (two_zpow_pos e), Nat.cast_natAbs, Int.cast_abs]

theorem ulpExp_ge (f : Flt) {x : Num} (hx : x.isFin = true) : f.emin - f.fbits ≤ ulpExp f x := by
  obtain ⟨m, e, rfl⟩ := Num.exists_fin hx
  simp only [ulpExp]
  split
  · rfl
  · exact lastPlace_ge (f.fbits + 1) ..

/-- From the subnormals' unit on, a unit is at least the last place's exactly when the magnitude is below the next binade. -/
theorem ulpExp_le_iff {f : Flt} {x : Num} (hx : x.isFin = true) {k : Int} (hk : f.emin - f.fbits ≤ k) :
    ulpExp f x ≤ k ↔ |x.toRat| < 2 ^ (k + f.fbits + 1) := by
  obtain ⟨m, e, rfl⟩ := Num.exists_fin hx
  obtain rfl | nonzero := eq_or_ne m 0
  · simp only [ulpExp, beq_self_eq_true, if_true, hk, Num.toRat_fin, Int.cast_zero, zero_mul, abs_zero, two_zpow_pos]
  have hn : 0 < m.natAbs := Int.natAbs_pos.2 nonzero
  have high := lt_lastPlace (p := f.fbits + 1) (Nat.succ_pos _) f.emin e hn one_pos
  have low := lastPlace_eq_or_le (p := f.fbits + 1) f.emin e hn one_pos
  rw [Num.abs_toRat_fin, ulpExp_of_ne_zero f nonzero]
  rw [Nat.cast_one, div_one] at high low
  rw [Nat.add_sub_cancel] at low
  generalize lastPlace (f.fbits + 1) f.emin m.natAbs 1 e = u at *
  rw [← zpow_natCast, ← two_zpow_add] at high low
  constructor
  · intro le
    exact high.trans_le (zpow_le_zpow_right₀ one_le_two (by push_cast; omega))
  · intro lt
    obtain rfl | ge := low
    · exact hk
    · have := (zpow_lt_zpow_iff_right₀ one_lt_two).1 (ge.trans_lt lt)
      omega

theorem abs_lt_ulp (f : Flt) {x : Num} (hx : x.isFin = true) : |x.toRat| < 2 ^ (ulpExp f x + f.fbits + 1) :=
  (ulpExp_le_iff hx (ulpExp_ge f hx)).1 le_rfl

/-- The last place depends on the value alone, not on its mantissa and exponent. -/
theorem ulpExp_congr (f : Flt) {x y : Num} (hx : x.isFin = true) (hy : y.isFin = true) (h : x.toRat = y.toRat) :
    ulpExp f x = ulpExp f y := by
  apply le_antisymm
  · rw [ulpExp_le_iff hx (ulpExp_ge f hy), h]
    exact abs_lt_ulp f hy
  · rw [ulpExp_le_iff hy (ulpExp_ge f hx), ← h]
    exact abs_lt_ulp f hx

/-! ### Values that a format holds exactly -/

theorem roundUnits_of_multiple (r : Rnd) {n k : Nat} {e q : Int} (h : (n : ℚ) * 2 ^ e = k * 2 ^ q) : roundUnits r n 1 e q = k := by
  have near := abs_roundUnits_sub_lt r n e q one_pos
  rw [Nat.cast_one, div_one, h, ← sub_mul, abs_mul, abs_of_pos (two_zpow_pos q), mul_lt_iff_lt_one_left (two_zpow_pos q)] at near
  have near' : |(roundUnits r n 1 e q : Int) - k| < 1 := by exact_mod_cast near
  have := Int.abs_lt_one_iff.1 near'
  omega

section
variable {f : Flt} (hb : 0 < f.ebits) (hi : f.hasInf = true)
include hi

theorem convQuot_rne_code (neg : Bool) {n d : Nat} (e : Int) (hn : n ≠ 0) :
    (convQuot f .rne neg n d e).code =
      if (Num.fin d (f.maxUnit + f.fbits + 1)).le (.fin n e) then
        (if neg then 2 ^ (f.ebits + f.fbits) else 0) + (2 ^ f.ebits - 1) * 2 ^ f.fbits
      else packFlt f neg (roundUnits .rne n d e (lastPlace (f.fbits + 1) f.emin n d e)) (lastPlace (f.fbits + 1) f.emin n d e) := by
  simp [convQuot, hn, hi, apply_ite Conv.code]

include hb

theorem packFlt_isFin (neg : Bool) {k : Nat} {q : Int} (hk : k < 2 ^ (f.fbits + 1)) (hq : q ≤ f.maxUnit) :
    (decodeFlt f (packFlt f neg k q)).isFin = true := by
  by_cases short : k < 2 ^ f.fbits
  · exact (decodeFlt_packFlt_subnormal hb hi neg q short).1
  have nonzero : k ≠ 0 := (Nat.two_pow_pos f.fbits |>.trans_le (not_lt.1 short)).ne'
  have two_le : 2 ^ 1 ≤ 2 ^ f.ebits := Nat.pow_le_pow_right two_pos hb
  have inRange : (q + f.fbits + f.bias).toNat < 2 ^ f.ebits - 1 := by
    have cast : ((2 ^ f.ebits : Nat) : Int) = 2 ^ f.ebits := by push_cast; rfl
    simp only [Flt.maxUnit, hi, if_true] at hq
    omega
  have code : packFlt f neg k q = f.assemble neg (q + f.fbits + f.bias).toNat (k - 2 ^ f.fbits) := by
    simp [packFlt, Flt.assemble, hi, nonzero, short, not_le.2 hk, not_le.2 inRange]
  rw [pow_succ] at hk
  rw [code, decodeFlt_assemble hb hi neg (by omega) (by omega), if_neg (by omega)]
  split <;> rfl

/-- A multiple of its own last place, of the format's range, converts to its own value. -/
theorem convFlt_exact {x : Num} (hx : x.isFin = true) {k : Int} (range : ulpExp f x ≤ f.maxUnit)
    (multiple : x.toRat = k * 2 ^ ulpExp f x) :
    (decodeFlt f (convFlt f .rne x).code).isFin = true ∧ (decodeFlt f (convFlt f .rne x).code).toRat = x.toRat := by
  have short := abs_lt_ulp f hx
  have low := ulpExp_ge f hx
  obtain ⟨m, e, rfl⟩ := Num.exists_fin hx
  obtain rfl | nonzero := eq_or_ne m 0
  · have code : (convFlt f .rne (.fin 0 e)).code = 0 := rfl
    rw [code, decodeFlt_zero hb hi]
    simp
  have hn : m.natAbs ≠ 0 := Int.natAbs_ne_zero.2 nonzero
  have place := (ulpExp_of_ne_zero f nonzero e).symm
  have full := lastPlace_eq_or_le (p := f.fbits + 1) f.emin e (Nat.pos_of_ne_zero hn) one_pos
  have units : (m.natAbs : ℚ) * 2 ^ e = k.natAbs * 2 ^ ulpExp f (.fin m e) := by
    rw [← Num.abs_toRat_fin, multiple, abs_mul, abs_of_pos (two_zpow_pos _), Nat.cast_natAbs, Int.cast_abs]
  have value : (Num.fin m e).toRat = signed (decide (m < 0)) k.natAbs * 2 ^ ulpExp f (.fin m e) := by
    have sign : (m : ℚ) = signed (decide (m < 0)) m.natAbs := by rw [signed_natAbs]
    rw [Num.toRat_fin, sign]
    cases decide (m < 0) with
    | false => exact_mod_cast units
    | true =>
      simp only [signed, if_true, Int.cast_neg, Int.cast_natCast, neg_mul]
      rw [units]
  have inFormat : (Num.fin (1 : ℕ) (f.maxUnit + f.fbits + 1)).le (.fin m.natAbs e) = false := by
    rw [Bool.eq_false_iff, ne_eq, Num.le_iff rfl rfl, not_le, Num.toRat_fin, Num.toRat_fin, Int.cast_natCast,
      ← Num.abs_toRat_fin]
    simpa using short.trans_le (zpow_le_zpow_right₀ one_le_two (by omega))
  rw [convFlt, convQuot_rne_code hi _ _ hn, inFormat, if_neg Bool.false_ne_true, place, roundUnits_of_multiple .rne units, value]
  rw [Num.abs_toRat_fin, units, add_assoc, two_zpow_add, mul_comm, mul_lt_mul_iff_of_pos_left (two_zpow_pos _)] at short
  rw [place, Nat.cast_one, div_one, units, Nat.add_sub_cancel, mul_le_mul_iff_of_pos_right (two_zpow_pos _)] at full
  have high : k.natAbs < 2 ^ (f.fbits + 1) := by exact_mod_cast short
  have fin := packFlt_isFin hb hi (decide (m < 0)) high range
  exact ⟨fin, decodeFlt_packFlt hb hi _ low high.le (full.imp_right fun h => by exact_mod_cast h) fin⟩

end

end Sys2Proof.Machine
end

section
/-! SUPPORT. The weight write of UPDATE: the weight and the carry lie together within one carry unit of the result (R221). -/

namespace Sys2Proof.Machine

/-! ### The weight write (R221) -/

/-- A multiple of a unit with at most one bit more than a significand is one of its own last place. -/
theorem multiple_of_ulp {f : Flt} {x : Num} (hx : x.isFin = true) {k u : Int} (hu : f.emin - f.fbits ≤ u)
    (hk : |k| ≤ 2 ^ (f.fbits + 1)) (multiple : x.toRat = k * 2 ^ u) : ∃ k' : Int, x.toRat = k' * 2 ^ ulpExp f x := by
  have magnitude : |x.toRat| = |k| * 2 ^ u := by rw [multiple, abs_mul, abs_of_pos (two_zpow_pos u), Int.cast_abs]
  have carried : (2 : ℚ) ^ (u + f.fbits + 1) = (2 ^ (f.fbits + 1) : Int) * 2 ^ u := by
    rw [add_assoc, two_zpow_add, mul_comm]
    norm_cast
  obtain short | full := hk.lt_or_eq
  · have below : ulpExp f x ≤ u := by
      rw [ulpExp_le_iff hx hu, magnitude, carried]
      exact mul_lt_mul_of_pos_right (Int.cast_lt.2 short) (two_zpow_pos u)
    refine ⟨k * 2 ^ (u - ulpExp f x).toNat, ?_⟩
    push_cast
    rw [multiple, mul_assoc, two_pow_toNat_mul below]
  · have above : ¬ulpExp f x ≤ u := by
      rw [ulpExp_le_iff hx hu, magnitude, carried, full]
      exact lt_irrefl _
    have below : ulpExp f x ≤ u + 1 := by
      rw [ulpExp_le_iff hx (by omega), magnitude, full, ← carried]
      exact zpow_lt_zpow_right₀ one_lt_two (by omega)
    obtain ⟨half, rfl⟩ : (2 : Int) ∣ k := (dvd_abs 2 k).1 (full ▸ dvd_pow_self 2 (Nat.succ_ne_zero _))
    have place : ulpExp f x = u + 1 := by omega
    refine ⟨half, ?_⟩
    rw [multiple, place, two_zpow_add]
    push_cast
    ring

/-- `nearestUp` is a multiple of the last place, at most half of it away. -/
theorem nearestUp_spec {x : Num} (hx : x.isFin = true) : (nearestUp x).isFin = true ∧ ∃ k : Int,
    (nearestUp x).toRat = k * 2 ^ ulpExp fltBf16 x ∧ 2 * |x.toRat - (nearestUp x).toRat| ≤ 2 ^ ulpExp fltBf16 x := by
  obtain ⟨m, e, rfl⟩ := Num.exists_fin hx
  by_cases whole : ulpExp fltBf16 (.fin m e) ≤ e
  · have same : nearestUp (.fin m e) = .fin m e := by simp [nearestUp, whole]
    rw [same]
    refine ⟨hx, m * 2 ^ (e - ulpExp fltBf16 (.fin m e)).toNat, ?_, ?_⟩
    · push_cast
      rw [mul_assoc, two_pow_toNat_mul whole, Num.toRat_fin]
    · simpa using (two_zpow_pos _).le
  · have unit := two_pow_toNat_mul (not_le.1 whole).le
    simp only [nearestUp, ge_iff_le, whole, if_false]
    generalize ulpExp fltBf16 (.fin m e) = u at *
    refine ⟨rfl, _, rfl, ?_⟩
    rw [Num.toRat_fin, Num.toRat_fin, ← unit]
    generalize (u - e).toNat = n
    have pos : (0 : Int) < 2 * 2 ^ n := by positivity
    have floor := Int.mul_ediv_self_le (x := 2 * m + 2 ^ n) pos.ne'
    have ceil := Int.lt_mul_ediv_self_add (x := 2 * m + 2 ^ n) pos
    generalize (2 * m + 2 ^ n) / (2 * 2 ^ n) = k at *
    have near : |2 * (m - k * 2 ^ n)| ≤ (2 : Int) ^ n := abs_le.2 (by constructor <;> linarith)
    rw [← mul_assoc, ← sub_mul, abs_mul, abs_of_pos (two_zpow_pos e), ← mul_assoc]
    refine mul_le_mul_of_nonneg_right ?_ (two_zpow_pos e).le
    rw [abs_mul] at near
    exact_mod_cast near

/-- A nearest multiple keeps the bound of a magnitude that is itself a multiple. -/
theorem abs_le_of_near {k l : Int} {x u : ℚ} (hu : 0 < u) (near : 2 * |x - k * u| ≤ u) (h : |x| ≤ l * u) : |k| ≤ l := by
  have triangle : |(k : ℚ)| * u ≤ |x| + |x - k * u| := by
    rw [← abs_of_pos hu, ← abs_mul, abs_of_pos hu]
    have := abs_sub_abs_le_abs_sub (k * u) x
    rw [abs_sub_comm] at this
    linarith
  have below : |(k : ℚ)| * u < (l + 1) * u := by linarith
  have : |(k : ℚ)| < l + 1 := lt_of_mul_lt_mul_of_nonneg_right below hu.le
  have : |k| < l + 1 := by exact_mod_cast this
  omega

/-- The binade above a BF16 last place begins at 256 units. -/
theorem two_zpow_bf16 (u : Int) : (2 : ℚ) ^ (u + fltBf16.fbits + 1) = (256 : Int) * 2 ^ u := by
  rw [add_assoc, two_zpow_add, mul_comm]
  norm_num [fltBf16]

theorem nearestUp_multiple {x : Num} (hx : x.isFin = true) :
    ∃ k : Int, (nearestUp x).toRat = k * 2 ^ ulpExp fltBf16 (nearestUp x) := by
  obtain ⟨fin, k, multiple, near⟩ := nearestUp_spec hx
  have short := abs_lt_ulp fltBf16 hx
  rw [two_zpow_bf16] at short
  exact multiple_of_ulp fin (ulpExp_ge fltBf16 hx) (abs_le_of_near (two_zpow_pos _) (multiple ▸ near) short.le) multiple

/-- Rounding to BF16 does not lower the last place. -/
theorem ulpExp_le_nearestUp {x : Num} (hx : x.isFin = true) : ulpExp fltBf16 x ≤ ulpExp fltBf16 (nearestUp x) := by
  obtain ⟨fin, k, multiple, near⟩ := nearestUp_spec hx
  have low := ulpExp_ge fltBf16 fin
  by_contra lower
  have wide : ¬ulpExp fltBf16 x ≤ ulpExp fltBf16 x - 1 := by omega
  have narrow : ulpExp fltBf16 (nearestUp x) ≤ ulpExp fltBf16 x - 1 := by omega
  rw [ulpExp_le_iff hx (by omega), two_zpow_bf16, not_lt] at wide
  rw [ulpExp_le_iff fin (by omega), two_zpow_bf16] at narrow
  generalize ulpExp fltBf16 x = u at *
  have half : (2 : ℚ) ^ u = 2 * 2 ^ (u - 1) := by rw [← zpow_one_add₀ two_ne_zero, add_sub_cancel]
  have pos := two_zpow_pos (u - 1)
  have magnitude : |(nearestUp x).toRat| = |(k : ℚ)| * (2 * 2 ^ (u - 1)) := by
    rw [multiple, abs_mul, abs_of_pos (two_zpow_pos u), half]
  rw [magnitude] at narrow
  have count : |k| * 2 < 256 := by
    have : |(k : ℚ)| * 2 < (256 : Int) := lt_of_mul_lt_mul_of_nonneg_right (by linarith) pos.le
    exact_mod_cast this
  have few : |(k : ℚ)| ≤ 127 := by exact_mod_cast (by omega : |k| ≤ 127)
  have triangle := abs_sub_abs_le_abs_sub x.toRat (nearestUp x).toRat
  have := mul_le_mul_of_nonneg_right few pos.le
  push_cast at wide
  linarith

theorem maxUnit_bf16 : fltBf16.maxUnit = 120 := by decide

theorem ulpExp_le_of_inRange {x : Num} (hx : x.isFin = true) (h : |x.toRat| ≤ 255 * 2 ^ 120) : ulpExp fltBf16 x ≤ 120 := by
  rw [ulpExp_le_iff hx (by decide)]
  exact h.trans_lt (by norm_num [fltBf16])

/-- Within the range the clamp of `nearestBf16` is idle. -/
theorem nearestBf16_of_inRange {x : Num} (hx : x.isFin = true) (h : |x.toRat| ≤ 255 * 2 ^ 120) :
    nearestBf16 x = nearestUp x ∧ |(nearestUp x).toRat| ≤ 255 * 2 ^ 120 := by
  obtain ⟨fin, k, multiple, near⟩ := nearestUp_spec hx
  have top : (255 : ℚ) * 2 ^ 120 = (255 * 2 ^ (120 - ulpExp fltBf16 x).toNat : Int) * 2 ^ ulpExp fltBf16 x := by
    push_cast
    rw [mul_assoc, two_pow_toNat_mul (ulpExp_le_of_inRange hx h)]
    norm_num
  have bound : |(nearestUp x).toRat| ≤ 255 * 2 ^ 120 := by
    rw [top] at h ⊢
    rw [multiple] at near ⊢
    have := abs_le_of_near (two_zpow_pos _) near h
    rw [abs_mul, abs_of_pos (two_zpow_pos _)]
    exact mul_le_mul_of_nonneg_right (by exact_mod_cast this) (two_zpow_pos _).le
  obtain ⟨low, high⟩ := abs_le.1 bound
  have notAbove : (maxBf16 false).lt (nearestUp x) = false := by
    rw [Bool.eq_false_iff, ne_eq, maxBf16, Num.lt_iff rfl fin, not_lt]
    simpa [signed] using high
  have notBelow : (nearestUp x).lt (maxBf16 true) = false := by
    rw [Bool.eq_false_iff, ne_eq, maxBf16, Num.lt_iff fin rfl, not_lt]
    simpa [signed] using low
  exact ⟨by simp [nearestBf16, notAbove, notBelow], bound⟩

theorem weightWrite_of_inRange (r : Rnd) {w t : Num} {c : Int} {x : Num} (eq : x = t.add (.fin c (ulpExp fltBf16 w - 8)))
    (hx : x.isFin = true) (h : |x.toRat| ≤ 255 * 2 ^ 120) : weightWrite r w c t =
      ((convFlt fltBf16 .rne (nearestUp x)).code,
        (convInt 8 r ((x.sub (nearestUp x)).scale (8 - ulpExp fltBf16 (nearestUp x)))).code) := by
  obtain ⟨fin_abs, rat_abs⟩ := Num.toRat_abs hx
  have below : (Num.fin 1 128).le x.abs = false := by
    rw [Bool.eq_false_iff, ne_eq, Num.le_iff rfl fin_abs, rat_abs, not_le]
    exact h.trans_lt (by norm_num)
  have nearest := (nearestBf16_of_inRange hx h).1
  simp only [weightWrite, ← eq]
  obtain ⟨m, e, rfl⟩ := Num.exists_fin hx
  simp only [below, Bool.false_eq_true, if_false, nearest]

/-- In range, the weight written has the value and the last place that `nearestUp` finds. -/
theorem nearestUp_held {x : Num} (hx : x.isFin = true) (h : |x.toRat| ≤ 255 * 2 ^ 120) :
    let written := decodeFlt fltBf16 (convFlt fltBf16 .rne (nearestUp x)).code
    written.isFin = true ∧ written.toRat = (nearestUp x).toRat ∧ ulpExp fltBf16 written = ulpExp fltBf16 (nearestUp x) := by
  have fin := (nearestUp_spec hx).1
  have range := ulpExp_le_of_inRange fin (nearestBf16_of_inRange hx h).2
  obtain ⟨k, multiple⟩ := nearestUp_multiple hx
  obtain ⟨fin_written, rat_written⟩ := convFlt_exact (f := fltBf16) (by decide) rfl fin (maxUnit_bf16 ▸ range) multiple
  exact ⟨fin_written, rat_written, ulpExp_congr fltBf16 fin_written fin rat_written⟩

/-- The rounding error of the weight fits a carry, which gives it back to within one unit. -/
theorem nearestUp_carry (r : Rnd) {x : Num} (hx : x.isFin = true) :
    let u := ulpExp fltBf16 (nearestUp x)
    |(nearestUp x).toRat + decodeInt 8 (convInt 8 r ((x.sub (nearestUp x)).scale (8 - u))).code * 2 ^ (u - 8) - x.toRat| ≤
      2 ^ (u - 8) := by
  intro u
  obtain ⟨fin, -, -, near⟩ := nearestUp_spec hx
  obtain ⟨fin_diff, rat_diff⟩ := Num.toRat_sub hx fin
  obtain ⟨fin_quot, rat_quot⟩ := Num.toRat_scale fin_diff (8 - u)
  rw [rat_diff] at rat_quot
  have higher : (2 : ℚ) ^ ulpExp fltBf16 x ≤ 2 ^ u := zpow_le_zpow_right₀ one_le_two (ulpExp_le_nearestUp hx)
  have unit : (2 : ℚ) ^ u * 2 ^ (8 - u) = 256 := by
    rw [← two_zpow_add, add_sub_cancel]
    norm_num
  have back : (2 : ℚ) ^ (8 - u) * 2 ^ (u - 8) = 1 := by
    rw [← two_zpow_add, sub_add_sub_cancel, sub_self, zpow_zero]
  have small : |((x.sub (nearestUp x)).scale (8 - u)).toRat| ≤ 2 ^ (8 - 1) := by
    have := mul_le_mul_of_nonneg_right (near.trans higher) (two_zpow_pos (8 - u)).le
    rw [unit] at this
    rw [rat_quot, abs_mul, abs_of_pos (two_zpow_pos _)]
    norm_num
    linarith
  have carry := abs_convInt_sub_le (by decide) r fin_quot small
  rw [rat_quot] at carry
  generalize decodeInt 8 (convInt 8 r ((x.sub (nearestUp x)).scale (8 - u))).code = z at *
  have pos := two_zpow_pos (u - 8)
  have := mul_le_mul_of_nonneg_right carry pos.le
  rw [one_mul, ← abs_of_pos pos, ← abs_mul, abs_of_pos pos, sub_mul, mul_assoc, back, mul_one] at this
  rwa [add_sub_right_comm, ← neg_sub x.toRat, neg_add_eq_sub]

theorem Num.abs_add_sub_le_iff {a b x y : Num} (ha : a.isFin = true) (hb : b.isFin = true) (hx : x.isFin = true) (hy : y.isFin = true) :
    ((a.add b).sub x).abs.le y = true ↔ |a.toRat + b.toRat - x.toRat| ≤ y.toRat := by
  obtain ⟨fin_sum, rat_sum⟩ := toRat_add ha hb
  obtain ⟨fin_err, rat_err⟩ := toRat_sub fin_sum hx
  obtain ⟨fin_abs, rat_abs⟩ := toRat_abs fin_err
  rw [le_iff fin_abs hy, rat_abs, rat_err, rat_sum]

/-- The weight and the carry written lie together within one carry unit of the result. -/
theorem weightWrite_near (r : Rnd) (w t : Num) (c : Int) :
    let x := t.add (.fin c (ulpExp fltBf16 w - 8))
    let written := decodeFlt fltBf16 (weightWrite r w c t).1
    let unit := ulpExp fltBf16 written - 8
    x.isFin = true → x.abs.le (maxBf16 false) = true →
      (((written.add (.fin (decodeInt 8 (weightWrite r w c t).2) unit)).sub x).abs.le (.fin 1 unit)) = true := by
  intro x written unit hx le_max
  have range : |x.toRat| ≤ 255 * 2 ^ 120 := by
    obtain ⟨fin_abs, rat_abs⟩ := Num.toRat_abs hx
    rw [maxBf16, Num.le_iff fin_abs rfl, rat_abs] at le_max
    simpa [signed] using le_max
  have eq := weightWrite_of_inRange (x := x) r rfl hx range
  obtain ⟨fin_written, rat_written, place⟩ := nearestUp_held hx range
  simp only [unit, written, eq]
  rw [place, Num.abs_add_sub_le_iff fin_written rfl hx rfl, rat_written]
  simpa using nearestUp_carry r hx

end Sys2Proof.Machine
end

section
/-! SUPPORT. The splint array: promotions, the accumulators of a tile, and the ladder of rungs (R60, R62, R91, R102, R126, R127). -/

namespace Sys2Proof.Machine

/-! ### Promotions (R60, R62) -/

theorem bits_mod {c hi lo n : Nat} (h : hi < n) (hlo : lo ≤ n) : bits (c % 2 ^ n) hi lo = bits c hi lo := by
  obtain ⟨k, rfl⟩ := Nat.exists_eq_add_of_le hlo
  rw [bits, bits, pow_add, Nat.mod_mul_right_div_self, Nat.mod_mod_of_dvd]
  exact pow_dvd_pow 2 (by omega)

theorem bit_mod {c i n : Nat} (h : i < n) : bit (c % 2 ^ n) i = bit c i := by
  have := bits_mod (c := c) h h.le
  simp only [bits, Nat.add_sub_cancel_left, pow_one] at this
  rw [bit, bit, this]

/-- The bits above a float code do not count. -/
theorem decodeFlt_mod {f : Flt} (hb : 0 < f.ebits) {n : Nat} (hn : f.ebits + f.fbits < n) (c : Nat) :
    decodeFlt f (c % 2 ^ n) = decodeFlt f c := by
  have low {k : Nat} (hk : k ≤ n) : c % 2 ^ n % 2 ^ k = c % 2 ^ k := Nat.mod_mod_of_dvd _ (pow_dvd_pow 2 hk)
  simp only [decodeFlt, bit_mod hn, bits_mod (c := c) (show f.ebits + f.fbits - 1 < n by omega) (show f.fbits ≤ n by omega),
    low (show f.fbits ≤ n by omega), low hn.le]

theorem w40_toNat (code : Nat) : w40 (BitVec.ofNat 40 code).toNat = w40 code := by
  rw [BitVec.toNat_ofNat, w40, w40, decodeFlt_mod (by decide) (by decide)]

/-- What one promotion of full service does. -/
theorem promote_wide (index : Nat) (c : Chain) (x w : List (List Num × Nat)) :
    let r := promote .wide index c x w
    let sum := (List.zipWith (fun u v => blockSum false u.1 v.1 u.2 v.2) x w).foldl (fun t b => t.add b.sum) (w40 c.code.toNat)
    r.j = c.j + 1 ∧ r.sats = c.sats ∧ w40 r.code.toNat = w40 (toW40 sum) := by
  refine ⟨rfl, ?_, w40_toNat _⟩
  have notRaw : (Acc.wide == Acc.raw) = false := by decide
  simp only [promote, notRaw, Bool.and_false]
  rfl

theorem promote_wide_nearest (index : Nat) (c : Chain) (x w : List (List Num × Nat)) (m e : Int)
    (sum : (List.zipWith (fun u v => blockSum false u.1 v.1 u.2 v.2) x w).foldl (fun t b => t.add b.sum) (w40 c.code.toNat) = .fin m e) :
    let r := promote .wide index c x w
    r.j = c.j + 1 ∧ r.sats = c.sats ∧
      ((w40 r.code.toNat).isFin = true → fltW40.nearest r.code.toNat (decide (m < 0)) m.natAbs 1 e) := by
  obtain ⟨j, sats, value⟩ := promote_wide index c x w
  rw [sum] at value
  refine ⟨j, sats, fun fin => (Flt.nearest_iff _ _ _ one_pos fin).2 ?_⟩
  rw [value] at fin
  have same := congrArg Num.toRat value
  rw [w40] at same
  rw [same]
  exact two_mul_abs_convQuot_sub_le (by decide) rfl _ _ _ one_pos fin

/-- Integers as exact values. -/
def ints (l : List Int) : List Num := l.map fun i => .fin i 0

theorem Num.add_int (m n : Int) : (Num.fin m 0).add (.fin n 0) = .fin (m + n) 0 := by simp [Num.add]

theorem foldl_add_ints (l : List Int) (v : Int) : (ints l).foldl Num.add (.fin v 0) = .fin (v + l.sum) 0 := by
  induction l generalizing v with
  | nil => simp [ints]
  | cons i l ih =>
    rw [ints, List.map_cons, List.foldl_cons, Num.add_int, ← ints, ih, List.sum_cons, add_assoc]

theorem zipWith_mul_ints : ∀ x w : List Int, List.zipWith Num.mul (ints x) (ints w) = ints (List.zipWith (· * ·) x w)
  | [], _ => by simp [ints]
  | _ :: _, [] => by simp [ints]
  | i :: x, k :: w => by
    have ih := zipWith_mul_ints x w
    simp only [ints, List.map_cons, List.zipWith_cons_cons] at ih ⊢
    rw [ih]
    rfl

theorem ints_finite (l : List Int) : (ints l).any (fun p => !p.isFin) = false := by simp [ints]

/-- A block of integers without scales: its exact sum, with no product flushed. -/
theorem blockSum_raw (x w : List Int) : blockSum true (ints x) (ints w) 127 127 = { sum := .fin (List.zipWith (· * ·) x w).sum 0 } := by
  simp [blockSum, zipWith_mul_ints, ints_finite, foldl_add_ints, Num.scale]

/-- What one promotion of raw integer mode does. -/
theorem promote_raw (index : Nat) (c : Chain) (blocks : List (List Int × List Int)) :
    let exact := decodeInt 32 (c.code.toNat % 2 ^ 32) + (blocks.map fun b => (List.zipWith (· * ·) b.1 b.2).sum).sum
    let rounded := convInt 32 .rne (.fin exact 0)
    promote .raw index c (blocks.map fun b => (ints b.1, 127)) (blocks.map fun b => (ints b.2, 127)) =
      { code := BitVec.ofNat 40 rounded.code, lost := c.lost, sats := c.sats + b2n rounded.sat, j := c.j + 1 } := by
  intro exact rounded
  have sums : List.zipWith (fun (u v : List Num × Nat) => blockSum true u.1 v.1 u.2 v.2) (blocks.map fun b => (ints b.1, 127))
      (blocks.map fun b => (ints b.2, 127)) = blocks.map fun b => { sum := .fin (List.zipWith (· * ·) b.1 b.2).sum 0 } := by
    simp [blockSum_raw]
  have total : (blocks.map fun b => ({ sum := .fin (List.zipWith (· * ·) b.1 b.2).sum 0 } : BlockSum)).foldl
      (fun (t : Num) b => t.add b.sum) (.fin (decodeInt 32 (c.code.toNat % 2 ^ 32)) 0) = .fin exact 0 := by
    simp [exact, ← foldl_add_ints, ints, List.foldl_map]
  have flushed :
      ((blocks.map fun b => ({ sum := .fin (List.zipWith (· * ·) b.1 b.2).sum 0 } : BlockSum)).map BlockSum.lost).sum = 0 := by
    simp [Function.comp_def]
  have isRaw : (Acc.raw == Acc.raw) = true := by decide
  simp only [promote, isRaw, Acc.value, Acc.round, Bool.and_true, sums, total, flushed, ite_self, Nat.add_zero]
  rfl

/-- INT32 addition that saturates (R62). -/
theorem convInt_int (exact : Int) :
    decodeInt 32 (convInt 32 .rne (.fin exact 0)).code = max (-2147483648) (min 2147483647 exact) ∧
    b2n (convInt 32 .rne (.fin exact 0)).sat = if exact < -2147483648 ∨ 2147483647 < exact then 1 else 0 := by
  have value : (Num.fin exact 0).toRat = exact := by simp
  obtain below | low := lt_or_ge exact (-2147483648)
  · have h : (exact : ℚ) < -2147483648 := by exact_mod_cast below
    obtain ⟨code, sat⟩ := convInt_below (b := 32) (by decide) .rne (x := .fin exact 0) rfl (by rw [value]; norm_num; exact h)
    rw [code, sat, if_pos (.inl below)]
    exact ⟨by norm_num; omega, rfl⟩
  obtain above | high := lt_or_ge 2147483647 exact
  · have h : 2147483647 < (exact : ℚ) := by exact_mod_cast above
    obtain ⟨code, sat⟩ := convInt_above (b := 32) (by decide) .rne (x := .fin exact 0) rfl (by rw [value]; norm_num; exact h)
    rw [code, sat, if_pos (.inr above)]
    exact ⟨by norm_num; omega, rfl⟩
  · have hl : (-2147483648 : ℚ) ≤ exact := by exact_mod_cast low
    have hh : (exact : ℚ) ≤ 2147483647 := by exact_mod_cast high
    obtain ⟨near, sat⟩ := convInt_within (b := 32) (by decide) .rne (x := .fin exact 0) rfl (by rw [value]; norm_num; exact hl)
      (by rw [value]; norm_num; exact hh)
    rw [value] at near
    have near' : |decodeInt 32 (convInt 32 .rne (.fin exact 0)).code - exact| < 1 := by exact_mod_cast near
    have same := Int.abs_lt_one_iff.1 near'
    rw [sat, if_neg (by omega)]
    exact ⟨by omega, rfl⟩

theorem promote_raw_exact (index : Nat) (c : Chain) (blocks : List (List Int × List Int)) (v : Int)
    (hv : v = decodeInt 32 (c.code.toNat % 2 ^ 32)) :
    let ints (l : List Int) := l.map fun i => Num.fin i 0
    let exact := v + (blocks.map fun b => (List.zipWith (· * ·) b.1 b.2).sum).sum
    let r := promote .raw index c (blocks.map fun b => (ints b.1, 127)) (blocks.map fun b => (ints b.2, 127))
    r.lost = c.lost ∧ r.j = c.j + 1 ∧
      decodeInt 32 (r.code.toNat % 2 ^ 32) = max (-2147483648) (min 2147483647 exact) ∧
      r.sats = c.sats + (if exact < -2147483648 ∨ 2147483647 < exact then 1 else 0) := by
  subst hv
  intro ints' exact r
  obtain ⟨code, sats⟩ := convInt_int exact
  have eq : r = _ := promote_raw index c blocks
  rw [eq]
  refine ⟨rfl, rfl, ?_, congrArg (c.sats + ·) sats⟩
  rw [BitVec.toNat_ofNat, Nat.mod_mod_of_dvd _ (pow_dvd_pow 2 (by decide)), decodeInt_mod (by decide)]
  exact code

/-! ### Accumulators of a tile (R126, R127) -/

/-- The outputs of a tile, as rows and columns of the result. -/
def Tile.cells (t : Tile) : List (Nat × Nat) :=
  (List.range t.rows).flatMap fun i => (List.range t.cols).map fun k => (t.r0 + i, t.c0 + k)

theorem Tile.mem_cells (t : Tile) (m n : Nat) :
    (m, n) ∈ t.cells ↔ t.r0 ≤ m ∧ m < t.r0 + t.rows ∧ t.c0 ≤ n ∧ n < t.c0 + t.cols := by
  simp only [cells, List.mem_flatMap, List.mem_map, List.mem_range, Prod.mk.injEq]
  constructor
  · rintro ⟨i, hi, k, hk, rfl, rfl⟩
    omega
  · rintro ⟨hm, hm', hn, hn'⟩
    exact ⟨m - t.r0, by omega, n - t.c0, by omega, by omega, by omega⟩

/-- INIT of one accumulator. -/
def initCell (j : Job) (t : Tile) (r : Run) (a : Nat × Nat) : Run :=
  let c := j.init a.1 a.2
  let r := { r with coil := tset 0 r.coil (t.key a.1 a.2) (BitVec.ofNat 40 c.code) }
  if c.sat && j.acc == .raw then
    (r.statOf j fun u => { u with saturations := sat64 (u.saturations + 1) }).bump t.stake 10 1
  else r

/-- What INIT does before it sets the accumulators. -/
def clearLost (j : Job) (t : Tile) (r : Run) : Run :=
  let r := { r with lost := tset 0 r.lost t.p 0 }
  if j.beta.isSome then r.bump t.stake 25 t.rows else r

theorem beginTile_eq (j : Job) (t : Tile) (r : Run) : beginTile j t r = t.cells.foldl (initCell j t) (clearLost j t r) := by
  simp only [Tile.cells, List.foldl_flatMap, List.foldl_map]
  rfl

@[simp] theorem Run.statOf_coil (r : Run) (j : Job) (f : TStats → TStats) : (r.statOf j f).coil = r.coil := by
  unfold Run.statOf
  split <;> rfl

@[simp] theorem Run.statOf_lost (r : Run) (j : Job) (f : TStats → TStats) : (r.statOf j f).lost = r.lost := by
  unfold Run.statOf
  split <;> rfl

theorem initCell_coil (j : Job) (t : Tile) (r : Run) (a : Nat × Nat) :
    (initCell j t r a).coil = tset 0 r.coil (t.key a.1 a.2) (BitVec.ofNat 40 (j.init a.1 a.2).code) := by
  unfold initCell
  dsimp only
  split
  · exact Run.statOf_coil ..
  · rfl

theorem initCell_lost (j : Job) (t : Tile) (r : Run) (a : Nat × Nat) : (initCell j t r a).lost = r.lost := by
  unfold initCell
  dsimp only
  split
  · exact Run.statOf_lost ..
  · rfl

theorem clearLost_coil (j : Job) (t : Tile) (r : Run) : (clearLost j t r).coil = r.coil := by
  unfold clearLost
  dsimp only
  split <;> rfl

theorem clearLost_lost (j : Job) (t : Tile) (r : Run) : (clearLost j t r).lost = tset 0 r.lost t.p 0 := by
  unfold clearLost
  dsimp only
  split <;> rfl

theorem foldl_initCell_lost (j : Job) (t : Tile) : ∀ (l : List (Nat × Nat)) (r : Run), (l.foldl (initCell j t) r).lost = r.lost
  | [], _ => rfl
  | a :: l, r => by rw [List.foldl_cons, foldl_initCell_lost j t l, initCell_lost]

theorem foldl_initCell_other (j : Job) (t : Tile) {k : Nat} : ∀ (l : List (Nat × Nat)) (r : Run), (∀ a ∈ l, k ≠ t.key a.1 a.2) →
    tget 0 (l.foldl (initCell j t) r).coil k = tget 0 r.coil k
  | [], _, _ => rfl
  | a :: l, r, h => by
    rw [List.foldl_cons, foldl_initCell_other j t l _ fun b hb => h b (List.mem_cons_of_mem a hb), initCell_coil,
      tget_tset_ne _ _ _ (h a List.mem_cons_self)]

/-- Where no other output shares it, an accumulator holds its own initial value. -/
theorem foldl_initCell_self (j : Job) (t : Tile) {a : Nat × Nat} : ∀ (l : List (Nat × Nat)) (r : Run), a ∈ l →
    (∀ b ∈ l, t.key a.1 a.2 = t.key b.1 b.2 → a = b) →
    tget 0 (l.foldl (initCell j t) r).coil (t.key a.1 a.2) = BitVec.ofNat 40 (j.init a.1 a.2).code
  | b :: l, r, ha, own => by
    rw [List.foldl_cons]
    by_cases later : a ∈ l
    · exact foldl_initCell_self j t l _ later fun c hc => own c (List.mem_cons_of_mem b hc)
    · obtain rfl := (List.mem_cons.1 ha).resolve_right later
      have free (c) (hc : c ∈ l) : t.key a.1 a.2 ≠ t.key c.1 c.2 := fun same =>
        later (own c (List.mem_cons_of_mem a hc) same ▸ hc)
      rw [foldl_initCell_other j t l _ free, initCell_coil, tget_tset_self]

/-- No two outputs of a tile within a chunk share an accumulator. -/
theorem Tile.key_injective {t : Tile} (low : t.cr0 ≤ t.r0) (high : t.r0 + t.rows ≤ t.cr0 + 1024) (width : t.cols ≤ 256)
    {m n m' n' : Nat} (a : (m, n) ∈ t.cells) (b : (m', n') ∈ t.cells) (h : t.key m n = t.key m' n') : m = m' ∧ n = n' := by
  obtain ⟨hm, hm', hn, hn'⟩ := (t.mem_cells m n).1 a
  obtain ⟨gm, gm', gn, gn'⟩ := (t.mem_cells m' n').1 b
  simp only [key] at h
  omega

theorem Job.init_of_none {j : Job} (h : j.beta = none) (m n : Nat) : (j.init m n).code = 0 := by simp only [Job.init, h]

theorem Job.init_raw {j : Job} {b : Num} (hb : j.beta = some b) (raw : j.acc = .raw) (m n : Nat) :
    (j.init m n).code = (convInt 32 .rne (((j.cs.getD m []).getD n (.fin 0 0)).mul b)).code := by
  simp only [Job.init, hb, raw, Acc.round]

/-- INIT gives each output of a tile its initial value in an accumulator of its own, and no other accumulator one. -/
theorem beginTile_values (j : Job) (t : Tile) (r : Run) (m n k : Nat) (low : t.cr0 ≤ t.r0) (high : t.r0 + t.rows ≤ t.cr0 + 1024)
    (width : t.cols ≤ 256) :
    let inside (m n : Nat) := t.r0 ≤ m ∧ m < t.r0 + t.rows ∧ t.c0 ≤ n ∧ n < t.c0 + t.cols
    (∀ m' n', inside m n → inside m' n' → t.key m n = t.key m' n' → m = m' ∧ n = n') ∧
    (inside m n → tget 0 (beginTile j t r).coil (t.key m n) = BitVec.ofNat 40 (j.init m n).code) ∧
    ((∀ m n, inside m n → k ≠ t.key m n) → tget 0 (beginTile j t r).coil k = tget 0 r.coil k) ∧
    tget 0 (beginTile j t r).lost t.p = 0 ∧
    (j.beta = none → (j.init m n).code = 0) ∧
    (∀ b, j.beta = some b → j.acc = .raw →
      (j.init m n).code = (convInt 32 .rne (((j.cs.getD m []).getD n (.fin 0 0)).mul b)).code) := by
  intro inside
  have inside_iff (m n : Nat) : inside m n ↔ (m, n) ∈ t.cells := (t.mem_cells m n).symm
  simp only [inside_iff, beginTile_eq]
  refine ⟨fun m' n' => Tile.key_injective low high width, fun cell => ?_, fun free => ?_, ?_, fun noBeta => Job.init_of_none noBeta m n,
    fun b beta raw => Job.init_raw beta raw m n⟩
  · refine foldl_initCell_self (a := (m, n)) j t t.cells _ cell fun b hb same => ?_
    obtain ⟨hm, hn⟩ := Tile.key_injective low high width cell hb same
    exact Prod.ext hm hn
  · rw [foldl_initCell_other j t t.cells _ fun a ha => free a.1 a.2 ha, clearLost_coil]
  · rw [foldl_initCell_lost, clearLost_lost, tget_tset_self]

/-! ### The ladder (R91, R102) -/

theorem rungsAfter_of_split {j : Job} {r : Nat} {before rest : List Nat} (new : r ∉ before) (h : j.rungs = before ++ r :: rest) :
    rungsAfter j r = rest := by
  have skip : ∀ y ∈ before, decide (y ≠ r) = true := fun y hy => decide_eq_true fun e => new (e ▸ hy)
  rw [rungsAfter, h, List.dropWhile_append_of_pos skip, List.dropWhile_cons_of_neg (by simp), List.drop_one, List.tail_cons]

theorem rungAfter_values {j : Job} {r x : Nat} {before a b : List Nat} (new : r ∉ before) :
    (j.rungs = before ++ r :: x :: b → rungAfter j r = x) ∧ (j.rungs = before ++ [r] → rungAfter j r = 10) ∧
    ((∀ y ∈ a, borderRung y = true) →
      (j.rungs = before ++ r :: a ++ x :: b → borderRung x = false → rungAfterOverflow j r = x) ∧
      (j.rungs = before ++ r :: a → rungAfterOverflow j r = 10)) := by
  refine ⟨fun h => ?_, fun h => ?_, fun border => ?_⟩
  · rw [rungAfter, rungsAfter_of_split new h, List.headD_cons]
  · rw [rungAfter, rungsAfter_of_split new h, List.headD_nil]
  have noFree : a.find? (fun y => !borderRung y) = none := List.find?_eq_none.2 fun y hy => by simp [border y hy]
  refine ⟨fun h free => ?_, fun h => ?_⟩
  · rw [List.append_assoc, List.cons_append] at h
    rw [rungAfterOverflow, rungsAfter_of_split new h, List.find?_append, noFree, List.find?_cons_of_pos (by simp [free])]
    rfl
  · rw [rungAfterOverflow, rungsAfter_of_split new h, noFree]
    rfl

end Sys2Proof.Machine
end

section
/-! SUPPORT. Blocks of SCALE_PASS, elements of UPDATE, reductions, and the statement about them and the array. -/

namespace Sys2Proof.Machine

/-! ### Blocks of SCALE_PASS (R78 to R80) -/

/-- The threshold of a block's squares (R79). -/
def outlierBound (tau : Num) (ys : List Num) : Num :=
  mulF (mulF tau tau) (mulF (tree addF (.fin 0 0) (ys.map fun y => mulF y y)) (.fin 1 (-5)))

/-- Whether an element of a block is an outlier (R79). -/
def isOutlier (tau : Num) (ys : List Num) (y : Num) : Bool := tau.isFin && (outlierBound tau ys).lt (mulF y y)

theorem isOutlier_iff (tau : Num) (ys : List Num) (y : Num) :
    isOutlier tau ys y = true ↔ tau.isFin = true ∧ (outlierBound tau ys).lt (mulF y y) = true := by
  rw [isOutlier, Bool.and_eq_true]

theorem scaleBlock_of_nonfinite (tau : Num) {ys : List Num} (len : ys.length = 32) (h : ∃ y ∈ ys, y.isFin = false) :
    scaleBlock tau ys = (255, 255, []) := by
  have any : ys.any (fun y => !y.isFin) = true := by simpa using h
  simp [scaleBlock, len, any]

theorem scaleBlock_of_finite (tau : Num) {ys : List Num} (len : ys.length = 32) (h : ∀ y ∈ ys, y.isFin = true) :
    scaleBlock tau ys =
      (expCode (topFrom (.fin 0 0) (ys.filter fun y => !isOutlier tau ys y)), expCode (topFrom (.fin 0 0) ys),
        ((List.range 32).zip ys).filterMap fun e =>
          if isOutlier tau ys e.2 then some (e.1, (convFlt fltBf16 .rne e.2).code) else none) := by
  have any : ys.any (fun y => !y.isFin) = false := by simpa using h
  have pad : ys ++ List.replicate (32 - ys.length) (.fin 0 0) = ys := by simp [len]
  have marks : ys.zip ((ys.map fun y => mulF y y).map fun v => tau.isFin && (outlierBound tau ys).lt v) =
      ys.map fun y => (y, isOutlier tau ys y) := by
    rw [List.map_map]
    exact List.map_prod_left_eq_zip.symm
  have ins : (ys.map fun y => (y, isOutlier tau ys y)).filterMap (fun e => if e.2 then none else some e.1) =
      ys.filter fun y => !isOutlier tau ys y := by
    rw [List.filterMap_map, ← List.filterMap_eq_filter]
    refine congrArg (List.filterMap · ys) (funext fun y => ?_)
    cases h : isOutlier tau ys y <;> simp [Option.guard, h]
  have outs : ((List.range 32).zip (ys.map fun y => (y, isOutlier tau ys y))).filterMap
      (fun e => if e.2.2 then some (e.1, (convFlt fltBf16 .rne e.2.1).code) else none) =
      ((List.range 32).zip ys).filterMap fun e =>
          if isOutlier tau ys e.2 then some (e.1, (convFlt fltBf16 .rne e.2).code) else none := by
    rw [List.zip_map_right, List.filterMap_map]
    rfl
  rw [← ins, ← outs, ← marks]
  simp only [scaleBlock, pad, any, Bool.false_eq_true, if_false]
  rfl

theorem scaleOf_expCode {top : Num} (fin : top.isFin = true) (nonneg : 0 ≤ top.toRat) : scaleOf 0 top (expCode top) := by
  have := scaleOf_floorLog2 0 fin nonneg
  rwa [sub_zero] at this

theorem largest_scaleOf {l : List Num} (h : ∀ y ∈ l, y.isFin = true) :
    ∃ top, largest l top ∧ scaleOf 0 top (expCode (topFrom (.fin 0 0) l)) := by
  obtain ⟨is_largest, top_fin, top_nonneg⟩ := largest_topFrom h
  exact ⟨_, is_largest, scaleOf_expCode top_fin top_nonneg⟩

theorem mem_zip_range {α : Type} (l : List α) (k : Nat) (x : α) : (k, x) ∈ (List.range l.length).zip l ↔ l[k]? = some x := by
  rw [List.mem_iff_getElem?]
  simp only [List.getElem?_zip_eq_some]
  constructor
  · rintro ⟨j, hj, hx⟩
    obtain ⟨-, rfl⟩ := List.getElem?_eq_some_iff.1 hj
    simpa using hx
  · intro hx
    obtain ⟨hk, -⟩ := List.getElem?_eq_some_iff.1 hx
    exact ⟨k, by simp [hk], hx⟩

/-- An element's entry among those kept of a list with its places. -/
theorem mem_filterMap_zip_range {α β : Type} {i : Nat} {l : List α} {y : α} (h : l[i]? = some y) (p : α → Bool)
    (f : α → β) (c : β) : (i, c) ∈ ((List.range l.length).zip l).filterMap (fun e => if p e.2 then some (e.1, f e.2) else none) ↔
      p y = true ∧ c = f y := by
  simp only [List.mem_filterMap]
  constructor
  · rintro ⟨⟨k, x⟩, hx, eq⟩
    split at eq
    case isTrue keep =>
      obtain ⟨rfl, rfl⟩ := Prod.mk.inj (Option.some.inj eq)
      have same : y = x := Option.some.inj (h.symm.trans ((mem_zip_range ..).1 hx))
      exact ⟨same ▸ keep, by rw [same]⟩
    case isFalse => exact absurd eq nofun
  · rintro ⟨keep, rfl⟩
    exact ⟨(i, y), (mem_zip_range ..).2 h, if_pos keep⟩

theorem scaleBlock_values (tau : Num) (ys : List Num) (len : ys.length = 32) :
    let b := scaleBlock tau ys
    ((∃ y ∈ ys, y.isFin = false) → b = (255, 255, [])) ∧
    ((∀ y ∈ ys, y.isFin = true) →
      let h := mulF (mulF tau tau) (mulF (tree addF (.fin 0 0) (ys.map fun y => mulF y y)) (.fin 1 (-5)))
      let isOut (y : Num) := tau.isFin = true ∧ h.lt (mulF y y) = true
      (∃ top, largest ys top ∧ scaleOf 0 top b.2.1) ∧
      (∃ top ins, (∀ y, y ∈ ins ↔ y ∈ ys ∧ ¬isOut y) ∧ largest ins top ∧ scaleOf 0 top b.1) ∧
      ∀ i y, ys[i]? = some y → ∀ c, (i, c) ∈ b.2.2 ↔ isOut y ∧ c = (convFlt fltBf16 .rne y).code) := by
  refine ⟨scaleBlock_of_nonfinite tau len, fun fin => ?_⟩
  rw [scaleBlock_of_finite tau len fin]
  obtain ⟨top, is_largest, scale⟩ := largest_scaleOf (l := ys.filter fun y => !isOutlier tau ys y) fun y hy =>
    fin y (List.mem_of_mem_filter hy)
  refine ⟨largest_scaleOf fin, ⟨top, _, fun y => ?_, is_largest, scale⟩, fun i y hy c => ?_⟩
  · rw [List.mem_filter, Bool.not_eq_true', Bool.eq_false_iff, ne_eq, isOutlier_iff]
    rfl
  · rw [← len]
    exact (mem_filterMap_zip_range hy (isOutlier tau ys) (fun y => (convFlt fltBf16 .rne y).code) c).trans
      (and_congr_left' (isOutlier_iff tau ys y))

/-! ### Updates and reductions -/

theorem element_values (a : UpdArgs) (w grad m v : Num) :
    let g := mulF grad a.gscale
    let k := a.scalars
    let step (d : Num) := subF (subF w (mulF a.lr d)) (mulF (mulF a.lr a.wd) w)
    let nb (b : Num) := subF (.fin 1 0) b
    (a.rule = 0 → let m1 := addF (mulF a.b1 m) g
      a.element k w grad m v = (m1, v, step m1)) ∧
    (a.rule = 1 → let m1 := addF (mulF a.b1 m) (mulF (nb a.b1) g)
      let v1 := addF (mulF a.b2 v) (mulF (mulF (nb a.b2) g) g)
      let s := a.round - a.step0 + 1
      a.element k w grad m v =
        (m1, v1, step (divF (divF m1 (biasOf a.b1 s)) (addF (sqrtF (divF v1 (biasOf a.b2 s))) a.eps)))) ∧
    (a.rule = 2 → a.element k w grad m v = (addF (mulF a.b2 m) (mulF (nb a.b2) g), v,
      step (signOf (addF (mulF a.b1 m) (mulF (nb a.b1) g))))) := by
  intro g k step nb
  refine ⟨fun rule => ?_, fun rule => ?_, fun rule => ?_⟩ <;>
    simp only [UpdArgs.element, rule] <;> rfl

theorem reduceElement_values (bfmt tfmt : Nat) (scale : Option Num) (a b c d : Nat) :
    let v (c : Nat) := decode bfmt c
    let node (x y : Num) := addF (toTransport tfmt x) (toTransport tfmt y)
    let root (x : Num) := (convert bfmt .rne (match scale with
      | some k => mulF x k
      | none => x)).code
    reduceElement bfmt tfmt scale [a, b] = root (node (v a) (v b)) ∧
    reduceElement bfmt tfmt scale [a, b, c] = root (node (node (v a) (v b)) (v c)) ∧
    reduceElement bfmt tfmt scale [a, b, c, d] = root (node (node (v a) (v b)) (node (v c) (v d))) := by
  intro v node root
  have eq (l : List Nat) : reduceElement bfmt tfmt scale l = root (tree node (.fin 0 0) (l.map v)) := by
    cases scale <;> rfl
  simp only [eq, List.map_cons, List.map_nil, tree_two, tree_three, tree_four, and_self]

/-- Settles O59: one lemma per clause. A promotion rests on `two_mul_abs_convQuot_sub_le` and `convInt_int`, INIT on
`Tile.key_injective`, a block's scales on `largest_topFrom`, and the weight with its carry on `ulpExp_le_nearestUp` and
`convInt_within`. -/
theorem arrayAndUpdateValues : Obligations.ArrayAndUpdateValues := by
  unfold Obligations.ArrayAndUpdateValues
  exact ⟨promote_wide_nearest, beginTile_values, fun _ _ _ _ _ _ => rungAfter_values, scaleBlock_values, element_values,
    weightWrite_near, reduceElement_values, promote_raw_exact⟩

end Sys2Proof.Machine
end

section
/-! SUPPORT. Whether an operation keeps the memories in canonical form: the rules for computations of commands, and the operations of
the register blocks, operands and commands. An operation that writes no byte has a frame rule (`_bytes`); one that does keeps the form
(`_canonical`). Where a proof calls grind, it gets the operation and the rules of the operations that it calls. -/

namespace Sys2Proof.Machine

open Std.Do
set_option mvcgen.warning false

/-! ### Combinators -/

theorem canonical_ite {c : Prop} [Decidable c] {a b : State} (ha : a.canonical = true) (hb : b.canonical = true) :
    (if c then a else b).canonical = true := by
  split <;> assumption

/-- A pair's state, named by the match that takes the pair apart. -/
theorem canonical_of_snd {α : Type} {r : α × State} {a : α} {t : State} (h : r.2.canonical = true) (e : r = (a, t)) :
    t.canonical = true := by
  rw [e] at h
  exact h

theorem foldl_canonical {α : Type} {f : State → α → State} (h : ∀ {s} a, s.canonical = true → (f s a).canonical = true)
    (l : List α) {s : State} (w : s.canonical = true) : (l.foldl f s).canonical = true := by
  induction l generalizing s with
  | nil => exact w
  | cons a l ih => exact ih (h a w)

/-- The state holds its memories in canonical form, as an assertion about a computation of a command. -/
abbrev canonicalNow : Assertion (.except Fail (.arg State .pure)) := fun s => ⌜s.canonical = true⌝

/-- However the computation ends, it keeps the canonical form. -/
abbrev KeepsCanonical {α : Type} (m : Cmd α) : Prop := ⦃canonicalNow⦄ m ⦃post⟨fun _ => canonicalNow, fun _ => canonicalNow⟩⦄

/-- The checks of a command keep the canonical form, and so does the effect that they plan. -/
abbrev PlanKeepsCanonical (m : Cmd Plan) : Prop :=
  ⦃canonicalNow⦄ m ⦃post⟨fun pl s => ⌜s.canonical = true ∧ KeepsCanonical pl.run⌝, fun _ => canonicalNow⟩⦄

section
variable {α : Type} {m : Cmd α} {s t : State} {P : Assertion (.except Fail (.arg State .pure))}
  {Q : PostCond α (.except Fail (.arg State .pure))}

/-- What a triple says of a run that answers. -/
theorem triple_ok {a : α} (h : ⦃P⦄ m ⦃Q⦄) (w : (P s).down) (e : m.run s = .ok a t) : (Q.1 a t).down := by
  have k := h s w
  simp only [wp, PredTrans.apply, e] at k
  exact k

/-- What it says of a run that fails. -/
theorem triple_error {f : Fail} (h : ⦃P⦄ m ⦃Q⦄) (w : (P s).down) (e : m.run s = .error f t) : (Q.2.1 f t).down := by
  have k := h s w
  simp only [wp, PredTrans.apply, e] at k
  exact k

theorem KeepsCanonical.ok {a : α} (h : KeepsCanonical m) (w : s.canonical = true) (e : m.run s = .ok a t) : t.canonical = true :=
  triple_ok h w e

theorem KeepsCanonical.error {f : Fail} (h : KeepsCanonical m) (w : s.canonical = true) (e : m.run s = .error f t) :
    t.canonical = true :=
  triple_error h w e

theorem PlanKeepsCanonical.ok {m : Cmd Plan} {pl : Plan} (h : PlanKeepsCanonical m) (w : s.canonical = true)
    (e : m.run s = .ok pl t) : t.canonical = true ∧ KeepsCanonical pl.run :=
  triple_ok h w e

theorem PlanKeepsCanonical.error {m : Cmd Plan} {f : Fail} (h : PlanKeepsCanonical m) (w : s.canonical = true)
    (e : m.run s = .error f t) : t.canonical = true :=
  triple_error h w e

end

theorem require_canonical (ok : Bool) (status detail : Nat) : KeepsCanonical (require ok status detail) := by
  mvcgen [require, refuse]

theorem get_canonical : KeepsCanonical (get : Cmd State) := by
  mvcgen

theorem bind_canonical {α β : Type} {m : Cmd α} {f : α → Cmd β} (h : KeepsCanonical m) (k : ∀ a, KeepsCanonical (f a)) :
    KeepsCanonical (m >>= f) :=
  Triple.bind m f h k

theorem pure_canonical {α : Type} (a : α) : KeepsCanonical (pure a : Cmd α) := by
  mvcgen

theorem upd_canonical {f : State → State} (h : ∀ {s}, s.canonical = true → (f s).canonical = true) : KeepsCanonical (upd f) := by
  mvcgen [upd]
  exact h ‹_›

theorem act_canonical {α : Type} {f : State → α × State} (h : ∀ {s}, s.canonical = true → (f s).2.canonical = true) :
    KeepsCanonical (act f) := by
  mvcgen [act]
  exact h ‹_›

/-- An effect that is one operation on the state. -/
theorem updPure_canonical {α : Type} {f : State → State} (h : ∀ {s}, s.canonical = true → (f s).canonical = true) (a : α) :
    KeepsCanonical (do upd f; pure a) :=
  bind_canonical (upd_canonical h) fun _ => pure_canonical a

/-- Checks that come before a plan. -/
theorem planBind_canonical {α : Type} {m : Cmd α} {f : α → Cmd Plan} (h : KeepsCanonical m)
    (k : ∀ a, PlanKeepsCanonical (f a)) : PlanKeepsCanonical (m >>= f) :=
  Triple.bind m f h k

theorem planPure_canonical {pl : Plan} (h : KeepsCanonical pl.run) : PlanKeepsCanonical (pure pl) := by
  mvcgen [h]

theorem planRefuse_canonical (status detail : Nat) : PlanKeepsCanonical (refuse status detail) := by
  mvcgen [refuse]

theorem getBind_canonical {α : Type} {f : State → Cmd α} (h : ∀ s, s.canonical = true → KeepsCanonical (f s)) :
    KeepsCanonical (get >>= f) :=
  fun s w => h s w s w

theorem setBind_canonical {α : Type} {t : State} {m : Cmd α} (w : t.canonical = true) (h : KeepsCanonical m) :
    KeepsCanonical (do set t; m) :=
  fun _ _ => h t w

theorem throw_canonical {α : Type} (f : Fail) : KeepsCanonical (throw f : Cmd α) :=
  fun _ w => w

/-! ### The operations of Machine/Ops.lean -/

@[simp] theorem raisePlc_bytes (b : Nat) (s : State) : (raisePlc b s).bytes = s.bytes := by
  simp [raisePlc]

@[simp] theorem raiseTns_bytes (b : Nat) (s : State) : (raiseTns b s).bytes = s.bytes := by
  simp [raiseTns]

@[simp] theorem raiseSeq_bytes (b : Nat) (s : State) : (raiseSeq b s).bytes = s.bytes := by
  simp [raiseSeq]

@[simp] theorem raiseTim_bytes (b : Nat) (s : State) : (raiseTim b s).bytes = s.bytes := by
  simp [raiseTim]

@[simp] theorem raiseUps_bytes (b : Nat) (s : State) : (raiseUps b s).bytes = s.bytes := by
  simp [raiseUps]

@[simp] theorem raisePwr_bytes (b : Nat) (s : State) : (raisePwr b s).bytes = s.bytes := by
  simp [raisePwr]

@[simp] theorem raiseThm_bytes (b : Nat) (s : State) : (raiseThm b s).bytes = s.bytes := by
  simp [raiseThm]

@[simp] theorem raiseCnt_bytes (b : Nat) (s : State) : (raiseCnt b s).bytes = s.bytes := by
  simp [raiseCnt]

@[simp] theorem raiseLgr_bytes (b : Nat) (s : State) : (raiseLgr b s).bytes = s.bytes := by
  simp [raiseLgr]

@[simp] theorem raiseSec_bytes (b : Nat) (s : State) : (raiseSec b s).bytes = s.bytes := by
  simp [raiseSec]

@[simp] theorem State.setQueue_bytes (s : State) (q : Nat) (v : Queue) : (State.setQueue s q v).bytes = s.bytes := rfl

@[simp] theorem raiseQue_bytes (q b : Nat) (s : State) : (raiseQue q b s).bytes = s.bytes := by
  simp [raiseQue]

@[simp] theorem disableQueue_bytes (q : Nat) (s : State) : (disableQueue q s).bytes = s.bytes := rfl

@[simp] theorem State.setStack_bytes (s : State) (k : Nat) (v : Stack) : (State.setStack s k v).bytes = s.bytes := rfl

@[simp] theorem failChannel_bytes (k c : Nat) (s : State) : (failChannel k c s).bytes = s.bytes := by
  simp [failChannel]

@[simp] theorem modDesc_bytes (i : Nat) (f : Desc → Desc) (s : State) : (modDesc i f s).bytes = s.bytes := by
  simp only [modDesc]
  split <;> simp

@[simp] theorem advanceGen_bytes (h : BitVec 32) (s : State) : (advanceGen h s).bytes = s.bytes := by
  simp only [advanceGen]
  split <;> simp

/-! ### The operations of Machine/Memory.lean -/

@[simp] theorem meetHandle_bytes (use : Nat) (s : State) : (meetHandle use s).2.bytes = s.bytes := by
  simp only [meetHandle]
  (repeat' split) <;> simp

@[simp] theorem flushCaches_bytes (s : State) : (flushCaches s).bytes = s.bytes := by
  simp [flushCaches, foldl_bytes]

theorem readLines_canonical (h : BitVec 32) (idx : Nat) (d : Desc) (die : Option Nat) (here i n : Nat) :
    KeepsCanonical (readLines h idx d die here i n) := by
  induction n generalizing i with
  | zero => exact pure_canonical _
  | succ n ih =>
    refine getBind_canonical fun s w => ?_
    have k : ∀ id n, (takeLine id n die here s).2.canonical = true := fun _ _ => canonical_of_bytes (takeLine_bytes _ _ _ _ s) w
    dsimp only
    split <;> rename_i e
    · exact setBind_canonical (canonical_of_bytes (traffic_bytes _ _ _) (canonical_of_snd (k _ _) e))
        (bind_canonical (ih _) fun _ => pure_canonical _)
    · exact setBind_canonical (canonical_of_snd (k _ _) e) (throw_canonical _)

theorem readBytes_canonical (h : BitVec 32) (off len : Nat) (die : Option Nat) (here : Nat) :
    KeepsCanonical (readBytes h off len die here) := by
  mvcgen [readBytes, readLines_canonical, refuse]

theorem writeOuts_canonical (die : Option Nat) (l : List Out) {s : State} (w : s.canonical = true) :
    (writeOuts die l s).2.canonical = true := by
  induction l generalizing s with
  | nil => exact w
  | cons o l ih => exact ih (writeFrom_canonical die o.1 o.2.1 o.2.2 w)

theorem unlessOver_canonical {f : State → State} (h : ∀ {s}, s.canonical = true → (f s).canonical = true) {s : State}
    (w : s.canonical = true) : (unlessOver f s).canonical = true :=
  canonical_ite w (h w)

theorem writeBar4_canonical (h : BitVec 32) (off : Nat) (b : List Byte) {s : State} (w : s.canonical = true) :
    (writeBar4 h off b s).canonical = true := by
  unfold writeBar4
  split
  · exact w
  · exact canonical_of_bytes (raisePoisoned_bytes ..) (writeEach_canonical _ _ _ _ w)

theorem HeldWrite.make_canonical (x : HeldWrite) {s : State} (w : s.canonical = true) : (x.make s).2.canonical = true := by
  unfold HeldWrite.make
  split
  · exact writeToTail_canonical _ _ _ w
  · split
    · exact writeBar4_canonical _ _ _ w
    · exact writeBytes_canonical _ _ _ w

theorem releaseHeld_canonical {s : State} (w : s.canonical = true) : (releaseHeld s).canonical = true :=
  foldl_canonical (fun x => writeHeld_canonical x) _ w

/-! ### The operations of Machine/Operands.lean -/

theorem reservedZero_canonical (p : Packet) (runs : List (Nat × Nat × Nat)) : KeepsCanonical (reservedZero p runs) := by
  mvcgen [reservedZero, refuse]

theorem blockReservedZero_canonical (block : List Byte) (runs : List (Nat × Nat × Nat)) :
    KeepsCanonical (blockReservedZero block runs) := by
  mvcgen [blockReservedZero, refuse]

theorem requireLive_canonical (h : BitVec 32) : KeepsCanonical (requireLive h) := by
  mvcgen [requireLive, require_canonical]

theorem readBlock_canonical (h : BitVec 32) (off len align pos : Nat) (die : Option Nat) :
    KeepsCanonical (readBlock h off len align pos die) := by
  mvcgen [readBlock, readBytes_canonical, require_canonical, requireLive_canonical]

theorem checkRegion_canonical (r : Region) (offPos pitchPos : Nat) : KeepsCanonical (checkRegion r offPos pitchPos) := by
  mvcgen [checkRegion, require_canonical]

theorem checkExtent_canonical (h : BitVec 32) (off len : Nat) : KeepsCanonical (checkExtent h off len) := by
  mvcgen [checkExtent, require_canonical]

theorem readSpan_canonical (h : BitVec 32) (idx : Nat) (d : Desc) (die : Option Nat) (last : Option (Nat × List Byte)) (i n : Nat) :
    KeepsCanonical (readSpan h idx d die last i n) := by
  induction n generalizing last i with
  | zero => mvcgen [readSpan]
  | succ n ih => mvcgen [readSpan, ih, readLines_canonical]

theorem readRows_canonical (r : Region) (idx : Nat) (d : Desc) (die : Option Nat) (last : Option (Nat × List Byte)) (row n : Nat) :
    KeepsCanonical (readRows r idx d die last row n) := by
  induction n generalizing last row with
  | zero => mvcgen [readRows]
  | succ n ih => mvcgen [readRows, ih, readSpan_canonical]

theorem readRegion_canonical (r : Region) (die : Option Nat) : KeepsCanonical (readRegion r die) := by
  mvcgen [readRegion, readRows_canonical, refuse]

theorem readPadded_canonical (h : BitVec 32) (off len : Nat) (die : Option Nat) : KeepsCanonical (readPadded h off len die) := by
  mvcgen [readPadded, readBytes_canonical]

theorem seqDie_canonical (q : Nat) : KeepsCanonical (seqDie q) := by
  mvcgen [seqDie]

theorem Group.reader_canonical (g : Group) : KeepsCanonical (Group.reader g) := by
  mvcgen [Group.reader]

theorem checkStakes_canonical (g : Group) : KeepsCanonical (checkStakes g) := by
  mvcgen [checkStakes, refuse, require_canonical]

theorem checkDest_canonical (p : Packet) (a len : Nat) : KeepsCanonical (checkDest p a len) := by
  mvcgen [checkDest, checkExtent_canonical, require_canonical]

theorem destLive_canonical (p : Packet) (a : Nat) : KeepsCanonical (destLive p a) := by
  mvcgen [destLive, requireLive_canonical]

theorem writeDest_canonical (d : Dest) (off : Nat) (b : List Byte) {s : State} (w : s.canonical = true) :
    (writeDest d off b s).2.canonical = true := by
  cases d with
  | host a => exact canonical_ite w (hostWrite_canonical _ _ w)
  | device h o => exact writeBytes_canonical _ _ _ w

/-! ### The operations of Machine/Tension.lean -/

@[simp] theorem mergeStats_bytes (c : InFlight) (s : State) : (mergeStats c s).2.bytes = s.bytes := by
  simp only [mergeStats]
  (repeat' split) <;> simp

@[simp] theorem countReweaves_bytes (n : Nat) (s : State) : (countReweaves n s).bytes = s.bytes := by
  simp [countReweaves]

theorem checkSummaryRegion_canonical : KeepsCanonical checkSummaryRegion := by
  mvcgen [checkSummaryRegion, require_canonical]

theorem writeSlot_canonical (slot : Nat) (m : Summary) {s : State} (w : s.canonical = true) :
    (writeSlot slot m s).2.canonical = true :=
  writeBytes_canonical _ _ _ (writeBytes_canonical _ _ _ w)

theorem sealSummary_canonical {s : State} (w : s.canonical = true) : (sealSummary s).2.canonical = true :=
  writeSlot_canonical 0 _ (s := { s with tns := _ }) w

@[simp] theorem ladderPolicy_bytes (m : Summary) (s : State) : (ladderPolicy m s).bytes = s.bytes := by
  simp [ladderPolicy, foldl_bytes]

@[simp] theorem floorPolicy_bytes (m : Summary) (s : State) : (floorPolicy m s).bytes = s.bytes := by
  simp [floorPolicy]

@[simp] theorem latchTns_bytes (s : State) : (latchTns s).bytes = s.bytes := rfl

/-! ### The operations of Machine/Commands.lean -/

@[simp] theorem signalToken_bytes (t : Nat) (s : State) : (signalToken t s).bytes = s.bytes := by
  simp [signalToken]

@[simp] theorem setInflight_bytes (id : Nat) (f : InFlight → InFlight) (s : State) : (setInflight id f s).bytes = s.bytes := rfl

@[simp] theorem dropInflight_bytes (id : Nat) (s : State) : (dropInflight id s).bytes = s.bytes := rfl

theorem writeReply_canonical (q tag status detail round : Nat) (rewoven late firmware : Bool) {s : State} (w : s.canonical = true) :
    (writeReply q tag status detail round rewoven late firmware s).canonical = true :=
  canonical_ite (writeHeld_canonical _ w)
    (canonical_ite (replyLost_canonical q w) (replied_canonical q _ (hostWrite_canonical _ _ w)))

@[simp] theorem noteCompare_bytes (c : InFlight) (s : State) : (noteCompare c s).bytes = s.bytes := by
  simp [noteCompare]

@[simp] theorem noteVerify_bytes (c : InFlight) (s : State) : (noteVerify c s).bytes = s.bytes := by
  simp [noteVerify]

theorem complete_canonical (c : InFlight) {s : State} (w : s.canonical = true) : (complete c s).canonical = true := by
  grind [complete, disableQueue_bytes, dropInflight_bytes, mergeStats_bytes, noteCompare_bytes, noteVerify_bytes,
    raiseQue_bytes, signalToken_bytes, traceWith_bytes, writeReply_canonical, State.canonical]

theorem finish_canonical (c : InFlight) {s : State} (w : s.canonical = true) : (finish c s).canonical = true :=
  complete_canonical _ w

theorem finishAs_canonical (id status detail : Nat) {s : State} (w : s.canonical = true) :
    (finishAs id status detail s).canonical = true := by
  unfold finishAs
  split
  · exact finish_canonical _ w
  · exact w

theorem writeAnd_canonical (die : Option Nat) (outs : List Out) (r : Res) : KeepsCanonical (writeAnd die outs r) :=
  bind_canonical (act_canonical (writeOuts_canonical _ _)) fun _ => pure_canonical _

@[simp] theorem noteHead_bytes (q : Nat) (p : Packet) (s : State) : (noteHead q p s).bytes = s.bytes := by
  simp [noteHead]

@[simp] theorem resetPerCmd_bytes (n : Nat) (s : State) : (resetPerCmd n s).bytes = s.bytes := rfl

@[simp] theorem takeHead_bytes (q op : Nat) (p : Packet) (pathS : Bool) (s : State) :
    (takeHead q op p pathS s).bytes = s.bytes := by
  simp [takeHead]

@[simp] theorem launch_bytes (c : InFlight) (s : State) : (launch c s).bytes = s.bytes := rfl

theorem scramble_canonical (outs : List (BitVec 32 × Nat × Nat)) {s : State} (w : s.canonical = true) :
    (scramble outs s).canonical = true :=
  foldl_canonical (fun o w => canonical_of_bytes (tick_bytes _) (writeBytes_canonical o.1 o.2.1 _ w)) _ w

@[simp] theorem drainRead_bytes (e : DrainEntry) (i : Nat) (s : State) : (drainRead e i s).2.bytes = s.bytes := by
  grind [drainRead, takeLine_bytes, traffic_bytes]

theorem drainHost_canonical (d : DrainPlan) (l : List (DrainEntry × Nat)) (j : Nat) {s : State} (w : s.canonical = true) :
    (drainHost d l j s).2.canonical = true := by
  induction l generalizing j s with
  | nil => exact w
  | cons e l ih =>
    have k : (drainRead e.1 e.2 s).2.canonical = true := canonical_of_bytes (drainRead_bytes e.1 e.2 s) w
    unfold drainHost
    split <;> rename_i r
    · exact canonical_of_snd k r
    · rename_i b _
      have kt := hostWrite_canonical (e.1.dst + 512 * e.2) b (canonical_of_snd k r)
      exact ih _ (canonical_ite kt (hostWrite_canonical _ _ kt))

@[simp] theorem dropFrames_bytes (cmd : Nat) (s : State) : (dropFrames cmd s).bytes = s.bytes := rfl

@[simp] theorem acting_bytes (layer : BitVec 16) (s : State) : (acting layer s).bytes = s.bytes := rfl

theorem actingFor_canonical (c : InFlight) {f : State → State} (h : ∀ {s}, s.canonical = true → (f s).canonical = true) {s : State}
    (w : s.canonical = true) : (actingFor c f s).canonical = true :=
  h (s := acting c.packet.layerId s) w

theorem abandonDrain_canonical (c : InFlight) {s : State} (w : s.canonical = true) : (abandonDrain c s).canonical = true := by
  have k : (tick s).canonical = true := canonical_of_bytes (tick_bytes s) w
  unfold abandonDrain
  split
  · exact finishAs_canonical _ _ _ (canonical_of_bytes (dropFrames_bytes ..)
      (canonical_ite (actingFor_canonical c (drainHost_canonical _ _ 0) k) k))
  · exact w

theorem abandonHolding_canonical (id : Nat) (hs : List (BitVec 32)) {s : State} (w : s.canonical = true) :
    (abandonHolding id hs s).canonical = true :=
  foldl_canonical (fun c => abandonDrain_canonical c) _ w

theorem runPlan_canonical (c : InFlight) {pl : Plan} (h : KeepsCanonical pl.run) {s : State} (w : s.canonical = true) :
    (runPlan c pl s).canonical = true := by
  have k : ∀ c, (launch c (pl.writes.foldl (fun s h => advanceGen h s) s)).canonical = true := fun c =>
    canonical_of_bytes ((launch_bytes ..).trans (foldl_bytes _ (fun s h => advanceGen_bytes h s) _ s)) w
  unfold runPlan
  dsimp only
  generalize e : pl.run.run _ = r
  cases r with
  | ok r t =>
    have k' := h.ok (k _) e
    exact canonical_ite (complete_canonical _ k') k'
  | error f t =>
    have k' := scramble_canonical pl.outs (h.error (k _) e)
    exact canonical_ite (complete_canonical _ k') k'

theorem refuseCommand_canonical (c : InFlight) (f : Fail) {s : State} (w : s.canonical = true) :
    (refuseCommand c f s).canonical = true :=
  complete_canonical _ (s := { s with nextId := s.nextId + 1 }) w

/-- A path-S command keeps the canonical form where its checks and its effect do. -/
theorem issueS_canonical (q op : Nat) (p : Packet) {plan : Cmd Plan} (h : PlanKeepsCanonical plan) {s : State}
    (w : s.canonical = true) : (issueS q op p plan s).canonical = true := by
  refine canonical_ite (canonical_of_bytes (noteHead_bytes q p s) w) (unlessOver_canonical (fun {u} w => ?_) w)
  have k : (acting p.layerId (takeHead q op p true u)).canonical = true := canonical_of_bytes (takeHead_bytes ..) w
  dsimp only
  split
  · exact refuseCommand_canonical _ _ k
  · split <;> rename_i e
    · have k' := h.error k e
      exact refuseCommand_canonical _ _ k'
    · exact runPlan_canonical _ (h.ok k e).2 (abandonHolding_canonical _ _ (h.ok k e).1)

theorem readHandle_canonical (use : Nat) : KeepsCanonical (readHandle use) :=
  bind_canonical (act_canonical (canonical_of_bytes (meetHandle_bytes use _))) fun f => by
    cases f with
    | some f => exact throw_canonical f
    | none => exact pure_canonical ()

theorem startF_canonical (c : InFlight) {plan : Cmd Plan} (h : PlanKeepsCanonical plan) {s : State} (w : s.canonical = true) :
    (startF c plan s).canonical = true := by
  have k : PlanKeepsCanonical (readHandle useQueue >>= fun _ => plan) := by mvcgen [readHandle_canonical, h]
  have w' : (acting c.packet.layerId s).canonical = true := w
  unfold startF
  split <;> rename_i e
  · exact runPlan_canonical _ (k.ok w' e).2 (abandonHolding_canonical _ _ (k.ok w' e).1)
  · have k' := k.error w' e
    exact k'

theorem handOff_canonical (c : InFlight) {plan : Cmd Plan} (h : PlanKeepsCanonical plan) (m : Option RailMeans) {s : State}
    (w : s.canonical = true) : (handOff c plan m s).canonical = true := by
  have k : (count 4 0 6 1 s).canonical = true := canonical_of_bytes (count_bytes ..) w
  exact canonical_ite (unlessOver_canonical (abandonHolding_canonical _ _) k)
    (canonical_ite (unlessOver_canonical (abandonHolding_canonical _ _) k) (startF_canonical c h k))

/-- A firmware-path command keeps the canonical form where its checks and its effect do. -/
theorem issueF_canonical (q op : Nat) (p : Packet) {plan : InFlight → Cmd Plan} (h : ∀ c, PlanKeepsCanonical (plan c)) {s : State}
    (m : Option RailMeans) (w : s.canonical = true) : (issueF q op p plan s m).canonical = true := by
  have waits := canonical_of_bytes (noteHead_bytes q p s) w
  have k := canonical_of_bytes (takeHead_bytes q op p false s) w
  refine canonical_ite waits ?_
  dsimp only
  split
  · exact refuseCommand_canonical _ _ k
  · exact canonical_ite (refuseCommand_canonical _ _ (canonical_of_bytes (by simp) k))
      (canonical_ite waits (handOff_canonical _ (h _) m k))

end Sys2Proof.Machine
end

section
/-! SUPPORT. Frames, placement, migration, exchanges and rounds: which of their operations write no byte, and that the others keep the
canonical form. -/

namespace Sys2Proof.Machine

open Std.Do
set_option mvcgen.warning false

/-! ### The operations of Machine/Frames.lean -/

@[simp] theorem State.setConn_bytes (s : State) (c : Conn) : (State.setConn s c).bytes = s.bytes := rfl

@[simp] theorem State.setPort_bytes (s : State) (p : Nat) (v : Port) : (State.setPort s p v).bytes = s.bytes := rfl

@[simp] theorem emit_bytes (e : Sent) (s : State) : (emit e s).bytes = s.bytes := rfl

@[simp] theorem sendControlAs_bytes (dst seat : Nat) (what : Control) (s : State) :
    (sendControlAs dst seat what s).bytes = s.bytes := by
  simp [sendControlAs]

@[simp] theorem sendControl_bytes (dst : Nat) (what : Control) (s : State) : (sendControl dst what s).bytes = s.bytes := by
  simp [sendControl]

@[simp] theorem sendRim_bytes (what : Control) (s : State) : (sendRim what s).bytes = s.bytes := by
  simp [sendRim]

@[simp] theorem noteLines_bytes (id n : Nat) (s : State) : (noteLines id n s).bytes = s.bytes := rfl

@[simp] theorem sendTx_bytes (port : Nat) (mac : BitVec 48) (f : TxFrame) (s : State) :
    (sendTx port mac f s).bytes = s.bytes := by
  simp [sendTx]

@[simp] theorem sendCtl_bytes (typ port : Nat) (mac : BitVec 48) (dst seq : Nat) (s : State) :
    (sendCtl typ port mac dst seq s).bytes = s.bytes := by
  simp [sendCtl]

@[simp] theorem pumpConn_bytes (port : Nat) (mac : BitVec 48) (n : Nat) (s : State) : (pumpConn port mac n s).bytes = s.bytes := by
  induction n generalizing s with
  | zero => rfl
  | succ n ih =>
    simp only [pumpConn]
    split
    · split <;> simp [ih]
    · rfl

@[simp] theorem pump_bytes (port : Nat) (mac : BitVec 48) (s : State) : (pump port mac s).bytes = s.bytes := by
  simp [pump]

@[simp] theorem sendBytes_bytes (cmd port : Nat) (mac : BitVec 48) (dst xgroup transfer : Nat) (bytes : List Byte) (s : State) :
    (sendBytes cmd port mac dst xgroup transfer bytes s).bytes = s.bytes := by
  simp [sendBytes]

@[simp] theorem sendRegion_bytes (cmd port : Nat) (mac : BitVec 48) (dst : Nat) (handle : BitVec 32) (offset token : Nat)
    (bytes : List Byte) (s : State) : (sendRegion cmd port mac dst handle offset token bytes s).bytes = s.bytes := by
  simp [sendRegion]

@[simp] theorem sendMember_bytes (cmd dst xgroup : Nat) (bytes : List Byte) (s : State) :
    (sendMember cmd dst xgroup bytes s).bytes = s.bytes := by
  simp [sendMember]

/-! ### The operations of Machine/Placer.lean -/

theorem forget_canonical (gone : Nat → Bool) {s : State} (w : s.canonical = true) : (forget gone s).canonical = true := by
  have k := foldl_canonical (f := fun s v => if (s.stack (lineStack v)).health = .failed then s
    else (useCheck (lineStack v) (lineNo v) true s).2) (fun v w => canonical_ite w (canonical_of_bytes (useCheck_bytes ..) w))
    (s.pagesOf gone) w
  simp only [State.canonical, Bool.and_eq_true] at k ⊢
  exact ⟨tableWf_filter 0 k.1 _, k.2⟩

theorem planPlace_canonical (p : Packet) : PlanKeepsCanonical (planPlace p) := by
  mvcgen [planPlace, refuse, require_canonical]
  refine ⟨‹_›, ?_⟩
  mvcgen [upd]
  exact forgetLines_canonical _ _ ‹_›

theorem planRelease_canonical (p : Packet) : PlanKeepsCanonical (planRelease p) :=
  planBind_canonical (reservedZero_canonical _ _) fun _ => planBind_canonical (requireLive_canonical _) fun _ =>
    planPure_canonical (updPure_canonical (fun {u} w => canonical_of_bytes (by split <;> simp) w) _)

theorem releaseFree_canonical (h : BitVec 32) {s : State} (w : s.canonical = true) : (releaseFree h s).canonical = true := by
  unfold releaseFree
  split
  · exact w
  · refine canonical_ite ?_ w
    split
    · exact finishAs_canonical _ _ _ (forgetLines_canonical _ _ w)
    · exact finishAs_canonical _ _ _ w

@[simp] theorem assignSpares_bytes (old : List (Option Nat)) (s : State) : (assignSpares old s).2.bytes = s.bytes := by
  simp only [assignSpares, bytes_ite, raisePlc_bytes, ite_self]
  exact foldl_bytes _ (fun s e => by split <;> simp) _ _

@[simp] theorem recordMark_bytes (die pos trigger : Nat) (s : State) : (recordMark die pos trigger s).bytes = s.bytes := rfl

@[simp] theorem retire_bytes (die pos : Nat) (s : State) : (retire die pos s).bytes = s.bytes := by
  simp [retire]

@[simp] theorem markRetire_bytes (die pos trigger : Nat) (s : State) : (markRetire die pos trigger s).bytes = s.bytes := by
  simp [markRetire]

@[simp] theorem noteDouble_bytes (stake : Nat) (s : State) : (noteDouble stake s).bytes = s.bytes := by
  simp only [noteDouble]
  split <;> simp

@[simp] theorem readStakeSram_bytes (p : SramPlace) (s : State) : (readStakeSram p s).2.bytes = s.bytes := by
  grind [readStakeSram, clearSram_bytes, meetSram_bytes, noteDouble_bytes, reportSram_bytes]

theorem readSrams_canonical (l : List SramPlace) : KeepsCanonical (readSrams l) := by
  induction l with
  | nil => exact pure_canonical ()
  | cons p l ih =>
    refine bind_canonical (act_canonical (canonical_of_bytes (readStakeSram_bytes p _))) fun f => ?_
    cases f with
    | some f => exact throw_canonical f
    | none => exact ih

@[simp] theorem takeMigrations_bytes (l : List (Nat × Desc)) (first : Bool) (budget : Nat) (s : State) :
    (takeMigrations l first budget s).bytes = s.bytes := by
  induction l generalizing first budget s with
  | nil => rfl
  | cons e l ih =>
    simp only [takeMigrations]
    (repeat' split) <;> simp [ih]

@[simp] theorem startCopy_bytes (s : State) : (startCopy s).bytes = s.bytes := by
  simp only [startCopy]
  (repeat' split) <;> simp

@[simp] theorem buildMigrations_bytes (s : State) : (buildMigrations s).2.bytes = s.bytes := by
  simp only [buildMigrations]
  split <;> simp

@[simp] theorem takeMoved_bytes (d : Desc) (newLoc : Location) (line : Nat) (s : State) :
    (takeMoved d newLoc line s).2.bytes = s.bytes := by
  grind [takeMoved, readLine_bytes, reportCrc_bytes]

theorem putMoved_canonical (d : Desc) (newLoc : Location) (line : Nat) (m : Moved) {s : State} (w : s.canonical = true) :
    (putMoved d newLoc line m s).canonical = true := by
  refine canonical_of_bytes (count_bytes ..) ?_
  split
  · exact writeLine_canonical _ _ _ _ _ w
  · exact forget_canonical _ w
  · exact canonical_of_bytes (enterPoison_bytes ..) w

@[simp] theorem takeMovedLines_bytes (d : Desc) (newLoc : Location) (line n : Nat) (s : State) :
    (takeMovedLines d newLoc line n s).2.bytes = s.bytes := by
  induction n generalizing line s with
  | zero => rfl
  | succ n ih => exact (ih ..).trans (takeMoved_bytes ..)

theorem putMovedLines_canonical (d : Desc) (newLoc : Location) (line : Nat) (l : List Moved) {s : State} (w : s.canonical = true) :
    (putMovedLines d newLoc line l s).canonical = true := by
  induction l generalizing line s with
  | nil => exact w
  | cons m l ih => exact ih _ (putMoved_canonical _ _ _ m w)

theorem copyNext_canonical {s : State} (w : s.canonical = true) : (copyNext s).canonical = true := by
  unfold copyNext
  split
  · exact w
  · split
    · exact w
    · rename_i m _ _ d _
      refine canonical_ite w (unlessOver_canonical (fun {u} w => ?_) w)
      have k := canonical_of_bytes (takeMoved_bytes d m.newLoc m.pointer u) w
      have k' := putMoved_canonical d m.newLoc m.pointer (takeMoved d m.newLoc m.pointer u).1 k
      exact k'

theorem migrationCopy_canonical {s : State} (w : s.canonical = true) : (migrationCopy s).canonical = true := by
  unfold migrationCopy
  split
  · exact w
  · refine canonical_ite w ?_
    split
    · exact canonical_of_bytes (startCopy_bytes _) w
    · grind [takeMovedLines_bytes, putMovedLines_canonical, forget_canonical, modDesc_bytes, trace_bytes, startCopy_bytes,
        State.canonical, State.bytes]

@[simp] theorem migrationResume_bytes (s : State) : (migrationResume s).bytes = s.bytes := by
  simp only [migrationResume]
  (repeat' split) <;> simp

@[simp] theorem latchPlc_bytes (s : State) : (latchPlc s).bytes = s.bytes := rfl

@[simp] theorem latchTraffic_bytes (s : State) : (latchTraffic s).bytes = s.bytes := rfl

@[simp] theorem roundBoundary_bytes (s : State) : (roundBoundary s).bytes = s.bytes := by
  simp [roundBoundary, foldl_bytes]

/-! ### The operations of Machine/Exchange.lean -/

@[simp] theorem rebook_bytes (s : State) : (rebook s).bytes = s.bytes := rfl

theorem requireExchange_canonical : KeepsCanonical requireExchange := by
  mvcgen [requireExchange, require_canonical]

theorem checkBundle_canonical (p : Packet) : KeepsCanonical (checkBundle p) := by
  mvcgen [checkBundle, require_canonical]

theorem planReduce_canonical (p : Packet) : PlanKeepsCanonical (planReduce p) := by
  have seals : KeepsCanonical (act sealSummary) := act_canonical sealSummary_canonical
  mvcgen [planReduce, checkBundle_canonical, checkExtent_canonical, checkStakes_canonical, checkSummaryRegion_canonical,
    require_canonical, requireExchange_canonical, requireLive_canonical, reservedZero_canonical]
  all_goals exact ⟨‹_›, by mvcgen [seals]⟩

theorem planBroadcast_canonical (p : Packet) : PlanKeepsCanonical (planBroadcast p) := by
  mvcgen [planBroadcast, checkBundle_canonical, checkExtent_canonical, refuse, require_canonical, requireExchange_canonical,
    requireLive_canonical, reservedZero_canonical]
  exact ⟨‹_›, by mvcgen⟩

theorem planSend_canonical (p : Packet) : PlanKeepsCanonical (planSend p) := by
  mvcgen [planSend, checkBundle_canonical, checkExtent_canonical, require_canonical, requireExchange_canonical,
    requireLive_canonical, reservedZero_canonical]
  exact ⟨‹_›, by mvcgen⟩

@[simp] theorem doneWith_bytes (c : InFlight) (f : Option Fail) (s : State) : (doneWith c f s).bytes = s.bytes := rfl

theorem spoil_canonical (c : InFlight) {s : State} (w : s.canonical = true) : (spoil c s).canonical = true :=
  canonical_ite (canonical_of_bytes (tick_bytes _) (writeBytes_canonical _ _ _ w)) w

theorem readStaging_canonical : KeepsCanonical readStaging := by
  mvcgen [readStaging, readHandle_canonical]

theorem ownBytes_canonical (p : Packet) : KeepsCanonical (ownBytes p) := by
  mvcgen [ownBytes, readBytes_canonical, readStaging_canonical]

@[simp] theorem holdReduced_bytes (c : InFlight) (n mine : Nat) (leaves : List Leaf) (s : State) :
    (holdReduced c n mine leaves s).bytes = s.bytes := by
  simp only [holdReduced]
  (repeat' split) <;> simp

@[simp] theorem moved_bytes (c : InFlight) (f : Option Fail) (s : State) : (moved c f s).bytes = s.bytes := rfl

theorem adderDie_canonical (p : Packet) : KeepsCanonical (adderDie p) := by
  mvcgen [adderDie, Group.reader_canonical, readSrams_canonical]

theorem reduceInto_canonical (p : Packet) (n mine : Nat) (leaves : List Leaf) : KeepsCanonical (reduceInto p n mine leaves) := by
  mvcgen [reduceInto, adderDie_canonical, ownBytes_canonical, writeAnd_canonical]

@[simp] theorem sendHalves_bytes (c : InFlight) (g : XGroup) (mine : Nat) (s : State) : (sendHalves c g mine s).bytes = s.bytes :=
  foldl_bytes _ (fun s l => by split <;> simp) _ s

theorem runReduce_canonical (c : InFlight) (leaves : List Leaf) {s : State} (w : s.canonical = true) :
    (runReduce c leaves s).canonical = true := by
  unfold runReduce
  dsimp only
  split
  · exact w
  · refine canonical_ite w ?_
    split <;> rename_i e
    · exact canonical_of_bytes (doneWith_bytes ..) (spoil_canonical c ((reduceInto_canonical _ _ _ _).error w e))
    · exact canonical_of_bytes (by simp) ((reduceInto_canonical _ _ _ _).ok w e)

theorem runBroadcast_canonical (c : InFlight) (xgroup root off len : Nat) (b : List Byte) {s : State} (w : s.canonical = true) :
    (runBroadcast c xgroup root off len b s).canonical = true := by
  unfold runBroadcast
  dsimp only
  split
  · exact w
  · split
    · exact canonical_of_bytes (doneWith_bytes ..) w
    · refine canonical_ite ?_ ?_
      · split <;> rename_i e
        · exact canonical_of_bytes (doneWith_bytes ..) ((ownBytes_canonical _).error w e)
        · exact canonical_of_bytes (by simp [foldl_bytes]) ((ownBytes_canonical _).ok w e)
      · split <;> rename_i e
        · exact canonical_of_bytes (doneWith_bytes ..) (spoil_canonical c (readStaging_canonical.error w e))
        · exact canonical_of_bytes (moved_bytes ..) (writeBytes_canonical _ _ _ (readStaging_canonical.ok w e))

theorem runSend_canonical (c : InFlight) (accepted : Bool) (port : Nat) (mac : BitVec 48) {s : State} (w : s.canonical = true) :
    (runSend c accepted port mac s).canonical = true := by
  refine canonical_ite (canonical_of_bytes (doneWith_bytes ..) w) ?_
  split <;> rename_i e
  · exact canonical_of_bytes (doneWith_bytes ..) ((ownBytes_canonical _).error w e)
  · exact canonical_of_bytes (by simp) ((ownBytes_canonical _).ok w e)

theorem failTransfer_canonical (c : InFlight) (status detail : Nat) {s : State} (w : s.canonical = true) :
    (failTransfer c status detail s).canonical = true :=
  canonical_of_bytes (doneWith_bytes ..) (spoil_canonical c w)

theorem runTransfer_canonical (c : InFlight) (t : Transfer) {s : State} (w : s.canonical = true) :
    (runTransfer c t s).canonical = true := by
  unfold runTransfer
  split
  · exact runReduce_canonical _ _ w
  · exact runBroadcast_canonical _ _ _ _ _ _ w
  · exact runSend_canonical _ _ _ _ w
  · exact failTransfer_canonical _ _ _ w
  · exact failTransfer_canonical _ _ _ w
  · exact w

theorem breakTransfer_canonical (c : InFlight) (t : Transfer) {s : State} (w : s.canonical = true) :
    (breakTransfer c t s).canonical = true := by
  have k : (dropFrames c.id s).canonical = true := canonical_of_bytes (dropFrames_bytes ..) w
  unfold breakTransfer
  split
  · exact failTransfer_canonical _ _ _ k
  · exact failTransfer_canonical _ _ _ k
  · exact w

theorem transferStart_canonical (q ordinal : Nat) (t : Transfer) {s : State} (w : s.canonical = true) :
    (transferStart q ordinal t s).canonical = true := by
  unfold transferStart
  split
  · exact w
  · refine canonical_ite w ?_
    split
    · exact canonical_ite (actingFor_canonical _ (runTransfer_canonical _ t) w) w
    · exact canonical_ite (actingFor_canonical _ (breakTransfer_canonical _ t) w) w
    · exact canonical_ite (actingFor_canonical _ (breakTransfer_canonical _ t) w) w
    · exact w

@[simp] theorem fireNext_bytes (entry : Nat) (s : State) : (fireNext entry s).bytes = s.bytes := by
  simp [fireNext]

@[simp] theorem openWindow_bytes (entry start stop : Nat) (s : State) : (openWindow entry start stop s).bytes = s.bytes := rfl

@[simp] theorem windowInstance_bytes (entry : Nat) (s : State) : (windowInstance entry s).bytes = s.bytes := by
  simp only [windowInstance]
  split <;> simp

theorem checkEntries_canonical (l : List (Nat × DrainEntry)) : KeepsCanonical (checkEntries l) := by
  induction l with
  | nil => mvcgen [checkEntries]
  | cons e l ih => mvcgen [checkEntries, ih, require_canonical]

theorem checkSources_canonical (l : List DrainEntry) : KeepsCanonical (checkSources l) := by
  induction l with
  | nil => mvcgen [checkSources]
  | cons e l ih => mvcgen [checkSources, ih, checkExtent_canonical]

theorem requireSources_canonical (l : List DrainEntry) : KeepsCanonical (requireSources l) := by
  induction l with
  | nil => mvcgen [requireSources]
  | cons e l ih => mvcgen [requireSources, ih, requireLive_canonical]

theorem planDrain_canonical (q : Nat) (p : Packet) : PlanKeepsCanonical (planDrain q p) := by
  mvcgen [planDrain, blockReservedZero_canonical, checkEntries_canonical, checkSources_canonical, readBlock_canonical,
    require_canonical, requireSources_canonical, reservedZero_canonical, seqDie_canonical]
  exact ⟨‹_›, by mvcgen⟩

@[simp] theorem drainLines_bytes (l : List (DrainEntry × Nat)) (s : State) : (drainLines l s).2.bytes = s.bytes := by
  induction l generalizing s with
  | nil => rfl
  | cons e l ih => grind [drainLines, drainRead_bytes]

@[simp] theorem drainSend_bytes (c : InFlight) (port : Nat) (mac : BitVec 48) (seat : Nat) (remote : BitVec 32) (l : List DrainEntry)
    (s : State) : (drainSend c port mac seat remote l s).2.bytes = s.bytes := by
  induction l generalizing s with
  | nil => rfl
  | cons e l ih => grind [drainSend, drainLines_bytes, sendRegion_bytes]

@[simp] theorem drainStart_bytes (q ordinal : Nat) (path : Option (Fin 12 × BitVec 48)) (s : State) :
    (drainStart q ordinal path s).bytes = s.bytes := by
  simp only [drainStart]
  (repeat' split) <;> simp

theorem drainEnd_canonical (c : InFlight) (d : DrainPlan) {s : State} (w : s.canonical = true) :
    (drainEnd c d s).canonical = true := by
  unfold drainEnd
  dsimp only
  split
  · exact canonical_ite w (finishAs_canonical _ _ _ w)
  · have k := drainHost_canonical d d.lines 0 w
    split <;> rename_i e
    · exact finishAs_canonical _ _ _ (canonical_of_snd k e)
    · exact finishAs_canonical _ _ _ (canonical_of_snd k e)

theorem windowGraceExpiry_canonical (q ordinal : Nat) (absent : List Nat) {s : State} (w : s.canonical = true) :
    (windowGraceExpiry q ordinal absent s).canonical = true := by
  unfold windowGraceExpiry
  split
  · exact w
  · have k := fun layer payload => canonical_of_bytes (trace_bytes tCLUSTER 0 0x14 layer payload s) w
    exact canonical_ite w (canonical_of_bytes (sendRim_bytes ..)
      (finishAs_canonical _ _ _ (canonical_ite (k ..) (actingFor_canonical _ (spoil_canonical _) (k ..)))))

/-! ### The operations of Machine/Rounds.lean -/

@[simp] theorem latchPolicy_bytes (s : State) : (latchPolicy s).bytes = s.bytes := by
  simp only [latchPolicy]
  split <;> simp

@[simp] theorem boundary_bytes (s : State) : (boundary s).bytes = s.bytes := by
  simp [boundary]

@[simp] theorem clearRound_bytes (s : State) : (clearRound s).bytes = s.bytes := rfl

theorem commitEffect_canonical (m : Summary) {s : State} (w : s.canonical = true) : (commitEffect m s).2.canonical = true := by
  unfold commitEffect
  extract_lets _ s₁ s₂ m₂
  have k : s₂.canonical = true := canonical_ite w (canonical_of_bytes ((floorPolicy_bytes ..).trans (ladderPolicy_bytes ..)) w)
  split
  rename_i e
  exact canonical_of_bytes (by simp) (canonical_of_snd (writeSlot_canonical 1 m₂ k) e)

theorem finishAll_canonical (l : List InFlight) (status detail : Nat) {s : State} (w : s.canonical = true) :
    (finishAll l status detail s).canonical = true :=
  foldl_canonical (fun c w => finishAs_canonical c.id status detail w) l w

@[simp] theorem clearVerify_bytes (s : State) : (clearVerify s).bytes = s.bytes := rfl

@[simp] theorem writeTakeover_bytes (w : Nat) (s : State) : (writeTakeover w s).bytes = s.bytes := by
  simp [writeTakeover]

theorem planCommitAlone_canonical : PlanKeepsCanonical planCommitAlone :=
  planBind_canonical checkSummaryRegion_canonical fun _ => planBind_canonical get_canonical fun s => by
    split
    · exact planPure_canonical (updPure_canonical (canonical_of_bytes (by simp)) _)
    · exact planPure_canonical (bind_canonical (act_canonical sealSummary_canonical) fun _ => bind_canonical get_canonical fun _ =>
        bind_canonical (act_canonical (commitEffect_canonical _)) fun _ => bind_canonical (upd_canonical id) fun _ =>
          bind_canonical get_canonical fun _ => pure_canonical _)

theorem planCommitMember_canonical (updated : Bool) : PlanKeepsCanonical (planCommitMember updated) :=
  planBind_canonical get_canonical fun s => by
    dsimp only
    split
    · split
      · exact planPure_canonical (updPure_canonical (canonical_of_bytes (by simp)) _)
      · split
        · exact planPure_canonical (updPure_canonical (canonical_of_bytes (by simp)) _)
        · split
          · exact planPure_canonical (updPure_canonical (canonical_of_bytes (by simp)) _)
          · exact planPure_canonical (bind_canonical (upd_canonical (canonical_of_bytes (by simp))) fun _ =>
              updPure_canonical (canonical_of_bytes (by simp)) _)
    · exact planRefuse_canonical _ _
    · exact planRefuse_canonical _ _

theorem planCommit_canonical (p : Packet) : PlanKeepsCanonical (planCommit p) :=
  planBind_canonical (reservedZero_canonical _ _) fun _ => planBind_canonical get_canonical fun s => by
    split
    · exact planCommitAlone_canonical
    · exact planCommitMember_canonical _

theorem commitMessage_canonical (round : BitVec 32) (seats : Nat) {s : State} (w : s.canonical = true) :
    (commitMessage round seats s).canonical = true :=
  canonical_ite w (finishAll_canonical _ _ _ (commitEffect_canonical _ w))

theorem rollbackEffect_canonical {s : State} (w : s.canonical = true) : (rollbackEffect s).canonical = true :=
  finishAll_canonical _ _ _ (canonical_of_bytes ((boundary_bytes _).trans (clearRound_bytes s)) w)

@[simp] theorem reportRedo_bytes (kind : ReportKind) (s : State) : (reportRedo kind s).bytes = s.bytes := by
  simp only [reportRedo]
  split <;> simp

theorem planRollback_canonical (p : Packet) : PlanKeepsCanonical (planRollback p) :=
  planBind_canonical (reservedZero_canonical _ _) fun _ => planPure_canonical
    (updPure_canonical (fun w => canonical_of_bytes (reportRedo_bytes _ _) (rollbackEffect_canonical w)) _)

theorem planSave_canonical (p : Packet) (die : Option Nat) : PlanKeepsCanonical (planSave p die) := by
  unfold planSave
  generalize State.roundRecord = recordOf
  mvcgen [requireLive_canonical, require_canonical, checkExtent_canonical, readBytes_canonical]
  exact ⟨‹_›, bind_canonical (upd_canonical (canonical_of_bytes (by simp))) fun _ => writeAnd_canonical _ _ _⟩

theorem planLoad_canonical (p : Packet) : PlanKeepsCanonical (planLoad p) := by
  mvcgen [planLoad, require_canonical, requireLive_canonical]
  exact ⟨‹_›, by mvcgen⟩

theorem planRecord_canonical (q : Nat) (p : Packet) : PlanKeepsCanonical (planRecord q p) :=
  planBind_canonical (reservedZero_canonical _ _) fun _ => by
    split
    · exact planLoad_canonical p
    · exact planBind_canonical (seqDie_canonical q) fun die => planSave_canonical p die

theorem readRecord_canonical (h : BitVec 32) (off : Nat) (die : Option Nat) : KeepsCanonical (readRecord h off die) := by
  mvcgen [readRecord, checkExtent_canonical, readBytes_canonical, require_canonical]

theorem restore_canonical (b : List Byte) (verify : Bool) {s : State} (w : s.canonical = true) :
    (restore b verify s).2.canonical = true := by
  unfold restore
  extract_lets s₁ layers
  split
  extract_lets m pending s₂ fits
  have k₂ : s₂.canonical = true := rollbackEffect_canonical w
  have k₃ : (if fits then writeSlot 1 m s₂ else (none, s₂)).2.canonical = true := by
    split
    · exact writeSlot_canonical 1 m k₂
    · exact k₂
  split
  rename_i e
  exact canonical_of_bytes (reportRedo_bytes ..) (canonical_of_snd k₃ e)

theorem loadEnd_canonical (c : InFlight) {s : State} (w : s.canonical = true) : (loadEnd c s).canonical = true := by
  refine canonical_ite w ?_
  split <;> rename_i e
  · exact finishAs_canonical _ _ _ ((readRecord_canonical _ _ _).error w e)
  · rename_i b _
    have k := restore_canonical b (bit (c.packet.num 16 1) 1) ((readRecord_canonical _ _ _).ok w e)
    split <;> rename_i e <;> rw [e] at k
    · exact finishAs_canonical _ _ _ k
    · exact finishAs_canonical _ _ _ k

end Sys2Proof.Machine
end

section
/-! SUPPORT. Rim time, the cluster, the ledger, power, resets, bring-up, patrol and recovery: which of their operations write no byte, and
that the others keep the canonical form. -/

namespace Sys2Proof.Machine

open Std.Do
set_option mvcgen.warning false

/-! ### The operations of Machine/Time.lean -/

@[simp] theorem wake_bytes (s : State) : (wake s).bytes = s.bytes := rfl

@[simp] theorem shiftTimers_bytes (d : Int) (s : State) : (shiftTimers d s).bytes = s.bytes := rfl

@[simp] theorem scrubAgain_bytes (s : State) : (scrubAgain s).bytes = s.bytes := rfl

@[simp] theorem setTime_bytes (t : Nat) (s : State) : (setTime t s).bytes = s.bytes := by
  simp [setTime]

@[simp] theorem correctTime_bytes (offset : Int) (s : State) : (correctTime offset s).bytes = s.bytes := by
  simp [correctTime]

@[simp] theorem synchronise_bytes (offset : Int) (s : State) : (synchronise offset s).bytes = s.bytes := by
  simp [synchronise]

@[simp] theorem takeSync_bytes (p origin : Nat) (s : State) : (takeSync p origin s).bytes = s.bytes := by
  simp only [takeSync]
  split <;> simp

@[simp] theorem sync_bytes (p domain seqId : Nat) (s : State) : (sync p domain seqId s).bytes = s.bytes := by
  simp only [sync]
  (repeat' split) <;> simp

@[simp] theorem followUp_bytes (p domain seqId origin : Nat) (s : State) :
    (followUp p domain seqId origin s).bytes = s.bytes := by
  simp [followUp]

theorem finishThese_canonical (l : List InFlight) (status : Nat) {s : State} (w : s.canonical = true) :
    (finishThese l status s).canonical = true :=
  foldl_canonical (fun (c : InFlight) w => finishAs_canonical c.id status 0 w) l w

theorem ite_bytes {c : Prop} [Decidable c] {a b : State} {v : List Host.Cell × List Host.Cell} (ha : a.bytes = v) (hb : b.bytes = v) :
    (if c then a else b).bytes = v := by
  split <;> assumption

theorem detach_canonical {s : State} (w : s.canonical = true) : (detach s).canonical = true :=
  finishThese_canonical _ _ (canonical_of_bytes rfl w)

theorem timeLost_canonical {s : State} (w : s.canonical = true) : (timeLost s).canonical = true :=
  canonical_ite w (detach_canonical (finishThese_canonical _ _ (canonical_of_bytes (by simp) w)))

@[simp] theorem latchPtpDomain_bytes (s : State) : (latchPtpDomain s).bytes = s.bytes := by
  unfold latchPtpDomain
  split <;> rfl

@[simp] theorem masterPorts_bytes (s : State) : (masterPorts s).bytes = s.bytes :=
  foldl_bytes _ (fun s p => State.setPort_bytes s p _) _ s

/-! ### The operations of Machine/Rim.lean -/

@[simp] theorem modMember_bytes (seat : Nat) (f : Member → Member) (s : State) : (modMember seat f s).bytes = s.bytes := by
  simp only [modMember]
  split <;> simp

@[simp] theorem sendSeats_bytes (what : Control) (s : State) : (sendSeats what s).bytes = s.bytes := by
  simp [sendSeats, foldl_bytes]

@[simp] theorem syncDeputy_bytes (s : State) : (syncDeputy s).bytes = s.bytes := by
  simp only [syncDeputy]
  split <;> simp

@[simp] theorem oweInstance_bytes (i : Nat) (s : State) : (oweInstance i s).bytes = s.bytes := by
  simp only [oweInstance]
  split <;> simp

@[simp] theorem writeEntry_bytes (i : Nat) (b : EntryBody) (s : State) : (writeEntry i b s).bytes = s.bytes := by
  simp [writeEntry]

@[simp] theorem renewEntry_bytes (i : Nat) (b : EntryBody) (s : State) : (renewEntry i b s).bytes = s.bytes := by
  simp [renewEntry]

@[simp] theorem setWindows_bytes (l : List (Fin 16 × EntryBody)) (s : State) : (setWindows l s).bytes = s.bytes := by
  simp [setWindows, foldl_bytes]

theorem takeSeat_canonical (d : Decision) (detail : Nat) {s : State} (w : s.canonical = true) :
    (takeSeat d detail s).canonical = true := by
  unfold takeSeat
  split
  · exact finishAll_canonical _ _ _ (canonical_of_bytes (setWindows_bytes _ _) w)
  · exact w

theorem stopRound_canonical (diverged : Bool) (detail : Nat) {s : State} (w : s.canonical = true) :
    (stopRound diverged detail s).canonical = true :=
  finishAll_canonical _ _ _ (canonical_of_bytes rfl w)

theorem followDecision_canonical (d : Decision) (detail : Nat) {s : State} (w : s.canonical = true) :
    (followDecision d detail s).canonical = true := by
  unfold followDecision
  split
  · refine canonical_ite ?_ w
    split
    · exact finishAs_canonical _ _ _ w
    · exact w
  · exact canonical_ite w (stopRound_canonical _ _ w)
  · exact canonical_ite w (stopRound_canonical _ _ w)
  · exact stopRound_canonical _ _ (canonical_of_bytes rfl w)
  · exact w

@[simp] theorem showDecision_bytes (d : Decision) (detail : Nat) (s : State) : (showDecision d detail s).bytes = s.bytes := by
  simp [showDecision]

theorem applyDecision_canonical (d : Decision) {s : State} (w : s.canonical = true) : (applyDecision d s).canonical = true := by
  have k : ∀ detail, (showDecision d detail s).canonical = true := fun detail => canonical_of_bytes (showDecision_bytes d detail s) w
  exact canonical_ite w (canonical_ite (detach_canonical (k _)) (canonical_ite w
    (followDecision_canonical _ _ (takeSeat_canonical _ _ (k _)))))

@[simp] theorem seatStandbys_bytes (l : List (Nat × Option Nat × Option Nat)) (s : State) : (seatStandbys l s).bytes = s.bytes := by
  fun_induction seatStandbys l s <;> simp_all

@[simp] theorem modMembers_bytes (f : Member → Member) (s : State) : (modMembers f s).bytes = s.bytes := rfl

@[simp] theorem sendDecision_bytes (d : RimDecision) (s : State) : (sendDecision d s).bytes = s.bytes := by
  simp [sendDecision, foldl_bytes]

theorem actOn_canonical (d : RimDecision) {s : State} (w : s.canonical = true) : (actOn d s).canonical = true :=
  applyDecision_canonical _ (canonical_of_bytes (by simp) w)

theorem propose_canonical (d : RimDecision) {s : State} (w : s.canonical = true) : (propose d s).canonical = true := by
  unfold propose
  split
  · exact canonical_of_bytes (sendControl_bytes _ _ _) w
  · exact actOn_canonical d w

theorem decideDomain_canonical (failed : Bool) {s : State} (w : s.canonical = true) : (decideDomain failed s).canonical = true :=
  propose_canonical (w := w) ..

theorem failRound_canonical {s : State} (w : s.canonical = true) : (failRound s).canonical = true := by
  unfold failRound
  split
  · exact canonical_ite (decideDomain_canonical _ w) w
  · exact decideDomain_canonical _ w

theorem actCommit_canonical (d : RimDecision) {s : State} (w : s.canonical = true) : (actCommit d s).canonical = true := by
  have k := commitMessage_canonical d.round (s.rim.seats.countP fun e => e.2.live && !e.2.standby && e.2.updated)
    (canonical_of_bytes (sendSeats_bytes
      (.commit d.round (s.rim.seats.countP fun e => e.2.live && !e.2.standby && e.2.updated)) s) w)
  exact canonical_ite (canonical_of_bytes (by simp) k) (decideDomain_canonical _ (canonical_of_bytes (by simp) k))

theorem tryCommit_canonical {s : State} (w : s.canonical = true) : (tryCommit s).canonical = true := by
  refine canonical_ite w ?_
  dsimp only
  split
  · exact canonical_of_bytes (sendControl_bytes _ _ _) w
  · exact actCommit_canonical _ w

theorem release_canonical {s : State} (w : s.canonical = true) : (release s).canonical = true := by
  unfold release
  split
  · exact w
  · exact canonical_ite (actCommit_canonical _ (canonical_of_bytes rfl w)) (actOn_canonical _ (canonical_of_bytes rfl w))

theorem declareLost_canonical (seat : Nat) {s : State} (w : s.canonical = true) : (declareLost seat s).canonical = true := by
  unfold declareLost
  split
  · exact w
  rename_i m _
  refine canonical_ite w (canonical_ite (canonical_of_bytes (by simp) w) ?_)
  have released : ∀ {u : State}, u.canonical = true →
      (match u.deputySeat with | some _ => u | none => release u).canonical = true := by
    intro u k
    split
    · exact k
    · exact release_canonical k
  exact released (canonical_ite (canonical_of_bytes (by simp) w)
    (canonical_ite (canonical_of_bytes (by simp) w) (decideDomain_canonical _ (canonical_of_bytes (by simp) w))))

@[simp] theorem withdrawReports_bytes (seat : Nat) (s : State) : (withdrawReports seat s).bytes = s.bytes := by
  simp [withdrawReports]

@[simp] theorem noteRedo_bytes (seat : Nat) (s : State) : (noteRedo seat s).bytes = s.bytes := by
  simp [noteRedo]

theorem rimReport_canonical (r : Report) {s : State} (w : s.canonical = true) : (rimReport r s).canonical = true := by
  unfold rimReport
  split
  · exact w
  refine canonical_ite (canonical_of_bytes (by simp) w) ?_
  dsimp only
  split
  · exact canonical_ite (failRound_canonical (canonical_of_bytes (by simp) w)) (canonical_of_bytes (by simp) w)
  · exact canonical_ite (failRound_canonical (canonical_of_bytes (by simp) w)) (tryCommit_canonical (canonical_of_bytes (by simp) w))
  · exact canonical_ite (canonical_of_bytes (by simp) w) (failRound_canonical (canonical_of_bytes (by simp) w))
  · exact canonical_ite (canonical_of_bytes (by simp) w) w
  · exact canonical_ite w (foldl_canonical (fun x => declareLost_canonical x) _ w)

theorem sendHeld_canonical (c : RimCopy) {s : State} (w : s.canonical = true) : (sendHeld c s).canonical = true := by
  unfold sendHeld
  split
  · exact canonical_ite (actCommit_canonical _ w) (actOn_canonical _ w)
  · exact applyDecision_canonical _ (canonical_of_bytes (sendDecision_bytes _ _) w)
  · exact w

theorem becomeRim_canonical {s : State} (w : s.canonical = true) : (becomeRim s).canonical = true := by
  refine canonical_ite w (declareLost_canonical _ (canonical_of_bytes (sendSeats_bytes _ _) (sendHeld_canonical _ ?_)))
  exact canonical_of_bytes (by simp) w

/-! ### The operations of Machine/Cluster.lean -/

theorem groupsEnd_canonical (h : BitVec 32) (base : Nat) (die : Option Nat) (n off : Nat) :
    KeepsCanonical (groupsEnd h base die n off) := by
  induction n generalizing off with
  | zero => exact pure_canonical _
  | succ n ih =>
    exact bind_canonical (checkExtent_canonical _ _ _) fun _ => bind_canonical (readBytes_canonical _ _ _ _ _) fun _ => ih _

@[simp] theorem formDomain_bytes (id : BitVec 32) (ms : List (Nat × Member)) (gs : List XGroup) (s : State) :
    (formDomain id ms gs s).bytes = s.bytes := by
  simp [formDomain]

theorem planForm_canonical (q : Nat) (p : Packet) : PlanKeepsCanonical (planForm q p) := by
  mvcgen [planForm, checkExtent_canonical, groupsEnd_canonical, readBytes_canonical, require_canonical, requireLive_canonical,
    seqDie_canonical]
  exact ⟨‹_›, updPure_canonical (canonical_of_bytes (by simp)) _⟩

theorem planJoin_canonical (p : Packet) : PlanKeepsCanonical (planJoin p) :=
  planBind_canonical get_canonical fun _ => planBind_canonical (require_canonical _ _ _) fun _ =>
    planBind_canonical (require_canonical _ _ _) fun _ => planBind_canonical (require_canonical _ _ _) fun _ =>
      planPure_canonical (bind_canonical (upd_canonical (canonical_of_bytes (by simp))) fun _ =>
        bind_canonical get_canonical fun _ => pure_canonical _)

theorem planLeave_canonical : PlanKeepsCanonical planLeave :=
  planBind_canonical get_canonical fun _ => planBind_canonical (require_canonical _ _ _) fun _ =>
    planPure_canonical (updPure_canonical (fun w => detach_canonical (canonical_of_bytes (sendRim_bytes _ _) w)) _)

theorem planJoinDomain_canonical (q : Nat) (p : Packet) : PlanKeepsCanonical (planJoinDomain q p) := by
  mvcgen [planJoinDomain, planForm_canonical, planJoin_canonical, planLeave_canonical, refuse, require_canonical,
    reservedZero_canonical]

theorem acceptJoin_canonical (dev : BitVec 64) (dom : BitVec 32) (locked : Bool) (ports : List PortReport) (mac : BitVec 48)
    {s : State} (w : s.canonical = true) : (acceptJoin dev dom locked ports mac s).canonical = true := by
  unfold acceptJoin
  dsimp only
  split
  · exact canonical_ite w (finishAll_canonical _ _ _ (canonical_of_bytes (by simp) w))
  · exact w

theorem joined_canonical (seat : Nat) (round : BitVec 32) (standby : Bool) (set : Nat) (groups : List XGroup)
    (windows : List (Fin 16 × EntryBody)) (ptp : List PtpState) (macs : List (Nat × BitVec 48)) {s : State}
    (w : s.canonical = true) : (joined seat round standby set groups windows ptp macs s).canonical = true :=
  canonical_ite w (finishAll_canonical _ _ _ (canonical_of_bytes (setWindows_bytes _ _)
    (foldl_canonical (fun p => canonical_of_bytes (State.setPort_bytes _ p _)) _ (canonical_of_bytes rfl w))))

theorem seatLost_canonical (seat : Nat) {s : State} (w : s.canonical = true) : (seatLost seat s).canonical = true :=
  canonical_ite (canonical_of_bytes (syncDeputy_bytes _) (declareLost_canonical seat w)) w

theorem requireRim_canonical : KeepsCanonical requireRim := by
  mvcgen [requireRim, require_canonical]

theorem planAssign_canonical (p : Packet) : PlanKeepsCanonical (planAssign p) :=
  planBind_canonical (reservedZero_canonical _ _) fun _ => planBind_canonical get_canonical fun s =>
    planBind_canonical (require_canonical _ _ _) fun _ => planBind_canonical (require_canonical _ _ _) fun _ => by
      split
      · exact planBind_canonical (require_canonical _ _ _) fun _ => planPure_canonical (pure_canonical _)
      · refine planBind_canonical requireRim_canonical fun _ => planBind_canonical (require_canonical _ _ _) fun _ =>
          planBind_canonical (require_canonical _ _ _) fun _ => planPure_canonical (updPure_canonical (fun {u} w => ?_) _)
        exact canonical_of_bytes (syncDeputy_bytes _) (declareLost_canonical _ (canonical_of_bytes (s := u) rfl w))
      · refine planBind_canonical requireRim_canonical fun _ => planBind_canonical (require_canonical _ _ _) fun _ => ?_
        split
        · exact planRefuse_canonical _ _
        · exact planPure_canonical (updPure_canonical (canonical_of_bytes (by simp)) _)
      · exact planBind_canonical requireRim_canonical fun _ => planBind_canonical (require_canonical _ _ _) fun _ =>
          planPure_canonical (updPure_canonical (canonical_of_bytes (by simp)) _)

@[simp] theorem bookWindows_bytes (l : List Booking) (s : State) : (bookWindows l s).bytes = s.bytes := by
  simp [bookWindows, foldl_bytes]

@[simp] theorem heartbeatPeriod_bytes (w : List Booking) (s : State) : (heartbeatPeriod w s).bytes = s.bytes := by
  simp [heartbeatPeriod, foldl_bytes]

@[simp] theorem heartbeat_bytes (h : Heartbeat) (s : State) : (heartbeat h s).bytes = s.bytes := by
  simp [heartbeat]

@[simp] theorem modWindows_bytes (f : Nat → EntryBody → EntryBody) (s : State) : (modWindows f s).bytes = s.bytes := rfl

@[simp] theorem stretch_bytes (s : State) : (stretch s).bytes = s.bytes := by
  simp [stretch]

@[simp] theorem lengthen_bytes (seat : Nat) (s : State) : (lengthen seat s).bytes = s.bytes := rfl

theorem heartbeatAnswer_canonical (a : Answer) {s : State} (w : s.canonical = true) : (heartbeatAnswer a s).canonical = true := by
  unfold heartbeatAnswer
  split
  · exact w
  rename_i m _
  refine canonical_ite w (canonical_ite (canonical_of_bytes (sendControl_bytes _ _ _) w)
    (canonical_of_bytes (syncDeputy_bytes _) ?_))
  generalize hu : modMember a.seat _ s = u
  have k : u.canonical = true := canonical_of_bytes (hu ▸ modMember_bytes _ _ s) w
  have stretched : (if (a.storm && decide (a.round = u.tns.round)) = true then stretch u else u).canonical = true :=
    canonical_ite (canonical_of_bytes (stretch_bytes u) k) k
  have lengthened := canonical_ite (c := a.portsOut ≠ m.portsOut) (canonical_of_bytes (lengthen_bytes a.seat _) stretched) stretched
  exact canonical_ite (declareLost_canonical _ lengthened) lengthened

theorem heartbeatMissed_canonical (seat : Nat) {s : State} (w : s.canonical = true) : (heartbeatMissed seat s).canonical = true := by
  unfold heartbeatMissed
  split
  · exact canonical_ite (seatLost_canonical seat w) w
  · exact w

/-! ### The operations of Machine/Ledger.lean -/

@[simp] theorem compact_bytes (s : State) : (compact s).bytes = s.bytes := by
  simp [compact]

@[simp] theorem retireBlock_bytes (s : State) : (retireBlock s).bytes = s.bytes := by
  simp only [retireBlock]
  split <;> simp

@[simp] theorem programNext_bytes (failed : Bool) (s : State) : (programNext failed s).2.bytes = s.bytes := by
  simp only [programNext]
  (repeat' split) <;> simp

@[simp] theorem roleAction_bytes (who : Option Binding) (code : Nat) (data : List Byte) (e : Effect) (s : State) :
    (roleAction who code data e s).bytes = s.bytes := rfl

theorem installerWrite_bytes (off v : Nat) (e : Effect) {f : State → State} (h : ∀ s, (f s).bytes = s.bytes) (s : State) :
    (installerWrite off v e f s).bytes = s.bytes := by
  unfold installerWrite
  split <;> simp [h]

@[simp] theorem withdraw_bytes (q : Nat) (byReset : Bool) (s : State) : (withdraw q byReset s).bytes = s.bytes := by
  simp only [withdraw]
  split <;> simp

@[simp] theorem withdrawWhere_bytes (p : Binding → Bool) (byReset : Bool) (s : State) :
    (withdrawWhere p byReset s).bytes = s.bytes := by
  simp [withdrawWhere, foldl_bytes]

/-! ### The operations of Machine/Power.lean -/

@[simp] theorem setStep_bytes (k : Nat) (cause : BitVec 4) (s : State) : (setStep k cause s).bytes = s.bytes := by
  simp [setStep]

@[simp] theorem thermalRecord_bytes (sensor : Nat) (reading : Int) (kind : Nat) (s : State) :
    (thermalRecord sensor reading kind s).bytes = s.bytes := rfl

@[simp] theorem stepDown_bytes (power junction stack : Bool) (s : State) : (stepDown power junction stack s).bytes = s.bytes := by
  simp [stepDown]

@[simp] theorem countLife_bytes (s : State) : (countLife s).bytes = s.bytes := by
  simp [countLife]

@[simp] theorem takeReadings_bytes (r : PowerReading) (s : State) : (takeReadings r s).bytes = s.bytes := by
  simp [takeReadings]

@[simp] theorem evaluate_bytes (r : PowerReading) (s : State) : (evaluate r s).bytes = s.bytes := by
  simp [evaluate]

@[simp] theorem countStack_bytes (k retries reports : Nat) (s : State) : (countStack k retries reports s).bytes = s.bytes := by
  simp [countStack]

@[simp] theorem sensorFault_bytes (i : Nat) (s : State) : (sensorFault i s).bytes = s.bytes := by
  simp [sensorFault]

@[simp] theorem setCap_bytes (w : Nat) (s : State) : (setCap w s).bytes = s.bytes := rfl

theorem planPowerCap_canonical (p : Packet) (c : InFlight) : PlanKeepsCanonical (planPowerCap p c) := by
  mvcgen [planPowerCap, require_canonical, reservedZero_canonical]
  exact ⟨‹_›, by mvcgen [upd]⟩

/-! ### The operations of Machine/Resets.lean -/

@[simp] theorem dropBindings_bytes (s : State) : (dropBindings s).2.bytes = s.bytes := by
  simp [dropBindings]

@[simp] theorem signalEnded_bytes (ended : Bool) (s : State) : (signalEnded ended s).bytes = s.bytes := by
  simp [signalEnded]

theorem coldReset_canonical (last : Nat) (powerLost : Bool) {s : State} (w : s.canonical = true) :
    (coldReset last powerLost s).canonical = true := by
  refine canonical_of_bytes (signalEnded_bytes _ _) ?_
  simp only [State.canonical, Bool.and_eq_true] at w ⊢
  exact ⟨rfl, w.2⟩

theorem freeReleasing_canonical {s : State} (w : s.canonical = true) : (freeReleasing s).canonical = true := by
  refine canonical_of_bytes (s := (s.plc.map.filter fun e => e.2.state == .releasing).foldl _ _) rfl
    (foldl_canonical (fun e => forgetLines_canonical _ _) _ ?_)
  split
  · exact canonical_ite (forgetLines_canonical _ _ (canonical_of_bytes rfl w)) w
  · exact w

theorem warmReset_canonical (last : Nat) {s : State} (w : s.canonical = true) : (warmReset last s).canonical = true := by
  have k : (flushCaches (freeReleasing
      ((dropBindings s).2.flight.foldl (fun s c => scramble c.regions s) (dropBindings s).2))).canonical = true :=
    canonical_of_bytes (flushCaches_bytes _) (freeReleasing_canonical
      (foldl_canonical (fun (c : InFlight) w => scramble_canonical c.regions w) _ (canonical_of_bytes (dropBindings_bytes s) w)))
  refine canonical_of_bytes (signalEnded_bytes _ _) ?_
  simp only [State.canonical, Bool.and_eq_true] at w k ⊢
  exact ⟨k.1, w.2⟩

@[simp] theorem lifetimeRecord_bytes (s : State) : (lifetimeRecord s).bytes = s.bytes := rfl

theorem requestWarm_canonical (host : Bool) {s : State} (w : s.canonical = true) : (requestWarm host s).canonical = true :=
  canonical_ite (coldReset_canonical _ _ w) (canonical_of_bytes (lifetimeRecord_bytes _) w)

theorem cutWindows_canonical {s : State} (w : s.canonical = true) : (cutWindows s).canonical = true := by
  refine releaseHeld_canonical (canonical_of_bytes (foldl_bytes _ (fun s k => ?_) _ s) w)
  split
  · exact failChannel_bytes _ _ _
  · rfl

@[simp] theorem upsReset_bytes (warm : Bool) (v : Word) (s : State) : (upsReset warm v s).bytes = s.bytes := by
  simp only [upsReset]
  split
  · exact raiseSec_bytes _ _
  · split
    · exact installerWrite_bytes _ _ _ (fun _ => rfl) s
    · rfl

@[simp] theorem functionReset_bytes (s : State) : (functionReset s).bytes = s.bytes := by
  simp [functionReset]

@[simp] theorem enumerate_bytes (s : State) : (enumerate s).bytes = s.bytes := rfl

/-! ### The operations of Machine/Upsett.lean -/

@[simp] theorem failStage_bytes (stage code : Nat) (s : State) : (failStage stage code s).bytes = s.bytes := by
  simp [failStage]

@[simp] theorem enterStage_bytes (n : Nat) (s : State) : (enterStage n s).bytes = s.bytes := rfl

@[simp] theorem stageDone_bytes (s : State) : (stageDone s).bytes = s.bytes := rfl

@[simp] theorem boot_bytes (slot fallback : Bool) (s : State) : (boot slot fallback s).bytes = s.bytes := by
  simp [boot]

@[simp] theorem trainPcie_bytes (s : State) : (trainPcie s).bytes = s.bytes := by
  simp [trainPcie]

@[simp] theorem upsettU1_bytes (s : State) : (upsettU1 s).bytes = s.bytes := by
  simp [upsettU1]

@[simp] theorem loadSettings_bytes (s : State) : (loadSettings s).bytes = s.bytes := rfl

@[simp] theorem replayLedger_bytes (s : State) : (replayLedger s).bytes = s.bytes := by
  simp only [replayLedger]
  (repeat' split) <;> simp

@[simp] theorem upsettU2_bytes (s : State) : (upsettU2 s).bytes = s.bytes := by
  simp [upsettU2]

@[simp] theorem recordBridges_bytes (d0 d1 : DieResult) (weave : List (Fin 16)) (s : State) :
    (recordBridges d0 d1 weave s).bytes = s.bytes := by
  simp [recordBridges, foldl_bytes]

@[simp] theorem retireFailed_bytes (die pos : Nat) (s : State) : (retireFailed die pos s).bytes = s.bytes := by
  simp [retireFailed]

@[simp] theorem upsettU3_bytes (d0 d1 : DieResult) (s : State) : (upsettU3 d0 d1 s).bytes = s.bytes := by
  simp [upsettU3, foldl_bytes]

@[simp] theorem loadHealth_bytes (k : Nat) (s : State) : (loadHealth k s).bytes = s.bytes := rfl

@[simp] theorem failChannels_bytes (k : Nat) (cs : List Nat) (s : State) : (failChannels k cs s).bytes = s.bytes := by
  simp [failChannels, foldl_bytes]

@[simp] theorem recordScan_bytes (k : Nat) (temp : Int) (l : List (Fin 16 × Margin × Margin)) (s : State) :
    (recordScan k temp l s).bytes = s.bytes := by
  simp [recordScan, foldl_bytes]

@[simp] theorem trainStack_bytes (k : Nat) (r : StackResult) (s : State) : (trainStack k r s).bytes = s.bytes := by
  refine ite_bytes rfl (ite_bytes (by simp) (ite_bytes (by simp) (ite_bytes (by simp) (ite_bytes (by simp) ?_))))
  split
  · simp
  · exact ite_bytes (by simp) (by simp)
  · simp

@[simp] theorem upsettU4_bytes (pair : Nat) (lo hi : StackResult) (s : State) : (upsettU4 pair lo hi s).bytes = s.bytes := by
  simp [upsettU4]

@[simp] theorem startPorts_bytes (s : State) : (startPorts s).bytes = s.bytes :=
  foldl_bytes _ (fun s p => State.setPort_bytes s p _) _ s

@[simp] theorem upsettU5_bytes (s : State) : (upsettU5 s).bytes = s.bytes := by
  simp [upsettU5]

@[simp] theorem noteExit_bytes (s : State) : (noteExit s).bytes = s.bytes := by
  simp [noteExit]

@[simp] theorem upsettU6_bytes (s : State) : (upsettU6 s).bytes = s.bytes := by
  simp [upsettU6]

@[simp] theorem reducedService_bytes (s : State) : (reducedService s).bytes = s.bytes := by
  simp [reducedService]

@[simp] theorem stageLimit_bytes (s : State) : (stageLimit s).bytes = s.bytes := by
  simp [stageLimit]

/-! ### The operations of Machine/Patrol.lean -/

@[simp] theorem reportFound_bytes (id : Nat) (s : State) : (reportFound id s).bytes = s.bytes := by
  simp [reportFound]

@[simp] theorem scrubRead_bytes (k n : Nat) (s : State) : (scrubRead k n s).bytes = s.bytes := by
  grind [scrubRead, count_bytes, decodeLine_bytes, readCheck_bytes, reportFound_bytes]

@[simp] theorem scrub_bytes (k : Nat) (s : State) : (scrub k s).bytes = s.bytes := by
  simp [scrub]

@[simp] theorem dieLocalisation_bytes (k n : Nat) (s : State) : (dieLocalisation k n s).bytes = s.bytes := by
  grind [dieLocalisation, localise_bytes, reportFound_bytes, uncorrectableLine_bytes]

@[simp] theorem bookWindow_bytes (k c : Nat) (s : State) : (bookWindow k c s).bytes = s.bytes := by
  simp only [bookWindow]
  (repeat' split) <;> simp

@[simp] theorem advanceScans_bytes (s : State) : (advanceScans s).bytes = s.bytes := by
  refine foldl_bytes _ (fun s i => ?_) _ s
  split
  · dsimp only
    split
    · rfl
    · split <;> simp
  · rfl

@[simp] theorem startWindow_bytes (k c : Nat) (s : State) : (startWindow k c s).bytes = s.bytes := by
  simp [startWindow]

@[simp] theorem retrainEvaluation_bytes (k c : Nat) (s : State) : (retrainEvaluation k c s).bytes = s.bytes := by
  simp [retrainEvaluation]

theorem scanChannel_canonical (k c : Nat) (lo hi : Margin) (ppr : Bool) (time : Nat) {s : State} (w : s.canonical = true) :
    (scanChannel k c lo hi ppr time s).canonical = true := by
  unfold scanChannel
  split
  · split
    · have k' := fun b => writeHeld_canonical b (canonical_of_bytes
        ((record_bytes rMARGIN (marginBytes k c 1 hi ppr (tget 0 s.pwr.hbm k) time) _).trans
          (record_bytes rMARGIN (marginBytes k c 0 lo ppr (tget 0 s.pwr.hbm k) time) s)) w)
      dsimp only
      split
      · exact canonical_of_bytes ((bookWindow_bytes _ _ _).trans (setInflight_bytes _ _ _)) (k' _)
      · exact canonical_of_bytes (setInflight_bytes _ _ _) (k' _)
    · exact w
  · exact w

theorem channelReturn_canonical (k : Nat) (repair : Option Repair) (lo hi : Margin) {s : State} (w : s.canonical = true) :
    (channelReturn k repair lo hi s).canonical = true := by
  unfold channelReturn
  dsimp only
  split
  · refine canonical_ite w (releaseHeld_canonical (scanChannel_canonical _ _ _ _ _ _ (canonical_of_bytes ?_ w)))
    split <;> simp
  · exact w

theorem channelLimit_canonical (k : Nat) {s : State} (w : s.canonical = true) : (channelLimit k s).canonical = true := by
  unfold channelLimit
  dsimp only
  split
  · exact canonical_ite (releaseHeld_canonical (canonical_of_bytes (by simp) w)) w
  · exact w

@[simp] theorem writeBurst_bytes (c id : Nat) (s : State) : (writeBurst c id s).bytes = s.bytes := rfl

@[simp] theorem rebuildLine_bytes (c k n : Nat) (s : State) : (rebuildLine c k n s).bytes = s.bytes := by
  grind [rebuildLine, decodeLine_bytes, readCheck_bytes, reportFound_bytes, writeBurst_bytes]

@[simp] theorem rebuild_bytes (k : Nat) (s : State) : (rebuild k s).bytes = s.bytes := by
  simp only [rebuild]
  (repeat' split) <;> simp [foldl_bytes]

theorem planMarginScan_canonical (p : Packet) (c : InFlight) : PlanKeepsCanonical (planMarginScan p c) := by
  mvcgen [planMarginScan, checkExtent_canonical, refuse, require_canonical, requireLive_canonical, reservedZero_canonical]
  exact ⟨‹_›, by mvcgen [upd]⟩

@[simp] theorem startScan_bytes (id : Nat) (l : List (Nat × Nat)) (h : BitVec 32) (off : Nat) (s : State) :
    (startScan id l h off s).bytes = s.bytes := by
  simp only [startScan]
  split <;> simp

/-! ### The operations of Machine/Recovery.lean -/

@[simp] theorem setRecovery_bytes (state error : Nat) (s : State) : (setRecovery state error s).bytes = s.bytes := rfl

@[simp] theorem fillWindow_bytes (b : List Byte) (s : State) : (fillWindow b s).bytes = s.bytes := rfl

@[simp] theorem writeWindow_bytes (o : Nat) (w : Word) (s : State) : (writeWindow o w s).bytes = s.bytes := by
  simp [writeWindow]

theorem recoverImage_canonical (chunk : Nat) (last : Bool) {s : State} (w : s.canonical = true) :
    (recoverImage chunk last s).canonical = true := by
  refine canonical_ite w (canonical_ite (canonical_of_bytes (by simp) w) (canonical_ite (canonical_of_bytes (by simp) w)
    (canonical_ite (coldReset_canonical _ _ (canonical_of_bytes (by simp) w)) (canonical_of_bytes (by simp) w))))

@[simp] theorem recoverBlock_bytes (chunk : Nat) (s : State) : (recoverBlock chunk s).bytes = s.bytes := by
  simp [recoverBlock]

@[simp] theorem reseal_bytes (seq : Nat) (s : State) : (reseal seq s).bytes = s.bytes := rfl

@[simp] theorem recoverReseal_bytes (s : State) : (recoverReseal s).bytes = s.bytes := by
  simp only [recoverReseal]
  (repeat' split) <;> simp

theorem recoveryGo_canonical (v : Word) {s : State} (w : s.canonical = true) : (recoveryGo v s).canonical = true := by
  refine canonical_ite w ?_
  split
  · exact recoverImage_canonical _ _ w
  · exact canonical_of_bytes (recoverBlock_bytes _ _) w
  · exact canonical_of_bytes (recoverReseal_bytes _) w
  · exact w

end Sys2Proof.Machine
end

section
/-! SUPPORT. Moves, telemetry, management, links, the arithmetic commands and register accesses: which of their operations write no byte,
and that the others keep the canonical form. -/

namespace Sys2Proof.Machine

open Std.Do
set_option mvcgen.warning false

/-! ### The operations of Machine/Moves.lean -/

theorem planNop_canonical (p : Packet) : PlanKeepsCanonical (planNop p) := by
  mvcgen [planNop, reservedZero_canonical]
  exact ⟨‹_›, by mvcgen⟩

@[simp] theorem countCrossing_bytes (src dst : Nat) (s : State) : (countCrossing src dst s).bytes = s.bytes := by
  simp [countCrossing]

theorem copyLine_canonical (sh : BitVec 32) (si : Nat) (sd : Desc) (i : Nat) (dh : BitVec 32) (di : Nat) (dd : Desc) (j : Nat)
    {s : State} (w : s.canonical = true) : (copyLine sh si sd i dh di dd j s).2.canonical = true := by
  have k : ∀ a n, (readLine a n (traffic di 1 (traffic si 1 s))).2.canonical = true := fun a n =>
    canonical_of_bytes ((readLine_bytes a n _).trans ((traffic_bytes _ _ _).trans (traffic_bytes _ _ _))) w
  unfold copyLine
  dsimp only
  split <;> rename_i e
  · have kt := canonical_of_snd (k _ _) e
    split
    · exact canonical_of_bytes (reportCrc_bytes _ _ _ _ _) kt
    · have kc : ∀ a b, (countCrossing a b _).canonical = true := fun a b => canonical_of_bytes (countCrossing_bytes a b _) kt
      split
      · exact writeLine_canonical _ _ _ _ _ (kc _ _)
      · exact clearLine_canonical _ (kc _ _)
  · exact canonical_of_bytes (reportUncorr_bytes _ _ _) (canonical_of_snd (k _ _) e)
  · exact canonical_of_snd (k _ _) e
  · exact canonical_of_bytes (reportSram_bytes _ _) (canonical_of_snd (k _ _) e)

theorem copyLines_canonical (sh : BitVec 32) (si : Nat) (sd : Desc) (dh : BitVec 32) (di : Nat) (dd : Desc) (i j n : Nat) :
    KeepsCanonical (copyLines sh si sd dh di dd i j n) := by
  induction n generalizing i j with
  | zero => exact pure_canonical none
  | succ n ih =>
    refine getBind_canonical fun s w => ?_
    have k := copyLine_canonical sh si sd i dh di dd j w
    split <;> rename_i e <;> rw [e] at k
    · exact setBind_canonical k (bind_canonical (ih _ _) fun _ => pure_canonical _)
    · exact setBind_canonical k (throw_canonical _)

theorem planCopy_canonical (p : Packet) : PlanKeepsCanonical (planCopy p) := by
  mvcgen [planCopy, checkExtent_canonical, require_canonical, requireLive_canonical, reservedZero_canonical]
  all_goals exact ⟨‹_›, by mvcgen [copyLines_canonical]⟩

theorem fillPiece_canonical (die : Option Nat) (h : BitVec 32) (idx : Nat) (d : Desc) (p : Nat × Nat × List Byte) {s : State}
    (w : s.canonical = true) : (fillPiece die h idx d p s).2.canonical = true := by
  unfold fillPiece
  split
  · exact clearLine_canonical _ (canonical_of_bytes (traffic_bytes _ _ _) w)
  · exact writePiece_canonical die h idx d p w

theorem fillPieces_canonical (die : Option Nat) (h : BitVec 32) (idx : Nat) (d : Desc) (l : List (Nat × Nat × List Byte)) {s : State}
    (w : s.canonical = true) : (fillPieces die h idx d l s).2.canonical = true := by
  induction l generalizing s with
  | nil => exact w
  | cons p l ih => exact ih (fillPiece_canonical die h idx d p w)

theorem planFill_canonical (q : Nat) (p : Packet) : PlanKeepsCanonical (planFill q p) := by
  mvcgen [planFill, checkExtent_canonical, require_canonical, requireLive_canonical, reservedZero_canonical]
  · exact ⟨‹_›, pure_canonical _⟩
  · refine ⟨‹_›, bind_canonical get_canonical fun _ => ?_⟩
    split
    · exact bind_canonical (seqDie_canonical _) fun _ => bind_canonical (act_canonical (fillPieces_canonical _ _ _ _ _)) fun _ =>
        pure_canonical _
    · exact pure_canonical _

theorem planFence_canonical (p : Packet) : PlanKeepsCanonical (planFence p) := by
  mvcgen [planFence, reservedZero_canonical]
  exact ⟨‹_›, by mvcgen⟩

theorem planWaitTime_canonical (p : Packet) : PlanKeepsCanonical (planWaitTime p) := by
  mvcgen [planWaitTime, reservedZero_canonical]
  exact ⟨‹_›, by mvcgen⟩

theorem planSignal_canonical (p : Packet) : PlanKeepsCanonical (planSignal p) :=
  planBind_canonical (reservedZero_canonical _ _) fun _ => planBind_canonical (require_canonical _ _ _) fun _ =>
    planPure_canonical (updPure_canonical (canonical_of_bytes (foldl_bytes _ (fun s _ => signalToken_bytes _ s) _ _)) _)

theorem planBoundsSet_canonical (q : Nat) (p : Packet) : PlanKeepsCanonical (planBoundsSet q p) := by
  mvcgen [planBoundsSet, require_canonical]
  exact ⟨‹_›, by mvcgen [upd]⟩

/-! ### The operations of Machine/Telemetry.lean -/

theorem writeReport_canonical (d : Dest) (b : List Byte) (r : Res) : KeepsCanonical (writeReport d b r) :=
  bind_canonical (act_canonical (writeDest_canonical _ _ _)) fun _ => pure_canonical _

@[simp] theorem select_bytes (ws : List Word) (s : State) : (select ws s).bytes = s.bytes := rfl

@[simp] theorem applySelection_bytes (s : State) : (applySelection s).bytes = s.bytes := by
  simp only [applySelection]
  split <;> simp

theorem planCounterCfg_canonical (p : Packet) : PlanKeepsCanonical (planCounterCfg p) :=
  planBind_canonical (readBlock_canonical _ _ _ _ _ _) fun _ => planBind_canonical (reservedZero_canonical _ _) fun _ =>
    planBind_canonical (require_canonical _ _ _) fun _ => by
      dsimp only
      split
      · exact planRefuse_canonical _ _
      · exact planPure_canonical (updPure_canonical (canonical_of_bytes (select_bytes _ _)) _)

theorem takeSample_canonical (m : RailMeans) {s : State} (w : s.canonical = true) : (takeSample m s).canonical = true := by
  refine canonical_ite (canonical_of_bytes rfl w) (canonical_ite (canonical_of_bytes (raiseCnt_bytes _ _) w) ?_)
  have k := writeDest_canonical s.cnt.ring (1024 * (s.cnt.prod % 2 ^ s.cnt.ringLog2)) (s.sampleRecord s.cnt.prod false m) w
  exact canonical_ite (canonical_of_bytes (signalVector_bytes _ _) k) (canonical_of_bytes rfl k)

theorem planTelemetry_canonical (p : Packet) (m : RailMeans) : PlanKeepsCanonical (planTelemetry p m) := by
  mvcgen [planTelemetry, checkDest_canonical, destLive_canonical, reservedZero_canonical]
  exact ⟨‹_›, by mvcgen [writeReport_canonical]⟩

@[simp] theorem configureSampler_bytes (enable : Bool) (log2 : Nat) (d : Dest) (s : State) :
    (configureSampler enable log2 d s).bytes = s.bytes := rfl

theorem planSamplerCfg_canonical (p : Packet) : PlanKeepsCanonical (planSamplerCfg p) := by
  mvcgen [planSamplerCfg, checkDest_canonical, destLive_canonical, require_canonical, reservedZero_canonical]
  all_goals exact ⟨‹_›, by mvcgen [upd]⟩

theorem spillRecords_canonical {s : State} (w : s.canonical = true) : (spillRecords s).canonical = true := by
  unfold spillRecords
  split
  · exact canonical_ite (writeBytes_canonical _ _ _ w) w
  · exact w

theorem armTrace_canonical (p : Packet) {s : State} (w : s.canonical = true) : (armTrace p s).canonical = true :=
  canonical_ite (spillRecords_canonical (canonical_of_bytes rfl w)) (canonical_of_bytes (traceWith_bytes _ _ _ _ _ _ _ _) w)

theorem planTraceArm_canonical (p : Packet) : PlanKeepsCanonical (planTraceArm p) := by
  mvcgen [planTraceArm, checkExtent_canonical, require_canonical, requireLive_canonical, reservedZero_canonical]
  all_goals exact ⟨‹_›, updPure_canonical (armTrace_canonical p) _⟩

theorem planTraceRead_canonical (p : Packet) : PlanKeepsCanonical (planTraceRead p) := by
  mvcgen [planTraceRead, checkDest_canonical, destLive_canonical, require_canonical, reservedZero_canonical]
  exact ⟨‹_›, by mvcgen [readHandle_canonical, writeReport_canonical]⟩

theorem summaryInterval_canonical {s : State} (w : s.canonical = true) : (summaryInterval s).canonical = true :=
  canonical_ite (spillRecords_canonical (canonical_of_bytes (by simp) w)) w

@[simp] theorem holdForDump_bytes (s : State) : (holdForDump s).bytes = s.bytes := rfl

@[simp] theorem freeze_bytes (s : State) : (freeze s).bytes = s.bytes := by
  simp [freeze]

@[simp] theorem seqWatchdog_bytes (n : Nat) (s : State) : (seqWatchdog n s).bytes = s.bytes := by
  simp [seqWatchdog]

theorem dumpWrite_canonical (stake : Option (Fin 2 × Fin 100)) {s : State} (w : s.canonical = true) :
    (dumpWrite stake s).canonical = true := by
  refine canonical_ite w ?_
  have k : (match stake with | some (d, p) => markRetire d.val p.val byHang s | none => s).canonical = true := by
    split
    · exact canonical_of_bytes (markRetire_bytes _ _ _ _) w
    · exact w
  refine canonical_ite (canonical_of_bytes (raiseTrc_bytes _ _) k) ?_
  have k' := fun h b => writeBytes_canonical h 0 b (canonical_of_bytes (tick_bytes _) k)
  split <;> rename_i e
  · have kt := canonical_of_snd (k' _ _) e
    exact canonical_of_bytes (raiseTrc_bytes _ _) kt
  · have kt := canonical_of_snd (k' _ _) e
    exact canonical_of_bytes (raiseTrc_bytes _ _) kt

theorem planDumpRead_canonical (p : Packet) : PlanKeepsCanonical (planDumpRead p) := by
  mvcgen [planDumpRead, checkDest_canonical, destLive_canonical, require_canonical, reservedZero_canonical]
  exact ⟨‹_›, by mvcgen [copyLines_canonical, readBytes_canonical, requireLive_canonical, writeReport_canonical]⟩

theorem planLedgerRead_canonical (p : Packet) : PlanKeepsCanonical (planLedgerRead p) := by
  mvcgen [planLedgerRead, checkDest_canonical, destLive_canonical, reservedZero_canonical]
  exact ⟨‹_›, by mvcgen [upd, writeReport_canonical]⟩

@[simp] theorem errorTotals_bytes (s : State) : (errorTotals s).bytes = s.bytes := rfl

@[simp] theorem ledgerHourly_bytes (s : State) : (ledgerHourly s).bytes = s.bytes := by
  simp [ledgerHourly]

theorem planHealth_canonical (p : Packet) : PlanKeepsCanonical (planHealth p) := by
  mvcgen [planHealth, checkDest_canonical, destLive_canonical, reservedZero_canonical]
  exact ⟨‹_›, by mvcgen [writeReport_canonical]⟩

/-! ### The operations of Machine/Roles.lean -/

@[simp] theorem changeKey_bytes (slot : Nat) (k : Option PubKey) (s : State) : (changeKey slot k s).bytes = s.bytes := by
  simp [changeKey]

@[simp] theorem releaseKeys_bytes (s : State) : (releaseKeys s).bytes = s.bytes :=
  foldl_bytes _ (fun s i => changeKey_bytes i none s) _ s

@[simp] theorem eraseSlot_bytes (slot : Bool) (s : State) : (eraseSlot slot s).bytes = s.bytes := rfl

@[simp] theorem applySecurity_bytes (q : Nat) (a : Action) (s : State) : (applySecurity q a s).bytes = s.bytes := by
  simp only [applySecurity]
  split <;> simp

@[simp] theorem State.settled_bytes (s : State) : s.settled.bytes = s.bytes :=
  foldl_bytes _ (fun t a => by split <;> simp) _ s

theorem checkKeyBlock_canonical (b : List Byte) (role : Nat) (t : State) : KeepsCanonical (checkKeyBlock b role t) := by
  unfold checkKeyBlock
  generalize ecdsaVerify = verify
  exact bind_canonical (require_canonical _ _ _) fun _ => bind_canonical (require_canonical _ _ _) fun _ =>
    bind_canonical (require_canonical _ _ _) fun _ => pure_canonical _

theorem actAs_canonical (who : Option Binding) (code : Nat) (c : InFlight) (p : Packet) (a : Action) :
    KeepsCanonical (actAs who code c p a).run :=
  updPure_canonical (canonical_of_bytes (roleAction_bytes _ _ _ _ _)) _

theorem planRoleSession_canonical (p : Packet) (c : InFlight) : PlanKeepsCanonical (planRoleSession p c) := by
  mvcgen [planRoleSession, refuse, readBlock_canonical, reservedZero_canonical, blockReservedZero_canonical, require_canonical,
    checkKeyBlock_canonical]
  all_goals exact ⟨‹_›, actAs_canonical _ _ _ _ _⟩

theorem planFwStage_canonical (p : Packet) (c : InFlight) : PlanKeepsCanonical (planFwStage p c) := by
  mvcgen [planFwStage, refuse, readBytes_canonical, reservedZero_canonical, requireLive_canonical, require_canonical,
    checkExtent_canonical]
  all_goals exact ⟨‹_›, actAs_canonical _ _ _ _ _⟩

theorem planScheduleSet_canonical (p : Packet) (c : InFlight) : PlanKeepsCanonical (planScheduleSet p c) := by
  mvcgen [planScheduleSet, refuse, reservedZero_canonical, require_canonical]
  all_goals exact ⟨‹_›, updPure_canonical (canonical_of_bytes (by simp)) _⟩

theorem planMakerDiag_canonical (p : Packet) (c : InFlight) : PlanKeepsCanonical (planMakerDiag p c) := by
  mvcgen [planMakerDiag, checkDest_canonical, destLive_canonical, require_canonical, reservedZero_canonical]
  all_goals exact ⟨‹_›, by mvcgen⟩

theorem clearTraces_canonical {s : State} (w : s.canonical = true) : (clearTraces s).canonical = true :=
  canonical_of_bytes rfl (foldl_canonical
    (fun (r : BitVec 32 × Nat × Nat) w => writeBytes_canonical r.1 r.2.1 (List.replicate r.2.2 0) w) s.traceRegions w)

theorem diagnose_canonical (f arg : Nat) (d : Option Dest) {s : State} (w : s.canonical = true) :
    (diagnose f arg d s).2.canonical = true := by
  unfold diagnose
  split
  · exact writeDest_canonical _ _ _ (canonical_of_bytes (tick_bytes _) w)
  · exact writeDest_canonical _ _ _ w
  · exact canonical_of_bytes (markRetire_bytes _ _ _ _) w
  · exact clearTraces_canonical w
  · exact w

theorem completeAction_canonical (id : Nat) (f : Option Fail) (detail : Nat) {s : State} (w : s.canonical = true) :
    (completeAction id f detail s).canonical = true := by
  unfold completeAction
  split
  · exact w
  · refine canonical_ite (finishAs_canonical _ _ _ w) ?_
    split <;> exact finishAs_canonical _ _ _ w

theorem applyAction_canonical (id : Nat) (a : Action) {s : State} (w : s.canonical = true) : (applyAction id a s).canonical = true := by
  have k : (applySecurity (s.queueOf id) a s).canonical = true := canonical_of_bytes (applySecurity_bytes _ _ _) w
  unfold applyAction
  dsimp only
  split
  · exact completeAction_canonical _ _ _ k
  · exact completeAction_canonical _ _ _ (canonical_ite (canonical_of_bytes (by simp) w) (canonical_of_bytes (setCap_bytes _ _) w))
  · exact canonical_of_bytes (startScan_bytes _ _ _ _ _) w
  · exact completeAction_canonical _ _ _ (canonical_of_bytes (writeEntry_bytes _ _ _) w)
  · exact completeAction_canonical _ _ _ (canonical_of_bytes (writeEntry_bytes _ _ _) w)
  · exact canonical_of_bytes (setInflight_bytes _ _ _) k
  · exact completeAction_canonical _ _ _ k
  · exact completeAction_canonical _ _ _ k
  · exact completeAction_canonical _ _ _ (diagnose_canonical _ _ _ k)
  · exact completeAction_canonical _ _ _ k

theorem finishStaging_canonical (id : Nat) (slot : Bool) (img : List Byte) {s : State} (w : s.canonical = true) :
    (finishStaging id slot img s).canonical = true := by
  unfold finishStaging
  dsimp only
  split
  · exact finishAs_canonical _ _ _ (canonical_of_bytes rfl w)
  · exact finishAs_canonical _ _ _ (canonical_of_bytes rfl w)
  · exact finishAs_canonical _ _ _ (canonical_of_bytes (record_bytes _ _ _) w)

theorem applyEffect_canonical (e : Effect) {s : State} (w : s.canonical = true) : (applyEffect e s).canonical = true := by
  cases e with
  | command id a => exact applyAction_canonical id a w
  | secCtrl v => exact canonical_ite (canonical_of_bytes rfl w) (canonical_of_bytes (withdrawWhere_bytes _ _ _) w)
  | reset warm => exact canonical_ite w (canonical_ite (requestWarm_canonical _ w) (coldReset_canonical _ _ w))
  | nothing => exact w
  | _ => exact canonical_of_bytes (State.bytes_mk ..) w

theorem recordProgrammed_canonical (failed : Bool) {s : State} (w : s.canonical = true) : (recordProgrammed failed s).canonical = true := by
  have k : (programNext failed s).2.canonical = true := canonical_of_bytes (programNext_bytes _ _) w
  unfold recordProgrammed
  split <;> rename_i e
  · exact applyEffect_canonical _ (canonical_of_snd k e)
  · exact canonical_of_snd k e

/-! ### The operations of Machine/Complete.lean -/

theorem completeDone_canonical (c : InFlight) {s : State} (w : s.canonical = true) : (completeDone c s).canonical = true :=
  canonical_ite w (finish_canonical c w)

theorem completeInFlight_canonical (c : InFlight) {s : State} (w : s.canonical = true) : (completeInFlight c s).canonical = true := by
  unfold completeInFlight
  split
  · exact completeDone_canonical c w
  · exact canonical_ite w (finish_canonical c w)
  · exact canonical_ite (finish_canonical c w) w
  · exact loadEnd_canonical c w
  · exact drainEnd_canonical c _ w
  · exact finishStaging_canonical _ _ _ w
  · exact finish_canonical c w
  · exact canonical_ite (finish_canonical _ w) w
  · exact w

theorem commandComplete_canonical (q n : Nat) {s : State} (w : s.canonical = true) : (commandComplete q n s).canonical = true := by
  unfold commandComplete
  split
  · exact w
  · exact canonical_ite (finishAs_canonical _ _ _ (canonical_of_bytes (dropFrames_bytes _ _) w))
      (actingFor_canonical _ (completeInFlight_canonical _) w)

theorem opcodeUnknown_canonical (q : Nat) (op : BitVec 8) (p : Packet) {s : State} (w : s.canonical = true) :
    (opcodeUnknown q op p s).canonical = true :=
  canonical_ite w (canonical_ite (canonical_of_bytes (noteHead_bytes _ _ _) w)
    (refuseCommand_canonical _ _ (canonical_of_bytes (takeHead_bytes _ _ _ _ _) w)))

theorem packetLoss_canonical {q : Nat} {why : PacketLoss} {f : Fail} {s t : State} (e : packetLoss q why s = some (f, t))
    (w : s.canonical = true) : t.canonical = true := by
  unfold packetLoss at e
  dsimp only at e
  split at e
  · split at e <;> rename_i r
    · cases e
    · cases e
      exact (readBytes_canonical _ _ _ _ _).error w r
  · split at e <;> cases e
    exact w

theorem packetUnreadable_canonical (q : Nat) (why : PacketLoss) {s : State} (w : s.canonical = true) :
    (packetUnreadable q why s).canonical = true := by
  refine canonical_ite w ?_
  split
  · exact w
  · rename_i e
    exact refuseCommand_canonical _ _ (canonical_of_bytes (State.setQueue_bytes _ _ _) (packetLoss_canonical e w))

@[simp] theorem holdoffEnd_bytes (v : Nat) (s : State) : (holdoffEnd v s).bytes = s.bytes := by
  simp [holdoffEnd]

/-! ### The operations of Machine/Links.lean -/

@[simp] theorem takeAck_bytes (port : Nat) (mac : BitVec 48) (ack : Nat) (s : State) : (takeAck port mac ack s).bytes = s.bytes := by
  unfold takeAck
  dsimp only
  split
  · rfl
  · exact (pump_bytes _ _ _).trans ((State.setConn_bytes _ _).trans (foldl_bytes _ (fun s f => noteLines_bytes _ _ s) _ s))

@[simp] theorem resendFrom_bytes (port : Nat) (mac : BitVec 48) (seq : Nat) (s : State) :
    (resendFrom port mac seq s).bytes = s.bytes := by
  simp [resendFrom, foldl_bytes]

@[simp] theorem moveSlave_bytes (p : Nat) (s : State) : (moveSlave p s).bytes = s.bytes := by
  simp only [moveSlave]
  (repeat' split) <;> simp

@[simp] theorem reroute_bytes (p q : Nat) (c : Conn) (s : State) : (reroute p q c s).bytes = s.bytes := by
  simp [reroute]

@[simp] theorem loseFrames_bytes (p : Nat) (c : Conn) (s : State) : (loseFrames p c s).bytes = s.bytes := by
  refine (foldl_bytes _ (fun s id => ?_) _ _).trans (State.setConn_bytes s _)
  dsimp only
  split
  · exact (doneWith_bytes _ _ _).trans (dropFrames_bytes _ _)
  · exact dropFrames_bytes _ _

@[simp] theorem moveTraffic_bytes (p : Nat) (s : State) : (moveTraffic p s).bytes = s.bytes := by
  refine foldl_bytes _ (fun s c => ?_) _ s
  split <;> simp

@[simp] theorem portLost_bytes (p : Nat) (st : PortState) (s : State) : (portLost p st s).bytes = s.bytes := by
  simp [portLost]

@[simp] theorem degradePort_bytes (p : Nat) (s : State) : (degradePort p s).bytes = s.bytes := by
  simp [degradePort]

@[simp] theorem linkTraining_bytes (p : Nat) (lanes : BitVec 8) (present : Bool) (s : State) :
    (linkTraining p lanes present s).bytes = s.bytes := by
  simp [linkTraining]

@[simp] theorem linkPortDown_bytes (p : Nat) (lanes : BitVec 8) (s : State) : (linkPortDown p lanes s).bytes = s.bytes := by
  simp [linkPortDown]

@[simp] theorem writeLnkCtrl_bytes (v : Word) (s : State) : (writeLnkCtrl v s).bytes = s.bytes := by
  refine (foldl_bytes _ (fun s p => ?_) _ _).trans rfl
  split
  · exact portLost_bytes _ _ _
  · split
    · exact State.setPort_bytes _ _ _
    · rfl

@[simp] theorem hearFrame_bytes (p : Nat) (f : Frame) (s : State) : (hearFrame p f s).2.bytes = s.bytes := by
  simp only [hearFrame]
  (repeat' split) <;> simp

theorem takeStrands_canonical (f : Frame) {s : State} (w : s.canonical = true) : (takeStrands f s).canonical = true := by
  unfold takeStrands
  split
  · exact w
  rename_i d _
  refine canonical_ite w ?_
  have k : (if field f.header 24 6 + f.payload.length ≤ d.length then
      (if (writeBytes d.handle (d.base + field f.header 24 6) f.payload s).1.isNone then f.payload.length / 512 else 0,
        (writeBytes d.handle (d.base + field f.header 24 6) f.payload s).2) else (0, s)).2.canonical = true := by
    split
    · exact writeBytes_canonical _ _ _ w
    · exact w
  exact canonical_ite (canonical_of_bytes (signalToken_bytes _ _) k) (canonical_of_bytes rfl k)

theorem dataFrame_canonical (p : Nat) (f : Frame) {s : State} (w : s.canonical = true) : (dataFrame p f s).canonical = true := by
  have h : (hearFrame p f s).2.canonical = true := canonical_of_bytes (hearFrame_bytes p f s) w
  unfold dataFrame
  split <;> rename_i e
  · exact canonical_of_snd h e
  · have k := canonical_of_snd h e
    exact canonical_ite k (canonical_ite (takeStrands_canonical _ (canonical_of_bytes (by simp) k))
      (canonical_ite k (canonical_of_bytes (sendCtl_bytes _ _ _ _ _ _) k)))

@[simp] theorem ackTimer_bytes (p : Nat) (mac : BitVec 48) (s : State) : (ackTimer p mac s).bytes = s.bytes := by
  simp [ackTimer]

@[simp] theorem portFails_bytes (p : Nat) (mac : BitVec 48) (s : State) : (portFails p mac s).bytes = s.bytes := by
  simp [portFails]

@[simp] theorem resend_bytes (p : Nat) (mac : BitVec 48) (seq : Nat) (s : State) : (resend p mac seq s).bytes = s.bytes := by
  simp [resend]

@[simp] theorem nakFrame_bytes (p : Nat) (f : Frame) (s : State) : (nakFrame p f s).bytes = s.bytes := by
  grind [nakFrame, State.setConn_bytes, hearFrame_bytes, resend_bytes, takeAck_bytes]

@[simp] theorem resendTimer_bytes (p : Nat) (mac : BitVec 48) (s : State) : (resendTimer p mac s).bytes = s.bytes := by
  simp only [resendTimer]
  split <;> simp

/-! ### The operations of Machine/Quantise.lean -/

theorem Operand.read_canonical (o : Operand) (rows k : Nat) (die : Option Nat) : KeepsCanonical (Operand.read o rows k die) := by
  mvcgen [Operand.read, readRegion_canonical]

theorem checkTables_canonical (layer : Nat) (a b : Operand) (m n k : Nat) (ta tb : Nat) (x y : Table) :
    KeepsCanonical (checkTables layer a b m n k ta tb x y) := by
  mvcgen [checkTables, refuse, require_canonical]

theorem readExps_canonical (t : Table) (j n : Nat) (die : Option Nat) (r f : Nat) : KeepsCanonical (readExps t j n die r f) := by
  induction f generalizing r with
  | zero => exact pure_canonical _
  | succ f ih => exact bind_canonical (readPadded_canonical _ _ _ _) fun _ => bind_canonical (ih _) fun _ => pure_canonical _

theorem Table.read_canonical (t : Table) (rows k : Nat) (die : Option Nat) : KeepsCanonical (Table.read t rows k die) := by
  mvcgen [Table.read, readExps_canonical, readPadded_canonical]

theorem checkScale_canonical (p : Packet) (a : ScaleArgs) : KeepsCanonical (checkScale p a) := by
  mvcgen [checkScale, checkRegion_canonical, require_canonical, requireLive_canonical]

theorem planScalePass_canonical (p : Packet) : PlanKeepsCanonical (planScalePass p) :=
  planBind_canonical get_canonical fun _ => planBind_canonical (checkScale_canonical _ _) fun _ => by
    refine planPure_canonical ?_
    dsimp only
    split
    · refine bind_canonical (pure_canonical _) fun _ => bind_canonical get_canonical fun _ => ?_
      split <;> exact writeAnd_canonical _ _ _
    · refine bind_canonical (Operand.read_canonical _ _ _ _) fun _ => bind_canonical get_canonical fun _ => ?_
      split <;> exact writeAnd_canonical _ _ _

/-! ### The operations of Machine/Delivery.lean -/

theorem fetchLines_canonical (h : BitVec 32) (idx : Nat) (d : Desc) (die : Nat) (l : List Nat) (t : Fetched) :
    KeepsCanonical (fetchLines h idx d die l t) := by
  induction l generalizing t with
  | nil => exact pure_canonical t
  | cons i l ih =>
    refine getBind_canonical fun s w => ?_
    dsimp only
    split
    · exact ih _
    · have k : ∀ id n, (takeLine id n (some die) 6 s).2.canonical = true := fun _ _ => canonical_of_bytes (takeLine_bytes _ _ _ _ s) w
      split <;> rename_i e
      · exact setBind_canonical (canonical_of_bytes (traffic_bytes _ _ _) (canonical_of_snd (k _ _) e)) (ih _)
      · exact setBind_canonical (canonical_of_snd (k _ _) e) (throw_canonical _)

theorem Operand.fetch_canonical (o : Operand) (rows k die : Nat) (ps : List Piece) (t : Fetched) :
    KeepsCanonical (Operand.fetch o rows k die ps t) := by
  mvcgen [Operand.fetch, fetchLines_canonical, refuse]

@[simp] theorem countMulticast_bytes (die id : Nat) (m : Multicast) (s : State) :
    (countMulticast die id m s).bytes = s.bytes := by
  simp [countMulticast, foldl_bytes]

theorem deliverLine_canonical (h : BitVec 32) (idx : Nat) (d : Desc) (die i : Nat) (stakes seen : List Nat) :
    KeepsCanonical (deliverLine h idx d die i stakes seen) := by
  refine getBind_canonical fun s w => ?_
  dsimp only
  split
  · have k : ∀ id n, (takeLine id n (some die) 6 s).2.canonical = true := fun _ _ => canonical_of_bytes (takeLine_bytes _ _ _ _ s) w
    split <;> rename_i e
    · exact setBind_canonical (canonical_of_bytes ((countMulticast_bytes _ _ _ _).trans (traffic_bytes _ _ _))
        (canonical_of_snd (k _ _) e)) (pure_canonical _)
    · exact setBind_canonical (canonical_of_snd (k _ _) e) (throw_canonical _)
  · exact setBind_canonical (canonical_of_bytes (countMulticast_bytes _ _ _ _) w) (pure_canonical _)

theorem deliverLines_canonical (h : BitVec 32) (idx : Nat) (d : Desc) (die : Nat) (takes : List (Nat × List Nat)) (l seen : List Nat) :
    KeepsCanonical (deliverLines h idx d die takes l seen) := by
  induction l generalizing seen with
  | nil => exact pure_canonical seen
  | cons i l ih => exact bind_canonical (deliverLine_canonical _ _ _ _ _ _ _) fun _ => ih _

theorem Operand.deliver_canonical (o : Operand) (die : Nat) (takes : List (Nat × List Nat)) (seen : List Nat) :
    KeepsCanonical (Operand.deliver o die takes seen) := by
  mvcgen [Operand.deliver, deliverLines_canonical, refuse]

theorem deliverSteps_canonical (a b : Operand) (m n k : Nat) (l : List (List Pass × Nat)) (seen : List Nat) :
    KeepsCanonical (deliverSteps a b m n k l seen) := by
  induction l generalizing seen with
  | nil => exact pure_canonical ()
  | cons x l ih =>
    exact bind_canonical (Operand.deliver_canonical _ _ _ _) fun _ => bind_canonical (Operand.deliver_canonical _ _ _ _) fun _ => ih _

/-! ### The operations of Machine/Matrix.lean -/

theorem resolveDim_canonical (q : Nat) (h : BitVec 32) (off : Nat) (indirect : Bool) (w : Nat) (die : Option Nat) :
    KeepsCanonical (resolveDim q h off indirect w die) := by
  mvcgen [resolveDim, readBytes_canonical, refuse, require_canonical]

theorem requireAllLive_canonical (l : List (BitVec 32)) : KeepsCanonical (requireAllLive l) := by
  induction l with
  | nil => exact pure_canonical ()
  | cons h l ih => exact bind_canonical (requireLive_canonical h) fun _ => ih

theorem matrixRung_canonical (kind ra rb layer : Nat) : KeepsCanonical (matrixRung kind ra rb layer) := by
  mvcgen [matrixRung, require_canonical]

theorem checkMatrix_canonical (q : Nat) (acc : Bool) (p : Packet) : KeepsCanonical (checkMatrix q acc p) := by
  mvcgen [checkMatrix, upd, blockReservedZero_canonical, checkRegion_canonical, checkStakes_canonical, checkTables_canonical,
    matrixRung_canonical, readBlock_canonical, readPadded_canonical, require_canonical, requireAllLive_canonical,
    reservedZero_canonical, resolveDim_canonical, seqDie_canonical]

theorem Job.fetchShare_canonical (j : Job) (oa ob : Operand) (die : Nat) (t : Fetched) :
    KeepsCanonical (Job.fetchShare j oa ob die t) := by
  mvcgen [Job.fetchShare, Operand.fetch_canonical]

theorem fetchJob_canonical (j : Job) (oa ob : Operand) : KeepsCanonical (fetchJob j oa ob) := by
  mvcgen [fetchJob, Job.fetchShare_canonical]

theorem fetchTables_canonical (j : Job) : KeepsCanonical (fetchTables j) := by
  mvcgen [fetchTables, Table.read_canonical]

theorem lateTable_canonical (j : Job) (o : Operand) (n : Nat) : KeepsCanonical (lateTable j o n) :=
  bind_canonical get_canonical fun _ => by
    split
    · exact pure_canonical _
    · refine bind_canonical (readPadded_canonical _ _ _ _) fun _ => ?_
      dsimp only
      split
      · exact pure_canonical _
      · exact bind_canonical (Table.read_canonical _ _ _ _) fun _ => pure_canonical _

@[simp] theorem noteReweaves_bytes (j : Job) (l : List Reweave) (s : State) : (noteReweaves j l s).bytes = s.bytes := by
  simp [noteReweaves, foldl_bytes]

theorem writeTiles_canonical (j : Job) (l : List (Nat × List (Nat × Nat × List Nat))) {s : State} (w : s.canonical = true) :
    (writeTiles j l s).2.canonical = true := by
  induction l generalizing s with
  | nil => exact w
  | cons x l ih => exact ih (writeOuts_canonical _ _ w)

theorem runRungs_canonical (j : Job) (oa ob : Operand) : KeepsCanonical (runRungs j oa ob) := by
  mvcgen [runRungs, lateTable_canonical]

theorem deliverRun_canonical (j : Job) (oa ob : Operand) (r : Run) : KeepsCanonical (deliverRun j oa ob r) := by
  mvcgen [deliverRun, deliverSteps_canonical]

theorem runMatrix_canonical (j : Job) (oa ob : Operand) : KeepsCanonical (runMatrix j oa ob) := by
  unfold runMatrix
  split
  · exact pure_canonical _
  split
  · exact bind_canonical (fetchJob_canonical _ _ _) fun _ => bind_canonical (act_canonical (writeTiles_canonical _ _)) fun _ =>
      pure_canonical _
  · refine bind_canonical (readSrams_canonical _) fun _ => bind_canonical (fetchTables_canonical _) fun _ =>
      bind_canonical (fetchJob_canonical _ _ _) fun _ => bind_canonical (runRungs_canonical _ _ _) fun r =>
      bind_canonical (deliverRun_canonical _ _ _ _) fun _ => bind_canonical (upd_canonical (canonical_of_bytes rfl)) fun _ =>
      bind_canonical (upd_canonical (canonical_of_bytes (noteReweaves_bytes _ _ _))) fun _ =>
      bind_canonical (upd_canonical (canonical_of_bytes (foldl_bytes _ (fun s e => count_bytes _ _ _ _ s) _ _))) fun _ =>
      bind_canonical get_canonical fun _ => bind_canonical (act_canonical (writeTiles_canonical _ _)) fun _ => pure_canonical _

theorem planMatrix_canonical (q : Nat) (acc : Bool) (p : Packet) : PlanKeepsCanonical (planMatrix q acc p) := by
  mvcgen [planMatrix, checkMatrix_canonical]
  exact ⟨‹_›, by mvcgen [runMatrix_canonical]⟩

/-! ### The operations of Machine/Trust.lean -/

@[simp] theorem respond_bytes (m : Medium) (code : Nat) (data : List Byte) (s : State) :
    (respond m code data s).bytes = s.bytes := rfl

@[simp] theorem respondError_bytes (m : Medium) (why : Nat) (s : State) : (respondError m why s).bytes = s.bytes := rfl

theorem afterNegotiation_bytes (m : Medium) {f : State → State} (h : ∀ s, (f s).bytes = s.bytes) (s : State) :
    (afterNegotiation m f s).bytes = s.bytes := by
  unfold afterNegotiation
  split
  · rfl
  · split
    · exact h s
    · exact respondError_bytes _ _ _

@[simp] theorem modSession_bytes (id : BitVec 32) (f : Session → Session) (s : State) : (modSession id f s).bytes = s.bytes := rfl

@[simp] theorem closeSession_bytes (id : BitVec 32) (s : State) : (closeSession id s).bytes = s.bytes := by
  simp [closeSession]

@[simp] theorem setEid_bytes (m : Medium) (eid : BitVec 8) (s : State) : (setEid m eid s).bytes = s.bytes := by
  simp only [setEid]
  (repeat' split) <;> simp

@[simp] theorem pldm_bytes (m : Medium) (code : Nat) (data : List Nat) (s : State) : (pldm m code data s).bytes = s.bytes := rfl

/-! ### The operations of Machine/Update.lean -/

theorem requireHandles_canonical (l : List (BitVec 32)) : KeepsCanonical (requireHandles l) := by
  induction l with
  | nil => exact pure_canonical ()
  | cons h l ih => exact bind_canonical (requireLive_canonical h) fun _ => ih

theorem requireFinite_canonical (l : List (Nat × Num)) : KeepsCanonical (requireFinite l) := by
  induction l with
  | nil => exact pure_canonical ()
  | cons x l ih => exact bind_canonical (require_canonical _ _ _) fun _ => ih

theorem requireSizes_canonical (l : List (BitVec 32 × Nat)) : KeepsCanonical (requireSizes l) := by
  induction l with
  | nil => exact pure_canonical ()
  | cons x l ih => exact bind_canonical get_canonical fun _ => bind_canonical (require_canonical _ _ _) fun _ => ih

theorem checkUpdate_canonical (a : UpdArgs) : KeepsCanonical (checkUpdate a) := by
  mvcgen [checkUpdate, checkStakes_canonical, require_canonical, requireFinite_canonical, requireHandles_canonical,
    requireLive_canonical, requireSizes_canonical]

theorem readTensor_canonical (h : BitVec 32) (off fmt n : Nat) (die : Option Nat) :
    KeepsCanonical (readTensor h off fmt n die) := by
  mvcgen [readTensor, readBytes_canonical]

theorem UpdArgs.readPair_canonical (a : UpdArgs) (i d : Nat) (die : Option Nat) :
    KeepsCanonical (UpdArgs.readPair a i d die) := by
  mvcgen [UpdArgs.readPair, readTensor_canonical]

theorem runUpdate_canonical (a : UpdArgs) : KeepsCanonical (runUpdate a) := by
  mvcgen [runUpdate, Group.reader_canonical, UpdArgs.readPair_canonical, readSrams_canonical, readTensor_canonical,
    writeAnd_canonical]

theorem planUpdate_canonical (q : Nat) (p : Packet) : PlanKeepsCanonical (planUpdate q p) := by
  mvcgen [planUpdate, blockReservedZero_canonical, checkUpdate_canonical, readBlock_canonical, reservedZero_canonical,
    seqDie_canonical]
  exact ⟨‹_›, by mvcgen [runUpdate_canonical]⟩

/-! ### The operations of Machine/Vector.lean -/

theorem readVec_canonical (q op : Nat) (p : Packet) : KeepsCanonical (readVec q op p) := by
  mvcgen [readVec, blockReservedZero_canonical, readBlock_canonical, reservedZero_canonical, seqDie_canonical]

theorem requireLives_canonical (a : VecArgs) (l : List Nat) : KeepsCanonical (requireLives a l) := by
  induction l with
  | nil => exact pure_canonical ()
  | cons i l ih => exact bind_canonical (requireLive_canonical _) fun _ => ih

theorem checkRound_canonical (a : VecArgs) : KeepsCanonical (checkRound a) := by
  mvcgen [checkRound, require_canonical]

theorem checkGroup_canonical (w : Nat) : KeepsCanonical (checkGroup w) := by
  mvcgen [checkGroup, checkStakes_canonical, require_canonical]

theorem checkShapes_canonical (a : VecArgs) (l : List (Nat × Nat × Nat × Nat)) : KeepsCanonical (checkShapes a l) := by
  induction l with
  | nil => exact pure_canonical ()
  | cons x l ih => exact bind_canonical (checkRegion_canonical _ _ _) fun _ => ih

theorem VecArgs.read_canonical (a : VecArgs) (i rows cols fmt : Nat) (g : Group) :
    KeepsCanonical (VecArgs.read a i rows cols fmt g) := by
  mvcgen [VecArgs.read, readRegion_canonical]

theorem VecArgs.readShared_canonical (a : VecArgs) (i rows cols fmt : Nat) (g : Group) :
    KeepsCanonical (VecArgs.readShared a i rows cols fmt g) := by
  mvcgen [VecArgs.readShared, Group.reader_canonical, readRegion_canonical]

theorem writeBy_canonical (l : List (Option Nat × List Out)) : KeepsCanonical (writeBy l) := by
  induction l with
  | nil => exact pure_canonical _
  | cons x l ih => exact bind_canonical (act_canonical (writeOuts_canonical _ _)) fun _ => bind_canonical ih fun _ => pure_canonical _

theorem planVectorOp_canonical (q : Nat) (p : Packet) : PlanKeepsCanonical (planVectorOp q p) := by
  mvcgen [planVectorOp, checkGroup_canonical, checkRound_canonical, checkShapes_canonical, readVec_canonical, require_canonical,
    requireLives_canonical]
  exact ⟨‹_›, by mvcgen [Operand.read_canonical, Table.read_canonical, VecArgs.read_canonical, readSrams_canonical,
    writeBy_canonical]⟩

theorem planNorm_canonical (q : Nat) (p : Packet) : PlanKeepsCanonical (planNorm q p) := by
  mvcgen [planNorm, checkGroup_canonical, checkRound_canonical, checkShapes_canonical, readVec_canonical, require_canonical,
    requireLives_canonical]
  exact ⟨‹_›, by mvcgen [Operand.read_canonical, Table.read_canonical, VecArgs.read_canonical, VecArgs.readShared_canonical,
    readSrams_canonical, writeBy_canonical]⟩

theorem planSoftmax_canonical (q : Nat) (p : Packet) : PlanKeepsCanonical (planSoftmax q p) := by
  mvcgen [planSoftmax, checkGroup_canonical, checkRound_canonical, checkShapes_canonical, readVec_canonical, require_canonical,
    requireLives_canonical]
  exact ⟨‹_›, by mvcgen [Operand.read_canonical, Table.read_canonical, VecArgs.read_canonical, readSrams_canonical,
    writeBy_canonical]⟩

theorem planLoss_canonical (q : Nat) (p : Packet) : PlanKeepsCanonical (planLoss q p) := by
  mvcgen [planLoss, checkGroup_canonical, checkRound_canonical, checkShapes_canonical, readVec_canonical, require_canonical,
    requireLives_canonical]
  exact ⟨‹_›, by mvcgen [Group.reader_canonical, Operand.read_canonical, Table.read_canonical, VecArgs.read_canonical,
    VecArgs.readShared_canonical, readSrams_canonical, writeBy_canonical]⟩

theorem planQuantStore_canonical (q : Nat) (p : Packet) : PlanKeepsCanonical (planQuantStore q p) := by
  mvcgen [planQuantStore, checkGroup_canonical, checkRound_canonical, checkShapes_canonical, readVec_canonical,
    require_canonical, requireLives_canonical]
  exact ⟨‹_›, by mvcgen [Operand.read_canonical, Table.read_canonical, VecArgs.read_canonical, readSrams_canonical,
    writeBy_canonical]⟩

/-! ### The operations of Machine/Window.lean -/

theorem readEach_canonical (h : BitVec 32) (i n : Nat) {s : State} (w : s.canonical = true) :
    (readEach h i n s).2.2.canonical = true := by
  induction n generalizing i s with
  | zero => exact w
  | succ n ih =>
    refine ih _ ?_
    split <;> rename_i e
    · exact (readBytes_canonical _ _ _ _ _).ok w e
    · exact (readBytes_canonical _ _ _ _ _).error w e

@[simp] theorem reportAer_bytes (s : State) : (reportAer s).bytes = s.bytes := rfl

theorem bar4Read_canonical (off len : Nat) {s : State} (w : s.canonical = true) : (bar4Read off len s).canonical = true := by
  refine canonical_ite w (canonical_ite (canonical_of_bytes (raiseLnk_bytes _ _) w) ?_)
  have k := fun h i n => readEach_canonical h i n w
  exact canonical_ite (canonical_of_bytes rfl (k _ _ _))
    (canonical_of_bytes ((raisePoisoned_bytes _ _).trans (reportAer_bytes _)) (k _ _ _))

theorem bar4Write_canonical (off : Nat) (data : List Byte) {s : State} (w : s.canonical = true) :
    (bar4Write off data s).canonical = true :=
  canonical_ite w (canonical_ite (canonical_of_bytes (raiseLnk_bytes _ _) w)
    (writeHeld_canonical _ (canonical_of_bytes (advanceGen_bytes _ _) (abandonHolding_canonical _ _ w))))

/-! ### The operations of Machine/Writes.lean -/

@[simp] theorem configure_bytes (q : Nat) (w : Queue) (s : State) : (configure q w s).2.bytes = s.bytes := by
  simp only [configure]
  (repeat' split) <;> simp

@[simp] theorem writeQueCtrl_bytes (q : Nat) (w : Word) (s : State) : (writeQueCtrl q w s).bytes = s.bytes := by
  grind [writeQueCtrl, State.setQueue_bytes, configure_bytes]

@[simp] theorem writeQueue_bytes (q o : Nat) (w : Word) (s : State) : (writeQueue q o w s).bytes = s.bytes := by
  simp only [writeQueue]
  split <;> simp

@[simp] theorem writeTokenSet_bytes (w : Word) (s : State) : (writeTokenSet w s).bytes = s.bytes := by
  simp [writeTokenSet]

@[simp] theorem writeTokenClear_bytes (w : Word) (s : State) : (writeTokenClear w s).bytes = s.bytes := by
  simp [writeTokenClear]

@[simp] theorem writeQue_bytes (o : Nat) (w : Word) (s : State) : (writeQue o w s).bytes = s.bytes := by
  simp [writeQue]

@[simp] theorem writeSeq_bytes (o : Nat) (w : Word) (s : State) : (writeSeq o w s).bytes = s.bytes := by
  unfold writeSeq
  split <;> rfl

@[simp] theorem writeTns_bytes (o : Nat) (w : Word) (s : State) : (writeTns o w s).bytes = s.bytes := by
  unfold writeTns
  split <;> rfl

@[simp] theorem writeDescSel_bytes (w : Word) (s : State) : (writeDescSel w s).bytes = s.bytes := rfl

@[simp] theorem writePlcStatus_bytes (w : Word) (s : State) : (writePlcStatus w s).bytes = s.bytes := by
  simp [writePlcStatus]

@[simp] theorem writePlc_bytes (o : Nat) (w : Word) (s : State) : (writePlc o w s).bytes = s.bytes := by
  unfold writePlc
  dsimp only
  split <;> simp

@[simp] theorem clearCeLog_bytes (w : Word) (s : State) : (clearCeLog w s).bytes = s.bytes := by
  simp [clearCeLog]

@[simp] theorem writeMem_bytes (o : Nat) (w : Word) (s : State) : (writeMem o w s).bytes = s.bytes := by
  unfold writeMem
  dsimp only
  split <;> simp

@[simp] theorem writeMsix_bytes (i : Nat) (w : Word) (s : State) : (writeMsix i w s).bytes = s.bytes := by
  simp [writeMsix]

@[simp] theorem writeLnk_bytes (o : Nat) (w : Word) (s : State) : (writeLnk o w s).bytes = s.bytes := by
  unfold writeLnk
  split
  · rfl
  · split
    · exact writeMsix_bytes _ _ _
    · split <;> simp

@[simp] theorem writePolicy_bytes (f : Policy → Policy) (s : State) : (writePolicy f s).bytes = s.bytes := by
  simp [writePolicy]

@[simp] theorem writeTim_bytes (o : Nat) (w : Word) (s : State) : (writeTim o w s).bytes = s.bytes := by
  simp only [writeTim]
  split <;> simp

@[simp] theorem writePwr_bytes (o : Nat) (w : Word) (s : State) : (writePwr o w s).bytes = s.bytes := by
  unfold writePwr
  split
  · exact installerWrite_bytes _ _ _ (fun _ => by rfl) s
  · rfl
  · exact installerWrite_bytes _ _ _ (fun _ => by rfl) s
  · rfl
  · rfl

@[simp] theorem writePeekSel_bytes (w : Word) (s : State) : (writePeekSel w s).bytes = s.bytes := rfl

@[simp] theorem writeCnt_bytes (o : Nat) (w : Word) (s : State) : (writeCnt o w s).bytes = s.bytes := by
  unfold writeCnt
  split <;> rfl

@[simp] theorem writeTrc_bytes (o : Nat) (w : Word) (s : State) : (writeTrc o w s).bytes = s.bytes := by
  unfold writeTrc
  split <;> rfl

@[simp] theorem writeLgr_bytes (o : Nat) (w : Word) (s : State) : (writeLgr o w s).bytes = s.bytes := by
  simp [writeLgr]

@[simp] theorem writeUpsCfg_bytes (w : Word) (s : State) : (writeUpsCfg w s).bytes = s.bytes :=
  installerWrite_bytes _ _ _ (fun _ => by rfl) s

@[simp] theorem writeUps_bytes (o : Nat) (w : Word) (s : State) : (writeUps o w s).bytes = s.bytes := by
  unfold writeUps
  split
  · rfl
  · exact writeUpsCfg_bytes w s
  · exact installerWrite_bytes _ _ _ (fun _ => by simp) s
  · exact installerWrite_bytes _ _ _ (fun _ => by simp) s
  · exact upsReset_bytes _ w s
  · rfl

@[simp] theorem writeSecCtrl_bytes (w : Word) (s : State) : (writeSecCtrl w s).bytes = s.bytes :=
  installerWrite_bytes _ _ _ (fun _ => by rfl) s

theorem writeSec_canonical (o : Nat) (v : Word) {s : State} (w : s.canonical = true) : (writeSec o v s).canonical = true := by
  refine canonical_ite (canonical_of_bytes (writeWindow_bytes _ _ _) w) ?_
  split
  · exact canonical_of_bytes (writeSecCtrl_bytes _ _) w
  · exact w
  · exact recoveryGo_canonical v w
  · exact w

theorem rawWrite_canonical (off : Nat) (v : Word) {s : State} (w : s.canonical = true) : (rawWrite off v s).canonical = true := by
  have k : ∀ {f : State → State}, (∀ s, (f s).bytes = s.bytes) → (f s).canonical = true := fun h => canonical_of_bytes (h s) w
  unfold rawWrite
  exact canonical_ite w <| canonical_ite (k (writeQue_bytes _ v)) <| canonical_ite (k (writeSeq_bytes _ v)) <|
    canonical_ite (k (writeTns_bytes _ v)) <| canonical_ite (k (writePlc_bytes _ v)) <| canonical_ite (k (writeMem_bytes _ v)) <|
    canonical_ite (k (writeLnk_bytes _ v)) <| canonical_ite (k (writeTim_bytes _ v)) <| canonical_ite (k (writePwr_bytes _ v)) <|
    canonical_ite (k (writeCnt_bytes _ v)) <| canonical_ite (k (writeTrc_bytes _ v)) <| canonical_ite (k (writeLgr_bytes _ v)) <|
    canonical_ite (writeSec_canonical _ v w) <| canonical_ite (k (writeUps_bytes _ v)) w

theorem writeWord_canonical (off : Nat) (v : Word) {s : State} (w : s.canonical = true) : (writeWord off v s).canonical = true :=
  canonical_ite (rawWrite_canonical off v w) w

@[simp] theorem readEffect_bytes (off : Nat) (m : Nat → Bool) (s : State) : (readEffect off m s).bytes = s.bytes := by
  simp only [readEffect]
  split <;> simp

@[simp] theorem readWord_bytes (lo hi off : Nat) (s : State) : (readWord lo hi off s).2.bytes = s.bytes := by
  simp [readWord]

@[simp] theorem readWords_bytes (lo hi n off : Nat) (s : State) : (readWords lo hi n off s).2.bytes = s.bytes := by
  induction n generalizing off s with
  | zero => rfl
  | succ n ih => exact (ih _ _).trans (readWord_bytes lo hi off s)

@[simp] theorem readBar0_bytes (off len : Nat) (s : State) : (readBar0 off len s).bytes = s.bytes := by
  simp [readBar0]

/-! ### The operations of Machine/Firmware.lean -/

theorem firmwarePlan_canonical (c : InFlight) (m : Option RailMeans) : PlanKeepsCanonical (firmwarePlan c m) := by
  mvcgen [firmwarePlan, planCounterCfg_canonical, planDumpRead_canonical, planFwStage_canonical, planHealth_canonical,
    planLedgerRead_canonical, planMakerDiag_canonical, planMarginScan_canonical, planPowerCap_canonical,
    planRoleSession_canonical, planSamplerCfg_canonical, planScheduleSet_canonical, planTelemetry_canonical,
    planTraceArm_canonical, planTraceRead_canonical]

@[simp] theorem starting_bytes (n : Option Nat) (s : State) : (starting n s).bytes = s.bytes := rfl

theorem startQueuedAs_canonical (c : InFlight) (m : Option RailMeans) {s : State} (w : s.canonical = true) :
    (startQueuedAs c m s).canonical = true := by
  refine unlessOver_canonical (fun {u} w => ?_) w
  exact canonical_of_bytes (starting_bytes _ _) (startF_canonical _ (firmwarePlan_canonical _ _)
    (canonical_of_bytes ((starting_bytes _ _).trans (dropInflight_bytes _ u)) w))

theorem startQueued_canonical {s : State} (w : s.canonical = true) : (startQueued s).canonical = true := by
  unfold startQueued
  split
  · exact w
  · split
    · exact canonical_ite w (startQueuedAs_canonical _ _ w)
    · exact w

/-! ### The operations of Machine/Idle.lean -/

@[simp] theorem tickTime_bytes (s : State) : (tickTime s).bytes = s.bytes := rfl

@[simp] theorem deliverEvent_bytes (s : State) : (deliverEvent s).bytes = s.bytes := by
  simp only [deliverEvent]
  split <;> simp

end Sys2Proof.Machine
end

section
/-! SUPPORT. Every command and every step keep the memories in canonical form. -/

namespace Sys2Proof.Machine

/-! ### Idling and the commands -/

theorem idle_canonical {s : State} (w : s.canonical = true) : (idle s).canonical = true := by
  have t : (tickTime s).canonical = true := canonical_of_bytes (tickTime_bytes s) w
  unfold idle
  split
  · exact w
  · exact t
  · exact canonical_of_bytes (deliverEvent_bytes _) (startQueued_canonical (canonical_of_bytes (noteExit_bytes _)
      (copyNext_canonical (canonical_of_bytes (wake_bytes _) t))))

/-- The state that an outcome goes on to, where it goes on, holds its memories in canonical form. -/
def NextCanonical (o : Host.Outcome State Fault Refusal) : Prop := ∀ t, o = .next t → t.canonical = true

theorem nextCanonical {s : State} (w : s.canonical = true) : NextCanonical (.next s) := fun _ e => by
  cases e
  exact w

theorem nextCanonical_of_bytes {s t : State} (h : t.bytes = s.bytes) (w : s.canonical = true) : NextCanonical (.next t) :=
  nextCanonical (canonical_of_bytes h w)

/-- A command that waits for a condition and leaves the memories alone. -/
theorem nextCanonical_ite {c : Prop} [Decidable c] {s t : State} (h : t.bytes = s.bytes) (w : s.canonical = true) :
    NextCanonical (.next (if c then t else s)) :=
  nextCanonical (canonical_ite (canonical_of_bytes h w) w)

section
variable {s : State} (w : s.canonical = true)
include w

theorem execDelayResp_canonical (port : Fin 12) (id : PtpId) (t4 : Nat) : NextCanonical (execDelayResp port id t4 s) := by
  refine nextCanonical (canonical_ite ?_ w)
  split
  · exact canonical_of_bytes (by simp) w
  · exact canonical_of_bytes (count_bytes _ _ _ _ _) w

theorem execSyncInterval_canonical (port : Fin 12) : NextCanonical (execSyncInterval port s) :=
  nextCanonical (canonical_ite w (canonical_ite (canonical_of_bytes (by simp) w) (canonical_of_bytes (by simp) w)))

theorem execSampleInstance_canonical (entry : Fin 64) (m : RailMeans) : NextCanonical (execSampleInstance entry m s) :=
  nextCanonical (unlessOver_canonical (fun w => canonical_ite
    (canonical_of_bytes ((fireNext_bytes _ _).trans (applySelection_bytes _)) (canonical_ite (takeSample_canonical m w) w)) w) w)

theorem execTakeoverLimit_canonical : NextCanonical (execTakeoverLimit s) := by
  refine nextCanonical ?_
  split
  · exact canonical_ite (canonical_of_bytes (syncDeputy_bytes _) (decideDomain_canonical _ w)) w
  · exact w

theorem execJoinAccept_canonical (a : JoinAccept) : NextCanonical (execJoinAccept a s) := by
  refine nextCanonical ?_
  split
  · exact canonical_of_bytes (syncDeputy_bytes _) (acceptJoin_canonical _ _ _ _ _ w)
  · exact joined_canonical _ _ _ _ _ _ _ _ w

theorem execStackTemperatureRead_canonical (r : StackReadings) : NextCanonical (execStackTemperatureRead r s) :=
  nextCanonical (canonical_ite (canonical_of_bytes (foldl_bytes _ (fun s k => countStack_bytes k _ _ s) _ _) w) w)

theorem execProtectiveShutdown_canonical (vin : Nat) : NextCanonical (execProtectiveShutdown vin s) :=
  have k := coldReset_canonical 0 true w
  nextCanonical (canonical_ite k (canonical_ite (canonical_of_bytes rfl w) w))

theorem execWarmResetQuiesced_canonical : NextCanonical (execWarmResetQuiesced s) := by
  refine nextCanonical ?_
  split
  · exact canonical_ite (warmReset_canonical _ (cutWindows_canonical w)) w
  · exact w

theorem execAckFrame_canonical (port : Fin 12) (f : Frame) : NextCanonical (execAckFrame port f s) := by
  have h : (hearFrame port f s).2.canonical = true := canonical_of_bytes (hearFrame_bytes port f s) w
  refine nextCanonical ?_
  split <;> rename_i e
  · exact canonical_ite (canonical_of_bytes (takeAck_bytes _ _ _ _) (canonical_of_snd h e)) (canonical_of_snd h e)
  · exact canonical_of_snd h e

theorem execRegisterWrite_canonical (off size : Nat) (enables : Bool) (v : BitVec 64) :
    NextCanonical (execRegisterWrite off size enables v s) :=
  nextCanonical (canonical_ite w (canonical_ite (writeWord_canonical _ _ w)
    (canonical_ite (writeWord_canonical _ _ (writeWord_canonical _ _ w)) (canonical_of_bytes (raiseLnk_bytes _ _) w))))

theorem execSqDoorbell_canonical (q : Fin 64) (v : Word) : NextCanonical (execSqDoorbell q v s) := by
  refine nextCanonical (canonical_ite w ?_)
  dsimp only
  split
  · exact canonical_of_bytes (State.setQueue_bytes _ _ _) w
  · exact canonical_of_bytes (raiseQue_bytes _ _ _) w

theorem execCqDoorbell_canonical (q : Fin 64) (v : Word) : NextCanonical (execCqDoorbell q v s) := by
  refine nextCanonical (canonical_ite w ?_)
  dsimp only
  split
  · exact canonical_of_bytes (State.setQueue_bytes _ _ _) w
  · exact canonical_of_bytes (raiseQue_bytes _ _ _) w

end

/-! The messages of the management controllers leave the memories alone. -/

section
variable {s : State} (w : s.canonical = true)
include w

theorem execNegotiateAlgorithms_canonical (m : Medium) (a : SpdmAlgorithms) : NextCanonical (execNegotiateAlgorithms m a s) :=
  nextCanonical (canonical_ite w (canonical_ite (canonical_of_bytes (by simp) w) (canonical_of_bytes (by simp) w)))

theorem execGetDigests_canonical (m : Medium) : NextCanonical (execGetDigests m s) :=
  nextCanonical_of_bytes (afterNegotiation_bytes m (fun _ => respond_bytes _ _ _ _) s) w

theorem execGetCertificate_canonical (m : Medium) (slot : Fin 8) : NextCanonical (execGetCertificate m slot s) :=
  nextCanonical_of_bytes (afterNegotiation_bytes m (fun _ => by split <;> simp) s) w

theorem execChallenge_canonical (m : Medium) (slot : Fin 8) : NextCanonical (execChallenge m slot s) :=
  nextCanonical_of_bytes (afterNegotiation_bytes m (fun _ => by split <;> simp) s) w

theorem execGetMeasurements_canonical (m : Medium) (index : BitVec 8) : NextCanonical (execGetMeasurements m index s) :=
  nextCanonical_of_bytes (afterNegotiation_bytes m (fun _ => by dsimp only; split_ifs <;> simp) s) w

theorem execKeyExchange_canonical (m : Medium) (id : BitVec 32) (r : Requester) : NextCanonical (execKeyExchange m id r s) :=
  nextCanonical_of_bytes (afterNegotiation_bytes m (fun _ => by split <;> simp) s) w

theorem execFinish_canonical (id : BitVec 32) (verified : Bool) : NextCanonical (execFinish id verified s) := by
  refine nextCanonical ?_
  split
  · exact canonical_ite w (canonical_ite (canonical_of_bytes (by simp) w) (canonical_of_bytes (by simp) w))
  · exact w

theorem execMctpControl_canonical (c : MctpControl) : NextCanonical (execMctpControl c s) := by
  refine nextCanonical (canonical_ite w ?_)
  cases c <;> exact canonical_of_bytes (by simp) w

theorem execGetPdr_canonical (m : Medium) (r : Nat) : NextCanonical (execGetPdr m r s) :=
  have k := fun data => canonical_of_bytes (pldm_bytes m 0x51 data s) w
  nextCanonical (canonical_ite w (canonical_ite (k _) (canonical_ite (k _) (k _))))

theorem execGetSensorReading_canonical (m : Medium) (sensor : Nat) : NextCanonical (execGetSensorReading m sensor s) := by
  refine nextCanonical (canonical_ite w ?_)
  split <;> exact canonical_of_bytes (pldm_bytes _ _ _ _) w

theorem execGetStateSensorReadings_canonical (m : Medium) (sensor : Nat) :
    NextCanonical (execGetStateSensorReadings m sensor s) := by
  refine nextCanonical (canonical_ite w ?_)
  split <;> exact canonical_of_bytes (pldm_bytes _ _ _ _) w

end

/-- Every command keeps the canonical form: packet commands where their plans do, the others by the operation each is. -/
theorem exec_canonical (c : Instr) {s : State} (w : s.canonical = true) : NextCanonical (exec c s) := by
  cases c with
  | nop _ p => exact nextCanonical (issueS_canonical _ _ _ (planNop_canonical p) w)
  | matmul q p => exact nextCanonical (issueS_canonical _ _ _ (planMatrix_canonical q false p) w)
  | matmulAcc q p => exact nextCanonical (issueS_canonical _ _ _ (planMatrix_canonical q true p) w)
  | scalePass _ p => exact nextCanonical (issueS_canonical _ _ _ (planScalePass_canonical p) w)
  | quantStore q p => exact nextCanonical (issueS_canonical _ _ _ (planQuantStore_canonical q p) w)
  | vectorOp q p => exact nextCanonical (issueS_canonical _ _ _ (planVectorOp_canonical q p) w)
  | norm q p => exact nextCanonical (issueS_canonical _ _ _ (planNorm_canonical q p) w)
  | softmax q p => exact nextCanonical (issueS_canonical _ _ _ (planSoftmax_canonical q p) w)
  | loss q p => exact nextCanonical (issueS_canonical _ _ _ (planLoss_canonical q p) w)
  | copy _ p => exact nextCanonical (issueS_canonical _ _ _ (planCopy_canonical p) w)
  | fill q p => exact nextCanonical (issueS_canonical _ _ _ (planFill_canonical q p) w)
  | place _ p => exact nextCanonical (issueS_canonical _ _ _ (planPlace_canonical p) w)
  | release _ p => exact nextCanonical (issueS_canonical _ _ _ (planRelease_canonical p) w)
  | boundsSet q p => exact nextCanonical (issueS_canonical _ _ _ (planBoundsSet_canonical q p) w)
  | fence _ p => exact nextCanonical (issueS_canonical _ _ _ (planFence_canonical p) w)
  | waitTime _ p => exact nextCanonical (issueS_canonical _ _ _ (planWaitTime_canonical p) w)
  | signal _ p => exact nextCanonical (issueS_canonical _ _ _ (planSignal_canonical p) w)
  | bundleSend _ p => exact nextCanonical (issueS_canonical _ _ _ (planSend_canonical p) w)
  | bundleReduce _ p => exact nextCanonical (issueS_canonical _ _ _ (planReduce_canonical p) w)
  | bundleBroadcast _ p => exact nextCanonical (issueS_canonical _ _ _ (planBroadcast_canonical p) w)
  | update q p => exact nextCanonical (issueS_canonical _ _ _ (planUpdate_canonical q p) w)
  | commit _ p => exact nextCanonical (issueS_canonical _ _ _ (planCommit_canonical p) w)
  | ckptDrain q p => exact nextCanonical (issueS_canonical _ _ _ (planDrain_canonical q p) w)
  | rollback _ p => exact nextCanonical (issueS_canonical _ _ _ (planRollback_canonical p) w)
  | roundRecord q p => exact nextCanonical (issueS_canonical _ _ _ (planRecord_canonical q p) w)
  | joinDomain q p => exact nextCanonical (issueS_canonical _ _ _ (planJoinDomain_canonical q p) w)
  | assignSpare _ p => exact nextCanonical (issueS_canonical _ _ _ (planAssign_canonical p) w)
  | getHealth _ p => exact nextCanonical (issueF_canonical _ _ _ (fun _ => planHealth_canonical p) _ w)
  | getTelemetry _ p m => exact nextCanonical (issueF_canonical _ _ _ (fun _ => planTelemetry_canonical p m) _ w)
  | setPowerCap _ p => exact nextCanonical (issueF_canonical _ _ _ (fun _ => planPowerCap_canonical p _) _ w)
  | ledgerRead _ p => exact nextCanonical (issueF_canonical _ _ _ (fun _ => planLedgerRead_canonical p) _ w)
  | marginScan _ p => exact nextCanonical (issueF_canonical _ _ _ (fun _ => planMarginScan_canonical p _) _ w)
  | counterCfg _ p => exact nextCanonical (issueF_canonical _ _ _ (fun _ => planCounterCfg_canonical p) _ w)
  | samplerCfg _ p => exact nextCanonical (issueF_canonical _ _ _ (fun _ => planSamplerCfg_canonical p) _ w)
  | traceArm _ p => exact nextCanonical (issueF_canonical _ _ _ (fun _ => planTraceArm_canonical p) _ w)
  | traceRead _ p => exact nextCanonical (issueF_canonical _ _ _ (fun _ => planTraceRead_canonical p) _ w)
  | roleSession _ p => exact nextCanonical (issueF_canonical _ _ _ (fun _ => planRoleSession_canonical p _) _ w)
  | fwStage _ p => exact nextCanonical (issueF_canonical _ _ _ (fun _ => planFwStage_canonical p _) _ w)
  | scheduleSet _ p => exact nextCanonical (issueF_canonical _ _ _ (fun _ => planScheduleSet_canonical p _) _ w)
  | dumpRead _ p => exact nextCanonical (issueF_canonical _ _ _ (fun _ => planDumpRead_canonical p) _ w)
  | makerDiag _ p => exact nextCanonical (issueF_canonical _ _ _ (fun _ => planMakerDiag_canonical p _) _ w)
  | commandComplete => exact nextCanonical (unlessOver_canonical (fun w => canonical_ite (commandComplete_canonical _ _ w) w) w)
  | msixHoldoffEnd | queMgmtRead | cntSmpLossRead | memCeLogCtrlRead | timNowLoRead | trcTriggerTimeLoRead | trcDumpTimeLoRead
  | coldReset | warmReset | sensorFault | dieLocalisation | retrainEvaluation | rebuildComplete | migrationResume | seqWatchdog
  | heartbeatPeriod | heartbeat | sync | nakFrame | ackTimer | resendTimer | linkTraining | upsettU1 | upsettU2 | upsettU3
  | upsettU4 | upsettU5 | upsettU6 | stageLimit | reducedService | ledgerHourly | linkPortDown | followUp =>
    exact nextCanonical_of_bytes (by simp) w
  | sqDoorbell q v => exact execSqDoorbell_canonical w q v
  | cqDoorbell q v => exact execCqDoorbell_canonical w q v
  | queCtrlWrite | queTokenSet | queTokenClear | plcDescSelWrite | cntPeekSelWrite | ceLogClear | statusW1cWrite | upsCfgWrite
  | secCtrlWrite | lnkCtrlWrite => exact nextCanonical (writeWord_canonical _ _ w)
  | warmResetQuiesced => exact execWarmResetQuiesced_canonical w
  | recoveryProgram | recoveryLedgerRead | recoveryReseal => exact nextCanonical (canonical_ite (recoveryGo_canonical _ w) w)
  | registerWrite off size enables v => exact execRegisterWrite_canonical w off size enables v
  | bar4Read => exact nextCanonical (unlessOver_canonical (bar4Read_canonical _ _) w)
  | bar4Write => exact nextCanonical (bar4Write_canonical _ _ w)
  | powerOn => exact nextCanonical (canonical_ite (coldReset_canonical _ _ (canonical_of_bytes rfl w)) w)
  | hostRstN => exact nextCanonical (canonical_ite w (canonical_ite (requestWarm_canonical _ w) (coldReset_canonical _ _ w)))
  | functionLevelReset | functionLevelResetDone | brakeAssert | brakeRelease | thermTrip | ppsIn | ppsOut | powerEvaluation
  | retrainWindow | delayReq | announce | holdover | windowInstance | ledgerCompaction | getVersion | getCapabilities
  | getPdrRepositoryInfo | setEventReceiver | sessionTransportFailure | ckptDoneReport | delayReqInterval | announceInterval =>
    exact nextCanonical_ite (by simp) w
  | protectiveShutdown vin => exact execProtectiveShutdown_canonical w vin
  | stackTemperatureRead r => exact execStackTemperatureRead_canonical w r
  | scrubSlot | drainStart => exact nextCanonical (unlessOver_canonical (canonical_of_bytes (by simp)) w)
  | stackInterfaceLoss => exact nextCanonical (canonical_ite (releaseHeld_canonical (canonical_of_bytes (by simp) w)) w)
  | channelReturn => exact nextCanonical (channelReturn_canonical _ _ _ _ w)
  | channelOfflineLimit => exact nextCanonical (channelLimit_canonical _ w)
  | migrationCopy => exact nextCanonical (unlessOver_canonical migrationCopy_canonical w)
  | releaseFree => exact nextCanonical (unlessOver_canonical (releaseFree_canonical _) w)
  | dumpWrite => exact nextCanonical (unlessOver_canonical (dumpWrite_canonical _) w)
  | transferStart => exact nextCanonical (unlessOver_canonical (transferStart_canonical _ _ _) w)
  | windowGraceExpiry => exact nextCanonical (unlessOver_canonical (windowGraceExpiry_canonical _ _ _) w)
  | commitEffect => exact nextCanonical (unlessOver_canonical (commitMessage_canonical _ _) w)
  | report r =>
    exact nextCanonical (unlessOver_canonical (fun w =>
      canonical_ite (canonical_of_bytes (syncDeputy_bytes _) (rimReport_canonical r w)) w) w)
  | decision d => exact nextCanonical (canonical_ite (applyDecision_canonical d w) w)
  | deputyAcknowledge =>
    exact nextCanonical (unlessOver_canonical (fun w =>
      canonical_ite (canonical_of_bytes (syncDeputy_bytes _) (release_canonical w)) w) w)
  | joinAccept a => exact execJoinAccept_canonical w a
  | joinTimeout => exact nextCanonical (canonical_ite w (finishAll_canonical _ _ _ (canonical_of_bytes rfl w)))
  | takeoverLimit => exact execTakeoverLimit_canonical w
  | heartbeatAnswer => exact nextCanonical (unlessOver_canonical (heartbeatAnswer_canonical _) w)
  | heartbeatMissed => exact nextCanonical (unlessOver_canonical (heartbeatMissed_canonical _) w)
  | rimHeartbeatMissed =>
    exact nextCanonical (canonical_ite w (unlessOver_canonical (fun w =>
      canonical_of_bytes (syncDeputy_bytes _) (becomeRim_canonical w)) w))
  | delayResp port id t4 => exact execDelayResp_canonical w port id t4
  | syncInterval port => exact execSyncInterval_canonical w port
  | timeLost => exact nextCanonical (timeLost_canonical w)
  | sampleInstance entry m => exact execSampleInstance_canonical w entry m
  | scrubInstance | powerCapInstance | signalInstance | marginInstance | spdmHeartbeat | spdmHeartbeatMissed | keyUpdate
  | endSession =>
    refine nextCanonical ?_
    split
    · exact canonical_ite (canonical_of_bytes (by simp) w) w
    · exact w
  | dataFrame => exact nextCanonical (unlessOver_canonical (dataFrame_canonical _ _) w)
  | ackFrame port f => exact execAckFrame_canonical w port f
  | traceSummaryInterval => exact nextCanonical (unlessOver_canonical summaryInterval_canonical w)
  | negotiateAlgorithms m a => exact execNegotiateAlgorithms_canonical w m a
  | getDigests m => exact execGetDigests_canonical w m
  | getCertificate m slot => exact execGetCertificate_canonical w m slot
  | challenge m slot => exact execChallenge_canonical w m slot
  | getMeasurements m index => exact execGetMeasurements_canonical w m index
  | keyExchange m id r => exact execKeyExchange_canonical w m id r
  | finish id verified => exact execFinish_canonical w id verified
  | mctpControl c => exact execMctpControl_canonical w c
  | getPdr m record => exact execGetPdr_canonical w m record
  | getSensorReading m sensor => exact execGetSensorReading_canonical w m sensor
  | getStateSensorReadings m sensor => exact execGetStateSensorReadings_canonical w m sensor
  | opcodeUnknown => exact nextCanonical (opcodeUnknown_canonical _ _ _ w)
  | packetUnreadable => exact nextCanonical (packetUnreadable_canonical _ _ w)
  | recordProgrammed => exact nextCanonical (unlessOver_canonical (recordProgrammed_canonical _) w)
  | leaveNotice | lostNotice => exact nextCanonical (unlessOver_canonical (seatLost_canonical _) w)

theorem step_canonical {s t : State} (w : s.canonical = true) (e : step s = .next t) : t.canonical = true := by
  cases hp : s.pending with
  | nil =>
    rw [step_of_idle hp] at e
    exact nextCanonical (idle_canonical w) t e
  | cons c rest =>
    rw [step_of_front hp] at e
    exact exec_canonical c (s := { s with pending := rest }) w t e

/-- Settles O8: the reset state is in canonical form, and whatever writes memory (a store's line, a line forgotten or cleared, a write
of host memory, a reset) keeps it, so each command does, and so does an idle step. -/
theorem memoriesStayCanonical : Obligations.MemoriesStayCanonical :=
  ⟨reset_canonical, fun _ _ => step_canonical⟩

end Sys2Proof.Machine
end

section
/-! SUPPORT. What the operations of memory maintenance leave in the MEM_ block and in the stacks' table: the operations that touch
neither, the health transitions of Table 7.4, the poison list, and the booking of retrain windows. -/

namespace Sys2Proof.Machine

theorem mem_tinsert {α : Type} (t : Tab α) (k : Nat) (a : α) : (k, a) ∈ tinsert t k a := by
  induction t with
  | nil => exact List.mem_singleton.mpr rfl
  | cons e t ih =>
    simp only [tinsert]
    split
    · exact List.mem_cons_self
    · split
      · exact List.mem_cons_self
      · exact List.mem_cons_of_mem _ ih

/-! ### Operations that leave the MEM_ block alone -/

theorem stack_of_mem {s t : State} (h : t.mem = s.mem) (k : Nat) : t.stack k = s.stack k := by
  unfold State.stack; rw [h]

@[simp] theorem sendMessage_mem (v : Nat) (s : State) : (sendMessage v s).mem = s.mem := by
  unfold sendMessage; split <;> rfl

@[simp] theorem signalVector_mem (v : Nat) (s : State) : (signalVector v s).mem = s.mem := by
  unfold signalVector; split
  · rfl
  · exact sendMessage_mem v s

@[simp] theorem trace_mem (typ sub source : Nat) (layer : BitVec 16) (payload : List Nat) (s : State) :
    (trace typ sub source layer payload s).mem = s.mem := by
  obtain ⟨_, _, _, e⟩ := trace_parts typ sub source layer payload 0 false s
  unfold trace; rw [e]

@[simp] theorem record_mem (typ : Nat) (payload : List Byte) (s : State) : (record typ payload s).mem = s.mem := rfl

@[simp] theorem notify_mem (sensor : Nat) (s : State) : (notify sensor s).mem = s.mem := by
  unfold notify; split <;> rfl

@[simp] theorem meetHandle_mem (use : Nat) (s : State) : (meetHandle use s).2.mem = s.mem := by
  unfold meetHandle; dsimp only; split
  · rfl
  · split
    · exact trace_mem ..
    · rfl

@[simp] theorem markWritten_mem (k first n : Nat) (s : State) : (markWritten k first n s).mem = s.mem := rfl

@[simp] theorem writeBurst_mem (c id : Nat) (s : State) : (writeBurst c id s).mem = s.mem := rfl

/-! ### Operations that leave the stacks alone -/

@[simp] theorem raiseMem_mem (b : Nat) (s : State) : (raiseMem b s).mem = { s.mem with status := s.mem.status.raise b } :=
  signalVector_mem ..

theorem Status.raise_bit (st : Status) {b : Nat} (h : b < 8) : (st.raise b).bits.getLsbD b = true := by
  simp only [Status.raise, BitVec.getLsbD_or, BitVec.getLsbD_ofNat, Nat.testBit_two_pow_self, h]
  simp

@[simp] theorem modStack_mem (k : Nat) (f : Stack → Stack) (s : State) :
    (modStack k f s).mem = { s.mem with stackTab := tset {} s.mem.stackTab k (f (s.stack k)) } := rfl

theorem stack_modStack (k j : Nat) (f : Stack → Stack) (s : State) :
    (modStack k f s).stack j = if j = k then f (s.stack k) else s.stack j :=
  tget_tset ..

@[simp] theorem stack_modStack_self (k : Nat) (f : Stack → Stack) (s : State) : (modStack k f s).stack k = f (s.stack k) :=
  stack_setStack ..

@[simp] theorem count_stack (set inst index n : Nat) (s : State) (k : Nat) : (count set inst index n s).stack k = s.stack k := rfl
@[simp] theorem record_stack (typ : Nat) (payload : List Byte) (s : State) (k : Nat) : (record typ payload s).stack k = s.stack k := rfl
@[simp] theorem notify_stack (sensor : Nat) (s : State) (k : Nat) : (notify sensor s).stack k = s.stack k :=
  stack_of_mem (notify_mem ..) k
@[simp] theorem trace_stack (typ sub source : Nat) (layer : BitVec 16) (payload : List Nat) (s : State) (k : Nat) :
    (trace typ sub source layer payload s).stack k = s.stack k :=
  stack_of_mem (trace_mem ..) k
@[simp] theorem raiseMem_stack (b : Nat) (s : State) (k : Nat) : (raiseMem b s).stack k = s.stack k := by
  unfold State.stack; rw [raiseMem_mem]

/-! ### Health transitions (R146, R148) -/

/-- A stack as a transition of Table 7.4 leaves it: entering FAILED ends its window, its rebuild and its bookings. -/
def Stack.enter (h : Health) (v : Stack) : Stack :=
  if h = .failed then { v with health := h, offline := none, rebuilding := none, journal := [], booked := [] } else { v with health := h }

@[simp] theorem Stack.enter_health (h : Health) (v : Stack) : (v.enter h).health = h := by unfold Stack.enter; split <;> rfl
@[simp] theorem Stack.enter_poison (h : Health) (v : Stack) : (v.enter h).poison = v.poison := by unfold Stack.enter; split <;> rfl
@[simp] theorem Stack.enter_scrubLine (h : Health) (v : Stack) : (v.enter h).scrubLine = v.scrubLine := by
  unfold Stack.enter; split <;> rfl
@[simp] theorem Stack.enter_lastScrub (h : Health) (v : Stack) : (v.enter h).lastScrub = v.lastScrub := by
  unfold Stack.enter; split <;> rfl

/-- What a transition leaves in the MEM_ block: the stack's new state, and STACK_FAILED where it enters FAILED. -/
theorem setHealth_mem (k : Nat) (h : Health) (s : State) :
    (∀ j, (setHealth k h s).stack j = if j = k then (s.stack k).enter h else s.stack j) ∧
    (setHealth k h s).mem.status = (if h = .failed then s.mem.status.raise 2 else s.mem.status) ∧
    (setHealth k h s).mem.scrubNow = s.mem.scrubNow ∧ (setHealth k h s).mem.heldWrites = s.mem.heldWrites := by
  unfold setHealth
  by_cases e : h = .failed
  · simp only [e, if_true]
    refine ⟨fun j => ?_, by simp, by simp, by simp⟩
    by_cases i : j = k
    · subst i; simp [Stack.enter]
    · simp [stack_modStack, i]
  · simp only [e, if_false]
    refine ⟨fun j => ?_, by simp, by simp, by simp⟩
    simp [stack_modStack, Stack.enter, e]

theorem stack_setHealth (k j : Nat) (h : Health) (s : State) :
    (setHealth k h s).stack j = if j = k then (s.stack k).enter h else s.stack j :=
  (setHealth_mem k h s).1 j

@[simp] theorem stack_setHealth_self (k : Nat) (h : Health) (s : State) : (setHealth k h s).stack k = (s.stack k).enter h := by
  rw [stack_setHealth, if_pos rfl]

@[simp] theorem setHealth_status (k : Nat) (h : Health) (s : State) :
    (setHealth k h s).mem.status = if h = .failed then s.mem.status.raise 2 else s.mem.status :=
  (setHealth_mem k h s).2.1

@[simp] theorem setHealth_scrubNow (k : Nat) (h : Health) (s : State) : (setHealth k h s).mem.scrubNow = s.mem.scrubNow :=
  (setHealth_mem k h s).2.2.1

@[simp] theorem setHealth_heldWrites (k : Nat) (h : Health) (s : State) : (setHealth k h s).mem.heldWrites = s.mem.heldWrites :=
  (setHealth_mem k h s).2.2.2

/-! ### Poison (R145) -/

theorem failFull_eq (k : Nat) (s : State) : failFull k s = s ∨ failFull k s = setHealth k .failed s := by
  unfold failFull; split
  · exact .inr rfl
  · exact .inl rfl

/-- Entering poison adds the ranges and counts; then the stack may fail, and nothing else becomes of it. -/
theorem enterPoison_eq (k : Nat) (ranges : List (Nat × Nat)) (counted : Bool) (s : State) :
    ∃ u, (enterPoison k ranges counted s = u ∨ enterPoison k ranges counted s = setHealth k .failed u) ∧
      u.mem = (modStack k (fun v =>
        { v with poison := v.poison ++ ranges, uncorr := if counted then sat 65535 (v.uncorr + 1) else v.uncorr }) s).mem := by
  unfold enterPoison
  dsimp only
  generalize hu : (ite (counted = true) _ _ : State) = u
  refine ⟨u, ?_, ?_⟩
  · split
    · exact .inr rfl
    · exact failFull_eq k u
  · rw [← hu]
    split <;> rfl

/-- A line that has been entered is in the poison list, and its stack is as it was or has failed. -/
theorem stack_enterPoison (k : Nat) (ranges : List (Nat × Nat)) (counted : Bool) (s : State) :
    ((enterPoison k ranges counted s).stack k).poison = (s.stack k).poison ++ ranges ∧
    (((enterPoison k ranges counted s).stack k).health = (s.stack k).health ∨
      ((enterPoison k ranges counted s).stack k).health = .failed) := by
  obtain ⟨u, e, hu⟩ := enterPoison_eq k ranges counted s
  have hs := stack_of_mem hu k
  rcases e with e | e <;> simp [e, hs]

/-! ### Booking retrain windows (R149) -/

/-- What booking windows changes of the MEM_ block: which channels wait for one. -/
structure Books (s t : State) : Prop where
  mem : t.mem = { s.mem with stackTab := t.mem.stackTab }
  stack : ∀ k, t.stack k = { s.stack k with booked := (t.stack k).booked }

namespace Books

theorem of_mem {s t : State} (h : t.mem = s.mem) : Books s t :=
  ⟨by rw [h], fun k => by rw [stack_of_mem h]⟩

theorem trans {s t u : State} (h : Books s t) (g : Books t u) : Books s u :=
  ⟨by rw [g.mem, h.mem], fun k => by rw [g.stack, h.stack]⟩

end Books

theorem books_bookWindow (k c : Nat) (s : State) : Books s (bookWindow k c s) := by
  unfold bookWindow
  split
  · exact .of_mem rfl
  · split
    · exact .of_mem rfl
    · refine ⟨rfl, fun j => ?_⟩
      rw [stack_modStack]
      split
      · rename_i e; rw [e]
      · rfl

theorem books_advanceScans (s : State) : Books s (advanceScans s) := by
  unfold advanceScans
  generalize s.flight = l
  induction l generalizing s with
  | nil => exact .of_mem rfl
  | cons i l ih =>
    refine Books.trans ?_ (ih _)
    dsimp only
    split
    · split
      · exact .of_mem rfl
      · split
        · exact (Books.of_mem (setInflight_mem ..)).trans (books_bookWindow ..)
        · exact .of_mem (setInflight_mem ..)
    · exact .of_mem rfl

/-- A window that has been booked is booked: in an entry of the schedule, or as one that waits. -/
theorem windowBooked_bookWindow {k c : Nat} (hk : k < 12) (hc : c < 16) (s : State) : (bookWindow k c s).windowBooked k c = true := by
  unfold bookWindow
  split
  · assumption
  · split
    · rename_i i find
      have mem : i ∈ (List.range 16).map (· + 48) := List.mem_of_find?_eq_some find
      have code : k + 16 * c < 256 := by omega
      have low : 48 ≤ i := by
        obtain ⟨n, -, e⟩ := List.mem_map.mp mem
        omega
      simp only [State.windowBooked, Bool.or_eq_true, List.any_eq_true]
      exact .inr ⟨_, mem_tinsert _ _ _, by simp [low, code]⟩
    · simp [State.windowBooked]

end Sys2Proof.Machine
end

section
/-! SUPPORT. What reading and decoding lines keeps of a stack, what localisation answers, and what becomes of a line whose wrong symbols
lie in one burst. -/

namespace Sys2Proof.Machine

/-- A stack in the health that its rebuild starts in, or that the rebuild has failed (Table 7.4). -/
def Stack.underRebuild (v : Stack) : Prop := v.health = .retraining ∨ v.health = .failed

/-- What reading lines keeps of stack `k`: its place in the scrub, the interval in force, and that a stack under rebuild neither heals
nor degrades. -/
structure PatrolKeeps (k : Nat) (s t : State) : Prop where
  scrubLine : (t.stack k).scrubLine = (s.stack k).scrubLine
  lastScrub : (t.stack k).lastScrub = (s.stack k).lastScrub
  scrubNow  : t.mem.scrubNow = s.mem.scrubNow
  rebuild   : (s.stack k).underRebuild → (t.stack k).underRebuild

namespace PatrolKeeps
variable {k : Nat} {s t u : State}

theorem of_stack (h : t.stack k = s.stack k) (i : t.mem.scrubNow = s.mem.scrubNow) : PatrolKeeps k s t :=
  ⟨by rw [h], by rw [h], i, by rw [h]; exact id⟩

theorem of_mem (h : t.mem = s.mem) : PatrolKeeps k s t := of_stack (stack_of_mem h k) (by rw [h])

protected theorem refl (k : Nat) (s : State) : PatrolKeeps k s s := of_mem rfl

theorem withStore (k : Nat) (s : State) (x : Store) : PatrolKeeps k s { s with store := x } := of_mem rfl

protected theorem trans (h : PatrolKeeps k s t) (g : PatrolKeeps k t u) : PatrolKeeps k s u :=
  ⟨g.scrubLine.trans h.scrubLine, g.lastScrub.trans h.lastScrub, g.scrubNow.trans h.scrubNow, fun r => g.rebuild (h.rebuild r)⟩

theorem of_ite {c : Prop} [Decidable c] (h : PatrolKeeps k s t) (g : PatrolKeeps k s u) : PatrolKeeps k s (if c then t else u) := by
  split <;> assumption

theorem of_ite_snd {α : Type} {c : Prop} [Decidable c] {x y : α × State} (h : PatrolKeeps k s x.2) (g : PatrolKeeps k s y.2) :
    PatrolKeeps k s (if c then x else y).2 := by
  split <;> assumption

theorem of_foldl {α : Type} {f : State → α → State} (h : ∀ s a, PatrolKeeps k s (f s a)) (l : List α) (s : State) :
    PatrolKeeps k s (l.foldl f s) := by
  induction l generalizing s with
  | nil => exact .refl k s
  | cons a l ih => exact (h s a).trans (ih _)

end PatrolKeeps

open PatrolKeeps

/-! ### What keeps it -/

section
variable (k : Nat) (s : State)

theorem keeps_modStack (j : Nat) {f : Stack → Stack}
    (h : ∀ v, (f v).scrubLine = v.scrubLine ∧ (f v).lastScrub = v.lastScrub ∧ (f v).health = v.health) :
    PatrolKeeps k s (modStack j f s) := by
  have e := stack_modStack j k f s
  by_cases i : k = j
  · obtain ⟨line, last, health⟩ := h (s.stack j)
    rw [if_pos i] at e
    subst i
    exact ⟨by rw [e, line], by rw [e, last], rfl, by rw [e]; unfold Stack.underRebuild; rw [health]; exact id⟩
  · exact of_stack (e.trans (if_neg i)) rfl

theorem keeps_raiseMem (b : Nat) : PatrolKeeps k s (raiseMem b s) := of_stack (raiseMem_stack b s k) (by rw [raiseMem_mem])

/-- A transition of a stack that is not under rebuild, or into FAILED. -/
theorem keeps_setHealth {j : Nat} {h : Health} (ok : j = k → h = .failed ∨ ¬(s.stack k).underRebuild) :
    PatrolKeeps k s (setHealth j h s) := by
  have e := stack_setHealth j k h s
  by_cases i : k = j
  · rw [if_pos i] at e
    subst i
    refine ⟨by rw [e, Stack.enter_scrubLine], by rw [e, Stack.enter_lastScrub], setHealth_scrubNow .., fun r => ?_⟩
    rcases ok rfl with f | n
    · exact .inr (by rw [e, Stack.enter_health, f])
    · exact absurd r n
  · exact of_stack (e.trans (if_neg i)) (setHealth_scrubNow ..)

theorem keeps_failDie {j : Nat} (d : Nat) (ok : j = k → ¬(s.stack k).underRebuild) : PatrolKeeps k s (failDie j d s) := by
  unfold failDie
  extract_lets u v
  have h : PatrolKeeps k s v := PatrolKeeps.trans (t := u) (keeps_modStack k s j (by exact fun _ => ⟨rfl, rfl, rfl⟩)) (of_mem rfl)
  refine h.trans ((keeps_setHealth k v fun i => .inr ?_).trans (keeps_raiseMem ..))
  subst i
  have e : (v.stack j).health = (s.stack j).health := by simp [v, u]
  unfold Stack.underRebuild
  rw [e]
  exact ok rfl

theorem keeps_enterPoison (j : Nat) (ranges : List (Nat × Nat)) (counted : Bool) : PatrolKeeps k s (enterPoison j ranges counted s) := by
  obtain ⟨u, e, hu⟩ := enterPoison_eq j ranges counted s
  have h : PatrolKeeps k s u := (keeps_modStack k s j (by exact fun _ => ⟨rfl, rfl, rfl⟩)).trans (of_mem hu)
  rcases e with e | e
  · rw [e]; exact h
  · rw [e]; exact h.trans (keeps_setHealth k u fun _ => .inl rfl)

theorem keeps_logCe (id : Nat) (name : LineName) (codewords : Nat) (scrub : Bool) : PatrolKeeps k s (logCe id name codewords scrub s) := by
  unfold logCe
  split
  · exact of_stack rfl rfl
  · exact of_ite (of_stack rfl rfl) (of_stack rfl rfl)

theorem keeps_correct (id : Nat) (name : LineName) (codewords : Nat) (bursts : List Nat) (wrong : List (Nat × Byte)) (scrub : Bool) :
    PatrolKeeps k s (correct id name codewords bursts wrong scrub s) := by
  unfold correct
  extract_lets j u v
  have h : PatrolKeeps k s v := PatrolKeeps.trans (t := u) (keeps_modStack k s j (by exact fun _ => ⟨rfl, rfl, rfl⟩)) (of_mem rfl)
  exact of_ite (h.trans (keeps_logCe ..)) (h.trans (withStore ..))

theorem keeps_journal (j n : Nat) : PatrolKeeps k s (journal j n s) := by
  unfold journal
  refine of_ite (of_ite ?_ (of_stack rfl rfl)) (PatrolKeeps.refl k s)
  exact (keeps_modStack k s j (by exact fun _ => ⟨rfl, rfl, rfl⟩)).trans (of_mem (count_mem ..))

theorem keeps_writeCheck (j n : Nat) : PatrolKeeps k s (writeCheck j n s) := by
  unfold writeCheck
  exact of_ite (PatrolKeeps.refl k s) ((withStore k s _).trans (keeps_journal ..))

theorem keeps_badCheck (j n : Nat) : PatrolKeeps k s (badCheck j n s) := by
  unfold badCheck
  refine (keeps_writeCheck k s j n).trans (.trans (of_mem (trace_mem ..)) (of_ite (keeps_enterPoison ..) (of_ite ?_ (keeps_enterPoison ..))))
  exact (keeps_enterPoison ..).trans (of_mem (markWritten_mem ..))

theorem keeps_wrongCheck (j n : Nat) (wrong : List (Nat × Byte)) : PatrolKeeps k s (wrongCheck j n wrong s) := by
  unfold wrongCheck
  refine (withStore k s _).trans (of_ite (of_foldl (fun u e => ?_) _ _) (of_ite (of_foldl (fun u e => of_foldl (fun u b => ?_) _ _) _ _) (PatrolKeeps.refl k _)))
  · exact of_ite (withStore k u _) (PatrolKeeps.refl k u)
  · exact of_ite (withStore k u _) (PatrolKeeps.refl k u)

theorem keeps_readCheck (j n : Nat) (scrub : Bool) : PatrolKeeps k s (readCheck j n scrub s).2 := by
  unfold readCheck
  extract_lets id erased u
  refine PatrolKeeps.trans (t := u) (of_ite (PatrolKeeps.refl k s) (of_mem (count_mem ..))) ?_
  split
  · exact PatrolKeeps.refl k _
  · rename_i words bursts wrong erasure
    exact .trans (of_ite (PatrolKeeps.refl k _) (keeps_correct ..)) (of_ite (PatrolKeeps.refl k _) (keeps_wrongCheck ..))
  · exact keeps_badCheck ..

end

/-! ### Localisation (R144) -/

theorem map_fst_filterMap {α β : Type} (f : α → Option β) (l : List α) :
    (l.filterMap fun a => (f a).map fun b => (a, b)).map Prod.fst = l.filter fun a => (f a).isSome := by
  induction l with
  | nil => rfl
  | cons a l ih =>
    cases e : f a with
    | none => simp [e, ih]
    | some b => simp [e, ih]

/-- Exactly one candidate names its die. -/
theorem localise_named {id : Nat} {s : State} {die : Nat} (name : LineName)
    (h : ((List.range 8).filter fun d => (candidate id s d).isSome) = [die]) :
    ∃ b layer, localise id name s = (some b, trace tMEM_UNCORR 1 (0x20 + lineStack id) layer [name.handle.toNat, name.offset]
      (failDie (lineStack id) die (setHealth (lineStack id) .localising s))) := by
  rw [← map_fst_filterMap, List.map_eq_singleton_iff] at h
  obtain ⟨⟨d, b⟩, l, e⟩ := h
  unfold localise
  simp only [l]
  exact ⟨b, _, by rw [← e]⟩

/-- No candidate, or several, leave the stack HEALTHY. -/
theorem localise_unnamed {id : Nat} {s : State} (name : LineName)
    (h : ∀ die, ((List.range 8).filter fun d => (candidate id s d).isSome) ≠ [die]) :
    localise id name s = (none, setHealth (lineStack id) .healthy (setHealth (lineStack id) .localising s)) := by
  unfold localise
  simp only
  split
  · rename_i d b l
    exact absurd (by rw [← map_fst_filterMap, l]; rfl) (h d)
  · rfl

section
variable (k : Nat) (s : State)

theorem keeps_localise (id : Nat) (name : LineName) (h : (s.stack (lineStack id)).health = .healthy) :
    PatrolKeeps k s (localise id name s).2 := by
  have start : PatrolKeeps k s (setHealth (lineStack id) .localising s) := by
    refine keeps_setHealth k s fun i => .inr ?_
    rw [← i, Stack.underRebuild, h]
    simp
  have localising : lineStack id = k → ¬((setHealth (lineStack id) .localising s).stack k).underRebuild := by
    intro i
    rw [← i, stack_setHealth_self, Stack.underRebuild, Stack.enter_health]
    simp
  by_cases named : ∃ die, ((List.range 8).filter fun d => (candidate id s d).isSome) = [die]
  · obtain ⟨die, one⟩ := named
    obtain ⟨b, layer, e⟩ := localise_named name one
    rw [e]
    exact start.trans ((keeps_failDie k _ die localising).trans (of_mem (trace_mem ..)))
  · rw [localise_unnamed name (not_exists.mp named)]
    have healed := keeps_setHealth k _ (h := .healthy) fun i => .inr (localising i)
    exact start.trans healed

theorem keeps_uncorrectableLine (id : Nat) (counted : Bool) : PatrolKeeps k s (uncorrectableLine id counted s) := by
  unfold uncorrectableLine
  exact of_ite (PatrolKeeps.refl k s) (keeps_enterPoison ..)

theorem keeps_patternFound (id : Nat) (name : LineName) : PatrolKeeps k s (patternFound id name s).2 := by
  unfold patternFound
  dsimp only
  split
  · rename_i c
    have h := keeps_localise k s id name (by simp_all)
    split
    · rename_i e; rw [e] at h; exact h
    · rename_i e; rw [e] at h; exact h.trans (keeps_uncorrectableLine ..)
  · exact keeps_uncorrectableLine ..

theorem keeps_decodeLine (id : Nat) (name : LineName) (scrub : Bool) : PatrolKeeps k s (decodeLine id name scrub s).2 := by
  unfold decodeLine
  extract_lets j erased u x
  refine PatrolKeeps.trans (t := u) (of_ite (PatrolKeeps.refl k s) (of_mem (count_mem ..))) ?_
  split
  · exact PatrolKeeps.refl k _
  · exact keeps_patternFound ..
  · refine of_ite_snd (of_ite_snd (keeps_patternFound ..) (keeps_uncorrectableLine ..)) ?_
    exact of_ite (PatrolKeeps.refl k _) (keeps_correct ..)

theorem keeps_reportFound (id : Nat) : PatrolKeeps k s (reportFound id s) := by
  exact (keeps_raiseMem k s 0).trans (of_mem (trace_mem ..))

theorem keeps_scrubRead (j n : Nat) : PatrolKeeps k s (scrubRead j n s) := by
  unfold scrubRead
  refine .trans (of_mem (count_mem s 2 j 10 1)) (of_ite ?_ ?_)
  · have h := keeps_decodeLine k (count 2 j 10 1 s) (hbmLine j n) ((count 2 j 10 1 s).nameOf (hbmLine j n)) true
    split
    · rename_i e; rw [e] at h; exact h.trans (keeps_reportFound ..)
    · rename_i e; rw [e] at h; exact h
  · have h := keeps_readCheck k (count 2 j 10 1 s) j n true
    split
    · rename_i e; rw [e] at h; exact h.trans (keeps_reportFound ..)
    · rename_i e; rw [e] at h; exact h

theorem keeps_rebuildLine (c j n : Nat) : PatrolKeeps k s (rebuildLine c j n s) := by
  unfold rebuildLine
  refine of_ite (of_ite (PatrolKeeps.refl k s) ?_) ?_
  · have h := keeps_decodeLine k s (hbmLine j n) (s.nameOf (hbmLine j n)) false
    split
    · rename_i e; rw [e] at h; exact h.trans (keeps_reportFound ..)
    · rename_i e; rw [e] at h; exact h.trans (of_mem (writeBurst_mem ..))
  · have h := keeps_readCheck k s j n false
    split
    · rename_i e; rw [e] at h; exact h.trans (keeps_reportFound ..)
    · rename_i e; rw [e] at h; exact h.trans (of_mem (writeBurst_mem ..))

end

end Sys2Proof.Machine
end

section
/-! SUPPORT. A line whose wrong symbols lie in one burst is decoded and written back (R142, Table 7.3). -/

namespace Sys2Proof.Machine

theorem Errors.at_of_absent {e : Errors} {i : Nat} (h : ∀ x ∈ e, x.1 ≠ i) : e.at i = 0 := by
  unfold Errors.at
  induction e with
  | nil => rfl
  | cons x e ih =>
    rw [List.foldl_cons, if_neg (h x List.mem_cons_self)]
    exact ih fun y hy => h y (List.mem_cons_of_mem x hy)

/-- A wrong symbol of a codeword comes from a stored difference of that codeword and symbol. -/
theorem exists_of_mem_wordErrors {fs : List (Nat × Nat × Byte)} {j : Nat} {x : Nat × Byte} (h : x ∈ wordErrors fs j) :
    ∃ f ∈ fs, f.1 = j ∧ f.2.1 = x.1 := by
  unfold wordErrors at h
  obtain ⟨i, -, hi⟩ := List.mem_filterMap.mp h
  split at hi
  · exact absurd hi (by simp)
  · rename_i wrong
    obtain rfl := Option.some.inj hi
    by_contra none
    refine wrong (Errors.at_of_absent fun y hy e => none ?_)
    obtain ⟨f, hf, hy⟩ := List.mem_filterMap.mp hy
    split at hy
    · rename_i word
      obtain rfl := Option.some.inj hy
      exact ⟨f, hf, word, e⟩
    · exact absurd hy (by simp)

theorem length_distinct_le_one {l : List Nat} {b : Nat} (h : ∀ x ∈ l, x = b) : (distinct l).length ≤ 1 := by
  induction l with
  | nil => exact Nat.zero_le 1
  | cons a l ih =>
    have rest : ∀ x ∈ l, x = b := fun x hx => h x (List.mem_cons_of_mem a hx)
    simp only [distinct]
    split
    · exact ih rest
    · rename_i new
      cases l with
      | nil => exact Nat.le_refl 1
      | cons c l =>
        have : a = c := (h a List.mem_cons_self).trans (rest c List.mem_cons_self).symm
        exact absurd (by simp [this]) new

/-- A line whose wrong symbols lie in one burst is clean, or is corrected with nothing left wrong. -/
theorem decodePlain_of_one_burst (id : Nat) {fs : List (Nat × Nat × Byte)} {b : Nat} (h : ∀ f ∈ fs, symbolBurst f.1 f.2.1 = b) :
    wrongWords fs = [] ∧ decodePlain id fs = .clean ∨
      ∃ bursts, (wrongWords fs).length ≠ 0 ∧ decodePlain id fs = .decoded (wrongWords fs).length bursts [] false := by
  have one : ∀ x ∈ (wrongWords fs).flatMap fun w => w.2.map fun x => symbolBurst w.1 x.1, x = b := by
    intro x hx
    obtain ⟨w, hw, hx⟩ := List.mem_flatMap.mp hx
    obtain ⟨e, he, rfl⟩ := List.mem_map.mp hx
    obtain ⟨j, -, hj⟩ := List.mem_filterMap.mp hw
    split at hj
    · exact absurd hj (by simp)
    · obtain rfl := Option.some.inj hj
      obtain ⟨f, hf, rfl, i⟩ := exists_of_mem_wordErrors he
      rw [← h f hf, i]
  unfold decodePlain
  cases e : wrongWords fs with
  | nil => exact .inl ⟨rfl, rfl⟩
  | cons w ws =>
    rw [e] at one
    exact .inr ⟨_, by simp, (if_neg (by simp)).trans (if_pos (length_distinct_le_one one))⟩

theorem wrongSymbols_nil : wrongSymbols [] = [] := by
  simp [wrongSymbols]

theorem wrongWords_nil : wrongWords [] = [] := by
  decide +kernel

/-- Outside Vell-compatible mode a corrected line is written back with the bytes that are still wrong (R142). -/
theorem faultsOf_correct {s : State} (h : s.mem.ctrl.getLsbD 0 = false) (id : Nat) (name : LineName) (codewords : Nat)
    (bursts : List Nat) (wrong : List (Nat × Byte)) (scrub : Bool) :
    (correct id name codewords bursts wrong scrub s).faultsOf id = wrongSymbols wrong := by
  unfold correct
  extract_lets j u v
  have hv : v.mem.ctrl = s.mem.ctrl := rfl
  rw [hv, h, if_neg Bool.false_ne_true]
  exact tget_tset_self ..

/-- A line of a HEALTHY stack whose wrong symbols lie in one burst is read, and holds no wrong symbol afterwards. -/
theorem decodeLine_of_one_burst {id b : Nat} {s : State} (healthy : (s.stack (lineStack id)).health = .healthy)
    (mode : s.mem.ctrl.getLsbD 0 = false) (one : ∀ f ∈ s.faultsOf id, symbolBurst f.1 f.2.1 = b) (name : LineName) (scrub : Bool) :
    ∃ bytes x written t, decodeLine id name scrub s = (.ok bytes x written, t) ∧ wrongWords (t.faultsOf id) = [] := by
  have erased : (s.stack (lineStack id)).erased (lineNo id) = [] := by unfold Stack.erased; rw [healthy]
  unfold decodeLine
  simp only [erased, List.isEmpty_nil, if_true]
  rcases decodePlain_of_one_burst id one with ⟨clean, e⟩ | ⟨bursts, words, e⟩
  · rw [e]
    exact ⟨_, _, _, s, rfl, clean⟩
  · simp only [e, Bool.false_and, Bool.false_eq_true, if_false, if_neg words]
    refine ⟨_, _, _, _, rfl, ?_⟩
    rw [faultsOf_correct mode, wrongSymbols_nil, wrongWords_nil]

end Sys2Proof.Machine
end

section
/-! PROOFS. Memory maintenance that finds faults (R142, R144, R148, R149, R153): one lemma per clause. -/

namespace Sys2Proof.Machine

theorem lineStack_hbmLine {k n : Nat} (h : n < linesPerStack) : lineStack (hbmLine k n) = k := by
  unfold lineStack hbmLine linesPerStack at *
  omega

theorem lineNo_hbmLine {k n : Nat} (h : n < linesPerStack) : lineNo (hbmLine k n) = n := by
  unfold lineNo hbmLine linesPerStack at *
  omega

theorem lt_linesPerStack {n : Nat} (h : n < dataLines) : n < linesPerStack := Nat.lt_trans h (by decide)

theorem powered_of_clocked {s : State} (h : s.clocked = true) : s.powered = true := by
  unfold State.clocked at h
  unfold State.powered
  rw [eq_of_beq h]
  rfl

theorem unheld_eq {s : State} (h : s.mem.journalOver = false) : s.unheld = s := by
  unfold State.unheld; rw [← h]

/-- With no write held back there is none to release (R150). -/
theorem releaseHeld_of_none {s : State} (h : s.mem.heldWrites = []) : releaseHeld s = s := by
  unfold releaseHeld
  rw [h, List.foldl_nil, ← h]

/-! ### Scrubbing (R153) -/

/-- The state in which a scrub slot reads its line: the stack has moved on to its next line, and the interval last written is in
force. -/
def takeSlot (k : Nat) (s : State) : State :=
  modStack k (fun v => { v with scrubLine := ((s.stack k).scrubLine + 1) % linesPerStack, lastScrub := some s.tim.now })
    { s with mem := { s.mem with scrubNow := max 500 s.mem.scrubInterval } }

theorem takeSlot_stack (k : Nat) (s : State) : (takeSlot k s).stack k =
    { s.stack k with scrubLine := ((s.stack k).scrubLine + 1) % linesPerStack, lastScrub := some s.tim.now } :=
  stack_modStack_self ..

theorem scrub_of_slot {k : Nat} {s : State} (clocked : s.clocked = true) (stage : 4 ≤ s.ups.stage) (on : s.mem.ctrl.getLsbD 1 = true)
    (trained : (s.stack k).trained = true) (alive : (s.stack k).health ≠ .failed) (slot : s.scrubSlot k = true)
    (fresh : (s.stack k).lastScrub ≠ some s.tim.now) : scrub k s = scrubRead k (s.stack k).scrubLine (takeSlot k s) := by
  unfold scrub
  exact if_pos (by simp only [clocked, on, trained, slot, stage, alive, fresh, ne_eq, not_false_eq_true, decide_true, Bool.and_self])

theorem scrub_of_no_slot {k : Nat} {s : State}
    (h : s.mem.ctrl.getLsbD 1 = false ∨ s.scrubSlot k = false ∨ (s.stack k).lastScrub = some s.tim.now) : scrub k s = s := by
  unfold scrub
  refine if_neg ?_
  rcases h with h | h | h <;> simp only [h, ne_eq, not_true_eq_false, decide_false, Bool.and_false, Bool.false_and, Bool.false_eq_true,
    not_false_eq_true]

/-- The line that a scrub slot reads holds no wrong symbol afterwards, where those that it held lay in one burst. -/
theorem scrubRead_of_one_burst {k n b : Nat} {s : State} (data : n < dataLines) (healthy : (s.stack k).health = .healthy)
    (mode : s.mem.ctrl.getLsbD 0 = false) (one : ∀ f ∈ s.faultsOf (hbmLine k n), symbolBurst f.1 f.2.1 = b) :
    wrongWords ((scrubRead k n s).faultsOf (hbmLine k n)) = [] := by
  obtain ⟨bytes, x, written, t, e, clean⟩ := decodeLine_of_one_burst (s := count 2 k 10 1 s) (id := hbmLine k n)
    (by rw [lineStack_hbmLine (lt_linesPerStack data)]; exact healthy) mode one ((count 2 k 10 1 s).nameOf (hbmLine k n)) true
  unfold scrubRead
  simp only [if_pos data, e]
  exact clean

/-- A scrub slot reads one line and moves on, and writes back a line whose wrong symbols lie in one burst. -/
theorem exec_scrubSlot_of_slot {k : Fin 12} {s : State} (clocked : s.clocked = true) (stage : 4 ≤ s.ups.stage)
    (on : s.mem.ctrl.getLsbD 1 = true) (trained : (s.stack k).trained = true) (alive : (s.stack k).health ≠ .failed)
    (slot : s.scrubSlot k = true) (fresh : (s.stack k).lastScrub ≠ some s.tim.now) (free : s.lets (scrub k)) :
    ∃ t, exec (.scrubSlot k) s = .next t ∧ (t.stack k).scrubLine = ((s.stack k).scrubLine + 1) % linesPerStack ∧
      (t.stack k).lastScrub = some s.tim.now ∧ t.mem.scrubNow = max 500 s.mem.scrubInterval ∧ t.bytes = s.bytes ∧
      (∀ b, (s.stack k).scrubLine < dataLines → (s.stack k).health = .healthy → s.mem.ctrl.getLsbD 0 = false →
        (∀ f ∈ s.faultsOf (hbmLine k (s.stack k).scrubLine), symbolBurst f.1 f.2.1 = b) →
        wrongWords (t.faultsOf (hbmLine k (s.stack k).scrubLine)) = []) := by
  have e := scrub_of_slot clocked stage on trained alive slot fresh
  have keeps := keeps_scrubRead k (takeSlot k s) k (s.stack k).scrubLine
  refine ⟨scrub k s, congrArg Host.Outcome.next (unlessOver_lets free), ?_, ?_, ?_, scrub_bytes k s, ?_⟩
  · rw [e, keeps.scrubLine, takeSlot_stack]
  · rw [e, keeps.lastScrub, takeSlot_stack]
  · rw [e, keeps.scrubNow]
    rfl
  · intro b data healthy mode one
    rw [e]
    exact scrubRead_of_one_burst (s := takeSlot k s) data (by rw [takeSlot_stack]; exact healthy) mode one

theorem exec_scrubSlot_of_no_slot {k : Fin 12} {s : State}
    (h : s.mem.ctrl.getLsbD 1 = false ∨ s.scrubSlot k = false ∨ (s.stack k).lastScrub = some s.tim.now)
    (free : s.mem.journalOver = false) : exec (.scrubSlot k) s = .next s :=
  congrArg Host.Outcome.next (unlessOver_of _ s s (by rw [unheld_eq free, scrub_of_no_slot h]) free)

/-! ### Localisation (R144) -/

/-- One candidate degrades the stack and names its die; none or several leave the line in the poison list. -/
theorem exec_dieLocalisation {k : Fin 12} {n : Nat} {s : State} (clocked : s.clocked = true) (data : n < dataLines)
    (trained : (s.stack k).trained = true) (healthy : (s.stack k).health = .healthy) (sound : (s.stack k).poisoned n = false)
    (pattern : decodePlain (hbmLine k n) (s.faultsOf (hbmLine k n)) = .uncorrectable) :
    ∃ t, exec (.dieLocalisation k n) s = .next t ∧ t.bytes = s.bytes ∧
      match (List.range 8).filter fun die => (candidate (hbmLine k n) s die).isSome with
      | [die] => (t.stack k).health = .degraded ∧ (t.stack k).failedDie = some die ∧ t.mem.status.bits.getLsbD 1 = true
      | _ => (t.stack k).health ≠ .degraded ∧ (t.stack k).poisoned n = true := by
  have stack : lineStack (hbmLine k n) = k := lineStack_hbmLine (lt_linesPerStack data)
  have line : lineNo (hbmLine k n) = n := lineNo_hbmLine (lt_linesPerStack data)
  refine ⟨dieLocalisation k n s, rfl, dieLocalisation_bytes k n s, ?_⟩
  unfold dieLocalisation
  simp only [clocked, data, trained, healthy, sound, pattern, decide_true, beq_self_eq_true, Bool.not_false, Bool.and_self, if_true]
  split
  · rename_i die one
    obtain ⟨b, layer, e⟩ := localise_named (s.nameOf (hbmLine k n)) one
    rw [e, stack]
    refine ⟨by simp [failDie], by simp [failDie, Stack.enter], ?_⟩
    simp only [trace_mem, failDie, raiseMem_mem]
    exact Status.raise_bit _ (by decide)
  · rename_i several
    rw [localise_unnamed _ several, stack]
    generalize hu : setHealth k .healthy (setHealth k .localising s) = u
    have here : u.stack k = s.stack k := by
      rw [← hu, stack_setHealth_self, stack_setHealth_self]
      exact congrArg (fun h => { s.stack k with health := h }) healthy.symm
    have enter : uncorrectableLine (hbmLine k n) true u = enterPoison k [(n, n)] true u := by
      unfold uncorrectableLine
      rw [stack, line, here, sound, if_neg Bool.false_ne_true]
    obtain ⟨poison, health⟩ := stack_enterPoison k [(n, n)] true u
    have found : (reportFound (hbmLine k n) (uncorrectableLine (hbmLine k n) true u)).stack k = (enterPoison k [(n, n)] true u).stack k := by
      rw [enter]
      exact (trace_stack ..).trans (raiseMem_stack ..)
    simp only [found]
    constructor
    · rcases health with h | h <;> simp [h, here, healthy]
    · simp [Stack.poisoned, poison]

/-! ### Interface loss (R148) -/

theorem exec_stackInterfaceLoss {k : Fin 12} {s : State} (clocked : s.clocked = true) (stage : 4 ≤ s.ups.stage)
    (alive : (s.stack k).health ≠ .failed) (free : s.mem.heldWrites = []) :
    ∃ t, exec (.stackInterfaceLoss k) s = .next t ∧ (t.stack k).health = .failed ∧ (t.stack k).offline = none ∧
      t.mem.status.bits.getLsbD 2 = true ∧ t.bytes = s.bytes := by
  have books := books_advanceScans (setHealth k .failed s)
  have held : (advanceScans (setHealth k .failed s)).mem.heldWrites = [] := by
    rw [books.mem]; exact (setHealth_heldWrites ..).trans free
  refine ⟨advanceScans (setHealth k .failed s), ?_, ?_, ?_, ?_, by simp⟩
  · refine congrArg Host.Outcome.next ?_
    rw [releaseHeld_of_none held]
    exact if_pos (by simp [powered_of_clocked clocked, stage, alive])
  · rw [books.stack]; simp
  · rw [books.stack]; simp [Stack.enter]
  · rw [books.mem]
    simp only [setHealth_status, if_true]
    exact Status.raise_bit _ (by decide)

/-! ### Evaluations (R149) -/

/-- The state in which a channel's evaluation compares its corrected bursts: their count starts anew. -/
def startEvaluation (k c : Nat) (s : State) : State :=
  modStack k (fun v => { v with evaluated := tset 0 v.evaluated c s.tim.now, burstCe := terase v.burstCe c }) s

theorem retrainEvaluation_due {k c : Nat} {s : State} (clocked : s.clocked = true) (stage : 4 ≤ s.ups.stage)
    (due : tget 0 (s.stack k).evaluated c + 1000000000 ≤ s.tim.now) :
    retrainEvaluation k c s =
      if s.mem.ctrl.getLsbD 2 && decide ((s.stack k).health ≠ .degraded) && decide ((s.stack k).health ≠ .failed) &&
          decide (max 1 s.mem.retrainThresh < tget 0 (s.stack k).burstCe c) then bookWindow k c (startEvaluation k c s)
      else startEvaluation k c s :=
  if_pos (by simp [clocked, stage, due])

/-- An evaluation starts the channel's count anew, and books a window where the count exceeded the threshold. -/
theorem exec_retrainEvaluation_due {k : Fin 12} {c : Fin 16} {s : State} (clocked : s.clocked = true) (stage : 4 ≤ s.ups.stage)
    (due : tget 0 (s.stack k).evaluated c + 1000000000 ≤ s.tim.now) :
    ∃ t, exec (.retrainEvaluation k c) s = .next t ∧ tget 0 (t.stack k).evaluated c = s.tim.now ∧
      tget 0 (t.stack k).burstCe c = 0 ∧ t.bytes = s.bytes ∧
      (s.mem.ctrl.getLsbD 2 = true → (s.stack k).health ≠ .degraded → (s.stack k).health ≠ .failed →
        max 1 s.mem.retrainThresh < tget 0 (s.stack k).burstCe c → t.windowBooked k c = true) ∧
      (s.mem.ctrl.getLsbD 2 = false ∨ tget 0 (s.stack k).burstCe c ≤ max 1 s.mem.retrainThresh → t.sched = s.sched) := by
  have e := retrainEvaluation_due (c := c) clocked stage due
  have books : Books (startEvaluation k c s) (retrainEvaluation k c s) := by
    rw [e]
    split
    · exact books_bookWindow ..
    · exact .of_mem rfl
  have started : (startEvaluation k c s).stack k = { s.stack k with
      evaluated := tset 0 (s.stack k).evaluated c s.tim.now, burstCe := terase (s.stack k).burstCe c } := stack_modStack_self ..
  refine ⟨retrainEvaluation k c s, rfl, ?_, ?_, retrainEvaluation_bytes .., fun on degraded failed above => ?_, fun h => ?_⟩
  · rw [books.stack, started]
    exact tget_tset_self ..
  · rw [books.stack, started]
    unfold tget
    rw [tfind_terase_self]
    rfl
  · rw [e, if_pos (by simp only [on, degraded, failed, above, ne_eq, not_false_eq_true, decide_true, Bool.and_self])]
    exact windowBooked_bookWindow k.isLt c.isLt _
  · rw [e, if_neg]
    · rfl
    · rcases h with h | h
      · simp only [h, Bool.false_and, Bool.false_eq_true, not_false_eq_true]
      · simp only [Nat.not_lt.mpr h, decide_false, Bool.and_false, Bool.false_eq_true, not_false_eq_true]

theorem exec_retrainEvaluation_early {k : Fin 12} {c : Fin 16} {s : State}
    (early : s.tim.now < tget 0 (s.stack k).evaluated c + 1000000000) : exec (.retrainEvaluation k c) s = .next s := by
  refine congrArg Host.Outcome.next (if_neg ?_)
  simp only [Nat.not_le.mpr early, decide_false, Bool.and_false, Bool.false_eq_true, not_false_eq_true]

/-- Settles O47: a lemma per clause. What reading lines keeps is `PatrolKeeps`, a line wrong in one burst is
`decodeLine_of_one_burst`, and the die that localisation names is `localise_named`. -/
theorem memoryIsPatrolled : Obligations.MemoryIsPatrolled :=
  fun _ _ _ _ clocked stage =>
    ⟨fun on trained alive slot fresh free => exec_scrubSlot_of_slot clocked stage on trained alive slot fresh free,
      exec_scrubSlot_of_no_slot,
      fun data trained healthy sound pattern => exec_dieLocalisation clocked data trained healthy sound pattern,
      fun alive free => exec_stackInterfaceLoss clocked stage alive free,
      exec_retrainEvaluation_due clocked stage,
      exec_retrainEvaluation_early⟩

end Sys2Proof.Machine
end

section
/-! PROOFS. Retrain windows from their start to the rebuilt stack (R149 to R152): one lemma per clause. -/

namespace Sys2Proof.Machine

/-! ### The start of a window (R149) -/

theorem exec_retrainWindow_starts {k : Fin 12} {c : Fin 16} {s : State} (clocked : s.clocked = true)
    (booked : (s.stack k).booked.contains c.val = true) (free : s.noneOffline = true) (healthy : (s.stack k).health = .healthy)
    (trained : (s.stack k).trained = true) :
    ∃ t, exec (.retrainWindow k c) s = .next t ∧ (t.stack k).offline = some c.val ∧ (t.stack k).offlineAt = s.tim.now ∧
      (t.stack k).health = .retraining ∧ t.bytes = s.bytes := by
  have books := books_advanceScans (startWindow k c s)
  have start : startWindow k c s = setHealth k .retraining (modStack k (fun v =>
      { v with offline := some c.val, offlineAt := s.tim.now, booked := v.booked.filter (· ≠ c.val) }) s) :=
    if_pos (by simp [free, healthy, trained])
  refine ⟨advanceScans (startWindow k c s), congrArg Host.Outcome.next (if_pos ?_), ?_, ?_, ?_, by simp⟩
  · rw [clocked, booked]; rfl
  all_goals rw [books.stack, start]; simp [Stack.enter]

/-- A window that is booked waits while a channel is offline. -/
theorem exec_retrainWindow_waits {k : Fin 12} {c : Fin 16} {s : State} (booked : (s.stack k).booked.contains c.val = true)
    (busy : s.noneOffline = false) (quiet : s.flight = []) : exec (.retrainWindow k c) s = .next s := by
  have stays : startWindow k c s = s := by
    unfold startWindow
    rw [busy, booked]
    rfl
  have scans : advanceScans s = s := by
    unfold advanceScans
    rw [quiet]
    rfl
  refine congrArg Host.Outcome.next ?_
  rw [stays, scans, ite_self]

/-! ### The channel's return (R151) -/

theorem sat_eq_min (max n : Nat) : sat max n = min max n := by
  unfold sat; split <;> omega

@[simp] theorem record_flight (typ : Nat) (payload : List Byte) (s : State) : (record typ payload s).flight = s.flight := rfl

/-- A scan that no command runs has no records to write. -/
theorem scanChannel_of_quiet {s : State} (h : s.flight = []) (k c : Nat) (lo hi : Margin) (ppr : Bool) (time : Nat) :
    scanChannel k c lo hi ppr time s = s := by
  unfold scanChannel State.scanOf
  rw [h]
  rfl

/-- The state that a returned channel's scan and the held writes go on from: the repair is counted and the rebuild is under way. -/
theorem channelReturn_eq {k c : Nat} {r : Option Repair} {lo hi : Margin} {s : State} (clocked : s.clocked = true)
    (offline : (s.stack k).offline = some c) (health : (s.stack k).health = .retraining)
    (inTime : s.tim.now ≤ (s.stack k).offlineAt + 50000000) :
    ∃ u, channelReturn k r lo hi s = releaseHeld (scanChannel k c lo hi r.isSome (s.stack k).offlineAt u) ∧
      u.flight = s.flight ∧ u.mem.heldWrites = s.mem.heldWrites ∧ u.bytes = s.bytes ∧
      u.stack k = { s.stack k with offline := none, rebuilding := some c,
                                   pprUsed := if r.isSome then min 255 ((s.stack k).pprUsed + 1) else (s.stack k).pprUsed } := by
  have goes : ¬((!s.clocked || decide ((s.stack k).health ≠ .retraining) || decide ((s.stack k).offlineAt + 50000000 < s.tim.now)) = true) := by
    simp [clocked, health, inTime]
  unfold channelReturn
  simp only [offline]
  refine ⟨_, if_neg goes, ?_⟩
  cases r with
  | none => simp [modStack, stack_setStack]
  | some r => simp [modStack, stack_setStack, sat_eq_min]

theorem exec_channelReturn {k : Fin 12} {c : Nat} {r : Option Repair} {lo hi : Margin} {s : State} (clocked : s.clocked = true)
    (offline : (s.stack k).offline = some c) (health : (s.stack k).health = .retraining)
    (inTime : s.tim.now ≤ (s.stack k).offlineAt + 50000000) (quiet : s.flight = []) (free : s.mem.heldWrites = []) :
    ∃ t, exec (.channelReturn k r lo hi) s = .next t ∧ (t.stack k).offline = none ∧ (t.stack k).rebuilding = some c ∧
      (t.stack k).health = .retraining ∧ (t.stack k).journal = (s.stack k).journal ∧
      (t.stack k).pprUsed = (if r.isSome then min 255 ((s.stack k).pprUsed + 1) else (s.stack k).pprUsed) ∧ t.bytes = s.bytes := by
  obtain ⟨u, e, flight, held, bytes, stack⟩ := channelReturn_eq (r := r) (lo := lo) (hi := hi) clocked offline health inTime
  refine ⟨u, congrArg Host.Outcome.next ?_, ?_, ?_, ?_, ?_, ?_, bytes⟩
  · rw [e, scanChannel_of_quiet (flight.trans quiet), releaseHeld_of_none (held.trans free)]
  · rw [stack]
  · rw [stack]
  · rw [stack, health]
  · rw [stack]
  · rw [stack]

/-! ### A channel that does not return (R151) -/

theorem stack_failChannel (k c : Nat) (s : State) : (failChannel k c s).stack k =
    { s.stack k with health := .degraded, failedChan := some c, offline := none, rebuilding := none, journal := [], booked := [] } := by
  simp [failChannel, Stack.enter]

theorem failChannel_heldWrites (k c : Nat) (s : State) : (failChannel k c s).mem.heldWrites = s.mem.heldWrites :=
  setHealth_heldWrites ..

theorem exec_channelOfflineLimit {k : Fin 12} {c : Nat} {s : State} (clocked : s.clocked = true)
    (offline : (s.stack k).offline = some c) (late : (s.stack k).offlineAt + 50000000 ≤ s.tim.now) (free : s.mem.heldWrites = []) :
    ∃ t, exec (.channelOfflineLimit k) s = .next t ∧ (t.stack k).health = .degraded ∧ (t.stack k).failedChan = some c ∧
      (t.stack k).offline = none ∧ (t.stack k).journal = [] ∧ t.bytes = s.bytes := by
  obtain ⟨u, e, mem, bytes⟩ : ∃ u, channelLimit k s = releaseHeld (advanceScans (failChannel k c u)) ∧ u.mem = s.mem ∧ u.bytes = s.bytes := by
    unfold channelLimit
    simp only [offline]
    exact ⟨_, if_pos (by simp [clocked, late]), record_mem .., record_bytes ..⟩
  have books := books_advanceScans (failChannel k c u)
  have held : (advanceScans (failChannel k c u)).mem.heldWrites = [] := by
    rw [books.mem]
    exact (failChannel_heldWrites k c u).trans (by rw [mem, free])
  rw [releaseHeld_of_none held] at e
  refine ⟨_, congrArg Host.Outcome.next e, ?_, ?_, ?_, ?_, by simp [bytes]⟩
  all_goals rw [books.stack, stack_failChannel]

/-! ### The end of the rebuild (R152) -/

theorem exec_rebuildComplete {k : Fin 12} {c : Nat} {s : State} (clocked : s.clocked = true)
    (rebuilding : (s.stack k).rebuilding = some c) (health : (s.stack k).health = .retraining)
    (returned : (s.stack k).offline = none) : ∃ t, exec (.rebuildComplete k) s = .next t ∧ t.bytes = s.bytes ∧
      ((t.stack k).health = .healthy ∧ (t.stack k).rebuilding = none ∧ (t.stack k).journal = [] ∨ (t.stack k).health = .failed) := by
  refine ⟨rebuild k s, rfl, rebuild_bytes k s, ?_⟩
  unfold rebuild
  simp only [rebuilding, clocked, health, returned, Bool.not_true, Option.isSome_none, ne_eq, not_true_eq_false, decide_false,
    Bool.or_false, Bool.false_eq_true, if_false]
  generalize hu : count 2 k 13 _ _ = u
  have ended : (u.stack k).underRebuild := by
    have keeps : PatrolKeeps k s u := by
      rw [← hu]
      refine .trans (.of_mem (meetHandle_mem useJournal s)) (.trans (.of_foldl (fun t g => .of_foldl (fun t n => ?_) _ _) _ _) (.of_mem rfl))
      exact keeps_rebuildLine ..
    exact keeps.rebuild (.inl health)
  rcases ended with h | h
  · rw [h]
    simp [Stack.enter]
  · rw [h]
    exact .inr h

/-- Settles O48: a lemma per clause. What advancing the scans changes of a stack is `Books`, and that a rebuild ends with its stack
RETRAINING or FAILED is `PatrolKeeps`. -/
theorem retrainWindowsRun : Obligations.RetrainWindowsRun :=
  fun _ _ _ _ _ _ clocked =>
    ⟨exec_retrainWindow_starts clocked, exec_retrainWindow_waits,
      fun offline health inTime ⟨quiet, free⟩ => exec_channelReturn clocked offline health inTime quiet free,
      exec_channelOfflineLimit clocked,
      exec_rebuildComplete clocked⟩

end Sys2Proof.Machine
end

section
/-! SUPPORT. LNK_'s registers and ports (R345, R352): what an event, a frame and a port that leaves service change of them. -/

namespace Sys2Proof.Machine

/-- Whether and how wide a port runs: its state and its lanes (R345). -/
def Port.service (v : Port) : PortState × BitVec 8 := (v.state, v.lanes)

/-- What LNK_CTRL and the ports' states read: traffic that moves between ports leaves it as it is. -/
structure LinkKeeps (s t : State) : Prop where
  service : ∀ p, (t.port p).service = (s.port p).service
  status : t.lnk.status = s.lnk.status
  portEn : t.lnk.portEn = s.lnk.portEn
  ptpNext : t.lnk.ptpNext = s.lnk.ptpNext
  ptpDomain : t.lnk.ptpDomain = s.lnk.ptpDomain

namespace LinkKeeps
variable {s t u : State}

protected theorem refl (s : State) : LinkKeeps s s := ⟨fun _ => rfl, rfl, rfl, rfl, rfl⟩

protected theorem trans (h : LinkKeeps s t) (g : LinkKeeps t u) : LinkKeeps s u :=
  ⟨fun p => (g.service p).trans (h.service p), g.status.trans h.status, g.portEn.trans h.portEn, g.ptpNext.trans h.ptpNext,
    g.ptpDomain.trans h.ptpDomain⟩

theorem of_foldl {α : Type} {f : State → α → State} (h : ∀ s a, LinkKeeps s (f s a)) (l : List α) (s : State) :
    LinkKeeps s (l.foldl f s) := by
  induction l generalizing s with
  | nil => exact .refl s
  | cons a l ih => exact (h s a).trans (ih _)

theorem setConn (s : State) (c : Conn) : LinkKeeps s (s.setConn c) := ⟨fun _ => rfl, rfl, rfl, rfl, rfl⟩
theorem count (a b c n : Nat) (s : State) : LinkKeeps s (count a b c n s) := ⟨fun _ => rfl, rfl, rfl, rfl, rfl⟩
theorem sendTx (port : Nat) (mac : BitVec 48) (f : TxFrame) (s : State) : LinkKeeps s (sendTx port mac f s) :=
  ⟨fun _ => rfl, rfl, rfl, rfl, rfl⟩
theorem dropFrames (cmd : Nat) (s : State) : LinkKeeps s (dropFrames cmd s) := ⟨fun _ => rfl, rfl, rfl, rfl, rfl⟩
theorem doneWith (c : InFlight) (f : Option Fail) (s : State) : LinkKeeps s (doneWith c f s) := ⟨fun _ => rfl, rfl, rfl, rfl, rfl⟩

/-- Only a port's role in the time protocol changes. -/
theorem setPort {p : Nat} {v : Port} (h : v.service = (s.port p).service) : LinkKeeps s (s.setPort p v) := by
  refine ⟨fun r => ?_, rfl, rfl, rfl, rfl⟩
  by_cases e : r = p
  · rw [e, port_setPort, h]
  · rw [port_setPort_ne _ _ e]

theorem signalVector (v : Nat) (s : State) : LinkKeeps s (signalVector v s) := by
  unfold Machine.signalVector sendMessage
  split
  · exact ⟨fun _ => rfl, rfl, rfl, rfl, rfl⟩
  · split <;> exact ⟨fun _ => rfl, rfl, rfl, rfl, rfl⟩

theorem pumpConn (port : Nat) (mac : BitVec 48) (n : Nat) (s : State) : LinkKeeps s (pumpConn port mac n s) := by
  induction n generalizing s with
  | zero => exact .refl s
  | succ n ih =>
    unfold Machine.pumpConn
    dsimp only
    split
    · split
      · exact ((setConn s _).trans (sendTx ..)).trans (ih _)
      · exact .refl s
    · exact .refl s

theorem reroute (p q : Nat) (c : Conn) (s : State) : LinkKeeps s (reroute p q c s) := by
  unfold Machine.reroute
  exact (((setConn s _).trans (setConn ..)).trans (count ..)).trans (pumpConn ..)

theorem loseFrames (p : Nat) (c : Conn) (s : State) : LinkKeeps s (loseFrames p c s) := by
  unfold Machine.loseFrames
  refine (setConn s _).trans (of_foldl (fun u id => (dropFrames id u).trans ?_) _ _)
  dsimp only
  split
  · exact doneWith ..
  · exact .refl _

theorem moveTraffic (p : Nat) (s : State) : LinkKeeps s (moveTraffic p s) := by
  unfold Machine.moveTraffic
  refine of_foldl (fun u c => ?_) _ s
  split
  · exact reroute ..
  · exact loseFrames ..

theorem moveSlave (p : Nat) (s : State) : LinkKeeps s (moveSlave p s) := by
  unfold Machine.moveSlave
  split
  · exact .refl s
  · have h : LinkKeeps s (s.setPort p { s.port p with ptp := 3 }) := setPort rfl
    dsimp only
    split
    · exact h.trans (setPort rfl)
    · exact h

end LinkKeeps

/-! ### A port leaves service, or trains -/

theorem Port.into_service (v : Port) (st : PortState) (now : Nat) : (v.into st now).service = (st, v.lanes) := by
  unfold Port.into
  split <;> rfl

/-- A port that is lost has its new state and keeps its lanes; no other port changes, and PORT_DOWN is set. -/
theorem portLost_link (p : Nat) (st : PortState) (s : State) :
    (∀ r, ((portLost p st s).port r).service = if r = p then (st, (s.port p).lanes) else (s.port r).service) ∧
    (portLost p st s).lnk.status = s.lnk.status.raise 0 ∧ (portLost p st s).lnk.portEn = s.lnk.portEn ∧
    (portLost p st s).lnk.ptpNext = s.lnk.ptpNext ∧ (portLost p st s).lnk.ptpDomain = s.lnk.ptpDomain := by
  unfold portLost raiseLnk
  extract_lets u
  obtain ⟨service, status, portEn, ptpNext, ptpDomain⟩ :=
    (LinkKeeps.signalVector 64 { count 3 p 11 1 u with lnk := { u.lnk with status := u.lnk.status.raise 0 } }).trans
      ((LinkKeeps.moveTraffic p _).trans (LinkKeeps.moveSlave p _))
  refine ⟨fun r => (service r).trans ?_, status, portEn, ptpNext, ptpDomain⟩
  have port : ({ count 3 p 11 1 u with lnk := { u.lnk with status := u.lnk.status.raise 0 } } : State).port r = u.port r := rfl
  rw [port]
  split
  · rename_i e
    rw [e, port_setPort, Port.into_service]
  · rename_i e
    rw [port_setPort_ne _ _ e]

end Sys2Proof.Machine
end

section
/-! PROOFS. Writes with rows of their own (R143, R188, R317, R352): one lemma per register, and LNK_CTRL's as a fold over the ports. -/

namespace Sys2Proof.Machine

/-- A write to a register whose block responds goes to its block. -/
theorem writeWord_of_responds {off : Nat} {w : Word} {s : State} (h : s.responds off = true) : writeWord off w s = rawWrite off w s :=
  if_pos h

theorem exec_queTokenClear {w : Word} {s : State} (h : s.responds 0x00011004 = true) :
    exec (.queTokenClear w) s = .next (if w.getLsbD 0 then { s with que := { s.que with tokens := [] } } else s) :=
  congrArg Host.Outcome.next (writeWord_of_responds h)

theorem exec_plcDescSelWrite {w : Word} {s : State} (h : s.responds 0x00200100 = true) :
    exec (.plcDescSelWrite w) s =
      .next { s with plc := { s.plc with descSel := w.toNat % 65536, descData := s.descBytes (w.toNat % 65536) true } } :=
  congrArg Host.Outcome.next (writeWord_of_responds h)

theorem exec_cntPeekSelWrite {w : Word} {s : State} (h : s.responds 0x00700020 = true) :
    exec (.cntPeekSelWrite w) s = .next { s with cnt := { s.cnt with peekSel := w, peek := s.counterValue w.toNat } } :=
  congrArg Host.Outcome.next (writeWord_of_responds h)

theorem exec_ceLogClear {w : Word} {s : State} (h : s.responds 0x00300018 = true) :
    exec (.ceLogClear w) s = .next (if w.getLsbD 31 then { s with mem := { s.mem with ceTable := [] } } else s) :=
  congrArg Host.Outcome.next (writeWord_of_responds h)

theorem exec_lnkCtrlWrite {w : Word} {s : State} (h : s.responds 0x00400000 = true) :
    exec (.lnkCtrlWrite w) s = .next (writeLnkCtrl w s) :=
  congrArg Host.Outcome.next (writeWord_of_responds h)

/-! ### LNK_CTRL (R352) -/

/-- What a write of PORT_EN, from `old` to `en`, does to port `p`. -/
def switchPort (old en : BitVec 12) (s : State) (p : Nat) : State :=
  if old.getLsbD p && !en.getLsbD p then portLost p .disabled s
  else if !old.getLsbD p && en.getLsbD p then s.setPort p { (s.port p).into .training s.tim.now with lanes := 0 }
  else s

/-- How a port runs after it. -/
def Port.switched (old en : BitVec 12) (p : Nat) (v : Port) : PortState × BitVec 8 :=
  if old.getLsbD p && !en.getLsbD p then (.disabled, v.lanes)
  else if !old.getLsbD p && en.getLsbD p then (.training, 0)
  else v.service

/-- LNK_CTRL with its new fields, before any port is switched: PTP_DOMAIN waits. -/
def writeLnkFields (w : Word) (s : State) : State :=
  { s with lnk := { s.lnk with portEn := BitVec.ofNat 12 w.toNat, ptpNext := some (min 127 (bits w.toNat 23 16)) } }

theorem writeLnkCtrl_eq (w : Word) (s : State) :
    writeLnkCtrl w s = (List.range 12).foldl (switchPort s.lnk.portEn (BitVec.ofNat 12 w.toNat)) (writeLnkFields w s) := rfl

section
variable (old en : BitVec 12)

theorem switchPort_same {old en : BitVec 12} {p : Nat} (h : old.getLsbD p = en.getLsbD p) (s : State) : switchPort old en s p = s := by
  unfold switchPort
  rw [h]
  cases en.getLsbD p <;> rfl

theorem switchPort_service (s : State) (p r : Nat) :
    ((switchPort old en s p).port r).service = if r = p then (s.port p).switched old en p else (s.port r).service := by
  unfold switchPort Port.switched
  split
  · exact (portLost_link p .disabled s).1 r
  · split
    · by_cases e : r = p
      · subst e
        rw [port_setPort, if_pos rfl]
        exact congrArg (fun x => (x.1, (0 : BitVec 8))) (Port.into_service (s.port r) .training s.tim.now)
      · rw [port_setPort_ne _ _ e, if_neg e]
    · split
      · rename_i e
        rw [e]
      · rfl

/-- Switching a port leaves LNK_CTRL's fields, sets PORT_DOWN where it takes the port down, and clears no status. -/
theorem switchPort_fields (s : State) (p : Nat) :
    (switchPort old en s p).lnk.portEn = s.lnk.portEn ∧ (switchPort old en s p).lnk.ptpNext = s.lnk.ptpNext ∧
    (switchPort old en s p).lnk.ptpDomain = s.lnk.ptpDomain ∧
    (s.lnk.status.bits.getLsbD 0 = true ∨ old.getLsbD p = true ∧ en.getLsbD p = false →
      (switchPort old en s p).lnk.status.bits.getLsbD 0 = true) := by
  unfold switchPort
  split
  · obtain ⟨-, status, portEn, ptpNext, ptpDomain⟩ := portLost_link p .disabled s
    exact ⟨portEn, ptpNext, ptpDomain, fun _ => by rw [status]; exact Status.raise_bit _ (by decide)⟩
  · rename_i stays
    have down : ¬(old.getLsbD p = true ∧ en.getLsbD p = false) := by simpa using stays
    split
    · exact ⟨rfl, rfl, rfl, fun h => h.resolve_right down⟩
    · exact ⟨rfl, rfl, rfl, fun h => h.resolve_right down⟩

theorem switchPorts_service {l : List Nat} (nodup : l.Nodup) (s : State) (r : Nat) :
    ((l.foldl (switchPort old en) s).port r).service = if r ∈ l then (s.port r).switched old en r else (s.port r).service := by
  induction l generalizing s with
  | nil => rfl
  | cons p l ih =>
    obtain ⟨fresh, nodup⟩ := List.nodup_cons.mp nodup
    rw [List.foldl_cons, ih nodup]
    by_cases e : r = p
    · subst e
      rw [if_neg fresh, switchPort_service, if_pos rfl, if_pos List.mem_cons_self]
    · have same : ((switchPort old en s p).port r).service = (s.port r).service := by rw [switchPort_service, if_neg e]
      obtain ⟨state, lanes⟩ := Prod.mk.inj same
      have switched : ((switchPort old en s p).port r).switched old en r = (s.port r).switched old en r := by
        unfold Port.switched
        rw [same, lanes]
      simp only [List.mem_cons, e, false_or, same, switched]

theorem switchPorts_fields (l : List Nat) (s : State) :
    let t := l.foldl (switchPort old en) s
    t.lnk.portEn = s.lnk.portEn ∧ t.lnk.ptpNext = s.lnk.ptpNext ∧ t.lnk.ptpDomain = s.lnk.ptpDomain ∧
    (s.lnk.status.bits.getLsbD 0 = true ∨ (∃ p ∈ l, old.getLsbD p = true ∧ en.getLsbD p = false) →
      t.lnk.status.bits.getLsbD 0 = true) := by
  induction l generalizing s with
  | nil => exact ⟨rfl, rfl, rfl, fun h => h.resolve_right (by simp)⟩
  | cons p l ih =>
    obtain ⟨en1, next1, domain1, down1⟩ := switchPort_fields old en s p
    obtain ⟨en2, next2, domain2, down2⟩ := ih (switchPort old en s p)
    refine ⟨en2.trans en1, next2.trans next1, domain2.trans domain1, fun h => down2 ?_⟩
    rcases h with h | ⟨r, mem, off⟩
    · exact .inl (down1 (.inl h))
    · rcases List.mem_cons.mp mem with e | mem
      · exact .inl (down1 (.inr (e ▸ off)))
      · exact .inr ⟨r, mem, off⟩

end

theorem getLsbD_ofNat_twelve {p : Nat} (h : p < 12) (n : Nat) : (BitVec.ofNat 12 n).getLsbD p = bit n p := by
  rw [BitVec.getLsbD_ofNat, Nat.testBit_eq_decide_div_mod_eq]
  simp only [h, decide_true, Bool.true_and]
  rfl

/-- PORT_EN takes a cleared port down and has a set one train; the others stay as they are. -/
theorem exec_lnkCtrlWrite_ports {w : Word} {s : State} (h : s.responds 0x00400000 = true) :
    ∃ t, exec (.lnkCtrlWrite w) s = .next t ∧ t.lnk.portEn = BitVec.ofNat 12 w.toNat ∧
      t.lnk.ptpNext = some (min 127 (w.toNat / 2 ^ 16 % 256)) ∧ t.lnk.ptpDomain = s.lnk.ptpDomain ∧
      ∀ p, p < 12 →
        (s.lnk.portEn.getLsbD p = true → bit w.toNat p = false →
          (t.port p).state = .disabled ∧ t.lnk.status.bits.getLsbD 0 = true) ∧
        (s.lnk.portEn.getLsbD p = false → bit w.toNat p = true → (t.port p).state = .training ∧ (t.port p).lanes = 0) ∧
        (s.lnk.portEn.getLsbD p = bit w.toNat p → (t.port p).state = (s.port p).state ∧ (t.port p).lanes = (s.port p).lanes) := by
  obtain ⟨portEn, ptpNext, ptpDomain, down⟩ :=
    switchPorts_fields s.lnk.portEn (BitVec.ofNat 12 w.toNat) (List.range 12) (writeLnkFields w s)
  refine ⟨_, exec_lnkCtrlWrite h, portEn, ptpNext, ptpDomain, fun p lt => ?_⟩
  have mem : p ∈ List.range 12 := List.mem_range.mpr lt
  have service := switchPorts_service (l := List.range 12) s.lnk.portEn (BitVec.ofNat 12 w.toNat) List.nodup_range (writeLnkFields w s) p
  rw [if_pos mem, ← writeLnkCtrl_eq] at service
  unfold Port.switched at service
  have new := getLsbD_ofNat_twelve lt w.toNat
  rw [new] at service
  refine ⟨fun on off => ⟨?_, down (.inr ⟨p, mem, on, new.trans off⟩)⟩, fun off on => ?_, fun same => ?_⟩
  · rw [on, off] at service
    exact (Prod.mk.inj service).1
  · rw [on, off] at service
    exact Prod.mk.inj service
  · rw [same] at service
    cases e : bit w.toNat p <;> rw [e] at service <;> exact Prod.mk.inj service

/-- A write that leaves PORT_EN as it is switches no port. -/
theorem exec_lnkCtrlWrite_same {w : Word} {s : State} (h : s.responds 0x00400000 = true)
    (same : BitVec.ofNat 12 w.toNat = s.lnk.portEn) :
    exec (.lnkCtrlWrite w) s = .next { s with lnk := { s.lnk with ptpNext := some (min 127 (w.toNat / 2 ^ 16 % 256)) } } := by
  have still : ∀ (l : List Nat) (t : State), l.foldl (switchPort s.lnk.portEn s.lnk.portEn) t = t := by
    intro l t
    induction l generalizing t with
    | nil => rfl
    | cons p l ih => rw [List.foldl_cons, switchPort_same rfl, ih]
  rw [exec_lnkCtrlWrite h, writeLnkCtrl_eq, same, still]
  unfold writeLnkFields
  rw [same]
  rfl

/-- Settles O12: a lemma per register. LNK_CTRL's write is `switchPort` over the twelve ports, and what traffic that moves between
them leaves alone is `LinkKeeps`. -/
theorem selectWritesSnapshot : Obligations.SelectWritesSnapshot :=
  fun _ _ =>
    ⟨exec_queTokenClear, exec_plcDescSelWrite, exec_cntPeekSelWrite, exec_ceLogClear,
      fun responds => ⟨exec_lnkCtrlWrite_ports responds, exec_lnkCtrlWrite_same responds⟩⟩

end Sys2Proof.Machine
end

section
/-! SUPPORT. What the placer holds but for its running counts of traffic and PLC_STATUS, and which operations leave it alone: interrupts, the
trace, the ledger, the memory's reads and writes, and a command's completion. -/

namespace Sys2Proof.Machine

/-- The placer without its running counts of traffic (R174) and PLC_STATUS. -/
def Plc.still (p : Plc) : Plc := { p with running := [], status := {} }

/-- The same of a state. -/
def State.placer (s : State) : Plc := s.plc.still

section
variable {s t : State}

theorem map_of_placer (h : t.placer = s.placer) : t.plc.map = s.plc.map := (congrArg Plc.map h :)
theorem current_of_placer (h : t.placer = s.placer) : t.plc.current = s.plc.current := (congrArg Plc.current h :)
theorem taken_of_placer (h : t.placer = s.placer) : t.plc.taken = s.plc.taken := (congrArg Plc.taken h :)
theorem epoch_of_placer (h : t.placer = s.placer) : t.plc.epoch = s.plc.epoch := (congrArg Plc.epoch h :)

/-- A pair's state, named by the match that takes the pair apart. -/
theorem placer_of_snd {α : Type} {r : α × State} {a : α} (h : r.2.placer = s.placer) (e : r = (a, t)) : t.placer = s.placer := by
  rw [e] at h
  exact h

@[simp] theorem placer_ite (c : Prop) [Decidable c] (a b : State) : (if c then a else b).placer = if c then a.placer else b.placer := by
  split <;> rfl

theorem ite_placer {c : Prop} [Decidable c] {a b : State} {p : Plc} (h : a.placer = p) (g : b.placer = p) :
    (if c then a else b).placer = p := by
  split <;> assumption

theorem placer_ite_snd {α : Type} {c : Prop} [Decidable c] {x y : α × State} (h : x.2.placer = s.placer) (g : y.2.placer = s.placer) :
    (if c then x else y).2.placer = s.placer := by
  split <;> assumption

theorem foldl_placer {α : Type} {f : State → α → State} (h : ∀ s a, (f s a).placer = s.placer) (l : List α) (s : State) :
    (l.foldl f s).placer = s.placer := by
  induction l generalizing s with
  | nil => rfl
  | cons a l ih => rw [List.foldl_cons, ih, h]

end

/-! ### Interrupts, the trace, the ledger, counters -/

section
variable (s : State)

@[simp] theorem sendMessage_placer (v : Nat) : (sendMessage v s).placer = s.placer := by
  unfold sendMessage; split <;> rfl
@[simp] theorem signalVector_placer (v : Nat) : (signalVector v s).placer = s.placer := by
  unfold signalVector; split
  · rfl
  · exact sendMessage_placer ..
@[simp] theorem raiseMem_placer (b : Nat) : (raiseMem b s).placer = s.placer := signalVector_placer ..
@[simp] theorem raisePlc_placer (b : Nat) : (raisePlc b s).placer = s.placer := signalVector_placer ..
@[simp] theorem raiseLnk_placer (b : Nat) : (raiseLnk b s).placer = s.placer := signalVector_placer ..
@[simp] theorem raiseQue_placer (q b : Nat) : (raiseQue q b s).placer = s.placer := signalVector_placer ..
@[simp] theorem traceWith_placer (typ sub source : Nat) (layer : BitVec 16) (payload : List Nat) (cls : Nat) (force : Bool) :
    (traceWith typ sub source layer payload cls force s).placer = s.placer := by
  obtain ⟨_, _, _, e⟩ := trace_parts typ sub source layer payload cls force s
  rw [e]; rfl
@[simp] theorem trace_placer (typ sub source : Nat) (layer : BitVec 16) (payload : List Nat) :
    (trace typ sub source layer payload s).placer = s.placer := traceWith_placer ..
@[simp] theorem record_placer (typ : Nat) (payload : List Byte) : (record typ payload s).placer = s.placer := rfl
@[simp] theorem notify_placer (sensor : Nat) : (notify sensor s).placer = s.placer := by
  unfold notify; split <;> rfl
@[simp] theorem count_placer (set inst index n : Nat) : (count set inst index n s).placer = s.placer := rfl
@[simp] theorem tick_placer : (tick s).placer = s.placer := rfl

/-! ### Health and poison -/

@[simp] theorem modStack_placer (k : Nat) (f : Stack → Stack) : (modStack k f s).placer = s.placer := rfl
@[simp] theorem setHealth_placer (k : Nat) (h : Health) : (setHealth k h s).placer = s.placer := by
  simp [setHealth]
@[simp] theorem failDie_placer (k d : Nat) : (failDie k d s).placer = s.placer := by
  simp [failDie]
@[simp] theorem failFull_placer (k : Nat) : (failFull k s).placer = s.placer := by
  simp [failFull]
@[simp] theorem enterPoison_placer (k : Nat) (ranges : List (Nat × Nat)) (counted : Bool) :
    (enterPoison k ranges counted s).placer = s.placer := by
  simp [enterPoison]
@[simp] theorem leavePoison_placer (id : Nat) : (leavePoison id s).placer = s.placer := by
  simp [leavePoison]

/-! ### Corrected errors and on-die SRAM -/

@[simp] theorem logCe_placer (id : Nat) (name : LineName) (codewords : Nat) (scrub : Bool) :
    (logCe id name codewords scrub s).placer = s.placer := by
  unfold logCe; split
  · rfl
  · split <;> rfl
@[simp] theorem correct_placer (id : Nat) (name : LineName) (codewords : Nat) (bursts : List Nat) (wrong : List (Nat × Byte)) (scrub : Bool) :
    (correct id name codewords bursts wrong scrub s).placer = s.placer := by
  unfold correct; dsimp only; split
  · exact logCe_placer ..
  · rfl
@[simp] theorem traceSram_placer (p : SramPlace) : (traceSram p s).placer = s.placer := trace_placer ..
@[simp] theorem meetSram_placer (p : SramPlace) : (meetSram p s).2.placer = s.placer := by
  unfold meetSram
  dsimp only
  split
  · rfl
  · split
    · split <;> rfl
    · split <;> rfl
@[simp] theorem clearSram_placer (p : SramPlace) : (clearSram p s).placer = s.placer := rfl

/-! ### Check pages and their caches -/

@[simp] theorem journal_placer (k n : Nat) : (journal k n s).placer = s.placer := by
  unfold journal; dsimp only; split
  · split <;> rfl
  · rfl
@[simp] theorem writeCheck_placer (k n : Nat) : (writeCheck k n s).placer = s.placer := by
  unfold writeCheck; split
  · rfl
  · exact journal_placer ..
@[simp] theorem markWritten_placer (k first n : Nat) : (markWritten k first n s).placer = s.placer := rfl
@[simp] theorem badCheck_placer (k n : Nat) : (badCheck k n s).placer = s.placer := by
  unfold badCheck
  extract_lets u
  have h : u.placer = s.placer := (trace_placer ..).trans (writeCheck_placer ..)
  refine ite_placer ((enterPoison_placer ..).trans h) (ite_placer ?_ ((enterPoison_placer ..).trans h))
  exact (markWritten_placer ..).trans ((enterPoison_placer ..).trans h)
@[simp] theorem wrongCheck_placer (k n : Nat) (wrong : List (Nat × Byte)) : (wrongCheck k n wrong s).placer = s.placer := by
  unfold wrongCheck; dsimp only; split
  · refine (foldl_placer (fun u e => ?_) _ _).trans rfl
    split <;> rfl
  · split
    · refine (foldl_placer (fun u e => foldl_placer (fun u b => ?_) _ _) _ _).trans rfl
      split <;> rfl
    · rfl
@[simp] theorem readCheck_placer (k n : Nat) (scrub : Bool) : (readCheck k n scrub s).2.placer = s.placer := by
  unfold readCheck
  extract_lets id erased u
  have h : u.placer = s.placer := by simp [u]
  split
  · exact h
  · refine Eq.trans ?_ h
    simp
  · exact (badCheck_placer ..).trans h
@[simp] theorem meetCheck_placer (id : Nat) : (meetCheck id s).2.placer = s.placer := by
  have h := meetSram_placer s (.check id)
  unfold meetCheck
  split
  · rename_i e
    simpa using placer_of_snd h e
  · rename_i e
    exact placer_of_snd h e
@[simp] theorem writeBack_placer (e : CheckLine) : (writeBack e s).placer = s.placer := by
  have h := meetCheck_placer s e.line
  unfold writeBack
  split
  · split
    · rename_i e; exact placer_of_snd h e
    · rename_i e; exact (writeCheck_placer ..).trans (placer_of_snd h e)
  · rfl
@[simp] theorem evict_placer (die : Nat) : (evict die s).placer = s.placer := by
  unfold evict; dsimp only; split
  · rfl
  · split
    · exact writeBack_placer ..
    · rfl
@[simp] theorem useCheck_placer (k n : Nat) (write : Bool) : (useCheck k n write s).2.placer = s.placer := by
  unfold useCheck
  refine placer_ite_snd ?_ ?_
  · exact meetCheck_placer ..
  · exact (readCheck_placer ..).trans (evict_placer ..)

/-! ### Reads of a line -/

@[simp] theorem localise_placer (id : Nat) (name : LineName) : (localise id name s).2.placer = s.placer := by
  unfold localise
  dsimp only
  split <;> simp
@[simp] theorem uncorrectableLine_placer (id : Nat) (counted : Bool) : (uncorrectableLine id counted s).placer = s.placer := by
  simp [uncorrectableLine]
@[simp] theorem patternFound_placer (id : Nat) (name : LineName) : (patternFound id name s).2.placer = s.placer := by
  have h := localise_placer s id name
  unfold patternFound
  refine placer_ite_snd ?_ (uncorrectableLine_placer ..)
  split
  · rename_i e; exact placer_of_snd h e
  · rename_i e; exact (uncorrectableLine_placer ..).trans (placer_of_snd h e)
@[simp] theorem decodeLine_placer (id : Nat) (name : LineName) (scrub : Bool) : (decodeLine id name scrub s).2.placer = s.placer := by
  unfold decodeLine
  extract_lets k erased u x
  have h : u.placer = s.placer := by simp [u]
  rw [← h]
  split
  · rfl
  · exact patternFound_placer ..
  · refine placer_ite_snd (placer_ite_snd (patternFound_placer ..) (uncorrectableLine_placer ..)) ?_
    simp
@[simp] theorem readLine_placer (id : Nat) (name : LineName) : (readLine id name s).2.placer = s.placer := by
  have sram := meetSram_placer s (.hoop id)
  have valid := useCheck_placer s (lineStack id) (validLineOf (lineNo id)) false
  unfold readLine
  refine placer_ite_snd (placer_ite_snd rfl (placer_ite_snd rfl ?_)) ?_
  · split
    · rename_i e; exact placer_of_snd valid e
    · rename_i u e
      have crc := useCheck_placer u (lineStack id) (crcLineOf (lineNo id)) false
      rw [← placer_of_snd valid e]
      refine placer_ite_snd rfl ?_
      split
      · rename_i e; exact placer_of_snd crc e
      · rename_i e; exact (decodeLine_placer ..).trans ((count_placer ..).trans (placer_of_snd crc e))
  · split
    · rename_i e; exact placer_of_snd sram e
    · rename_i e; rw [← placer_of_snd sram e]; exact placer_ite_snd rfl rfl
@[simp] theorem reportUncorr_placer (name : LineName) (id : Nat) : (reportUncorr name id s).2.placer = s.placer := by
  simp [reportUncorr]
@[simp] theorem reportCrc_placer (name : LineName) (detected last source : Nat) : (reportCrc name detected last source s).2.placer = s.placer := by
  unfold reportCrc
  exact (trace_placer ..).trans (raiseMem_placer ..)
@[simp] theorem reportSram_placer (p : SramPlace) : (reportSram p s).2.placer = s.placer := traceSram_placer ..

/-! ### Writes of a line -/

@[simp] theorem storeLine_placer (id : Nat) (bytes : List Byte) (made : Nat) : (storeLine id bytes made s).placer = s.placer := by
  unfold storeLine
  dsimp only
  split
  · exact (leavePoison_placer ..).trans (journal_placer ..)
  · rfl
@[simp] theorem checkForWrite_placer (id : Nat) : (checkForWrite id s).2.placer = s.placer := by
  unfold checkForWrite
  exact (useCheck_placer ..).trans (useCheck_placer ..)
@[simp] theorem writeLine_placer (id : Nat) (name : LineName) (bytes : List Byte) (x : BitVec 32) (last : Nat) :
    (writeLine id name bytes x last s).2.placer = s.placer := by
  have check := checkForWrite_placer s id
  unfold writeLine
  refine placer_ite_snd (placer_ite_snd rfl (placer_ite_snd (reportCrc_placer ..) ?_))
    (placer_ite_snd (storeLine_placer ..) (storeLine_placer ..))
  split
  · rename_i e; exact (storeLine_placer ..).trans (placer_of_snd check e)
  · rename_i e; exact placer_of_snd check e
@[simp] theorem mergeLine_placer (id : Nat) (name : LineName) (pos : Nat) (bytes : List Byte) :
    (mergeLine id name pos bytes s).2.placer = s.placer := by
  have read := readLine_placer s id name
  unfold mergeLine
  split <;> rename_i e <;> rw [← placer_of_snd read e]
  · rename_i u
    have check := checkForWrite_placer u id
    refine placer_ite_snd (reportCrc_placer ..) (placer_ite_snd ?_ (storeLine_placer ..))
    split
    · rename_i e; exact (storeLine_placer ..).trans (placer_of_snd check e)
    · rename_i e; exact placer_of_snd check e
  · exact reportUncorr_placer ..
  · exact reportSram_placer ..

/-! ### Writes of a handle's bytes -/

@[simp] theorem writePiece_placer (die : Option Nat) (h : BitVec 32) (idx : Nat) (d : Desc) (p : Nat × Nat × List Byte) :
    (writePiece die h idx d p s).2.placer = s.placer := by
  unfold writePiece
  exact placer_ite_snd (writeLine_placer ..) (mergeLine_placer ..)
theorem writePieces_placer (die : Option Nat) (h : BitVec 32) (idx : Nat) (d : Desc) (l : List (Nat × Nat × List Byte)) :
    (writePieces die h idx d l s).2.placer = s.placer := by
  induction l generalizing s with
  | nil => rfl
  | cons p l ih => exact (ih _).trans (writePiece_placer ..)
@[simp] theorem writeBytes_placer (h : BitVec 32) (off : Nat) (bytes : List Byte) : (writeBytes h off bytes s).2.placer = s.placer := by
  unfold writeBytes writeFrom
  split
  · rfl
  · exact writePieces_placer ..
theorem writeEach_placer (h : BitVec 32) (idx : Nat) (d : Desc) (l : List (Nat × Nat × List Byte)) :
    (writeEach h idx d l s).2.placer = s.placer := by
  induction l generalizing s with
  | nil => rfl
  | cons p l ih => exact (ih _).trans (writePiece_placer ..)
theorem raisePoisoned_placer (fs : List Fail) : (raisePoisoned fs s).placer = s.placer := by
  simp [raisePoisoned]
theorem writeBar4_placer (h : BitVec 32) (off : Nat) (bytes : List Byte) : (writeBar4 h off bytes s).placer = s.placer := by
  unfold writeBar4
  split
  · rfl
  · exact (raisePoisoned_placer ..).trans (writeEach_placer ..)

/-! ### Replies and completion -/

theorem replied_placer (q : Nat) (bytes : List Byte) : (replied q bytes s).placer = s.placer := signalVector_placer ..
theorem replyLost_placer (q : Nat) : (replyLost q s).placer = s.placer := raiseQue_placer ..
theorem writeToTail_placer (q : Nat) (h : BitVec 32) (bytes : List Byte) : (writeToTail q h bytes s).placer = s.placer := by
  have k := writeBytes_placer s h ((s.queue q).cqBase.toNat + 32 * (s.queue q).cqTail) (setPhase (s.queue q).phase bytes)
  unfold writeToTail
  dsimp only
  split
  · rename_i e; exact (replied_placer ..).trans (placer_of_snd k e)
  · rename_i e; exact (replyLost_placer ..).trans (placer_of_snd k e)
theorem HeldWrite.make_placer (w : HeldWrite) : (w.make s).2.placer = s.placer := by
  unfold HeldWrite.make
  split
  · exact writeToTail_placer ..
  · exact placer_ite_snd (writeBar4_placer ..) (writeBytes_placer ..)
theorem writeHeld_placer (w : HeldWrite) : (writeHeld w s).2.placer = s.placer := by
  unfold writeHeld
  exact placer_ite_snd rfl (placer_ite_snd rfl (HeldWrite.make_placer { s with mem := { s.mem with journalOver := false } } w))
theorem writeReply_placer (q tag status detail round : Nat) (rewoven late firmware : Bool) :
    (writeReply q tag status detail round rewoven late firmware s).placer = s.placer := by
  unfold writeReply
  dsimp only
  split
  · exact writeHeld_placer ..
  · split
    · exact replyLost_placer ..
    · exact replied_placer ..
theorem mergeStats_placer (c : InFlight) : (mergeStats c s).2.placer = s.placer := by
  unfold mergeStats
  exact placer_ite_snd rfl (placer_ite_snd rfl rfl)
theorem noteCompare_placer (c : InFlight) : (noteCompare c s).placer = s.placer := by
  unfold noteCompare; split <;> rfl
theorem noteVerify_placer (c : InFlight) : (noteVerify c s).placer = s.placer := by
  unfold noteVerify; split <;> rfl
theorem signalToken_placer (t : Nat) : (signalToken t s).placer = s.placer := by
  unfold signalToken; split <;> rfl

theorem complete_placer (c : InFlight) : (complete c s).placer = s.placer := by
  have stats := mergeStats_placer (dropInflight c.id s) c
  unfold complete
  split
  · rfl
  extract_lets s1
  split
  rename_i late s2 e
  extract_lets s3 s4 s5 s6
  have h3 : s3.placer = s.placer := (noteVerify_placer ..).trans ((noteCompare_placer ..).trans (placer_of_snd stats e))
  have h4 : s4.placer = s.placer := by
    show (ite _ _ _ : State).placer = _
    split
    · exact h3
    · exact (traceWith_placer ..).trans h3
  have h5 : s5.placer = s.placer := by
    show (ite _ _ _ : State).placer = _
    split
    · exact (signalToken_placer ..).trans h4
    · exact h4
  have h6 : s6.placer = s.placer := by
    show (ite _ _ _ : State).placer = _
    split
    · exact (writeReply_placer ..).trans h5
    · exact h5
  split
  · exact h4
  · split
    · exact (raiseQue_placer ..).trans h6
    · exact h6
theorem finish_placer (c : InFlight) : (finish c s).placer = s.placer := complete_placer ..
theorem finishAs_placer (id status detail : Nat) : (finishAs id status detail s).placer = s.placer := by
  unfold finishAs
  split
  · exact finish_placer ..
  · rfl

/-! ### Lines that become unwritten -/

@[simp] theorem forget_placer (gone : Nat → Bool) : (forget gone s).placer = s.placer := by
  unfold forget
  refine (foldl_placer (fun u v => ?_) (s.pagesOf gone) s :)
  split
  · rfl
  · exact useCheck_placer ..
@[simp] theorem forgetLines_placer (l : Location) (lines : Nat) : (forgetLines l lines s).placer = s.placer := forget_placer ..

end

end Sys2Proof.Machine
end

section
/-! SUPPORT. Placement (R171, R175, R176): the lowest free index, the lowest base that is clear of what is held, and what PLACE plans. -/

namespace Sys2Proof.Machine

/-! ### The lowest free index (R171) -/

theorem tfind_eq_none_of_lt {α : Type} {t : Tab α} {n : Nat} (h : ∀ e ∈ t, n < e.1) : tfind t n = none := by
  induction t with
  | nil => rfl
  | cons e t ih =>
    have above := h e List.mem_cons_self
    rw [tfind, if_neg (by omega)]
    exact ih fun x mem => h x (List.mem_cons_of_mem _ mem)

/-- Where the keys rise, the index found is free and every lower one is taken. -/
theorem lowestFree_spec {t : Tab Desc} {n i : Nat} (rising : (t.map (·.1)).Pairwise (· < ·)) (above : ∀ e ∈ t, n ≤ e.1)
    (found : lowestFree n t = some i) : tfind t i = none ∧ n ≤ i ∧ ∀ j, n ≤ j → j < i → (tfind t j).isSome = true := by
  induction t generalizing n with
  | nil =>
    unfold lowestFree at found
    split at found
    · cases found
      exact ⟨rfl, Nat.le_refl _, fun j le lt => absurd lt (Nat.not_lt.mpr le)⟩
    · cases found
  | cons e t ih =>
    rw [List.map_cons, List.pairwise_cons] at rising
    obtain ⟨first, rising⟩ := rising
    have later : ∀ x ∈ t, e.1 < x.1 := fun x mem => first x.1 (List.mem_map_of_mem mem)
    have low := above e List.mem_cons_self
    unfold lowestFree at found
    split at found
    · rename_i lt
      cases found
      refine ⟨tfind_eq_none_of_lt fun x mem => ?_, Nat.le_refl _, fun j le lt => absurd lt (Nat.not_lt.mpr le)⟩
      rcases List.mem_cons.mp mem with rfl | mem
      · exact lt
      · exact Nat.lt_trans lt (later x mem)
    · obtain ⟨free, le, taken⟩ := ih rising later found
      refine ⟨by rw [tfind, if_neg (by omega)]; exact free, by omega, fun j lo hi => ?_⟩
      by_cases here : e.1 = j
      · rw [tfind, if_pos here]
        rfl
      · rw [tfind, if_neg here]
        exact taken j (by omega) hi

/-! ### The lowest base (R176) -/

/-- Whether `[b, b + len)` lies below the limit and clear of the spans. -/
def ClearOf (spans : List (Nat × Nat)) (len limit b : Nat) : Prop := b + len ≤ limit ∧ ∀ e ∈ spans, b + len ≤ e.1 ∨ e.2 ≤ b

/-- The lesser of a base and the best one so far. -/
def lesser (m : Option Nat) (b : Nat) : Option Nat := some (match m with | none => b | some c => min b c)

theorem foldl_lesser {l : List Nat} {m : Option Nat} {b : Nat} (h : l.foldl lesser m = some b) :
    (b ∈ l ∨ m = some b) ∧ (∀ a ∈ l, b ≤ a) ∧ ∀ c, m = some c → b ≤ c := by
  induction l generalizing m with
  | nil => exact ⟨.inr h, by simp, fun c e => by cases e.symm.trans h; exact Nat.le_refl _⟩
  | cons a l ih =>
    obtain ⟨mem, least, start⟩ := ih h
    cases m with
    | none =>
      have le : b ≤ a := start a rfl
      refine ⟨.inl ?_, List.forall_mem_cons.mpr ⟨le, least⟩, fun c e => nomatch e⟩
      rcases mem with mem | e
      · exact List.mem_cons_of_mem _ mem
      · cases e
        exact List.mem_cons_self
    | some c =>
      have le : b ≤ min a c := start (min a c) rfl
      refine ⟨?_, List.forall_mem_cons.mpr ⟨by omega, least⟩, fun d e => by cases e; omega⟩
      rcases mem with mem | e
      · exact .inl (List.mem_cons_of_mem _ mem)
      · have e : min a c = b := Option.some.inj e
        rcases Nat.le_total a c with le | le
        · exact .inl (by rw [← e, Nat.min_eq_left le]; exact List.mem_cons_self)
        · exact .inr (by rw [← e, Nat.min_eq_right le])

/-- Below every clear base lies one that is 0 or where a span ends. -/
theorem clearOf_candidate {spans : List (Nat × Nat)} {len limit b : Nat} (h : ClearOf spans len limit b) :
    ∃ c ∈ 0 :: spans.map (·.2), ClearOf spans len limit c ∧ c ≤ b := by
  induction b with
  | zero => exact ⟨0, List.mem_cons_self, h, Nat.le_refl _⟩
  | succ b ih =>
    by_cases stop : b + 1 ∈ spans.map (·.2)
    · exact ⟨b + 1, List.mem_cons_of_mem _ stop, h, Nat.le_refl _⟩
    · obtain ⟨room, clear⟩ := h
      have down : ClearOf spans len limit b := by
        refine ⟨by omega, fun e mem => ?_⟩
        have ne : e.2 ≠ b + 1 := fun eq => stop (eq ▸ List.mem_map_of_mem mem)
        rcases clear e mem with h | h <;> omega
      obtain ⟨c, mem, clear, le⟩ := ih down
      exact ⟨c, mem, clear, by omega⟩

/-- The base found is clear, and no lower one is. -/
theorem lowestBase_spec {spans : List (Nat × Nat)} {len limit b : Nat} (h : lowestBase spans len limit = some b) :
    ClearOf spans len limit b ∧ ∀ c, c < b → ¬ClearOf spans len limit c := by
  have ok : ∀ c, (decide (c + len ≤ limit) && spans.all fun e => decide (c + len ≤ e.1) || decide (e.2 ≤ c)) = true ↔
      ClearOf spans len limit c := fun c => by simp [ClearOf]
  obtain ⟨mem, least, -⟩ := foldl_lesser h
  constructor
  · have mem := mem.resolve_right (by simp)
    exact (ok b).mp (List.mem_filter.mp mem).2
  · intro c lt clear
    obtain ⟨d, mem, clear, le⟩ := clearOf_candidate clear
    have := least d (List.mem_filter.mpr ⟨mem, (ok d).mpr clear⟩)
    omega

/-- What is held on the stacks of a set, as spans. -/
def heldSpans (held : List (Location × Nat)) (set : List Nat) : List (Nat × Nat) :=
  held.filterMap fun e => if (e.1.span e.2).1.any set.contains then some (e.1.span e.2).2 else none

theorem clearOf_heldSpans {held : List (Location × Nat)} {set : List Nat} {len limit b : Nat} :
    ClearOf (heldSpans held set) len limit b ↔ b + len ≤ limit ∧ ∀ x ∈ held, (∃ k ∈ (x.1.span x.2).1, k ∈ set) →
      b + len ≤ (x.1.span x.2).2.1 ∨ (x.1.span x.2).2.2 ≤ b := by
  refine and_congr_right fun _ => ⟨fun h x mem shared => ?_, fun h e mem => ?_⟩
  · refine h (x.1.span x.2).2 (List.mem_filterMap.mpr ⟨x, mem, if_pos ?_⟩)
    simpa using shared
  · obtain ⟨x, held, eq⟩ := List.mem_filterMap.mp mem
    split at eq
    · rename_i shared
      cases eq
      exact h x held (by simpa using shared)
    · cases eq

theorem roomOn_spec {held : List (Location × Nat)} {set : List Nat} {lines b : Nat} (h : roomOn held set lines = some b) :
    ClearOf (heldSpans held set) (cdiv lines set.length) dataLines b ∧
      ∀ c, c < b → ¬ClearOf (heldSpans held set) (cdiv lines set.length) dataLines c := by
  unfold roomOn at h
  split at h
  · cases h
  · exact lowestBase_spec h

/-! ### Stacks (R175) -/

theorem holdings_of_plc {s t : State} (h : t.plc = s.plc) : t.holdings = s.holdings := by
  unfold State.holdings
  rw [h]

theorem eligible_of_mem {s t : State} (mem : t.mem.stackTab = s.mem.stackTab) (ups : t.ups = s.ups) : t.eligible = s.eligible := by
  funext k
  unfold State.eligible State.stack
  rw [mem, ups]

/-- A location that is found lies on stacks that can take it. -/
theorem findStacks_eligible {s : State} {held : List (Location × Nat)} {cls : Nat} {gs : List Group} {lines rot : Nat} {loc : Location}
    (h : s.findStacks held cls gs lines rot = some loc) :
    ∃ set r base, loc = .across set r base ∧ ∀ k ∈ set, s.eligible k = true := by
  obtain ⟨set, mem, found⟩ := List.exists_of_findSome?_eq_some h
  obtain ⟨base, -, e⟩ := Option.map_eq_some_iff.mp found
  refine ⟨set, rot % set.length, base, e.symm, fun k hk => ?_⟩
  have all : ∀ k ∈ (List.range 12).filter s.eligible, s.eligible k = true := fun k hk => (List.mem_filter.mp hk).2
  unfold State.stackSets at mem
  dsimp only at mem
  split at mem
  · split at mem
    · rcases List.mem_cons.mp mem with rfl | mem
      · exact (List.mem_filter.mp hk).2
      · exact all k (List.mem_singleton.mp mem ▸ hk)
    · exact all k (List.mem_singleton.mp mem ▸ hk)
  · exact all k (List.mem_singleton.mp mem ▸ hk)

/-- With no affinity the one set is all stacks that can take placements. -/
theorem findStacks_free {s : State} {held : List (Location × Nat)} {cls lines rot : Nat} {loc : Location}
    (h : s.findStacks held cls [] lines rot = some loc) :
    ∃ base, loc = .across ((List.range 12).filter s.eligible) (rot % ((List.range 12).filter s.eligible).length) base ∧
      roomOn held ((List.range 12).filter s.eligible) lines = some base := by
  obtain ⟨set, mem, found⟩ := List.exists_of_findSome?_eq_some h
  have one : set = (List.range 12).filter s.eligible := List.mem_singleton.mp mem
  subst one
  obtain ⟨base, room, e⟩ := Option.map_eq_some_iff.mp found
  exact ⟨base, e.symm, room⟩

/-! ### PLACE (R168 to R171) -/

/-- The affinity words of a PLACE. -/
def placeWords (p : Packet) : List Nat := (List.range 4).map fun i => p.num (44 + 2 * i) 2
def placeGroups (p : Packet) : List Group := ((placeWords p).take (p.num 43 1)).map groupOf

/-- Where a PLACE puts its lines, if anywhere. -/
def State.placeLocation (s : State) (p : Packet) : Option Location :=
  (s.findHoop (bit (p.num 27 1) 0) (p.num 16 8) (placeGroups p)).or
    (s.findStacks s.holdings (p.num 24 1) (placeGroups p) (cdiv (p.num 16 8) 512) s.plc.placed)

/-- The descriptor that PLACE makes at index `i`. -/
def State.placedDesc (s : State) (p : Packet) (i : Nat) (loc : Location) : Desc :=
  { handle := BitVec.ofNat 32 (nextTag (tget 0 s.plc.tags i) * 65536 + i), state := .live, cls := p.num 24 1,
    residentOk := bit (p.num 27 1) 0, pin := bit (p.num 27 1) 1, rank := p.num 25 1 % 8, format := p.num 26 1 % 16,
    size := p.num 16 8, dims := placeDims p, affCount := p.num 43 1, affinity := (placeWords p).map (BitVec.ofNat 16),
    writeGen := 0, epoch := s.plc.epoch, traffic := 0, location := loc }

/-- The placer once PLACE has put the descriptor in the map. -/
def Plc.place (q : Plc) (i : Nat) (d : Desc) (tag : Nat) : Plc :=
  { q with map := tinsert q.map i d, tags := tset 0 q.tags i tag, placed := q.placed + 1, running := terase q.running i }

/-- The effect of PLACE, planned in state `s`. -/
def placeEffect (s : State) (p : Packet) (i : Nat) (loc : Location) : Cmd Res := do
  let tag := nextTag (tget 0 s.plc.tags i)
  upd fun t => { t with plc := t.plc.place i (s.placedDesc p i loc) tag }
  upd (forgetLines loc (cdiv (p.num 16 8) 512))
  pure { detail := (BitVec.ofNat 32 (tag * 65536 + i)).toNat + s.plc.epoch * 2 ^ 32 }

theorem ok_of_require {α : Type} {ok : Bool} {status detail : Nat} {f : Unit → Cmd α} {s u : State} {a : α}
    (h : (require ok status detail >>= f).run s = .ok a u) : (f ()).run s = .ok a u := by
  unfold require at h
  split at h
  · exact h
  · cases h

theorem ok_of_get {α : Type} {f : State → Cmd α} {s u : State} {a : α} (h : (get >>= f).run s = .ok a u) : (f s).run s = .ok a u := h

/-- A PLACE that passes its checks has found the lowest free index and room. -/
theorem planPlace_ok {p : Packet} {s u : State} {pl : Plan} (h : (planPlace p).run s = .ok pl u) :
    u = s ∧ ∃ i loc, lowestFree 0 s.plc.map = some i ∧ s.placeLocation p = some loc ∧
      pl = { atIssue := true, run := placeEffect s p i loc } := by
  unfold planPlace at h
  have h := ok_of_require h
  have h := ok_of_require h
  have h := ok_of_require h
  have h := ok_of_get h
  split at h
  · cases h
  · rename_i i free
    dsimp only at h
    split at h
    · cases h
    · rename_i loc room
      cases h
      exact ⟨rfl, i, loc, free, room, rfl⟩

/-- The effect leaves the descriptor in the map, and of the placer changes nothing else that is not counted. -/
theorem placeEffect_ok {s t v : State} {p : Packet} {i : Nat} {loc : Location} {r : Res}
    (h : (placeEffect s p i loc).run t = .ok r v) :
    v.placer = (t.plc.place i (s.placedDesc p i loc) (nextTag (tget 0 s.plc.tags i))).still := by
  cases h
  exact forgetLines_placer ..

theorem abandonHolding_nil (id : Nat) (s : State) : abandonHolding id [] s = s := by
  have none : ∀ c : InFlight, c.names.any [].contains = false := fun c => List.any_eq_false.mpr fun h _ => by simp
  have holding : s.holding id [] = [] := List.filter_eq_nil_iff.mpr fun c _ => by simp [none]
  unfold abandonHolding
  rw [holding]
  rfl

/-- The state in which a packet's plan is made has the placer and the stacks that it had before. -/
theorem issuing_plc (q op : Nat) (p : Packet) (layer : BitVec 16) (s : State) :
    (acting layer (takeHead q op p true s.unheld)).plc = s.plc ∧
      (acting layer (takeHead q op p true s.unheld)).eligible = s.eligible := by
  obtain ⟨_, _, _, _, _, e⟩ := takeHead_parts q op p true s.unheld
  rw [e]
  exact ⟨rfl, rfl⟩

/-- A PLACE that succeeds has put its descriptor at the lowest free index, at a location that was found. -/
theorem exec_place {q : Fin 64} {p : Packet} {s : State} {pl : Plan} {r : Res} {v : State}
    (h : SucceedsS q 0x12 p (planPlace p) s pl r v) :
    ∃ (t u : State) (i : Nat) (loc : Location), exec (.place q p) s = .next t ∧ u.plc = s.plc ∧ u.eligible = s.eligible ∧ lowestFree 0 s.plc.map = some i ∧
      u.placeLocation p = some loc ∧ t.placer = (s.plc.place i (s.placedDesc p i loc) (nextTag (tget 0 s.plc.tags i))).still := by
  have issue := issueS_ok h
  obtain ⟨-, -, -, ⟨u, plan, effect⟩, -⟩ := h
  obtain ⟨rfl, i, loc, free, room, rfl⟩ := planPlace_ok plan
  obtain ⟨plc, eligible⟩ := issuing_plc q 0x12 p p.layerId s
  refine ⟨_, _, i, loc, congrArg Host.Outcome.next issue, plc, eligible, by rw [← plc]; exact free, room, ?_⟩
  have writes : ∀ run, ({ atIssue := true, run } : Plan).writes = [] := fun _ => rfl
  rw [writes, abandonHolding_nil] at effect
  have placed := placeEffect_ok effect
  refine (complete_placer _ _).trans (placed.trans ?_)
  unfold State.placedDesc
  rw [plc]
  exact congrArg (fun x : Plc => (x.place _ _ _).still) plc

end Sys2Proof.Machine
end

section
/-! SUPPORT. A round boundary as the placer sees it (R181, R183, R185, R186): what retiring, assigning spares, and taking migrations leave in
the placer. -/

namespace Sys2Proof.Machine

/-! ### What a boundary leaves alone of the stacks -/

@[simp] theorem raisePlc_mem (b : Nat) (s : State) : (raisePlc b s).mem = s.mem := signalVector_mem ..

theorem foldl_mem {α : Type} {f : State → α → State} (h : ∀ s a, (f s a).mem = s.mem) (l : List α) (s : State) :
    (l.foldl f s).mem = s.mem := by
  induction l generalizing s with
  | nil => rfl
  | cons a l ih => rw [List.foldl_cons, ih, h]

theorem retire_mem (die pos : Nat) (s : State) : (retire die pos s).mem = s.mem := by
  unfold retire
  split
  · rfl
  · simp

theorem assignSpares_mem (old : List (Option Nat)) (s : State) : (assignSpares old s).2.mem = s.mem := by
  unfold assignSpares
  extract_lets groups changed spares p u v short
  have h : v.mem = s.mem := foldl_mem (fun u e => by split <;> simp) changed u
  show (ite _ _ _ : State).mem = _
  split
  · exact (raisePlc_mem ..).trans h
  · exact h

/-! ### Retiring what was marked (R183) -/

/-- Retiring a position changes of the placer the set of retired positions. -/
theorem retire_placer (die pos : Nat) (s : State) :
    ∃ l, (retire die pos s).placer = { s.placer with retired := l } ∧ ∀ x, x ∈ l ↔ x ∈ s.plc.retired ∨ die * 100 + pos = x := by
  unfold retire
  split
  · rename_i already
    have mem : die * 100 + pos ∈ s.plc.retired := List.contains_iff_mem.mp already
    exact ⟨s.plc.retired, rfl, fun x => ⟨.inl, fun h => h.elim id (· ▸ mem)⟩⟩
  · refine ⟨sinsert s.plc.retired (die * 100 + pos), ?_, fun x => ?_⟩
    · simp only [raisePlc_placer, trace_placer]
      rfl
    · rw [mem_sinsert, or_comm, eq_comm (a := x)]

theorem retireAll_placer (marked : List (Nat × Nat)) (s : State) :
    ∃ l, (marked.foldl (fun u e => retire e.1 e.2 u) s).placer = { s.placer with retired := l } ∧
      ∀ x, x ∈ l ↔ x ∈ s.plc.retired ∨ ∃ e ∈ marked, e.1 * 100 + e.2 = x := by
  induction marked generalizing s with
  | nil => exact ⟨s.plc.retired, rfl, by simp⟩
  | cons e marked ih =>
    obtain ⟨l, one, first⟩ := retire_placer e.1 e.2 s
    obtain ⟨l', rest, later⟩ := ih (retire e.1 e.2 s)
    have retired : (retire e.1 e.2 s).plc.retired = l := (congrArg Plc.retired one :)
    refine ⟨l', by rw [List.foldl_cons, rest, one], fun x => ?_⟩
    rw [later, retired, first, List.exists_mem_cons_iff, or_assoc]

/-! ### Spares (R181) -/

/-- A group's spare stands in for a stake, or for none. -/
def setSpare (t : Tab Nat) (i : Nat) (k : Option Nat) : Tab Nat :=
  match k with
  | some k => tinsert t i k
  | none => terase t i

/-- The spares of all groups as a boundary assigns them. -/
def State.assigned (s : State) : Tab Nat :=
  (List.range 8).foldl (fun t i => setSpare t i (s.assignment (i / 4) (i % 4))) s.plc.spares

theorem assignSpares_placer (old : List (Option Nat)) (s : State) :
    (assignSpares old s).2.placer = { s.placer with spares := s.assigned } := by
  unfold assignSpares
  extract_lets groups changed spares p u v short
  have assigned : spares = s.assigned := List.foldl_map
  have h : v.placer = u.placer := foldl_placer (fun u e => by split <;> simp) changed u
  rw [← assigned]
  show (ite _ _ _ : State).placer = _
  split
  · exact (raisePlc_placer ..).trans h
  · exact h

theorem tfind_setSpare (t : Tab Nat) (i j : Nat) (k : Option Nat) : tfind (setSpare t i k) j = if j = i then k else tfind t j := by
  unfold setSpare
  split
  · split
    · rename_i e; rw [e, tfind_tinsert_self]
    · rename_i e; exact tfind_tinsert_ne _ _ e
  · split
    · rename_i e; rw [e, tfind_terase_self]
    · rename_i e; exact tfind_terase_ne _ e

theorem tfind_foldl_setSpare (f : Nat → Option Nat) (l : List Nat) (t : Tab Nat) (j : Nat) :
    tfind (l.foldl (fun t i => setSpare t i (f i)) t) j = if j ∈ l then f j else tfind t j := by
  induction l generalizing t with
  | nil => rfl
  | cons i l ih =>
    rw [List.foldl_cons, ih, tfind_setSpare]
    by_cases mem : j ∈ l
    · rw [if_pos mem, if_pos (List.mem_cons_of_mem _ mem)]
    · by_cases e : j = i
      · subst e
        rw [if_neg mem, if_pos rfl, if_pos List.mem_cons_self]
      · rw [if_neg mem, if_neg e, if_neg (by simp [e, mem])]

/-- Each group's spare is assigned. -/
theorem tfind_assigned {s : State} {die g : Nat} (hd : die < 2) (hg : g < 4) :
    tfind s.assigned (die * 4 + g) = s.assignment die g := by
  unfold State.assigned
  rw [tfind_foldl_setSpare (fun i => s.assignment (i / 4) (i % 4)), if_pos (List.mem_range.mpr (by omega))]
  have hq : (die * 4 + g) / 4 = die := by omega
  have hr : (die * 4 + g) % 4 = g := by omega
  rw [hq, hr]

theorem assignment_of_retired_spare {s : State} {die g : Nat} (h : s.retired die (25 * g + 24) = true) : s.assignment die g = none := by
  unfold State.assignment
  exact if_pos h

/-- The lowest retired home of a group gets its spare. -/
theorem assignment_of_retired_home {s : State} {die g k : Nat} (spare : s.retired die (25 * g + 24) = false) (hk : k < 24)
    (home : s.retired die (25 * g + k) = true) (lowest : ∀ j, j < k → s.retired die (25 * g + j) = false) :
    s.assignment die g = stakeAt die (25 * g + k) := by
  have find : ((List.range 24).map (· + 25 * g)).find? (s.retired die) = some (25 * g + k) := by
    rw [List.find?_map, Option.map_eq_some_iff]
    refine ⟨k, List.find?_range_eq_some.mpr ⟨?_, List.mem_range.mpr hk, fun j lt => ?_⟩, Nat.add_comm ..⟩
    · rw [Function.comp_apply, Nat.add_comm]; exact home
    · rw [Function.comp_apply, Nat.add_comm, lowest j lt]; rfl
  unfold State.assignment
  rw [spare, find]
  rfl

/-- With no home retired and levelling off a group's spare stays where it is. -/
theorem assignment_of_none {s : State} {die g : Nat} (spare : s.retired die (25 * g + 24) = false)
    (homes : ∀ k, k < 24 → s.retired die (25 * g + k) = false) (off : s.plc.ctrlNow.getLsbD 1 = false) :
    s.assignment die g = tfind s.plc.spares (die * 4 + g) := by
  have find : ((List.range 24).map (· + 25 * g)).find? (s.retired die) = none := by
    rw [List.find?_eq_none]
    intro x mem
    obtain ⟨k, hk, rfl⟩ := List.mem_map.mp mem
    rw [Nat.add_comm, homes k (List.mem_range.mp hk)]
    exact Bool.false_ne_true
  unfold State.assignment
  rw [spare, find, off]
  rfl

/-! ### The migration list (R186) -/

theorem mem_insertRanked (e x : Nat × Desc) (l : List (Nat × Desc)) : x ∈ insertRanked e l ↔ x = e ∨ x ∈ l := by
  induction l with
  | nil => simp [insertRanked]
  | cons y l ih =>
    unfold insertRanked
    split
    · exact List.mem_cons
    · rw [List.mem_cons, ih, List.mem_cons]
      tauto

/-- The first of two handles on the list has at least the traffic of the second. -/
def ranked (x y : Nat × Desc) : Prop := y.2.traffic ≤ x.2.traffic

theorem insertRanked_pairwise {e : Nat × Desc} {l : List (Nat × Desc)} (h : l.Pairwise ranked) : (insertRanked e l).Pairwise ranked := by
  induction l with
  | nil => exact List.pairwise_singleton ..
  | cons y l ih =>
    obtain ⟨first, rest⟩ := List.pairwise_cons.mp h
    unfold insertRanked
    split
    · rename_i less
      refine List.pairwise_cons.mpr ⟨fun x mem => ?_, h⟩
      rcases List.mem_cons.mp mem with rfl | mem
      · exact Nat.le_of_lt less
      · exact Nat.le_trans (first x mem) (Nat.le_of_lt less)
    · rename_i notLess
      refine List.pairwise_cons.mpr ⟨fun x mem => ?_, ih rest⟩
      rcases (mem_insertRanked ..).mp mem with rfl | mem
      · exact Nat.le_of_not_lt notLess
      · exact first x mem

theorem foldl_insertRanked (m l : List (Nat × Desc)) (h : l.Pairwise ranked) :
    (m.foldl (fun l e => insertRanked e l) l).Pairwise ranked ∧ ∀ x, x ∈ m.foldl (fun l e => insertRanked e l) l → x ∈ m ∨ x ∈ l := by
  induction m generalizing l with
  | nil => exact ⟨h, fun x => .inr⟩
  | cons e m ih =>
    obtain ⟨sorted, mem⟩ := ih (insertRanked e l) (insertRanked_pairwise h)
    refine ⟨sorted, fun x hx => ?_⟩
    rcases mem x hx with hx | hx
    · exact .inl (List.mem_cons_of_mem _ hx)
    · rcases (mem_insertRanked ..).mp hx with rfl | hx
      · exact .inl List.mem_cons_self
      · exact .inr hx

theorem migrationList_spec (s : State) :
    s.migrationList.Pairwise ranked ∧ ∀ x ∈ s.migrationList, x ∈ s.plc.map ∧ s.migratable x.2 = true := by
  obtain ⟨sorted, mem⟩ := foldl_insertRanked (s.plc.map.filter fun e => s.migratable e.2) [] .nil
  exact ⟨sorted, fun x hx => List.mem_filter.mp ((mem x hx).resolve_right (by simp))⟩

theorem migratable_of_mem {s t : State} (h : t.mem = s.mem) (d : Desc) : t.migratable d = s.migratable d := by
  unfold State.migratable State.stack
  rw [h]

/-! ### Taking migrations (R186) -/

/-- What starting a copy leaves of the placer: it changes a descriptor's state, and which copy runs. -/
def Plc.idle (p : Plc) : Plc := { p.still with map := [], current := none, taken := [] }

/-- The placer with more handles taken, and so many left on the list. -/
def Plc.took (p : Plc) (moves : List (Nat × Location)) (pending : Nat) : Plc :=
  { p with taken := p.taken ++ moves, pendingMig := pending }

/-- A walk of the list `l` from `s` ends in `t`, having taken the handles `taken` to the places `moves`. -/
structure Takes (l : List (Nat × Desc)) (bound : List (Nat × Desc) → Nat) (s t : State) (taken : List (Nat × Desc))
    (moves : List (Nat × Location)) : Prop where
  placer : t.placer = s.placer.took moves t.plc.pendingMig
  sublist : taken.Sublist l
  indices : taken.map (·.1) = moves.map (·.1)
  places : ∀ x ∈ moves, ∃ set rot base, x.2 = .across set rot base ∧ ∀ k ∈ set, s.eligible k = true
  within : (taken.map (·.2.size)).sum ≤ bound taken

/-- What the handles taken may hold: the budget, or the first one alone where it may exceed it. -/
def takesBound (first : Bool) (budget : Nat) (taken : List (Nat × Desc)) : Nat :=
  if first then max budget ((taken.head?.map (·.2.size)).getD 0) else budget

section
variable {l taken : List (Nat × Desc)} {bound : List (Nat × Desc) → Nat} {s t : State} {moves : List (Nat × Location)}

theorem Takes.current_eq (h : Takes l bound s t taken moves) : t.plc.current = s.plc.current := (congrArg Plc.current h.placer :)

theorem Takes.taken_eq (h : Takes l bound s t taken moves) : t.plc.taken = s.plc.taken ++ moves := (congrArg Plc.taken h.placer :)

theorem Takes.idle_eq (h : Takes l bound s t taken moves) : t.plc.idle = { s.plc.idle with pendingMig := t.plc.pendingMig } :=
  (congrArg (fun p : Plc => { p with map := [], current := none, taken := [] }) h.placer :)

end

theorem Takes.within_budget {l taken : List (Nat × Desc)} {budget : Nat} {s t : State} {moves : List (Nat × Location)}
    (h : Takes l (takesBound true budget) s t taken moves) :
    (taken.map (·.2.size)).sum ≤ max budget ((taken.head?.map (·.2.size)).getD 0) :=
  h.within

/-- A handle that is passed over. -/
theorem Takes.pass {l taken : List (Nat × Desc)} {e : Nat × Desc} {first : Bool} {budget n : Nat} {s u t : State}
    {moves : List (Nat × Location)} (h : Takes l (takesBound false budget) u t taken moves)
    (placer : u.placer = { s.placer with pendingMig := n }) (eligible : u.eligible = s.eligible) :
    Takes (e :: l) (takesBound first budget) s t taken moves where
  placer := h.placer.trans (congrArg (fun p : Plc => p.took moves t.plc.pendingMig) placer :)
  sublist := h.sublist.cons e
  indices := h.indices
  places := eligible ▸ h.places
  within := by
    have le : (taken.map (·.2.size)).sum ≤ budget := h.within
    unfold takesBound
    split <;> omega

/-- A handle that is taken. -/
theorem Takes.take {l taken : List (Nat × Desc)} {i : Nat} {d : Desc} {loc : Location} {first : Bool} {budget : Nat} {s t : State}
    {moves : List (Nat × Location)} (fits : first = true ∨ d.size ≤ budget)
    (place : ∃ set rot base, loc = .across set rot base ∧ ∀ k ∈ set, s.eligible k = true)
    (h : Takes l (takesBound false (budget - d.size)) { s with plc := { s.plc with taken := s.plc.taken ++ [(i, loc)] } } t taken moves) :
    Takes ((i, d) :: l) (takesBound first budget) s t ((i, d) :: taken) ((i, loc) :: moves) where
  placer := h.placer.trans (congrArg (fun l => { s.placer with taken := l, pendingMig := t.plc.pendingMig }) (List.append_cons ..).symm)
  sublist := h.sublist.cons_cons _
  indices := congrArg (i :: ·) h.indices
  places := List.forall_mem_cons.mpr ⟨place, h.places⟩
  within := by
    have le : (taken.map (·.2.size)).sum ≤ budget - d.size := h.within
    simp only [List.map_cons, List.sum_cons, takesBound, List.head?_cons, Option.map_some, Option.getD_some]
    split
    · omega
    · rename_i later
      have := fits.resolve_left later
      omega

theorem takeMigrations_takes (l : List (Nat × Desc)) (first : Bool) (budget : Nat) (s : State) :
    ∃ taken moves, Takes l (takesBound first budget) s (takeMigrations l first budget s) taken moves := by
  induction l generalizing first budget s with
  | nil => exact ⟨[], [], congrArg (fun l => { s.placer with taken := l }) (List.append_nil _).symm, .slnil, rfl, by simp, Nat.zero_le _⟩
  | cons e l ih =>
    obtain ⟨i, d⟩ := e
    unfold takeMigrations
    split
    · rename_i fits
      split
      · rename_i loc found
        obtain ⟨taken, moves, h⟩ := ih false (budget - d.size) { s with plc := { s.plc with taken := s.plc.taken ++ [(i, loc)] } }
        exact ⟨_, _, h.take (by simpa using fits) (findStacks_eligible found)⟩
      · obtain ⟨taken, moves, h⟩ := ih false budget (raisePlc 1 { s with plc := { s.plc with pendingMig := s.plc.pendingMig + 1 } })
        refine ⟨taken, moves, h.pass (n := s.plc.pendingMig + 1) (raisePlc_placer ..) (eligible_of_mem ?_ ?_)⟩
        · rw [raisePlc_mem]
        · exact congrArg Calm.ups (raisePlc_calm ..)
    · obtain ⟨taken, moves, h⟩ := ih false budget { s with plc := { s.plc with pendingMig := s.plc.pendingMig + 1 } }
      exact ⟨taken, moves, h.pass (n := s.plc.pendingMig + 1) rfl rfl⟩

/-! ### Starting a copy (R187) -/

/-- Handles on the move: the copy under way, then those taken. -/
def State.moving (s : State) : List (Nat × Location) := (s.plc.current.toList.map fun x => (x.index, x.newLoc)) ++ s.plc.taken

theorem startCopy_of_none {s : State} (h : s.plc.taken = []) : startCopy s = s := by
  unfold startCopy
  rw [h]
  split
  · rename_i e; cases e
  · rfl

theorem modDesc_idle (i : Nat) (f : Desc → Desc) (s : State) : (modDesc i f s).plc.idle = s.plc.idle := by
  unfold modDesc
  split <;> rfl

theorem modDesc_moving (i : Nat) (f : Desc → Desc) (s : State) : (modDesc i f s).moving = s.moving := by
  unfold modDesc
  split <;> rfl

theorem idle_of_placer {s t : State} (h : t.placer = s.placer) : t.plc.idle = s.plc.idle :=
  congrArg (fun p : Plc => { p with map := [], current := none, taken := [] }) h

theorem moving_of_placer {s t : State} (h : t.placer = s.placer) : t.moving = s.moving := by
  unfold State.moving
  rw [current_of_placer h, taken_of_placer h]

/-- Starting a copy moves the first handle taken to the front, and changes nothing of what is on the move. -/
theorem startCopy_idle (s : State) : (startCopy s).plc.idle = s.plc.idle ∧ (startCopy s).moving = s.moving := by
  unfold startCopy
  split
  · rename_i i loc rest none first
    extract_lets p u
    have idle : u.plc.idle = s.plc.idle := rfl
    have moving : u.moving = s.moving := by
      unfold State.moving
      rw [none, first]
      rfl
    split
    · dsimp only
      split
      · exact ⟨(idle_of_placer (trace_placer ..)).trans ((modDesc_idle ..).trans idle),
          (moving_of_placer (trace_placer ..)).trans ((modDesc_moving ..).trans moving)⟩
      · exact ⟨(idle_of_placer (trace_placer ..)).trans idle, (moving_of_placer (trace_placer ..)).trans moving⟩
    · exact ⟨idle, moving⟩
  · exact ⟨rfl, rfl⟩

/-! ### Building the migration list (R186) -/

/-- With migration off none is taken. -/
theorem buildMigrations_off {s : State} (off : s.plc.ctrlNow.getLsbD 0 = false) :
    buildMigrations s = (false, { s with plc := { s.plc with pendingMig := 0 } }) := by
  unfold buildMigrations
  simp only [off, Bool.not_false, if_true]

/-- The list that a boundary walks, and the bytes that it may move. -/
def State.toMove (s : State) : List (Nat × Desc) := s.migrationList.filter fun e => !(s.plc.taken.map (·.1)).contains e.1
def State.moveBudget (s : State) : Nat := max 1 (bits s.plc.budgetNow.toNat 15 0) * 1000000000

/-- The walk. -/
def State.walked (s : State) : State :=
  let u := { s with plc := { s.plc with pendingMig := 0 } }
  takeMigrations u.toMove true u.moveBudget u

theorem walked_takes (s : State) : ∃ taken moves,
    Takes s.toMove (takesBound true s.moveBudget) { s with plc := { s.plc with pendingMig := 0 } } s.walked taken moves :=
  takeMigrations_takes ..

theorem toMove_spec (s : State) : s.toMove.Pairwise ranked ∧ ∀ x ∈ s.toMove, x ∈ s.plc.map ∧ s.migratable x.2 = true := by
  obtain ⟨sorted, mem⟩ := migrationList_spec s
  exact ⟨sorted.filter _, fun x hx => mem x (List.mem_of_mem_filter hx)⟩

theorem buildMigrations_on {s : State} (on : s.plc.ctrlNow.getLsbD 0 = true) :
    (buildMigrations s).2 = if s.plc.current.isSome || !s.plc.taken.isEmpty then s.walked else startCopy s.walked := by
  unfold buildMigrations
  simp only [on, Bool.not_true, Bool.false_eq_true, if_false]
  rfl

/-- Building the list leaves the marks, the retired positions and the spares. -/
theorem buildMigrations_idle (s : State) : ∃ n, (buildMigrations s).2.plc.idle = { s.plc.idle with pendingMig := n } := by
  have walked : ∃ n, s.walked.plc.idle = { s.plc.idle with pendingMig := n } := by
    obtain ⟨taken, moves, h⟩ := walked_takes s
    exact ⟨_, h.idle_eq⟩
  cases on : s.plc.ctrlNow.getLsbD 0 with
  | false =>
    rw [buildMigrations_off on]
    exact ⟨0, rfl⟩
  | true =>
    rw [buildMigrations_on on]
    split
    · exact walked
    · rw [(startCopy_idle s.walked).1]
      exact walked

/-- With none under way, the handles on the move after a boundary are those that its walk took. -/
theorem buildMigrations_moving {s : State} (on : s.plc.ctrlNow.getLsbD 0 = true) (none : s.plc.current = none) (free : s.plc.taken = []) :
    ∃ taken : List (Nat × Desc), taken.map (·.1) = (buildMigrations s).2.moving.map (·.1) ∧
      (∀ x ∈ (buildMigrations s).2.moving, ∃ set rot base, x.2 = .across set rot base ∧ ∀ k ∈ set, s.eligible k = true) ∧
      (∀ x ∈ taken, x ∈ s.plc.map ∧ s.migratable x.2 = true) ∧ taken.Pairwise ranked ∧
      (taken.map (·.2.size)).sum ≤ max s.moveBudget ((taken.head?.map (·.2.size)).getD 0) := by
  obtain ⟨taken, moves, h⟩ := walked_takes s
  have moving : (buildMigrations s).2.moving = moves := by
    rw [buildMigrations_on on, none, free]
    refine (startCopy_idle s.walked).2.trans ?_
    unfold State.moving
    rw [h.current_eq, h.taken_eq, none, free]
    rfl
  obtain ⟨sorted, mem⟩ := toMove_spec s
  rw [moving]
  exact ⟨taken, h.indices, h.places, fun x hx => mem x (h.sublist.subset hx), sorted.sublist h.sublist, h.within_budget⟩

/-! ### The boundary in its stages (R185) -/

/-- The registers and the traffic have latched, and the marks are taken out. -/
def State.atBoundary (s : State) : State :=
  let u := latchTraffic (latchPlc s)
  { u with plc := { u.plc with marked := [] } }

/-- What was marked is retired. -/
def State.retiring (s : State) : State := s.plc.marked.foldl (fun u e => retire e.1 e.2 u) s.atBoundary

/-- Spares are assigned, and the round's readings start again. -/
def State.respared (s : State) : State :=
  let u := (assignSpares (latchTraffic (latchPlc s)).positions s.retiring).2
  { u with plc := { u.plc with heat := [], heatN := 0 } }

/-- A boundary ends with the migration list built, and the epoch moved on or not. -/
theorem roundBoundary_plc (s : State) : ∃ n, (roundBoundary s).plc = { (buildMigrations s.respared).2.plc with epoch := n } := by
  generalize built : buildMigrations s.respared = v
  unfold State.respared State.retiring State.atBoundary at built
  unfold roundBoundary
  extract_lets s1 marked old p s2
  have built : buildMigrations
    { (assignSpares old s2).2 with plc := { (assignSpares old s2).2.plc with heat := [], heatN := 0 } } = v := built
  generalize assignSpares old s2 = r at built ⊢
  obtain ⟨moved, s3⟩ := r
  dsimp only at built ⊢
  rw [built]
  obtain ⟨started, s4⟩ := v
  dsimp only
  split
  · exact ⟨_, rfl⟩
  · exact ⟨s4.plc.epoch, rfl⟩

theorem retiring_placer (s : State) : ∃ l, s.retiring.placer = { s.atBoundary.placer with retired := l } ∧
    ∀ x, x ∈ l ↔ x ∈ s.plc.retired ∨ ∃ e ∈ s.plc.marked, e.1 * 100 + e.2 = x :=
  retireAll_placer s.plc.marked s.atBoundary

theorem respared_placer (s : State) :
    s.respared.placer = { s.retiring.placer with spares := s.retiring.assigned, heat := [], heatN := 0 } :=
  congrArg (fun p : Plc => { p with heat := [], heatN := 0 }) (assignSpares_placer (latchTraffic (latchPlc s)).positions s.retiring)

theorem retiring_mem (s : State) : s.retiring.mem = s.mem := (foldl_mem (fun _ _ => retire_mem ..) s.plc.marked _).trans rfl

theorem respared_mem (s : State) : s.respared.mem = s.mem :=
  (assignSpares_mem (latchTraffic (latchPlc s)).positions s.retiring).trans (retiring_mem s)

theorem respared_ups (s : State) : s.respared.ups = s.ups := by
  have retiring : s.retiring.calm = s.calm := (foldl_calm _ (fun _ _ => retire_calm ..) s.plc.marked s.atBoundary).trans rfl
  exact congrArg Calm.ups ((assignSpares_calm (latchTraffic (latchPlc s)).positions s.retiring).trans retiring)

end Sys2Proof.Machine
end

section
/-! PROOFS. The placer (R171 to R187): PLACE, handles that are released, the copy of a migration, and the round boundary, by clause. -/

namespace Sys2Proof.Machine

/-! ### PLACE (R171, R175, R176) -/

/-- Where a PLACE without affinity that is not to be resident puts its lines: on all stacks that can take them, at the lowest base that is
clear of everything held. -/
theorem placeLocation_free {s : State} {p : Packet} {loc : Location} (h : s.placeLocation p = some loc)
    (resident : bit (p.num 27 1) 0 = false) (groups : p.num 43 1 = 0) :
    ∃ base, loc = .across ((List.range 12).filter s.eligible) (s.plc.placed % ((List.range 12).filter s.eligible).length) base ∧
      roomOn s.holdings ((List.range 12).filter s.eligible) (cdiv (p.num 16 8) 512) = some base := by
  have none : placeGroups p = [] := by
    unfold placeGroups
    rw [groups]
    rfl
  have hoop : s.findHoop false (p.num 16 8) [] = .none := by
    unfold State.findHoop
    simp
  unfold State.placeLocation at h
  rw [none, resident, hoop] at h
  exact findStacks_free h

theorem exec_place_spec {q : Fin 64} {p : Packet} {s : State} {pl : Plan} {r : Res} {v : State}
    (succeeds : SucceedsS q 0x12 p (planPlace p) s pl r v) (rising : (s.plc.map.map (·.1)).Pairwise (· < ·)) :
    ∃ t i e, exec (.place q p) s = .next t ∧ tfind s.plc.map i = none ∧ (∀ j, j < i → (tfind s.plc.map j).isSome = true) ∧
      tfind t.plc.map i = some e ∧ (∀ j, j ≠ i → tfind t.plc.map j = tfind s.plc.map j) ∧
      e.handle = BitVec.ofNat 32 (nextTag (tget 0 s.plc.tags i) * 65536 + i) ∧ tget 0 t.plc.tags i = nextTag (tget 0 s.plc.tags i) ∧
      e.state = .live ∧ e.size = p.num 16 8 ∧ e.writeGen = 0 ∧ e.epoch = s.plc.epoch ∧ t.plc.placed = s.plc.placed + 1 ∧
      (bit (p.num 27 1) 0 = false → p.num 43 1 = 0 →
        let set := (List.range 12).filter s.eligible
        let n := cdiv (cdiv (p.num 16 8) 512) set.length
        let clear := fun (b : Nat) => b + n ≤ dataLines ∧ ∀ x ∈ s.holdings, (∃ k ∈ (x.1.span x.2).1, k ∈ set) →
          b + n ≤ (x.1.span x.2).2.1 ∨ (x.1.span x.2).2.2 ≤ b
        ∃ base, e.location = .across set (s.plc.placed % set.length) base ∧ clear base ∧ ∀ b, b < base → ¬clear b) := by
  obtain ⟨t, u, i, loc, exec, plc, eligible, lowest, room, placer⟩ := exec_place succeeds
  obtain ⟨free, -, taken⟩ := lowestFree_spec rising (fun _ _ => Nat.zero_le _) lowest
  have map : t.plc.map = tinsert s.plc.map i (s.placedDesc p i loc) := (congrArg Plc.map placer :)
  have tags : t.plc.tags = tset 0 s.plc.tags i (nextTag (tget 0 s.plc.tags i)) := (congrArg Plc.tags placer :)
  have placed : t.plc.placed = s.plc.placed + 1 := (congrArg Plc.placed placer :)
  refine ⟨t, i, s.placedDesc p i loc, exec, free, fun j => taken j (Nat.zero_le j), by rw [map, tfind_tinsert_self],
    fun j ne => by rw [map, tfind_tinsert_ne _ _ ne], rfl, by rw [tags, tget_tset_self], rfl, rfl, rfl, rfl, placed,
    fun resident groups => ?_⟩
  obtain ⟨base, across, on⟩ := placeLocation_free room resident groups
  rw [eligible, plc] at across
  rw [eligible, holdings_of_plc plc] at on
  obtain ⟨clear, below⟩ := roomOn_spec on
  exact ⟨base, across, clearOf_heldSpans.mp clear, fun b lt h => below b lt (clearOf_heldSpans.mpr h)⟩

/-! ### Released handles (R173) -/

/-- Nothing that came before a RELEASE uses its handle any more. -/
structure State.Unused (s : State) (h : BitVec 32) (c : InFlight) : Prop where
  earlier : ∀ e ∈ s.flight, e.id < c.id → h ∉ e.named
  held : ∀ w ∈ s.mem.heldWrites, w.handle ≠ h
  current : s.plc.current.map (·.index) ≠ some (h.toNat % 65536)
  taken : ∀ e ∈ s.plc.taken, e.1 ≠ h.toNat % 65536

/-- The handle's entry goes, and then its RELEASE completes. -/
theorem releaseFree_of_unused {h : BitVec 32} {c : InFlight} {s : State} (powered : s.powered = true)
    (find : s.flight.find? (fun e => e.wait == .released h) = some c) (unused : s.Unused h c) :
    ∃ u, releaseFree h s = finishAs c.id OK 0 u ∧ u.calm = s.calm ∧ tfind u.plc.map (h.toNat % 65536) = none := by
  obtain ⟨earlier, held, current, taken⟩ := unused
  have guard : (s.powered && !(s.flight.any fun e => e.id < c.id && e.named.contains h) && !(s.mem.heldWrites.any fun w => w.handle == h) &&
      (s.plc.current.map (·.index)) ≠ some (h.toNat % 65536) && !(s.plc.taken.any fun e => e.1 == h.toNat % 65536)) = true := by
    have free := And.intro earlier (And.intro held (And.intro current taken))
    simpa [powered, and_assoc] using free
  unfold releaseFree
  simp only [find]
  rw [if_pos guard]
  split
  · exact ⟨_, rfl, forgetLines_calm .., tfind_terase_self ..⟩
  · rename_i none
    exact ⟨s, rfl, rfl, none⟩

theorem exec_releaseFree {h : BitVec 32} {c : InFlight} {s : State} (powered : s.powered = true)
    (find : s.flight.find? (fun e => e.wait == .released h) = some c) (unused : s.Unused h c) (clocked : s.clocked = true)
    (free : s.lets (releaseFree h)) :
    ∃ t, exec (.releaseFree h) s = .next t ∧ tfind t.plc.map (h.toNat % 65536) = none ∧ t.live h = false ∧
      c.id ∉ t.flight.map (·.id) := by
  obtain ⟨u, e, calm, gone⟩ := releaseFree_of_unused powered find unused
  have none : tfind (finishAs c.id OK 0 u).plc.map (h.toNat % 65536) = none := by
    rw [map_of_placer (finishAs_placer ..)]
    exact gone
  have running : u.clocked = true := by
    unfold State.clocked
    rw [show u.pins = s.pins from congrArg Calm.pins calm]
    exact clocked
  refine ⟨finishAs c.id OK 0 u, congrArg Host.Outcome.next ((unlessOver_lets free).trans e), none, ?_, ?_⟩
  · unfold State.live State.desc
    simp only [none]
    rfl
  · rw [finishAs_flight _ _ _ _ running]
    simp

/-- A handle that an earlier command or a write held back names stays. -/
theorem exec_releaseFree_used {h : BitVec 32} {c : InFlight} {s : State}
    (find : s.flight.find? (fun e => e.wait == .released h) = some c)
    (used : (∃ e ∈ s.flight, e.id < c.id ∧ h ∈ e.named) ∨ ∃ w ∈ s.mem.heldWrites, w.handle = h) (free : s.mem.journalOver = false) :
    exec (.releaseFree h) s = .next s := by
  have stays : releaseFree h s = s := by
    unfold releaseFree
    simp only [find]
    refine if_neg ?_
    rcases used with ⟨e, mem, early, names⟩ | ⟨w, mem, eq⟩
    · have any : (s.flight.any fun e => e.id < c.id && e.named.contains h) = true :=
        List.any_eq_true.mpr ⟨e, mem, by simp [early, names]⟩
      simp only [any, Bool.not_true, Bool.and_false, Bool.false_and, Bool.false_eq_true, not_false_eq_true]
    · have any : (s.mem.heldWrites.any fun w => w.handle == h) = true := List.any_eq_true.mpr ⟨w, mem, by simp [eq]⟩
      simp only [any, Bool.not_true, Bool.and_false, Bool.false_and, Bool.false_eq_true, not_false_eq_true]
  exact congrArg Host.Outcome.next (unlessOver_of _ s s (by rw [unheld_eq free, stays]) free)

/-! ### The copy of a migration (R187, R291) -/

theorem exec_migrationResume {m : Migration} {d : Desc} {s : State} (powered : s.powered = true) (current : s.plc.current = some m)
    (find : tfind s.plc.map m.index = some d) (stopped : m.stopped = true) (stage : 4 ≤ s.ups.stage)
    (old : s.locationReady d.location = true) (new : s.locationReady m.newLoc = true) :
    exec .migrationResume s = .next { s with plc := { s.plc with current := some { m with stopped := false } } } := by
  refine congrArg Host.Outcome.next ?_
  unfold migrationResume
  simp only [current, find]
  exact if_pos (by simp [powered, stopped, stage, old, new])

theorem exec_migrationCopy_stopped {m : Migration} {s : State} (current : s.plc.current = some m) (stopped : m.stopped = true)
    (free : s.mem.journalOver = false) : exec .migrationCopy s = .next s := by
  have stays : migrationCopy s = s := by
    unfold migrationCopy
    simp only [current]
    exact if_pos (by simp [stopped])
  exact congrArg Host.Outcome.next (unlessOver_of _ s s (by rw [unheld_eq free, stays]) free)

theorem takeMoved_placer (d : Desc) (newLoc : Location) (line : Nat) (s : State) : (takeMoved d newLoc line s).2.placer = s.placer := by
  have read := readLine_placer s (d.location.line line) { handle := d.handle, offset := line * 512 }
  unfold takeMoved
  dsimp only
  split
  · rename_i e
    rw [← placer_of_snd read e]
    exact placer_ite_snd (reportCrc_placer ..) (placer_ite_snd rfl rfl)
  · rename_i e
    exact placer_of_snd read e

theorem takeMovedLines_placer (d : Desc) (newLoc : Location) (line n : Nat) (s : State) :
    (takeMovedLines d newLoc line n s).2.placer = s.placer := by
  induction n generalizing line s with
  | zero => rfl
  | succ n ih => exact (ih ..).trans (takeMoved_placer ..)

theorem putMoved_placer (d : Desc) (newLoc : Location) (line : Nat) (m : Moved) (s : State) :
    (putMoved d newLoc line m s).placer = s.placer := by
  refine (count_placer ..).trans ?_
  split
  · exact writeLine_placer ..
  · exact forget_placer ..
  · exact enterPoison_placer ..

theorem putMovedLines_placer (d : Desc) (newLoc : Location) (line : Nat) (l : List Moved) (s : State) :
    (putMovedLines d newLoc line l s).placer = s.placer := by
  induction l generalizing line s with
  | nil => rfl
  | cons m l ih => exact (ih ..).trans (putMoved_placer ..)

/-- The descriptor of a handle whose copy has finished, in an epoch. -/
def Desc.movedTo (d : Desc) (loc : Location) (epoch : Nat) : Desc :=
  { d with location := loc, epoch := epoch, state := if d.state = .releasing then .releasing else .live }

/-- The state once a copy has finished, its handle moved; the next one may start. -/
def State.copied (v : State) (m : Migration) (d : Desc) : State :=
  let t := trace tPLACEMENT 3 0xFF 0xFFFF [d.handle.toNat] (modDesc m.index (fun d => d.movedTo m.newLoc v.plc.epoch) v)
  { t with plc := { t.plc with current := none } }

/-- The copy moves lines, which leaves the placer alone, and then changes the descriptor. -/
theorem migrationCopy_eq {m : Migration} {d : Desc} {s : State} (powered : s.powered = true) (current : s.plc.current = some m)
    (find : tfind s.plc.map m.index = some d) (runs : m.stopped = false) :
    ∃ v : State, v.placer = s.placer ∧ migrationCopy s = startCopy (v.copied m d) := by
  unfold migrationCopy
  simp only [current, find, powered, runs, Bool.not_true, Bool.or_self, Bool.false_eq_true, if_false]
  have taken := takeMovedLines_placer d m.newLoc m.pointer (d.lines - m.pointer) s
  generalize takeMovedLines d m.newLoc m.pointer (d.lines - m.pointer) s = r at taken ⊢
  obtain ⟨l, u⟩ := r
  have put := (forget_placer (putMovedLines d m.newLoc m.pointer l u) fun id =>
    d.location.covers d.lines id && !m.newLoc.covers d.lines id).trans ((putMovedLines_placer ..).trans taken)
  dsimp only
  generalize forget (fun id => d.location.covers d.lines id && !m.newLoc.covers d.lines id) (putMovedLines d m.newLoc m.pointer l u) = v
    at put ⊢
  exact ⟨v, put, rfl⟩

theorem copied_spec {v : State} {m : Migration} {d : Desc} (find : tfind v.plc.map m.index = some d) :
    (v.copied m d).plc.current = none ∧ (v.copied m d).plc.taken = v.plc.taken ∧ (v.copied m d).plc.epoch = v.plc.epoch ∧
      tfind (v.copied m d).plc.map m.index = some (d.movedTo m.newLoc v.plc.epoch) := by
  have moved : modDesc m.index (fun d => d.movedTo m.newLoc v.plc.epoch) v =
      { v with plc := { v.plc with map := tinsert v.plc.map m.index (d.movedTo m.newLoc v.plc.epoch) } } := by
    unfold modDesc
    simp only [find]
  unfold State.copied
  rw [moved]
  generalize hw : ({ v with plc := { v.plc with map := tinsert v.plc.map m.index (d.movedTo m.newLoc v.plc.epoch) } } : State) = w
  have traced := trace_placer w tPLACEMENT 3 0xFF 0xFFFF [d.handle.toNat]
  refine ⟨rfl, (taken_of_placer traced).trans (hw ▸ rfl), (epoch_of_placer traced).trans (hw ▸ rfl), ?_⟩
  have map := map_of_placer traced
  refine (congrArg (tfind · m.index) map).trans ?_
  rw [← hw]
  exact tfind_tinsert_self ..

theorem exec_migrationCopy {m : Migration} {d : Desc} {s : State} (powered : s.powered = true) (current : s.plc.current = some m)
    (find : tfind s.plc.map m.index = some d) (runs : m.stopped = false) (last : s.plc.taken = []) (free : s.lets migrationCopy) :
    ∃ t u, exec .migrationCopy s = .next t ∧ t.plc.current = none ∧ tfind t.plc.map m.index = some u ∧ u.location = m.newLoc ∧
      u.epoch = t.plc.epoch ∧ u.state = (if d.state = .releasing then .releasing else .live) ∧ u.size = d.size ∧
      u.writeGen = d.writeGen ∧ u.handle = d.handle := by
  obtain ⟨v, placer, e⟩ := migrationCopy_eq powered current find runs
  obtain ⟨idle, taken, epoch, map⟩ := copied_spec (v := v) (m := m) (d := d) (by rw [map_of_placer placer]; exact find)
  have none : (v.copied m d).plc.taken = [] := taken.trans ((taken_of_placer placer).trans last)
  rw [startCopy_of_none none] at e
  exact ⟨_, _, congrArg Host.Outcome.next ((unlessOver_lets free).trans e), idle, map, rfl, epoch.symm, rfl, rfl, rfl, rfl⟩

/-! ### The round boundary (R181, R183, R185, R186) -/

/-- A handle of the map with the traffic of the round that ends. -/
def State.withTraffic (s : State) (x : Nat × Desc) : Nat × Desc :=
  (x.1, { x.2 with traffic := sat 4294967295 (tget 0 s.plc.running x.1) })

/-- The fields of a placer in which positions have been retired and spares assigned since. -/
theorem fields_of_respared {u v w : State} {l : List Nat} {spares : Tab Nat} (retiring : u.placer = { w.placer with retired := l })
    (respared : v.placer = { u.placer with spares := spares, heat := [], heatN := 0 }) :
    v.plc.ctrlNow = w.plc.ctrlNow ∧ v.plc.budgetNow = w.plc.budgetNow ∧ v.plc.current = w.plc.current ∧ v.plc.taken = w.plc.taken ∧
      v.plc.map = w.plc.map ∧ v.plc.marked = w.plc.marked ∧ v.plc.retired = u.plc.retired ∧ v.plc.spares = spares := by
  have retired : v.plc.retired = u.plc.retired := (congrArg Plc.retired respared :)
  rw [retiring] at respared
  exact ⟨(congrArg Plc.ctrlNow respared :), (congrArg Plc.budgetNow respared :), (congrArg Plc.current respared :),
    (congrArg Plc.taken respared :), (congrArg Plc.map respared :), (congrArg Plc.marked respared :), retired,
    (congrArg Plc.spares respared :)⟩

/-- What a boundary has latched when it builds the migration list, and what it has left. -/
theorem respared_fields (s : State) :
    s.respared.plc.ctrlNow = s.plc.ctrl ∧ s.respared.plc.budgetNow = s.plc.migBudget ∧ s.respared.plc.current = s.plc.current ∧
      s.respared.plc.taken = s.plc.taken ∧ s.respared.plc.map = s.plc.map.map s.withTraffic ∧ s.respared.plc.marked = [] ∧
      s.respared.plc.retired = s.retiring.plc.retired ∧ s.respared.plc.spares = s.retiring.assigned := by
  obtain ⟨l, retiring, -⟩ := retiring_placer s
  exact fields_of_respared retiring (respared_placer s)

theorem fields_of_idle {p q : Plc} {n : Nat} (h : p.idle = { q.idle with pendingMig := n }) :
    p.marked = q.marked ∧ p.retired = q.retired ∧ p.spares = q.spares :=
  ⟨(congrArg Plc.marked h :), (congrArg Plc.retired h :), (congrArg Plc.spares h :)⟩

/-- Building the migration list and counting the epoch leave the marks, the retired positions and the spares. -/
theorem roundBoundary_fields (s : State) :
    (roundBoundary s).plc.marked = [] ∧ (roundBoundary s).plc.retired = s.retiring.plc.retired ∧
      (roundBoundary s).plc.spares = s.retiring.assigned := by
  obtain ⟨n, boundary⟩ := roundBoundary_plc s
  obtain ⟨k, built⟩ := buildMigrations_idle s.respared
  obtain ⟨-, -, -, -, -, marked, retired, spares⟩ := respared_fields s
  obtain ⟨sameMarked, sameRetired, sameSpares⟩ := fields_of_idle built
  rw [boundary]
  exact ⟨sameMarked.trans marked, sameRetired.trans retired, sameSpares.trans spares⟩

theorem retired_iff (s : State) (die pos : Nat) : s.retired die pos = true ↔ die * 100 + pos ∈ s.plc.retired := List.contains_iff_mem

theorem roundBoundary_retired (s : State) (die pos : Nat) : (roundBoundary s).retired die pos = s.retiring.retired die pos := by
  unfold State.retired
  rw [(roundBoundary_fields s).2.1]

/-- What was marked is retired. -/
theorem roundBoundary_retires (s : State) (die pos : Nat) :
    (roundBoundary s).retired die pos = true ↔ s.retired die pos = true ∨ ∃ x ∈ s.plc.marked, x.1 * 100 + x.2 = die * 100 + pos := by
  obtain ⟨l, retiring, mem⟩ := retiring_placer s
  have retired : s.retiring.plc.retired = l := (congrArg Plc.retired retiring :)
  rw [roundBoundary_retired, retired_iff, retired_iff, retired, mem]

/-- Each group's spare goes to its lowest retired home. -/
theorem roundBoundary_spares {s : State} {die g : Nat} (hd : die < 2) (hg : g < 4) :
    let t := roundBoundary s
    (t.retired die (25 * g + 24) = true → tfind t.plc.spares (die * 4 + g) = none) ∧
    (t.retired die (25 * g + 24) = false →
      (∀ k, k < 24 → t.retired die (25 * g + k) = true → (∀ j, j < k → t.retired die (25 * g + j) = false) →
        tfind t.plc.spares (die * 4 + g) = stakeAt die (25 * g + k)) ∧
      ((∀ k, k < 24 → t.retired die (25 * g + k) = false) → s.plc.ctrl.getLsbD 1 = false →
        tfind t.plc.spares (die * 4 + g) = tfind s.plc.spares (die * 4 + g))) := by
  obtain ⟨-, -, spares⟩ := roundBoundary_fields s
  obtain ⟨l, retiring, -⟩ := retiring_placer s
  have before : s.retiring.plc.spares = s.plc.spares := (congrArg Plc.spares retiring :)
  have ctrl : s.retiring.plc.ctrlNow = s.plc.ctrl := (congrArg Plc.ctrlNow retiring :)
  simp only [roundBoundary_retired, spares, tfind_assigned hd hg]
  refine ⟨assignment_of_retired_spare, fun spare => ⟨fun k hk home lowest => assignment_of_retired_home spare hk home lowest,
    fun homes off => ?_⟩⟩
  rw [assignment_of_none spare homes (by rw [ctrl]; exact off), before]

theorem roundBoundary_off {s : State} (off : s.plc.ctrl.getLsbD 0 = false) :
    (roundBoundary s).plc.taken = s.plc.taken ∧ (roundBoundary s).plc.current = s.plc.current ∧ (roundBoundary s).plc.pendingMig = 0 := by
  obtain ⟨n, boundary⟩ := roundBoundary_plc s
  obtain ⟨ctrl, -, current, taken, -⟩ := respared_fields s
  rw [buildMigrations_off (by rw [ctrl]; exact off)] at boundary
  rw [boundary]
  exact ⟨taken, current, rfl⟩

/-- Elements of a mapped list are mapped ones. -/
theorem exists_map_eq {α β : Type} {f : α → β} {m : List α} {l : List β} (h : ∀ x ∈ l, x ∈ m.map f) :
    ∃ k : List α, k.map f = l ∧ ∀ y ∈ k, y ∈ m := by
  induction l with
  | nil => exact ⟨[], rfl, by simp⟩
  | cons x l ih =>
    obtain ⟨first, rest⟩ := List.forall_mem_cons.mp h
    obtain ⟨y, mem, e⟩ := List.mem_map.mp first
    obtain ⟨k, eq, sub⟩ := ih rest
    exact ⟨y :: k, by rw [List.map_cons, e, eq], List.forall_mem_cons.mpr ⟨mem, sub⟩⟩

/-- With migration enabled and none under way, a boundary takes handles of DEGRADED stacks in descending traffic, within the budget. -/
theorem roundBoundary_on {s : State} (on : s.plc.ctrl.getLsbD 0 = true) (idle : s.plc.current = none) (free : s.plc.taken = []) :
    (∀ x ∈ (roundBoundary s).moving, ∃ set rot base, x.2 = .across set rot base ∧ ∀ k ∈ set, s.eligible k = true) ∧
    ∃ l : List (Nat × Desc), l.map (·.1) = (roundBoundary s).moving.map (·.1) ∧ (∀ x ∈ l, x ∈ s.plc.map ∧ s.migratable x.2 = true) ∧
      l.Pairwise (fun x y => min 4294967295 (tget 0 s.plc.running y.1) ≤ min 4294967295 (tget 0 s.plc.running x.1)) ∧
      (l.map (·.2.size)).sum ≤
        max (max 1 (bits s.plc.migBudget.toNat 15 0) * 1000000000) ((l.head?.map (·.2.size)).getD 0) := by
  obtain ⟨ctrl, budget, current, taken, map, -⟩ := respared_fields s
  obtain ⟨n, boundary⟩ := roundBoundary_plc s
  obtain ⟨l, indices, places, mem, sorted, within⟩ := buildMigrations_moving (s := s.respared) (by rw [ctrl]; exact on)
    (by rw [current]; exact idle) (by rw [taken]; exact free)
  have moving : (roundBoundary s).moving = (buildMigrations s.respared).2.moving := by
    unfold State.moving
    rw [boundary]
  have eligible : s.respared.eligible = s.eligible := eligible_of_mem (by rw [respared_mem]) (respared_ups s)
  obtain ⟨k, rfl, sub⟩ := exists_map_eq (f := s.withTraffic) (m := s.plc.map) (l := l) fun x hx => map ▸ (mem x hx).1
  have movable : s.respared.moveBudget = max 1 (bits s.plc.migBudget.toNat 15 0) * 1000000000 := by
    unfold State.moveBudget
    rw [budget]
  rw [moving, ← eligible]
  refine ⟨places, k, ?_, fun x hx => ⟨sub x hx, ?_⟩, ?_, ?_⟩
  · rw [← indices, List.map_map]
    rfl
  · have h := (mem _ (List.mem_map_of_mem hx)).2
    rw [migratable_of_mem (respared_mem s)] at h
    exact h
  · refine (List.pairwise_map.mp sorted).imp fun {x y} h => ?_
    rw [← sat_eq_min, ← sat_eq_min]
    exact h
  · rw [movable, List.map_map, List.head?_map, Option.map_map] at within
    exact within

/-- Settles O49: a lemma per clause. Which operations leave the placer alone is `State.placer`; the lowest base is `lowestBase_spec`, and what
a walk of the migration list takes is `Takes`. -/
theorem handlesMoveAndGo : Obligations.HandlesMoveAndGo :=
  fun _ _ _ _ s powered =>
    ⟨fun _ _ _ _ _ => exec_place_spec,
      fun find => ⟨fun earlier held current taken clocked free => exec_releaseFree powered find ⟨earlier, held, current, taken⟩ clocked free,
        exec_releaseFree_used find⟩,
      fun current find => ⟨exec_migrationResume powered current find, exec_migrationCopy_stopped current,
        exec_migrationCopy powered current find⟩,
      (roundBoundary_fields s).1, fun die pos _ => roundBoundary_retires s die pos, fun _ _ _ hd hg => roundBoundary_spares hd hg,
      roundBoundary_off, roundBoundary_on⟩

end Sys2Proof.Machine
end

section
/-! SUPPORT. The queues' registers and the tokens (R190 to R195, R198), and that every command answers a next state: what the writes of
the token registers do, and the states in which a queue's index invariant and the QUE_CTRL write come out otherwise than stated. -/

namespace Sys2Proof.Machine

/-- Settles O3: each arm of `exec` answers a next state as it stands, since what is refused is a status, a bit or a state. -/
theorem everyCommandRuns : Obligations.EveryCommandRuns := by
  intro c s
  cases c <;> exact ⟨_, rfl⟩

/-! ### Identifiers of commands in flight -/

/-- A packet with its flags, tokens and tag 0 and the given bytes 16 to 63. -/
def plainPacket (params : List Byte) : Packet :=
  { flags := 0, layerId := 0xFFFF, operatorId := 0, tag := 0, waitToken := 0, signalToken := 0, params }

/-- SCHEDULE_SET with CLEAR of entry 16 (R258). -/
def clearEntry16 : Packet := plainPacket ([16, 1] ++ List.replicate 46 0)

/-- A sequencer-path command of queue 1 in flight, under the identifier that the next command to issue gets. -/
def namesake : InFlight := { fresh 1 0x00 (plainPacket (List.replicate 48 0)) false State.reset with seqr := 1 }

/-- In full service, queue 0 under an operator's binding with one packet at its head, the management queue empty, and 256 commands in
flight that share the next identifier. -/
def namesakes : State :=
  { State.reset with
    pending := [.scheduleSet 0 clearEntry16]
    ups := { stage := 6, service := 2 }
    que := { queues := [(0, { enable := true, sqTail := 1,
                              binding := some { session := 1, role := .operator, holder := .slot 0, key := ⟨1, 1⟩ } })] }
    flight := List.replicate 256 namesake }

theorem inRings_default : ({} : Queue).inRings := by
  unfold Queue.inRings
  decide

theorem namesakes_queuesOk : namesakes.queuesOk := by
  refine ⟨fun q => ?_, by decide +kernel⟩
  cases q with
  | zero =>
    unfold Queue.inRings
    decide
  | succ q => exact inRings_default

/-- Where commands in flight share an identifier, a firmware command that runs turns all of them into itself (`setInflight`): the
management queue then counts 257. -/
theorem step_namesakes_mgmtDepth :
    (match step namesakes with
     | .next t => t.mgmtDepth
     | _ => 0) = 257 := by decide +kernel

/-- Refutes O15: the invariant does not say that identifiers of commands in flight differ, and without that one step takes the management
queue from 0 commands to 257. -/
theorem not_doorbellsSetTheirIndex : ¬ Obligations.DoorbellsSetTheirIndex := by
  rintro ⟨⟨-, kept⟩, -⟩
  obtain ⟨t, e⟩ := everyCommandRuns (.scheduleSet 0 clearEntry16) { namesakes with pending := [] }
  have e : step namesakes = .next t := e
  have depth := step_namesakes_mgmtDepth
  rw [e] at depth
  have bound := (kept namesakes t namesakes_queuesOk e).2
  dsimp only at depth
  omega

/-! ### QUE_CTRL (R194) -/

/-- In full service, queue 0 enabled, and the module knows the packet at the head of its ring (log 62). -/
def headKnown : State :=
  { State.reset with
    ups := { stage := 6, service := 2 }
    que := { queues := [(0, { enable := true, sqTail := 1, head := some { ordinal := 0, fence := false, token := 0 } })] } }

/-- Refutes O16: a QUE_CTRL write that clears ENABLE and leaves the configuration as it is also makes the module forget the head that it
knows, which is no field that the statement lets change. -/
theorem not_queueControlWrite : ¬ Obligations.QueueControlWrite := by
  intro h
  have written := (h 0 0 headKnown (by decide)).1 (by decide)
  have heads := congrArg (fun o => match o with
    | Host.Outcome.next t => (t.queue 0).head
    | _ => none) written
  exact absurd heads (by decide)

/-! ### Tokens (R195, R198) -/

theorem exec_queTokenSet {w : Word} {s : State} (h : s.responds 0x00011000 = true) :
    exec (.queTokenSet w) s = .next (signalToken (w.toNat % 65536) s) :=
  congrArg Host.Outcome.next (if_pos h)

theorem tokenSlot_mod (w : Nat) : tokenSlot (w % 65536) = w % 2 ^ 15 := by
  unfold tokenSlot
  omega

theorem tokenPhase_mod (w : Word) : tokenPhase (w.toNat % 65536) = w.getLsbD 15 := by
  unfold tokenPhase bit
  rw [← BitVec.testBit_toNat, Nat.testBit_eq_decide_div_mod_eq, show w.toNat % 65536 / 2 ^ 15 % 2 = w.toNat / 2 ^ 15 % 2 by omega]
  rfl

theorem signalToken_zero {t : Nat} (h : tokenSlot t = 0) (s : State) : signalToken t s = s := if_pos h

theorem signalToken_slot {t : Nat} (h : tokenSlot t ≠ 0) (s : State) :
    signalToken t s = { s with que := { s.que with tokens := tset false s.que.tokens (tokenSlot t) (tokenPhase t) } } := if_neg h

theorem holds_zero {t : Nat} (h : tokenSlot t = 0) (s : State) : s.holds t = true := by simp [State.holds, h]

theorem holds_slot {t : Nat} (h : tokenSlot t ≠ 0) (s : State) :
    s.holds t = (tget false s.que.tokens (tokenSlot t) == tokenPhase t) := by simp [State.holds, h]

/-- A wait on a token holds once the token has been signalled. -/
theorem holds_signalToken (t : Nat) (s : State) : (signalToken t s).holds t = true := by
  by_cases h : tokenSlot t = 0
  · exact holds_zero h _
  · rw [holds_slot h, signalToken_slot h]
    simp [tget_tset_self]

/-- Signalling a token changes the waits on no other slot. -/
theorem holds_signalToken_ne {t x : Nat} (h : tokenSlot x ≠ tokenSlot t) (s : State) : (signalToken t s).holds x = s.holds x := by
  by_cases k : tokenSlot t = 0
  · rw [signalToken_zero k]
  · rw [signalToken_slot k]
    simp [State.holds, tget_tset_ne _ _ _ h]

theorem signalToken_parts (t : Nat) (s : State) :
    ∃ tokens, signalToken t s = { s with que := { s.que with tokens := tokens } } := by
  unfold signalToken
  split
  · exact ⟨_, rfl⟩
  · exact ⟨_, rfl⟩

/-- With every token cleared, a wait for phase 0 holds. -/
theorem holds_of_cleared {s : State} (h : s.que.tokens = []) {x : Nat} (k : x < 2 ^ 15) : s.holds x = true := by
  have phase : tokenPhase x = false := by
    unfold tokenPhase bit
    rw [Nat.div_eq_of_lt k]
    rfl
  simp [State.holds, h, phase, tget, tfind]

/-- Settles O17: the register's low 16 bits are the token, and signalling and waiting ask for its slot first. -/
theorem tokenZeroIsNone : Obligations.TokenZeroIsNone := by
  intro w s responds
  rw [exec_queTokenSet responds]
  refine ⟨fun zero => ?_, fun slot => ?_⟩
  · have zero : tokenSlot (w.toNat % 65536) = 0 := (tokenSlot_mod _).trans zero
    exact ⟨congrArg _ (signalToken_zero zero s), holds_zero zero s⟩
  · have slot : tokenSlot (w.toNat % 65536) ≠ 0 := fun e => slot ((tokenSlot_mod _).symm.trans e)
    rw [signalToken_slot slot, ← tokenSlot_mod, ← tokenPhase_mod]
    exact ⟨rfl, holds_slot slot s⟩

/-- Settles O18: what holds after a signal is `holds_signalToken`, what it leaves alone `holds_signalToken_ne`, and a clear lists no
token. -/
theorem signalledTokenHolds : Obligations.SignalledTokenHolds := by
  intro w s responds
  have clears : (signalToken (w.toNat % 65536) s).responds 0x00011004 = true := by
    obtain ⟨tokens, e⟩ := signalToken_parts (w.toNat % 65536) s
    rw [e]
    exact responds
  refine ⟨_, exec_queTokenSet responds, holds_signalToken _ s, fun x other => holds_signalToken_ne ?_ s,
    _, exec_queTokenClear clears, fun x => holds_of_cleared rfl⟩
  rw [tokenSlot_mod]
  exact other

end Sys2Proof.Machine
end

section
/-! SUPPORT. A completion, in the order of its parts (R198 to R202): the command leaves the flight and its result is noted, its token is
signalled, its reply is written, and its queue stops on an error; and what each part leaves in its queue, in the tokens and in the
MEM_ block. -/

namespace Sys2Proof.Machine

/-! ### The operations that a completion shares with others -/

/-- An interrupt changes LNK_ and the messages sent alone. -/
theorem signalVector_parts (v : Nat) (s : State) :
    ∃ lnk ms, signalVector v s = { s with lnk := lnk, out := { s.out with messages := ms } } := by
  unfold signalVector
  split
  · exact ⟨_, _, rfl⟩
  · unfold sendMessage
    split <;> exact ⟨_, _, rfl⟩

theorem raiseTrc_parts (b : Nat) (s : State) :
    ∃ trc lnk ms, raiseTrc b s = { s with trc := trc, lnk := lnk, out := { s.out with messages := ms } } := by
  obtain ⟨lnk, ms, e⟩ := signalVector_parts 64 { s with trc := { s.trc with status := s.trc.status.raise b } }
  exact ⟨_, lnk, ms, e⟩

/-- A trace record changes TRC_, LNK_ and the messages sent alone. -/
theorem traceWith_parts (typ sub source : Nat) (layer : BitVec 16) (payload : List Nat) (cls : Nat) (force : Bool) (s : State) :
    ∃ trc lnk ms, traceWith typ sub source layer payload cls force s =
      { s with trc := trc, lnk := lnk, out := { s.out with messages := ms } } := by
  unfold traceWith
  dsimp only
  generalize Trc.accept _ _ _ _ = taken
  obtain ⟨trc, triggered, stopped⟩ := taken
  have first : ∃ x l m, (if triggered = true then raiseTrc 0 { s with trc := trc } else { s with trc := trc }) =
      { s with trc := x, lnk := l, out := { s.out with messages := m } } := by
    split
    · exact raiseTrc_parts 0 { s with trc := trc }
    · exact ⟨_, _, _, rfl⟩
  obtain ⟨x, l, m, e⟩ := first
  dsimp only
  rw [e]
  split
  · exact raiseTrc_parts 1 { s with trc := x, lnk := l, out := { s.out with messages := m } }
  · exact ⟨_, _, _, rfl⟩

/-- A status bit of a queue changes that queue's status group, LNK_ and the messages sent alone. -/
theorem raiseQue_parts (q b : Nat) (s : State) : ∃ lnk ms, raiseQue q b s =
    { s.setQueue q { s.queue q with status := (s.queue q).status.raise b } with lnk := lnk, out := { s.out with messages := ms } } :=
  signalVector_parts 64 _

theorem queue_raiseQue (q b : Nat) (s : State) : (raiseQue q b s).queue q = { s.queue q with status := (s.queue q).status.raise b } :=
  (queue_of_que (signalVector_que ..) q).trans (queue_setQueue ..)

theorem queue_disableQueue (q : Nat) (s : State) : (disableQueue q s).queue q = { s.queue q with enable := false, head := none } :=
  queue_setQueue ..

/-! ### The parts of a completion -/

/-- The state in which a command has left the flight and its result is noted: in the round's statistics, in the trace, and in the
interrupts that the trace sends. -/
def noted (c : InFlight) (tns : Tns) (trc : Trc) (lnk : Lnk) (ms : List Nat) (s : State) : State :=
  { dropInflight c.id s with tns := tns, trc := trc, lnk := lnk, out := { s.out with messages := ms } }

/-- The command's token is signalled where it asks for it and its status has class 0x00 (R198, R201). -/
def signalEnd (c : InFlight) (s : State) : State :=
  if statusClass c.status.toNat == 0 && c.packet.signalAfter then signalToken c.packet.signalToken.toNat s else s

/-- The command's reply is written, where it has one (R202). -/
def replyEnd (c : InFlight) (late : Bool) (s : State) : State :=
  if replies c.opcode c.status.toNat c.packet.replyAlways then
    writeReply c.queue c.packet.tag.toNat c.status.toNat c.detail.toNat c.round.toNat c.rewoven late c.firmware s
  else s

/-- The command's queue stops on an error that asks for it (R201). -/
def stopEnd (c : InFlight) (s : State) : State :=
  if !(statusClass c.status.toNat == 0) && (s.queue c.queue).stopOnError then raiseQue c.queue 3 (disableQueue c.queue s) else s

theorem mergeStats_parts (c : InFlight) (s : State) : ∃ tns, (mergeStats c s).2 = { s with tns := tns } := by
  unfold mergeStats
  split
  · exact ⟨_, rfl⟩
  · split <;> exact ⟨_, rfl⟩

theorem noteCompare_parts (c : InFlight) (s : State) : ∃ tns, noteCompare c s = { s with tns := tns } := by
  unfold noteCompare
  split <;> exact ⟨_, rfl⟩

theorem noteVerify_parts (c : InFlight) (s : State) : ∃ tns, noteVerify c s = { s with tns := tns } := by
  unfold noteVerify
  split <;> exact ⟨_, rfl⟩

theorem resultNoted_parts (c : InFlight) (s : State) :
    ∃ tns, noteVerify c (noteCompare c (mergeStats c (dropInflight c.id s)).2) = { dropInflight c.id s with tns := tns } := by
  obtain ⟨_, e⟩ := mergeStats_parts c (dropInflight c.id s)
  rw [e]
  obtain ⟨_, e⟩ := noteCompare_parts c _
  rw [e]
  obtain ⟨tns, e⟩ := noteVerify_parts c _
  exact ⟨tns, e⟩

/-- A completion's notes, the COMPLETE record of the trace among them. -/
theorem noted_parts (c : InFlight) (s : State) : ∃ tns trc lnk ms,
    (let u := noteVerify c (noteCompare c (mergeStats c (dropInflight c.id s)).2)
     if statusClass c.status.toNat == 0 && !u.trc.completeAll then u
     else traceWith tCOMPLETE 0 c.seqr c.packet.layerId [c.packet.tag.toNat, c.status.toNat, c.opcode, c.queue]
       (statusClass c.status.toNat) false u) = noted c tns trc lnk ms s := by
  obtain ⟨tns, e⟩ := resultNoted_parts c s
  rw [e]
  dsimp only
  split
  · exact ⟨tns, _, _, _, rfl⟩
  · obtain ⟨trc, lnk, ms, e⟩ := traceWith_parts tCOMPLETE 0 c.seqr c.packet.layerId
      [c.packet.tag.toNat, c.status.toNat, c.opcode, c.queue] (statusClass c.status.toNat) false { dropInflight c.id s with tns := tns }
    exact ⟨tns, trc, lnk, ms, e⟩

/-- A completion is its parts in order; one that a function-level reset lets end stops after the first. -/
theorem complete_eq (c : InFlight) {s : State} (clocked : s.clocked = true) : ∃ late tns trc lnk ms, complete c s =
    if c.orphan then noted c tns trc lnk ms s
    else stopEnd c (replyEnd c late (signalEnd c (noted c tns trc lnk ms s))) := by
  obtain ⟨tns, trc, lnk, ms, e⟩ := noted_parts c s
  refine ⟨(mergeStats c (dropInflight c.id s)).1, tns, trc, lnk, ms, ?_⟩
  rw [← e]
  unfold complete
  rw [if_neg (by simp [clocked])]
  rfl

/-! ### What each part leaves -/

theorem signalEnd_parts (c : InFlight) (s : State) : ∃ tokens, signalEnd c s = { s with que := { s.que with tokens := tokens } } := by
  unfold signalEnd
  split
  · exact signalToken_parts ..
  · exact ⟨_, rfl⟩

/-- A queue whose reply has been written: the tail moves on, and the phase inverts at the wrap. -/
def Queue.replied (v : Queue) : Queue :=
  { v with cqTail := (v.cqTail + 1) % v.cqSize, phase := if (v.cqTail + 1) % v.cqSize = 0 then !v.phase else v.phase }

/-- A queue whose reply has been lost: disabled, with CQ_ERR. -/
def Queue.lost (v : Queue) : Queue := { v with enable := false, head := none, status := v.status.raise 2 }

theorem replied_parts (q : Nat) (b : List Byte) (s : State) : ∃ log lnk ms, Machine.replied q b s =
    { s with que := { s.que with queues := tset {} s.que.queues q (s.queue q).replied, replies := log },
             lnk := lnk, out := { s.out with messages := ms } } := by
  unfold Machine.replied
  dsimp only
  obtain ⟨lnk, ms, e⟩ := signalVector_parts q _
  rw [e]
  exact ⟨_, lnk, ms, rfl⟩

theorem replyLost_parts (q : Nat) (s : State) : ∃ lnk ms, replyLost q s =
    { s with que := { s.que with queues := tset {} (disableQueue q s).que.queues q (s.queue q).lost },
             lnk := lnk, out := { s.out with messages := ms } } := by
  obtain ⟨lnk, ms, e⟩ := raiseQue_parts q 2 (disableQueue q s)
  refine ⟨lnk, ms, e.trans ?_⟩
  rw [queue_disableQueue]
  rfl

theorem queue_replied (q : Nat) (b : List Byte) (s : State) : (Machine.replied q b s).queue q = (s.queue q).replied := by
  obtain ⟨log, lnk, ms, e⟩ := replied_parts q b s
  rw [e]
  exact tget_tset_self ..

theorem queue_replyLost (q : Nat) (s : State) : (replyLost q s).queue q = (s.queue q).lost := by
  obtain ⟨lnk, ms, e⟩ := replyLost_parts q s
  rw [e]
  exact tget_tset_self ..

/-- A reply in device memory: its write, and then its end as the write went. -/
theorem writeToTail_eq (q : Nat) (h : BitVec 32) (b : List Byte) (s : State) :
    let w := writeBytes h ((s.queue q).cqBase.toNat + 32 * (s.queue q).cqTail) (setPhase (s.queue q).phase b) s
    writeToTail q h b s = if w.1 = none then Machine.replied q (setPhase (s.queue q).phase b) w.2 else replyLost q w.2 := by
  intro w
  unfold writeToTail
  dsimp only
  split <;> rename_i e
  · rw [if_pos (show w.1 = none from congrArg Prod.fst e), show w.2 = _ from congrArg Prod.snd e]
  · rw [if_neg (show ¬ w.1 = none by rw [show w.1 = _ from congrArg Prod.fst e]; simp), show w.2 = _ from congrArg Prod.snd e]

theorem writeToTail_mem (q : Nat) (h : BitVec 32) (b : List Byte) (s : State) : (writeToTail q h b s).mem =
    (writeBytes h ((s.queue q).cqBase.toNat + 32 * (s.queue q).cqTail) (setPhase (s.queue q).phase b) s).2.mem := by
  rw [writeToTail_eq]
  split
  · obtain ⟨_, _, _, e⟩ := replied_parts q (setPhase (s.queue q).phase b)
      (writeBytes h ((s.queue q).cqBase.toNat + 32 * (s.queue q).cqTail) (setPhase (s.queue q).phase b) s).2
    rw [e]
  · obtain ⟨_, _, e⟩ := replyLost_parts q
      (writeBytes h ((s.queue q).cqBase.toNat + 32 * (s.queue q).cqTail) (setPhase (s.queue q).phase b) s).2
    rw [e]

/-- A write that may be held leaves the mark of the operation under way as it was. -/
theorem writeHeld_journalOver (w : HeldWrite) (s : State) : (writeHeld w s).2.mem.journalOver = s.mem.journalOver := by
  unfold writeHeld
  dsimp only
  split
  · rfl
  · split <;> rfl

/-- Queue `q` after a reply of it: as it was, or with the reply written, or with it lost. -/
def ReplyEnds (q : Nat) (s t : State) : Prop :=
  t.que.tokens = s.que.tokens ∧ (t.queue q = s.queue q ∨ t.queue q = (s.queue q).replied ∨ t.queue q = (s.queue q).lost)

theorem replyEnds_of_que {q : Nat} {s t : State} (h : t.que = s.que) : ReplyEnds q s t :=
  ⟨by rw [h], .inl (queue_of_que h q)⟩

theorem replyEnds_replied {q : Nat} {s u : State} (h : u.que = s.que) (b : List Byte) : ReplyEnds q s (Machine.replied q b u) := by
  refine ⟨?_, .inr (.inl ?_)⟩
  · obtain ⟨_, _, _, e⟩ := replied_parts q b u
    rw [e, ← h]
  · rw [queue_replied, queue_of_que h]

theorem replyEnds_lost {q : Nat} {s u : State} (h : u.que = s.que) : ReplyEnds q s (replyLost q u) := by
  refine ⟨?_, .inr (.inr ?_)⟩
  · obtain ⟨_, _, e⟩ := replyLost_parts q u
    rw [e, ← h]
  · rw [queue_replyLost, queue_of_que h]

theorem replyEnds_writeToTail (q : Nat) (h : BitVec 32) (b : List Byte) (s : State) : ReplyEnds q s (writeToTail q h b s) := by
  rw [writeToTail_eq]
  split
  · exact replyEnds_replied (writeBytes_que ..) _
  · exact replyEnds_lost (writeBytes_que ..)

theorem replyEnds_writeReply (q tag status detail round : Nat) (rewoven late firmware : Bool) (s : State) :
    ReplyEnds q s (writeReply q tag status detail round rewoven late firmware s) := by
  unfold writeReply
  dsimp only
  split
  · unfold writeHeld
    dsimp only
    split
    · exact replyEnds_of_que rfl
    · split
      · exact replyEnds_of_que rfl
      · exact replyEnds_writeToTail q _ _ { s with mem := { s.mem with journalOver := false } }
  · split
    · exact replyEnds_lost rfl
    · exact replyEnds_replied rfl _

theorem replyEnds_replyEnd (c : InFlight) (late : Bool) (s : State) : ReplyEnds c.queue s (replyEnd c late s) := by
  unfold replyEnd
  split
  · exact replyEnds_writeReply ..
  · exact replyEnds_of_que rfl

theorem ReplyEnds.stopOnError {q : Nat} {s t : State} (h : ReplyEnds q s t) : (t.queue q).stopOnError = (s.queue q).stopOnError := by
  rcases h.2 with e | e | e <;> rw [e] <;> rfl

theorem stopEnd_parts (c : InFlight) (s : State) : ∃ queues lnk ms, stopEnd c s =
    { s with que := { s.que with queues := queues }, lnk := lnk, out := { s.out with messages := ms } } := by
  unfold stopEnd
  split
  · obtain ⟨lnk, ms, e⟩ := raiseQue_parts c.queue 3 (disableQueue c.queue s)
    exact ⟨_, lnk, ms, e⟩
  · exact ⟨_, _, _, rfl⟩

/-- A queue that stops on an error is disabled, with STOPPED set; other errors and successes leave it as it is. -/
theorem queue_stopEnd (c : InFlight) (s : State) : (stopEnd c s).queue c.queue =
    if !(statusClass c.status.toNat == 0) && (s.queue c.queue).stopOnError then
      { s.queue c.queue with enable := false, head := none, status := (s.queue c.queue).status.raise 3 }
    else s.queue c.queue := by
  unfold stopEnd
  split
  · rw [queue_raiseQue, queue_disableQueue]
  · rfl

/-- A reply leaves the mark of the operation under way as it was. -/
theorem replyEnd_journalOver (c : InFlight) (late : Bool) (s : State) : (replyEnd c late s).mem.journalOver = s.mem.journalOver := by
  unfold replyEnd writeReply
  dsimp only
  split
  · split
    · exact writeHeld_journalOver ..
    · split
      · obtain ⟨_, _, e⟩ := replyLost_parts c.queue s
        rw [e]
      · obtain ⟨_, _, _, e⟩ := replied_parts c.queue _ (hostWrite _ _ s)
        rw [e]
        rfl
  · rfl

/-- So does a completion. -/
theorem complete_journalOver (c : InFlight) (s : State) : (complete c s).mem.journalOver = s.mem.journalOver := by
  cases clocked : s.clocked with
  | false => rw [complete_off c s clocked]
  | true =>
    obtain ⟨late, tns, trc, lnk, ms, e⟩ := complete_eq c clocked
    rw [e]
    split
    · rfl
    · obtain ⟨_, signal⟩ := signalEnd_parts c (noted c tns trc lnk ms s)
      obtain ⟨_, _, _, stop⟩ := stopEnd_parts c (replyEnd c late (signalEnd c (noted c tns trc lnk ms s)))
      rw [stop]
      refine (replyEnd_journalOver ..).trans ?_
      rw [signal]
      rfl

/-- A completion that a function-level reset lets end changes no queue and no token (R216). -/
theorem complete_orphan_que {c : InFlight} (orphan : c.orphan = true) (s : State) : (complete c s).que = s.que := by
  cases clocked : s.clocked with
  | false => rw [complete_off c s clocked]
  | true =>
    obtain ⟨late, tns, trc, lnk, ms, e⟩ := complete_eq c clocked
    rw [e, if_pos orphan]
    rfl

theorem finish_orphan_que {c : InFlight} (orphan : c.orphan = true) (s : State) : (finish c s).que = s.que := by
  unfold finish
  refine complete_orphan_que ?_ s
  split <;> exact orphan

/-! ### Token and queue of a completion (R201) -/

/-- Settles O28: of a completion's parts only `signalEnd` changes tokens, and `stopEnd` comes last. -/
theorem completionSignalsOnSuccessOnly : Obligations.CompletionSignalsOnSuccessOnly := by
  intro c s clocked held
  obtain ⟨late, tns, trc, lnk, ms, e⟩ := complete_eq c clocked
  rw [e, if_neg (by simp [held])]
  generalize hu : noted c tns trc lnk ms s = u
  have que : u.que = s.que := by rw [← hu]; rfl
  have ends := replyEnds_replyEnd c late (signalEnd c u)
  have tokens : (stopEnd c (replyEnd c late (signalEnd c u))).que.tokens = (signalEnd c u).que.tokens := by
    obtain ⟨_, _, _, e⟩ := stopEnd_parts c (replyEnd c late (signalEnd c u))
    rw [e]
    exact ends.1
  have queue : (signalEnd c u).queue c.queue = s.queue c.queue := by
    obtain ⟨_, e⟩ := signalEnd_parts c u
    rw [e, ← queue_of_que que]
    rfl
  refine ⟨fun success asked => ?_, fun other => ?_, fun failed stops => ?_⟩
  · rw [tokens, signalEnd, if_pos (by simp [success, asked])]
    unfold signalToken
    split
    · rw [que]
    · simp only [que]
  · rw [tokens, signalEnd, if_neg (by simpa using fun success => other.resolve_left (not_not_intro success)), que]
  · have stops : ((replyEnd c late (signalEnd c u)).queue c.queue).stopOnError = true := by
      rw [ends.stopOnError, queue, stops]
    rw [queue_stopEnd, if_pos (by simp [failed, stops])]
    exact ⟨rfl, Status.raise_bit _ (by decide)⟩

end Sys2Proof.Machine
end

section
/-! SUPPORT. Replies in their ring (R202): the bytes of a reply carry the queue's phase, and what the write of a reply leaves in device
memory, in host memory, and in the queue. -/

namespace Sys2Proof.Machine

/-! ### PHASE in a reply's flags (Table 9.4) -/

theorem bit_replyFlags (phase degraded busy rewoven late firmware : Bool) :
    bit (replyFlags phase degraded busy rewoven late firmware) 0 = phase := by
  have parity : replyFlags phase degraded busy rewoven late firmware / 2 ^ 0 % 2 = b2n phase % 2 := by
    unfold replyFlags
    generalize b2n degraded = b, b2n busy = c, b2n rewoven = d, b2n late = e, b2n firmware = f
    omega
  unfold bit
  rw [parity]
  cases phase <;> rfl

theorem getElem?_replyBytes (tag status flags round time sample detail : Nat) :
    (replyBytes tag status flags round time sample detail)[6]? = some (BitVec.ofNat 8 flags) := rfl

theorem or_bit_zero : ∀ x : Byte, (x &&& 0xFE) ||| BitVec.ofNat 8 (b2n (x.getLsbD 0)) = x := by decide

/-- Byte 6 of a reply holds PHASE in bit 0, so that a reply already carries the phase of its flags. -/
theorem setPhase_replyBytes {phase : Bool} {flags : Nat} (h : bit flags 0 = phase) (tag status round time sample detail : Nat) :
    setPhase phase (replyBytes tag status flags round time sample detail) = replyBytes tag status flags round time sample detail := by
  have low : phase = (BitVec.ofNat 8 flags).getLsbD 0 := by
    rw [← h, BitVec.getLsbD_ofNat, Nat.testBit_zero]
    simp [bit, beq_eq_decide]
  unfold setPhase
  rw [List.getD_eq_getElem?_getD, getElem?_replyBytes, Option.getD_some, low, or_bit_zero]
  rfl

/-! ### The write of a reply -/

/-- A reply in device memory with no write held: made at once, unless the retrain journal is full for it. -/
theorem writeHeld_empty {w : HeldWrite} {s : State} (none_held : s.mem.heldWrites = []) :
    (writeHeld w s).2 = if (w.make s.unheld).2.mem.journalOver then { s with mem := { s.mem with heldWrites := [w] } }
      else { (w.make s.unheld).2 with mem := { (w.make s.unheld).2.mem with journalOver := s.mem.journalOver } } := by
  unfold writeHeld
  dsimp only
  rw [if_neg (by simp [none_held])]
  change (if (w.make s.unheld).2.mem.journalOver = true then _ else _ : Option Fail × State).2 = _
  split
  · exact congrArg (fun l => { s with mem := { s.mem with heldWrites := l ++ [w] } }) none_held
  · rfl

/-- The bytes of a completion's reply, as Table 9.3 lays them out, with the queue's phase. -/
def IsReply (c : InFlight) (s : State) (b : List Byte) : Prop :=
  ∃ flags, bit flags 0 = (s.queue c.queue).phase ∧
    b = replyBytes c.packet.tag.toNat c.status.toNat flags c.round.toNat s.tim.now s.sampleIndex c.detail.toNat

/-- A reply goes to device memory or to host memory, with the same bytes. -/
theorem replyEnd_eq {c : InFlight} (wanted : replies c.opcode c.status.toNat c.packet.replyAlways = true) (late : Bool) (s : State) :
    let v := s.queue c.queue
    let at_ := v.cqBase.toNat + 32 * v.cqTail
    ∃ b, IsReply c s b ∧ replyEnd c late s =
      if v.loc then (writeHeld { handle := v.cqHandle, offset := at_, bytes := b, bar4 := false, reply := some c.queue } s).2
      else if s.hostFails at_ 32 then replyLost c.queue s
      else Machine.replied c.queue b (hostWrite at_ b s) := by
  unfold replyEnd
  rw [if_pos wanted]
  exact ⟨_, ⟨_, bit_replyFlags _ s.degradedFlag (s.mgmtDepth ≥ 192) c.rewoven late c.firmware, rfl⟩, rfl⟩

theorem replies_iff {op st : Nat} {always : Bool} :
    replies op st always = true ↔ st ≠ 0 ∨ always = true ∨ ∃ i, opInfo op = some i ∧ i.reply = true := by
  unfold replies
  cases h : opInfo op <;> simp [or_assoc]

/-- The queue after a completion whose reply was written, and after one whose reply was lost. -/
theorem queue_stopEnd_of_replied {c : InFlight} {s : State} {v : Queue} (h : s.queue c.queue = v.replied) :
    ((stopEnd c s).queue c.queue).cqTail = v.replied.cqTail ∧ ((stopEnd c s).queue c.queue).phase = v.replied.phase := by
  rw [queue_stopEnd, h]
  split <;> exact ⟨rfl, rfl⟩

theorem Status.raise_bit_other {st : Status} {b k : Nat} (h : st.bits.getLsbD k = true) : (st.raise b).bits.getLsbD k = true := by
  simp [Status.raise, h]

theorem queue_stopEnd_of_lost {c : InFlight} {s : State} {v : Queue} (h : s.queue c.queue = v.lost) :
    ((stopEnd c s).queue c.queue).cqTail = v.cqTail ∧ ((stopEnd c s).queue c.queue).enable = false ∧
      ((stopEnd c s).queue c.queue).status.bits.getLsbD 2 = true := by
  have lost : v.lost.status.bits.getLsbD 2 = true := Status.raise_bit _ (by decide)
  rw [queue_stopEnd, h]
  split
  · exact ⟨rfl, rfl, Status.raise_bit_other lost⟩
  · exact ⟨rfl, rfl, lost⟩

theorem queue_stopEnd_of_kept {c : InFlight} {s : State} {v : Queue} (h : s.queue c.queue = v) :
    ((stopEnd c s).queue c.queue).cqTail = v.cqTail ∧ ((stopEnd c s).queue c.queue).phase = v.phase := by
  rw [queue_stopEnd, h]
  split <;> exact ⟨rfl, rfl⟩

theorem stopEnd_mem (c : InFlight) (s : State) : (stopEnd c s).mem = s.mem := by
  obtain ⟨_, _, _, e⟩ := stopEnd_parts c s
  rw [e]

theorem stopEnd_store (c : InFlight) (s : State) : (stopEnd c s).store = s.store := by
  obtain ⟨_, _, _, e⟩ := stopEnd_parts c s
  rw [e]

theorem stopEnd_memory (c : InFlight) (s : State) : (stopEnd c s).out.memory = s.out.memory := by
  obtain ⟨_, _, _, e⟩ := stopEnd_parts c s
  rw [e]

/-- A reply in device memory that is made. -/
theorem queue_writeToTail (q : Nat) (h : BitVec 32) (b : List Byte) (s : State) :
    let w := writeBytes h ((s.queue q).cqBase.toNat + 32 * (s.queue q).cqTail) (setPhase (s.queue q).phase b) s
    (writeToTail q h b s).store = w.2.store ∧ (w.1 = none → (writeToTail q h b s).queue q = (s.queue q).replied) ∧
      (w.1 ≠ none → (writeToTail q h b s).queue q = (s.queue q).lost) := by
  intro w
  have kept : w.2.queue q = s.queue q := queue_of_que (writeBytes_que ..) q
  have e : writeToTail q h b s = if w.1 = none then Machine.replied q (setPhase (s.queue q).phase b) w.2 else replyLost q w.2 :=
    writeToTail_eq q h b s
  rw [e]
  by_cases made : w.1 = none
  · rw [if_pos made]
    obtain ⟨_, _, _, e⟩ := replied_parts q (setPhase (s.queue q).phase b) w.2
    exact ⟨by rw [e], fun _ => by rw [queue_replied, kept], fun lost => absurd made lost⟩
  · rw [if_neg made]
    obtain ⟨_, _, e⟩ := replyLost_parts q w.2
    exact ⟨by rw [e], fun written => absurd written made, fun _ => by rw [queue_replyLost, kept]⟩

/-- The state in which a completion writes its reply. -/
structure RepliesFrom (c : InFlight) (s u : State) : Prop where
  store : u.store = s.store
  plc : u.plc = s.plc
  mem : u.mem = s.mem
  queue : u.queue c.queue = s.queue c.queue
  now : u.tim.now = s.tim.now
  sample : u.sampleIndex = s.sampleIndex
  memory : u.out.memory = s.out.memory
  failing : u.out.failing = s.out.failing

theorem repliesFrom_signalEnd (c : InFlight) (tns : Tns) (trc : Trc) (lnk : Lnk) (ms : List Nat) (s : State) :
    RepliesFrom c s (signalEnd c (noted c tns trc lnk ms s)) := by
  obtain ⟨_, e⟩ := signalEnd_parts c (noted c tns trc lnk ms s)
  rw [e]
  exact ⟨rfl, rfl, rfl, rfl, rfl, rfl, rfl, rfl⟩

theorem RepliesFrom.isReply {c : InFlight} {s u : State} {b : List Byte} (h : RepliesFrom c s u) (r : IsReply c u b) : IsReply c s b := by
  obtain ⟨flags, phase, e⟩ := r
  exact ⟨flags, phase.trans (by rw [h.queue]), by rw [e, h.now, h.sample]⟩

theorem IsReply.setPhase {c : InFlight} {s : State} {b : List Byte} (h : IsReply c s b) :
    setPhase (s.queue c.queue).phase b = b := by
  obtain ⟨flags, phase, e⟩ := h
  rw [e]
  exact setPhase_replyBytes phase ..

/-- Settles O60: `complete_eq` gives the reply's place among the parts of a completion, `replyEnd_eq` its bytes and where they go, and
`queue_stopEnd` that the end of the queue's service changes neither tail nor phase. -/
theorem repliesFillTheirRing : Obligations.RepliesFillTheirRing := by
  intro c s clocked held
  obtain ⟨late, tns, trc, lnk, ms, e⟩ := complete_eq c clocked
  rw [e, if_neg (by simp [held])]
  have start := repliesFrom_signalEnd c tns trc lnk ms s
  generalize signalEnd c (noted c tns trc lnk ms s) = u at start
  have wants : (c.status ≠ 0 ∨ c.packet.replyAlways = true ∨ ∃ i, opInfo c.opcode = some i ∧ i.reply = true) ↔
      replies c.opcode c.status.toNat c.packet.replyAlways = true := by
    rw [replies_iff, ne_eq, ne_eq, ← BitVec.toNat_inj]
    rfl
  refine ⟨fun wanted device empty => ?_, fun wanted host => ?_, fun success quiet silent => ?_⟩
  · obtain ⟨b, isReply, e⟩ := replyEnd_eq (wants.mp wanted) late u
    rw [start.queue, if_pos device, writeHeld_empty (by rw [start.mem, empty])] at e
    have isReply := start.isReply isReply
    refine ⟨u.unheld, b, start.store, start.plc, by unfold State.unheld; rw [start.mem], isReply, ?_⟩
    intro w
    rw [e]
    have queue : u.unheld.queue c.queue = s.queue c.queue := start.queue
    have made := queue_writeToTail c.queue (s.queue c.queue).cqHandle b u.unheld
    have journal := writeToTail_mem c.queue (s.queue c.queue).cqHandle b u.unheld
    rw [queue, isReply.setPhase] at made journal
    refine ⟨fun lets => ?_, fun full => ?_⟩
    · rw [if_neg (by rw [HeldWrite.make, journal, lets]; decide)]
      exact ⟨(stopEnd_store ..).trans made.1, fun ok => queue_stopEnd_of_replied (made.2.1 ok), fun bad => queue_stopEnd_of_lost (made.2.2 bad)⟩
    · rw [if_pos (by rw [HeldWrite.make, journal, full])]
      refine ⟨(stopEnd_store ..).trans start.store, ?_, ?_, _, by rw [stopEnd_mem], rfl, rfl, rfl⟩
      · refine (queue_stopEnd_of_kept (v := s.queue c.queue) ?_).1
        exact start.queue
      · refine (queue_stopEnd_of_kept (v := s.queue c.queue) ?_).2
        exact start.queue
  · obtain ⟨b, isReply, e⟩ := replyEnd_eq (wants.mp wanted) late u
    have fails : u.hostFails = s.hostFails := by
      funext a n
      unfold State.hostFails
      rw [start.failing]
    rw [start.queue, host, if_neg (by simp), fails] at e
    rw [e]
    refine ⟨fun fine => ?_, fun fault => ?_⟩
    · rw [if_neg (by simp [fine])]
      refine ⟨queue_stopEnd_of_replied ?_, b, start.isReply isReply, ?_⟩
      · rw [queue_replied]
        exact congrArg _ start.queue
      · obtain ⟨_, _, _, e⟩ := replied_parts c.queue b (hostWrite ((s.queue c.queue).cqBase.toNat + 32 * (s.queue c.queue).cqTail) b u)
        rw [stopEnd_memory, e, ← start.memory]
        rfl
    · rw [if_pos fault]
      refine ⟨queue_stopEnd_of_lost ?_, ?_⟩
      · rw [queue_replyLost, start.queue]
      · obtain ⟨_, _, e⟩ := replyLost_parts c.queue u
        rw [stopEnd_memory, e, ← start.memory]
  · have silent_end : replyEnd c late u = u := by
      unfold replyEnd
      refine if_neg fun replying => ?_
      rcases wants.mpr replying with h | h | ⟨i, h, k⟩
      · exact h success
      · simp [quiet] at h
      · simp [silent i h] at k
    rw [silent_end]
    exact ⟨(queue_stopEnd_of_kept start.queue).1, (stopEnd_memory ..).trans start.memory⟩

end Sys2Proof.Machine
end

section
/-! SUPPORT. COMMAND_COMPLETE (R199): the trace records that a completion leaves name the layer of its command, which `finish` on its own
does not name. -/

namespace Sys2Proof.Machine

/-- A command of queue 0, of layer 0, that has ended and always replies. -/
def layerZero : InFlight :=
  fresh 0 0x12 { plainPacket (List.replicate 48 0) with layerId := 0 } false State.reset

/-- Queue 0 has its rings in device memory, with the completion ring in handle 1, whose first line has a double-bit memory error; the
trace records memory errors. -/
def replyMeetsError : State :=
  { State.reset with
    ups := { stage := 6, service := 2 }
    que := { queues := [(0, { loc := true, cqHandle := 1 })] }
    plc := { map := [(1, { handle := 1, state := .live, cls := 0, residentOk := true, pin := false, rank := 0, format := 0, size := 4096,
                           dims := [], affCount := 0, affinity := [], writeGen := 0, epoch := 0, traffic := 0,
                           location := .hoop 0 0 })] }
    store := { State.reset.store with sram := [{ place := .hoop (hoopLine 0 0), word := 0, double := true }] }
    trc := { state := .recording, typeMask := 0x80 }
    flight := [layerZero] }

/-- The layers that the trace's records name. -/
def State.layersTraced (s : State) : List (BitVec 16) := s.trc.records.map (·.layer)

theorem layersTraced_commandComplete :
    (unlessOver (fun s => if s.clocked then commandComplete 0 0 s else s) replyMeetsError).layersTraced = [0] := by decide +kernel

theorem layersTraced_finish : (finish layerZero replyMeetsError).layersTraced = [0xFFFF] := by decide +kernel

/-- Refutes O27: where the reply of a completion meets a memory error, COMMAND_COMPLETE records it under the command's layer, and
`finish` alone, which acts for no command, under none. -/
theorem not_commandsComplete : ¬ Obligations.CommandsComplete := by
  intro h
  have plain := (h 0 0 layerZero replyMeetsError (by decide) rfl (by decide)).1 (.inl rfl)
  have finished := Host.Outcome.next.inj (plain.1 rfl)
  rw [if_neg (by decide)] at finished
  have layers := congrArg State.layersTraced finished
  rw [layersTraced_finish] at layers
  exact absurd (layersTraced_commandComplete.symm.trans layers) (by decide)

end Sys2Proof.Machine
end

section
/-! SUPPORT. What a sequencer does with the packet at a ring's head that it refuses, cannot read or leaves where it is (R193, R196, R197). -/

namespace Sys2Proof.Machine

/-! ### The order of the checks (R196) -/

/-- Settles O24: each check passes where its hypothesis says so, and the first that fails gives the status. -/
theorem checksComeInOrder : Obligations.ChecksComeInOrder := by
  intro q op i p s
  refine ⟨fun low notSession => ?_, fun high bound => ⟨fun out => ?_, fun admitted => ⟨fun frozen waits => ?_, fun runs => ?_⟩⟩⟩
  · unfold sequencerChecks
    rw [if_pos (by simp [low]), if_neg notSession]
    rfl
  all_goals
    unfold sequencerChecks
    rw [if_neg (by simp; omega)]
  · rw [if_pos (by simp [out])]
    rfl
  · rw [if_neg (by simp [admitted]), if_pos (by simp [frozen, waits])]
    rfl
  · rw [if_neg (by simp [admitted]), if_neg (by rcases runs with h | h <;> simp [h])]
    split
    · rw [if_neg (by omega)]
      rfl
    · rw [if_pos (by omega)]

/-! ### Packets that cannot be read (R193) -/

theorem lostPacket_tag (n : Nat) :
    (lostPacket n).tag.toNat / 2 ^ 16 = 0xFFFF ∧ (lostPacket n).tag.toNat % 2 ^ 16 = n % 2 ^ 16 := by
  simp only [lostPacket, BitVec.toNat_ofNat]
  omega

theorem exec_packetUnreadable {q : Fin 64} {why : PacketLoss} {s u : State} {f : Fail} (issues : canIssue s q = true)
    (selected : selects s q = true) (lost : packetLoss q why s = some (f, u)) : exec (.packetUnreadable q why) s =
      .next (refuseCommand (fresh q 0 (lostPacket (u.queue q).sqHead) false u) f (u.setQueue q
        { u.queue q with sqHead := ((u.queue q).sqHead + 1) % (u.queue q).sqSize, issued := (u.queue q).issued + 1 })) := by
  change Host.Outcome.next (packetUnreadable q why s) = _
  unfold packetUnreadable
  rw [if_neg (by simp [issues, selected]), lost]

theorem opcodeUnknown_refused {q : Nat} {op : BitVec 8} {p : Packet} {s : State} (undefined : opInfo op.toNat = none)
    (ready : gate q op.toNat p s = true) : opcodeUnknown q op p s =
      refuseCommand (fresh q op.toNat p false s) { status := OPCODE_UNKNOWN, detail := op.toNat } (takeHead q op.toNat p false s) := by
  unfold opcodeUnknown
  rw [undefined, if_neg (by simp), if_neg (by simp [ready])]

/-- Settles O25: `packetLoss` gives the status of each ring, and `opcodeUnknown_refused` the case of an undefined opcode. -/
theorem unreadPacketsAreNotExecuted : Obligations.UnreadPacketsAreNotExecuted := by
  intro q s issues selected
  refine ⟨fun why notLine host => ⟨exec_packetUnreadable issues selected ?_, lostPacket_tag _⟩,
    fun why f u device fails => exec_packetUnreadable issues selected ?_,
    fun op p undefined ready => congrArg Host.Outcome.next (opcodeUnknown_refused undefined ready)⟩
  · unfold packetLoss
    simp [host, notLine, PACKET_UNREADABLE]
  · unfold packetLoss
    simp [device, fails]

/-! ### Packets that wait and packets that a check refuses -/

/-- A sequencer-path packet that a check refuses completes with its status, acting for its layer. -/
theorem issueS_refused {q op : Nat} {p : Packet} {plan : Cmd Plan} {s : State} {i : OpInfo} {f : Fail} (info : opInfo op = some i)
    (ready : gate q op p s = true) (fails : sequencerChecks q op i p s = some f) : issueS q op p plan s =
      acting 0xFFFF (refuseCommand (fresh q op p false s) f (acting p.layerId (takeHead q op p true s.unheld))) := by
  have later : sequencerChecks q op i p (acting p.layerId (takeHead q op p true s.unheld)) = some f :=
    (chk_takeHead q op i p true s.unheld).trans fails
  unfold issueS
  rw [info, Option.getD_some, ready]
  dsimp only
  rw [fails, if_neg (by simp)]
  refine unlessOver_of _ s _ ?_ ?_
  · rw [later]
  · obtain ⟨_, _, _, _, _, e⟩ := takeHead_parts q op p true s.unheld
    refine (complete_journalOver _ _).trans ?_
    rw [e]
    rfl

theorem issueF_refused {q op : Nat} {p : Packet} {plan : InFlight → Cmd Plan} {s : State} {m : Option RailMeans} {i : OpInfo} {f : Fail}
    (info : opInfo op = some i) (ready : gate q op p s = true) (fails : sequencerChecks q op i p s = some f) :
    issueF q op p plan s m = refuseCommand (fresh q op p false s) f (takeHead q op p false s) := by
  unfold issueF
  simp only [ready, info, Option.getD_some, chk_takeHead, fails, Bool.not_true, Bool.false_eq_true, if_false]

theorem issueS_waits {q op : Nat} {p : Packet} {plan : Cmd Plan} {s : State} (held : gate q op p s = false) :
    issueS q op p plan s = noteHead q p s := if_pos (by simp [held])

theorem issueF_waits {q op : Nat} {p : Packet} {plan : InFlight → Cmd Plan} {s : State} {m : Option RailMeans}
    (held : gate q op p s = false) : issueF q op p plan s m = noteHead q p s := if_pos (by simp [held])

/-- How a packet's command reaches its issue: on the path that its opcode has, or as an undefined opcode. -/
inductive IssueOf (q : Fin 64) (p : Packet) : Nat → Instr → Prop where
  | sequencer {op : Nat} {c : Instr} {i : OpInfo} (info : opInfo op = some i) (path : i.firmware = false) (plan : Cmd Plan)
      (runs : ∀ s, exec c s = .next (issueS q op p plan s)) : IssueOf q p op c
  | firmware {op : Nat} {c : Instr} {i : OpInfo} (info : opInfo op = some i) (path : i.firmware = true) (plan : InFlight → Cmd Plan)
      (m : Option RailMeans) (runs : ∀ s, exec c s = .next (issueF q op p plan s m)) : IssueOf q p op c
  | undefined (op : BitVec 8) : IssueOf q p op.toNat (.opcodeUnknown q op p)

theorem issueOf_packet {c : Instr} {q : Fin 64} {op : Nat} {p : Packet} (h : c.packet = some (q, op, p)) : IssueOf q p op c := by
  cases c with
  | nop | matmul | matmulAcc | scalePass | quantStore | vectorOp | norm | softmax | loss | copy | fill | place | release | boundsSet
  | fence | waitTime | signal | bundleSend | bundleReduce | bundleBroadcast | update | commit | ckptDrain | rollback | roundRecord
  | joinDomain | assignSpare =>
    cases h
    exact .sequencer rfl rfl _ fun _ => rfl
  | getHealth | getTelemetry | setPowerCap | ledgerRead | marginScan | counterCfg | samplerCfg | traceArm | traceRead | roleSession
  | fwStage | scheduleSet | dumpRead | makerDiag =>
    cases h
    exact .firmware rfl rfl _ _ fun _ => rfl
  | opcodeUnknown =>
    cases h
    exact .undefined _
  | _ => cases h

/-- Table 9.6 has an entry for the opcodes that it lists alone. -/
theorem opInfo_none_of_unlisted : ∀ op : BitVec 8, listedOpcodes.contains op.toNat = false → opInfo op.toNat = none := by decide

/-- Settles O23: `issueOf_packet` gives each packet its path, and on each path a packet that may not issue is noted as the ring's head,
and the first failing check refuses the others. -/
theorem firstFailingCheckRefuses : Obligations.FirstFailingCheckRefuses := by
  intro c q op p s packet wf refused v waits
  have noted (e : exec c s = .next (noteHead q p s)) :
      (waits → exec c s =
        .next (s.setQueue q { v with head := some { ordinal := v.issued, fence := p.fenceBefore, token := p.waitToken.toNat } })) ∧
      (¬waits → exec c s = .next s) := by
    unfold noteHead at e
    rw [e]
    refine ⟨fun h => ?_, fun h => ?_⟩
    · obtain ⟨clocked, enable, host, head⟩ := h
      rw [if_pos (by simp [clocked, show (s.queue q).enable = true from enable, show (s.queue q).loc = false from host,
        show (s.queue q).sqHead ≠ (s.queue q).sqTail from head])]
    · rw [if_neg (by simpa [waits, and_assoc] using h)]
  cases issueOf_packet packet with
  | sequencer info path plan runs =>
    refine ⟨fun held => noted (by rw [runs, issueS_waits held]),
      fun ready => ⟨fun undefined => by simp [info] at undefined, fun i f e fails => ?_⟩⟩
    cases info.symm.trans e
    rw [runs, issueS_refused info ready fails, path, if_neg (by simp)]
  | firmware info path plan m runs =>
    refine ⟨fun held => noted (by rw [runs, issueF_waits held]),
      fun ready => ⟨fun undefined => by simp [info] at undefined, fun i f e fails => ?_⟩⟩
    cases info.symm.trans e
    rw [runs, issueF_refused info ready fails, path, if_pos rfl]
  | undefined op =>
    have unlisted : opInfo op.toNat = none := opInfo_none_of_unlisted op ((Bool.not_eq_true' _).mp ((Bool.and_eq_true ..).mp wf).2)
    refine ⟨fun held => noted ?_, fun ready =>
      ⟨fun _ => congrArg Host.Outcome.next (opcodeUnknown_refused unlisted ready), fun i f e => by simp [unlisted] at e⟩⟩
    change Host.Outcome.next (opcodeUnknown q op p s) = _
    unfold opcodeUnknown
    rw [unlisted, if_neg (by simp), if_pos (by simp [held])]

end Sys2Proof.Machine
end

section
/-! SUPPORT. Withdrawn bindings (R324) and the function-level reset (R216): a withdrawal changes queues, SEC_STATUS, the ledger's
appends and interrupts alone. -/

namespace Sys2Proof.Machine

/-- The parts of the state that the withdrawal of bindings may change. -/
def Withdrawn (s t : State) : Prop := ∃ queues status lgr lnk ms, t =
  { s with que := { s.que with queues := queues }, sec := { s.sec with status := status }, lgr := lgr, lnk := lnk,
           out := { s.out with messages := ms } }

theorem Withdrawn.refl (s : State) : Withdrawn s s := ⟨_, _, _, _, _, rfl⟩

theorem Withdrawn.trans {s t u : State} (h : Withdrawn s t) (k : Withdrawn t u) : Withdrawn s u := by
  obtain ⟨_, _, _, _, _, rfl⟩ := h
  obtain ⟨_, _, _, _, _, rfl⟩ := k
  exact ⟨_, _, _, _, _, rfl⟩

theorem withdrawn_raiseSec (b : Nat) (s : State) : Withdrawn s (raiseSec b s) := by
  obtain ⟨lnk, ms, e⟩ := signalVector_parts 64 { s with sec := { s.sec with status := s.sec.status.raise b } }
  exact ⟨_, _, _, lnk, ms, e⟩

theorem withdrawn_withdraw (q : Nat) (byReset : Bool) (s : State) : Withdrawn s (withdraw q byReset s) := by
  unfold withdraw
  split
  · exact Withdrawn.refl s
  · refine Withdrawn.trans ⟨_, _, _, _, _, rfl⟩ ((withdrawn_raiseSec 1 (s.setQueue q { s.queue q with binding := none })).trans ?_)
    exact ⟨_, _, _, _, _, rfl⟩

theorem withdrawn_foldl {α : Type} {f : State → α → State} (h : ∀ s a, Withdrawn s (f s a)) (l : List α) (s : State) :
    Withdrawn s (l.foldl f s) := by
  induction l generalizing s with
  | nil => exact Withdrawn.refl s
  | cons a l ih => exact (h s a).trans (ih _)

theorem withdrawn_withdrawWhere (p : Binding → Bool) (byReset : Bool) (s : State) : Withdrawn s (withdrawWhere p byReset s) :=
  withdrawn_foldl (f := fun s (e : Nat × Queue) => withdraw e.1 byReset s) (fun s e => withdrawn_withdraw e.1 byReset s) _ s

theorem functionReset_eq (s : State) : ∃ lgr sec ms lnk, functionReset s =
    { s with que := { ({} : Que) with flr := true, replies := s.que.replies }, flight := s.flight.map fun c => { c with orphan := true },
             lgr := lgr, sec := sec, lnk := lnk, out := { s.out with messages := ms } } := by
  obtain ⟨_, _, _, _, _, e⟩ := withdrawn_withdrawWhere (fun _ => true) true s
  unfold functionReset dropBindings
  dsimp only
  rw [e]
  exact ⟨_, _, _, _, rfl⟩

theorem sqDoorbell_flr {s : State} (h : s.que.flr = true) (q : Fin 64) (v : Word) : exec (.sqDoorbell q v) s = .next s :=
  congrArg Host.Outcome.next (if_pos (by simp [h]))

theorem cqDoorbell_flr {s : State} (h : s.que.flr = true) (q : Fin 64) (v : Word) : exec (.cqDoorbell q v) s = .next s :=
  congrArg Host.Outcome.next (if_pos (by simp [h]))

/-- A BAR's register keeps its type in the bits below its size. -/
theorem bar_mod {p : Pci} {i k m : Nat} (even : i % 2 = 0) (size : barSize i = 2 ^ m) (below : k ≤ m) (word : k ≤ 32)
    (type : barType i < 2 ^ k) : (p.bar i).toNat % 2 ^ k = barType i := by
  unfold Pci.bar
  dsimp only
  rw [if_neg (by omega), BitVec.toNat_ofNat, Nat.mod_mod_of_dvd _ (Nat.pow_dvd_pow 2 word), Nat.add_mod, size,
    Nat.mod_eq_zero_of_dvd (Dvd.dvd.mul_left (Nat.pow_dvd_pow 2 below) _), Nat.zero_add, Nat.mod_mod, Nat.mod_eq_of_lt type]

/-- The host's setup of configuration space keeps the AER bits (log 65). Stated over variables, since the kernel would otherwise
unfold products with a BAR's size. -/
theorem pci_aer (p : Pci) (a b c : BitVec 64) (gen check relaxed : Bool) (payload read : Nat) :
    ({ p with bar0 := a, bar2 := b, bar4 := c, msixEnable := true, ecrcGen := gen, ecrcCheck := check, relaxed := relaxed,
              maxPayload := payload, maxRead := read } : Pci).aer = p.aer := rfl

theorem enumerate_aer (s : State) : (enumerate s).lnk.pci.aer = s.lnk.pci.aer := pci_aer s.lnk.pci ..

/-- The types of the three BARs: 64-bit, and BAR4 alone prefetchable (R337). -/
theorem bar_types (p : Pci) :
    (p.bar 0).toNat % 2 ^ 24 = 0x4 ∧ (p.bar 2).toNat % 2 ^ 18 = 0x4 ∧ (p.bar 4).toNat % 2 ^ 32 = 0xC :=
  ⟨bar_mod (i := 0) (m := 24) rfl rfl (by decide) (by decide) (by decide),
    bar_mod (i := 2) (m := 18) rfl rfl (by decide) (by decide) (by decide),
    bar_mod (i := 4) (m := 36) rfl rfl (by decide) (by decide) (by decide)⟩

/-- Settles O31: `functionReset_eq` gives the state after the reset, in which every command in flight is an orphan, and an orphan's
completion leaves the queues as they are. -/
theorem functionLevelReset : Obligations.FunctionLevelReset := by
  intro s powered
  refine ⟨?_, fun flr free => ?_, fun ⟨c, mem, orphan⟩ => ?_⟩
  · obtain ⟨lgr, sec, ms, lnk, e⟩ := functionReset_eq s
    have orphans : ∀ c ∈ s.flight.map (fun c => { c with orphan := true }), c.orphan = true := by simp
    exact ⟨_, congrArg Host.Outcome.next ((if_pos powered).trans e), rfl, rfl, rfl, rfl, List.length_map .., orphans,
      fun q v => ⟨sqDoorbell_flr rfl q v, cqDoorbell_flr rfl q v⟩,
      fun c mem => finish_orphan_que (orphans c mem) _⟩
  · have done : (s.powered && s.que.flr && s.flight.all (fun c => !c.orphan)) = true := by simpa [powered, flr] using free
    exact ⟨_, congrArg Host.Outcome.next (if_pos done), rfl, rfl, enumerate_aer _, bar_types _⟩
  · refine congrArg Host.Outcome.next (if_neg fun done => ?_)
    simp only [Bool.and_eq_true, List.all_eq_true] at done
    simpa [orphan] using done.2 c mem

end Sys2Proof.Machine
end

section
/-! SUPPORT. Packets that pass the checks (R196, R199, R212): what issues is what its plan and its effect leave, and the commands that
synchronise or set bounds, whose plans name no handle. -/

namespace Sys2Proof.Machine

/-! ### Commands that issue and take effect -/

theorem issues_next {c : Instr} {q : Fin 64} {op : Nat} {p : Packet} {plan : Cmd Plan} {s : State} {pl : Plan} {r : Res} {v : State}
    (runs : exec c s = .next (issueS q op p plan s)) (h : SucceedsS q op p plan s pl r v) :
    exec c s = .next (acting 0xFFFF (issued (fresh q op p false s) pl r v)) :=
  runs.trans (congrArg Host.Outcome.next (issueS_ok h))

/-- Settles O19: each command is its issue (`issueS_ok`). -/
theorem computeCommandsIssue : Obligations.ComputeCommandsIssue := fun _ _ _ _ _ _ =>
  ⟨issues_next rfl, issues_next rfl, issues_next rfl, issues_next rfl, issues_next rfl, issues_next rfl, issues_next rfl, issues_next rfl⟩

/-- Settles O20, as O19. -/
theorem moveCommandsIssue : Obligations.MoveCommandsIssue := fun _ _ _ _ _ _ =>
  ⟨issues_next rfl, issues_next rfl, issues_next rfl, issues_next rfl, issues_next rfl, issues_next rfl, issues_next rfl, issues_next rfl,
    issues_next rfl⟩

/-- Settles O21, as O19. -/
theorem clusterCommandsIssue : Obligations.ClusterCommandsIssue := fun _ _ _ _ _ _ =>
  ⟨issues_next rfl, issues_next rfl, issues_next rfl, issues_next rfl, issues_next rfl, issues_next rfl, issues_next rfl, issues_next rfl,
    issues_next rfl, issues_next rfl⟩

/-! ### Plans that name no handle -/

/-- The state in which a path-S packet of no handle takes effect: out of its ring, in flight as `c`, acting for its layer. -/
def started (q op : Nat) (p : Packet) (c : InFlight) (s : State) : State :=
  { acting p.layerId (takeHead q op p true s.unheld) with flight := s.flight ++ [c], nextId := s.nextId + 1 }

theorem started_mem (q op : Nat) (p : Packet) (c : InFlight) (s : State) : (started q op p c s).mem.journalOver = false := by
  obtain ⟨_, _, _, _, _, e⟩ := takeHead_parts q op p true s.unheld
  unfold started
  rw [e]
  rfl

theorem started_que (q op : Nat) (p : Packet) (c : InFlight) (s : State) : (started q op p c s).que.bounds = s.que.bounds := by
  obtain ⟨_, _, _, _, _, _, bounds⟩ := takeHead_facts q op p true s.unheld
  exact bounds

theorem started_now (q op : Nat) (p : Packet) (c : InFlight) (s : State) : (started q op p c s).tim.now = s.tim.now := by
  obtain ⟨_, _, _, _, _, e⟩ := takeHead_parts q op p true s.unheld
  unfold started
  rw [e]
  rfl

theorem running_plain (q op : Nat) (p : Packet) (atIssue : Bool) (run : Cmd Res) (s : State) :
    running (fresh q op p false s) { atIssue, run } (abandonHolding s.nextId ({ atIssue, run } : Plan).writes
      (acting p.layerId (takeHead q op p true s.unheld))) = started q op p (fresh q op p false s) s := by
  have writes : ({ atIssue, run } : Plan).writes = [] := rfl
  obtain ⟨_, _, _, flight, nextId, _⟩ := takeHead_facts q op p true s.unheld
  rw [writes, abandonHolding_nil]
  unfold running launch started
  dsimp only [acting]
  rw [writes, List.foldl_nil]
  dsimp only
  rw [flight, nextId]
  rfl

theorem stalled_plain {id : Nat} {plan : Cmd Plan} {s : State} {atIssue : Bool} {run : Cmd Res}
    (planned : plan.run s = .ok { atIssue, run } s) : stalled id plan s = false := by
  have writes : ({ atIssue, run } : Plan).writes = [] := rfl
  have holding : s.holding id [] = [] := List.filter_eq_nil_iff.mpr fun c _ => by simp
  unfold stalled writeHolds drainStalls
  rw [planned]
  dsimp only
  rw [writes, holding]
  simp

theorem issued_journalOver (c : InFlight) (pl : Plan) (r : Res) (v : State) :
    (issued c pl r v).mem.journalOver = v.mem.journalOver := by
  unfold issued
  split
  · exact complete_journalOver _ _
  · rfl

/-- A packet whose plan names no handle, and whose effect ends with `r` in state `v`. -/
theorem issueS_plain {q : Fin 64} {op : Nat} {p : Packet} {plan : Cmd Plan} {s : State} {atIssue : Bool} {run : Cmd Res} {r : Res} {v : State}
    (planned : plan = pure { atIssue, run })
    (issues : gate q op p s = true ∧ sequencerChecks q op ((opInfo op).getD ⟨false, 1, false⟩) p s = none)
    (ran : run.run (started q op p (fresh q op p false s) s) = .ok r v) (lets : v.mem.journalOver = false) :
    issueS q op p plan s = acting 0xFFFF (issued (fresh q op p false s) { atIssue, run } r v) := by
  subst planned
  obtain ⟨ready, checks⟩ := issues
  refine issueS_ok ⟨ready, stalled_plain rfl, checks, ⟨_, rfl, ?_⟩, ?_⟩
  · rw [running_plain]
    exact ran
  · rw [issued_journalOver]
    exact lets

/-! ### What the checks of a packet let through -/

theorem reservedZero_ok {p : Packet} {runs : List (Nat × Nat × Nat)} (h : firstReserved p.params 16 runs = none) :
    reservedZero p runs = pure () := by
  unfold reservedZero
  rw [h]

theorem require_ok {ok : Bool} {status detail : Nat} (h : ok = true) : require ok status detail = pure () := if_pos h

/-! ### Signals and bounds -/

theorem foldl_signalToken_mem (f : Nat → Nat) (l : List Nat) (s : State) :
    (l.foldl (fun s i => signalToken (f i) s) s).mem = s.mem := by
  induction l generalizing s with
  | nil => rfl
  | cons i l ih =>
    rw [List.foldl_cons, ih]
    unfold signalToken
    split <;> rfl

/-- A run of entries of a table, written in order. -/
theorem tget_foldl_tset {α : Type} [DecidableEq α] (d : α) (f : Nat → α) (t : Tab α) (b n k : Nat) :
    tget d ((List.range n).foldl (fun t i => tset d t (b + i) (f i)) t) k = if b ≤ k ∧ k < b + n then f (k - b) else tget d t k := by
  induction n with
  | zero => simp
  | succ n ih =>
    rw [List.range_succ, List.foldl_append, List.foldl_cons, List.foldl_nil]
    by_cases here : k = b + n
    · subst here
      rw [tget_tset_self, if_pos (by omega), Nat.add_sub_cancel_left]
    · rw [tget_tset_ne d _ _ here, ih]
      exact if_congr (by omega) rfl rfl

/-! ### The plans -/

section
variable {p : Packet}

theorem planNop_eq (reserved : firstReserved p.params 16 [(16, 63, 0xFF)] = none) : planNop p = pure { atIssue := true } := by
  unfold planNop
  rw [reservedZero_ok reserved]
  rfl

theorem planFence_eq (reserved : firstReserved p.params 16 [(16, 16, 0xFE), (17, 63, 0xFF)] = none) :
    planFence p = pure { run := pure { wait := .fence (bit (p.num 16 1) 0) } } := by
  unfold planFence
  rw [reservedZero_ok reserved]
  rfl

/-- The effect of a WAIT_TIME. -/
def waitEffect (t : Nat) : Cmd Res := do
  let s ← get
  pure { wait := if t ≤ s.tim.now then .done else .untilTime t }

theorem planWaitTime_eq (reserved : firstReserved p.params 16 [(24, 63, 0xFF)] = none) :
    planWaitTime p = pure { run := waitEffect (p.num 16 8) } := by
  unfold planWaitTime
  rw [reservedZero_ok reserved]
  rfl

/-- The tokens of a SIGNAL, signalled in order. -/
def signalled (p : Packet) (s : State) : State :=
  (List.range (p.num 48 1)).foldl (fun s i => signalToken (p.num (16 + 2 * i) 2) s) s

theorem planSignal_eq (reserved : firstReserved p.params 16 [(49, 63, 0xFF)] = none) (low : 1 ≤ p.num 48 1) (high : p.num 48 1 ≤ 16) :
    planSignal p = pure { atIssue := true, run := do upd (signalled p); pure {} } := by
  unfold planSignal
  rw [reservedZero_ok reserved]
  dsimp only
  rw [require_ok (by simp [low, high])]
  rfl

/-- The bounds of a BOUNDS_SET, written in order. -/
def withBounds (q : Nat) (p : Packet) (s : State) : State :=
  { s with que := { s.que with bounds := (List.range (p.num 17 1)).foldl (fun t i =>
      tset 0 t (q * 64 + p.num 16 1 + i) (BitVec.ofNat 32 (p.num (20 + 4 * i) 4))) s.que.bounds } }

theorem planBoundsSet_eq (q : Nat) (reserved : firstReserved p.params 16 [(18, 19, 0xFF), (52, 63, 0xFF)] = none) (many : p.num 17 1 ≠ 0)
    (eight : p.num 17 1 ≤ 8) (last : p.num 16 1 + p.num 17 1 ≤ 64) :
    planBoundsSet q p = pure { atIssue := true, run := do upd (withBounds q p); pure {} } := by
  unfold planBoundsSet
  dsimp only
  rw [require_ok (by simp [many, eight, last]), require_ok (by simp [reserved])]
  rfl

end

theorem signalled_mem (p : Packet) (s : State) : (signalled p s).mem = s.mem := foldl_signalToken_mem ..

theorem tget_withBounds (q : Nat) (p : Packet) (s : State) (k : Nat) : tget 0 (withBounds q p s).que.bounds k =
    if q * 64 + p.num 16 1 ≤ k ∧ k < q * 64 + p.num 16 1 + p.num 17 1 then
      BitVec.ofNat 32 (p.num (20 + 4 * (k - (q * 64 + p.num 16 1))) 4)
    else tget 0 s.que.bounds k := tget_foldl_tset ..

/-- Settles O26: with no reserved bit set each plan is its effect alone, on no handle, so that `issueS_plain` applies. -/
theorem synchronisationCommands : Obligations.SynchronisationCommands := by
  intro q p s issues at_ after
  refine ⟨fun h reserved => ?nop, fun h reserved => ?fence, fun h reserved => ?waitTime, fun h reserved low high => ?signal,
    fun h reserved many eight last => ?bounds⟩
  case nop => exact congrArg Host.Outcome.next (issueS_plain (planNop_eq reserved) h rfl (started_mem ..))
  case fence => exact congrArg Host.Outcome.next (issueS_plain (planFence_eq reserved) h rfl (started_mem ..))
  case waitTime =>
    refine congrArg Host.Outcome.next ((issueS_plain (planWaitTime_eq reserved) h rfl (started_mem ..)).trans ?_)
    rw [started_now]
    rfl
  case signal =>
    refine congrArg Host.Outcome.next (issueS_plain (planSignal_eq reserved low high) h rfl ?_)
    rw [signalled_mem]
    exact started_mem ..
  case bounds =>
    let t := withBounds q p (started q 0x14 p (fresh q 0x14 p false s) s)
    have run := issueS_plain (v := t) (planBoundsSet_eq q reserved many eight last) h rfl (started_mem q 0x14 p (fresh q 0x14 p false s) s)
    refine ⟨t, congrArg Host.Outcome.next run, rfl, fun n below => ?_,
      fun k outside => ?_⟩
    · rw [tget_withBounds, started_que, show q.val * 64 + n - (q.val * 64 + p.num 16 1) = n - p.num 16 1 by omega]
      exact if_congr (by omega) rfl rfl
    · rw [tget_withBounds, started_que, if_neg (by omega)]

end Sys2Proof.Machine
end

section
/-! SUPPORT. The firmware path: the state in which firmware plans a command (R163, R213), what the plans of SET_POWER_CAP and SCHEDULE_SET
let through (R258, R287), and what the effect of a ledger record does to the command that waits for it (R311, R323 to R329). -/

namespace Sys2Proof.Machine

/-! ### The state in which firmware plans -/

/-- The read of a handle's entry changes the stores, the counters, the trace and interrupts alone. -/
theorem meetHandle_parts (use : Nat) (s : State) : ∃ store cnt trc lnk ms, (meetHandle use s).2 =
    { s with store := store, cnt := cnt, trc := trc, lnk := lnk, out := { s.out with messages := ms } } := by
  unfold meetHandle
  dsimp only
  split
  · exact ⟨_, _, _, _, _, rfl⟩
  · split
    · obtain ⟨_, _, _, e⟩ := traceWith_parts _ _ _ _ _ 0 false _
      exact ⟨_, _, _, _, _, e⟩
    · exact ⟨_, _, _, _, _, rfl⟩

theorem run_readHandle (use : Nat) (s : State) : (readHandle use).run s =
    match (meetHandle use s).1 with
    | some f => .error f (meetHandle use s).2
    | none => .ok () (meetHandle use s).2 := by
  change (match (meetHandle use s).1 with | some f => throw f | none => pure () : Cmd Unit).run (meetHandle use s).2 = _
  cases (meetHandle use s).1 <;> rfl

theorem run_bind {α β : Type} (m : Cmd α) (f : α → Cmd β) (s : State) : (m >>= f).run s =
    match m.run s with
    | .ok a t => (f a).run t
    | .error g t => .error g t := by
  change EStateM.bind m f s = _
  unfold EStateM.bind EStateM.run
  cases m s <;> rfl

theorem ok_of_readHandle {α : Type} {use : Nat} {f : Unit → Cmd α} {s u : State} {a : α}
    (h : (readHandle use >>= f).run s = .ok a u) : (f ()).run (meetHandle use s).2 = .ok a u := by
  rw [run_bind, run_readHandle] at h
  cases e : (meetHandle use s).1 with
  | none =>
    rw [e] at h
    exact h
  | some g =>
    rw [e] at h
    cases h

theorem ok_of_reservedZero {α : Type} {p : Packet} {runs : List (Nat × Nat × Nat)} {f : Unit → Cmd α} {s u : State} {a : α}
    (h : (reservedZero p runs >>= f).run s = .ok a u) : (f ()).run s = .ok a u := by
  unfold reservedZero at h
  split at h
  · cases h
  · exact h

theorem passed_require {α : Type} {ok : Bool} {status detail : Nat} {f : Unit → Cmd α} {s u : State} {a : α}
    (h : (require ok status detail >>= f).run s = .ok a u) : ok = true ∧ (f ()).run s = .ok a u := by
  refine ⟨?_, ok_of_require h⟩
  unfold require at h
  split at h
  · assumption
  · cases h

/-- What firmware's plan of a packet of queue `q` finds as the packet found it. -/
structure PlansFrom (q : Nat) (s u : State) : Prop where
  id : u.id = s.id
  sched : u.sched = s.sched
  binding : (u.queue q).binding = (s.queue q).binding

theorem PlansFrom.trans {q : Nat} {s t u : State} (h : PlansFrom q s t) (k : PlansFrom q t u) : PlansFrom q s u :=
  ⟨k.id.trans h.id, k.sched.trans h.sched, k.binding.trans h.binding⟩

theorem plansFrom_of_queues {q : Nat} {s t : State} (id : t.id = s.id) (sched : t.sched = s.sched) (queues : t.que.queues = s.que.queues) :
    PlansFrom q s t := by
  refine ⟨id, sched, ?_⟩
  unfold State.queue
  rw [queues]

theorem plansFrom_takeHead (q op : Nat) (p : Packet) (b : Bool) (s : State) : PlansFrom q s (takeHead q op p b s) := by
  obtain ⟨_, _, _, _, _, e⟩ := takeHead_parts q op p b s
  refine ⟨by rw [e]; rfl, by rw [e]; rfl, ?_⟩
  rw [(takeHead_facts q op p b s).1]

theorem plansFrom_meetHandle (q use : Nat) (s : State) : PlansFrom q s (meetHandle use s).2 := by
  obtain ⟨_, _, _, _, _, e⟩ := meetHandle_parts use s
  exact plansFrom_of_queues (by rw [e]) (by rw [e]) (by rw [e])

theorem plansFrom_handedOff (q : Nat) (layer : BitVec 16) (s : State) : PlansFrom q s (acting layer (handedOff s).unheld) :=
  plansFrom_of_queues rfl rfl rfl

/-- The state in which firmware plans a packet that it starts at once. -/
def planState (q op : Nat) (p : Packet) (s : State) : State :=
  (meetHandle useQueue (acting p.layerId (handedOff (takeHead q op p false s)).unheld)).2

theorem plansFrom_planState (q op : Nat) (p : Packet) (s : State) : PlansFrom q s (planState q op p s) :=
  (plansFrom_takeHead q op p false s).trans ((plansFrom_handedOff q p.layerId _).trans (plansFrom_meetHandle q useQueue _))

/-- A firmware packet that succeeds with a plan that writes no handle: its plan, and the effect of that plan. -/
theorem SucceedsF.plain {q : Fin 64} {op : Nat} {p : Packet} {plan : InFlight → Cmd Plan} {s : State} {pl : Plan} {r : Res} {v : State}
    (h : SucceedsF q op p plan s pl r v) : ∃ u, (plan (fresh q op p true s)).run (planState q op p s) = .ok pl u ∧
      (pl.writes = [] → ∃ c, pl.run.run (launch c u) = .ok r v) := by
  obtain ⟨-, -, -, -, -, -, ⟨u, planned, ran⟩, -⟩ := h
  refine ⟨u, ok_of_readHandle planned, fun unwritten => ?_⟩
  unfold running at ran
  rw [unwritten, abandonHolding_nil] at ran
  exact ⟨_, ran⟩

/-! ### SET_POWER_CAP (R287) -/

/-- The effect of SET_POWER_CAP: its ledger record is due. -/
def capEffect (p : Packet) (c : InFlight) : Cmd Res := do
  upd fun s => roleAction (s.actor c) 0x11 (slice p.params 0 3) (.command c.id (.cap (p.num 16 2) (bit (p.num 18 1) 0))) s
  pure { wait := .record }

theorem planPowerCap_ok {p : Packet} {c : InFlight} {s u : State} {pl : Plan} (h : (planPowerCap p c).run s = .ok pl u) :
    700 ≤ p.num 16 2 ∧ p.num 16 2 ≤ s.ceiling ∧ pl = { run := capEffect p c } := by
  unfold planPowerCap at h
  obtain ⟨range, h⟩ := passed_require (ok_of_get (ok_of_get (ok_of_reservedZero h)))
  cases h
  simp only [Bool.and_eq_true, decide_eq_true_eq] at range
  exact ⟨range.1, range.2, rfl⟩

theorem mergesWith_roleAction (data : List Byte) (e : Effect) (a : Append) :
    ({ typ := rROLE_ACTION, payload := data, effect := e } : Append).mergesWith a = false := by
  simp [Append.mergesWith]

/-- A role action's record is due with its effect. -/
theorem mem_appends_roleAction (who : Option Binding) (code : Nat) (data : List Byte) (e : Effect) (s : State) :
    ∃ a ∈ (roleAction who code data e s).lgr.appends, a.effect = e := by
  unfold roleAction append
  dsimp only
  generalize [BitVec.ofNat 8 _, BitVec.ofNat 8 code] ++ _ ++ data.take 64 = payload
  refine ⟨⟨rROLE_ACTION, payload, e⟩, ?_, rfl⟩
  unfold addHeld
  split
  · rw [if_neg (by simp [mergesWith_roleAction])]
    simp
  · simp

/-! ### SCHEDULE_SET (R258) -/

theorem oweInstance_sched (i : Nat) (s : State) : (oweInstance i s).sched = s.sched := by
  unfold oweInstance
  split <;> rfl

/-- What a written entry reads as: none of kind 0, else its body. -/
theorem writeEntry_body (i : Nat) (b : EntryBody) (s : State) :
    (tfind (writeEntry i b s).sched i).map (·.body) = if b.kind = 0 then none else some b := by
  unfold writeEntry
  split
  · rw [tfind_terase_self]
    rfl
  · rw [tfind_tinsert_self]
    rfl

theorem writeEntry_other {i j : Nat} (h : j ≠ i) (b : EntryBody) (s : State) :
    tfind (writeEntry i b s).sched j = tfind s.sched j := by
  unfold writeEntry
  split
  · exact (tfind_terase_ne _ h).trans (congrArg (tfind · j) (oweInstance_sched i s))
  · exact (tfind_tinsert_ne _ _ h).trans (congrArg (tfind · j) (oweInstance_sched i s))

theorem freeEntry_some {s : State} {i : Nat} (h : s.freeEntry = some i) : 16 ≤ i ∧ i ≤ 47 ∧ tfind s.sched i = none := by
  have mem := List.mem_of_find?_eq_some h
  have free := List.find?_some h
  obtain ⟨k, below, rfl⟩ := List.mem_map.mp mem
  have below := List.mem_range.mp below
  rw [Bool.and_eq_true, Option.isNone_iff_eq_none] at free
  exact ⟨by omega, by omega, free.1⟩

/-- The entry that SCHEDULE_SET writes where its packet does not wait for a record. -/
def scheduleEntry (p : Packet) : EntryBody := if bit (p.num 17 1) 0 then { packetEntry p with kind := 0 } else packetEntry p

/-- The effects of SCHEDULE_SET at entry `i`: a write, or a ledger record that is due. -/
def scheduleEffect (p : Packet) (i : Nat) : Cmd Res := do
  upd (writeEntry i (scheduleEntry p))
  pure { detail := i }
def scheduleRecord (p : Packet) (c : InFlight) (i : Nat) : Cmd Res := do
  upd fun s => roleAction (s.actor c) 0x11 (slice p.params 0 40) (.command c.id (.schedule i (some (packetEntry p)))) s
  pure { wait := .record }

/-- The entry of a SCHEDULE_SET, in the state in which it is planned. -/
def State.scheduleIndex (s : State) (p : Packet) : Option Nat := if p.num 16 1 = 255 then s.freeEntry else some (p.num 16 1)

/-- The plan of a SCHEDULE_SET whose fields are in range. -/
def scheduleAt (p : Packet) (c : InFlight) (s : State) : Cmd Plan :=
  match s.scheduleIndex p with
  | none => refuse SCHEDULE_FULL
  | some i =>
    if !bit (p.num 17 1) 0 && (packetEntry p).kind = 4 then pure { run := scheduleRecord p c i }
    else pure { run := scheduleEffect p i }

/-- The checks of SCHEDULE_SET: its entry's number, and the role that a POWER_CAP entry asks for. -/
theorem planScheduleSet_checks {p : Packet} {c : InFlight} {s u : State} {pl : Plan} (h : (planScheduleSet p c).run s = .ok pl u) :
    ((16 ≤ p.num 16 1 ∧ p.num 16 1 ≤ 47) ∨ p.num 16 1 = 255) ∧
    (bit (p.num 17 1) 0 = false → (packetEntry p).kind = 4 → 2 ≤ (s.queue c.queue).role) ∧ (scheduleAt p c s).run s = .ok pl u := by
  unfold planScheduleSet at h
  obtain ⟨number, h⟩ := passed_require (ok_of_reservedZero h)
  have h := ok_of_get h
  refine ⟨by simpa using number, ?_⟩
  dsimp only at h
  split at h
  · obtain ⟨-, h⟩ := passed_require h
    obtain ⟨-, h⟩ := passed_require h
    obtain ⟨role, h⟩ := passed_require h
    exact ⟨fun _ cap => by simpa [cap] using role, ok_of_require h⟩
  · rename_i set
    exact ⟨fun clear => by simp [clear] at set, h⟩

/-- The two plans of SCHEDULE_SET, at the entry's index. -/
theorem scheduleAt_ok {p : Packet} {c : InFlight} {s t u : State} {pl : Plan} (h : (scheduleAt p c s).run t = .ok pl u) :
    u = t ∧ ∃ i, s.scheduleIndex p = some i ∧
      (bit (p.num 17 1) 0 = false ∧ (packetEntry p).kind = 4 ∧ pl = { run := scheduleRecord p c i } ∨
        (bit (p.num 17 1) 0 = true ∨ (packetEntry p).kind ≠ 4) ∧ pl = { run := scheduleEffect p i }) := by
  unfold scheduleAt at h
  split at h
  · cases h
  · rename_i i index
    split at h <;> rename_i kind <;> cases h
    · simp only [Bool.and_eq_true, Bool.not_eq_true', decide_eq_true_eq] at kind
      exact ⟨rfl, i, index, .inl ⟨kind.1, kind.2, rfl⟩⟩
    · refine ⟨rfl, i, index, .inr ⟨?_, rfl⟩⟩
      cases clear : bit (p.num 17 1) 0
      · exact .inr (by simpa [clear] using kind)
      · exact .inl rfl

/-- The index of an entry: the number that the packet names, or a free one. -/
theorem scheduleIndex_some {s : State} {p : Packet} {i : Nat} (number : (16 ≤ p.num 16 1 ∧ p.num 16 1 ≤ 47) ∨ p.num 16 1 = 255)
    (h : s.scheduleIndex p = some i) :
    16 ≤ i ∧ i ≤ 47 ∧ (p.num 16 1 ≠ 255 → i = p.num 16 1) ∧ (p.num 16 1 = 255 → tfind s.sched i = none) := by
  unfold State.scheduleIndex at h
  split at h
  · rename_i free
    obtain ⟨low, high, unused⟩ := freeEntry_some h
    exact ⟨low, high, fun named => absurd free named, fun _ => unused⟩
  · rename_i named
    cases h
    have range := number.resolve_right named
    exact ⟨range.1, range.2, fun _ => rfl, fun free => absurd free named⟩

theorem scheduleEntry_body {p : Packet} : (if (scheduleEntry p).kind = 0 then none else some (scheduleEntry p)) =
    if bit (p.num 17 1) 0 = true ∨ (packetEntry p).kind = 0 then none else some (packetEntry p) := by
  unfold scheduleEntry
  cases bit (p.num 17 1) 0 <;> simp

/-! ### What SET_POWER_CAP and SCHEDULE_SET leave -/

theorem PlansFrom.ceiling {q : Nat} {s u : State} (h : PlansFrom q s u) : u.ceiling = s.ceiling := by
  unfold State.ceiling
  rw [h.id]

theorem PlansFrom.role {q : Nat} {s u : State} (h : PlansFrom q s u) : (u.queue q).role = (s.queue q).role := by
  unfold Queue.role
  rw [h.binding]

theorem setPowerCap_leaves {q : Fin 64} {p : Packet} {s : State} {pl : Plan} {r : Res} {v : State}
    (h : SucceedsF q 0x82 p (planPowerCap p) s pl r v) : 700 ≤ p.num 16 2 ∧ p.num 16 2 ≤ s.ceiling ∧ r.wait = .record ∧
      ∃ a ∈ v.lgr.appends, a.effect = .command s.nextId (.cap (p.num 16 2) (bit (p.num 18 1) 0)) := by
  obtain ⟨u, planned, ran⟩ := h.plain
  obtain ⟨low, high, rfl⟩ := planPowerCap_ok planned
  obtain ⟨c, ran⟩ := ran rfl
  cases ran
  exact ⟨low, (plansFrom_planState q 0x82 p s).ceiling ▸ high, rfl, mem_appends_roleAction ..⟩

theorem scheduleSet_leaves {q : Fin 64} {p : Packet} {s : State} {pl : Plan} {r : Res} {v : State}
    (h : SucceedsF q 0x94 p (planScheduleSet p) s pl r v) :
    let clear := bit (p.num 17 1) 0
    let b := packetEntry p
    (clear = true ∨ b.kind ≠ 4 → r.wait = .done ∧ 16 ≤ r.detail ∧ r.detail ≤ 47 ∧
      (p.num 16 1 ≠ 255 → r.detail = p.num 16 1) ∧ (p.num 16 1 = 255 → tfind s.sched r.detail = none) ∧
      (∀ j, j ≠ r.detail → tfind v.sched j = tfind s.sched j) ∧
      (tfind v.sched r.detail).map (·.body) = if clear = true ∨ b.kind = 0 then none else some b) ∧
    (clear = false → b.kind = 4 → r.wait = .record ∧ (s.queue q).role ≥ 2 ∧
      ∃ i, ∃ a ∈ v.lgr.appends, a.effect = .command s.nextId (.schedule i (some b))) := by
  intro clear b
  obtain ⟨u, planned, ran⟩ := h.plain
  have start := plansFrom_planState q 0x94 p s
  obtain ⟨number, role, planned⟩ := planScheduleSet_checks planned
  obtain ⟨rfl, i, index, ⟨notClear, cap, rfl⟩ | ⟨written, rfl⟩⟩ := scheduleAt_ok planned
  · obtain ⟨c, ran⟩ := ran rfl
    cases ran
    refine ⟨fun h => ?_, fun _ _ => ⟨rfl, start.role ▸ role notClear cap, i, mem_appends_roleAction ..⟩⟩
    rcases h with set | other
    · exact absurd (set.symm.trans notClear) (by decide)
    · exact absurd cap other
  · obtain ⟨c, ran⟩ := ran rfl
    cases ran
    obtain ⟨low, high, named, free⟩ := scheduleIndex_some number index
    refine ⟨fun _ => ⟨rfl, low, high, named, start.sched ▸ free, fun j other => ?_, (writeEntry_body ..).trans scheduleEntry_body⟩,
      fun notClear cap => ?_⟩
    · exact (writeEntry_other other _ _).trans (congrArg (tfind · j) start.sched)
    · rcases written with set | other
      · exact absurd (set.symm.trans notClear) (by decide)
      · exact absurd cap other

end Sys2Proof.Machine
end

section
/-! SUPPORT. The effect of a ledger record on the command that waits for it (R311, R323 to R329): what the effect leaves, and that the command
then ends. -/

namespace Sys2Proof.Machine

/-! ### Bindings that end (R324) -/

theorem withdraw_binding (q : Nat) (byReset : Bool) (s : State) (r : Nat) :
    ((withdraw q byReset s).queue r).binding = if r = q then none else (s.queue r).binding := by
  unfold withdraw
  split
  · rename_i unbound
    split
    · subst r
      exact unbound
    · rfl
  · have kept : ∀ data t, (append rROLE_ACTION data .nothing (raiseSec 1 t)).queue r = t.queue r :=
      fun data t => queue_of_que (signalVector_que ..) r
    dsimp only
    rw [kept]
    split
    · subst r
      rw [queue_setQueue]
    · rename_i other
      rw [queue_setQueue_ne _ _ other]

theorem foldl_withdraw_binding (byReset : Bool) (l : List (Nat × Queue)) (s : State) (r : Nat) :
    ((l.foldl (fun s e => withdraw e.1 byReset s) s).queue r).binding =
      if r ∈ l.map (·.1) then none else (s.queue r).binding := by
  induction l generalizing s with
  | nil => rfl
  | cons e l ih =>
    rw [List.foldl_cons, ih, withdraw_binding]
    by_cases here : r = e.1
    · rw [if_pos here, ite_self, if_pos (by simp [here])]
    · rw [if_neg here]
      exact if_congr (by simp [here]) rfl rfl

theorem mem_of_tfind {α : Type} {t : Tab α} {k : Nat} {a : α} (h : tfind t k = some a) : (k, a) ∈ t := by
  induction t with
  | nil => cases h
  | cons e t ih =>
    unfold tfind at h
    split at h
    · rename_i here
      cases h
      exact here ▸ List.mem_cons_self
    · exact List.mem_cons_of_mem _ (ih h)

/-- No binding that the withdrawal is for is left. -/
theorem withdrawWhere_binding {p : Binding → Bool} {byReset : Bool} {s : State} {r : Nat} {b : Binding}
    (h : ((withdrawWhere p byReset s).queue r).binding = some b) : p b = false := by
  unfold withdrawWhere at h
  rw [foldl_withdraw_binding] at h
  split at h
  · cases h
  · rename_i kept
    by_contra held
    refine kept (List.mem_map.mpr ⟨(r, s.queue r), List.mem_filter.mpr ⟨mem_of_tfind ?_, ?_⟩, rfl⟩)
    · cases found : tfind s.que.queues r with
      | none =>
        have unbound : s.queue r = {} := by
          unfold State.queue tget
          rw [found]
          rfl
        rw [unbound] at h
        cases h
      | some v =>
        unfold State.queue tget
        rw [found]
        rfl
    · rw [h]
      simpa using held

/-! ### Key slots (R323) -/

theorem Sec.keyIn_setKey (c : Sec) (slot : Nat) (k : Option PubKey) : (c.setKey slot k).keyIn slot = k := by
  unfold Sec.setKey Sec.keyIn
  by_cases sixteen : slot = 16
  · rw [if_pos sixteen, if_pos sixteen]
  · rw [if_neg sixteen, if_neg sixteen]
    cases k
    · exact tfind_terase_self ..
    · exact tfind_tinsert_self ..

theorem Sec.keyIn_setKey_ne (c : Sec) {slot n : Nat} (k : Option PubKey) (other : n ≠ slot) : (c.setKey slot k).keyIn n = c.keyIn n := by
  unfold Sec.setKey Sec.keyIn
  by_cases sixteen : slot = 16
  · rw [if_pos sixteen, if_neg (by omega), if_neg (by omega)]
  · rw [if_neg sixteen]
    split
    · rfl
    · cases k
      · exact tfind_terase_ne _ other
      · exact tfind_tinsert_ne _ _ other

theorem changeKey_none {slot : Nat} {s : State} (empty : s.sec.keyIn slot = none) : changeKey slot none s = s :=
  if_pos (by simp [empty])

/-- The security block once key slot `slot` holds `k`. -/
def Sec.keyed (c : Sec) (slot : Nat) (k : Option PubKey) : Sec :=
  { c.setKey slot k with keygen := (c.keygen + 1) % 2 ^ 32 }

theorem Sec.keygen_setKey (c : Sec) (slot : Nat) (k : Option PubKey) : (c.setKey slot k).keygen = c.keygen := by
  unfold Sec.setKey
  split <;> rfl

/-- The state whose key slot `slot` holds `k`. -/
def rekeyed (slot : Nat) (k : Option PubKey) (s : State) : State := { s with sec := s.sec.keyed slot k }

/-- A key slot that changes: its bindings end, the slot is written, and KEYGEN counts. -/
theorem changeKey_eq {slot : Nat} {k : Option PubKey} {s : State} (changes : k ≠ none ∨ s.sec.keyIn slot ≠ none) :
    changeKey slot k s = raiseSec 3 (rekeyed slot k (withdrawWhere (fun b => b.holder == .slot slot) false s)) := by
  refine (if_neg ?_).trans ?_
  · rcases changes with h | h <;> simp [h]
  · unfold rekeyed Sec.keyed
    dsimp only
    rw [Sec.keygen_setKey]

/-- SEC_ after an interrupt for bit `b` of SEC_STATUS. -/
theorem raiseSec_sec (b : Nat) (s : State) : (raiseSec b s).sec = { s.sec with status := s.sec.status.raise b } := by
  obtain ⟨lnk, ms, e⟩ := signalVector_parts 64 { s with sec := { s.sec with status := s.sec.status.raise b } }
  unfold raiseSec
  rw [e]

theorem Withdrawn.sec {s t : State} (h : Withdrawn s t) : ∃ status, t.sec = { s.sec with status := status } := by
  obtain ⟨_, status, _, _, _, rfl⟩ := h
  exact ⟨status, rfl⟩

/-- What a change of a key slot leaves in the slots, in KEYGEN, in SEC_STATUS and in the bindings. -/
theorem changeKey_leaves {slot : Nat} {k : Option PubKey} {s : State} (changes : k ≠ none ∨ s.sec.keyIn slot ≠ none) :
    (changeKey slot k s).sec.keyIn slot = k ∧ (∀ n, n ≠ slot → (changeKey slot k s).sec.keyIn n = s.sec.keyIn n) ∧
      (changeKey slot k s).sec.keygen = (s.sec.keygen + 1) % 2 ^ 32 ∧ (changeKey slot k s).sec.status.bits.getLsbD 3 = true ∧
      ∀ r e, ((changeKey slot k s).queue r).binding = some e → e.holder ≠ .slot slot := by
  obtain ⟨status, withdrawn⟩ := (withdrawn_withdrawWhere (fun b => b.holder == .slot slot) false s).sec
  rw [changeKey_eq changes, raiseSec_sec]
  refine ⟨Sec.keyIn_setKey .., fun n other => ?_, ?_, Status.raise_bit _ (by decide), fun r b bound => ?_⟩
  · refine (Sec.keyIn_setKey_ne _ k other).trans ?_
    rw [withdrawn]
    rfl
  · dsimp only [rekeyed, Sec.keyed]
    rw [withdrawn]
  · have kept : ∀ t, (raiseSec 3 (rekeyed slot k t)).queue r = t.queue r := fun t => queue_of_que (signalVector_que ..) r
    rw [kept] at bound
    simpa using withdrawWhere_binding bound

/-- A change of a key slot leaves the commands in flight and the freeze. -/
structure KeepsFlight (s t : State) : Prop where
  flight : t.flight = s.flight
  seq : t.seq = s.seq

theorem KeepsFlight.trans {s t u : State} (h : KeepsFlight s t) (k : KeepsFlight t u) : KeepsFlight s u :=
  ⟨k.flight.trans h.flight, k.seq.trans h.seq⟩

theorem Withdrawn.keepsFlight {s t : State} (h : Withdrawn s t) : KeepsFlight s t := by
  obtain ⟨_, _, _, _, _, rfl⟩ := h
  exact ⟨rfl, rfl⟩

theorem keepsFlight_changeKey (slot : Nat) (k : Option PubKey) (s : State) : KeepsFlight s (changeKey slot k s) := by
  by_cases changes : k ≠ none ∨ s.sec.keyIn slot ≠ none
  · have written : ∀ t, KeepsFlight t (rekeyed slot k t) := fun t => ⟨rfl, rfl⟩
    rw [changeKey_eq changes]
    exact ((withdrawn_withdrawWhere ..).keepsFlight.trans (written _)).trans (withdrawn_raiseSec 3 _).keepsFlight
  · simp only [not_or, not_not] at changes
    obtain ⟨rfl, empty⟩ := changes
    rw [changeKey_none empty]
    exact ⟨rfl, rfl⟩

/-- Emptied key slots: those of a list are empty, and an empty one stays so. -/
theorem foldl_changeKey_none (l : List Nat) (s : State) (n : Nat) :
    (n ∈ l ∨ s.sec.keyIn n = none → (l.foldl (fun s i => changeKey i none s) s).sec.keyIn n = none) ∧
      KeepsFlight s (l.foldl (fun s i => changeKey i none s) s) := by
  induction l generalizing s with
  | nil => exact ⟨fun h => h.resolve_left (by simp), rfl, rfl⟩
  | cons i l ih =>
    obtain ⟨empty, flight⟩ := ih (changeKey i none s)
    refine ⟨fun h => empty ?_, (keepsFlight_changeKey i none s).trans flight⟩
    by_cases filled : s.sec.keyIn i = none
    · rw [changeKey_none filled]
      rcases h with mem | none
      · rcases List.mem_cons.mp mem with rfl | mem
        · exact .inr filled
        · exact .inl mem
      · exact .inr none
    · obtain ⟨self, others, -⟩ := changeKey_leaves (k := none) (.inr filled)
      by_cases here : n = i
      · exact .inr (here ▸ self)
      · rcases h with mem | none
        · exact .inl ((List.mem_cons.mp mem).resolve_left here)
        · exact .inr ((others n here).trans none)

theorem keyIn_releaseKeys (s : State) {n : Nat} (h : n ≤ 16) : (releaseKeys s).sec.keyIn n = none :=
  (foldl_changeKey_none (List.range 17) s n).1 (.inl (List.mem_range.mpr (by omega)))

theorem keepsFlight_releaseKeys (s : State) : KeepsFlight s (releaseKeys s) := (foldl_changeKey_none (List.range 17) s 0).2

/-! ### The end of a command that waits for its record -/

/-- A command that ends with a status and a detail. -/
def endAs (c : InFlight) (status detail : Nat) (s : State) : State :=
  finish { c with status := BitVec.ofNat 16 status, detail := BitVec.ofNat 64 detail } s

section
variable {c : InFlight} {s t : State}

theorem finishAs_found (found : s.flight.find? (fun e => e.id = c.id) = some c) (status detail : Nat) :
    finishAs c.id status detail s = endAs c status detail s := by
  unfold finishAs
  rw [found]
  rfl

theorem completeAction_found (found : s.flight.find? (fun e => e.id = c.id) = some c) (thawed : s.seq.frozen = false)
    (kept : KeepsFlight s t) (f : Option Fail) (detail : Nat) : completeAction c.id f detail t =
      endAs c (f.elim 0 Fail.status) (f.elim detail Fail.detail) t := by
  have found : t.flight.find? (fun e => e.id = c.id) = some c := kept.flight ▸ found
  unfold completeAction
  rw [found]
  dsimp only
  rw [if_neg (by simp [kept.seq, thawed])]
  cases f <;> exact finishAs_found found ..

theorem queueOf_found (found : s.flight.find? (fun e => e.id = c.id) = some c) : s.queueOf c.id = c.queue := by
  unfold State.queueOf
  rw [found]
  rfl

end

/-! ### The effects (R258, R287, R323, R329) -/

theorem keepsFlight_writeEntry (i : Nat) (b : EntryBody) (s : State) : KeepsFlight s (writeEntry i b s) := by
  have owed : KeepsFlight s (oweInstance i s) := by
    unfold oweInstance
    split <;> exact ⟨rfl, rfl⟩
  unfold writeEntry
  split <;> exact owed.trans ⟨rfl, rfl⟩

section
variable {c : InFlight} {s : State} (found : s.flight.find? (fun e => e.id = c.id) = some c) (thawed : s.seq.frozen = false)
include found thawed

/-- An action that only changes the security block, the queues or the ledger: the command ends with it. -/
theorem applyEffect_ok {a : Action} {t : State} {f : Option Fail} {detail : Nat} (kept : KeepsFlight s t)
    (action : applyAction c.id a s = completeAction c.id f detail t) :
    applyEffect (.command c.id a) s = endAs c (f.elim 0 Fail.status) (f.elim detail Fail.detail) t :=
  action.trans (completeAction_found found thawed kept f detail)

theorem applyEffect_cap (w : Nat) (persist : Bool) : applyEffect (.command c.id (.cap w persist)) s = endAs c 0 (s.pwr.cap + 65536 * w)
    { s with pwr := { s.pwr with cap := w, persisted := if persist then some w else s.pwr.persisted } } := by
  cases persist <;> exact applyEffect_ok (f := none) found thawed ⟨rfl, rfl⟩ rfl

theorem applyEffect_schedule (slot : Nat) (body : EntryBody) :
    applyEffect (.command c.id (.schedule slot (some body))) s = endAs c 0 slot (writeEntry slot body s) :=
  applyEffect_ok (f := none) found thawed (keepsFlight_writeEntry ..) rfl

theorem applyEffect_bind {b : Binding} (valid : ((s.session b.session).bind s.bindable).isSome = true) :
    applyEffect (.command c.id (.bind b)) s = endAs c 0 0 (s.setQueue c.queue { s.queue c.queue with binding := some b }) := by
  refine applyEffect_ok (f := none) found thawed ⟨rfl, rfl⟩ ?_
  unfold applyAction applySecurity
  dsimp only
  rw [valid, queueOf_found found]
  rfl

theorem applyEffect_bind_invalid {b : Binding} (invalid : ((s.session b.session).bind s.bindable).isSome = false) :
    applyEffect (.command c.id (.bind b)) s = endAs c 0x0602 0 s := by
  refine applyEffect_ok (f := some { status := SESSION_INVALID, detail := 0 }) (detail := 0) found thawed ⟨rfl, rfl⟩ ?_
  unfold applyAction applySecurity
  dsimp only
  rw [invalid]
  rfl

theorem applyEffect_unbind : applyEffect (.command c.id .unbind) s =
    endAs c 0 0 (s.setQueue c.queue { s.queue c.queue with binding := none }) := by
  refine applyEffect_ok (f := none) found thawed ⟨rfl, rfl⟩ ?_
  unfold applyAction applySecurity
  rw [queueOf_found found]

theorem applyEffect_fwActivate (slot : Bool) : ∃ t u, applyEffect (.command c.id (.fwActivate slot)) s = t ∧
    t = endAs c 0 (fwDetail slot (imageSvn (s.sec.image slot))) u ∧ u.sec.next = slot := by
  obtain ⟨u, security⟩ : ∃ u, u = applySecurity (s.queueOf c.id) (.fwActivate slot) s := ⟨_, rfl⟩
  have kept : KeepsFlight s u := by
    rw [security]
    exact ⟨rfl, rfl⟩
  refine ⟨_, u, applyEffect_ok (f := none) (detail := fwDetail slot (imageSvn (s.sec.image slot))) found thawed kept ?_, rfl, ?_⟩
  · rw [security]
    rfl
  · rw [security]
    rfl

theorem applyEffect_fwCommit (svn : Nat) : ∃ t u, applyEffect (.command c.id (.fwCommit svn)) s = t ∧
    t = endAs c 0 (fwDetail s.sec.running svn) u ∧ u.sec.fusedSvn = max s.sec.fusedSvn svn := by
  obtain ⟨u, security⟩ : ∃ u, u = applySecurity (s.queueOf c.id) (.fwCommit svn) s := ⟨_, rfl⟩
  have kept : KeepsFlight s u := by
    rw [security]
    exact ⟨rfl, rfl⟩
  refine ⟨_, u, applyEffect_ok (f := none) (detail := fwDetail s.sec.running svn) found thawed kept ?_, rfl, ?_⟩
  · rw [security]
    rfl
  · rw [security]
    rfl

omit thawed in
/-- An image that has been programmed is verified again from its slot. -/
theorem finishStaging_found (slot : Bool) (img : List Byte) : ∃ u, finishStaging c.id slot img s =
    (match imageFault s.sec (flashImage img) with
      | none => endAs c 0 (fwDetail slot (imageSvn img)) u
      | some f => endAs c (if f = 2 then 0x0604 else 0x0603) 0 u) ∧
    u.sec = s.sec.setImage slot img (imageFault s.sec (flashImage img)).isNone := by
  unfold finishStaging
  dsimp only
  split
  · rename_i rollback
    exact ⟨_, by rw [finishAs_found (by exact found), rollback]; rfl, by rw [rollback]⟩
  · rename_i f other rejected
    exact ⟨_, by rw [finishAs_found (by exact found), rejected]; dsimp only; rw [if_neg (by simpa using other)]; rfl, by rw [rejected]⟩
  · rename_i valid
    exact ⟨_, by rw [finishAs_found (by exact found), valid]; rfl, by rw [valid]; rfl⟩

end

/-- Settles O22: each packet is its issue (`issueF_ok`); the plans of SET_POWER_CAP and SCHEDULE_SET give what those leave; and the effect of a
record is its action, with which the command ends. -/
theorem firmwareCommandsRun : Obligations.FirmwareCommandsRun := by
  intro q p m s pl r v
  have run {op : Nat} {c : Instr} {plan : InFlight → Cmd Plan} {m : Option RailMeans} (e : exec c s = .next (issueF q op p plan s m))
      (h : SucceedsF q op p plan s pl r v) : exec c s = .next (acting 0xFFFF (issued (fresh q op p true s) pl r v)) :=
    e.trans (congrArg Host.Outcome.next (issueF_ok h))
  refine ⟨run rfl, run rfl, fun h => ⟨run rfl h, setPowerCap_leaves h⟩, run rfl, run rfl, run rfl, run rfl, run rfl, run rfl, run rfl, run rfl,
    fun h => ⟨run rfl h, scheduleSet_leaves h⟩, run rfl, run rfl, ?_⟩
  intro c slot k w other persist b body img found thawed ends takes
  refine ⟨applyEffect_cap found thawed w persist, applyEffect_schedule found thawed slot body, applyEffect_bind found thawed,
    applyEffect_bind_invalid found thawed, applyEffect_unbind found thawed,
    fun _ => ⟨?_, ?_, ?_, ?_, fun n => keyIn_releaseKeys s, fun o changes => ?_⟩,
    ⟨_, rfl, rfl⟩, applyEffect_fwActivate found thawed other, applyEffect_fwCommit found thawed w, finishStaging_found found other img⟩
  · exact applyEffect_ok (f := none) found thawed (keepsFlight_changeKey ..) rfl
  · exact applyEffect_ok (f := none) found thawed (keepsFlight_changeKey ..) rfl
  · exact applyEffect_ok (f := none) found thawed (keepsFlight_changeKey ..) rfl
  · exact applyEffect_ok (f := none) found thawed (keepsFlight_releaseKeys s) rfl
  · obtain ⟨self, others, keygen, status, bindings⟩ := changeKey_leaves changes
    exact ⟨self, fun n ne _ => others n ne, keygen, status, bindings⟩

end Sys2Proof.Machine
end

section
/-! SUPPORT. What the operations on a line of memory leave in the contents of the lines (R133, R145, R156, R160): a write, a merge and a clear change
the contents of their own line alone, and where they do not fail the line holds what was written. -/

namespace Sys2Proof.Machine

/-! ### Contents of lines -/

theorem payload_of_bytes {s t : State} (h : t.bytes = s.bytes) (id : Nat) : t.payload id = s.payload id :=
  payload_congr fun _ _ => by rw [h]

theorem payload_length (s : State) (id : Nat) : (s.payload id).length = 512 := by
  simp [State.payload]

theorem length_lset {α : Type} (l : List α) (i : Nat) (a : α) : (lset l i a).length = l.length := by
  induction l generalizing i with
  | nil => rfl
  | cons x l ih => cases i <;> simp [lset, ih]

theorem length_changeBytes (l : List Byte) (wrong : List (Nat × Byte)) : (changeBytes l wrong).length = l.length := by
  unfold changeBytes
  induction wrong generalizing l with
  | nil => rfl
  | cons e wrong ih => rw [List.foldl_cons, ih, length_lset]

theorem length_splice {line b : List Byte} {pos : Nat} (room : pos + b.length ≤ 512) (whole : line.length = 512) :
    (splice line pos b).length = 512 := by
  simp only [splice, List.length_append, List.length_take, List.length_drop, whole]
  omega

/-- A pair's state, named by the match that takes the pair apart. -/
theorem bytes_of_snd {α : Type} {s t : State} {r : α × State} {a : α} (h : r.2.bytes = s.bytes) (e : r = (a, t)) : t.bytes = s.bytes := by
  rw [e] at h
  exact h

/-! ### A line that is read has 512 bytes -/

/-- What is read has the length of a line. -/
def LineOut.Whole (o : LineOut) : Prop := ∀ b x w, o = .ok b x w → b.length = 512

theorem LineOut.whole_ok {b : List Byte} {x : BitVec 32} {w : Bool} (h : b.length = 512) : (LineOut.ok b x w).Whole := by
  intro b' x' w' e
  cases e
  exact h

theorem length_candidate {id d : Nat} {s : State} {b : List Byte} (h : candidate id s d = some b) : b.length = 512 := by
  unfold candidate at h
  split at h
  · split at h
    · cases h
      rw [length_changeBytes, payload_length]
    · cases h
  · cases h

theorem length_localise {id : Nat} {name : LineName} {s : State} {b : List Byte} (h : (localise id name s).1 = some b) : b.length = 512 := by
  unfold localise at h
  dsimp only at h
  split at h
  · rename_i d c found
    cases h
    have mem : (d, b) ∈ (List.range 8).filterMap fun d => (candidate id s d).map fun b => (d, b) := by rw [found]; exact List.mem_cons_self
    obtain ⟨k, -, e⟩ := List.mem_filterMap.mp mem
    obtain ⟨c, candidate, e⟩ := Option.map_eq_some_iff.mp e
    cases e
    exact length_candidate candidate
  · cases h

theorem whole_patternFound (id : Nat) (name : LineName) (s : State) : (patternFound id name s).1.Whole := by
  unfold patternFound
  dsimp only
  split
  · split
    · rename_i found
      exact LineOut.whole_ok (length_localise (congrArg Prod.fst found))
    · nofun
  · nofun

theorem whole_decodeLine (id : Nat) (name : LineName) (scrub : Bool) (s : State) : (decodeLine id name scrub s).1.Whole := by
  unfold decodeLine
  dsimp only
  generalize (if ((s.stack (lineStack id)).erased (lineNo id)).isEmpty = true then s else count 2 (lineStack id) 9 1 s) = t
  split
  · exact LineOut.whole_ok (payload_length ..)
  · exact whole_patternFound id name t
  · split
    · split
      · exact whole_patternFound id name t
      · nofun
    · exact LineOut.whole_ok ((length_changeBytes ..).trans (payload_length ..))

theorem whole_readLine (id : Nat) (name : LineName) (s : State) : (readLine id name s).1.Whole := by
  have zeros : (LineOut.ok (List.replicate 512 0) 0 false).Whole := LineOut.whole_ok (List.length_replicate ..)
  unfold readLine
  dsimp only
  split
  · split
    · nofun
    · split
      · nofun
      · split
        · nofun
        · split
          · exact zeros
          · split
            · nofun
            · exact whole_decodeLine id name false _
  · split
    · nofun
    · split
      · exact LineOut.whole_ok (payload_length ..)
      · exact zeros

/-! ### What a write of one line leaves -/

/-- A write of line `id`, in state `s`, that answers a failure or none: no other line changes, a failure has a status, and without one the
line holds the bytes that `holds` names. -/
structure WritesLine (id : Nat) (holds : Option (List Byte)) (s : State) (r : Option Fail × State) : Prop where
  other : ∀ j, j ≠ id → r.2.payload j = s.payload j
  fails : ∀ e, r.1 = some e → e.status ≠ 0
  done : r.1 = none → ∀ b, holds = some b → r.2.payload id = b

section
variable {id : Nat} {want : Option (List Byte)} {s t : State} {f : Fail}

/-- A write that fails. -/
theorem WritesLine.failed (bytes : t.bytes = s.bytes) (status : f.status ≠ 0) : WritesLine id want s (some f, t) where
  other j _ := payload_of_bytes bytes j
  fails e h := by cases h; exact status
  done h := by cases h

/-- A line that is stored, between steps that change no contents. -/
theorem WritesLine.stored {u : State} {b : List Byte} {made : Nat} (before : u.bytes = s.bytes) (after : t.bytes = (storeLine id b made u).bytes)
    (whole : b.length = 512) (holds : ∀ c, want = some c → c = b) : WritesLine id want s (none, t) where
  other j other := (payload_of_bytes after j).trans ((storeLine_payload_ne other made u whole).trans (payload_of_bytes before j))
  fails e h := by cases h
  done _ c h := (payload_of_bytes after id).trans ((storeLine_payload id made u whole).trans (holds c h).symm)

theorem WritesLine.of_bytes {u : State} {r : Option Fail × State} (h : WritesLine id want u r) (bytes : u.bytes = s.bytes) :
    WritesLine id want s r where
  other j other := (h.other j other).trans (payload_of_bytes bytes j)
  fails := h.fails
  done := h.done

end

theorem stackFailed : STACK_FAILED ≠ 0 := by decide
theorem crcFailed : STRAND_CRC_MISMATCH ≠ 0 := by decide
theorem uncorrectable : UNCORRECTABLE ≠ 0 := by decide
theorem sramFailed : SRAM_UNCORRECTABLE ≠ 0 := by decide

theorem writesLine_writeLine (id : Nat) (name : LineName) {b : List Byte} (x : BitVec 32) (last : Nat) (s : State) (whole : b.length = 512) :
    WritesLine id (some b) s (writeLine id name b x last s) := by
  have same : ∀ c, some b = some c → c = b := fun c h => (Option.some.inj h).symm
  have checked := checkForWrite_bytes id s
  unfold writeLine
  dsimp only
  split
  · split
    · exact .failed rfl stackFailed
    · split
      · exact .failed ((reportCrc_bytes ..).trans (count_bytes ..)) crcFailed
      · split <;> rename_i e <;> have bytes := bytes_of_snd checked e
        · exact .stored bytes rfl whole same
        · exact .failed bytes stackFailed
  · split
    · exact .stored rfl rfl whole same
    · exact .stored rfl rfl whole same

theorem writesLine_mergeLine (id : Nat) (name : LineName) {pos : Nat} {b : List Byte} (s : State) (room : pos + b.length ≤ 512) :
    WritesLine id none s (mergeLine id name pos b s) := by
  have read := readLine_bytes id name s
  have whole := whole_readLine id name s
  unfold mergeLine
  split <;> rename_i e <;> have bytes := bytes_of_snd read e
  · rename_i old x w u
    have length : (splice old pos b).length = 512 := length_splice room (whole old x w (congrArg Prod.fst e))
    have checked := checkForWrite_bytes id u
    dsimp only
    split
    · exact .failed ((reportCrc_bytes ..).trans bytes) crcFailed
    · split
      · split <;> rename_i e <;> have checked := bytes_of_snd checked e
        · exact .stored (checked.trans bytes) (count_bytes ..) length nofun
        · exact .failed (checked.trans bytes) stackFailed
      · exact .stored bytes (count_bytes ..) length nofun
  · exact .failed ((reportUncorr_bytes ..).trans bytes) uncorrectable
  · exact .failed bytes stackFailed
  · exact .failed ((reportSram_bytes ..).trans bytes) sramFailed

/-- The state in which a line is cleared: its valid bit is clear and its bytes read as zeros. -/
def cleared (id : Nat) (s : State) : State :=
  let t : State := { s with store := { s.store with
    cells := putBytes s.store.cells (id * 512) (List.replicate 512 0), valid := serase s.store.valid id,
    crcXor := terase s.store.crcXor id, sram := s.store.sram.filter fun e => e.place ≠ .hoop id, made := terase s.store.made id } }
  if isHbm id then leavePoison id t else t

/-- The state in which a clear has fetched the line's valid line, where HBM3 holds it. -/
def fetchValid (id : Nat) (s : State) : State :=
  if isHbm id then (useCheck (lineStack id) (validLineOf (lineNo id)) (s.valid id) s).2 else s

/-- A clear is refused by a stack that has failed, before or after the fetch, or is made. -/
theorem clearLine_cases (id : Nat) (s : State) : clearLine id s = (some { status := STACK_FAILED, detail := lineStack id }, s) ∨
    clearLine id s = (some { status := STACK_FAILED, detail := lineStack id }, fetchValid id s) ∨
    clearLine id s = (none, cleared id (fetchValid id s)) := by
  unfold clearLine cleared fetchValid
  dsimp only
  generalize List.replicate 512 (0 : Byte) = z
  generalize (if isHbm id = true then (useCheck (lineStack id) (validLineOf (lineNo id)) (s.valid id) s).2 else s) = u
  split
  · exact .inl rfl
  · split
    · exact .inr (.inl rfl)
    · exact .inr (.inr rfl)

theorem fetchValid_bytes (id : Nat) (s : State) : (fetchValid id s).bytes = s.bytes := by
  unfold fetchValid
  split
  · exact useCheck_bytes ..
  · rfl

theorem cleared_bytes (id : Nat) (s : State) :
    (cleared id s).bytes = (putBytes s.bytes.1 (id * 512) (List.replicate 512 0), s.bytes.2) := by
  unfold cleared
  dsimp only
  generalize List.replicate 512 (0 : Byte) = z
  split
  · exact leavePoison_bytes ..
  · rfl

theorem writesLine_clearLine (id : Nat) (s : State) : WritesLine id (some (List.replicate 512 0)) s (clearLine id s) := by
  have fetched := fetchValid_bytes id s
  rcases clearLine_cases id s with e | e | e <;> rw [e]
  · exact .failed rfl stackFailed
  · exact .failed fetched stackFailed
  · exact .stored (made := 0) fetched ((cleared_bytes ..).trans (storeLine_bytes ..).symm) (List.length_replicate ..)
      fun _ h => (Option.some.inj h).symm

end Sys2Proof.Machine
end

section
/-! SUPPORT. FILL (R211): the pieces of a region, and what writing them leaves in its lines. -/

namespace Sys2Proof.Machine

/-! ### Pieces of a region -/

theorem pieces_nil (off n : Nat) : pieces off [] n = [] := by cases n <;> rfl

theorem pieces_succ {off n : Nat} {bytes : List Byte} (filled : bytes ≠ []) : pieces off bytes (n + 1) =
    (off / 512, off % 512, bytes.take (512 - off % 512)) :: pieces (off + (512 - off % 512)) (bytes.drop (512 - off % 512)) n := by
  rw [pieces, if_neg (by simpa using filled)]

/-- Each piece lies in a line of the region, and within that line. -/
theorem mem_pieces {off n : Nat} {bytes : List Byte} {p : Nat × Nat × List Byte} (h : p ∈ pieces off bytes n) :
    off / 512 ≤ p.1 ∧ p.1 ≤ (off + bytes.length - 1) / 512 ∧ p.2.1 + p.2.2.length ≤ 512 := by
  induction n generalizing off bytes with
  | zero => cases h
  | succ n ih =>
    by_cases empty : bytes = []
    · rw [empty, pieces_nil] at h
      cases h
    · have filled := List.length_pos_iff.mpr empty
      rw [pieces_succ empty] at h
      rcases List.mem_cons.mp h with rfl | h
      · simp only [List.length_take]
        omega
      · by_cases rest : bytes.length ≤ 512 - off % 512
        · rw [List.drop_eq_nil_of_le rest, pieces_nil] at h
          cases h
        · obtain ⟨low, high, room⟩ := ih h
          rw [List.length_drop] at high
          omega

/-- The pieces lie in rising lines. -/
theorem pairwise_pieces (off n : Nat) (bytes : List Byte) : (pieces off bytes n).Pairwise fun a b => a.1 < b.1 := by
  induction n generalizing off bytes with
  | zero => exact List.Pairwise.nil
  | succ n ih =>
    by_cases empty : bytes = []
    · rw [empty, pieces_nil]
      exact List.Pairwise.nil
    · rw [pieces_succ empty]
      refine List.pairwise_cons.mpr ⟨fun b mem => ?_, ih ..⟩
      have := (mem_pieces mem).1
      dsimp only
      omega

/-- A line that the region holds whole is a piece of its own. -/
theorem whole_mem_pieces {off n k : Nat} {bytes : List Byte} (fuel : off % 512 + bytes.length ≤ 512 * n) (low : off ≤ 512 * k)
    (high : 512 * k + 512 ≤ off + bytes.length) : (k, 0, (bytes.drop (512 * k - off)).take 512) ∈ pieces off bytes n := by
  induction n generalizing off bytes with
  | zero => omega
  | succ n ih =>
    rw [pieces_succ (List.length_pos_iff.mp (by omega))]
    by_cases here : off = 512 * k
    · refine List.mem_cons.mpr (.inl ?_)
      rw [show off / 512 = k by omega, show off % 512 = 0 by omega, show 512 * k - off = 0 by omega]
      rfl
    · refine List.mem_cons_of_mem _ ?_
      have later := ih (off := off + (512 - off % 512)) (bytes := bytes.drop (512 - off % 512))
        (by rw [List.length_drop]; omega) (by omega) (by rw [List.length_drop]; omega)
      rw [List.drop_drop] at later
      rwa [show 512 - off % 512 + (512 * k - (off + (512 - off % 512))) = 512 * k - off by omega] at later

/-! ### Lines of a handle -/

theorem lineOf_of_placer {s t : State} (h : t.placer = s.placer) : t.lineOf = s.lineOf := by
  funext i d k
  unfold State.lineOf
  rw [current_of_placer h]

theorem lineOf_of_location {d e : Desc} (h : e.location = d.location) (s : State) (i k : Nat) : s.lineOf i e k = s.lineOf i d k := by
  unfold State.lineOf
  rw [h]

theorem fetchValid_placer (id : Nat) (s : State) : (fetchValid id s).placer = s.placer := ite_placer (useCheck_placer ..) rfl

theorem cleared_placer (id : Nat) (s : State) : (cleared id s).placer = s.placer := by
  unfold cleared
  generalize List.replicate 512 (0 : Byte) = z
  exact ite_placer (leavePoison_placer ..) rfl

theorem clearLine_placer (id : Nat) (s : State) : (clearLine id s).2.placer = s.placer := by
  rcases clearLine_cases id s with e | e | e <;> rw [e]
  · exact fetchValid_placer ..
  · exact (cleared_placer ..).trans (fetchValid_placer ..)

theorem fillPiece_placer (die : Option Nat) (h : BitVec 32) (idx : Nat) (d : Desc) (p : Nat × Nat × List Byte) (s : State) :
    (fillPiece die h idx d p s).2.placer = s.placer := by
  unfold fillPiece
  split
  · exact clearLine_placer ..
  · exact writePiece_placer ..

/-! ### Pieces that are written -/

/-- The contents that a piece gives its line: those of a whole line, and of a part of a line none that are known. -/
def wholeLine (b : List Byte) : Option (List Byte) := if b.length = 512 then some b else none

theorem writesLine_fillPiece (die : Option Nat) (h : BitVec 32) (idx : Nat) (d : Desc) {p : Nat × Nat × List Byte} (s : State)
    (room : p.2.1 + p.2.2.length ≤ 512) : WritesLine (s.lineOf idx d p.1) (wholeLine p.2.2) s (fillPiece die h idx d p s) := by
  unfold fillPiece
  split
  · rename_i zeros
    simp only [Bool.and_eq_true, decide_eq_true_eq, List.all_eq_true, beq_iff_eq] at zeros
    rw [wholeLine, if_pos zeros.1, List.eq_replicate_iff.mpr zeros]
    exact (writesLine_clearLine ..).of_bytes rfl
  · unfold writePiece
    dsimp only
    split
    · rename_i whole
      rw [wholeLine, if_pos whole]
      exact (writesLine_writeLine (whole := whole) ..).of_bytes rfl
    · rename_i part
      rw [wholeLine, if_neg part]
      exact (writesLine_mergeLine (room := room) ..).of_bytes rfl

/-- Writes of pieces to lines `line`: no other line changes, a failure has a status, and without one, where the lines are apart, each
line that a piece holds whole holds its bytes. -/
structure WritesPieces (line : Nat → Nat) (l : List (Nat × Nat × List Byte)) (s : State) (r : Option Fail × State) : Prop where
  other : ∀ j, (∀ p ∈ l, j ≠ line p.1) → r.2.payload j = s.payload j
  fails : ∀ e, r.1 = some e → e.status ≠ 0
  done : r.1 = none → (l.Pairwise fun a b => line a.1 ≠ line b.1) → ∀ p ∈ l, p.2.2.length = 512 → r.2.payload (line p.1) = p.2.2

theorem writesPieces_fillPieces (die : Option Nat) (h : BitVec 32) (idx : Nat) (d : Desc) (l : List (Nat × Nat × List Byte)) (s : State)
    (room : ∀ p ∈ l, p.2.1 + p.2.2.length ≤ 512) : WritesPieces (s.lineOf idx d) l s (fillPieces die h idx d l s) := by
  induction l generalizing s with
  | nil => exact ⟨fun _ _ => rfl, nofun, nofun⟩
  | cons p l ih =>
    have first := writesLine_fillPiece die h idx d s (room p List.mem_cons_self)
    have rest := ih (fillPiece die h idx d p s).2 fun p mem => room p (List.mem_cons_of_mem _ mem)
    rw [lineOf_of_placer (fillPiece_placer ..)] at rest
    have e : fillPieces die h idx d (p :: l) s =
        ((fillPiece die h idx d p s).1.or (fillPieces die h idx d l (fillPiece die h idx d p s).2).1,
          (fillPieces die h idx d l (fillPiece die h idx d p s).2).2) := rfl
    rw [e]
    refine ⟨fun j apart => ?_, fun f fails => ?_, fun done apart a mem whole => ?_⟩
    · exact (rest.other j fun a mem => apart a (List.mem_cons_of_mem _ mem)).trans (first.other j (apart p List.mem_cons_self))
    · rcases Option.or_eq_some_iff.mp fails with h | ⟨-, h⟩
      · exact first.fails f h
      · exact rest.fails f h
    · obtain ⟨done, later⟩ := Option.or_eq_none_iff.mp done
      obtain ⟨here, apart⟩ := List.pairwise_cons.mp apart
      rcases List.mem_cons.mp mem with rfl | mem
      · exact (rest.other _ here).trans (first.done done _ (if_pos whole))
      · exact rest.done later apart a mem whole

end Sys2Proof.Machine
end

section
/-! SUPPORT. FILL and COPY as packets (R211): the state in which they take effect holds what the module held, with every handle where it was. -/

namespace Sys2Proof.Machine

/-! ### What the checks let through -/

theorem ok_of_requireLive {α : Type} {g : BitVec 32} {f : Unit → Cmd α} {s u : State} {a : α}
    (h : (requireLive g >>= f).run s = .ok a u) : (f ()).run s = .ok a u :=
  ok_of_require (h : (require (s.live g) HANDLE_INVALID g.toNat >>= f).run s = .ok a u)

theorem ok_of_checkExtent {α : Type} {g : BitVec 32} {off len : Nat} {f : Unit → Cmd α} {s u : State} {a : α}
    (h : (checkExtent g off len >>= f).run s = .ok a u) : (f ()).run s = .ok a u :=
  ok_of_require (h : (require (len == 0 || off + len ≤ s.handleSize g) REGION_OUT_OF_BOUNDS g.toNat >>= f).run s = .ok a u)

/-! ### The state in which a move takes effect -/

/-- In `t` the stores hold what they hold in `s`, and every handle lies where it lay. -/
structure SameStores (s t : State) : Prop where
  store : t.store = s.store
  current : t.plc.current = s.plc.current
  desc : ∀ g i d, s.desc g = some (i, d) → ∃ e, t.desc g = some (i, e) ∧ e.location = d.location

theorem SameStores.trans {s t u : State} (h : SameStores s t) (k : SameStores t u) : SameStores s u := by
  refine ⟨k.store.trans h.store, k.current.trans h.current, fun g i d found => ?_⟩
  obtain ⟨e, found, same⟩ := h.desc g i d found
  obtain ⟨e', found, same'⟩ := k.desc g i e found
  exact ⟨e', found, same'.trans same⟩

theorem sameStores_of_plc {s t : State} (store : t.store = s.store) (plc : t.plc = s.plc) : SameStores s t := by
  refine ⟨store, by rw [plc], fun g i d found => ⟨d, ?_, rfl⟩⟩
  unfold State.desc at found ⊢
  rw [plc]
  exact found

theorem SameStores.payload {s t : State} (h : SameStores s t) (id : Nat) : t.payload id = s.payload id := by
  unfold State.payload
  rw [h.store]

theorem SameStores.lineOf {s t : State} (h : SameStores s t) {d e : Desc} (same : e.location = d.location) (i k : Nat) :
    t.lineOf i e k = s.lineOf i d k := by
  unfold State.lineOf
  rw [h.current, same]

/-- A handle is found at the index in its low bits. -/
theorem desc_eq_some {s : State} {g : BitVec 32} {i : Nat} {d : Desc} :
    s.desc g = some (i, d) ↔ i = g.toNat % 65536 ∧ tfind s.plc.map i = some d ∧ d.handle = g := by
  unfold State.desc
  dsimp only
  constructor
  · intro h
    split at h
    · split at h
      · cases h
        exact ⟨rfl, by assumption, by assumption⟩
      · cases h
    · cases h
  · rintro ⟨rfl, found, rfl⟩
    rw [found]
    simp

theorem sameStores_modDesc (i : Nat) {f : Desc → Desc} (handle : ∀ d, (f d).handle = d.handle) (location : ∀ d, (f d).location = d.location)
    (s : State) : SameStores s (modDesc i f s) := by
  unfold modDesc
  split
  · rename_i d there
    refine ⟨rfl, rfl, fun g j e found => ?_⟩
    obtain ⟨index, found, named⟩ := desc_eq_some.mp found
    by_cases here : j = i
    · subst here
      cases there.symm.trans found
      exact ⟨f d, desc_eq_some.mpr ⟨index, tfind_tinsert_self .., (handle d).trans named⟩, location d⟩
    · exact ⟨e, desc_eq_some.mpr ⟨index, (tfind_tinsert_ne _ _ here).trans found, named⟩, rfl⟩
  · exact sameStores_of_plc rfl rfl

theorem sameStores_advanceGen (g : BitVec 32) (s : State) : SameStores s (advanceGen g s) := by
  unfold advanceGen
  split
  · exact sameStores_modDesc _ (f := fun d => { d with writeGen := d.writeGen + 1 }) (fun _ => rfl) (fun _ => rfl) s
  · exact sameStores_of_plc rfl rfl

/-- With no drain in flight, a packet's command holds no drain's sources. -/
theorem holding_of_no_drain {s : State} (h : ∀ c ∈ s.flight, c.opcode ≠ 0x4A) (id : Nat) (hs : List (BitVec 32)) : s.holding id hs = [] :=
  List.filter_eq_nil_iff.mpr fun c mem => by simp [h c mem]

theorem abandonHolding_of_no_drain {s : State} (h : ∀ c ∈ s.flight, c.opcode ≠ 0x4A) (id : Nat) (hs : List (BitVec 32)) :
    abandonHolding id hs s = s := by
  unfold abandonHolding
  rw [holding_of_no_drain h]
  rfl

/-- The plan of a move to one region, with the effect `run`. -/
def movePlan (g : BitVec 32) (off len : Nat) (names : List (BitVec 32)) (run : Cmd Res) : Plan := { outs := [(g, off, len)], names, run }

theorem movePlan_writes {len : Nat} (long : len ≠ 0) (g : BitVec 32) (off : Nat) (names : List (BitVec 32)) (run : Cmd Res) :
    (movePlan g off len names run).writes = [g] := by
  simp [Plan.writes, movePlan, long]

/-- A move that succeeds: its effect, from a state with the stores and the handles as they were, and the state after its issue. -/
theorem exec_move {q : Fin 64} {op : Nat} {p : Packet} {plan : Cmd Plan} {c : Instr} {s : State} {pl : Plan} {r : Res} {v : State}
    {g : BitVec 32} {off len : Nat} {names : List (BitVec 32)} {run : Cmd Res} (runs : exec c s = .next (issueS q op p plan s))
    (h : SucceedsS q op p plan s pl r v) (no_drain : ∀ c ∈ s.flight, c.opcode ≠ 0x4A) (long : len ≠ 0)
    (planned : ∀ {t u}, plan.run t = .ok pl u → u = t ∧ pl = movePlan g off len names run) :
    ∃ w t, SameStores s w ∧ run.run w = .ok r v ∧ exec c s = .next t ∧ t.store = v.store := by
  have issue := issues_next runs h
  obtain ⟨-, -, -, ⟨u, plans, ran⟩, -⟩ := h
  obtain ⟨rfl, rfl⟩ := planned plans
  obtain ⟨_, _, _, _, _, taken⟩ := takeHead_parts q op p true s.unheld
  have start : SameStores s (acting p.layerId (takeHead q op p true s.unheld)) := by
    rw [taken]
    exact sameStores_of_plc rfl rfl
  have flight : (acting p.layerId (takeHead q op p true s.unheld)).flight = s.flight := by
    rw [taken]
    rfl
  unfold running at ran
  rw [abandonHolding_of_no_drain (flight ▸ no_drain), movePlan_writes long] at ran
  refine ⟨_, _, ?_, ran, issue, rfl⟩
  exact (start.trans (sameStores_advanceGen g _)).trans (sameStores_of_plc rfl rfl)

/-- A result without a failure is of writes that did not fail. -/
theorem endWith_ok {f : Option Fail} (fails : ∀ e, f = some e → e.status ≠ 0) (ok : (endWith f {}).status = 0) : f = none := by
  cases f with
  | none => rfl
  | some e => exact absurd ok (fails e rfl)

/-! ### FILL -/

/-- The bytes of a FILL. -/
def fillBytes (p : Packet) : List Byte := (List.range (p.num 26 6)).map (patternByte (p.num 32 8) (p.num 40 1))

/-- The effect of a FILL. -/
def fillEffect (q : Nat) (p : Packet) : Cmd Res := do
  match (← get).desc (p.handle 16) with
  | some (idx, d) =>
    let f ← act (fillPieces (← seqDie q) (p.handle 16) idx d (pieces (p.num 20 6) (fillBytes p) (p.num 26 6 / 512 + 2)))
    pure (endWith f {})
  | none => pure {}

theorem planFill_ok {q : Nat} {p : Packet} {s u : State} {pl : Plan} (long : p.num 26 6 ≠ 0) (h : (planFill q p).run s = .ok pl u) :
    u = s ∧ pl = movePlan (p.handle 16) (p.num 20 6) (p.num 26 6) [p.handle 16] (fillEffect q p) := by
  unfold planFill at h
  have h := ok_of_requireLive (ok_of_reservedZero h)
  have h := ok_of_require h
  have h := ok_of_require h
  have h := ok_of_require h
  rw [if_neg long] at h
  cases ok_of_checkExtent h
  exact ⟨rfl, rfl⟩

theorem fillEffect_ok {q : Nat} {p : Packet} {w v : State} {r : Res} {i : Nat} {d : Desc} (found : w.desc (p.handle 16) = some (i, d))
    (h : (fillEffect q p).run w = .ok r v) : ∃ die,
      let x := fillPieces die (p.handle 16) i d (pieces (p.num 20 6) (fillBytes p) (p.num 26 6 / 512 + 2)) w
      r = endWith x.1 {} ∧ v = x.2 := by
  unfold fillEffect at h
  have h := ok_of_get h
  rw [found] at h
  cases h
  exact ⟨_, rfl, rfl⟩

theorem payload_of_store {s t : State} (h : t.store = s.store) (id : Nat) : t.payload id = s.payload id := by
  unfold State.payload
  rw [h]

/-- The bytes of a line that a FILL writes whole. -/
theorem fillBytes_line {p : Packet} {at_ : Nat} (whole : at_ + 512 ≤ p.num 26 6) :
    ((fillBytes p).drop at_).take 512 = (List.range 512).map fun b => patternByte (p.num 32 8) (p.num 40 1) (at_ + b) := by
  refine List.ext_getElem ?_ fun i h _ => ?_
  · simp only [fillBytes, List.length_take, List.length_drop, List.length_map, List.length_range]
    omega
  · simp [fillBytes]

/-- What a FILL that succeeds leaves. -/
theorem exec_fill {q : Fin 64} {p : Packet} {s : State} {pl : Plan} {r : Res} {v : State} {i : Nat} {d : Desc}
    (no_drain : ∀ c ∈ s.flight, c.opcode ≠ 0x4A) (h : SucceedsS q 0x11 p (planFill q p) s pl r v)
    (found : s.desc (p.handle 16) = some (i, d)) (long : 0 < p.num 26 6) :
    let off := p.num 20 6
    let last := (off + p.num 26 6 - 1) / 512
    ∃ t, exec (.fill q p) s = .next t ∧
      (∀ j, (∀ k, off / 512 ≤ k → k ≤ last → j ≠ s.lineOf i d k) → t.payload j = s.payload j) ∧
      (r.status = 0 → (∀ a b, a ≤ last → b ≤ last → s.lineOf i d a = s.lineOf i d b → a = b) →
        ∀ k, off ≤ 512 * k → 512 * k + 512 ≤ off + p.num 26 6 → t.payload (s.lineOf i d k) =
          (List.range 512).map fun b => patternByte (p.num 32 8) (p.num 40 1) (512 * k - off + b)) := by
  intro off last
  have length : (fillBytes p).length = p.num 26 6 := by simp [fillBytes]
  obtain ⟨w, t, start, ran, issue, store⟩ := exec_move (c := .fill q p) rfl h no_drain (by omega) (planFill_ok (by omega))
  obtain ⟨e, found, same⟩ := start.desc _ _ _ found
  obtain ⟨die, rfl, rfl⟩ := fillEffect_ok found ran
  have lines : w.lineOf i e = s.lineOf i d := funext (start.lineOf same i)
  have inside : ∀ a ∈ pieces off (fillBytes p) (p.num 26 6 / 512 + 2), off / 512 ≤ a.1 ∧ a.1 ≤ last ∧ a.2.1 + a.2.2.length ≤ 512 := by
    intro a mem
    have := mem_pieces mem
    rwa [length] at this
  obtain ⟨other, fails, done⟩ := writesPieces_fillPieces die (p.handle 16) i e _ w fun a mem => (inside a mem).2.2
  rw [lines] at other done
  refine ⟨t, issue, fun j apart => ?_, fun ok distinct k low high => ?_⟩
  · refine (payload_of_store store j).trans ((other j fun a mem => ?_).trans (start.payload j))
    obtain ⟨first, below, -⟩ := inside a mem
    exact apart a.1 first below
  · have mem := whole_mem_pieces (off := off) (n := p.num 26 6 / 512 + 2) (k := k) (bytes := fillBytes p) (by omega) low (by omega)
    have apart : (pieces off (fillBytes p) (p.num 26 6 / 512 + 2)).Pairwise fun a b => s.lineOf i d a.1 ≠ s.lineOf i d b.1 :=
      (pairwise_pieces ..).imp_of_mem fun {a b} ma mb lt same =>
        absurd (distinct _ _ (inside a ma).2.1 (inside b mb).2.1 same) (by omega)
    have bytes := fillBytes_line (p := p) (at_ := 512 * k - off) (by omega)
    refine (payload_of_store store _).trans ((done (endWith_ok fails ok) apart _ mem ?_).trans bytes)
    rw [bytes]
    simp

end Sys2Proof.Machine
end

section
/-! SUPPORT. Reads and writes of lines with no memory error in the stores (R141, R144, R156, R160): the stores stay as they are but for the
line that is written, and a line reads as its contents. -/

namespace Sys2Proof.Machine

/-! ### Operations that leave the stores -/

theorem signalVector_store (v : Nat) (s : State) : (signalVector v s).store = s.store := by
  obtain ⟨_, _, e⟩ := signalVector_parts v s
  rw [e]

theorem notify_store (sensor : Nat) (s : State) : (notify sensor s).store = s.store := by
  unfold notify
  split <;> rfl

theorem raiseMem_store (b : Nat) (s : State) : (raiseMem b s).store = s.store := signalVector_store ..

theorem modStack_store (k : Nat) (f : Stack → Stack) (s : State) : (modStack k f s).store = s.store := rfl

theorem record_store (typ : Nat) (payload : List Byte) (s : State) : (record typ payload s).store = s.store := rfl

theorem setHealth_store (k : Nat) (h : Health) (s : State) : (setHealth k h s).store = s.store := by
  unfold setHealth
  split <;> simp only [raiseMem_store, record_store, modStack_store, notify_store]

theorem failFull_store (k : Nat) (s : State) : (failFull k s).store = s.store := by
  rcases failFull_eq k s with e | e <;> rw [e]
  exact setHealth_store ..

theorem leavePoison_store (id : Nat) (s : State) : (leavePoison id s).store = s.store := by
  unfold leavePoison
  split
  · exact (failFull_store ..).trans rfl
  · rfl

theorem journal_store (k n : Nat) (s : State) : (journal k n s).store = s.store := by
  unfold journal
  dsimp only
  split
  · split <;> rfl
  · rfl

/-! ### Stores with no memory error -/

/-- No symbol, no CRC word and no word of SRAM is wrong. -/
structure Store.Clean (m : Store) : Prop where
  faults : m.faults = []
  crcXor : m.crcXor = []
  sram : m.sram = []

section
variable {s : State} (clean : s.store.Clean)
include clean

theorem meetSram_clean (p : SramPlace) : meetSram p s = (false, s) := by
  unfold meetSram
  rw [clean.sram]
  rfl

theorem clearSram_clean (p : SramPlace) : clearSram p s = s := by
  unfold clearSram
  rw [clean.sram, List.filter_nil, ← clean.sram]

theorem meetCheck_clean (id : Nat) : meetCheck id s = (false, s) := by
  unfold meetCheck
  rw [meetSram_clean clean]

theorem writeCheck_store (k n : Nat) : (writeCheck k n s).store = s.store := by
  unfold writeCheck
  split
  · rfl
  · rw [journal_store, clean.faults]
    exact congrArg (fun t => { s.store with faults := t }) clean.faults.symm

theorem writeBack_store (e : CheckLine) : (writeBack e s).store = s.store := by
  unfold writeBack
  rw [meetCheck_clean clean, clearSram_clean clean]
  split
  · exact writeCheck_store clean ..
  · rfl

theorem evict_store (die : Nat) : (evict die s).store = s.store := by
  unfold evict
  dsimp only
  split
  · rfl
  · split
    · exact (writeBack_store (s := setCache die _ (tick s)) clean _).trans rfl
    · rfl

theorem faultsOf_clean (id : Nat) : s.faultsOf id = [] := by
  unfold State.faultsOf
  rw [clean.faults]
  rfl

omit clean in
/-- With no wrong symbol a decode changes nothing, with bursts erased or not. -/
theorem decode_nil (id : Nat) (erased : List Nat) :
    (if erased.isEmpty then decodePlain id [] else decodeErased id erased []) =
      if erased.isEmpty then .clean else .decoded 0 [] [] true := by
  unfold decodePlain decodeErased
  rw [wrongWords_nil]
  rfl

omit clean in
theorem countErased_store (k : Nat) (erased : List Nat) (s : State) : (if erased.isEmpty then s else count 2 k 9 1 s).store = s.store := by
  split <;> rfl

/-- Nothing is wrong with a check line. -/
theorem readCheck_clean (k n : Nat) (scrub : Bool) : (readCheck k n scrub s).1 = false ∧ (readCheck k n scrub s).2.store = s.store := by
  have same := countErased_store k ((s.stack k).erased n) s
  unfold readCheck
  dsimp only
  generalize (if ((s.stack k).erased n).isEmpty then s else count 2 k 9 1 s) = t at same
  rw [faultsOf_clean (s := t) (same ▸ clean), decode_nil]
  cases ((s.stack k).erased n).isEmpty <;> exact ⟨rfl, same⟩

/-- A check line that is used is found good. -/
theorem useCheck_clean (k n : Nat) (write : Bool) : (useCheck k n write s).1 = false ∧ (useCheck k n write s).2.store = s.store := by
  unfold useCheck
  dsimp only
  split
  · rw [meetCheck_clean (s := count 2 k 4 1 (setCache (k / 6) _ s)) clean]
    exact ⟨rfl, rfl⟩
  · have room := evict_store (s := count 2 k 5 1 s) clean (k / 6)
    have clean : (evict (k / 6) (count 2 k 5 1 s)).store.Clean := room ▸ clean
    rw [clearSram_clean clean]
    obtain ⟨good, same⟩ := readCheck_clean clean k n false
    exact ⟨good, same.trans room⟩

/-- A line is decoded to its contents. -/
theorem decodeLine_clean (id : Nat) (name : LineName) (scrub : Bool) : (decodeLine id name scrub s).1 = .ok (s.payload id) 0 (s.valid id) ∧
    (decodeLine id name scrub s).2.store = s.store := by
  have same := countErased_store (lineStack id) ((s.stack (lineStack id)).erased (lineNo id)) s
  unfold decodeLine
  dsimp only
  generalize (if ((s.stack (lineStack id)).erased (lineNo id)).isEmpty then s else count 2 (lineStack id) 9 1 s) = t at same
  have clean' : t.store.Clean := same ▸ clean
  have word : tget 0 t.store.crcXor id = 0 := by rw [clean'.crcXor]; rfl
  have payload : t.payload id = s.payload id := payload_of_store same id
  have valid : t.valid id = s.valid id := by unfold State.valid; rw [same]
  rw [faultsOf_clean clean', decode_nil, word, payload, valid]
  cases ((s.stack (lineStack id)).erased (lineNo id)).isEmpty
  · have after : crcAfter (s.payload id) 0 [] = 0 := rfl
    have unchanged : ∀ l, changeBytes l [] = l := fun _ => rfl
    simp only [Bool.false_eq_true, if_false, after, unchanged]
    rw [if_neg (by simp)]
    exact ⟨rfl, same⟩
  · exact ⟨rfl, same⟩

/-- A check line that is used is not found bad. -/
theorem useCheck_found {k n : Nat} {write bad : Bool} {t : State} (e : useCheck k n write s = (bad, t)) : bad = false ∧ t.store = s.store := by
  obtain ⟨good, same⟩ := useCheck_clean clean k n write
  rw [e] at good same
  exact ⟨good, same⟩

/-- A line that is read gives its contents, zeros where it is unwritten. -/
theorem readLine_clean {id : Nat} {name : LineName} {b : List Byte} {x : BitVec 32} {w : Bool} {t : State}
    (read : readLine id name s = (.ok b x w, t)) :
    t.store = s.store ∧ x = 0 ∧ w = s.valid id ∧ b = if s.valid id then s.payload id else List.replicate 512 0 := by
  unfold readLine at read
  dsimp only at read
  split at read
  · split at read
    · cases read
    · split at read
      · cases read
      · split at read <;> rename_i u found <;> obtain ⟨good, same⟩ := useCheck_found clean found
        · cases good
        · have valid : u.valid id = s.valid id := by unfold State.valid; rw [same]
          rw [valid] at read
          split at read <;> rename_i written
          · cases read
            simp only [Bool.not_eq_true'] at written
            exact ⟨same, rfl, written.symm, (if_neg (by simp [written])).symm⟩
          · have clean : u.store.Clean := same ▸ clean
            simp only [Bool.not_eq_true', Bool.not_eq_false] at written
            split at read <;> rename_i v found <;> obtain ⟨good, later⟩ := useCheck_found clean found
            · cases good
            · have same : v.store = s.store := later.trans same
              obtain ⟨decoded, kept⟩ := decodeLine_clean (s := count 2 (lineStack id) 0 1 v) (same ▸ ‹s.store.Clean›) id name false
              rw [read] at decoded kept
              obtain ⟨contents, word, bit⟩ := LineOut.ok.inj decoded
              have payload : (count 2 (lineStack id) 0 1 v).payload id = s.payload id := payload_of_store (t := count ..) same id
              have valid : (count 2 (lineStack id) 0 1 v).valid id = s.valid id := by unfold State.valid; rw [count_store, same]
              exact ⟨kept.trans same, word, bit.trans valid, (contents.trans payload).trans (if_pos written).symm⟩
  · rw [meetSram_clean clean] at read
    dsimp only at read
    have word : tget 0 s.store.crcXor id = 0 := by rw [clean.crcXor]; rfl
    split at read <;> rename_i written <;> obtain ⟨line, rfl⟩ := Prod.mk.inj read <;> obtain ⟨rfl, rfl, rfl⟩ := LineOut.ok.inj line
    · exact ⟨rfl, word, written.symm, (if_pos written).symm⟩
    · simp only [Bool.not_eq_true] at written
      exact ⟨rfl, rfl, written.symm, (if_neg (by simp [written])).symm⟩

theorem checkForWrite_store (id : Nat) : (checkForWrite id s).2.store = s.store := by
  have first := (useCheck_clean clean (lineStack id) (validLineOf (lineNo id)) (!s.valid id)).2
  exact (useCheck_clean (first ▸ clean) (lineStack id) (crcLineOf (lineNo id)) true).2.trans first

theorem fetchValid_store (id : Nat) : (fetchValid id s).store = s.store := by
  unfold fetchValid
  split
  · exact (useCheck_clean clean ..).2
  · rfl

end

/-! ### Writes of a line -/

/-- After a write of line `id` nothing is wrong in the stores, and no other line's valid bit has changed. -/
structure WritesClean (id : Nat) (s t : State) : Prop where
  clean : t.store.Clean
  valid : ∀ j, j ≠ id → t.valid j = s.valid j

theorem contains_sinsert_ne {l : List Nat} {k j : Nat} (h : j ≠ k) : (sinsert l k).contains j = l.contains j := by
  rw [Bool.eq_iff_iff, List.contains_iff_mem, List.contains_iff_mem, mem_sinsert]
  exact or_iff_right h

theorem contains_serase_ne {l : List Nat} {k j : Nat} (h : j ≠ k) : (serase l k).contains j = l.contains j := by
  rw [Bool.eq_iff_iff, List.contains_iff_mem, List.contains_iff_mem]
  exact mem_serase_ne l h

section
variable {id : Nat} {s : State}

theorem writesClean_of_store {t : State} (clean : s.store.Clean) (same : t.store = s.store) : WritesClean id s t :=
  ⟨same ▸ clean, fun j _ => by unfold State.valid; rw [same]⟩

theorem WritesClean.trans {t u : State} (h : WritesClean id s t) (k : WritesClean id t u) : WritesClean id s u :=
  ⟨k.clean, fun j other => (k.valid j other).trans (h.valid j other)⟩

theorem Store.Clean.written (clean : s.store.Clean) {m : Store} (faults : m.faults = s.store.faults ∨ m.faults = terase s.store.faults id)
    (crcXor : m.crcXor = terase s.store.crcXor id) (sram : m.sram = s.store.sram.filter fun e => e.place ≠ .hoop id) : m.Clean := by
  refine ⟨?_, ?_, ?_⟩
  · rcases faults with e | e <;> rw [e, clean.faults]
    rfl
  · rw [crcXor, clean.crcXor]
    rfl
  · rw [sram, clean.sram]
    rfl

theorem storeLine_store (b : List Byte) (made : Nat) : ∃ cells made', (storeLine id b made s).store =
    { s.store with cells := cells, valid := sinsert s.store.valid id, crcXor := terase s.store.crcXor id,
                   faults := terase s.store.faults id, sram := s.store.sram.filter fun e => e.place ≠ .hoop id, made := made' } := by
  unfold storeLine
  dsimp only
  split
  · exact ⟨_, _, (leavePoison_store ..).trans ((count_store ..).trans (journal_store ..))⟩
  · exact ⟨_, _, count_store ..⟩

theorem writesClean_storeLine (clean : s.store.Clean) (b : List Byte) (made : Nat) : WritesClean id s (storeLine id b made s) := by
  obtain ⟨_, _, e⟩ := storeLine_store (id := id) (s := s) b made
  refine ⟨clean.written (id := id) (by rw [e]; exact .inr rfl) (by rw [e]) (by rw [e]), fun j other => ?_⟩
  unfold State.valid
  rw [e]
  exact contains_sinsert_ne other

theorem cleared_store : ∃ cells made, (cleared id s).store =
    { s.store with cells := cells, valid := serase s.store.valid id, crcXor := terase s.store.crcXor id,
                   sram := s.store.sram.filter fun e => e.place ≠ .hoop id, made := made } := by
  unfold cleared
  dsimp only
  generalize List.replicate 512 (0 : Byte) = z
  split
  · exact ⟨_, _, leavePoison_store ..⟩
  · exact ⟨_, _, rfl⟩

theorem writesClean_cleared (clean : s.store.Clean) : WritesClean id s (cleared id s) := by
  obtain ⟨_, _, e⟩ := cleared_store (id := id) (s := s)
  refine ⟨clean.written (id := id) (by rw [e]; exact .inl rfl) (by rw [e]) (by rw [e]), fun j other => ?_⟩
  unfold State.valid
  rw [e]
  exact contains_serase_ne other

theorem writesClean_clearLine (clean : s.store.Clean) : WritesClean id s (clearLine id s).2 := by
  have fetched := fetchValid_store clean id
  rcases clearLine_cases id s with e | e | e <;> rw [e]
  · exact writesClean_of_store clean rfl
  · exact writesClean_of_store clean fetched
  · exact (writesClean_of_store clean fetched).trans (writesClean_cleared (fetched ▸ clean))

theorem writesClean_writeLine (clean : s.store.Clean) (name : LineName) (b : List Byte) (last : Nat) :
    WritesClean id s (writeLine id name b 0 last s).2 := by
  have checked := checkForWrite_store clean id
  unfold writeLine
  dsimp only
  split
  · split
    · exact writesClean_of_store clean rfl
    · rw [if_neg (by simp)]
      split <;> rename_i e <;> rw [e] at checked
      · exact (writesClean_of_store clean checked).trans (writesClean_storeLine (checked ▸ clean) b last)
      · exact writesClean_of_store clean checked
  · rw [if_neg (by simp)]
    exact writesClean_storeLine clean b last

end

end Sys2Proof.Machine
end

section
/-! SUPPORT. COPY (R211, R160), and with FILL the obligation on both: the lines of a copied region hold what the lines of the source read as. -/

namespace Sys2Proof.Machine

/-! ### One line -/

/-- A line that has been read with contents `b` is written, or cleared where it was unwritten. -/
def putLine (id : Nat) (name : LineName) (b : List Byte) (x : BitVec 32) (written : Bool) (made : Nat) (s : State) : Option Fail × State :=
  if written then writeLine id name b x made s else clearLine id s

theorem putLine_writes {id : Nat} {name : LineName} {b : List Byte} {x : BitVec 32} {written : Bool} {made : Nat} {s : State}
    (whole : b.length = 512) :
    WritesLine id (some (if written then b else List.replicate 512 0)) s (putLine id name b x written made s) := by
  cases written
  · exact writesLine_clearLine id s
  · exact writesLine_writeLine id name x made s whole

theorem putLine_placer (id : Nat) (name : LineName) (b : List Byte) (x : BitVec 32) (written : Bool) (made : Nat) (s : State) :
    (putLine id name b x written made s).2.placer = s.placer := by
  cases written
  · exact clearLine_placer id s
  · exact writeLine_placer ..

theorem putLine_clean {id : Nat} {name : LineName} {b : List Byte} {written : Bool} {made : Nat} {s : State} (clean : s.store.Clean) :
    WritesClean id s (putLine id name b 0 written made s).2 := by
  cases written
  · exact writesClean_clearLine clean
  · exact writesClean_writeLine clean name b made

theorem countCrossing_placer (src dst : Nat) (s : State) : (countCrossing src dst s).placer = s.placer := by
  unfold countCrossing
  exact ite_placer rfl (ite_placer rfl (ite_placer rfl rfl))

theorem countCrossing_store (src dst : Nat) (s : State) : (countCrossing src dst s).store = s.store := by
  unfold countCrossing
  split
  · rfl
  · split
    · rfl
    · split <;> rfl

section
variable {sh dh : BitVec 32} {si di i j : Nat} {sd dd : Desc} {s t : State} {f : Option Fail}

/-- A line that is copied has been read, and is then put. -/
theorem copyLine_ok (h : copyLine sh si sd i dh di dd j s = (.ok f, t)) : ∃ name b x written u, ∃ made v,
    readLine (s.lineOf si sd i) name (traffic di 1 (traffic si 1 s)) = (.ok b x written, u) ∧
    v = countCrossing (s.lineOf si sd i) (s.lineOf di dd j) u ∧
    putLine (s.lineOf di dd j) { handle := dh, offset := j * 512 } b x written made v = (f, t) := by
  unfold copyLine at h
  dsimp only at h
  split at h
  · rename_i b x written u read
    split at h
    · cases h
    · obtain ⟨put, state⟩ := Prod.mk.inj h
      exact ⟨_, b, x, written, u, _, _, read, rfl, Prod.ext (Except.ok.inj put) state⟩
  all_goals cases h

/-- A copied line changes no other line's contents, and a failed write has a status. -/
theorem copyLine_writes (h : copyLine sh si sd i dh di dd j s = (.ok f, t)) :
    (∀ a, a ≠ s.lineOf di dd j → t.payload a = s.payload a) ∧ (∀ e, f = some e → e.status ≠ 0) ∧ t.placer = s.placer := by
  obtain ⟨name, b, x, written, u, made, v, read, crossed, put⟩ := copyLine_ok h
  have bytes : u.bytes = (traffic di 1 (traffic si 1 s)).bytes := bytes_of_snd (readLine_bytes ..) read
  have placer : u.placer = (traffic di 1 (traffic si 1 s)).placer := placer_of_snd (readLine_placer ..) read
  have bytes : v.bytes = s.bytes := by rw [crossed, countCrossing_bytes, bytes]; rfl
  have placer : v.placer = s.placer := by rw [crossed, countCrossing_placer, placer]; rfl
  have whole : b.length = 512 := whole_readLine _ _ _ b x written (congrArg Prod.fst read)
  have writes := putLine_writes (id := s.lineOf di dd j) (name := { handle := dh, offset := j * 512 }) (x := x) (written := written)
    (made := made) (s := v) whole
  have kept := putLine_placer (s.lineOf di dd j) { handle := dh, offset := j * 512 } b x written made v
  rw [put] at writes kept
  exact ⟨(writes.of_bytes bytes).other, writes.fails, kept.trans placer⟩

/-- What a line reads as: its contents, and zeros where it is unwritten (R156). -/
def State.reads (s : State) (id : Nat) : List Byte := if s.valid id then s.payload id else List.replicate 512 0

/-- A copied line holds what the source read as, with nothing wrong in the stores. -/
theorem copyLine_contents (clean : s.store.Clean) (h : copyLine sh si sd i dh di dd j s = (.ok f, t)) :
    (f = none → t.payload (s.lineOf di dd j) = s.reads (s.lineOf si sd i)) ∧ WritesClean (s.lineOf di dd j) s t := by
  obtain ⟨name, b, x, written, u, made, v, read, crossed, put⟩ := copyLine_ok h
  have whole : b.length = 512 := whole_readLine _ _ _ b x written (congrArg Prod.fst read)
  obtain ⟨same, rfl, bit, contents⟩ := readLine_clean (s := traffic di 1 (traffic si 1 s)) clean read
  have store : v.store = s.store := crossed ▸ (countCrossing_store ..).trans same
  have contents : b = s.reads (s.lineOf si sd i) := contents
  have writes := putLine_writes (id := s.lineOf di dd j) (name := { handle := dh, offset := j * 512 }) (x := 0) (written := written)
    (made := made) (s := v) whole
  have kept := putLine_clean (id := s.lineOf di dd j) (name := { handle := dh, offset := j * 512 }) (b := b) (written := written)
    (made := made) (s := v) (store ▸ clean)
  rw [put] at writes kept
  refine ⟨fun done => (writes.done done _ rfl).trans ?_, (writesClean_of_store clean store).trans kept⟩
  have bit : written = s.valid (s.lineOf si sd i) := bit
  rw [contents, bit]
  unfold State.reads
  split <;> rfl

end

/-! ### The lines of a region -/

theorem ok_of_bind {α β : Type} {m : Cmd α} {f : α → Cmd β} {s u : State} {b : β} (h : (m >>= f).run s = .ok b u) :
    ∃ a t, m.run s = .ok a t ∧ (f a).run t = .ok b u := by
  rw [run_bind] at h
  split at h
  · exact ⟨_, _, by assumption, h⟩
  · cases h

section
variable {sh dh : BitVec 32} {si di i j n : Nat} {sd dd : Desc} {s t : State} {f : Option Fail}

theorem copyLines_succ (h : (copyLines sh si sd dh di dd i j (n + 1)).run s = .ok f t) : ∃ g u g',
    copyLine sh si sd i dh di dd j s = (.ok g, u) ∧ (copyLines sh si sd dh di dd (i + 1) (j + 1) n).run u = .ok g' t ∧ f = g.or g' := by
  unfold copyLines at h
  have h := ok_of_get h
  split at h
  · rename_i g u line
    have h : (copyLines sh si sd dh di dd (i + 1) (j + 1) n >>= fun g' => pure (g.or g')).run u = .ok f t := h
    obtain ⟨g', t', rest, done⟩ := ok_of_bind h
    cases done
    exact ⟨g, u, g', line, rest, rfl⟩
  · cases h

/-- Lines that are copied change no other line's contents, and a failure has a status. -/
theorem copyLines_writes (h : (copyLines sh si sd dh di dd i j n).run s = .ok f t) :
    (∀ a, (∀ k, k < n → a ≠ s.lineOf di dd (j + k)) → t.payload a = s.payload a) ∧ ∀ e, f = some e → e.status ≠ 0 := by
  induction n generalizing s i j f with
  | zero =>
    cases h
    exact ⟨fun _ _ => rfl, nofun⟩
  | succ n ih =>
    obtain ⟨g, u, g', line, rest, rfl⟩ := copyLines_succ h
    obtain ⟨other, fails, placer⟩ := copyLine_writes line
    obtain ⟨others, later⟩ := ih rest
    rw [lineOf_of_placer placer] at others
    refine ⟨fun a apart => ?_, fun e fail => ?_⟩
    · refine (others a fun k below => ?_).trans (other a (apart 0 (by omega)))
      rw [Nat.add_right_comm]
      exact apart (k + 1) (by omega)
    · rcases Option.or_eq_some_iff.mp fail with h | ⟨-, h⟩
      · exact fails e h
      · exact later e h

/-- Lines that are copied without a failure hold what the lines of the source read as, where nothing is wrong in the stores, the
destination's lines are apart, and none is a line of the source. -/
theorem copyLines_contents (clean : s.store.Clean) (h : (copyLines sh si sd dh di dd i j n).run s = .ok none t)
    (apart : ∀ a b, a < n → b < n → s.lineOf di dd (j + a) = s.lineOf di dd (j + b) → a = b)
    (disjoint : ∀ a b, a < n → b < n → s.lineOf si sd (i + a) ≠ s.lineOf di dd (j + b)) :
    ∀ k, k < n → t.payload (s.lineOf di dd (j + k)) = s.reads (s.lineOf si sd (i + k)) := by
  induction n generalizing s i j with
  | zero => exact fun k below => absurd below (Nat.not_lt_zero k)
  | succ n ih =>
    obtain ⟨g, u, g', line, rest, done⟩ := copyLines_succ h
    obtain ⟨rfl, rfl⟩ := Option.or_eq_none_iff.mp done.symm
    obtain ⟨other, -, placer⟩ := copyLine_writes line
    obtain ⟨first, clean, valid⟩ := copyLine_contents clean line
    have lines := lineOf_of_placer placer
    intro k below
    cases k with
    | zero =>
      have others := (copyLines_writes rest).1 (s.lineOf di dd j)
      rw [lines] at others
      refine (others fun k below same => ?_).trans (first rfl)
      have := apart 0 (k + 1) (by omega) (by omega) (by rwa [Nat.add_right_comm] at same)
      omega
    | succ k =>
      have copied := ih clean rest
      rw [lines] at copied
      have source : s.lineOf si sd (i + (k + 1)) ≠ s.lineOf di dd j := disjoint (k + 1) 0 below (by omega)
      have read : u.reads (s.lineOf si sd (i + (k + 1))) = s.reads (s.lineOf si sd (i + (k + 1))) := by
        unfold State.reads
        rw [valid _ source, other _ source]
      have shift : ∀ x a, x + (a + 1) = x + 1 + a := fun x a => by omega
      rw [← read, shift j k, shift i k]
      refine copied (fun a b ha hb same => ?_) (fun a b ha hb => ?_) k (by omega)
      · have := apart (a + 1) (b + 1) (by omega) (by omega) (by rwa [shift j a, shift j b])
        omega
      · have := disjoint (a + 1) (b + 1) (by omega) (by omega)
        rwa [shift i a, shift j b] at this

end

/-! ### The packet -/

/-- The effect of a COPY. -/
def copyEffect (p : Packet) : Cmd Res := do
  let s ← get
  match s.desc (p.handle 16), s.desc (p.handle 26) with
  | some (si, sd), some (di, dd) =>
    let f ← copyLines (p.handle 16) si sd (p.handle 26) di dd (p.num 20 6 / 512) (p.num 30 6 / 512) (p.num 36 6 / 512)
    pure (endWith f {})
  | _, _ => pure {}

theorem planCopy_ok {p : Packet} {s u : State} {pl : Plan} (long : p.num 36 6 ≠ 0) (h : (planCopy p).run s = .ok pl u) :
    u = s ∧ pl = movePlan (p.handle 26) (p.num 30 6) (p.num 36 6) [p.handle 16, p.handle 26] (copyEffect p) := by
  unfold planCopy at h
  have h := ok_of_requireLive (ok_of_requireLive (ok_of_reservedZero h))
  have h := ok_of_require h
  have h := ok_of_require h
  have h := ok_of_require h
  rw [if_neg long] at h
  have h := ok_of_checkExtent (ok_of_checkExtent h)
  cases ok_of_require h
  exact ⟨rfl, rfl⟩

/-- A COPY with no such source copies nothing. -/
theorem copyEffect_none {p : Packet} {w v : State} {r : Res} (missing : w.desc (p.handle 16) = none) (h : (copyEffect p).run w = .ok r v) :
    v = w := by
  unfold copyEffect at h
  have h := ok_of_get h
  rw [missing] at h
  cases h
  rfl

theorem copyEffect_ok {p : Packet} {w v : State} {r : Res} {m i : Nat} {e d : Desc} (source : w.desc (p.handle 16) = some (m, e))
    (found : w.desc (p.handle 26) = some (i, d)) (h : (copyEffect p).run w = .ok r v) : ∃ f,
      (copyLines (p.handle 16) m e (p.handle 26) i d (p.num 20 6 / 512) (p.num 30 6 / 512) (p.num 36 6 / 512)).run w = .ok f v ∧
      r = endWith f {} := by
  unfold copyEffect at h
  have h := ok_of_get h
  rw [source, found] at h
  obtain ⟨f, t, copied, done⟩ := ok_of_bind h
  cases done
  exact ⟨f, copied, rfl⟩

theorem SameStores.reads {s t : State} (h : SameStores s t) (id : Nat) : t.reads id = s.reads id := by
  unfold State.reads State.valid
  rw [h.payload, h.store]

/-- What a COPY that succeeds leaves. -/
theorem exec_copy {q : Fin 64} {p : Packet} {s : State} {pl : Plan} {r : Res} {v : State} {i : Nat} {d : Desc}
    (no_drain : ∀ c ∈ s.flight, c.opcode ≠ 0x4A) (h : SucceedsS q 0x10 p (planCopy p) s pl r v)
    (found : s.desc (p.handle 26) = some (i, d)) (long : 0 < p.num 36 6) :
    let n := p.num 36 6 / 512
    let dst := fun k => s.lineOf i d (p.num 30 6 / 512 + k)
    ∃ t, exec (.copy q p) s = .next t ∧ (∀ j, (∀ k, k < n → j ≠ dst k) → t.payload j = s.payload j) ∧
      ∀ m e, s.desc (p.handle 16) = some (m, e) → r.status = 0 → s.store.Clean → (∀ a b, a < n → b < n → dst a = dst b → a = b) →
        (∀ a b, a < n → b < n → s.lineOf m e (p.num 20 6 / 512 + a) ≠ dst b) →
        ∀ k, k < n → t.payload (dst k) = s.reads (s.lineOf m e (p.num 20 6 / 512 + k)) := by
  intro n dst
  obtain ⟨w, t, start, ran, issue, store⟩ := exec_move (c := .copy q p) rfl h no_drain (by omega) (planCopy_ok (by omega))
  obtain ⟨e', found, same⟩ := start.desc _ _ _ found
  have lines : w.lineOf i e' = s.lineOf i d := funext (start.lineOf same i)
  refine ⟨t, issue, fun j apart => ?_, fun m e source ok clean apart disjoint k below => ?_⟩
  · refine (payload_of_store store j).trans ?_
    cases source : w.desc (p.handle 16) with
    | none =>
      rw [copyEffect_none source ran]
      exact start.payload j
    | some x =>
      obtain ⟨f, copied, -⟩ := copyEffect_ok source found ran
      refine ((copyLines_writes copied).1 j fun k below => ?_).trans (start.payload j)
      rw [lines]
      exact apart k below
  · obtain ⟨e'', source, place⟩ := start.desc _ _ _ source
    have sources : w.lineOf m e'' = s.lineOf m e := funext (start.lineOf place m)
    obtain ⟨f, copied, rfl⟩ := copyEffect_ok source found ran
    cases endWith_ok (copyLines_writes copied).2 ok
    have contents := copyLines_contents (start.store ▸ clean) copied
    rw [lines, sources] at contents
    exact (payload_of_store store _).trans ((contents apart disjoint k below).trans (start.reads _))

/-- Settles O46: `exec_fill` for FILL, and `exec_copy` for COPY. -/
theorem movesWriteTheirLines : Obligations.MovesWriteTheirLines := by
  intro q p s pl r v i d no_drain
  refine ⟨fun h found long => exec_fill no_drain h found long, fun h found long => ?_⟩
  obtain ⟨t, issue, other, contents⟩ := exec_copy no_drain h found long
  refine ⟨t, issue, other, ?_⟩
  intro m e source src ok faults crcXor sram
  exact contents m e source ok ⟨faults, crcXor, sram⟩

end Sys2Proof.Machine
end

section
/-! PROOFS. Rim time on a module's own (R254, R255): the nanosecond that passes while no command waits, synchronisation, holdover and
pulses. -/

namespace Sys2Proof.Machine

/-! ### What interrupts, the trace and a message leave of the TIM_ block -/

@[simp] theorem raiseTim_tim (b : Nat) (s : State) : (raiseTim b s).tim = { s.tim with status := s.tim.status.raise b } :=
  congrArg Calm.tim (signalVector_calm 64 { s with tim := { s.tim with status := s.tim.status.raise b } })

@[simp] theorem trace_tim (typ sub source : Nat) (layer : BitVec 16) (payload : List Nat) (s : State) :
    (trace typ sub source layer payload s).tim = s.tim :=
  congrArg Calm.tim (trace_calm ..)

@[simp] theorem sendControlAs_tim (dst seat : Nat) (what : Control) (s : State) : (sendControlAs dst seat what s).tim = s.tim := by
  unfold sendControlAs
  split <;> rfl

@[simp] theorem sendRim_tim (what : Control) (s : State) : (sendRim what s).tim = s.tim := sendControlAs_tim ..

@[simp] theorem sendControlAs_sched (dst seat : Nat) (what : Control) (s : State) : (sendControlAs dst seat what s).sched = s.sched := by
  unfold sendControlAs
  split <;> rfl

@[simp] theorem sendRim_sched (what : Control) (s : State) : (sendRim what s).sched = s.sched := sendControlAs_sched ..

/-! ### A nanosecond passes -/

/-- The nanosecond that passes counts once: nothing is to be slewed, the device is in no state to slew, or the turn of one in 10,000 has
not come. -/
def State.countsOnce (s : State) : Bool :=
  s.tim.slew = 0 ∨ (s.tim.time ≠ .slewing ∧ s.tim.time ≠ .locked) ∨ ((s.tim.now : Int) + s.tim.slew) % 10000 ≠ 0

/-- By how much the nanosecond that passes counts more than once (R255). -/
def State.slewStep (s : State) : Int := if s.countsOnce then 0 else if 0 < s.tim.slew then 1 else -1

theorem tickTime_eq (s : State) : tickTime s = { s with tim := { s.tim with
    now := (s.tim.now + 1 + s.slewStep).toNat % 2 ^ 64, slew := s.tim.slew - s.slewStep,
    time := if s.tim.time = .slewing ∧ (s.tim.slew - s.slewStep).natAbs ≤ 50 then .locked else s.tim.time } } := by
  have turn : (s.tim.slew ≠ 0 && (s.tim.time == .slewing || s.tim.time == .locked) &&
      ((s.tim.now : Int) % 10000 == (-s.tim.slew) % 10000)) = !s.countsOnce := by
    have same : ((s.tim.now : Int) % 10000 = (-s.tim.slew) % 10000) ↔ ((s.tim.now : Int) + s.tim.slew) % 10000 = 0 := by omega
    rw [Bool.eq_iff_iff]
    simp only [State.countsOnce, Bool.and_eq_true, Bool.or_eq_true, beq_iff_eq, decide_eq_true_eq, Bool.not_eq_true',
      decide_eq_false_iff_not, same]
    tauto
  have twice : s.tim.now + 2 = ((s.tim.now : Int) + 1 + 1).toNat := by omega
  unfold tickTime State.slewStep
  dsimp only
  rw [turn]
  cases s.countsOnce with
  | true => simp
  | false =>
    by_cases up : 0 < s.tim.slew
    · simp [up, ← twice]
    · simp [up]

theorem wake_of_no_flight {s : State} (flight : s.flight = []) : wake s = s := by
  cases s
  cases flight
  rfl

/-- With nothing in flight, no copy, no event and not in U5, the clocks that run move rim time on and nothing else. -/
theorem idle_of_quiet {s : State} (on : s.pins.power = .on) (flight : s.flight = []) (still : s.plc.current = none)
    (events : s.mctp.events = []) (stage : s.ups.stage ≠ 5) : idle s = tickTime s := by
  have woken : wake (tickTime s) = tickTime s := wake_of_no_flight flight
  have copied : copyNext (tickTime s) = tickTime s := by
    unfold copyNext
    rw [show (tickTime s).plc.current = none from still]
  have noted : noteExit (tickTime s) = tickTime s := if_neg (by simp [show (tickTime s).ups.stage ≠ 5 from stage])
  have started : startQueued (tickTime s) = tickTime s := by
    unfold startQueued
    rw [show (tickTime s).flight = [] from flight]
    rfl
  have delivered : deliverEvent (tickTime s) = tickTime s := by
    unfold deliverEvent
    rw [show (tickTime s).mctp.events = [] from events]
  unfold idle
  rw [on]
  dsimp only
  rw [woken, copied, noted, started, delivered]

/-- Settles O2: `tickTime_eq`, and `idle_of_quiet` for a module whose clocks run. -/
theorem idleMovesRimTime : Obligations.IdleMovesRimTime := by
  intro s none
  have idles : step s = .next (idle s) := by
    unfold step
    rw [none]
  rw [idles]
  refine ⟨fun off => ?_, fun tripped => ?_, fun on flight still events stage => ?_, s.slewStep, _, tickTime_eq s, ?_, ?_, ?_, rfl⟩
  · unfold idle
    rw [off]
  · unfold idle
    rw [tripped]
  · rw [idle_of_quiet on flight still events stage]
  · exact fun quiet => if_pos (decide_eq_true quiet)
  · intro up slews turn
    rw [State.slewStep, if_neg (by rcases slews with h | h <;> simp only [State.countsOnce, h, turn, up.ne'] <;> decide), if_pos up]
  · intro down slews turn
    rw [State.slewStep, if_neg (by rcases slews with h | h <;> simp only [State.countsOnce, h, turn, down.ne] <;> decide), if_neg (by omega)]

/-! ### Rim time takes another value -/

/-- Rim time that is set changes of the TIM_ block only the moments of the past that go with it. -/
theorem setTime_tim (t : Nat) (s : State) : (setTime t s).tim = { s.tim with
    now := t % 2 ^ 64, lastHb := later ((t : Int) - s.tim.now) s.tim.lastHb, lastSync := later ((t : Int) - s.tim.now) s.tim.lastSync } := by
  unfold setTime
  dsimp only
  split <;> rfl

/-- Settles O36: `setTime_tim` for PPS_IN. -/
theorem pulsesMarkSeconds : Obligations.PulsesMarkSeconds := by
  intro s powered
  refine ⟨fun rim stage bound => ?_, fun time first => ?_, fun lost => ?_⟩
  · have nearest : (s.tim.now + 500000000) / 1000000000 * 1000000000 % 2 ^ 64 = (s.tim.now + 500000000) / 1000000000 * 1000000000 :=
      Nat.mod_eq_of_lt (by omega)
    refine ⟨_, congrArg Host.Outcome.next (if_pos (by simp [powered, rim, stage])), ?_⟩
    rw [setTime_tim]
    dsimp only
    rw [nearest]
    exact ⟨rfl, by omega, by omega, by omega⟩
  · refine ⟨_, congrArg Host.Outcome.next (if_pos (by simp [powered, time, first])), rfl, ?_⟩
    show (decide _ && decide _) = _
    rw [← Bool.decide_and, decide_eq_decide]
    show s.tim.now / 1000000000 * 1000000000 ≤ s.tim.now ∧ s.tim.now < s.tim.now / 1000000000 * 1000000000 + 1000 ↔ _
    omega
  · exact congrArg Host.Outcome.next (if_neg (by simp [lost]))

/-! ### Synchronisation (R255) -/

/-- What a synchronisation with a measured offset makes of rim time. -/
def Follows (offset : Int) (s t : State) : Prop :=
  t.tim.lastSync = t.tim.now ∧ t.tim.holdAt = 0 ∧
    (offset.natAbs ≤ 1000 ∨ s.maySteps = false → t.tim.now = s.tim.now ∧ t.tim.status = s.tim.status ∧ t.sched = s.sched ∧
      t.tim.slew = offset ∧ t.tim.time = if offset.natAbs ≤ 50 then .locked else .slewing) ∧
    (1000 < offset.natAbs → s.maySteps = true → t.tim.now = (s.tim.now + offset).toNat % 2 ^ 64 ∧ t.tim.time = .locked ∧
      t.tim.slew = 0 ∧ t.tim.status.bits.getLsbD 0 = true)

/-- An offset that no step corrects slews. -/
theorem correctTime_slews {offset : Int} {s : State} (h : offset.natAbs ≤ 1000 ∨ s.maySteps = false) : correctTime offset s =
    { s with tim := { s.tim with time := if offset.natAbs ≤ 50 then .locked else .slewing, slew := offset } } := by
  unfold correctTime
  rw [if_neg]
  rcases h with small | never
  · simp [small]
  · simp [never]

/-- A larger one, where a step may occur, is one step, which sets STEP. -/
theorem correctTime_steps {offset : Int} {s : State} (large : 1000 < offset.natAbs) (may : s.maySteps = true) :
    (correctTime offset s).tim.now = (s.tim.now + offset).toNat % 2 ^ 64 ∧ (correctTime offset s).tim.time = .locked ∧
      (correctTime offset s).tim.slew = 0 ∧ (correctTime offset s).tim.holdAt = s.tim.holdAt ∧
      (correctTime offset s).tim.status.bits.getLsbD 0 = true := by
  unfold correctTime
  rw [if_pos (by simp [large, may])]
  dsimp only
  rw [trace_tim, raiseTim_tim, setTime_tim]
  exact ⟨rfl, rfl, rfl, rfl, Status.raise_bit _ (by decide)⟩

theorem synchronise_follows (offset : Int) (s : State) : Follows offset s (synchronise offset s) := by
  let u : State := { s with tim := { s.tim with offset := Max.max (-2147483648) (Min.min 2147483647 offset), holdAt := 0 } }
  by_cases slews : offset.natAbs ≤ 1000 ∨ s.maySteps = false
  · have e := correctTime_slews (s := u) slews
    refine ⟨rfl, congrArg (·.tim.holdAt) e, fun _ => ⟨congrArg (·.tim.now) e, congrArg (·.tim.status) e, congrArg (·.sched) e,
      congrArg (·.tim.slew) e, congrArg (·.tim.time) e⟩, fun large may => ?_⟩
    rcases slews with small | never
    · omega
    · simp [may] at never
  · obtain ⟨large, may⟩ := not_or.mp slews
    obtain ⟨now, time, slew, hold, step⟩ := correctTime_steps (s := u) (Nat.lt_of_not_le large) (Bool.eq_true_of_not_eq_false may)
    exact ⟨rfl, hold, fun h => (slews h).elim, fun _ _ => ⟨now, time, slew, step⟩⟩

/-- A Sync and its Follow_Up give the offset where the mean path delay is known. -/
theorem takeSync_follows {p origin : Nat} {delay : Int} {s : State} (known : (s.port p).delay = some delay) :
    Follows (origin + delay - (s.port p).syncAt) s (takeSync p origin s) := by
  unfold takeSync
  dsimp only
  rw [known]
  exact synchronise_follows ..

theorem exec_followUp {p : Fin 12} {d seqId origin : Nat} {delay : Int} {s : State} (hears : s.hearsMaster p d = true)
    (known : (s.port p).delay = some delay) (heard : (s.port p).heard = true) (same : (s.port p).syncSeq = seqId) :
    ∃ t, exec (.followUp p ⟨d, seqId⟩ origin) s = .next t ∧ Follows (origin + delay - (s.port p).syncAt) s t := by
  refine ⟨takeSync p origin (count 3 p 8 1 s), congrArg Host.Outcome.next ?_, takeSync_follows (s := count 3 p 8 1 s) known⟩
  unfold followUp
  rw [if_neg (by simp [hears])]
  exact if_pos (by simp [heard, same])

theorem exec_sync_early {p : Fin 12} {d seqId origin : Nat} {delay : Int} {s : State} (hears : s.hearsMaster p d = true)
    (known : (s.port p).delay = some delay) (early : (s.port p).early = some (seqId, origin)) :
    ∃ t, exec (.sync p d seqId) s = .next t ∧ Follows (origin + delay - s.tim.now) s t := by
  let u := s.setPort p { s.port p with syncSeq := seqId, syncAt := s.tim.now, heard := true }
  have port : u.port p = { s.port p with syncSeq := seqId, syncAt := s.tim.now, heard := true } := port_setPort ..
  refine ⟨takeSync p origin (count 3 p 8 1 u), congrArg Host.Outcome.next ?_, ?_⟩
  · unfold sync
    rw [if_neg (by simp [hears]), early]
    exact if_pos rfl
  · have follows := takeSync_follows (p := p) (origin := origin) (s := count 3 p 8 1 u) (show (u.port p).delay = some delay by rw [port, known])
    rw [show ((count 3 p 8 1 u).port p).syncAt = s.tim.now from congrArg Port.syncAt port] at follows
    exact follows

theorem exec_sync_first {p : Fin 12} {d seqId : Nat} {s : State} (hears : s.hearsMaster p d = true)
    (early : (s.port p).early = none) : exec (.sync p d seqId) s =
      .next (count 3 p 8 1 (s.setPort p { s.port p with syncSeq := seqId, syncAt := s.tim.now, heard := true })) := by
  refine congrArg Host.Outcome.next ?_
  unfold sync
  rw [if_neg (by simp [hears]), early]

/-! ### Holdover and its end (R256) -/

theorem finishThese_tim (l : List InFlight) (status : Nat) (s : State) : (finishThese l status s).tim = s.tim :=
  congrArg Calm.tim (finishThese_still l status s)

theorem finishThese_sched (l : List InFlight) (status : Nat) (s : State) : (finishThese l status s).sched = s.sched :=
  congrArg Calm.sched (finishThese_still l status s)

/-- The device leaves its domain, in the TIM_ block. -/
theorem detach_tim (s : State) : (detach s).tim = { s.tim with
    domain := .detached, domainId := 0, groups := [], deputy := false, tookSeat := false, abort := none, abortDiv := false,
    sourceOnce := none, decided := none, barred := true, copy := none, macs := [], owed := s.tim.owed.filter fun e => e.1 ≥ 16 } :=
  finishThese_tim ..

theorem detach_sched (s : State) : (detach s).sched = s.sched.filter fun e => e.1 ≥ 16 := finishThese_sched ..

theorem detach_rim (s : State) : (detach s).rim = {} := congrArg Calm.rim (finishThese_still ..)

theorem exec_timeLost {s : State} (follower : s.follower = true) (time : s.tim.time = .holdover) (ended : s.tim.holdAt + 10000000000 ≤ s.tim.now) :
    ∃ t, exec .timeLost s = .next t ∧ t.tim.time = .lost ∧ t.tim.domain = .detached ∧ t.rim = {} ∧ t.tim.now = s.tim.now ∧
      t.tim.status.bits.getLsbD 1 = true ∧
      ∀ e ∈ t.sched, e ∈ s.sched ∧ e.2.body.kind ≠ 2 ∧ e.2.body.kind ≠ 4 ∧ e.2.body.kind ≠ 5 := by
  refine ⟨timeLost s, rfl, ?_⟩
  have toldTim (u : State) : (if u.tim.domain == .detached then u else sendRim .timeLost u).tim = u.tim := by
    split
    · rfl
    · exact sendRim_tim ..
  have toldSched (u : State) : (if u.tim.domain == .detached then u else sendRim .timeLost u).sched = u.sched := by
    split
    · rfl
    · exact sendRim_sched ..
  have raised : (raiseTim 1 { s with tim := { s.tim with time := .lost } }).sched = s.sched := congrArg Calm.sched (signalVector_calm ..)
  unfold timeLost
  rw [if_neg (by simp [follower, time]; omega)]
  dsimp only
  rw [detach_tim, detach_sched, detach_rim, finishThese_tim, finishThese_sched, toldTim, toldSched, raised, raiseTim_tim]
  refine ⟨rfl, rfl, rfl, rfl, Status.raise_bit _ (by decide), fun e mem => ?_⟩
  simp only [List.mem_filter] at mem
  obtain ⟨⟨mem, kind⟩, -⟩ := mem
  simp at kind
  exact ⟨mem, kind⟩

/-- Settles O35: a lemma per clause. -/
theorem rimTimeFollows : Obligations.RimTimeFollows := by
  intro p seqId origin delay s follower
  refine ⟨fun hears known => ⟨exec_followUp hears known, exec_sync_early hears known, exec_sync_first hears⟩, fun time late => ?_,
    exec_timeLost follower⟩
  refine congrArg Host.Outcome.next (if_pos ?_)
  rcases time with time | time <;> simp [follower, time, late]

end Sys2Proof.Machine
end

section
/-! PROOFS. The schedule table (R259): which entry fires, what it does when it fires, and how the entry goes on. -/

namespace Sys2Proof.Machine

/-- An entry that fires is due, with none before it in time or in the order of entries. -/
theorem State.firing_some {s : State} {i k : Nat} {b : EntryBody} (h : s.firing i k = some b) : ∃ d, s.nextDue i = some d ∧ d.2 = b ∧
    ∀ j < 64, ∀ u, s.nextDue j = some u → d.1 < u.1 ∨ (d.1 = u.1 ∧ i ≤ j) := by
  unfold State.firing at h
  obtain ⟨d, due, h⟩ := Option.bind_eq_some_iff.mp h
  split at h
  · rename_i first
    simp only [Bool.and_eq_true, List.all_eq_true, List.mem_range] at first
    refine ⟨d, due, Option.some.inj h, fun j below u other => ?_⟩
    have := first.2 j below
    rw [other] at this
    simpa using this
  · cases h

/-- An entry after another one that is due does not fire. -/
theorem State.firing_none {s : State} {i j : Nat} {d u : Nat × EntryBody} (below : j < 64) (due : s.nextDue i = some d)
    (other : s.nextDue j = some u) (before : u.1 < d.1 ∨ (u.1 = d.1 ∧ j < i)) (k : Nat) : s.firing i k = none := by
  rw [Option.eq_none_iff_forall_ne_some]
  intro b fires
  obtain ⟨e, due', -, first⟩ := State.firing_some fires
  cases due.symm.trans due'
  have := first j below u other
  omega

theorem State.due_of_firing {s : State} {i k : Nat} {b : EntryBody} (h : s.firing i k = some b) : s.due i k = true := by
  unfold State.due
  rw [h]
  rfl

theorem exec_powerCapInstance {i : Fin 64} {b : EntryBody} {s : State} (powered : s.powered = true) (fires : s.firing i 4 = some b) :
    exec (.powerCapInstance i) s = .next (fireNext i { s with pwr := { s.pwr with cap := b.arg0.toNat % 65536 } }) := by
  show execPowerCapInstance i s = _
  unfold execPowerCapInstance
  rw [fires]
  exact congrArg Host.Outcome.next (if_pos powered)

theorem exec_scrubInstance {i : Fin 64} {b : EntryBody} {s : State} (powered : s.powered = true) (fires : s.firing i 3 = some b) :
    exec (.scrubInstance i) s =
      .next (fireNext i { s with mem := { s.mem with scrubInterval := max 500 (b.arg0.toNat % 2 ^ 24) } }) := by
  show execScrubInstance i s = _
  unfold execScrubInstance
  rw [fires]
  exact congrArg Host.Outcome.next (if_pos powered)

theorem exec_signalInstance {i : Fin 64} {b : EntryBody} {s : State} (powered : s.powered = true) (fires : s.firing i 5 = some b) :
    exec (.signalInstance i) s = .next (fireNext i (signalToken (b.arg0.toNat % 65536) s)) := by
  show execSignalInstance i s = _
  unfold execSignalInstance
  rw [fires]
  exact congrArg Host.Outcome.next (if_pos powered)

theorem exec_marginInstance {i : Fin 64} {b : EntryBody} {s : State} (clocked : s.clocked = true) (fires : s.firing i 6 = some b) :
    exec (.marginInstance i) s = .next (startWindow (b.arg0.toNat % 16) (b.arg0.toNat / 16 % 16) (fireNext i s)) := by
  show execMarginInstance i s = _
  unfold execMarginInstance
  rw [fires]
  exact congrArg Host.Outcome.next (if_pos clocked)

/-- A sampling cycle: a record where the sampler is enabled, then the selection that waits, and the entry goes on. -/
def sampled (i : Fin 64) (m : RailMeans) (s : State) : State :=
  fireNext i (applySelection (if s.cnt.enable then takeSample m s else s))

theorem exec_sampleInstance {i : Fin 64} {m : RailMeans} {b : EntryBody} {s : State} (powered : s.powered = true)
    (fires : s.firing i 1 = some b) (free : s.lets (sampled i m)) : exec (.sampleInstance i m) s = .next (sampled i m s) := by
  obtain ⟨open_, free⟩ := free
  have cycle : (if s.powered && s.due i 1 then sampled i m s else s) = sampled i m s :=
    if_pos (by rw [powered, State.due_of_firing fires]; rfl)
  refine congrArg Host.Outcome.next ((unlessOver_lets ⟨open_, ?_⟩).trans cycle)
  exact cycle ▸ free

theorem exec_windowInstance {i : Fin 64} {b : EntryBody} {s : State} (powered : s.powered = true) (window : i.val < 16)
    (fires : s.firing i 2 = some b) : ∃ d, s.nextDue i = some d ∧ exec (.windowInstance i) s =
      .next (openWindow i d.1 (d.1 + b.arg1.toNat * 1000) (fireNext i s)) := by
  obtain ⟨d, due, -, -⟩ := State.firing_some fires
  refine ⟨d, due, congrArg Host.Outcome.next ((if_pos ?_).trans ?_)⟩
  · rw [powered, State.due_of_firing fires, decide_eq_true window]
    rfl
  · unfold windowInstance
    rw [fires, due]

/-- An entry whose contents are those of the table goes on to its next time. -/
theorem fireNext_sched {i : Nat} {e : Sched} {s : State} (owed : tfind s.tim.owed i = none) (entry : tfind s.sched i = some e) :
    fireNext i s = { s with sched := tinsert s.sched i { e with next := e.next + 1 } } := by
  unfold fireNext
  rw [owed, entry]
  rfl

/-- Contents that a write has replaced fire once. -/
theorem fireNext_owed {i : Nat} {o : EntryBody} {s : State} (owed : tfind s.tim.owed i = some o) :
    fireNext i s = { s with tim := { s.tim with owed := terase s.tim.owed i } } := by
  unfold fireNext
  rw [owed]
  rfl

/-- An entry whose next time lies in the future is not due. -/
theorem nextDue_fireNext {i : Nat} {e : Sched} {s : State} (owed : tfind s.tim.owed i = none) (entry : tfind s.sched i = some e)
    (future : s.tim.now < e.body.start + (e.next + 1) * e.body.period) : (fireNext i s).nextDue i = none := by
  have notDue : ({ e with next := e.next + 1 } : Sched).dueAt s.tim.now = none := if_neg (by simp; omega)
  rw [fireNext_sched owed entry]
  unfold State.nextDue
  rw [owed, tfind_tinsert_self]
  exact congrArg (Option.map _) notDue

/-- Settles O34: a lemma per kind of entry, and one per way in which an entry goes on. -/
theorem scheduledInstancesTakeEffect : Obligations.ScheduledInstancesTakeEffect := by
  intro i m s b clocked
  have powered := powered_of_clocked clocked
  refine ⟨exec_powerCapInstance powered, exec_scrubInstance powered, exec_signalInstance powered, exec_sampleInstance powered,
    exec_marginInstance clocked, exec_windowInstance powered, fun d u j below due other before => State.firing_none below due other before,
    fun e owed entry => ⟨?_, fun _ future => nextDue_fireNext owed entry future⟩, fun o owed => ?_⟩
  · rw [fireNext_sched owed entry]
    exact tfind_tinsert_self ..
  · rw [fireNext_owed owed]
    exact ⟨tfind_terase_self .., rfl⟩

end Sys2Proof.Machine
end

section
/-! SUPPORT. What no access to the memories, no completion and no round boundary changes: any reading of the state that does not look at
what those operations write. The rows of the cluster's proofs are two such readings, `State.wire` and the placer with its status. -/

namespace Sys2Proof.Machine

/-- A reading of the state that none of the parts which accesses to the memories and completions write has any part in. -/
structure Untouched {α : Type} (P : State → α) : Prop where
  raiseLnk : ∀ b s, P (Machine.raiseLnk b s) = P s
  signal  : ∀ v s, P (signalVector v s) = P s
  notify  : ∀ sensor s, P (Machine.notify sensor s) = P s
  traffic : ∀ i n s, P (Machine.traffic i n s) = P s
  host    : ∀ at_ bytes s, P (hostWrite at_ bytes s) = P s
  mem     : ∀ x (s : State), P { s with mem := x } = P s
  store   : ∀ x (s : State), P { s with store := x } = P s
  cnt     : ∀ x (s : State), P { s with cnt := x } = P s
  trc     : ∀ x (s : State), P { s with trc := x } = P s
  lgr     : ∀ x (s : State), P { s with lgr := x } = P s
  que     : ∀ x (s : State), P { s with que := x } = P s
  flight  : ∀ x (s : State), P { s with flight := x } = P s
  tns     : ∀ x (s : State), P { s with tns := x } = P s
  freeCtr : ∀ x (s : State), P { s with freeCtr := x } = P s

section
variable {α β : Type} {P : State → α} {s t : State} {p : α}

/-- A pair's state, named by the match that takes the pair apart. -/
theorem read_of_snd {r : β × State} {b : β} (h : P r.2 = p) (e : r = (b, t)) : P t = p := by
  rw [e] at h
  exact h

theorem read_ite {c : Prop} [Decidable c] {a b : State} (h : P a = p) (g : P b = p) : P (if c then a else b) = p := by
  split <;> assumption

theorem read_ite_snd {c : Prop} [Decidable c] {x y : β × State} (h : P x.2 = p) (g : P y.2 = p) : P (if c then x else y).2 = p := by
  split <;> assumption

theorem read_foldl {f : State → β → State} (h : ∀ s a, P (f s a) = P s) (l : List β) (s : State) : P (l.foldl f s) = P s := by
  induction l generalizing s with
  | nil => rfl
  | cons a l ih => rw [List.foldl_cons, ih, h]

end

namespace Untouched

variable {α : Type} {P : State → α} (u : Untouched P) (s : State)
include u

/-! ### Interrupts, the trace, the ledger, counters -/

theorem raiseMem (b : Nat) : P (Machine.raiseMem b s) = P s := (u.signal ..).trans (u.mem ..)
theorem raiseTrc (b : Nat) : P (Machine.raiseTrc b s) = P s := (u.signal ..).trans (u.trc ..)
theorem setQueue (q : Nat) (v : Queue) : P (s.setQueue q v) = P s := u.que ..
theorem raiseQue (q b : Nat) : P (Machine.raiseQue q b s) = P s := (u.signal ..).trans (u.setQueue ..)
theorem traceWith (typ sub source : Nat) (layer : BitVec 16) (payload : List Nat) (cls : Nat) (force : Bool) :
    P (Machine.traceWith typ sub source layer payload cls force s) = P s := by
  unfold Machine.traceWith
  dsimp only
  generalize Trc.accept _ _ _ _ = taken
  obtain ⟨trc, triggered, stopped⟩ := taken
  have first : P (if triggered = true then Machine.raiseTrc 0 { s with trc := trc } else { s with trc := trc }) = P s :=
    read_ite ((u.raiseTrc ..).trans (u.trc ..)) (u.trc ..)
  exact read_ite ((u.raiseTrc ..).trans first) first
theorem trace (typ sub source : Nat) (layer : BitVec 16) (payload : List Nat) :
    P (Machine.trace typ sub source layer payload s) = P s := u.traceWith ..
theorem record (typ : Nat) (payload : List Byte) : P (Machine.record typ payload s) = P s := u.lgr ..
theorem count (set inst index n : Nat) : P (Machine.count set inst index n s) = P s := u.cnt ..

/-! ### Health and poison -/

theorem modStack (k : Nat) (f : Stack → Stack) : P (Machine.modStack k f s) = P s := u.mem ..
theorem setHealth (k : Nat) (h : Health) : P (Machine.setHealth k h s) = P s := by
  have changed (old : Health) : P (Machine.notify (k + 1) (Machine.record rSTACK_STATE [BitVec.ofNat 8 k, BitVec.ofNat 8 old.code,
      BitVec.ofNat 8 h.code] (Machine.modStack k (fun v => { v with health := h }) s))) = P s :=
    (u.notify ..).trans ((u.record ..).trans (u.modStack ..))
  exact read_ite ((u.raiseMem ..).trans ((u.record ..).trans ((u.modStack ..).trans (changed _)))) (changed _)
theorem failDie (k d : Nat) : P (Machine.failDie k d s) = P s :=
  (u.raiseMem ..).trans ((u.setHealth ..).trans ((u.record ..).trans (u.modStack ..)))
theorem failFull (k : Nat) : P (Machine.failFull k s) = P s := read_ite (u.setHealth ..) rfl
theorem enterPoison (k : Nat) (ranges : List (Nat × Nat)) (counted : Bool) : P (Machine.enterPoison k ranges counted s) = P s := by
  unfold Machine.enterPoison
  extract_lets a b v
  have h : P b = P s := read_ite ((u.count ..).trans (u.modStack ..)) (u.modStack ..)
  exact read_ite ((u.setHealth ..).trans h) ((u.failFull ..).trans h)
theorem leavePoison (id : Nat) : P (Machine.leavePoison id s) = P s := read_ite ((u.failFull ..).trans (u.modStack ..)) rfl

/-! ### Corrected errors and on-die SRAM -/

theorem logCe (id : Nat) (name : LineName) (codewords : Nat) (scrub : Bool) : P (Machine.logCe id name codewords scrub s) = P s := by
  unfold Machine.logCe
  split
  · exact u.mem ..
  · exact read_ite (u.mem ..) (u.mem ..)
theorem correct (id : Nat) (name : LineName) (codewords : Nat) (bursts : List Nat) (wrong : List (Nat × Byte)) (scrub : Bool) :
    P (Machine.correct id name codewords bursts wrong scrub s) = P s := by
  unfold Machine.correct
  extract_lets k a b
  have h : P b = P s := (u.count ..).trans ((u.count ..).trans (u.modStack ..))
  exact read_ite ((u.logCe ..).trans h) ((u.store ..).trans h)
theorem traceSram (p : SramPlace) : P (Machine.traceSram p s) = P s := u.trace ..
theorem clearSram (p : SramPlace) : P (Machine.clearSram p s) = P s := u.store ..
theorem meetSram (p : SramPlace) : P (Machine.meetSram p s).2 = P s := by
  unfold Machine.meetSram
  refine read_ite_snd rfl (read_ite_snd ?_ ?_) <;> dsimp only <;> split
  · rfl
  · exact u.count ..
  · rfl
  · exact (u.count ..).trans (u.store ..)
  · exact u.store ..

/-! ### Check pages and their caches -/

theorem journal (k n : Nat) : P (Machine.journal k n s) = P s :=
  read_ite (read_ite ((u.count ..).trans (u.modStack ..)) (u.mem ..)) rfl
theorem writeCheck (k n : Nat) : P (Machine.writeCheck k n s) = P s := read_ite rfl ((u.journal ..).trans (u.store ..))
theorem markWritten (k first n : Nat) : P (Machine.markWritten k first n s) = P s := u.store ..
theorem badCheck (k n : Nat) : P (Machine.badCheck k n s) = P s := by
  unfold Machine.badCheck
  extract_lets a
  have h : P a = P s := (u.trace ..).trans (u.writeCheck ..)
  exact read_ite ((u.enterPoison ..).trans h)
    (read_ite ((u.markWritten ..).trans ((u.enterPoison ..).trans h)) ((u.enterPoison ..).trans h))
theorem wrongCheck (k n : Nat) (wrong : List (Nat × Byte)) : P (Machine.wrongCheck k n wrong s) = P s := by
  refine read_ite ((read_foldl (fun a e => ?_) ..).trans (u.store ..))
    (read_ite ((read_foldl (fun a e => read_foldl (fun a b => ?_) ..) ..).trans (u.store ..)) (u.store ..))
  · exact read_ite (u.store ..) rfl
  · exact read_ite (u.store ..) rfl
theorem readCheck (k n : Nat) (scrub : Bool) : P (Machine.readCheck k n scrub s).2 = P s := by
  unfold Machine.readCheck
  extract_lets id erased a
  have h : P a = P s := read_ite rfl (u.count ..)
  split
  · exact h
  · have g (words : Nat) (bursts : List Nat) : P (if words = 0 then a else
        Machine.correct id { handle := 0xFFFFFFFE, offset := 0 } words bursts [] scrub a) = P s := read_ite h ((u.correct ..).trans h)
    exact read_ite (g ..) ((u.wrongCheck ..).trans (g ..))
  · exact (u.badCheck ..).trans h
theorem meetCheck (id : Nat) : P (Machine.meetCheck id s).2 = P s := by
  have h := u.meetSram s (.check id)
  unfold Machine.meetCheck
  split
  · rename_i e; exact (u.badCheck ..).trans ((u.clearSram ..).trans ((u.traceSram ..).trans (read_of_snd h e)))
  · rename_i e; exact read_of_snd h e
theorem writeBack (e : CheckLine) : P (Machine.writeBack e s) = P s := by
  have h := u.meetCheck s e.line
  unfold Machine.writeBack
  split
  · split
    · rename_i e; exact read_of_snd h e
    · rename_i e; exact (u.writeCheck ..).trans (read_of_snd h e)
  · exact u.clearSram ..
theorem tick : P (Machine.tick s) = P s := u.freeCtr ..
theorem setCache (die : Nat) (l : List CheckLine) : P (Machine.setCache die l s) = P s := u.mem ..
theorem evict (die : Nat) : P (Machine.evict die s) = P s := by
  have h (l : List CheckLine) : P (Machine.setCache die l (Machine.tick s)) = P s := (u.setCache ..).trans (u.tick ..)
  unfold Machine.evict
  refine read_ite rfl ?_
  dsimp only
  split
  · exact (u.writeBack ..).trans (h _)
  · exact h _
theorem useCheck (k n : Nat) (write : Bool) : P (Machine.useCheck k n write s).2 = P s := by
  unfold Machine.useCheck
  exact read_ite_snd ((u.meetCheck ..).trans ((u.count ..).trans (u.setCache ..)))
    ((u.setCache ..).trans ((u.readCheck ..).trans ((u.clearSram ..).trans ((u.evict ..).trans (u.count ..)))))

/-! ### Reads of a line -/

theorem localise (id : Nat) (name : LineName) : P (Machine.localise id name s).2 = P s := by
  have h := u.setHealth s (lineStack id) .localising
  unfold Machine.localise
  dsimp only
  split
  · exact (u.trace ..).trans ((u.failDie ..).trans h)
  · exact (u.setHealth _ (lineStack id) .healthy).trans h
theorem uncorrectableLine (id : Nat) (counted : Bool) : P (Machine.uncorrectableLine id counted s) = P s :=
  read_ite rfl (u.enterPoison ..)
theorem patternFound (id : Nat) (name : LineName) : P (Machine.patternFound id name s).2 = P s := by
  have h := u.localise s id name
  unfold Machine.patternFound
  refine read_ite_snd ?_ (u.uncorrectableLine ..)
  split
  · rename_i e; exact read_of_snd h e
  · rename_i e; exact (u.uncorrectableLine ..).trans (read_of_snd h e)
theorem decodeLine (id : Nat) (name : LineName) (scrub : Bool) : P (Machine.decodeLine id name scrub s).2 = P s := by
  unfold Machine.decodeLine
  extract_lets k erased a x
  have h : P a = P s := read_ite rfl (u.count ..)
  rw [← h]
  split
  · rfl
  · exact u.patternFound ..
  · exact read_ite_snd (read_ite_snd (u.patternFound ..) (u.uncorrectableLine ..)) (read_ite rfl (u.correct ..))
theorem readLine (id : Nat) (name : LineName) : P (Machine.readLine id name s).2 = P s := by
  have sram := u.meetSram s (.hoop id)
  have valid := u.useCheck s (lineStack id) (validLineOf (lineNo id)) false
  unfold Machine.readLine
  refine read_ite_snd (read_ite_snd rfl (read_ite_snd rfl ?_)) ?_
  · split
    · rename_i e; exact read_of_snd valid e
    · rename_i a e
      have crc := u.useCheck a (lineStack id) (crcLineOf (lineNo id)) false
      rw [← read_of_snd valid e]
      refine read_ite_snd (u.count ..) ?_
      split
      · rename_i e; exact read_of_snd crc e
      · rename_i e; exact (u.decodeLine ..).trans ((u.count ..).trans (read_of_snd crc e))
  · split
    · rename_i e; exact read_of_snd sram e
    · rename_i e; rw [← read_of_snd sram e]; exact read_ite_snd ((u.count ..).trans (u.count ..)) rfl
theorem reportUncorr (name : LineName) (id : Nat) : P (Machine.reportUncorr name id s).2 = P s := (u.trace ..).trans (u.raiseMem ..)
theorem reportCrc (name : LineName) (detected last source : Nat) : P (Machine.reportCrc name detected last source s).2 = P s :=
  (u.trace ..).trans ((u.raiseMem ..).trans (u.mem ..))
theorem reportSram (p : SramPlace) : P (Machine.reportSram p s).2 = P s := u.traceSram ..

/-! ### Writes of a line -/

theorem storeLine (id : Nat) (bytes : List Byte) (made : Nat) : P (Machine.storeLine id bytes made s) = P s :=
  read_ite ((u.leavePoison ..).trans ((u.count ..).trans ((u.journal ..).trans (u.store ..)))) ((u.count ..).trans (u.store ..))
theorem checkForWrite (id : Nat) : P (Machine.checkForWrite id s).2 = P s := (u.useCheck ..).trans (u.useCheck ..)
theorem writeLine (id : Nat) (name : LineName) (bytes : List Byte) (x : BitVec 32) (last : Nat) :
    P (Machine.writeLine id name bytes x last s).2 = P s := by
  have check := u.checkForWrite s id
  unfold Machine.writeLine
  refine read_ite_snd (read_ite_snd rfl (read_ite_snd ((u.reportCrc ..).trans (u.count s 2 (lineStack id) 22 1)) ?_)) 
    (read_ite_snd ((u.store ..).trans (u.storeLine s id bytes last)) (u.storeLine ..))
  split
  · rename_i e; exact (u.storeLine ..).trans (read_of_snd check e)
  · rename_i e; exact read_of_snd check e
theorem mergeLine (id : Nat) (name : LineName) (pos : Nat) (bytes : List Byte) : P (Machine.mergeLine id name pos bytes s).2 = P s := by
  have read := u.readLine s id name
  unfold Machine.mergeLine
  split <;> rename_i e <;> rw [← read_of_snd read e]
  · rename_i a
    have check := u.checkForWrite a id
    refine read_ite_snd (u.reportCrc ..) (read_ite_snd ?_ ((u.count ..).trans (u.storeLine ..)))
    split
    · rename_i e; exact (u.count ..).trans ((u.storeLine ..).trans (read_of_snd check e))
    · rename_i e; exact read_of_snd check e
  · exact u.reportUncorr _ name id
  · exact u.reportSram _ (.hoop id)

/-! ### Writes of a handle's bytes -/

theorem writePiece (die : Option Nat) (h : BitVec 32) (idx : Nat) (d : Desc) (p : Nat × Nat × List Byte) :
    P (Machine.writePiece die h idx d p s).2 = P s :=
  read_ite_snd ((u.writeLine ..).trans (u.traffic ..)) ((u.mergeLine ..).trans (u.traffic ..))
theorem writePieces (die : Option Nat) (h : BitVec 32) (idx : Nat) (d : Desc) (l : List (Nat × Nat × List Byte)) :
    P (Machine.writePieces die h idx d l s).2 = P s := by
  induction l generalizing s with
  | nil => rfl
  | cons p l ih => exact (ih _).trans (u.writePiece ..)
theorem writeBytes (h : BitVec 32) (off : Nat) (bytes : List Byte) : P (Machine.writeBytes h off bytes s).2 = P s := by
  unfold Machine.writeBytes writeFrom
  split
  · rfl
  · exact u.writePieces ..
theorem writeEach (h : BitVec 32) (idx : Nat) (d : Desc) (l : List (Nat × Nat × List Byte)) :
    P (Machine.writeEach h idx d l s).2 = P s := by
  induction l generalizing s with
  | nil => rfl
  | cons p l ih => exact (ih _).trans (u.writePiece ..)
theorem raisePoisoned (fs : List Fail) : P (Machine.raisePoisoned fs s) = P s :=
  read_ite rfl ((u.raiseLnk ..).trans (read_ite (u.raiseMem ..) rfl))
theorem writeBar4 (h : BitVec 32) (off : Nat) (bytes : List Byte) : P (Machine.writeBar4 h off bytes s) = P s := by
  unfold Machine.writeBar4
  split
  · rfl
  · exact (u.raisePoisoned ..).trans (u.writeEach ..)

/-! ### Replies and completion -/

theorem replied (q : Nat) (bytes : List Byte) : P (Machine.replied q bytes s) = P s :=
  (u.signal ..).trans ((u.que ..).trans (u.setQueue s q { s.queue q with
    cqTail := ((s.queue q).cqTail + 1) % (s.queue q).cqSize
    phase := if ((s.queue q).cqTail + 1) % (s.queue q).cqSize = 0 then !(s.queue q).phase else (s.queue q).phase }))
theorem disableQueue (q : Nat) : P (Machine.disableQueue q s) = P s := u.setQueue ..
theorem replyLost (q : Nat) : P (Machine.replyLost q s) = P s := (u.raiseQue ..).trans (u.disableQueue ..)
theorem writeToTail (q : Nat) (h : BitVec 32) (bytes : List Byte) : P (Machine.writeToTail q h bytes s) = P s := by
  have k := u.writeBytes s h ((s.queue q).cqBase.toNat + 32 * (s.queue q).cqTail) (setPhase (s.queue q).phase bytes)
  unfold Machine.writeToTail
  dsimp only
  split
  · rename_i e; exact (u.replied ..).trans (read_of_snd k e)
  · rename_i e; exact (u.replyLost ..).trans (read_of_snd k e)
theorem make (w : HeldWrite) : P (w.make s).2 = P s := by
  unfold HeldWrite.make
  split
  · exact u.writeToTail _ _ w.handle w.bytes
  · exact read_ite_snd (u.writeBar4 _ w.handle w.offset w.bytes) (u.writeBytes ..)
theorem writeHeld (w : HeldWrite) : P (Machine.writeHeld w s).2 = P s :=
  read_ite_snd (u.mem ..) (read_ite_snd (u.mem ..) ((u.mem ..).trans ((u.make _ w).trans (u.mem { s.mem with journalOver := false } s))))
theorem writeReply (q tag status detail round : Nat) (rewoven late firmware : Bool) :
    P (Machine.writeReply q tag status detail round rewoven late firmware s) = P s :=
  read_ite (u.writeHeld ..) (read_ite (u.replyLost ..) ((u.replied ..).trans (u.host ..)))
theorem mergeStats (c : InFlight) : P (Machine.mergeStats c s).2 = P s := read_ite_snd rfl (read_ite_snd (u.tns ..) (u.tns ..))
theorem noteCompare (c : InFlight) : P (Machine.noteCompare c s) = P s := read_ite (u.tns ..) rfl
theorem noteVerify (c : InFlight) : P (Machine.noteVerify c s) = P s := read_ite (u.tns ..) rfl
theorem signalToken (t : Nat) : P (Machine.signalToken t s) = P s := read_ite rfl (u.que ..)
theorem complete (c : InFlight) : P (Machine.complete c s) = P s := by
  have stats : P (Machine.mergeStats c (dropInflight c.id s)).2 = P s := (u.mergeStats ..).trans (u.flight ..)
  unfold Machine.complete
  refine read_ite rfl ?_
  extract_lets s1
  split
  rename_i late s2 e
  extract_lets s3 s4 s5 s6
  have h3 : P s3 = P s := (u.noteVerify ..).trans ((u.noteCompare ..).trans (read_of_snd stats e))
  have h4 : P s4 = P s := read_ite h3 ((u.traceWith ..).trans h3)
  have h5 : P s5 = P s := read_ite ((u.signalToken ..).trans h4) h4
  have h6 : P s6 = P s := read_ite ((u.writeReply ..).trans h5) h5
  exact read_ite h4 (read_ite ((u.raiseQue ..).trans ((u.disableQueue ..).trans h6)) h6)
theorem finish (c : InFlight) : P (Machine.finish c s) = P s := u.complete ..
theorem finishAs (id status detail : Nat) : P (Machine.finishAs id status detail s) = P s := by
  unfold Machine.finishAs
  split
  · exact u.finish ..
  · rfl
theorem finishAll (l : List InFlight) (status detail : Nat) : P (Machine.finishAll l status detail s) = P s :=
  read_foldl (fun _ _ => u.finishAs ..) l s
theorem finishThese (l : List InFlight) (status : Nat) : P (Machine.finishThese l status s) = P s :=
  read_foldl (fun _ _ => u.finishAs ..) l s

/-! ### The placer's round boundary, for a reading that does not look at the placer -/

section
variable (plc : ∀ x (s : State), P { s with plc := x } = P s)
include plc

theorem raisePlc (b : Nat) : P (Machine.raisePlc b s) = P s := (u.signal ..).trans (plc ..)
theorem retire (die pos : Nat) : P (Machine.retire die pos s) = P s :=
  read_ite rfl ((u.raisePlc _ plc 0).trans ((u.trace ..).trans (plc ..)))
theorem assignSpares (old : List (Option Nat)) : P (Machine.assignSpares old s).2 = P s := by
  unfold Machine.assignSpares
  extract_lets groups changed spares _ a b short
  have h : P b = P s := by
    refine (read_foldl (fun _ e => ?_) changed a).trans (plc ..)
    split
    · exact u.trace ..
    · rfl
  exact read_ite ((u.raisePlc _ plc 2).trans h) h
theorem takeMigrations (l : List (Nat × Desc)) (first : Bool) (budget : Nat) :
    P (Machine.takeMigrations l first budget s) = P s := by
  induction l generalizing first budget s with
  | nil => rfl
  | cons e l ih =>
    unfold Machine.takeMigrations
    refine read_ite ?_ ((ih ..).trans (plc ..))
    split
    · exact (ih ..).trans (plc ..)
    · exact (ih ..).trans ((u.raisePlc _ plc 1).trans (plc ..))
omit u in
theorem modDesc (i : Nat) (f : Desc → Desc) : P (Machine.modDesc i f s) = P s := by
  unfold Machine.modDesc
  split
  · exact plc ..
  · rfl
theorem startCopy : P (Machine.startCopy s) = P s := by
  unfold Machine.startCopy
  split
  · dsimp only
    split
    · exact (u.trace ..).trans (read_ite ((modDesc _ plc _ fun d => { d with state := .migrating }).trans (plc ..)) (plc ..))
    · exact plc ..
  · rfl
theorem buildMigrations : P (Machine.buildMigrations s).2 = P s := by
  unfold Machine.buildMigrations
  extract_lets busy _ a moving list n b started
  have h : P b = P s := (u.takeMigrations _ plc ..).trans (plc ..)
  exact read_ite_snd (plc ..) (read_ite h ((u.startCopy _ plc).trans h))
theorem roundBoundary : P (Machine.roundBoundary s) = P s := by
  unfold Machine.roundBoundary
  extract_lets a marked old _ b
  have h : P b = P s := (read_foldl (fun _ _ => u.retire _ plc ..) ..).trans
    ((plc ..).trans ((plc ..).trans (plc ..)))
  have spares := u.assignSpares b plc old
  split
  rename_i moved c e
  have g := (u.buildMigrations { c with plc := { c.plc with heat := [], heatN := 0 } } plc).trans
    ((plc ..).trans ((read_of_snd spares e).trans h))
  exact read_ite ((plc ..).trans g) g

end

end Untouched

end Sys2Proof.Machine
end

section
/-! SUPPORT. CONTROL frames (R346): what sending them changes, what they say and to which seat; and the readings of the state that the
cluster's proofs keep through accesses to the memories. -/

namespace Sys2Proof.Machine

/-! ### The link's side of the state -/

/-- A CONTROL frame. -/
def Sent.isControl : Sent → Bool
  | .control .. => true
  | _ => false

/-- The CONTROL frames sent so far. -/
def State.controls (s : State) : List Sent := s.out.sent.filter Sent.isControl

/-- The link ports and the CONTROL frames that have left through them. -/
def State.wire (s : State) : Tab Port × List Sent := (s.lnk.ports, s.controls)

/-- The placer without its running counts of traffic (R174). -/
def State.placement (s : State) : Plc := { s.plc with running := [] }

theorem signalVector_out (v : Nat) (s : State) : ∃ lnk ms,
    signalVector v s = { s with lnk := lnk, out := { s.out with messages := ms } } ∧ lnk.ports = s.lnk.ports := by
  unfold signalVector sendMessage
  split
  · exact ⟨_, s.out.messages, rfl, rfl⟩
  · split
    · exact ⟨_, s.out.messages, rfl, rfl⟩
    · exact ⟨_, s.out.messages ++ [v], rfl, rfl⟩

/-- Accesses to the memories and completions send no CONTROL frame and change no port. -/
theorem untouched_wire : Untouched State.wire where
  raiseLnk b s := by
    obtain ⟨lnk, ms, e, ports⟩ := signalVector_out 64 { s with lnk := { s.lnk with status := s.lnk.status.raise b } }
    exact Prod.ext ((congrArg (·.lnk.ports) e :).trans ports) (congrArg State.controls e :)
  signal v s := by
    obtain ⟨lnk, ms, e, ports⟩ := signalVector_out v s
    exact Prod.ext ((congrArg (·.lnk.ports) e :).trans ports) (congrArg State.controls e :)
  notify sensor s := by
    unfold notify
    split
    · rfl
    · exact Prod.ext rfl (by simp [State.wire, State.controls, Sent.isControl])
    · rfl
  traffic _ _ _ := rfl
  host _ _ _ := rfl
  mem _ _ := rfl
  store _ _ := rfl
  cnt _ _ := rfl
  trc _ _ := rfl
  lgr _ _ := rfl
  que _ _ := rfl
  flight _ _ := rfl
  tns _ _ := rfl
  freeCtr _ _ := rfl

/-- Of the placer they change only the running counts of traffic. -/
theorem untouched_placement : Untouched State.placement where
  raiseLnk b s := by
    obtain ⟨lnk, ms, e, -⟩ := signalVector_out 64 { s with lnk := { s.lnk with status := s.lnk.status.raise b } }
    exact (congrArg State.placement e :)
  signal v s := by
    obtain ⟨lnk, ms, e, -⟩ := signalVector_out v s
    exact (congrArg State.placement e :)
  notify sensor s := by unfold notify; split <;> rfl
  traffic _ _ _ := rfl
  host _ _ _ := rfl
  mem _ _ := rfl
  store _ _ := rfl
  cnt _ _ := rfl
  trc _ _ := rfl
  lgr _ _ := rfl
  que _ _ := rfl
  flight _ _ := rfl
  tns _ _ := rfl
  freeCtr _ _ := rfl

section
variable {s t : State}

theorem told_controls (s : State) : s.told = s.controls.filterMap fun e => match e with
    | .control _ _ w => some w
    | _ => none := by
  unfold State.told State.controls
  rw [List.filterMap_filter]
  refine congrFun (congrArg List.filterMap (funext fun e => ?_)) _
  cases e <;> rfl

theorem toldSeat_iff (s : State) (seat : Nat) (w : Control) :
    s.toldSeat seat w ↔ ∃ p b, Sent.control p b w ∈ s.controls ∧ field b 18 2 = seat % 65536 := by
  simp [State.toldSeat, State.controls, List.mem_filter, Sent.isControl]

/-- What a seat has been told it has been told, whatever is sent later. -/
theorem toldSeat_of_prefix (sent : s.controls <+: t.controls) {seat : Nat} {w : Control} (h : s.toldSeat seat w) : t.toldSeat seat w := by
  rw [toldSeat_iff] at h ⊢
  obtain ⟨p, b, mem, name⟩ := h
  exact ⟨p, b, sent.subset mem, name⟩

theorem port_of_ports (h : t.lnk.ports = s.lnk.ports) (p : Nat) : t.port p = s.port p := congrArg (tget ({} : Port) · p) h

theorem linked_of_ports (h : t.lnk.ports = s.lnk.ports) : t.linked = s.linked := by
  unfold State.linked
  simp only [port_of_ports h]

theorem ports_of_wire (h : t.wire = s.wire) : t.lnk.ports = s.lnk.ports := congrArg Prod.fst h
theorem controls_of_wire (h : t.wire = s.wire) : t.controls = s.controls := congrArg Prod.snd h
theorem told_of_wire (h : t.wire = s.wire) : t.told = s.told := by rw [told_controls, told_controls, controls_of_wire h]
theorem prefix_of_wire (h : t.wire = s.wire) : s.controls <+: t.controls := (controls_of_wire h).symm ▸ List.prefix_refl _

end

/-! ### The seat that a CONTROL frame names -/

theorem field_18 (l r : List Byte) (n : Nat) (h : l.length = 18) : field (l ++ (leBytes 2 n ++ r)) 18 2 = n % 65536 := by
  have drop : (l ++ (leBytes 2 n ++ r)).drop 18 = leBytes 2 n ++ r := List.drop_left' h
  unfold field slice
  rw [drop]
  simp only [leBytes, List.cons_append, List.nil_append, List.take_succ_cons, List.take_zero, List.length_cons, List.length_nil,
    leNat, BitVec.toNat_ofNat, Nat.sub_self, List.replicate_zero]
  omega

/-- Padding to 60 bytes leaves the first 20 as they are. -/
theorem padded_eq (l r : List Byte) (n : Nat) (h : l.length = 18) : ∃ r', slice (l ++ (leBytes 2 n ++ r)) 0 60 = l ++ (leBytes 2 n ++ r') := by
  have two : (leBytes 2 n).length = 2 := rfl
  have start : (l ++ (leBytes 2 n ++ r)).take 60 = l ++ (leBytes 2 n ++ r.take 40) := by
    rw [List.take_append, List.take_append, List.take_of_length_le (by omega), List.take_of_length_le (by omega), h, two]
  unfold slice
  rw [List.drop_zero, start, List.append_assoc, List.append_assoc]
  exact ⟨_, rfl⟩

/-- A frame's DST_SEAT (Tables 15.2 and 15.3), where a frame that is too short has been padded. -/
theorem field_frameBytes (u s : State) (p : Nat) (mac : BitVec 48) (typ strands dst xgroup seq ack transfer offset : Nat) (payload : List Byte) :
    field (s.frameBytes p mac (transportHeader u typ strands dst xgroup seq ack transfer offset) payload) 18 2 = dst % 65536 := by
  unfold State.frameBytes transportHeader
  extract_lets h b padded
  have long : ((leBytes 6 mac.toNat).reverse ++ (leBytes 6 (s.portMac p).toNat).reverse ++ [0x88, 0xB5] ++
      [BitVec.ofNat 8 (1 + 16 * typ), BitVec.ofNat 8 strands] ++ leBytes 2 u.srcSeat).length = 18 := by simp [leBytes]
  generalize e : (leBytes 6 mac.toNat).reverse ++ (leBytes 6 (s.portMac p).toNat).reverse ++ [0x88, 0xB5] ++
      [BitVec.ofNat 8 (1 + 16 * typ), BitVec.ofNat 8 strands] ++ leBytes 2 u.srcSeat = l at long
  obtain ⟨r, split⟩ : ∃ r, b = l ++ (leBytes 2 dst ++ r) := ⟨_, by rw [← e]; simp only [b, h, List.append_assoc]; rfl⟩
  obtain ⟨r', split'⟩ : ∃ r', padded = l ++ (leBytes 2 dst ++ r') := by
    show ∃ r', (if b.length < 60 then slice b 0 60 else b) = _
    split
    · rw [split]
      exact padded_eq l r dst long
    · exact ⟨r, split⟩
  rw [split', List.append_assoc, List.append_assoc]
  exact field_18 l _ dst long

/-! ### Frames to seats -/

/-- `t` is `s` after CONTROL frames have gone to seats: nothing else than the frames, their counter and the free values that they hold is
different, and with a port in service each seat of `l` has been told what `l` says. -/
structure Sends (l : List (Nat × Control)) (s t : State) : Prop where
  same  : ∃ free cnt sent, t = { s with freeCtr := free, cnt := cnt, out := { s.out with sent := sent } }
  sent  : s.controls <+: t.controls
  told  : t.told = s.told ++ if s.linked then l.map (·.2) else []
  reach : s.linked = true → ∀ e ∈ l, t.toldSeat e.1 e.2

section
variable {l m : List (Nat × Control)} {s t u : State}

theorem Sends.ports (h : Sends l s t) : t.lnk.ports = s.lnk.ports := by obtain ⟨_, _, _, e⟩ := h.same; rw [e]
theorem Sends.linked (h : Sends l s t) : t.linked = s.linked := linked_of_ports h.ports
theorem Sends.rim (h : Sends l s t) : t.rim = s.rim := by obtain ⟨_, _, _, e⟩ := h.same; rw [e]
theorem Sends.tim (h : Sends l s t) : t.tim = s.tim := by obtain ⟨_, _, _, e⟩ := h.same; rw [e]
theorem Sends.tns (h : Sends l s t) : t.tns = s.tns := by obtain ⟨_, _, _, e⟩ := h.same; rw [e]
theorem Sends.mem (h : Sends l s t) : t.mem = s.mem := by obtain ⟨_, _, _, e⟩ := h.same; rw [e]
theorem Sends.pins (h : Sends l s t) : t.pins = s.pins := by obtain ⟨_, _, _, e⟩ := h.same; rw [e]
theorem Sends.flight (h : Sends l s t) : t.flight = s.flight := by obtain ⟨_, _, _, e⟩ := h.same; rw [e]

theorem Sends.refl (s : State) : Sends [] s s := ⟨⟨_, _, _, rfl⟩, List.prefix_refl _, by simp, by simp⟩

theorem Sends.trans (h : Sends l s t) (g : Sends m t u) : Sends (l ++ m) s u where
  same := by
    obtain ⟨_, _, _, e⟩ := h.same
    obtain ⟨free, cnt, sent, e'⟩ := g.same
    subst e
    exact ⟨free, cnt, sent, e'⟩
  sent := h.sent.trans g.sent
  told := by
    rw [g.told, h.told, h.linked]
    cases s.linked <;> simp
  reach linked e mem := by
    rcases List.mem_append.mp mem with mem | mem
    · exact toldSeat_of_prefix g.sent (h.reach linked e mem)
    · exact g.reach (h.linked.trans linked) e mem

end

theorem sendControlAs_sends (dst seat : Nat) (what : Control) (s : State) : Sends [(dst, what)] s (sendControlAs dst seat what s) := by
  cases linked : s.linked
  · rw [show sendControlAs dst seat what s = s from if_pos (by simp [linked])]
    exact ⟨⟨_, _, _, rfl⟩, List.prefix_refl _, by simp [linked], by simp [linked]⟩
  · obtain ⟨p, b, free, cnt, e, name⟩ : ∃ p b free cnt, sendControlAs dst seat what s =
        emit (.control p b what) { s with freeCtr := free, cnt := cnt } ∧ field b 18 2 = dst % 65536 :=
      ⟨_, _, _, _, if_neg (by simp [linked]), field_frameBytes ..⟩
    rw [e]
    refine ⟨⟨_, _, _, rfl⟩, ?_, by simp [State.told, emit, linked], fun _ e mem => ?_⟩
    · exact ⟨[.control p b what], by simp only [State.controls, emit, List.filter_append]; rfl⟩
    · rw [List.mem_singleton.mp mem]
      exact ⟨p, b, by simp [emit], name⟩

theorem sendControl_sends (dst : Nat) (what : Control) (s : State) : Sends [(dst, what)] s (sendControl dst what s) :=
  sendControlAs_sends ..

theorem sendRim_sends (what : Control) (s : State) : Sends [(s.tim.rimSeat, what)] s (sendRim what s) := sendControl_sends ..

theorem foldl_sends (what : Control) (l : List Nat) (s : State) :
    Sends (l.map fun x => (x, what)) s (l.foldl (fun s x => sendControl x what s) s) := by
  induction l generalizing s with
  | nil => exact .refl s
  | cons x l ih => exact (sendControl_sends x what s).trans (ih _)

theorem sendSeats_sends (what : Control) (s : State) : Sends (s.others.map fun x => (x, what)) s (sendSeats what s) := foldl_sends ..

/-- Whom a decision is sent to besides the other live seats: the seats that it declares lost. -/
def State.toldLost (s : State) (d : RimDecision) : List Nat :=
  (d.pairs.map (·.1)).filter fun f => !s.others.contains f && f ≠ s.tim.seat

theorem sendDecision_sends (d : RimDecision) (s : State) :
    Sends ((s.others ++ s.toldLost d).map fun x => (x, .decision d)) s (sendDecision d s) := by
  rw [List.map_append]
  exact (sendSeats_sends ..).trans (foldl_sends ..)

theorem sendDecision_reaches {d : RimDecision} {s : State} (linked : s.linked = true) {x : Nat} (mem : x ∈ s.others ++ s.toldLost d) :
    (sendDecision d s).toldSeat x (.decision d) :=
  (sendDecision_sends d s).reach linked _ (List.mem_map_of_mem mem)

/-! ### The deputy's copy (R276) -/

/-- The copy that goes to the deputy is noted in the rim's table, and is one frame at most. -/
theorem syncDeputy_sends (s : State) : ∃ sent l, l.length ≤ 1 ∧ Sends l { s with rim := { s.rim with sent := sent } } (syncDeputy s) := by
  unfold syncDeputy
  split
  · split
    · exact ⟨_, _, by exact Nat.le_refl 1, sendControl_sends ..⟩
    · exact ⟨s.rim.sent, [], Nat.zero_le _, .refl s⟩
  · exact ⟨s.rim.sent, [], Nat.zero_le _, .refl s⟩

/-- The rim's table without the copy that the deputy was last sent. -/
def Rim.unsent (r : Rim) : Rim := { r with sent := none }

section
variable (s : State)

theorem syncDeputy_unsent : (syncDeputy s).rim.unsent = s.rim.unsent := by
  obtain ⟨_, _, -, h⟩ := syncDeputy_sends s
  rw [h.rim]
  rfl
theorem syncDeputy_tim : (syncDeputy s).tim = s.tim := by obtain ⟨_, _, -, h⟩ := syncDeputy_sends s; exact h.tim
theorem syncDeputy_tns : (syncDeputy s).tns = s.tns := by obtain ⟨_, _, -, h⟩ := syncDeputy_sends s; exact h.tns
theorem syncDeputy_mem : (syncDeputy s).mem = s.mem := by obtain ⟨_, _, -, h⟩ := syncDeputy_sends s; exact h.mem
theorem syncDeputy_ports : (syncDeputy s).lnk.ports = s.lnk.ports := by obtain ⟨_, _, -, h⟩ := syncDeputy_sends s; exact h.ports
theorem syncDeputy_prefix : s.controls <+: (syncDeputy s).controls := by obtain ⟨_, _, -, h⟩ := syncDeputy_sends s; exact h.sent
theorem syncDeputy_member (k : Nat) : (syncDeputy s).member k = s.member k :=
  (congrArg (fun r : Rim => tfind r.seats k) (syncDeputy_unsent s) :)
/-- Without a deputy nothing is sent. -/
theorem syncDeputy_alone {s : State} (h : s.deputySeat = none) : syncDeputy s = s := by
  unfold syncDeputy
  rw [h]

end

end Sys2Proof.Machine
end

section
/-! PROOFS. Decisions as they reach a member (R253, R268, R277, Table 11.10), and what a decision leaves as it is. -/

namespace Sys2Proof.Machine

/-! ### What a device keeps through the rim's protocol -/

/-- What the rim's decisions, commits and losses leave to a device: its ports, its role, rim time, and of the rim's table the groups and
the devices that are refused. What it has sent and the status bits that it has set stay. -/
structure Serves (s t : State) : Prop where
  ports   : t.lnk.ports = s.lnk.ports
  sent    : s.controls <+: t.controls
  role    : t.tim.role = s.tim.role
  now     : t.tim.now = s.tim.now
  deputy  : t.tim.deputy = s.tim.deputy
  status  : ∀ b, s.tim.status.bits.getLsbD b = true → t.tim.status.bits.getLsbD b = true
  groups  : t.rim.groups = s.rim.groups
  retired : t.rim.retired = s.rim.retired

section
variable {s t u : State}

theorem Serves.refl (s : State) : Serves s s := ⟨rfl, List.prefix_refl _, rfl, rfl, rfl, fun _ h => h, rfl, rfl⟩

theorem Serves.trans (h : Serves s t) (g : Serves t u) : Serves s u where
  ports := g.ports.trans h.ports
  sent := h.sent.trans g.sent
  role := g.role.trans h.role
  now := g.now.trans h.now
  deputy := g.deputy.trans h.deputy
  status b set := g.status b (h.status b set)
  groups := g.groups.trans h.groups
  retired := g.retired.trans h.retired

theorem Serves.linked (h : Serves s t) : t.linked = s.linked := linked_of_ports h.ports
theorem Serves.toldSeat (h : Serves s t) {seat : Nat} {w : Control} : s.toldSeat seat w → t.toldSeat seat w := toldSeat_of_prefix h.sent

/-- Frames change none of it. -/
theorem Sends.serves {l : List (Nat × Control)} (h : Sends l s t) : Serves s t where
  ports := h.ports
  sent := h.sent
  role := by rw [h.tim]
  now := by rw [h.tim]
  deputy := by rw [h.tim]
  status b set := by rwa [h.tim]
  groups := by rw [h.rim]
  retired := by rw [h.rim]

/-- Nor does what leaves the wire, the TIM_ block and the rim's table alone. -/
theorem serves_of_same (wire : t.wire = s.wire) (tim : t.tim = s.tim) (rim : t.rim = s.rim) : Serves s t where
  ports := ports_of_wire wire
  sent := prefix_of_wire wire
  role := by rw [tim]
  now := by rw [tim]
  deputy := by rw [tim]
  status b set := by rwa [tim]
  groups := by rw [rim]
  retired := by rw [rim]

end

/-! ### Completions -/

section
variable (s : State) (l : List InFlight) (id status detail : Nat)

theorem finishAs_tim : (finishAs id status detail s).tim = s.tim := congrArg Calm.tim (finishAs_still ..)
theorem finishAs_rim : (finishAs id status detail s).rim = s.rim := congrArg Calm.rim (finishAs_still ..)
theorem finishAs_round : (finishAs id status detail s).tns.round = s.tns.round := (congrArg Tns.round (finishAs_core ..) :)
theorem finishAll_tim : (finishAll l status detail s).tim = s.tim := congrArg Calm.tim (finishAll_still ..)
theorem finishAll_rim : (finishAll l status detail s).rim = s.rim := congrArg Calm.rim (finishAll_still ..)
theorem finishAll_sched : (finishAll l status detail s).sched = s.sched := congrArg Calm.sched (finishAll_still ..)
theorem finishAll_round : (finishAll l status detail s).tns.round = s.tns.round := (congrArg Tns.round (finishAll_core ..) :)

theorem finishAs_serves : Serves s (finishAs id status detail s) :=
  serves_of_same (untouched_wire.finishAs ..) (finishAs_tim ..) (finishAs_rim ..)
theorem finishAll_serves : Serves s (finishAll l status detail s) :=
  serves_of_same (untouched_wire.finishAll ..) (finishAll_tim ..) (finishAll_rim ..)

end

/-- Commands that all commands of a kind are completed with: what is in flight afterwards was before, and is of no such kind. -/
theorem finishAll_leaves {s t : State} (kind : InFlight → Bool) (status detail : Nat) (flight : t.flight = s.flight) (clocked : t.clocked = true)
    {c : InFlight} (mem : c ∈ (finishAll (s.flight.filter kind) status detail t).flight) : c ∈ s.flight ∧ kind c = false := by
  rw [finishAll_flight _ _ _ _ clocked, flight, List.mem_filter] at mem
  obtain ⟨mem, apart⟩ := mem
  refine ⟨mem, ?_⟩
  cases is : kind c
  · rfl
  · exact absurd rfl (of_decide_eq_true (List.all_eq_true.mp apart c (List.mem_filter.mpr ⟨mem, is⟩)))

/-! ### A decision is shown -/

theorem raiseTim_calm (b : Nat) (s : State) :
    (raiseTim b s).calm = { s.calm with tim := { s.tim with status := s.tim.status.raise b } } := signalVector_calm ..

/-- A decision that is shown: TIM_TAKEOVER has it, TAKEOVER is set, and it is held. -/
def Tim.shown (d : Decision) (detail : Nat) (t : Tim) : Tim :=
  { t with
    takeover := BitVec.ofNat 32 (takeoverWord d.code d.lost d.peer d.isSource d.takeSeat.isSome)
    status := t.status.raise 2
    decided := some (BitVec.ofNat 64 detail) }

theorem raiseTim_parts (b : Nat) (s : State) : ∃ lnk ms, raiseTim b s =
    { s with tim := { s.tim with status := s.tim.status.raise b }, lnk := lnk, out := { s.out with messages := ms } } :=
  signalVector_parts 64 { s with tim := { s.tim with status := s.tim.status.raise b } }

theorem writeTakeover_parts (w : Nat) (s : State) : ∃ lnk ms, writeTakeover w s =
    { s with
      tim := { s.tim with takeover := BitVec.ofNat 32 w, status := s.tim.status.raise 2 }
      lnk := lnk
      out := { s.out with messages := ms } } :=
  raiseTim_parts 2 { s with tim := { s.tim with takeover := BitVec.ofNat 32 w } }

theorem showDecision_parts (d : Decision) (detail : Nat) (s : State) : ∃ trc lnk ms, showDecision d detail s =
    { s with tim := s.tim.shown d detail, trc := trc, lnk := lnk, out := { s.out with messages := ms } } := by
  unfold showDecision
  obtain ⟨lnk, ms, e⟩ := writeTakeover_parts (takeoverWord d.code d.lost d.peer d.isSource d.takeSeat.isSome) s
  rw [e]
  unfold trace
  dsimp only
  obtain ⟨trc, lnk', ms', e'⟩ := traceWith_parts tCLUSTER 1 0x14 0xFFFF [s.tim.seat, d.code, d.round.toNat] 0 false
    { s with
      tim := { s.tim with
        takeover := BitVec.ofNat 32 (takeoverWord d.code d.lost d.peer d.isSource d.takeSeat.isSome), status := s.tim.status.raise 2 }
      lnk := lnk
      out := { s.out with messages := ms } }
  rw [e']
  exact ⟨trc, lnk', ms', rfl⟩

section
variable (d : Decision) (detail : Nat) (s : State)

theorem showDecision_tim : (showDecision d detail s).tim = s.tim.shown d detail := by obtain ⟨_, _, _, e⟩ := showDecision_parts d detail s; rw [e]
theorem showDecision_tns : (showDecision d detail s).tns = s.tns := by obtain ⟨_, _, _, e⟩ := showDecision_parts d detail s; rw [e]
theorem showDecision_flight : (showDecision d detail s).flight = s.flight := by obtain ⟨_, _, _, e⟩ := showDecision_parts d detail s; rw [e]
theorem showDecision_pins : (showDecision d detail s).pins = s.pins := by obtain ⟨_, _, _, e⟩ := showDecision_parts d detail s; rw [e]
theorem showDecision_rim : (showDecision d detail s).rim = s.rim := by obtain ⟨_, _, _, e⟩ := showDecision_parts d detail s; rw [e]

/-- A reading that does not look at the TIM_ block. -/
theorem Untouched.showDecision {α : Type} {P : State → α} (u : Untouched P) (tim : ∀ x (s : State), P { s with tim := x } = P s) :
    P (Machine.showDecision d detail s) = P s :=
  (tim ..).trans ((u.trace ..).trans ((u.signal ..).trans ((tim ..).trans (tim { s.tim with
    takeover := BitVec.ofNat 32 (takeoverWord d.code d.lost d.peer d.isSource d.takeSeat.isSome) } s))))

theorem showDecision_wire : (showDecision d detail s).wire = s.wire := untouched_wire.showDecision _ _ _ fun _ _ => rfl

theorem showDecision_serves : Serves s (showDecision d detail s) where
  ports := ports_of_wire (showDecision_wire ..)
  sent := prefix_of_wire (showDecision_wire ..)
  role := by rw [showDecision_tim]; rfl
  now := by rw [showDecision_tim]; rfl
  deputy := by rw [showDecision_tim]; rfl
  status b set := by
    rw [showDecision_tim]
    exact Status.raise_bit_other set
  groups := by rw [showDecision_rim]
  retired := by rw [showDecision_rim]

end

/-! ### What a decision stops (R268) -/

/-- A device whose COMMITs a decision stops; `diverged` says that its own divergence is the cause. -/
def State.stopping (diverged : Bool) (detail : Nat) (s : State) : State :=
  { s with tim := { s.tim with abort := some (BitVec.ofNat 64 detail), abortDiv := diverged, sourceOnce := none } }

theorem stopRound_eq (diverged : Bool) (detail : Nat) (s : State) : stopRound diverged detail s =
    finishAll s.commits (if diverged && s.tns.heldDiverged then 0x0508 else 0x0504) detail (s.stopping (diverged && s.tns.heldDiverged) detail) :=
  rfl

theorem stopRound_serves (diverged : Bool) (detail : Nat) (s : State) : Serves s (stopRound diverged detail s) :=
  .trans (t := s.stopping (diverged && s.tns.heldDiverged) detail) ⟨rfl, List.prefix_refl _, rfl, rfl, rfl, fun _ h => h, rfl, rfl⟩
    (finishAll_serves ..)

theorem stopRound_rim (diverged : Bool) (detail : Nat) (s : State) : (stopRound diverged detail s).rim = s.rim := finishAll_rim ..

theorem stopRound_round (diverged : Bool) (detail : Nat) (s : State) : (stopRound diverged detail s).tns.round = s.tns.round :=
  finishAll_round ..

/-! ### A decision by its code (Table 11.10) -/

/-- Whether a decision stops the round of a member: HALT, and BACK and RESTORE but on the standby that takes the lost seat. -/
def StopsRound (d : Decision) : Prop := d.code = 4 ∨ (d.code = 2 ∨ d.code = 3) ∧ d.takeSeat = none

/-- The domain's state after a decision. -/
def State.decidedDomain (d : Decision) (s : State) : DomainState := if d.code = 4 then .halted else s.tim.domain

theorem followDecision_stops {d : Decision} (stops : StopsRound d) (detail : Nat) (s : State) : followDecision d detail s =
    stopRound (d.code = 2 && d.diverged) detail { s with tim := { s.tim with domain := s.decidedDomain d } } := by
  unfold followDecision State.decidedDomain
  rcases stops with code | ⟨code | code, seat⟩
  · simp only [code]
    rfl
  · simp only [code, seat]
    rfl
  · simp only [code, seat]
    rfl

/-- A decision that stops no round completes at most the source peer's COMMIT. -/
theorem followDecision_goes {d : Decision} (goes : ¬ StopsRound d) (detail : Nat) (s : State) :
    followDecision d detail s = s ∨ (∃ c ∈ s.flight, followDecision d detail s = finishAs c.id 0x0503 detail s) ∨
      followDecision d detail s = { s with tim := { s.tim with sourceOnce := some (BitVec.ofNat 64 detail) } } := by
  unfold followDecision
  split
  · split
    · split
      · rename_i c rest updates
        have mem : c ∈ s.updates := updates ▸ List.mem_cons_self
        exact .inr (.inl ⟨c, (List.mem_filter.mp mem).1, rfl⟩)
      · exact .inr (.inr rfl)
    · exact .inl rfl
  · rename_i code
    refine .inl (if_pos ?_)
    rw [Option.isSome_iff_ne_none]
    exact fun seat => goes (.inr ⟨.inl code, seat⟩)
  · rename_i code
    refine .inl (if_pos ?_)
    rw [Option.isSome_iff_ne_none]
    exact fun seat => goes (.inr ⟨.inr code, seat⟩)
  · rename_i code
    exact absurd (.inl code) goes
  · exact .inl rfl

theorem followDecision_serves (d : Decision) (detail : Nat) (s : State) : Serves s (followDecision d detail s) := by
  by_cases stops : StopsRound d
  · rw [followDecision_stops stops]
    exact .trans (t := { s with tim := { s.tim with domain := s.decidedDomain d } })
      ⟨rfl, List.prefix_refl _, rfl, rfl, rfl, fun _ h => h, rfl, rfl⟩ (stopRound_serves ..)
  · rcases followDecision_goes stops detail s with e | ⟨c, -, e⟩ | e <;> rw [e]
    · exact .refl s
    · exact finishAs_serves ..
    · exact ⟨rfl, List.prefix_refl _, rfl, rfl, rfl, fun _ h => h, rfl, rfl⟩

theorem followDecision_rim (d : Decision) (detail : Nat) (s : State) : (followDecision d detail s).rim = s.rim := by
  by_cases stops : StopsRound d
  · rw [followDecision_stops stops, stopRound_rim]
  · rcases followDecision_goes stops detail s with e | ⟨c, -, e⟩ | e <;> rw [e]
    exact finishAs_rim ..

theorem followDecision_round (d : Decision) (detail : Nat) (s : State) : (followDecision d detail s).tns.round = s.tns.round := by
  by_cases stops : StopsRound d
  · rw [followDecision_stops stops, stopRound_round]
  · rcases followDecision_goes stops detail s with e | ⟨c, -, e⟩ | e <;> rw [e]
    exact finishAs_round ..

/-! ### A standby takes a seat (R269) -/

theorem takeSeat_other {s : State} (other : s.tim.domain ≠ .standby) (d : Decision) (detail : Nat) : takeSeat d detail s = s := by
  unfold takeSeat
  split
  · rename_i standby; exact absurd standby other
  · rfl

theorem oweInstance_parts (i : Nat) (s : State) : ∃ owed, oweInstance i s = { s with tim := { s.tim with owed := owed } } := by
  unfold oweInstance
  split
  · exact ⟨_, rfl⟩
  · exact ⟨_, rfl⟩

theorem writeEntry_parts (i : Nat) (b : EntryBody) (s : State) : ∃ owed sched, writeEntry i b s =
    { s with tim := { s.tim with owed := owed }, sched := sched } := by
  unfold writeEntry
  obtain ⟨owed, e⟩ := oweInstance_parts i s
  rw [e]
  dsimp only
  split
  · exact ⟨owed, _, rfl⟩
  · exact ⟨owed, _, rfl⟩

theorem renewEntry_parts (i : Nat) (b : EntryBody) (s : State) : ∃ owed sched, renewEntry i b s =
    { s with tim := { s.tim with owed := owed }, sched := sched } := by
  unfold renewEntry
  split
  · exact ⟨_, _, rfl⟩
  · exact writeEntry_parts i b s

/-- Writes of entries change the schedule and the instances owed alone. -/
theorem foldl_entries_parts {α : Type} {f : State → α → State}
    (h : ∀ s a, ∃ owed sched, f s a = { s with tim := { s.tim with owed := owed }, sched := sched }) (l : List α) (s : State) :
    ∃ owed sched, l.foldl f s = { s with tim := { s.tim with owed := owed }, sched := sched } := by
  induction l generalizing s with
  | nil => exact ⟨_, _, rfl⟩
  | cons a l ih =>
    obtain ⟨owed, sched, e⟩ := h s a
    obtain ⟨owed', sched', e'⟩ := ih { s with tim := { s.tim with owed := owed }, sched := sched }
    exact ⟨owed', sched', by rw [List.foldl_cons, e, e']⟩

theorem setWindows_parts (l : List (Fin 16 × EntryBody)) (s : State) : ∃ owed sched flight, setWindows l s =
    { s with tim := { s.tim with owed := owed }, sched := sched, flight := flight } := by
  unfold setWindows
  dsimp only
  obtain ⟨owed, sched, e⟩ := foldl_entries_parts (fun s (e : Nat × Sched) => writeEntry_parts e.1 { e.2.body with kind := 0 } s)
    (s.sched.filter fun e => e.1 < 16 && !(l.any fun x => x.1.val == e.1)) s
  rw [e]
  obtain ⟨owed', sched', e'⟩ := foldl_entries_parts (fun s (e : Fin 16 × EntryBody) => renewEntry_parts e.1.val e.2 s) l
    { s with tim := { s.tim with owed := owed }, sched := sched }
  rw [e']
  exact ⟨owed', sched', _, rfl⟩

theorem setWindows_serves (l : List (Fin 16 × EntryBody)) (s : State) : Serves s (setWindows l s) := by
  obtain ⟨_, _, _, e⟩ := setWindows_parts l s
  rw [e]
  exact ⟨rfl, List.prefix_refl _, rfl, rfl, rfl, fun _ h => h, rfl, rfl⟩

theorem takeSeat_serves (d : Decision) (detail : Nat) (s : State) : Serves s (takeSeat d detail s) := by
  unfold takeSeat
  split
  · rename_i seat set groups windows _ _
    dsimp only
    refine .trans (t := { s with tim := { s.tim with
      domain := .member, seat := seat, replicaSet := set, groups := groups.take 16
      rimSeat := if s.tim.role == .rim then seat else s.tim.rimSeat, tookSeat := d.code == 1 || d.code == 2 } })
      ⟨rfl, List.prefix_refl _, rfl, rfl, rfl, fun _ h => h, rfl, rfl⟩ ?_
    exact (setWindows_serves ..).trans (finishAll_serves ..)
  · exact .refl s

theorem takeSeat_rim (d : Decision) (detail : Nat) (s : State) : (takeSeat d detail s).rim = s.rim := by
  unfold takeSeat
  split
  · rename_i windows _ _
    refine (finishAll_rim ..).trans ?_
    obtain ⟨_, _, _, e⟩ := setWindows_parts windows _
    rw [e]
  · rfl

theorem takeSeat_round (d : Decision) (detail : Nat) (s : State) : (takeSeat d detail s).tns.round = s.tns.round := by
  unfold takeSeat
  split
  · rename_i windows _ _
    refine (finishAll_round ..).trans ?_
    obtain ⟨_, _, _, e⟩ := setWindows_parts windows _
    rw [e]
  · rfl

/-! ### A decision arrives -/

/-- A decision that does not refuse the device: what it is shown and, where it is new, what follows from it. -/
theorem applyDecision_cases {d : Decision} (kept : d.refused = false) (s : State) : applyDecision d s = s ∨
    applyDecision d s = followDecision d (decisionDetail d.code d.lost d.peer d.round.toNat) (takeSeat d
      (decisionDetail d.code d.lost d.peer d.round.toNat) (showDecision d (decisionDetail d.code d.lost d.peer d.round.toNat) s)) := by
  unfold applyDecision
  dsimp only
  rw [kept]
  split
  · exact .inl rfl
  · split
    · contradiction
    · split
      · exact .inl rfl
      · exact .inr rfl

section
variable {d : Decision} (kept : d.refused = false) (s : State)
include kept

theorem applyDecision_serves : Serves s (applyDecision d s) := by
  rcases applyDecision_cases kept s with e | e <;> rw [e]
  · exact .refl s
  · exact (showDecision_serves ..).trans ((takeSeat_serves ..).trans (followDecision_serves ..))

theorem applyDecision_rim : (applyDecision d s).rim = s.rim := by
  rcases applyDecision_cases kept s with e | e <;> rw [e]
  rw [followDecision_rim, takeSeat_rim, showDecision_rim]

theorem applyDecision_round : (applyDecision d s).tns.round = s.tns.round := by
  rcases applyDecision_cases kept s with e | e <;> rw [e]
  rw [followDecision_round, takeSeat_round, showDecision_tns]

end

/-! ### A decision on a member of the round -/

/-- The detail of a decision's completions (R268). -/
def detailOf (d : Decision) : Nat := decisionDetail d.code d.lost d.peer d.round.toNat

section
variable {d : Decision} {s : State}

theorem exec_decision (powered : s.powered = true) : exec (.decision d) s = .next (applyDecision d s) :=
  congrArg Host.Outcome.next (if_pos powered)

variable (member : s.tim.domain = .member)
include member

/-- A decision that is held changes nothing (R277). -/
theorem applyDecision_held (kept : d.refused = false) (held : s.tim.decided = some (BitVec.ofNat 64 (detailOf d))) :
    applyDecision d s = s := by
  unfold applyDecision
  simp [member, kept, show s.tim.decided = some (BitVec.ofNat 64 (decisionDetail d.code d.lost d.peer d.round.toNat)) from held]

theorem applyDecision_refused (refused : d.refused = true) : applyDecision d s = detach (showDecision d (detailOf d) s) := by
  unfold applyDecision
  simp [member, refused]
  rfl

theorem applyDecision_new (kept : d.refused = false) (new : s.tim.decided ≠ some (BitVec.ofNat 64 (detailOf d))) :
    applyDecision d s = followDecision d (detailOf d) (showDecision d (detailOf d) s) := by
  have other : (showDecision d (detailOf d) s).tim.domain ≠ .standby := by
    rw [showDecision_tim]
    exact fun h => DomainState.noConfusion (member.symm.trans h)
  have e : takeSeat d (detailOf d) (showDecision d (detailOf d) s) = showDecision d (detailOf d) s := takeSeat_other other ..
  unfold applyDecision
  simp [member, kept, show s.tim.decided ≠ some (BitVec.ofNat 64 (decisionDetail d.code d.lost d.peer d.round.toNat)) from new]
  exact congrArg (followDecision d (detailOf d)) e

end

/-- A decision changes of the TIM_ block what it shows and the fields that stop the round. -/
theorem followDecision_tim (d : Decision) (detail : Nat) (s : State) : ∃ abort div once, (followDecision d detail s).tim =
    { s.tim with domain := s.decidedDomain d, abort := abort, abortDiv := div, sourceOnce := once } := by
  by_cases stops : StopsRound d
  · rw [followDecision_stops stops]
    exact ⟨_, _, _, finishAll_tim ..⟩
  · have same : s.decidedDomain d = s.tim.domain := if_neg fun code => stops (.inl code)
    rw [same]
    rcases followDecision_goes stops detail s with e | ⟨c, -, e⟩ | e <;> rw [e]
    · exact ⟨_, _, _, rfl⟩
    · exact ⟨_, _, _, finishAs_tim ..⟩
    · exact ⟨_, _, _, rfl⟩

/-- A round that is stopped: the decision is held for the COMMITs to come, and none stays in flight. -/
theorem stopRound_stopped (diverged : Bool) (detail : Nat) {s : State} (clocked : s.clocked = true) :
    (stopRound diverged detail s).tim.abort = some (BitVec.ofNat 64 detail) ∧
      (∀ c ∈ (stopRound diverged detail s).flight, c ∈ s.flight ∧ ∀ u, c.wait ≠ .commit u) ∧
      ∀ c, s.commits = [c] → stopRound diverged detail s = finishAs c.id
        (if diverged && s.tns.heldDiverged then 0x0508 else 0x0504) detail (s.stopping (diverged && s.tns.heldDiverged) detail) := by
  rw [stopRound_eq]
  refine ⟨congrArg Tim.abort (finishAll_tim ..), fun c mem => ?_, fun c only => by rw [only]; rfl⟩
  obtain ⟨mem, other⟩ := finishAll_leaves (s := s) (t := s.stopping (diverged && s.tns.heldDiverged) detail) _ _ _ rfl clocked mem
  exact ⟨mem, fun u wait => by simp [wait] at other⟩

/-- A decision that stops the round does so with the cause that the member itself has found. -/
theorem followDecision_stopped {d : Decision} (stops : StopsRound d) (detail : Nat) {s : State} (clocked : s.clocked = true) :
    (followDecision d detail s).tim.abort = some (BitVec.ofNat 64 detail) ∧
      (∀ c ∈ (followDecision d detail s).flight, c ∈ s.flight ∧ ∀ u, c.wait ≠ .commit u) ∧
      ∀ c, s.commits = [c] → ∃ v : State, v.flight = s.flight ∧ followDecision d detail s =
        finishAs c.id (if d.code = 2 ∧ d.diverged = true ∧ s.tns.heldDiverged = true then 0x0508 else 0x0504) detail v := by
  rw [followDecision_stops stops]
  obtain ⟨abort, left, one⟩ := stopRound_stopped (d.code = 2 && d.diverged) detail
    (s := { s with tim := { s.tim with domain := s.decidedDomain d } }) clocked
  have cause : (if ((d.code = 2 && d.diverged) && s.tns.heldDiverged) = true then 0x0508 else 0x0504) =
      if d.code = 2 ∧ d.diverged = true ∧ s.tns.heldDiverged = true then 0x0508 else 0x0504 := by
    simp only [Bool.and_eq_true, decide_eq_true_eq, and_assoc]
  refine ⟨abort, left, fun c only => ⟨State.stopping ((d.code = 2 && d.diverged) && s.tns.heldDiverged) detail
    { s with tim := { s.tim with domain := s.decidedDomain d } }, rfl, ?_⟩⟩
  rw [← cause]
  exact one c only

/-- Settles O39: `applyDecision_held`, `applyDecision_refused` and `applyDecision_new` say which part of a decision takes place, and
`followDecision_stopped` what one that stops the round completes. -/
theorem decisionsReachMembers : Obligations.DecisionsReachMembers := by
  intro d s clocked member
  dsimp only
  rw [exec_decision (powered_of_clocked clocked)]
  refine ⟨fun kept held => congrArg Host.Outcome.next (applyDecision_held member kept held), fun refused => ?_, fun kept new => ?_⟩
  · refine ⟨_, rfl, ?_⟩
    rw [applyDecision_refused member refused, detach_tim, showDecision_tim]
    exact ⟨rfl, rfl, rfl⟩
  · obtain ⟨_, _, _, tim⟩ := followDecision_tim d (detailOf d) (showDecision d (detailOf d) s)
    refine ⟨_, rfl, ?_⟩
    rw [applyDecision_new member kept new, tim, showDecision_tim, followDecision_round, showDecision_tns]
    have domain : (showDecision d (detailOf d) s).decidedDomain d = if d.code = 4 then .halted else .member := by
      unfold State.decidedDomain
      rw [showDecision_tim]
      exact congrArg (ite _ _) member
    refine ⟨rfl, Status.raise_bit _ (by decide), rfl, domain, fun stops => ?_⟩
    have pins : (showDecision d (detailOf d) s).clocked = true := by
      unfold State.clocked at clocked ⊢
      rw [showDecision_pins]
      exact clocked
    obtain ⟨abort, left, one⟩ := followDecision_stopped stops (detailOf d) pins
    rw [tim] at abort
    refine ⟨abort, ?_, fun c only => ?_⟩
    · rwa [showDecision_flight] at left
    · rw [showDecision_flight, showDecision_tns] at one
      exact one c (by unfold State.commits; rw [showDecision_flight]; exact only)

end Sys2Proof.Machine
end

section
/-! PROOFS. JOIN_ACCEPT and JOIN_TIMEOUT (R252): the entry and the seat that the rim gives, and what the joining device takes. -/

namespace Sys2Proof.Machine

/-! ### The rim's table -/

section
variable {s : State} {k : Nat} {m : Member}

theorem modMember_some (seat : s.member k = some m) (f : Member → Member) :
    modMember k f s = { s with rim := { s.rim with seats := tinsert s.rim.seats k (f m) } } := by
  unfold modMember
  rw [seat]

theorem modMember_none (seat : s.member k = none) (f : Member → Member) : modMember k f s = s := by
  unfold modMember
  rw [seat]

theorem member_modMember_self (seat : s.member k = some m) (f : Member → Member) : (modMember k f s).member k = some (f m) := by
  rw [modMember_some seat]
  exact tfind_tinsert_self ..

theorem member_modMember_ne {j : Nat} (other : j ≠ k) (f : Member → Member) : (modMember k f s).member j = s.member j := by
  unfold modMember
  split
  · exact tfind_tinsert_ne _ _ other
  · rfl

end

/-! ### The rim accepts a device (R252, R346, R348) -/

/-- The entry of a device that is still to be accepted. -/
def State.joinEntry (s : State) (dev : BitVec 64) : Option (Nat × Member) :=
  s.rim.seats.find? fun e => e.2.deviceId == dev && !e.2.joined && !e.2.lost

section
variable {s : State} {dev : BitVec 64} {dom : BitVec 32} {locked : Bool} (ports : List PortReport) (mac : BitVec 48)

/-- The rim's state once a device is accepted, but for the frame. -/
def State.seated (s : State) (k : Nat) (m : Member) (mac : BitVec 48) : State :=
  { s with tim := { s.tim with macs := tinsert s.tim.macs k mac }
           rim := { s.rim with seats := tinsert s.rim.seats k { m with joined := true } } }

theorem acceptJoin_entry {k : Nat} {m : Member} (rim : s.isRim = true) (bound : s.tim.domain = .member)
    (entry : s.joinEntry dev = some (k, m)) (seat : s.member k = some m) (domain : dom = s.tim.domainId) (time : locked = true)
    (kept : dev ∉ s.rim.retired) (alone : ∀ c ∈ s.flight, c.wait ≠ .poolAdd dev) :
    acceptJoin dev dom locked ports mac s = sendControlAs 0xFFFF k
      (.joinAccepted k (joinPorts ports) (tinsert (tinsert s.tim.macs k mac) s.tim.seat s.id.mac)) (s.seated k m mac) := by
  have seat' : modMember k (fun m => { m with joined := true }) { s with tim := { s.tim with macs := tinsert s.tim.macs k mac } } =
      s.seated k m mac := modMember_some (s := { s with tim := { s.tim with macs := tinsert s.tim.macs k mac } }) seat _
  have waits : s.flight.filter (fun c => c.wait == .poolAdd dev) = [] :=
    List.filter_eq_nil_iff.mpr fun c mem h => alone c mem (eq_of_beq h)
  unfold acceptJoin
  rw [show s.rim.seats.find? (fun e => e.2.deviceId == dev && !e.2.joined && !e.2.lost) = some (k, m) from entry]
  dsimp only
  rw [if_neg (by simp [rim, bound, domain, time, kept]), seat']
  have flight := (sendControlAs_sends 0xFFFF k (.joinAccepted k (joinPorts ports)
    (tinsert (tinsert s.tim.macs k mac) s.tim.seat s.id.mac)) (s.seated k m mac)).flight
  rw [flight, show (s.seated k m mac).flight = s.flight from rfl, waits]
  rfl

/-- A device is not accepted that has no entry to take, whose domain or time is not right, or whose seat the rim has declared lost. -/
theorem acceptJoin_refused (h : s.joinEntry dev = none ∨ dom ≠ s.tim.domainId ∨ locked = false ∨ dev ∈ s.rim.retired) :
    acceptJoin dev dom locked ports mac s = s := by
  unfold acceptJoin
  dsimp only
  split
  · rename_i entry
    refine if_pos ?_
    rcases h with none | domain | time | refused
    · exact absurd (none.symm.trans entry) (by simp)
    · simp [domain]
    · simp [time]
    · simp [refused]
  · rfl

theorem joinEntry_none (h : ∀ e ∈ s.rim.seats, e.2.deviceId = dev → e.2.joined = true ∨ e.2.lost = true) : s.joinEntry dev = none := by
  refine List.find?_eq_none.mpr fun e mem fits => ?_
  simp only [Bool.and_eq_true, beq_iff_eq, Bool.not_eq_true'] at fits
  obtain ⟨⟨device, free⟩, live⟩ := fits
  rcases h e mem device with joined | lost
  · exact Bool.noConfusion (joined.symm.trans free)
  · exact Bool.noConfusion (lost.symm.trans live)

end

/-! ### Window entries as the rim writes them (R252, R259) -/

theorem renewEntry_body {i : Nat} {b : EntryBody} {s : State} {e : Sched} (h : tfind (renewEntry i b s).sched i = some e) : e.body = b := by
  unfold renewEntry at h
  split at h
  · rename_i same
    rw [h] at same
    simpa using same
  · have body := writeEntry_body i b s
    rw [h] at body
    split at body
    · contradiction
    · exact Option.some.inj body

theorem renewEntry_other {i j : Nat} (other : j ≠ i) (b : EntryBody) (s : State) :
    tfind (renewEntry i b s).sched j = tfind s.sched j := by
  unfold renewEntry
  split
  · rfl
  · exact writeEntry_other other b s

/-- Entries that are emptied one after the other. -/
theorem foldl_emptied (l : List (Nat × Sched)) (s : State) (i : Nat) :
    tfind (l.foldl (fun s e => writeEntry e.1 { e.2.body with kind := 0 } s) s).sched i =
      if i ∈ l.map (·.1) then none else tfind s.sched i := by
  induction l generalizing s with
  | nil => rfl
  | cons e l ih =>
    rw [List.foldl_cons, ih, List.map_cons]
    by_cases here : i = e.1
    · have gone := writeEntry_body e.1 { e.2.body with kind := 0 } s
      rw [if_pos rfl, Option.map_eq_none_iff, ← here] at gone
      rw [← here, gone, ite_self, if_pos List.mem_cons_self]
    · rw [writeEntry_other here]
      exact if_congr (List.mem_cons.trans (or_iff_right here)).symm rfl rfl

/-- Entries that are renewed one after the other: one that is named has the body of a write that names it. -/
theorem foldl_renewed {l : List (Fin 16 × EntryBody)} {s : State} {i : Nat} {e : Sched}
    (h : tfind (l.foldl (fun s e => renewEntry e.1.val e.2 s) s).sched i = some e) :
    (∃ w ∈ l, w.1.val = i ∧ e.body = w.2) ∨ ((∀ w ∈ l, w.1.val ≠ i) ∧ tfind s.sched i = some e) := by
  induction l generalizing s with
  | nil => exact .inr ⟨fun _ mem => absurd mem List.not_mem_nil, h⟩
  | cons w l ih =>
    rcases ih h with ⟨v, mem, key, body⟩ | ⟨others, found⟩
    · exact .inl ⟨v, List.mem_cons_of_mem _ mem, key, body⟩
    · by_cases here : w.1.val = i
      · exact .inl ⟨w, List.mem_cons_self, here, renewEntry_body (here.symm ▸ found)⟩
      · refine .inr ⟨List.forall_mem_cons.mpr ⟨here, others⟩, ?_⟩
        rwa [renewEntry_other (Ne.symm here)] at found

theorem foldl_renewed_other {i : Nat} (l : List (Fin 16 × EntryBody)) (others : ∀ w ∈ l, w.1.val ≠ i) (s : State) :
    tfind (l.foldl (fun s e => renewEntry e.1.val e.2 s) s).sched i = tfind s.sched i := by
  induction l generalizing s with
  | nil => rfl
  | cons w l ih =>
    obtain ⟨here, others⟩ := List.forall_mem_cons.mp others
    rw [List.foldl_cons, ih others, renewEntry_other (Ne.symm here)]

/-- The entries that the rim does not name. -/
def State.unnamed (l : List (Fin 16 × EntryBody)) (s : State) : List (Nat × Sched) :=
  s.sched.filter fun e => e.1 < 16 && !(l.any fun x => x.1.val == e.1)

/-- The window entries are those that the rim writes, with the bodies that it gives them. -/
theorem setWindows_low {l : List (Fin 16 × EntryBody)} {s : State} {i : Nat} {e : Sched} (low : i < 16)
    (h : tfind (setWindows l s).sched i = some e) : ∃ w ∈ l, w.1.val = i ∧ e.body = w.2 := by
  rcases foldl_renewed h with named | ⟨others, found⟩
  · exact named
  · rw [foldl_emptied] at found
    split at found
    · contradiction
    · rename_i kept
      refine absurd (List.mem_map_of_mem (f := (·.1)) (List.mem_filter.mpr ⟨mem_of_tfind found, ?_⟩)) kept
      simpa [low] using others

theorem setWindows_high {l : List (Fin 16 × EntryBody)} {s : State} {i : Nat} (high : 16 ≤ i) :
    tfind (setWindows l s).sched i = tfind s.sched i := by
  refine (foldl_renewed_other l (fun w _ => by omega) _).trans ((foldl_emptied (s.unnamed l) s i).trans (if_neg fun mem => ?_))
  obtain ⟨e, unnamed, rfl⟩ := List.mem_map.mp mem
  have below : (e.1 < 16 && !(l.any fun x => x.1.val == e.1)) = true := (List.mem_filter.mp unnamed).2
  simp only [Bool.and_eq_true, decide_eq_true_eq] at below
  omega

/-! ### The states of the ports (R348) -/

/-- The PTP states that a device is given. -/
def takePtp (f : Nat → PtpState) (l : List Nat) (s : State) : State := l.foldl (fun s p => s.setPort p { s.port p with ptp := f p }) s

theorem takePtp_parts (f : Nat → PtpState) (l : List Nat) (s : State) : ∃ ports, takePtp f l s = { s with lnk := { s.lnk with ports := ports } } := by
  unfold takePtp
  induction l generalizing s with
  | nil => exact ⟨_, rfl⟩
  | cons p l ih =>
    obtain ⟨ports, e⟩ := ih (s.setPort p { s.port p with ptp := f p })
    exact ⟨ports, e⟩

theorem takePtp_other (f : Nat → PtpState) (l : List Nat) (s : State) {p : Nat} (other : p ∉ l) : (takePtp f l s).port p = s.port p := by
  unfold takePtp
  induction l generalizing s with
  | nil => rfl
  | cons r l ih =>
    obtain ⟨here, other⟩ := not_or.mp (other ∘ List.mem_cons.mpr)
    exact (ih _ other).trans (port_setPort_ne _ _ here)

theorem takePtp_ptp (f : Nat → PtpState) (l : List Nat) (s : State) {p : Nat} (mem : p ∈ l) : ((takePtp f l s).port p).ptp = f p := by
  induction l generalizing s with
  | nil => contradiction
  | cons r l ih =>
    by_cases later : p ∈ l
    · exact ih (s.setPort r { s.port r with ptp := f r }) later
    · obtain rfl : p = r := (List.mem_cons.mp mem).resolve_right later
      refine (congrArg Port.ptp (takePtp_other f l (s.setPort p { s.port p with ptp := f p }) later)).trans ?_
      rw [port_setPort]

/-! ### The device takes its seat -/

/-- Bookings change the waits of exchanges and drains alone. -/
theorem mem_flight_of_rebooked {s : State} {c : InFlight} {k : Nat} (mem : c ∈ (rebook s).flight) (wait : c.wait = .join k) :
    c ∈ s.flight := by
  obtain ⟨e, here, rfl⟩ := List.mem_map.mp mem
  clear mem
  revert wait
  split
  · exact fun wait => Wait.noConfusion wait
  · exact fun wait => Wait.noConfusion wait
  · exact fun _ => here

/-- JOIN_DOMAIN commands in flight. -/
def State.joins (s : State) : List InFlight := s.flight.filter fun e => match e.wait with | .join _ => true | _ => false

section
variable (seat : Nat) (round : BitVec 32) (standby : Bool) (set : Nat) (groups : List XGroup) (windows : List (Fin 16 × EntryBody))
  (ptp : List PtpState) (macs : List (Nat × BitVec 48)) {s : State}

/-- The TIM_ block of a device that is accepted. -/
def Tim.joined (t : Tim) : Tim :=
  { t with domain := if standby then .standby else .member, seat := seat, replicaSet := set, groups := groups.take 16,
           lastHb := t.now, policyNext := none, barred := false, macs := macs.foldl (fun t e => tinsert t e.1 e.2) [] }

/-- The device in its seat, but for its windows. -/
def State.joinedSeat (s : State) : State :=
  takePtp (fun p => ptp.getD p 0) (List.range 12) { s with tim := Tim.joined seat standby set groups macs s.tim }

theorem joined_eq (powered : s.powered = true) (joining : s.tim.domain = .joining) (waits : s.joins ≠ []) :
    joined seat round standby set groups windows ptp macs s = finishAll s.joins 0 (seat % 4096 + round.toNat * 2 ^ 32)
      (setWindows windows (s.joinedSeat seat standby set groups ptp macs)) := by
  unfold joined
  have some : ¬ s.joins.isEmpty = true := fun empty => waits (List.isEmpty_iff.mp empty)
  refine if_neg ?_
  rw [powered, joining]
  exact some

/-- What the device takes besides its windows. -/
theorem joinedSeat_parts (s : State) : ∃ ports, s.joinedSeat seat standby set groups ptp macs =
    { s with tim := Tim.joined seat standby set groups macs s.tim, lnk := { s.lnk with ports := ports } } :=
  takePtp_parts ..

theorem joinedSeat_ptp (s : State) {p : Nat} (port : p < 12) :
    ((s.joinedSeat seat standby set groups ptp macs).port p).ptp = ptp.getD p 0 :=
  takePtp_ptp _ _ _ (List.mem_range.mpr port)

end

theorem writeEntry_flight (i : Nat) (b : EntryBody) (s : State) : (writeEntry i b s).flight = s.flight := by
  obtain ⟨_, _, e⟩ := writeEntry_parts i b s
  rw [e]

theorem renewEntry_flight (i : Nat) (b : EntryBody) (s : State) : (renewEntry i b s).flight = s.flight := by
  obtain ⟨_, _, e⟩ := renewEntry_parts i b s
  rw [e]

/-- Writes of windows book the commands in flight anew, and leave them in flight. -/
theorem setWindows_rebooks (l : List (Fin 16 × EntryBody)) (s : State) : ∃ v : State, v.flight = s.flight ∧ setWindows l s = rebook v :=
  ⟨_, (read_foldl (P := State.flight) (fun s e => renewEntry_flight e.1.val e.2 s) l _).trans
    (read_foldl (P := State.flight) (fun s e => writeEntry_flight e.1 { e.2.body with kind := 0 } s) (s.unnamed l) s), rfl⟩

/-- The device's own part of JOIN_ACCEPT. -/
theorem joined_takes {seat : Nat} {round : BitVec 32} {standby : Bool} {set : Nat} {groups : List XGroup}
    {windows : List (Fin 16 × EntryBody)} {ptp : List PtpState} {macs : List (Nat × BitVec 48)} {s t : State} (clocked : s.clocked = true)
    (same : t = finishAll s.joins 0 (seat % 4096 + round.toNat * 2 ^ 32)
      (setWindows windows (s.joinedSeat seat standby set groups ptp macs))) :
    (∃ owed, t.tim = { Tim.joined seat standby set groups macs s.tim with owed := owed }) ∧ t.tns.round = s.tns.round ∧
      (∀ p, p < 12 → (t.port p).ptp = ptp.getD p 0) ∧
      (∀ i e, i < 16 → tfind t.sched i = some e → ∃ w ∈ windows, w.1.val = i ∧ e.body = w.2) ∧
      (∀ i, 16 ≤ i → tfind t.sched i = tfind s.sched i) ∧ ∀ c ∈ t.flight, ∀ k, c.wait ≠ .join k := by
  obtain ⟨ports, seated⟩ := joinedSeat_parts seat standby set groups ptp macs s
  obtain ⟨owed, sched, flight, parts⟩ := setWindows_parts windows (s.joinedSeat seat standby set groups ptp macs)
  obtain ⟨v, kept, rebooked⟩ := setWindows_rebooks windows (s.joinedSeat seat standby set groups ptp macs)
  have ptps (p : Nat) (port : p < 12) := joinedSeat_ptp seat standby set groups ptp macs s port
  have high (i : Nat) := setWindows_high (l := windows) (s := s.joinedSeat seat standby set groups ptp macs) (i := i)
  have low (i : Nat) (e : Sched) := setWindows_low (l := windows) (s := s.joinedSeat seat standby set groups ptp macs) (i := i) (e := e)
  have pins : (setWindows windows (s.joinedSeat seat standby set groups ptp macs)).clocked = true := by
    rw [parts, seated]
    exact clocked
  subst same
  refine ⟨⟨owed, ?_⟩, ?_, fun p port => ?_, fun i e below found => ?_, fun i above => ?_, fun c mem k wait => ?_⟩
  · rw [finishAll_tim, parts, seated]
  · rw [finishAll_round, parts, seated]
  · rw [port_of_ports (finishAll_serves ..).ports, port_of_ports (setWindows_serves ..).ports, ptps p port]
  · rw [finishAll_sched] at found
    exact low i e below found
  · rw [finishAll_sched, high i above, seated]
  · rw [finishAll_flight _ _ _ _ pins, rebooked, List.mem_filter] at mem
    obtain ⟨mem, apart⟩ := mem
    have here : c ∈ s.flight := by
      have here := mem_flight_of_rebooked mem wait
      rwa [kept, seated] at here
    have joins : c ∈ s.joins := List.mem_filter.mpr ⟨here, by rw [wait]⟩
    exact absurd rfl (of_decide_eq_true (List.all_eq_true.mp apart c joins))

/-! ### JOIN_TIMEOUT -/

/-- The JOIN_DOMAIN commands whose time is over. -/
def State.lateJoins (s : State) : List InFlight :=
  s.flight.filter fun c => match c.wait with | .join t => decide (t < s.tim.now) | _ => false

theorem exec_joinTimeout_late {s : State} (clocked : s.clocked = true) (late : ∃ c ∈ s.flight, ∃ k, c.wait = .join k ∧ k < s.tim.now) :
    ∃ t, exec .joinTimeout s = .next t ∧ t.tim.domain = .detached ∧ t.tim.domainId = 0 ∧
      ∀ c ∈ t.flight, ∀ k, c.wait = .join k → s.tim.now ≤ k := by
  have some : ¬ s.lateJoins.isEmpty = true := by
    obtain ⟨c, mem, k, wait, past⟩ := late
    have mem : c ∈ s.lateJoins := List.mem_filter.mpr ⟨mem, by simp [wait, past]⟩
    exact fun empty => List.not_mem_nil (List.isEmpty_iff.mp empty ▸ mem)
  have e : exec .joinTimeout s = .next (finishAll s.lateJoins 0x0501 0 { s with tim := { s.tim with domain := .detached, domainId := 0 } }) := by
    refine congrArg Host.Outcome.next (if_neg ?_)
    rw [powered_of_clocked clocked]
    exact some
  refine ⟨_, e, by rw [finishAll_tim], by rw [finishAll_tim], fun c mem k wait => ?_⟩
  obtain ⟨-, kept⟩ := finishAll_leaves (s := s) (t := { s with tim := { s.tim with domain := .detached, domainId := 0 } }) _ _ _ rfl clocked mem
  rw [wait] at kept
  exact Nat.le_of_not_lt (of_decide_eq_false kept)

theorem exec_joinTimeout_early {s : State} (early : ∀ c ∈ s.flight, ∀ k, c.wait = .join k → s.tim.now ≤ k) :
    exec .joinTimeout s = .next s := by
  have none : s.lateJoins = [] := by
    refine List.filter_eq_nil_iff.mpr fun c mem past => ?_
    split at past
    · rename_i k wait
      exact absurd (of_decide_eq_true past) (Nat.not_lt.mpr (early c mem k wait))
    · contradiction
  have empty : s.lateJoins.isEmpty = true := List.isEmpty_iff.mpr none
  refine congrArg Host.Outcome.next (if_pos ?_)
  exact (congrArg (fun b => !s.powered || b) empty).trans (Bool.or_true _)

/-- Settles O40: `acceptJoin_entry` and `acceptJoin_refused` at the rim, `joined_takes` at the device, and the time limit. -/
theorem joinsAreAccepted : Obligations.JoinsAreAccepted := by
  intro s dev dom locked ports seat round standby set groups windows ptp mac macs
  refine ⟨fun k m rim bound entry member domain time kept alone => ?_, fun refused => ?_, fun clocked joining waits => ?_,
    exec_joinTimeout_late, exec_joinTimeout_early⟩
  · have e := acceptJoin_entry ports mac rim bound entry member domain time kept alone
    have accepted := sendControlAs_sends 0xFFFF k (.joinAccepted k (joinPorts ports)
      (tinsert (tinsert s.tim.macs k mac) s.tim.seat s.id.mac)) (s.seated k m mac)
    rw [← e] at accepted
    obtain ⟨_, rest, -, copied⟩ := syncDeputy_sends (acceptJoin dev dom locked ports mac s)
    refine ⟨_, rfl, ?_, fun linked => ⟨rest.map (·.2), ?_⟩⟩
    · rw [syncDeputy_member]
      unfold State.member
      rw [accepted.rim]
      exact tfind_tinsert_self ..
    · have on : (acceptJoin dev dom locked ports mac s).linked = true := accepted.linked.trans linked
      refine copied.told.trans ?_
      show (acceptJoin dev dom locked ports mac s).told ++ _ = _
      rw [accepted.told]
      show s.told ++ (if s.linked = true then _ else _) ++ (if (acceptJoin dev dom locked ports mac s).linked = true then _ else _) = _
      rw [if_pos linked, if_pos on]
      simp
  · refine congrArg (fun s => Host.Outcome.next (syncDeputy s)) (acceptJoin_refused ports mac ?_)
    exact refused.imp_left joinEntry_none
  · have some : s.joins ≠ [] := by
      obtain ⟨c, mem, k, wait⟩ := waits
      exact List.ne_nil_of_mem (List.mem_filter.mpr ⟨mem, by rw [wait]⟩ : c ∈ s.joins)
    have e := joined_eq seat round standby set groups windows ptp macs (powered_of_clocked clocked) joining some
    obtain ⟨⟨owed, tim⟩, sameRound, ptps, low, high, left⟩ := joined_takes clocked e
    refine ⟨_, rfl, ?_, ?_, ?_, ?_, sameRound, ?_, ?_, ptps, low, high, left, fun c only => ?_⟩
    · rw [tim]; rfl
    · rw [tim]; rfl
    · rw [tim]; rfl
    · rw [tim]; rfl
    · rw [tim]; rfl
    · rw [tim]; rfl
    · exact ⟨_, e.trans (by rw [show s.joins = [c] from only]; rfl)⟩

end Sys2Proof.Machine
end

section
/-! PROOFS. Heartbeats (R257, R261, R262, R276): what the rim sends in a period, what a member takes and answers, and what an answer
changes at the rim. -/

namespace Sys2Proof.Machine

/-! ### The rim's period -/

theorem Sends.withRim {l : List (Nat × Control)} {s t : State} (h : Sends l s t) (r : Rim) :
    Sends l { s with rim := r } { t with rim := r } where
  same := by
    obtain ⟨free, cnt, sent, e⟩ := h.same
    subst e
    exact ⟨free, cnt, sent, rfl⟩
  sent := h.sent
  told := h.told
  reach := h.reach

/-- A member that owes an answer from now on; one that it owed already is missed. -/
def Member.asked (m : Member) : Member := { m with misses := if m.awaiting then m.misses + 1 else m.misses, awaiting := true }

/-- The rim's heartbeat to a seat. -/
def beat (s : State) (seat : Nat) : State := sendControl seat (.heartbeat seat) (modMember seat Member.asked s)

/-- The table with a seat asked, and with some. -/
def askSeat (t : Tab Member) (k : Nat) : Tab Member :=
  match tfind t k with
  | some m => tinsert t k m.asked
  | none => t

def askedSeats (l : List Nat) (seats : Tab Member) : Tab Member := l.foldl askSeat seats

theorem askSeat_other {k x : Nat} (other : k ≠ x) (seats : Tab Member) : tfind (askSeat seats x) k = tfind seats k := by
  unfold askSeat
  split
  · exact tfind_tinsert_ne _ _ other
  · rfl

theorem askSeat_self {k : Nat} {m : Member} {seats : Tab Member} (seat : tfind seats k = some m) :
    tfind (askSeat seats k) k = some m.asked := by
  unfold askSeat
  rw [seat]
  exact tfind_tinsert_self ..

theorem beat_sends (s : State) (x : Nat) :
    Sends [(x, .heartbeat x)] { s with rim := { s.rim with seats := askedSeats [x] s.rim.seats } } (beat s x) := by
  have e : { s with rim := { s.rim with seats := askedSeats [x] s.rim.seats } } = modMember x Member.asked s := by
    unfold modMember State.member
    simp only [askedSeats, askSeat, List.foldl_cons, List.foldl_nil]
    cases tfind s.rim.seats x <;> rfl
  rw [e]
  exact sendControl_sends ..

/-- The heartbeats of a period. -/
theorem foldl_beat_sends (l : List Nat) (s : State) : Sends (l.map fun x => (x, .heartbeat x))
    { s with rim := { s.rim with seats := askedSeats l s.rim.seats } } (l.foldl beat s) := by
  induction l generalizing s with
  | nil => exact .refl s
  | cons x l ih =>
    have first := (beat_sends s x).withRim { s.rim with seats := askedSeats (x :: l) s.rim.seats }
    have rest := ih (beat s x)
    rw [(beat_sends s x).rim] at rest
    exact first.trans rest

theorem askedSeats_other {l : List Nat} {k : Nat} (other : k ∉ l) (seats : Tab Member) : tfind (askedSeats l seats) k = tfind seats k := by
  induction l generalizing seats with
  | nil => rfl
  | cons x l ih =>
    obtain ⟨here, other⟩ := not_or.mp (other ∘ List.mem_cons.mpr)
    exact (ih other _).trans (askSeat_other here _)

theorem askedSeats_self {l : List Nat} {k : Nat} {m : Member} (once : l.Nodup) (mem : k ∈ l) (seats : Tab Member) (seat : tfind seats k = some m) :
    tfind (askedSeats l seats) k = some m.asked := by
  induction l generalizing seats with
  | nil => contradiction
  | cons x l ih =>
    obtain ⟨here, once⟩ := List.nodup_cons.mp once
    by_cases same : k = x
    · subst same
      exact (askedSeats_other here _).trans (askSeat_self seat)
    · exact ih once ((List.mem_cons.mp mem).resolve_left same) _ ((askSeat_other same _).trans seat)

/-- Bookings change the schedule, the instances owed and the table's bookings alone. -/
theorem foldl_books_parts {α : Type} {f : State → α → State} (h : ∀ s a, ∃ owed sched bookings, f s a =
      { s with tim := { s.tim with owed := owed }, sched := sched, rim := { s.rim with bookings := bookings } }) (l : List α) (s : State) :
    ∃ owed sched bookings, l.foldl f s =
      { s with tim := { s.tim with owed := owed }, sched := sched, rim := { s.rim with bookings := bookings } } := by
  induction l generalizing s with
  | nil => exact ⟨_, _, _, rfl⟩
  | cons a l ih =>
    obtain ⟨owed, sched, bookings, e⟩ := h s a
    obtain ⟨owed', sched', bookings', e'⟩ :=
      ih { s with tim := { s.tim with owed := owed }, sched := sched, rim := { s.rim with bookings := bookings } }
    rw [List.foldl_cons, e]
    exact ⟨owed', sched', bookings', e'⟩

/-- A booking as the rim writes it. -/
def book (s : State) (b : Booking) : State :=
  let arg1 := BitVec.ofNat 32 (lengthened b.body.arg1.toNat (s.groupPortsOut b.xgroup))
  let s := renewEntry b.entry.val (if b.body.kind = 0 then b.body else { b.body with kind := 2, arg1 }) s
  { s with rim := { s.rim with bookings := tset (0, 0) s.rim.bookings b.entry.val (b.xgroup, b.body.arg1.toNat) } }

theorem book_parts (s : State) (b : Booking) : ∃ owed sched bookings, book s b =
    { s with tim := { s.tim with owed := owed }, sched := sched, rim := { s.rim with bookings := bookings } } := by
  obtain ⟨owed, sched, e⟩ := renewEntry_parts b.entry.val (if b.body.kind = 0 then b.body else
    { b.body with kind := 2, arg1 := BitVec.ofNat 32 (lengthened b.body.arg1.toNat (s.groupPortsOut b.xgroup)) }) s
  unfold book
  dsimp only
  rw [e]
  exact ⟨owed, sched, _, rfl⟩

/-- The rim's windows change, besides, what waits for them. -/
theorem bookWindows_parts (w : List Booking) (s : State) : ∃ owed sched flight bookings, bookWindows w s =
    { s with tim := { s.tim with owed := owed }, sched := sched, flight := flight, rim := { s.rim with bookings := bookings } } := by
  unfold bookWindows
  split
  · exact ⟨_, _, _, _, rfl⟩
  · obtain ⟨owed, sched, bookings, e⟩ := foldl_books_parts book_parts w s
    exact ⟨owed, sched, _, bookings, congrArg rebook e⟩

/-- The rim's state once the heartbeats of a period are sent, before its deputy has the copy. -/
def periodSent (l : List Nat) (s : State) : State :=
  count 4 0 10 l.length
    { l.foldl beat s with rim := { (l.foldl beat s).rim with lastHbSent := (l.foldl beat s).tim.now } }

theorem heartbeatPeriod_due (w : List Booking) {s : State} (rim : s.isRim = true)
    (due : s.rim.lastHbSent + s.tim.policy.hbPeriod * 1000 ≤ s.tim.now) :
    heartbeatPeriod w s = syncDeputy (periodSent (bookWindows w s).others (bookWindows w s)) :=
  if_neg (by simp [rim, due])

/-- HEARTBEAT_PERIOD, once its time has come. -/
theorem exec_heartbeatPeriod (w : List Booking) {s : State} (rim : s.isRim = true)
    (due : s.rim.lastHbSent + s.tim.policy.hbPeriod * 1000 ≤ s.tim.now) : ∃ t, exec (.heartbeatPeriod w) s = .next t ∧
      t.rim.lastHbSent = s.tim.now ∧
      (s.linked = true → (∃ rest, t.told = s.told ++ s.others.map Control.heartbeat ++ rest ∧ rest.length ≤ 1) ∧
        ∀ x ∈ s.others, t.toldSeat x (.heartbeat x)) ∧
      ∀ k n, s.others.Nodup → k ∈ s.others → s.member k = some n → t.member k = some n.asked := by
  obtain ⟨owed, sched, flight, bookings, booked⟩ := bookWindows_parts w s
  have beats := foldl_beat_sends s.others (bookWindows w s)
  have others : (bookWindows w s).others = s.others := by rw [booked]; rfl
  have on : (bookWindows w s).linked = s.linked := by rw [booked]; rfl
  have told : (bookWindows w s).told = s.told := by rw [booked]; rfl
  have seats : (bookWindows w s).rim.seats = s.rim.seats := by rw [booked]
  have now : (s.others.foldl beat (bookWindows w s)).tim.now = s.tim.now := by
    rw [beats.tim]
    show (bookWindows w s).tim.now = _
    rw [booked]
  have e : exec (.heartbeatPeriod w) s = .next (syncDeputy (periodSent s.others (bookWindows w s))) :=
    congrArg Host.Outcome.next ((heartbeatPeriod_due w rim due).trans (others ▸ rfl))
  generalize bookWindows w s = u at *
  unfold periodSent at e
  generalize s.others.foldl beat u = v at *
  let x := count 4 0 10 s.others.length { v with rim := { v.rim with lastHbSent := v.tim.now } }
  obtain ⟨_, rest, short, copied⟩ := syncDeputy_sends x
  have heard : v.told = s.told ++ if s.linked then s.others.map Control.heartbeat else [] := by
    refine beats.told.trans ?_
    show u.told ++ (if u.linked = true then _ else _) = _
    rw [told, on, List.map_map]
    rfl
  refine ⟨syncDeputy x, e, ?_, fun linked => ⟨⟨if x.linked then rest.map (·.2) else [], ?_, ?_⟩, fun k mem => ?_⟩, fun k n once mem seat => ?_⟩
  · rw [copied.rim]
    exact now
  · refine copied.told.trans ?_
    show v.told ++ _ = _
    rw [heard, if_pos linked]
    rfl
  · split
    · rwa [List.length_map]
    · exact Nat.zero_le _
  · have reached := beats.reach (on.trans linked) _ (List.mem_map_of_mem mem)
    exact toldSeat_of_prefix (s := v) copied.sent reached
  · rw [syncDeputy_member]
    show tfind v.rim.seats k = _
    rw [beats.rim]
    refine askedSeats_self once mem u.rim.seats ?_
    rw [seats]
    exact seat

/-! ### A member's part -/

/-- What a member answers (R257). -/
def State.answer (s : State) : Answer :=
  { seat := s.tim.seat, round := s.tns.round, domain := s.tim.domain.code, frozen := s.seq.frozen, short := s.anyUnmapped,
    storm := s.tim.stormNote, portsOut := s.portsOut }

/-- The TIM_ block of a member that a heartbeat has reached. -/
def Tim.heard (h : Heartbeat) (t : Tim) : Tim :=
  { t with policy := h.policy, policyNext := none, lastHb := t.now, deputy := h.deputy == some t.seat, rimSeat := h.rim,
           rimChanged := t.rimChanged || h.rimChange, copy := if h.deputy == some t.seat then h.copy.or t.copy else none }

theorem raiseTim_out (b : Nat) (s : State) : ∃ lnk ms, raiseTim b s =
    { s with tim := { s.tim with status := s.tim.status.raise b }, lnk := lnk, out := { s.out with messages := ms } } ∧
      lnk.ports = s.lnk.ports :=
  signalVector_out 64 { s with tim := { s.tim with status := s.tim.status.raise b } }

theorem portsOut_of_ports {s t : State} (h : t.lnk.ports = s.lnk.ports) : t.portsOut = s.portsOut := by
  unfold State.portsOut
  simp only [port_of_ports h]

/-- A status bit says nothing of what a member answers. -/
theorem answer_raiseTim (b : Nat) (s : State) : (raiseTim b s).answer = s.answer := by
  obtain ⟨lnk, ms, e, ports⟩ := raiseTim_out b s
  have out : (raiseTim b s).portsOut = s.portsOut := portsOut_of_ports (by rw [e]; exact ports)
  unfold State.answer
  rw [out, e]
  rfl

/-- What a heartbeat leaves, before the answer goes out. -/
def heardState (h : Heartbeat) (s : State) : State :=
  let s := setWindows h.windows { s with tim := Tim.heard h s.tim }
  if h.rimChange then raiseTim 3 s else s

theorem heartbeat_eq (h : Heartbeat) {s : State} (powered : s.powered = true) (member : s.tim.domain = .member) (rib : s.tim.role ≠ .rim) :
    heartbeat h s = count 4 0 10 1 (sendRim (.answer (heardState h s).answer) (heardState h s)) := by
  have other : s.isRim = false := by
    unfold State.isRim
    simp [rib]
  exact if_neg (by simp [powered, member, other])

theorem heardState_parts (h : Heartbeat) (s : State) : ∃ owed, (heardState h s).tim = { Tim.heard h s.tim with
      owed := owed, status := if h.rimChange then s.tim.status.raise 3 else s.tim.status } ∧
    (heardState h s).wire = s.wire ∧ (heardState h s).answer = s.answer := by
  obtain ⟨owed, sched, flight, e⟩ := setWindows_parts h.windows { s with tim := Tim.heard h s.tim }
  refine ⟨owed, ?_⟩
  unfold heardState
  dsimp only
  rw [e]
  cases h.rimChange
  · exact ⟨rfl, rfl, rfl⟩
  · exact ⟨raiseTim_tim .., untouched_wire.signal .., answer_raiseTim ..⟩

/-- HEARTBEAT on a member that is not the rim. -/
theorem exec_heartbeat (h : Heartbeat) {s : State} (powered : s.powered = true) (member : s.tim.domain = .member)
    (rib : s.tim.role ≠ .rim) : ∃ t, exec (.heartbeat h) s = .next t ∧
      t.tim.policy = h.policy ∧ t.tim.lastHb = s.tim.now ∧ t.tim.deputy = (h.deputy == some s.tim.seat) ∧
      t.tim.copy = (if h.deputy = some s.tim.seat then h.copy.or s.tim.copy else none) ∧
      (h.rimChange = true → t.tim.status.bits.getLsbD 3 = true) ∧
      t.told = s.told ++ if s.linked then [.answer s.answer] else [] := by
  obtain ⟨owed, tim, wire, same⟩ := heardState_parts h s
  have sent := sendRim_sends (.answer (heardState h s).answer) (heardState h s)
  refine ⟨_, congrArg Host.Outcome.next (heartbeat_eq h powered member rib), ?_, ?_, ?_, ?_, fun changed => ?_, ?_⟩
  · exact (congrArg Tim.policy (sent.tim.trans tim) :)
  · exact (congrArg Tim.lastHb (sent.tim.trans tim) :)
  · exact (congrArg Tim.deputy (sent.tim.trans tim) :)
  · refine (congrArg Tim.copy (sent.tim.trans tim) :).trans ?_
    simp [Tim.heard]
  · refine (congrArg (fun t : Tim => t.status.bits.getLsbD 3) (sent.tim.trans tim) :).trans ?_
    rw [changed]
    exact Status.raise_bit _ (by decide)
  · refine sent.told.trans ?_
    rw [told_of_wire wire, linked_of_ports (ports_of_wire wire), same]
    rfl

/-! ### An answer at the rim -/

theorem stretch_mem (s : State) : (stretch s).mem = s.mem := by
  unfold stretch
  split <;> rfl

section
variable {a : Answer} {m : Member} {s : State} (rim : s.isRim = true) (seat : s.member a.seat = some m)
include rim seat

theorem exec_heartbeatAnswer_lost (lost : m.lost = true) (room : s.mem.journalOver = false) :
    exec (.heartbeatAnswer a) s = .next (sendControl a.seat (.refused a.seat) s) := by
  have e : heartbeatAnswer a s = sendControl a.seat (.refused a.seat) s := by
    unfold heartbeatAnswer
    rw [seat]
    simp [rim, lost]
  have mem := (sendControl_sends a.seat (.refused a.seat) s).mem
  exact congrArg Host.Outcome.next ((unlessOver_lets ⟨room, by rw [e, mem, room]⟩).trans e)

/-- What an answer changes of the table. -/
def State.answered (a : Answer) (m : Member) (s : State) : State :=
  { s with rim := { s.rim with
    seats := tinsert s.rim.seats a.seat { m with misses := 0, awaiting := false, portsOut := a.portsOut } } }

theorem heartbeatAnswer_live (live : m.lost = false) (ports : a.portsOut = m.portsOut) : heartbeatAnswer a s =
    syncDeputy (if a.frozen || a.short then declareLost a.seat
        (if a.storm && a.round = s.tns.round then stretch (s.answered a m) else s.answered a m)
      else if a.storm && a.round = s.tns.round then stretch (s.answered a m) else s.answered a m) := by
  unfold heartbeatAnswer
  rw [seat]
  dsimp only
  rw [if_neg (by simp [rim]), if_neg (by simp [live]), modMember_some seat, if_neg (c := a.portsOut ≠ m.portsOut) (by simp [ports])]
  rfl

end

/-- Settles O42: the rim's period, a member's part, and an answer at the rim. -/
theorem heartbeatsAreAnswered : Obligations.HeartbeatsAreAnswered := by
  intro h w a m s
  refine ⟨exec_heartbeatPeriod w, exec_heartbeat h, exec_heartbeatAnswer_lost, fun rim seat live ports => ?_⟩
  have e := heartbeatAnswer_live rim seat live ports
  have goes (h : s.lets (heartbeatAnswer a)) : exec (.heartbeatAnswer a) s = .next (heartbeatAnswer a s) :=
    congrArg Host.Outcome.next (unlessOver_lets h)
  have quiet (calm : a.storm = false ∨ a.round ≠ s.tns.round) : (a.storm && decide (a.round = s.tns.round)) = false := by
    rcases calm with storm | round
    · simp [storm]
    · simp [round]
  refine ⟨fun calm frozen short room => ?_, fun storm round frozen short room => ?_, fun calm loss held => ?_⟩
  · rw [quiet calm, frozen, short] at e
    have e : heartbeatAnswer a s = syncDeputy (s.answered a m) := e
    refine (goes ⟨room, ?_⟩).trans (congrArg Host.Outcome.next e)
    rw [e, syncDeputy_mem]
    exact room
  · rw [storm, frozen, short] at e
    have e : heartbeatAnswer a s = syncDeputy (stretch (s.answered a m)) := e.trans (by simp [round])
    refine (goes ⟨room, ?_⟩).trans (congrArg Host.Outcome.next e)
    rw [e, syncDeputy_mem, stretch_mem]
    exact room
  · have lost : (a.frozen || a.short) = true := by simpa using loss
    rw [quiet calm, if_pos lost] at e
    exact (goes held).trans (congrArg Host.Outcome.next e)

end Sys2Proof.Machine
end

section
/-! PROOFS. A commit's effect (R110, R111, R115, R185, R265): the ladders' and the floor's policy, slot 1, the placer's boundary, and the
pending COMMIT. -/

namespace Sys2Proof.Machine

/-! ### States that differ by the TNS_ block and what the trace notes -/

/-- `t` is `s` but for the TNS_ block, the trace and the interrupts that the trace raises. -/
def Traced (s t : State) : Prop := ∃ tns trc lnk ms, t = { s with tns := tns, trc := trc, lnk := lnk, out := { s.out with messages := ms } }

section
variable {s t u : State}

theorem Traced.refl (s : State) : Traced s s := ⟨_, _, _, _, rfl⟩

theorem Traced.trans (h : Traced s t) (g : Traced t u) : Traced s u := by
  obtain ⟨_, _, _, _, e⟩ := h
  obtain ⟨tns, trc, lnk, ms, e'⟩ := g
  subst e
  exact ⟨tns, trc, lnk, ms, e'⟩

theorem Traced.store (h : Traced s t) : t.store = s.store := by obtain ⟨_, _, _, _, e⟩ := h; rw [e]
theorem Traced.plc (h : Traced s t) : t.plc = s.plc := by obtain ⟨_, _, _, _, e⟩ := h; rw [e]
theorem Traced.mem (h : Traced s t) : t.mem = s.mem := by obtain ⟨_, _, _, _, e⟩ := h; rw [e]
theorem Traced.flight (h : Traced s t) : t.flight = s.flight := by obtain ⟨_, _, _, _, e⟩ := h; rw [e]
theorem Traced.tim (h : Traced s t) : t.tim = s.tim := by obtain ⟨_, _, _, _, e⟩ := h; rw [e]
theorem Traced.rim (h : Traced s t) : t.rim = s.rim := by obtain ⟨_, _, _, _, e⟩ := h; rw [e]
theorem Traced.ups (h : Traced s t) : t.ups = s.ups := by obtain ⟨_, _, _, _, e⟩ := h; rw [e]
theorem Traced.pwr (h : Traced s t) : t.pwr = s.pwr := by obtain ⟨_, _, _, _, e⟩ := h; rw [e]

theorem traced_trace (typ sub source : Nat) (layer : BitVec 16) (payload : List Nat) (s : State) :
    Traced s (trace typ sub source layer payload s) := by
  obtain ⟨trc, lnk, ms, e⟩ := traceWith_parts typ sub source layer payload 0 false s
  exact ⟨_, trc, lnk, ms, e⟩

theorem traced_tns (tns : Tns) (s : State) : Traced s { s with tns := tns } := ⟨tns, _, _, _, rfl⟩

theorem trace_tns (typ sub source : Nat) (layer : BitVec 16) (payload : List Nat) (s : State) :
    (trace typ sub source layer payload s).tns = s.tns := congrArg Calm.tns (trace_calm ..)

end

/-! ### The ladders (R111) -/

/-- A ladder after the policy of the round that ends. -/
def nextLadder (m : Summary) (next : Nat) (s : State) (i : Nat) : Ladder :=
  policyStep (s.tns.active.layer (i / 3)) ((s.tns.active.layer (i / 3)).ladder (i % 3)) (s.tns.active.ctrl.getLsbD 0) next
    (tget {} m.recs (i / 3 * 4 + i % 3)).stats (s.ladder (i / 3) (i % 3))

/-- One ladder's step. -/
def ladderStep (m : Summary) (next : Nat) (s : State) (i : Nat) : State :=
  let old := s.ladder (i / 3) (i % 3)
  let new := nextLadder m next s i
  let s := { s with tns := { s.tns with ladders := tset {} s.tns.ladders i new } }
  if old.cur = new.cur then s
  else trace tLADDER 0 0xFF (BitVec.ofNat 16 (i / 3)) [i / 3, i % 3, old.cur, new.cur, s.tns.floor] s

theorem ladderPolicy_eq (m : Summary) (s : State) :
    ladderPolicy m s = (List.range (s.layerCount * 3)).foldl (ladderStep m s.tns.round.toNat) s := rfl

theorem ladderStep_tns (m : Summary) (next : Nat) (s : State) (i : Nat) :
    (ladderStep m next s i).tns = { s.tns with ladders := tset {} s.tns.ladders i (nextLadder m next s i) } := by
  unfold ladderStep
  dsimp only
  split
  · rfl
  · exact trace_tns ..

theorem ladderStep_traced (m : Summary) (next : Nat) (s : State) (i : Nat) : Traced s (ladderStep m next s i) := by
  unfold ladderStep
  dsimp only
  split
  · exact traced_tns ..
  · exact (traced_tns ..).trans (traced_trace ..)

theorem foldl_ladderStep_traced (m : Summary) (next : Nat) (l : List Nat) (s : State) : Traced s (l.foldl (ladderStep m next) s) := by
  induction l generalizing s with
  | nil => exact .refl s
  | cons i l ih => exact (ladderStep_traced ..).trans (ih _)

theorem foldl_ladderStep_tns (m : Summary) (next n : Nat) (s : State) : ∃ ladders,
    ((List.range n).foldl (ladderStep m next) s).tns = { s.tns with ladders := ladders } ∧
      ∀ i, tget {} ladders i = if i < n then nextLadder m next s i else tget {} s.tns.ladders i := by
  induction n with
  | zero => exact ⟨_, rfl, fun i => (if_neg (Nat.not_lt_zero i)).symm⟩
  | succ n ih =>
    obtain ⟨ladders, e, values⟩ := ih
    rw [List.range_succ, List.foldl_append, List.foldl_cons, List.foldl_nil, ladderStep_tns, e]
    have mine : nextLadder m next ((List.range n).foldl (ladderStep m next) s) n = nextLadder m next s n := by
      have own : ((List.range n).foldl (ladderStep m next) s).ladder (n / 3) (n % 3) = s.ladder (n / 3) (n % 3) := by
        unfold State.ladder
        rw [e, values, if_neg (by omega)]
      unfold nextLadder
      rw [own, e]
    refine ⟨_, rfl, fun i => ?_⟩
    rw [mine, tget_tset, values]
    by_cases here : i = n
    · rw [if_pos here, if_pos (by omega), here]
    · rw [if_neg here]
      exact if_congr (by omega) rfl rfl

theorem ladderPolicy_traced (m : Summary) (s : State) : Traced s (ladderPolicy m s) := foldl_ladderStep_traced ..

theorem ladderPolicy_tns (m : Summary) (s : State) : ∃ ladders, (ladderPolicy m s).tns = { s.tns with ladders := ladders } := by
  obtain ⟨ladders, e, -⟩ := foldl_ladderStep_tns m s.tns.round.toNat (s.layerCount * 3) s
  exact ⟨ladders, e⟩

theorem ladder_ladderPolicy (m : Summary) (s : State) {l k : Nat} (layer : l < s.layerCount) (ladder : k < 3) :
    (ladderPolicy m s).ladder l k = policyStep (s.tns.active.layer l) ((s.tns.active.layer l).ladder k) (s.tns.active.ctrl.getLsbD 0)
      s.tns.round.toNat (tget {} m.recs (l * 4 + k)).stats (s.ladder l k) := by
  obtain ⟨ladders, e, values⟩ := foldl_ladderStep_tns m s.tns.round.toNat (s.layerCount * 3) s
  have mine : (ladderPolicy m s).ladder l k = nextLadder m s.tns.round.toNat s (l * 3 + k) := by
    unfold State.ladder
    rw [ladderPolicy_eq, e, values, if_pos (by omega)]
  rw [mine]
  unfold nextLadder
  rw [show (l * 3 + k) / 3 = l by omega, show (l * 3 + k) % 3 = k by omega]

/-! ### The floor (R115) -/

/-- The floor and the rounds without a storm after a round. -/
def nextFloor (m : Summary) (t : Tns) : Nat × Nat :=
  if m.storm then (Min.min (t.floor + 1) 3, 0)
  else
    let free := Min.min (t.stormFree + 1) 65535
    if bits t.active.decay.toNat 15 0 > 0 && free ≥ bits t.active.decay.toNat 15 0 && t.floor > 0 then (t.floor - 1, 0) else (t.floor, free)

theorem floorPolicy_eq (m : Summary) (s : State) : floorPolicy m s =
    let u : State := { s with tns := { s.tns with floor := (nextFloor m s.tns).1, stormFree := (nextFloor m s.tns).2 } }
    if (nextFloor m s.tns).1 = s.tns.floor then u
    else trace tLADDER 1 0xFF 0xFFFF [0, 0, s.tns.floor, (nextFloor m s.tns).1, (nextFloor m s.tns).1] u := rfl

theorem floorPolicy_traced (m : Summary) (s : State) : Traced s (floorPolicy m s) := by
  rw [floorPolicy_eq]
  dsimp only
  split
  · exact traced_tns ..
  · exact (traced_tns ..).trans (traced_trace ..)

theorem floorPolicy_tns (m : Summary) (s : State) :
    (floorPolicy m s).tns = { s.tns with floor := (nextFloor m s.tns).1, stormFree := (nextFloor m s.tns).2 } := by
  rw [floorPolicy_eq]
  dsimp only
  split
  · rfl
  · exact trace_tns ..

theorem nextFloor_storm {m : Summary} (t : Tns) (storm : m.storm = true) : nextFloor m t = (min (t.floor + 1) 3, 0) := if_pos storm

theorem nextFloor_decays {m : Summary} {t : Tns} (calm : m.storm = false) (on : 0 < bits t.active.decay.toNat 15 0)
    (long : bits t.active.decay.toNat 15 0 ≤ min (t.stormFree + 1) 65535) (raised : 0 < t.floor) : nextFloor m t = (t.floor - 1, 0) := by
  unfold nextFloor
  rw [calm, if_neg Bool.false_ne_true]
  exact if_pos (by simp only [Bool.and_eq_true, decide_eq_true_eq]; exact ⟨⟨on, long⟩, raised⟩)

theorem nextFloor_stays {m : Summary} {t : Tns} (calm : m.storm = false)
    (short : bits t.active.decay.toNat 15 0 = 0 ∨ min (t.stormFree + 1) 65535 < bits t.active.decay.toNat 15 0 ∨ t.floor = 0) :
    nextFloor m t = (t.floor, min (t.stormFree + 1) 65535) := by
  unfold nextFloor
  rw [calm, if_neg Bool.false_ne_true]
  refine if_neg ?_
  simp only [Bool.and_eq_true, decide_eq_true_eq]
  omega

/-! ### The effect in its order (R265) -/

/-- The policy's part of the effect: ladders and floor, which a divergence leaves as they were (R110). -/
def policed (m : Summary) (s : State) : State :=
  if s.tns.heldDiverged then { s with tns := { s.tns with round := s.tns.round + 1 } }
  else floorPolicy m (ladderPolicy m { s with tns := { s.tns with round := s.tns.round + 1 } })

theorem Untouched.ladderPolicy {α : Type} {P : State → α} (u : Untouched P) (m : Summary) (s : State) :
    P (Machine.ladderPolicy m s) = P s :=
  read_foldl (f := ladderStep m s.tns.round.toNat) (fun _ _ => read_ite (u.tns ..) ((u.trace ..).trans (u.tns ..))) _ s

theorem Untouched.floorPolicy {α : Type} {P : State → α} (u : Untouched P) (m : Summary) (s : State) :
    P (Machine.floorPolicy m s) = P s := by
  rw [floorPolicy_eq]
  exact read_ite (u.tns ..) ((u.trace ..).trans (u.tns ..))

theorem Untouched.policed {α : Type} {P : State → α} (u : Untouched P) (m : Summary) (s : State) : P (Machine.policed m s) = P s :=
  read_ite (u.tns ..) ((u.floorPolicy ..).trans ((u.ladderPolicy ..).trans (u.tns ..)))

/-- The summary that goes to slot 1. -/
def slotSummary (m : Summary) (s : State) : Summary := { m with floor := (policed m s).tns.floor }

/-- The state whose configuration has been latched, before the placer's boundary. -/
def latchedWith (last : Summary) (u : State) : State := latchTns { u with tns := { u.tns with last := last } }

/-- The boundary after it, and what the round gathered discarded. -/
def closeRound (s : State) : State :=
  let u := clearRound (boundary s)
  { u with tns := { u.tns with compareOk := false, compareBad := false }, tim := { u.tim with tookSeat := false } }

/-- The state after the write of slot 1. -/
def slotWritten (m : Summary) (s : State) : State := (writeSlot 1 (slotSummary m s) (policed m s)).2

/-- The state once the effect has taken place. -/
@[irreducible] def effected (m : Summary) (s : State) : State := closeRound (latchedWith (slotSummary m s) (slotWritten m s))

theorem commitEffect_eq (m : Summary) (s : State) : (commitEffect m s).2 = effected m s := by
  unfold commitEffect
  extract_lets _ _ v last
  generalize slot : writeSlot 1 last v = r
  unfold effected slotWritten
  rw [show writeSlot 1 (slotSummary m s) (policed m s) = r from slot]
  obtain ⟨f, w⟩ := r
  rfl

theorem policed_traced (m : Summary) (s : State) : Traced s (policed m s) := by
  unfold policed
  split
  · exact traced_tns ..
  · exact (traced_tns ..).trans ((ladderPolicy_traced ..).trans (floorPolicy_traced ..))

theorem policed_tns (m : Summary) (s : State) : ∃ ladders floor free, (policed m s).tns =
    { s.tns with round := s.tns.round + 1, ladders := ladders, floor := floor, stormFree := free } := by
  unfold policed
  split
  · exact ⟨_, _, _, rfl⟩
  · rw [floorPolicy_tns]
    obtain ⟨ladders, e⟩ := ladderPolicy_tns m { s with tns := { s.tns with round := s.tns.round + 1 } }
    rw [e]
    exact ⟨ladders, _, _, rfl⟩

theorem writeSlot_calm (slot : Nat) (m : Summary) (s : State) : (writeSlot slot m s).2.calm = s.calm :=
  (writeBytes_calm ..).trans (writeBytes_calm ..)

theorem Untouched.writeSlot {α : Type} {P : State → α} (u : Untouched P) (slot : Nat) (m : Summary) (s : State) :
    P (Machine.writeSlot slot m s).2 = P s := (u.writeBytes ..).trans (u.writeBytes ..)

/-- What is latched is a function of the TNS_ block. -/
theorem latchTns_tns (s : State) : ∃ staged ladders, (latchTns s).tns = { s.tns with
    staged := staged, active := staged.latched, latched := true, everLatched := true, ladders := ladders } ∧
      staged.ctrl = s.tns.staged.ctrl := ⟨_, _, rfl, rfl⟩

/-- The ladders after a latch follow from the two configurations and the ladders before it. -/
theorem latchTns_ladders {s t : State} (staged : t.tns.staged = s.tns.staged) (active : t.tns.active = s.tns.active)
    (ladders : t.tns.ladders = s.tns.ladders) (ever : t.tns.everLatched = s.tns.everLatched) :
    (latchTns t).tns.ladders = (latchTns s).tns.ladders := by
  unfold latchTns
  dsimp only
  rw [staged, active, ladders, ever]

theorem latchPolicy_parts (s : State) : ∃ policy next, latchPolicy s = { s with tim := { s.tim with policy := policy, policyNext := next } } := by
  unfold latchPolicy
  split
  · exact ⟨_, _, rfl⟩
  · exact ⟨_, _, rfl⟩

/-- The round's own part of a boundary (R113, R265). -/
def Tns.cleared (t : Tns) : Tns :=
  { t with statistics := [], sealed := none, held := none, heldDiverged := false, roundReweaves := 0, stormRaised := false,
           compareOk := false, compareBad := false }

section
variable (m : Summary) (s : State)

theorem closeRound_tns : (closeRound s).tns = s.tns.cleared := by
  have tns : (boundary s).tns = s.tns := (congrArg Calm.tns (roundBoundary_calm _)).trans (by
    obtain ⟨_, _, e⟩ := latchPolicy_parts s
    rw [e]
    rfl)
  unfold closeRound clearRound
  dsimp only
  rw [tns]
  rfl

theorem slotWritten_calm : (slotWritten m s).calm = (policed m s).calm := writeSlot_calm ..

theorem slotWritten_tns : (slotWritten m s).tns = (policed m s).tns := congrArg Calm.tns (slotWritten_calm m s)

/-- The TNS_ block once the effect has taken place. -/
theorem effected_tns : (effected m s).tns = (latchedWith (slotSummary m s) (slotWritten m s)).tns.cleared := by
  unfold effected
  exact closeRound_tns _

theorem effected_round : (effected m s).tns.round = s.tns.round + 1 := by
  rw [effected_tns]
  show (slotWritten m s).tns.round = _
  rw [slotWritten_tns]
  obtain ⟨_, _, _, e⟩ := policed_tns m s
  rw [e]

theorem effected_floor : (effected m s).tns.floor = (policed m s).tns.floor := by
  rw [effected_tns]
  exact (congrArg Tns.floor (slotWritten_tns m s) :)

theorem effected_stormFree : (effected m s).tns.stormFree = (policed m s).tns.stormFree := by
  rw [effected_tns]
  exact (congrArg Tns.stormFree (slotWritten_tns m s) :)

theorem effected_last : (effected m s).tns.last = { m with floor := (effected m s).tns.floor } := by
  rw [effected_floor, effected_tns]
  rfl

theorem effected_ladders : (effected m s).tns.ladders = (latchTns (policed m s)).tns.ladders := by
  rw [effected_tns]
  have tns := slotWritten_tns m s
  exact latchTns_ladders (congrArg Tns.staged tns :) (congrArg Tns.active tns :) (congrArg Tns.ladders tns :)
    (congrArg Tns.everLatched tns :)

theorem effected_ctrl : (effected m s).tns.active.ctrl = (TnsCfg.latched s.tns.staged).ctrl := by
  rw [effected_tns]
  obtain ⟨_, _, _, e⟩ := policed_tns m s
  have staged : (slotWritten m s).tns.staged = s.tns.staged := (congrArg Tns.staged (slotWritten_tns m s)).trans (congrArg Tns.staged e :)
  show latchShadow (slotWritten m s).tns.staged.ctrl = latchShadow s.tns.staged.ctrl
  rw [staged]

/-! ### What the effect leaves, and the placer's boundary (R185) -/

/-- The device's own part of a boundary. -/
def Tim.cleared (policy : Policy) (next : Option Policy) (t : Tim) : Tim :=
  { t with policy := policy, policyNext := next, exchanged := false, updated := false, abort := none, abortDiv := false,
           sourceOnce := none, decided := none, stormNote := false, tookSeat := false }

theorem closeRound_calm : ∃ policy next, (closeRound s).calm =
    { s.calm with tns := s.tns.cleared, tim := s.tim.cleared policy next } := by
  obtain ⟨policy, next, e⟩ := latchPolicy_parts s
  have h : (boundary s).calm = { s.calm with tim := { s.tim with policy := policy, policyNext := next } } :=
    (roundBoundary_calm _).trans (by rw [e]; rfl)
  refine ⟨policy, next, ?_⟩
  have step : (closeRound s).calm = { (boundary s).calm with
    tns := (boundary s).tns.cleared, tim := (boundary s).tim.cleared (boundary s).tim.policy (boundary s).tim.policyNext } := rfl
  rw [step, show (boundary s).tns = s.tns from congrArg Calm.tns h, show (boundary s).tim = _ from congrArg Calm.tim h, h]
  rfl

theorem policed_calm : (policed m s).calm = { s.calm with tns := (policed m s).tns } := by
  obtain ⟨_, _, _, _, e⟩ := policed_traced m s
  rw [e]
  rfl

theorem effected_calm : ∃ policy next, (effected m s).calm =
    { s.calm with tns := (effected m s).tns, tim := s.tim.cleared policy next } := by
  obtain ⟨policy, next, e⟩ := closeRound_calm (latchedWith (slotSummary m s) (slotWritten m s))
  have slot := (slotWritten_calm m s).trans (policed_calm m s)
  refine ⟨policy, next, ?_⟩
  rw [effected_tns]
  unfold effected
  refine e.trans ?_
  have latched : (latchedWith (slotSummary m s) (slotWritten m s)).calm = { (slotWritten m s).calm with
    tns := (latchedWith (slotSummary m s) (slotWritten m s)).tns } := rfl
  have tim : (latchedWith (slotSummary m s) (slotWritten m s)).tim = s.tim := congrArg Calm.tim slot
  rw [latched, tim, slot]

theorem effected_flight : (effected m s).flight = s.flight := by
  obtain ⟨_, _, e⟩ := effected_calm m s
  exact (congrArg Calm.flight e :)

theorem effected_rim : (effected m s).rim = s.rim := by
  obtain ⟨_, _, e⟩ := effected_calm m s
  exact (congrArg Calm.rim e :)

theorem effected_tim : ∃ policy next, (effected m s).tim = s.tim.cleared policy next := by
  obtain ⟨policy, next, e⟩ := effected_calm m s
  exact ⟨policy, next, (congrArg Calm.tim e :)⟩

theorem boundary_wire : (boundary s).wire = s.wire := by
  obtain ⟨_, _, policy⟩ := latchPolicy_parts s
  unfold boundary
  rw [untouched_wire.roundBoundary _ fun _ _ => rfl, policy]
  rfl

theorem closeRound_wire : (closeRound s).wire = s.wire := by
  rw [← boundary_wire s]
  unfold closeRound
  generalize boundary s = u
  rfl

theorem closeRound_bytes : (closeRound s).bytes = s.bytes := by
  rw [← boundary_bytes s]
  unfold closeRound
  generalize boundary s = u
  rfl

theorem closeRound_placement : (closeRound s).placement = (roundBoundary (latchPolicy s)).placement := by
  unfold closeRound boundary
  generalize roundBoundary (latchPolicy s) = u
  rfl

theorem latchedWith_wire (last : Summary) : (latchedWith last s).wire = s.wire := rfl
theorem latchedWith_bytes (last : Summary) : (latchedWith last s).bytes = s.bytes := rfl
theorem latchedWith_placement (last : Summary) : (latchedWith last s).placement = s.placement := rfl

theorem slotWritten_wire : (slotWritten m s).wire = s.wire := (untouched_wire.writeSlot ..).trans (untouched_wire.policed m s)
theorem slotWritten_placement : (slotWritten m s).placement = s.placement :=
  (untouched_placement.writeSlot ..).trans (untouched_placement.policed m s)

theorem effected_wire : (effected m s).wire = s.wire := by
  unfold effected
  rw [closeRound_wire, latchedWith_wire, slotWritten_wire]

theorem effected_bytes : (effected m s).bytes = (writeSlot 1 (effected m s).tns.last (policed m s)).2.bytes := by
  have last : (effected m s).tns.last = slotSummary m s := by
    rw [effected_last, effected_floor]
    rfl
  rw [last]
  unfold effected
  rw [closeRound_bytes, latchedWith_bytes]
  rfl

/-- The placer's boundary is that of the state before it, whose placer is as the round has left it. -/
theorem effected_placement : ∃ w : State, w.placement = s.placement ∧ w.ups = s.ups ∧ w.pwr = s.pwr ∧
    (effected m s).placement = (roundBoundary w).placement := by
  have calm := (slotWritten_calm m s).trans (policed_calm m s)
  have ups : (latchedWith (slotSummary m s) (slotWritten m s)).ups = s.ups := (congrArg Calm.ups calm :)
  have pwr : (latchedWith (slotSummary m s) (slotWritten m s)).pwr = s.pwr := (congrArg Calm.pwr calm :)
  have placement : (latchedWith (slotSummary m s) (slotWritten m s)).placement = s.placement := by
    rw [latchedWith_placement, slotWritten_placement]
  unfold effected
  rw [closeRound_placement]
  generalize latchedWith (slotSummary m s) (slotWritten m s) = u at *
  obtain ⟨_, _, e⟩ := latchPolicy_parts u
  refine ⟨latchPolicy u, ?_, ?_, ?_, rfl⟩ <;> rw [e] <;> assumption

theorem plc_of_placement {s t : State} (h : t.placement = s.placement) : t.plc = { s.plc with running := t.plc.running } :=
  congrArg (fun p : Plc => { p with running := t.plc.running }) h

end

/-! ### The COMMIT message on a member -/

theorem commitMessage_other {round : BitVec 32} {s : State} (other : round ≠ s.tns.round) (seats : Nat) : commitMessage round seats s = s :=
  if_pos (by simp [other])

theorem commitMessage_eq {round : BitVec 32} {s : State} (powered : s.powered = true) (member : s.tim.domain = .member)
    (same : round = s.tns.round) (seats : Nat) : commitMessage round seats s =
      finishAll s.updates 0 ((s.tns.round + 1).toNat + seats * 2 ^ 32) (effected (s.tns.held.getD s.emptySummary) s) := by
  have e : commitMessage round seats s = finishAll (commitEffect (s.tns.held.getD s.emptySummary) s).2.updates 0
      ((commitEffect (s.tns.held.getD s.emptySummary) s).2.tns.round.toNat + seats * 2 ^ 32)
      (commitEffect (s.tns.held.getD s.emptySummary) s).2 := if_neg (by simp [powered, member, same])
  have updates : (effected (s.tns.held.getD s.emptySummary) s).updates = s.updates := by
    unfold State.updates
    rw [effected_flight]
  rw [e, commitEffect_eq, effected_round, updates]

/-- The round's start, in which the policy finds the ladders and the floor. -/
def State.nextRound (s : State) : State := { s with tns := { s.tns with round := s.tns.round + 1 } }

section
variable {m : Summary} {s : State}

/-- A divergence leaves the ladders and the floor as they were (R110). -/
theorem policed_diverged (diverged : s.tns.heldDiverged = true) : policed m s = s.nextRound := if_pos diverged

theorem policed_agreed (agreed : s.tns.heldDiverged = false) : policed m s = floorPolicy m (ladderPolicy m s.nextRound) :=
  if_neg (by simp [agreed])

theorem policed_agreed_floor (agreed : s.tns.heldDiverged = false) :
    (policed m s).tns.floor = (nextFloor m s.tns).1 ∧ (policed m s).tns.stormFree = (nextFloor m s.tns).2 := by
  rw [policed_agreed agreed, floorPolicy_tns]
  obtain ⟨_, e⟩ := ladderPolicy_tns m s.nextRound
  rw [e]
  exact ⟨rfl, rfl⟩

/-- The floor's own change is none of the ladders'. -/
theorem policed_agreed_ladders (agreed : s.tns.heldDiverged = false) :
    (latchTns (policed m s)).tns.ladders = (latchTns (ladderPolicy m s.nextRound)).tns.ladders := by
  have e := (congrArg State.tns (policed_agreed (m := m) agreed)).trans (floorPolicy_tns m (ladderPolicy m s.nextRound))
  exact latchTns_ladders (congrArg Tns.staged e :) (congrArg Tns.active e :) (congrArg Tns.ladders e :) (congrArg Tns.everLatched e :)

theorem policed_diverged_ladders (diverged : s.tns.heldDiverged = true) :
    (latchTns (policed m s)).tns.ladders = (latchTns s).tns.ladders := by
  rw [policed_diverged diverged]
  exact latchTns_ladders rfl rfl rfl rfl

theorem policed_active : (policed m s).tns.active = s.tns.active := by
  obtain ⟨_, _, _, e⟩ := policed_tns m s
  rw [e]

end

section
variable (m : Summary) (l : List InFlight) (detail : Nat) (s : State)

/-- The state once the COMMITs of a list have completed with the effect. -/
def committed : State := finishAll l 0 detail (effected m s)

theorem committed_core : (committed m l detail s).tns.core = (latchedWith (slotSummary m s) (slotWritten m s)).tns.cleared.core :=
  (finishAll_core ..).trans (congrArg Tns.core (effected_tns m s))

theorem committed_of_effected {β : Type} (f : Tns → β) (g : ∀ t : Tns, f t.core = f t) :
    f (committed m l detail s).tns = f (effected m s).tns :=
  (g _).symm.trans ((congrArg f (finishAll_core ..)).trans (g _))

theorem committed_round : (committed m l detail s).tns.round = s.tns.round + 1 :=
  (committed_of_effected m l detail s Tns.round fun _ => rfl).trans (effected_round m s)

theorem committed_floor : (committed m l detail s).tns.floor = (policed m s).tns.floor :=
  (committed_of_effected m l detail s Tns.floor fun _ => rfl).trans (effected_floor m s)

theorem committed_stormFree : (committed m l detail s).tns.stormFree = (policed m s).tns.stormFree :=
  (committed_of_effected m l detail s Tns.stormFree fun _ => rfl).trans (effected_stormFree m s)

theorem committed_last : (committed m l detail s).tns.last = { m with floor := (committed m l detail s).tns.floor } := by
  rw [committed_floor, ← effected_floor]
  exact (committed_of_effected m l detail s Tns.last fun _ => rfl).trans (effected_last m s)

theorem committed_ladders : (committed m l detail s).tns.ladders = (latchTns (policed m s)).tns.ladders :=
  (committed_of_effected m l detail s Tns.ladders fun _ => rfl).trans (effected_ladders m s)

theorem committed_ctrl : (committed m l detail s).tns.active.ctrl = (TnsCfg.latched s.tns.staged).ctrl :=
  (committed_of_effected m l detail s (fun t => t.active.ctrl) fun _ => rfl).trans (effected_ctrl m s)

/-- The configuration is in effect, and what the round gathered is gone. -/
theorem committed_cleared : (committed m l detail s).tns.latched = true ∧ (committed m l detail s).tns.roundReweaves = 0 ∧
    (committed m l detail s).tns.sealed = none ∧ (committed m l detail s).tns.held = none := by
  have core := committed_core m l detail s
  exact ⟨(congrArg Tns.latched core :), (congrArg Tns.roundReweaves core :), (congrArg Tns.sealed core :), (congrArg Tns.held core :)⟩

theorem committed_tim : ∃ policy next, (committed m l detail s).tim = s.tim.cleared policy next := by
  obtain ⟨policy, next, e⟩ := effected_tim m s
  exact ⟨policy, next, (finishAll_tim ..).trans e⟩

/-- The placer has had its boundary. -/
theorem committed_plc : ∃ w : State, w.plc = { s.plc with running := w.plc.running } ∧ w.ups = s.ups ∧ w.pwr = s.pwr ∧
    (committed m l detail s).plc = { (roundBoundary w).plc with running := (committed m l detail s).plc.running } := by
  obtain ⟨w, before, ups, pwr, boundary⟩ := effected_placement m s
  refine ⟨w, plc_of_placement before, ups, pwr, plc_of_placement (s := roundBoundary w) ?_⟩
  exact (untouched_placement.finishAll ..).trans boundary

theorem committed_none_bytes : (committed m [] detail s).bytes =
    (writeSlot 1 (committed m [] detail s).tns.last (policed m s)).2.bytes := effected_bytes m s

end

/-- Settles O38: a COMMIT message leaves the `committed` state, which the lemmas above read part by part. -/
theorem commitEffectAdvancesTheRound : Obligations.CommitEffectAdvancesTheRound := by
  intro round seats s clocked member
  refine ⟨fun same lets => ?_, fun other room => ?_⟩
  · refine ⟨_, congrArg Host.Outcome.next (unlessOver_lets lets), ?_⟩
    have message : commitMessage round seats s = committed (s.tns.held.getD s.emptySummary) s.updates
        ((s.tns.round + 1).toNat + seats * 2 ^ 32) s := commitMessage_eq (powered_of_clocked clocked) member same seats
    rw [message]
    generalize s.tns.held.getD s.emptySummary = m
    obtain ⟨latched, reweaves, sealed', held⟩ := committed_cleared m s.updates ((s.tns.round + 1).toNat + seats * 2 ^ 32) s
    obtain ⟨_, _, tim⟩ := committed_tim m s.updates ((s.tns.round + 1).toNat + seats * 2 ^ 32) s
    refine ⟨committed_round .., committed_last .., fun diverged => ?_, fun agreed => ⟨?_, fun l k layer ladder => ?_, fun storm => ?_,
      fun still on long raised => ?_, fun still short => ?_⟩, fun none => ⟨policed m s, ?_, ?_, ?_, policed_active, ?_⟩,
      fun c only => ⟨effected m s, effected_flight m s, effected_round m s, ?_⟩, committed_plc .., committed_ctrl .., latched, reweaves,
      sealed', held, ?_, ?_⟩
    · rw [committed_floor, committed_stormFree, committed_ladders, policed_diverged_ladders diverged, policed_diverged diverged]
      exact ⟨rfl, rfl, rfl⟩
    · rw [committed_ladders, policed_agreed_ladders agreed]
      rfl
    · exact ladder_ladderPolicy m s.nextRound layer ladder
    · rw [committed_floor, committed_stormFree, (policed_agreed_floor agreed).1, (policed_agreed_floor agreed).2, nextFloor_storm _ storm]
      exact ⟨rfl, rfl⟩
    · rw [committed_floor, committed_stormFree, (policed_agreed_floor agreed).1, (policed_agreed_floor agreed).2,
        nextFloor_decays still on long raised]
      exact ⟨rfl, rfl⟩
    · rw [committed_floor, committed_stormFree, (policed_agreed_floor agreed).1, (policed_agreed_floor agreed).2,
        nextFloor_stays still short]
      exact ⟨rfl, rfl⟩
    · exact (policed_traced m s).store
    · exact (policed_traced m s).plc
    · exact (policed_traced m s).mem
    · rw [none]
      exact committed_none_bytes ..
    · rw [only]
      rfl
    · rw [tim]
      rfl
    · rw [tim]
      rfl
  · have idle := commitMessage_other other seats
    refine congrArg Host.Outcome.next ((unlessOver_lets ⟨room, ?_⟩).trans idle)
    rw [idle]
    exact room

end Sys2Proof.Machine
end

section
/-! SUPPORT. The rim's own actions (R264 to R268, R276): what a decision, a commit and a loss change of its table, and what they leave as it
is. -/

namespace Sys2Proof.Machine

/-! ### A commit on the rim's own seat -/

theorem effected_serves (m : Summary) (s : State) : Serves s (effected m s) := by
  obtain ⟨policy, next, tim⟩ := effected_tim m s
  have wire := effected_wire m s
  have rim := effected_rim m s
  exact ⟨ports_of_wire wire, prefix_of_wire wire, by rw [tim]; rfl, by rw [tim]; rfl, by rw [tim]; rfl, fun b set => by rw [tim]; exact set,
    by rw [rim], by rw [rim]⟩

theorem commitMessage_cases (round : BitVec 32) (seats : Nat) (s : State) : commitMessage round seats s = s ∨
    ∃ m l detail, commitMessage round seats s = committed m l detail s := by
  by_cases idle : !s.powered || s.tim.domain ≠ .member || round ≠ s.tns.round
  · exact .inl (if_pos idle)
  · simp only [Bool.not_eq_true, Bool.or_eq_false_iff, Bool.not_eq_false', decide_eq_false_iff_not, not_not] at idle
    obtain ⟨⟨powered, member⟩, same⟩ := idle
    exact .inr ⟨_, _, _, commitMessage_eq powered member same seats⟩

section
variable (round : BitVec 32) (seats : Nat) (s : State)

theorem commitMessage_serves : Serves s (commitMessage round seats s) := by
  rcases commitMessage_cases round seats s with e | ⟨m, l, detail, e⟩ <;> rw [e]
  · exact .refl s
  · exact (effected_serves m s).trans (finishAll_serves ..)

theorem commitMessage_rim : (commitMessage round seats s).rim = s.rim := by
  rcases commitMessage_cases round seats s with e | ⟨m, l, detail, e⟩ <;> rw [e]
  exact (finishAll_rim ..).trans (effected_rim m s)

theorem commitMessage_wire : (commitMessage round seats s).wire = s.wire := by
  rcases commitMessage_cases round seats s with e | ⟨m, l, detail, e⟩ <;> rw [e]
  exact (untouched_wire.finishAll ..).trans (effected_wire m s)

theorem commitMessage_seat : (commitMessage round seats s).tim.seat = s.tim.seat := by
  rcases commitMessage_cases round seats s with e | ⟨m, l, detail, e⟩ <;> rw [e]
  obtain ⟨_, _, tim⟩ := committed_tim m l detail s
  rw [tim]
  rfl

end

/-! ### The rim's table as decisions change it -/

/-- What changes nothing but the rim's table, of which the groups and the devices that are refused stay. -/
theorem serves_of_rim {s : State} {r : Rim} (groups : r.groups = s.rim.groups) (retired : r.retired = s.rim.retired) :
    Serves s { s with rim := r } := ⟨rfl, List.prefix_refl _, rfl, rfl, rfl, fun _ h => h, groups, retired⟩

theorem Serves.afterRim {s t : State} {r : Rim} (h : Serves { s with rim := r } t) (groups : r.groups = s.rim.groups)
    (retired : r.retired = s.rim.retired) : Serves s t := (serves_of_rim groups retired).trans h

theorem modMembers_serves (f : Member → Member) (s : State) : Serves s (modMembers f s) := serves_of_rim rfl rfl

/-- Standbys that move into seats change the seats, the forced ones and the MACs. -/
theorem seatStandbys_parts (l : List (Nat × Option Nat × Option Nat)) (s : State) : ∃ macs seats forced, seatStandbys l s =
    { s with tim := { s.tim with macs := macs }, rim := { s.rim with seats := seats, forced := forced } } := by
  induction l generalizing s with
  | nil => exact ⟨_, _, _, rfl⟩
  | cons e l ih =>
    obtain ⟨f, sb, peer⟩ := e
    cases sb with
    | none => exact ih s
    | some sb =>
      unfold seatStandbys
      split
      · obtain ⟨macs, seats, forced, e⟩ := ih _
        exact ⟨macs, seats, forced, e⟩
      · exact ih s

/-- A decision concerns the rim's own seat as one of the domain, never as one that is refused. -/
theorem decisionAbout_kept (d : RimDecision) (s : State) : (s.decisionAbout d).refused = false := by
  unfold State.decisionAbout
  dsimp only
  split <;> rfl

/-- The table with a decision in force. -/
def Rim.decided (d : RimDecision) (now : Nat) (seats : Tab Member) (forced : Tab Nat) (r : Rim) : Rim :=
  { r with seats := seats, forced := forced, decision := some d, decidedAt := now, unacked := none,
           backs := if d.code = 2 then r.backs + 1 else 0 }

/-- The rim's state with a decision in force, before the rim applies it to itself. -/
def acted (d : RimDecision) (s : State) : State :=
  let s := seatStandbys d.pairs (sendDecision d s)
  let s := { s with rim := { s.rim with decision := some d, decidedAt := s.tim.now, unacked := none,
                                        backs := if d.code = 2 then s.rim.backs + 1 else 0 } }
  if d.code = 2 || d.code = 3 then modMembers (fun m => { m with redone := false }) s else s

theorem actOn_eq (d : RimDecision) (s : State) : actOn d s = applyDecision (s.decisionAbout d) (acted d s) := rfl

theorem acted_parts (d : RimDecision) (s : State) : ∃ macs seats forced, acted d s = { sendDecision d s with
    tim := { s.tim with macs := macs }, rim := s.rim.decided d s.tim.now seats forced } := by
  have sent := sendDecision_sends d s
  obtain ⟨macs, seats, forced, e⟩ := seatStandbys_parts d.pairs (sendDecision d s)
  unfold acted
  dsimp only
  rw [e, sent.rim, sent.tim]
  split
  · exact ⟨macs, _, forced, rfl⟩
  · exact ⟨macs, seats, forced, rfl⟩

section
variable (d : RimDecision) (s : State)

theorem acted_serves : Serves s (acted d s) := by
  obtain ⟨macs, seats, forced, e⟩ := acted_parts d s
  rw [e]
  have sent := (sendDecision_sends d s).serves
  have tim := (sendDecision_sends d s).tim
  exact ⟨sent.ports, sent.sent, rfl, rfl, rfl, fun _ h => h, rfl, rfl⟩

theorem actOn_serves : Serves s (actOn d s) := by
  rw [actOn_eq]
  exact (acted_serves d s).trans (applyDecision_serves (decisionAbout_kept d s) _)

/-- What a decision changes of the rim's table. -/
theorem actOn_rim : ∃ seats forced, (actOn d s).rim = s.rim.decided d s.tim.now seats forced := by
  obtain ⟨macs, seats, forced, e⟩ := acted_parts d s
  refine ⟨seats, forced, ?_⟩
  rw [actOn_eq, applyDecision_rim (decisionAbout_kept d s), e]

theorem actOn_round : (actOn d s).tns.round = s.tns.round := by
  obtain ⟨_, _, _, e⟩ := acted_parts d s
  rw [actOn_eq, applyDecision_round (decisionAbout_kept d s), e]
  exact congrArg Tns.round (sendDecision_sends d s).tns

/-- Every other live seat is told of a decision, and the seats that it declares lost. -/
theorem actOn_reaches (linked : s.linked = true) {x : Nat} (mem : x ∈ s.others ++ s.toldLost d) : (actOn d s).toldSeat x (.decision d) := by
  obtain ⟨_, _, _, e⟩ := acted_parts d s
  have told : (acted d s).toldSeat x (.decision d) := by
    rw [e]
    exact sendDecision_reaches linked mem
  rw [actOn_eq]
  exact (applyDecision_serves (decisionAbout_kept d s) _).toldSeat told

end

/-! ### A decision is proposed (R276) -/

section
variable {d : RimDecision} {s : State}

theorem propose_deputy {x : Nat} (deputy : s.deputySeat = some x) :
    propose d s = sendControl x (.toDeputy d) { s with rim := { s.rim with unacked := some d } } := by
  unfold propose
  rw [deputy]

theorem propose_alone (alone : s.deputySeat = none) : propose d s = actOn d s := by
  unfold propose
  rw [alone]

theorem propose_serves (d : RimDecision) (s : State) : Serves s (propose d s) := by
  cases deputy : s.deputySeat with
  | none =>
    rw [propose_alone deputy]
    exact actOn_serves ..
  | some x =>
    rw [propose_deputy deputy]
    exact (sendControl_sends ..).serves.afterRim rfl rfl

theorem decideDomain_serves (failed : Bool) (s : State) : Serves s (decideDomain failed s) := propose_serves ..

end

/-! ### The commit (R264, R265) -/

/-- How many seats a commit counts. -/
def State.commitCount (s : State) : Nat := s.rim.seats.countP fun e => e.2.live && !e.2.standby && e.2.updated

/-- A member whose reports of the round are gone. -/
def Member.anew (m : Member) : Member :=
  { m with exchanged := false, updated := false, diverged := false, badReplay := false, badRound := false, redone := false }

/-- The table of the round that begins. -/
def Rim.anew (r : Rim) : Rim :=
  { r with seats := r.seats.map (fun e => (e.1, e.2.anew)), losses := r.late, late := [], decision := none, unacked := none,
           backs := 0, stretched := none }

/-- The rim's state once the COMMIT has taken effect on its own seat. -/
def commitSent (d : RimDecision) (s : State) : State :=
  commitMessage d.round s.commitCount (sendSeats (.commit d.round s.commitCount) s)

/-- The rim's state once a commit is acted on, before the losses that belong to the new round. -/
def roundBegun (d : RimDecision) (s : State) : State := { commitSent d s with rim := (commitSent d s).rim.anew }

theorem actCommit_eq (d : RimDecision) (s : State) : actCommit d s =
    if (commitSent d s).rim.late.isEmpty then roundBegun d s else decideDomain false (roundBegun d s) := by
  have e : commitMessage d.round (s.rim.seats.countP fun e => e.2.live && !e.2.standby && e.2.updated) (sendSeats (.commit d.round
      (s.rim.seats.countP fun e => e.2.live && !e.2.standby && e.2.updated)) s) = commitSent d s := rfl
  unfold actCommit roundBegun
  dsimp only
  rw [e]
  generalize commitSent d s = u
  rfl

theorem commitSent_rim (d : RimDecision) (s : State) : (commitSent d s).rim = s.rim :=
  (commitMessage_rim ..).trans (sendSeats_sends ..).rim

theorem commitSent_serves (d : RimDecision) (s : State) : Serves s (commitSent d s) :=
  (sendSeats_sends (.commit d.round s.commitCount) s).serves.trans (commitMessage_serves ..)

theorem roundBegun_rim (d : RimDecision) (s : State) : (roundBegun d s).rim = s.rim.anew := congrArg Rim.anew (commitSent_rim d s)

theorem roundBegun_serves (d : RimDecision) (s : State) : Serves s (roundBegun d s) :=
  (commitSent_serves d s).trans (serves_of_rim rfl rfl)

theorem actCommit_serves (d : RimDecision) (s : State) : Serves s (actCommit d s) := by
  rw [actCommit_eq]
  split
  · exact roundBegun_serves ..
  · exact (roundBegun_serves ..).trans (decideDomain_serves ..)

/-! ### What waits for the deputy -/

theorem release_none {s : State} (none : s.rim.unacked = none) : release s = s := by
  unfold release
  rw [none]

theorem release_some {s : State} {d : RimDecision} (some : s.rim.unacked = some d) : release s =
    if d.code = 0 then actCommit d { s with rim := { s.rim with unacked := none } }
    else actOn d { s with rim := { s.rim with unacked := none } } := by
  unfold release
  rw [some]

theorem release_serves (s : State) : Serves s (release s) := by
  cases waits : s.rim.unacked with
  | none =>
    rw [release_none waits]
    exact .refl s
  | some d =>
    rw [release_some waits]
    split
    · exact (actCommit_serves ..).afterRim rfl rfl
    · exact (actOn_serves ..).afterRim rfl rfl

end Sys2Proof.Machine
end

section
/-! PROOFS. Losses (R253, R257, R267, R276): a seat that is declared lost, what the rim decides for the domain, and the refusal of its
device. -/

namespace Sys2Proof.Machine

/-! ### A loss is traced -/

/-- The state once a loss has been traced. -/
def lossTraced (seat : Nat) (s : State) : State := trace tCLUSTER 2 0x14 0xFFFF [seat, 0, s.tns.round.toNat] s

theorem lossTraced_parts (seat : Nat) (s : State) : ∃ trc lnk out, lossTraced seat s = { s with trc := trc, lnk := lnk, out := out } :=
  trace_parts ..

theorem lossTraced_wire (seat : Nat) (s : State) : (lossTraced seat s).wire = s.wire := untouched_wire.trace ..

/-- A decision does not depend on what the trace has noted. -/
theorem decisionOf_traced (s : State) (trc : Trc) (lnk : Lnk) (out : Outside) (failed : Bool) :
    State.decisionOf { s with trc := trc, lnk := lnk, out := out } failed = s.decisionOf failed := by
  have choose : State.choose { s with trc := trc, lnk := lnk, out := out } failed = s.choose failed := rfl
  have peer : State.sourcePeer { s with trc := trc, lnk := lnk, out := out } = s.sourcePeer := rfl
  have pairs (code : Nat) (l pool : List Nat) :
      State.pairUp { s with trc := trc, lnk := lnk, out := out } code l pool = s.pairUp code l pool := by
    induction l generalizing pool with
    | nil => rfl
    | cons f l ih =>
      unfold State.pairUp
      dsimp only
      rw [ih, peer]
  unfold State.decisionOf
  rw [choose, peer]
  dsimp only
  rw [pairs]
  rfl

/-! ### A seat that is declared lost -/

/-- A training seat that is empty from now on, its device refused. -/
def State.vacated (seat : Nat) (m : Member) (s : State) : State :=
  { s with rim := { s.rim with seats := tinsert s.rim.seats seat { m with lost := true, deviceId := 0 },
                               retired := s.rim.retired ++ [m.deviceId] } }

/-- A loss of the round. -/
def State.withLoss (seat : Nat) (s : State) : State := { s with rim := { s.rim with losses := sinsert s.rim.losses seat } }

/-- A loss of the round that begins. -/
def State.withLate (seat : Nat) (s : State) : State := { s with rim := { s.rim with late := sinsert s.rim.late seat } }

/-- Whether the deputy has a commit decision that it has not acknowledged, and whether the domain is halted. -/
def State.committing (s : State) : Bool := match s.rim.unacked with | some d => d.code == 0 | none => false
def State.isHalted (s : State) : Bool := match s.rim.decision with | some d => d.code == 4 | none => false

/-- What the rim does with a training seat's loss. -/
def takeLoss (seat : Nat) (s : State) : State :=
  if s.committing then s.withLate seat else if s.isHalted then s.withLoss seat else decideDomain false (s.withLoss seat)

/-- Without a deputy what waits for it goes on. -/
def goOn (s : State) : State :=
  match s.deputySeat with
  | some _ => s
  | none => release s

section
variable {seat : Nat} {m : Member} {s : State} (here : s.member seat = some m) (live : m.lost = false)
include here live

theorem declareLost_standby (standby : m.standby = true) : declareLost seat s = { lossTraced seat s with
    rim := { (lossTraced seat s).rim with
      seats := terase (lossTraced seat s).rim.seats seat, retired := (lossTraced seat s).rim.retired ++ [m.deviceId] } } := by
  unfold declareLost
  rw [here]
  dsimp only
  rw [if_neg (by simp [live]), if_pos standby]
  rfl

theorem declareLost_training (training : m.standby = false) :
    declareLost seat s = goOn (takeLoss seat ((lossTraced seat s).vacated seat m)) := by
  unfold declareLost
  rw [here]
  dsimp only
  rw [if_neg (by simp [live]), if_neg (by simp [training])]
  rfl

end

theorem takeLoss_serves (seat : Nat) (s : State) : Serves s (takeLoss seat s) := by
  unfold takeLoss
  split
  · exact serves_of_rim rfl rfl
  · split
    · exact serves_of_rim rfl rfl
    · exact (decideDomain_serves false (s.withLoss seat)).afterRim rfl rfl

theorem goOn_serves (s : State) : Serves s (goOn s) := by
  unfold goOn
  split
  · exact .refl s
  · exact release_serves s

/-- The device of a seat that is lost is refused from then on (R253). -/
theorem declareLost_retired {seat : Nat} {m : Member} {s : State} (here : s.member seat = some m) (live : m.lost = false) :
    (declareLost seat s).rim.retired = s.rim.retired ++ [m.deviceId] := by
  obtain ⟨_, _, _, traced⟩ := lossTraced_parts seat s
  cases standby : m.standby
  · rw [declareLost_training here live standby, ((takeLoss_serves ..).trans (goOn_serves ..)).retired, traced]
    rfl
  · rw [declareLost_standby here live standby, traced]

/-! ### The decision that follows (R267, R276) -/

theorem goOn_deputy {s : State} {x : Nat} (deputy : s.deputySeat = some x) : goOn s = s := by
  unfold goOn
  rw [deputy]

theorem goOn_idle {s : State} (none : s.rim.unacked = none) : goOn s = s := by
  unfold goOn
  split
  · rfl
  · exact release_none none

theorem takeLoss_committing {s : State} {c : RimDecision} (waits : s.rim.unacked = some c) (commit : c.code = 0) (seat : Nat) :
    takeLoss seat s = s.withLate seat := by
  refine if_pos ?_
  unfold State.committing
  rw [waits]
  exact beq_iff_eq.mpr commit

theorem takeLoss_decides {s : State} (none : s.rim.unacked = none) (runs : ∀ c, s.rim.decision = some c → c.code ≠ 4) (seat : Nat) :
    takeLoss seat s = propose ((s.withLoss seat).decisionOf false) (s.withLoss seat) := by
  have quiet : s.committing = false := by
    unfold State.committing
    rw [none]
  have free : s.isHalted = false := by
    unfold State.isHalted
    split
    · rename_i c decided
      exact beq_eq_false_iff_ne.mpr (runs c decided)
    · rfl
  unfold takeLoss
  rw [quiet, free]
  rfl

/-- The seats for which a decision has standbys are those that are vacant. -/
theorem pairUp_seats (s : State) (code : Nat) (l pool : List Nat) : (s.pairUp code l pool).map (·.1) = l := by
  induction l generalizing pool with
  | nil => rfl
  | cons f l ih =>
    unfold State.pairUp
    exact congrArg (f :: ·) (ih _)

/-- A decision names each lost seat that is vacant. -/
theorem vacant_named {s : State} {seat : Nat} (vacant : seat ∈ s.vacant) (failed : Bool) :
    seat ∈ (s.decisionOf failed).pairs.map (·.1) := by
  unfold State.decisionOf
  dsimp only
  split
  · rw [List.map_map]
    exact List.mem_map.mpr ⟨seat, (List.mem_filter.mp vacant).1, rfl⟩
  · rw [List.map_append, pairUp_seats]
    exact List.mem_append_left _ vacant

/-- A seat that is declared lost is vacant. -/
theorem withLoss_vacant (seat : Nat) (m : Member) (s : State) : seat ∈ ((s.vacated seat m).withLoss seat).vacant := by
  refine List.mem_filter.mpr ⟨(mem_sinsert ..).mpr (.inl rfl), ?_⟩
  have lost : ((s.vacated seat m).withLoss seat).member seat = some { m with lost := true, deviceId := 0 } := tfind_tinsert_self ..
  rw [lost]

/-- A vacant seat but the rim's own is told of the decision. -/
theorem vacant_told {s : State} {seat : Nat} (vacant : seat ∈ s.vacant) (other : seat ≠ s.tim.seat) (failed : Bool) :
    seat ∈ s.others ++ s.toldLost (s.decisionOf failed) := by
  by_cases live : seat ∈ s.others
  · exact List.mem_append_left _ live
  · exact List.mem_append_right _ (List.mem_filter.mpr ⟨vacant_named vacant failed, by simp [live, other]⟩)

section
variable {seat : Nat} {m : Member} {s : State} (here : s.member seat = some m) (live : m.lost = false) (training : m.standby = false)
include here live training

/-- With a decision to commit on its way to the deputy the loss belongs to the next round. -/
theorem declareLost_late {x : Nat} {c : RimDecision} (deputy : (s.vacated seat m).deputySeat = some x) (waits : s.rim.unacked = some c)
    (commit : c.code = 0) : (declareLost seat s).rim = ((s.vacated seat m).withLate seat).rim := by
  obtain ⟨trc, lnk, out, traced⟩ := lossTraced_parts seat s
  have late := takeLoss_committing (s := State.vacated seat m { s with trc := trc, lnk := lnk, out := out }) waits commit seat
  have stays := goOn_deputy (s := State.withLate seat (State.vacated seat m { s with trc := trc, lnk := lnk, out := out })) deputy
  rw [declareLost_training here live training, traced, late, stays]
  rfl

section
variable (idle : s.rim.unacked = none) (runs : ∀ c, s.rim.decision = some c → c.code ≠ 4)
include idle runs

/-- Else the rim decides for the domain. -/
theorem declareLost_decides : declareLost seat s = goOn (propose (((s.vacated seat m).withLoss seat).decisionOf false)
    (((lossTraced seat s).vacated seat m).withLoss seat)) := by
  obtain ⟨trc, lnk, out, traced⟩ := lossTraced_parts seat s
  rw [declareLost_training here live training, traced]
  have decided := takeLoss_decides (s := State.vacated seat m { s with trc := trc, lnk := lnk, out := out }) idle runs seat
  rw [decided]
  exact congrArg (fun d => goOn (propose d _)) (decisionOf_traced ((s.vacated seat m).withLoss seat) trc lnk out false)

theorem declareLost_deputy {x : Nat} (deputy : (s.vacated seat m).deputySeat = some x) :
    (declareLost seat s).rim = { ((s.vacated seat m).withLoss seat).rim with
        unacked := some (((s.vacated seat m).withLoss seat).decisionOf false) } ∧
      (declareLost seat s).told = s.told ++ if s.linked then
        [.toDeputy (((s.vacated seat m).withLoss seat).decisionOf false)] else [] := by
  have wire : (((lossTraced seat s).vacated seat m).withLoss seat).wire = s.wire := lossTraced_wire seat s
  have same : (((lossTraced seat s).vacated seat m).withLoss seat).deputySeat = some x ∧
      (((lossTraced seat s).vacated seat m).withLoss seat).rim = ((s.vacated seat m).withLoss seat).rim := by
    obtain ⟨trc, lnk, out, traced⟩ := lossTraced_parts seat s
    rw [traced]
    exact ⟨deputy, rfl⟩
  rw [declareLost_decides here live training idle runs]
  generalize ((s.vacated seat m).withLoss seat).decisionOf false = d
  generalize ((lossTraced seat s).vacated seat m).withLoss seat = u at wire same
  obtain ⟨deputy, rim⟩ := same
  have sent := sendControl_sends x (.toDeputy d) { u with rim := { u.rim with unacked := some d } }
  have after : (sendControl x (.toDeputy d) { u with rim := { u.rim with unacked := some d } }).deputySeat = some x := by
    unfold State.deputySeat
    rw [sent.rim, sent.tim]
    exact deputy
  rw [propose_deputy deputy, goOn_deputy after, ← rim]
  refine ⟨sent.rim, sent.told.trans ?_⟩
  show u.told ++ (if u.linked = true then _ else _) = _
  rw [told_of_wire wire, linked_of_ports (ports_of_wire wire)]
  rfl

theorem declareLost_alone (alone : (s.vacated seat m).deputySeat = none) :
    let d := ((s.vacated seat m).withLoss seat).decisionOf false
    (declareLost seat s).rim.decision = some d ∧ (declareLost seat s).rim.losses = sinsert s.rim.losses seat ∧
      (declareLost seat s).rim.late = s.rim.late ∧
      (s.linked = true → ∀ x ∈ ((s.vacated seat m).withLoss seat).others ++ ((s.vacated seat m).withLoss seat).toldLost d,
        (declareLost seat s).toldSeat x (.decision d)) := by
  have wire : (((lossTraced seat s).vacated seat m).withLoss seat).wire = s.wire := lossTraced_wire seat s
  have same : (((lossTraced seat s).vacated seat m).withLoss seat).deputySeat = none ∧
      (((lossTraced seat s).vacated seat m).withLoss seat).rim = ((s.vacated seat m).withLoss seat).rim ∧
      (((lossTraced seat s).vacated seat m).withLoss seat).tim = ((s.vacated seat m).withLoss seat).tim := by
    obtain ⟨trc, lnk, out, traced⟩ := lossTraced_parts seat s
    rw [traced]
    exact ⟨alone, rfl, rfl⟩
  rw [declareLost_decides here live training idle runs]
  generalize ((s.vacated seat m).withLoss seat).decisionOf false = d
  dsimp only
  generalize ((lossTraced seat s).vacated seat m).withLoss seat = u at wire same
  obtain ⟨alone, rim, tim⟩ := same
  obtain ⟨seats, forced, acted⟩ := actOn_rim d u
  have decided : (actOn d u).rim.unacked = none := by rw [acted]; rfl
  rw [propose_alone alone, goOn_idle decided, acted, rim]
  refine ⟨rfl, rfl, rfl, fun linked x mem => actOn_reaches d u ((linked_of_ports (ports_of_wire wire)).trans linked) ?_⟩
  have others : u.others = ((s.vacated seat m).withLoss seat).others := by
    unfold State.others
    rw [rim, tim]
  unfold State.toldLost at mem ⊢
  rw [others, tim]
  exact mem

end

end

/-! ### The missing answers -/

theorem exec_heartbeatMissed_third {seat : Nat} {m : Member} {s : State} (rim : s.isRim = true) (here : s.member seat = some m)
    (joined : m.joined = true) (third : 3 ≤ m.misses + if m.awaiting then 1 else 0) (lets : s.lets (heartbeatMissed seat)) :
    exec (.heartbeatMissed seat) s = .next (syncDeputy (declareLost seat s)) := by
  refine congrArg Host.Outcome.next ((unlessOver_lets lets).trans ?_)
  unfold heartbeatMissed
  rw [here]
  refine (if_pos ?_).trans (if_pos rim)
  simpa [joined, b2n] using third

theorem exec_heartbeatMissed_fewer {seat : Nat} {m : Member} {s : State} (here : s.member seat = some m)
    (fewer : m.misses + (if m.awaiting then 1 else 0) < 3) (room : s.mem.journalOver = false) :
    exec (.heartbeatMissed seat) s = .next s := by
  have e : heartbeatMissed seat s = s := by
    unfold heartbeatMissed
    rw [here]
    refine if_neg ?_
    rw [Bool.and_eq_true, decide_eq_true_eq, b2n]
    exact fun third => absurd third.2 (Nat.not_le.mpr fewer)
  refine congrArg Host.Outcome.next ((unlessOver_lets ⟨room, ?_⟩).trans e)
  rw [e]
  exact room

/-- Settles O41: what `declareLost` does with a standby, with a commit decision on its way, with a deputy and without one. -/
theorem lostSeatsAreRefused : Obligations.LostSeatsAreRefused := by
  intro seat m s rim here live
  have lost : seatLost seat s = syncDeputy (declareLost seat s) := if_pos rim
  have retired := declareLost_retired here live
  refine ⟨fun lets => ?_, exec_heartbeatMissed_third rim here, exec_heartbeatMissed_fewer here, fun standby => ?_, fun training => ?_,
    fun dom locked ports mac => ?_⟩
  · have e := (unlessOver_lets lets).trans lost
    exact ⟨congrArg Host.Outcome.next e, congrArg Host.Outcome.next e⟩
  · obtain ⟨_, _, _, traced⟩ := lossTraced_parts seat s
    rw [declareLost_standby here live standby, traced]
  · refine ⟨fun x deputy ⟨c, waits, commit⟩ => declareLost_late here live training deputy waits commit, fun idle runs =>
      ⟨fun x => declareLost_deputy here live training idle runs, fun alone => ?_⟩⟩
    obtain ⟨decision, losses, -, told⟩ := declareLost_alone here live training idle runs alone
    refine ⟨decision, losses, retired, fun linked => ⟨fun x mem => told linked x (List.mem_append_left _ mem), fun other => ?_⟩⟩
    exact told linked seat (vacant_told (withLoss_vacant seat m s) other false)
  · refine congrArg (fun s => Host.Outcome.next (syncDeputy s)) (acceptJoin_refused ports mac (.inr (.inr (.inr ?_))))
    rw [retired]
    exact List.mem_append_right _ List.mem_cons_self

end Sys2Proof.Machine
end

section
/-! PROOFS. Reports at the rim (R261, R263, R264, R273): what is noted, when the round commits, and the checkpoints that are kept. -/

namespace Sys2Proof.Machine

/-! ### A report that the rim accepts -/

/-- A report takes effect where no write of it is held back, and the deputy's copy follows. -/
theorem exec_report {r : Report} {s : State} (rim : s.isRim = true) (lets : s.lets fun s => syncDeputy (rimReport r s)) :
    exec (.report r) s = .next (syncDeputy (rimReport r s)) := by
  have e : (if s.isRim then syncDeputy (rimReport r s) else s) = syncDeputy (rimReport r s) := if_pos rim
  refine congrArg Host.Outcome.next ((unlessOver_lets ⟨lets.1, ?_⟩).trans e)
  rw [e]
  exact lets.2

theorem exec_report_kept {r : Report} {s t : State} (rim : s.isRim = true) (room : s.mem.journalOver = false) (e : rimReport r s = t)
    (kept : t.mem = s.mem) : exec (.report r) s = .next (syncDeputy t) := by
  rw [← e]
  refine exec_report rim ⟨room, ?_⟩
  rw [syncDeputy_mem, e, kept]
  exact room

/-- The state with a seat's entry replaced. -/
def State.withMember (k : Nat) (m : Member) (s : State) : State := { s with rim := { s.rim with seats := tinsert s.rim.seats k m } }

/-- What an UPDATED of the round leaves of a member's entry. -/
def Member.reported (m : Member) : Member :=
  { m with exchanged := true, updated := true, diverged := false, badReplay := false, badRound := false }

section
variable {r : Report} {m : Member} {s : State} (here : s.member r.seat = some m) (live : m.lost = false) (same : r.round = s.tns.round)
include here live same

theorem rimReport_exchanged (kind : r.kind = .exchanged) : rimReport r s = s.withMember r.seat { m with exchanged := true } := by
  unfold rimReport
  rw [here]
  dsimp only
  rw [if_neg (by simp [live]), kind]
  dsimp only
  rw [if_neg (by simp [same]), modMember_some here]
  rfl

theorem rimReport_updated (kind : r.kind = .updated) (agreed : r.diverged = false) (replayed : r.replayFailed = false) :
    rimReport r s = tryCommit (s.withMember r.seat m.reported) := by
  have right : decide (r.round ≠ s.tns.round) = false := by simp [same]
  unfold rimReport
  rw [here]
  dsimp only
  rw [if_neg (by simp [live]), kind]
  dsimp only
  rw [right, agreed, replayed, modMember_some here, if_neg (by decide)]
  simp only [Bool.not_false, Bool.or_true]
  rfl

omit same in
/-- A missed window counts for nothing where the round was stretched before its time (R261). -/
theorem rimReport_missed (kind : r.kind = .missed) {k : Nat} (stretched : s.rim.stretched = some k) (before : k < r.inst) :
    rimReport r s = s := by
  unfold rimReport
  rw [here]
  dsimp only
  rw [if_neg (by simp [live]), kind]
  exact if_pos (by simp [stretched, before])

end

/-! ### The commit decision (R264) -/

/-- The decision to commit the round. -/
def State.commitDecision (s : State) : RimDecision := { code := 0, round := s.tns.round, pairs := [] }

theorem tryCommit_waits {s : State} (waits : s.canCommit = false) : tryCommit s = s := if_pos (by simp [waits])

theorem tryCommit_deputy {s : State} {x : Nat} (all : s.canCommit = true) (deputy : s.deputySeat = some x) : tryCommit s =
    sendControl x (.toDeputy s.commitDecision) { s with rim := { s.rim with unacked := some s.commitDecision } } := by
  unfold tryCommit
  rw [if_neg (by simp [all])]
  dsimp only
  rw [deputy]
  rfl

theorem tryCommit_alone {s : State} (all : s.canCommit = true) (alone : s.deputySeat = none) : tryCommit s = actCommit s.commitDecision s := by
  unfold tryCommit
  rw [if_neg (by simp [all])]
  dsimp only
  rw [alone]
  rfl

/-- With no loss that belongs to the next round, the commit ends there. -/
theorem actCommit_timely {s : State} (timely : s.rim.late = []) (d : RimDecision) : actCommit d s = roundBegun d s := by
  rw [actCommit_eq, commitSent_rim, timely]
  rfl

/-- The round advances where the rim's own device is a member of it. -/
theorem roundBegun_round {d : RimDecision} {s : State} (powered : s.powered = true) (member : s.tim.domain = .member)
    (same : d.round = s.tns.round) : (roundBegun d s).tns.round = s.tns.round + 1 := by
  have sent := sendSeats_sends (.commit d.round s.commitCount) s
  have powered : (sendSeats (.commit d.round s.commitCount) s).powered = true := by
    unfold State.powered at powered ⊢
    rw [sent.pins]
    exact powered
  have e := commitMessage_eq powered (sent.tim.symm ▸ member) (same.trans (sent.tns.symm ▸ rfl)) s.commitCount
  show (commitSent d s).tns.round = _
  unfold commitSent
  rw [e]
  refine (committed_round ..).trans ?_
  rw [sent.tns]

/-- The ranks and the seats of a round that begins name the deputy that they named. -/
theorem deputySeat_roundBegun (d : RimDecision) (s : State) : (roundBegun d s).deputySeat = s.deputySeat := by
  have seat : (roundBegun d s).tim.seat = s.tim.seat := by
    refine (commitMessage_seat ..).trans ?_
    rw [(sendSeats_sends ..).tim]
  unfold State.deputySeat
  rw [roundBegun_rim, seat]
  unfold Rim.anew
  rw [List.foldl_map]
  rfl

/-- What the rim has told when the round begins. -/
theorem roundBegun_told (d : RimDecision) (s : State) (linked : s.linked = true) :
    (roundBegun d s).told = s.told ++ List.replicate s.others.length (.commit d.round s.commitCount) ∧
      ∀ x ∈ s.others, (roundBegun d s).toldSeat x (.commit d.round s.commitCount) := by
  have sent := sendSeats_sends (.commit d.round s.commitCount) s
  have wire : (roundBegun d s).wire = (sendSeats (.commit d.round s.commitCount) s).wire := commitMessage_wire ..
  refine ⟨?_, fun x mem => toldSeat_of_prefix (prefix_of_wire wire) (sent.reach linked _ (List.mem_map_of_mem mem))⟩
  rw [told_of_wire wire, sent.told, if_pos linked, List.map_map]
  exact congrArg (s.told ++ ·) (List.map_const' ..)

/-- The rim commits: every report is in, there is no deputy to ask, and no loss is left to the next round. -/
theorem commits_alone {s : State} (powered : s.powered = true) (member : s.tim.domain = .member) (all : s.canCommit = true)
    (alone : s.deputySeat = none) (timely : s.rim.late = []) :
    (syncDeputy (tryCommit s)).tns.round = s.tns.round + 1 ∧ (syncDeputy (tryCommit s)).rim = s.rim.anew ∧
      (s.linked = true → ∃ n, (syncDeputy (tryCommit s)).told = s.told ++ List.replicate s.others.length (.commit s.tns.round n) ∧
        ∀ x ∈ s.others, (syncDeputy (tryCommit s)).toldSeat x (.commit s.tns.round n)) := by
  rw [tryCommit_alone all alone, actCommit_timely timely, syncDeputy_alone ((deputySeat_roundBegun ..).trans alone)]
  exact ⟨roundBegun_round powered member rfl, roundBegun_rim .., fun linked => ⟨_, roundBegun_told _ s linked⟩⟩

/-! ### Checkpoints (R273) -/

/-- A seat's checkpoints with one more, of which the last four are kept. -/
def keepCheckpoint (round : Nat) (l : List Nat) : List Nat :=
  (l.filter (fun r => r ≠ round) ++ [round]).drop ((l.filter (fun r => r ≠ round) ++ [round]).length - 4)

theorem keepCheckpoint_four (round : Nat) (l : List Nat) : (keepCheckpoint round l).length ≤ 4 := by
  unfold keepCheckpoint
  rw [List.length_drop]
  omega

theorem keepCheckpoint_last (round : Nat) (l : List Nat) : (keepCheckpoint round l).getLast? = some round := by
  unfold keepCheckpoint
  rw [List.getLast?_drop, if_neg (by rw [List.length_append]; simp only [List.length_cons, List.length_nil]; omega), List.getLast?_concat]

theorem exec_ckptDoneReport {seat : Nat} {m : Member} {s : State} (rim : s.isRim = true) (here : s.member seat = some m) (round : BitVec 32) :
    ∃ t, exec (.ckptDoneReport seat round) s = .next t ∧ t.member seat = some { m with ckpts := keepCheckpoint round.toNat m.ckpts } := by
  refine ⟨_, congrArg Host.Outcome.next (if_pos rim), ?_⟩
  rw [syncDeputy_member]
  exact member_modMember_self here _

/-- Settles O43: EXCHANGED, UPDATED, a missed window and a checkpoint, each by the lemma that says what it leaves. -/
theorem reportsAreCounted : Obligations.ReportsAreCounted := by
  intro r m s rim here live same room
  have powered : s.powered = true := by
    unfold State.isRim at rim
    simp only [Bool.and_eq_true] at rim
    exact rim.1.1
  refine ⟨fun kind => ?_, fun kind agreed replayed => ?_, fun kind k stretched before => ?_, ?_⟩
  · exact exec_report_kept rim room (rimReport_exchanged here live same kind) rfl
  · have e := rimReport_updated here live same kind agreed replayed
    refine ⟨fun waits => ?_, fun all deputy => ?_, fun all alone member timely lets => ?_⟩
    · exact exec_report_kept rim room (e.trans (tryCommit_waits waits)) rfl
    · obtain ⟨x, deputy⟩ := Option.ne_none_iff_exists'.mp deputy
      have committing := tryCommit_deputy (s := s.withMember r.seat m.reported) all deputy
      have sent := sendControl_sends x (.toDeputy (s.withMember r.seat m.reported).commitDecision)
        { s.withMember r.seat m.reported with rim := { (s.withMember r.seat m.reported).rim with
          unacked := some (s.withMember r.seat m.reported).commitDecision } }
      refine ⟨_, exec_report_kept rim room (e.trans committing) sent.mem, ?_, ?_⟩
      · exact (congrArg Rim.unacked (syncDeputy_unsent _) :).trans (congrArg Rim.unacked sent.rim)
      · rw [syncDeputy_tns, sent.tns]
        rfl
    · obtain ⟨round, table, told⟩ := commits_alone (s := s.withMember r.seat m.reported) powered member all alone timely
      rw [← e] at round table told
      refine ⟨_, exec_report rim lets, round, ?_, ?_, ?_, fun entry mem => ?_, told⟩
      · rw [table]
        exact timely
      · rw [table]
        rfl
      · rw [table]
        rfl
      · rw [table] at mem
        obtain ⟨old, -, rfl⟩ := List.mem_map.mp mem
        exact ⟨rfl, rfl⟩
  · exact exec_report_kept rim room (rimReport_missed here live kind stretched before) rfl
  · obtain ⟨t, e, kept⟩ := exec_ckptDoneReport rim here r.round
    exact ⟨t, _, e, kept, keepCheckpoint_four .., keepCheckpoint_last ..⟩

end Sys2Proof.Machine
end

section
/-! PROOFS. The deputy (R267, R276, R277): what it has acknowledged is acted on, a FORWARD's time limit, and the rim's loss. -/

namespace Sys2Proof.Machine

/-! ### What the deputy has acknowledged -/

theorem exec_acknowledge {s : State} (rim : s.isRim = true) (lets : s.lets fun s => syncDeputy (release s)) :
    exec .deputyAcknowledge s = .next (syncDeputy (release s)) := by
  have e : (if s.isRim then syncDeputy (release s) else s) = syncDeputy (release s) := if_pos rim
  refine congrArg Host.Outcome.next ((unlessOver_lets ⟨lets.1, ?_⟩).trans e)
  rw [e]
  exact lets.2

theorem exec_acknowledge_idle {s : State} (rim : s.isRim = true) (idle : s.rim.unacked = none) (room : s.mem.journalOver = false) :
    exec .deputyAcknowledge s = .next (syncDeputy s) := by
  have e := release_none idle
  refine (exec_acknowledge rim ⟨room, ?_⟩).trans (by rw [e])
  show (syncDeputy (release s)).mem.journalOver = false
  rw [e, syncDeputy_mem]
  exact room

theorem exec_acknowledge_acts {s : State} {d : RimDecision} (rim : s.isRim = true) (waits : s.rim.unacked = some d) (other : d.code ≠ 0)
    (lets : s.lets fun s => syncDeputy (release s)) : ∃ t, exec .deputyAcknowledge s = .next t ∧
      t.rim.decision = some d ∧ t.rim.unacked = none ∧ t.rim.decidedAt = s.tim.now ∧ t.tns.round = s.tns.round ∧
      (s.linked = true → ∀ x ∈ s.others, t.toldSeat x (.decision d)) := by
  have e : release s = actOn d { s with rim := { s.rim with unacked := none } } := (release_some waits).trans (if_neg other)
  obtain ⟨seats, forced, table⟩ := actOn_rim d { s with rim := { s.rim with unacked := none } }
  have round := actOn_round d { s with rim := { s.rim with unacked := none } }
  have told (linked : s.linked = true) (x : Nat) (mem : x ∈ s.others) :=
    actOn_reaches d { s with rim := { s.rim with unacked := none } } linked (List.mem_append_left _ mem)
  rw [← e] at table round told
  have unsent := (syncDeputy_unsent (release s)).trans (congrArg Rim.unsent table)
  refine ⟨_, exec_acknowledge rim lets, (congrArg Rim.decision unsent :), (congrArg Rim.unacked unsent :), (congrArg Rim.decidedAt unsent :),
    ?_, fun linked x mem => toldSeat_of_prefix (syncDeputy_prefix _) (told linked x mem)⟩
  rw [syncDeputy_tns, round]

/-! ### A FORWARD's time limit -/

/-- A round that cannot commit is gone back to, restored or halted. -/
theorem choose_failed (s : State) : s.choose true = 2 ∨ s.choose true = 3 ∨ s.choose true = 4 := by
  unfold State.choose
  dsimp only
  split
  · exact .inr (.inr rfl)
  · split
    · exact .inr (.inl rfl)
    · exact .inl rfl

section
variable {s : State} {d : RimDecision} (rim : s.isRim = true) (decided : s.rim.decision = some d) (forward : d.code = 1)
include rim decided forward

theorem exec_takeoverLimit_past (past : s.rim.decidedAt + s.tim.policy.takeover * 1000000 < s.tim.now) :
    exec .takeoverLimit s = .next (syncDeputy (decideDomain true s)) := by
  show execTakeoverLimit s = _
  unfold execTakeoverLimit
  rw [decided]
  exact congrArg Host.Outcome.next (if_pos (by simp [rim, forward, past]))

omit rim forward in
theorem exec_takeoverLimit_before (before : s.tim.now ≤ s.rim.decidedAt + s.tim.policy.takeover * 1000000) :
    exec .takeoverLimit s = .next s := by
  show execTakeoverLimit s = _
  unfold execTakeoverLimit
  rw [decided]
  exact congrArg Host.Outcome.next (if_neg (by simp; omega))

end

/-! ### The deputy becomes the rim (R277) -/

/-- What the deputy holds of the rim's state, or nothing. -/
def State.heldCopy (s : State) : RimCopy :=
  s.tim.copy.getD { seats := [], groups := [], losses := [], decision := none, rimSeat := s.tim.rimSeat }

/-- The deputy in the rim's place, with the table that it holds. -/
def State.inPlace (s : State) : State :=
  { s with tim := { s.tim with role := .rim, deputy := false, rimSeat := s.tim.seat, copy := none, macs := copyMacs s.heldCopy },
           rim := rimOf s.heldCopy }

theorem masterPorts_eq (s : State) : masterPorts s = takePtp (fun _ => 1) (List.range 12) s := rfl

/-- The new rim before it acts: its ports are MASTER, and RIM_CHANGE is set. -/
def tookPlace (s : State) : State := masterPorts (raiseTim 3 s.inPlace)

theorem becomeRim_eq {s : State} (powered : s.powered = true)
    (bound : s.tim.domain = .member ∨ s.tim.domain = .standby ∨ s.tim.domain = .halted) (deputy : s.tim.deputy = true)
    (lost : s.tim.lastHb + 3 * s.tim.policy.hbPeriod * 1000 ≤ s.tim.now) : becomeRim s =
      declareLost s.heldCopy.rimSeat (sendSeats .askReports (sendHeld s.heldCopy (tookPlace s))) := by
  refine if_neg ?_
  rcases bound with domain | domain | domain <;> simp [powered, domain, deputy, lost]

theorem tookPlace_parts (s : State) : ∃ (ports : Tab Port) (lnk : Lnk) (ms : List Nat), tookPlace s = { s.inPlace with
    tim := { s.inPlace.tim with status := s.tim.status.raise 3 }, lnk := { lnk with ports := ports }, out := { s.out with messages := ms } } := by
  unfold tookPlace
  obtain ⟨ports, e⟩ := takePtp_parts (fun _ => 1) (List.range 12) (raiseTim 3 s.inPlace)
  obtain ⟨lnk, ms, e'⟩ := raiseTim_parts 3 s.inPlace
  rw [masterPorts_eq, e, e']
  exact ⟨ports, lnk, ms, rfl⟩

theorem tookPlace_ptp (s : State) {p : Nat} (port : p < 12) : ((tookPlace s).port p).ptp = 1 :=
  takePtp_ptp (fun _ => 1) (List.range 12) (raiseTim 3 s.inPlace) (List.mem_range.mpr port)

theorem sendHeld_serves (c : RimCopy) (s : State) : Serves s (sendHeld c s) := by
  unfold sendHeld
  split
  · split
    · exact actCommit_serves ..
    · exact actOn_serves ..
  · exact (sendDecision_sends ..).serves.trans (applyDecision_serves (decisionAbout_kept ..) _)
  · exact .refl s

theorem sendHeld_none {c : RimCopy} (undecided : c.decision = none) (idle : c.unacked = none) (s : State) : sendHeld c s = s := by
  unfold sendHeld
  rw [idle, undecided]

/-- The loss of a seat that nothing is, or that is lost already, changes nothing. -/
theorem declareLost_absent {seat : Nat} {s : State} (absent : s.member seat = none) : declareLost seat s = s := by
  unfold declareLost
  rw [absent]

theorem declareLost_again {seat : Nat} {m : Member} {s : State} (here : s.member seat = some m) (lost : m.lost = true) :
    declareLost seat s = s := by
  unfold declareLost
  rw [here]
  exact if_pos lost

/-- A loss leaves to the rim what `Serves` says, but that one more device may be refused. -/
theorem declareLost_serves (seat : Nat) (s : State) : ∃ retired, Serves { s with rim := { s.rim with retired := retired } } (declareLost seat s) := by
  have same : Serves { s with rim := { s.rim with retired := s.rim.retired } } s := .refl s
  cases here : s.member seat with
  | none =>
    refine ⟨s.rim.retired, ?_⟩
    rw [declareLost_absent here]
    exact same
  | some m =>
    cases lost : m.lost
    · have traced (r : Rim) (groups : r.groups = s.rim.groups) (retired : r.retired = s.rim.retired ++ [m.deviceId]) :
          Serves { s with rim := { s.rim with retired := s.rim.retired ++ [m.deviceId] } } { lossTraced seat s with rim := r } := by
        have wire := lossTraced_wire seat s
        have tim : (lossTraced seat s).tim = s.tim := trace_tim ..
        exact ⟨ports_of_wire wire, prefix_of_wire wire, congrArg Tim.role tim, congrArg Tim.now tim, congrArg Tim.deputy tim,
          fun b set => tim.symm ▸ set, groups, retired⟩
      obtain ⟨_, _, _, e⟩ := lossTraced_parts seat s
      refine ⟨s.rim.retired ++ [m.deviceId], ?_⟩
      cases standby : m.standby
      · rw [declareLost_training here lost standby]
        refine .trans (traced _ ?_ ?_) ((takeLoss_serves ..).trans (goOn_serves ..)) <;> rw [e]
      · rw [declareLost_standby here lost standby]
        refine traced _ ?_ ?_ <;> rw [e]
    · refine ⟨s.rim.retired, ?_⟩
      rw [declareLost_again here lost]
      exact same

theorem syncDeputy_serves (s : State) : Serves s (syncDeputy s) := by
  obtain ⟨_, _, -, h⟩ := syncDeputy_sends s
  exact h.serves.afterRim rfl rfl

section
variable {seat : Nat} {m : Member} {s : State} (idle : s.rim.unacked = none) (undecided : s.rim.decision = none)
include idle undecided

/-- A training seat that is lost before any decision is a loss of the round, not of the next one. -/
theorem declareLost_undecided (here : s.member seat = some m) (live : m.lost = false) (training : m.standby = false) :
    (declareLost seat s).rim.losses = sinsert s.rim.losses seat ∧ (declareLost seat s).rim.late = s.rim.late := by
  have runs (c : RimDecision) (decided : s.rim.decision = some c) : c.code ≠ 4 := by rw [undecided] at decided; contradiction
  cases deputy : (s.vacated seat m).deputySeat with
  | some x =>
    rw [(declareLost_deputy here live training idle runs deputy).1]
    exact ⟨rfl, rfl⟩
  | none =>
    obtain ⟨-, losses, late, -⟩ := declareLost_alone here live training idle runs deputy
    exact ⟨losses, late⟩

theorem declareLost_keepsLate : (declareLost seat s).rim.late = s.rim.late := by
  cases here : s.member seat with
  | none => rw [declareLost_absent here]
  | some m =>
    cases live : m.lost with
    | true => rw [declareLost_again here live]
    | false =>
      cases standby : m.standby with
      | false => exact (declareLost_undecided idle undecided here live standby).2
      | true =>
        obtain ⟨_, _, _, traced⟩ := lossTraced_parts seat s
        rw [declareLost_standby here live standby, traced]

end

theorem exec_rimHeartbeatMissed_third {s : State} {missed : Nat} (lets : s.lets fun s => syncDeputy (becomeRim s)) (third : 3 ≤ missed) :
    exec (.rimHeartbeatMissed missed) s = .next (syncDeputy (becomeRim s)) :=
  congrArg Host.Outcome.next ((if_neg (Nat.not_lt.mpr third)).trans (unlessOver_lets lets))

section
variable {s : State} (powered : s.powered = true)
  (bound : s.tim.domain = .member ∨ s.tim.domain = .standby ∨ s.tim.domain = .halted) (deputy : s.tim.deputy = true)
  (lost : s.tim.lastHb + 3 * s.tim.policy.hbPeriod * 1000 ≤ s.tim.now)
include powered bound deputy lost

/-- The deputy is the rim from then on, with RIM_CHANGE set and its ports MASTER. -/
theorem becomeRim_takes : (syncDeputy (becomeRim s)).tim.role = .rim ∧ (syncDeputy (becomeRim s)).tim.deputy = false ∧
    (syncDeputy (becomeRim s)).tim.now = s.tim.now ∧ (syncDeputy (becomeRim s)).tim.status.bits.getLsbD 3 = true ∧
    ∀ p, p < 12 → ((syncDeputy (becomeRim s)).port p).ptp = 1 := by
  rw [becomeRim_eq powered bound deputy lost]
  have asked : Serves (tookPlace s) (sendSeats .askReports (sendHeld s.heldCopy (tookPlace s))) :=
    (sendHeld_serves _ _).trans (sendSeats_sends ..).serves
  generalize sendSeats .askReports (sendHeld s.heldCopy (tookPlace s)) = u at asked
  obtain ⟨retired, ended⟩ := declareLost_serves s.heldCopy.rimSeat u
  replace ended := ended.trans (syncDeputy_serves _)
  obtain ⟨ports, lnk, ms, parts⟩ := tookPlace_parts s
  have role : (tookPlace s).tim.role = .rim := by rw [parts]; rfl
  have rank : (tookPlace s).tim.deputy = false := by rw [parts]; rfl
  have now : (tookPlace s).tim.now = s.tim.now := by rw [parts]; rfl
  have status : (tookPlace s).tim.status.bits.getLsbD 3 = true := by rw [parts]; exact Status.raise_bit _ (by decide)
  refine ⟨ended.role.trans (asked.role.trans role), ended.deputy.trans (asked.deputy.trans rank),
    ended.now.trans (asked.now.trans now), ended.status 3 (asked.status 3 status), fun p port => ?_⟩
  rw [port_of_ports ended.ports]
  exact (congrArg Port.ptp (port_of_ports asked.ports p)).trans (tookPlace_ptp s port)

/-- From a copy without a decision the new rim asks for the round's reports and declares the old rim lost. -/
theorem becomeRim_from {c : RimCopy} (copy : s.tim.copy = some c) (undecided : c.decision = none) (idle : c.unacked = none) :
    ∃ u : State, becomeRim s = declareLost c.rimSeat u ∧ u.rim = rimOf c := by
  have held : s.heldCopy = c := by unfold State.heldCopy; rw [copy]; rfl
  obtain ⟨ports, lnk, ms, parts⟩ := tookPlace_parts s
  have rim : (tookPlace s).rim = rimOf c := by
    rw [parts]
    show rimOf s.heldCopy = _
    rw [held]
  refine ⟨sendSeats .askReports (tookPlace s), ?_, (sendSeats_sends ..).rim.trans rim⟩
  rw [becomeRim_eq powered bound deputy lost, held, sendHeld_none undecided idle]

end

theorem exec_rimHeartbeatMissed_fewer {missed : Nat} (s : State) (fewer : missed < 3) : exec (.rimHeartbeatMissed missed) s = .next s :=
  congrArg Host.Outcome.next (if_pos fewer)

/-- What the new rim has of the old one's table, once it has declared the old rim lost and has told its own deputy. -/
theorem syncDeputy_declareLost_rimOf {c : RimCopy} {u : State} (rim : u.rim = rimOf c) (undecided : c.decision = none) :
    let t := syncDeputy (declareLost c.rimSeat u)
    t.rim.groups = c.groups ∧ t.rim.late = c.late ∧
      (tfind (copyTable c) c.rimSeat = none → t.rim.losses = c.losses ∧ t.rim.backs = c.backs ∧ t.rim.retired = c.retired ∧
        t.rim.stretched = c.storm) ∧
      ∀ m, tfind (copyTable c) c.rimSeat = some m → m.standby = false → m.lost = false →
        t.rim.losses = sinsert c.losses c.rimSeat ∧ t.rim.retired = c.retired ++ [m.deviceId] := by
  have seat : u.member c.rimSeat = tfind (copyTable c) c.rimSeat := congrArg (fun r : Rim => tfind r.seats c.rimSeat) rim
  have unsettled : u.rim.decision = none := by rw [rim]; exact undecided
  have idle : u.rim.unacked = none := by rw [rim]; rfl
  have same := syncDeputy_unsent (declareLost c.rimSeat u)
  dsimp only
  generalize syncDeputy (declareLost c.rimSeat u) = t at same
  have groups : t.rim.groups = (declareLost c.rimSeat u).rim.groups := (congrArg Rim.groups same :)
  have late : t.rim.late = (declareLost c.rimSeat u).rim.late := (congrArg Rim.late same :)
  have losses : t.rim.losses = (declareLost c.rimSeat u).rim.losses := (congrArg Rim.losses same :)
  have retired : t.rim.retired = (declareLost c.rimSeat u).rim.retired := (congrArg Rim.retired same :)
  have backs : t.rim.backs = (declareLost c.rimSeat u).rim.backs := (congrArg Rim.backs same :)
  have stretched : t.rim.stretched = (declareLost c.rimSeat u).rim.stretched := (congrArg Rim.stretched same :)
  obtain ⟨_, lostSeat⟩ := declareLost_serves c.rimSeat u
  refine ⟨?_, ?_, fun absent => ?_, fun m here training live => ?_⟩
  · rw [groups, lostSeat.groups, rim]; rfl
  · rw [late, declareLost_keepsLate idle unsettled, rim]; rfl
  · rw [losses, backs, retired, stretched, declareLost_absent (seat.trans absent), rim]
    exact ⟨rfl, rfl, rfl, rfl⟩
  · have here := seat.trans here
    rw [losses, retired, (declareLost_undecided idle unsettled here live training).1, declareLost_retired here live, rim]
    exact ⟨rfl, rfl⟩

/-- Settles O44: the acknowledgement by what `release` does, the limit by its comparison, and the takeover by what holds before the
new rim acts and by what its messages and the loss keep. -/
theorem deputyAndTakeover : Obligations.DeputyAndTakeover := by
  intro missed s d
  refine ⟨exec_acknowledge_idle, exec_acknowledge_acts, fun rim decided forward => ⟨fun past => ?_, exec_takeoverLimit_before decided⟩,
    fun powered bound deputy lost lets third => ?_, exec_rimHeartbeatMissed_fewer s⟩
  · exact ⟨exec_takeoverLimit_past rim decided forward past, choose_failed s⟩
  · obtain ⟨role, rank, now, status, ports⟩ := becomeRim_takes powered bound deputy lost
    refine ⟨_, exec_rimHeartbeatMissed_third lets third, role, rank, now, status, ports,
      fun c copy undecided idle => ?_⟩
    obtain ⟨u, e, rim⟩ := becomeRim_from powered bound deputy lost copy undecided idle
    rw [e]
    exact syncDeputy_declareLost_rimOf rim undecided

end Sys2Proof.Machine
end
